-- ==== Sys2Proof/Word.lean ====
section
/-!
DEFINITION. The plain word types of the Caldaska model (spec 00 R8 to R10). Nothing here computes: the
bit-field, sign and byte-order helpers stand in Machine/Bits.lean.
-/

namespace Sys2Proof

/-- A 64-bit scalar word: s registers, system registers, stack entries. -/
abbrev Word := BitVec 64

/-- A byte of memory. -/
abbrev Byte := BitVec 8

/-- One 32-bit lane of a vector register (02 R48). -/
abbrev Lane := BitVec 32

/-- The 128 bits of a capability register (02 R44). -/
abbrev CapBits := BitVec 128

/-- One of two like things: CC context 0 or 1, half H0 or H1, bank A or B, engine L0 or L1; `false` is the first. -/
abbrev Side := Bool

end Sys2Proof
end

