-- ==== Sys2Proof/Machine/Table.lean ====
section
/-!
DEFINITION. Tables keyed by a number: register files, per-core and per-rink state, and memories. A table is a list
of key and value pairs with rising keys; what an unlisted key reads as is an argument of every read. Memories are
written with `setD`, which keeps no entry equal to the default, so that equal memories are equal lists.
-/

namespace Sys2Proof.Machine

/-- A table of values of type `α` keyed by `Nat`. -/
structure Table (α : Type) where
  cells : List (Nat × α)
  deriving DecidableEq, Repr

def lookupKey {α : Type} (d : α) (k : Nat) : List (Nat × α) → α
  | [] => d
  | c :: cs => if c.1 = k then c.2 else lookupKey d k cs

def insertKey {α : Type} (k : Nat) (v : α) : List (Nat × α) → List (Nat × α)
  | [] => [(k, v)]
  | c :: cs =>
    if c.1 = k then (k, v) :: cs
    else if k < c.1 then (k, v) :: c :: cs
    else c :: insertKey k v cs

def eraseKey {α : Type} (k : Nat) : List (Nat × α) → List (Nat × α)
  | [] => []
  | c :: cs => if c.1 = k then eraseKey k cs else c :: eraseKey k cs

/-- Keys strictly rising from `lo` on. -/
def risingFrom {α : Type} (lo : Nat) : List (Nat × α) → Bool
  | [] => true
  | c :: cs => decide (lo ≤ c.1) && risingFrom (c.1 + 1) cs

def noDefault {α : Type} [DecidableEq α] (d : α) : List (Nat × α) → Bool
  | [] => true
  | c :: cs => decide (c.2 ≠ d) && noDefault d cs

namespace Table

/-- The table that lists nothing. -/
def empty {α : Type} : Table α := ⟨[]⟩

/-- The table that lists keys `0` to `n - 1`, all with value `v`. -/
def fill {α : Type} (n : Nat) (v : α) : Table α := ⟨(List.range n).map fun i => (i, v)⟩

/-- The table of a list's values at keys from 0. -/
def ofList {α : Type} (l : List α) : Table α := ⟨(List.range l.length).zip l⟩

def get {α : Type} (t : Table α) (d : α) (k : Nat) : α := lookupKey d k t.cells

/-- Replace or add an entry. -/
def put {α : Type} (t : Table α) (k : Nat) (v : α) : Table α := ⟨insertKey k v t.cells⟩

/-- Replace or add an entry, keeping no entry equal to the default `d`. -/
def setD {α : Type} [DecidableEq α] (t : Table α) (d : α) (k : Nat) (v : α) : Table α :=
  if v = d then ⟨eraseKey k t.cells⟩ else ⟨insertKey k v t.cells⟩

/-- The canonical form of a table read with default `d`: keys strictly rising, no entry equal to `d`. -/
def wf {α : Type} [DecidableEq α] (t : Table α) (d : α) : Bool :=
  risingFrom 0 t.cells && noDefault d t.cells

/-- Apply `f` to every listed value. -/
def mapVals {α : Type} (t : Table α) (f : Nat → α → α) : Table α :=
  ⟨t.cells.map fun c => (c.1, f c.1 c.2)⟩

end Table

/-- A byte memory: an unlisted address reads zero. -/
abbrev Mem := Table Byte

namespace Mem

def read (m : Mem) (a : Nat) : Byte := Table.get m 0 a

def write (m : Mem) (a : Nat) (v : Byte) : Mem := Table.setD m 0 a v

/-- The bytes at `a`, `a + 1`, …, lowest address first. -/
def readBytes (m : Mem) (a : Nat) : Nat → List Byte
  | 0 => []
  | n + 1 => m.read a :: readBytes m (a + 1) n

def writeBytes (m : Mem) (a : Nat) : List Byte → Mem
  | [] => m
  | b :: bs => writeBytes (m.write a b) (a + 1) bs

/-- The canonical form of a memory: addresses strictly rising and no listed byte zero. -/
def wf (m : Mem) : Bool := Table.wf m 0

end Mem

end Sys2Proof.Machine
end

