-- ==== Sys2Proof/Machine/Bits.lean ====
section
/-!
DEFINITION. Bit-field, sign and byte-order helpers (00 R8, R9).
-/

namespace Sys2Proof.Machine

/-- Bits `[hi:lo]` of a number. -/
def field (w hi lo : Nat) : Nat := w / 2 ^ lo % 2 ^ (hi + 1 - lo)

/-- Bit `n` of a number. -/
def bitOf (w n : Nat) : Bool := w / 2 ^ n % 2 == 1

/-- The signed value of the low `n` bits. -/
def sext (n w : Nat) : Int :=
  let u := w % 2 ^ n
  if u < 2 ^ (n - 1) then (u : Int) else (u : Int) - (2 ^ n : Nat)

/-- The bits `[hi:lo]` of `w` replaced by `v`. -/
def setField (w hi lo v : Nat) : Nat :=
  w / 2 ^ (hi + 1) * 2 ^ (hi + 1) + v % 2 ^ (hi + 1 - lo) * 2 ^ lo + w % 2 ^ lo

/-- A value read little-endian (R9). -/
def leNat : List Byte → Nat
  | [] => 0
  | b :: bs => b.toNat + 256 * leNat bs

/-- `n` bytes of a value, lowest first (R9). -/
def leBytes : Nat → Nat → List Byte
  | 0, _ => []
  | n + 1, v => BitVec.ofNat 8 v :: leBytes n (v / 256)

def b2n (b : Bool) : Nat := if b then 1 else 0

/-- Little-endian 16-bit words of a byte list. -/
def leHalves : List Byte → List (BitVec 16)
  | a :: b :: bs => BitVec.ofNat 16 (a.toNat + 256 * b.toNat) :: leHalves bs
  | _ => []

/-- Little-endian 32-bit words of a byte list. -/
def leWords : List Byte → List Lane
  | a :: b :: c :: d :: bs => BitVec.ofNat 32 (leNat [a, b, c, d]) :: leWords bs
  | _ => []

/-- The `i`-th element of a list, or a default. -/
def nth {α : Type} (d : α) (l : List α) (i : Nat) : α := l.getD i d

/-- Replace the `i`-th element. -/
def setNth {α : Type} (l : List α) (i : Nat) (v : α) : List α := l.set i v

/-- `a / b` rounded up. -/
def ceilDiv (a b : Nat) : Nat := (a + b - 1) / b

/-- An integer as `n` bits, modulo `2^n`. -/
def intMod (n : Nat) (v : Int) : Nat := (v % (2 ^ n : Nat)).toNat

/-- Set or clear bit `i` of a bit vector. -/
def setBit {n : Nat} (w : BitVec n) (i : Nat) (b : Bool) : BitVec n :=
  if b then w ||| (1#n <<< i) else w &&& ~~~(1#n <<< i)

/-- A saturating counter of `n` bits (02 R66). -/
def satAdd (n a k : Nat) : Nat := if a + k ≥ 2 ^ n - 1 then 2 ^ n - 1 else a + k

end Sys2Proof.Machine
end

