-- ==== Sys2Proof/Machine/Flags.lean ====
section
/-!
DEFINITION. Numbers: the floating-point formats, rounding with its flags, conversions, block floating point, special functions and the
seeded basis (01). A finite value is a sign, a magnitude `m × 2^e`, and a mark that the magnitude lies strictly between that and
`(m + 1) × 2^e`; every result is rounded once, here.
-/

namespace Sys2Proof.Machine

/-! ## Flags and controls (R24, R26, 02 R63) -/

abbrev Fl := BitVec 6

def flNV : Fl := 1
def flDZ : Fl := 2
def flOF : Fl := 4
def flUF : Fl := 8
def flNX : Fl := 16
def flSAT : Fl := 32

def flIf (b : Bool) (f : Fl) : Fl := if b then f else 0

/-- The controls an operation sampled: FCTL and SRKEY. -/
structure NumEnv where
  rm : Nat
  iz : Bool
  oz : Bool
  bz : Bool
  key : Nat
  tnum : Nat
  deriving DecidableEq, Repr

def numEnv (fctl : BitVec 6) (srkey : Word) : NumEnv :=
  { rm := fctl.toNat % 8, iz := fctl.getLsbD 3, oz := fctl.getLsbD 4, bz := fctl.getLsbD 5, key := srkey.toNat % 2 ^ 32,
    tnum := field srkey.toNat 47 32 }

/-- The mode an instruction's rounding field selects (R24). -/
def resolveRm (env : NumEnv) (code : Nat) : Nat := if code = 0 then env.rm else code

/-! ## Stochastic rounding's value (R28) -/

def srmix (z : BitVec 32) : BitVec 32 :=
  let z := z ^^^ (z >>> 16)
  let z := z * 0x6C8E9CF5#32
  let z := z ^^^ (z >>> 13)
  let z := z * 0x2F3B8A19#32
  z ^^^ (z >>> 16)

def srBits (key tnum s c1 c0 : Nat) : Nat :=
  let h := srmix (BitVec.ofNat 32 key ^^^ .ofNat 32 c0)
  let h := srmix (h ^^^ .ofNat 32 c1)
  (srmix (h ^^^ .ofNat 32 (tnum + s * 65536))).toNat

/-- The value of R28 at a rounding site. -/
def srAt (env : NumEnv) (s c1 c0 : Nat) : Nat := srBits env.key env.tnum s c1 c0

/-! ## Values -/

/-- A value of a floating-point format (R16). -/
inductive Fp where
  | fin (neg : Bool) (m : Nat) (e : Int)
  | inf (neg : Bool)
  | nan (signalling : Bool)
  deriving DecidableEq, Repr

/-- The value of a format with `fw` fraction bits (R15, R16). -/
def decodeFp (fw w : Nat) : Fp :=
  let neg := bitOf w (fw + 8)
  let ex := field w (fw + 7) fw
  let fr := w % 2 ^ fw
  if ex = 255 then (if fr = 0 then .inf neg else .nan (!bitOf w (fw - 1)))
  else if ex = 0 then .fin neg fr (-126 - (fw : Int))
  else .fin neg (2 ^ fw + fr) ((ex : Int) - 127 - fw)

/-- A subnormal input read as a zero of its sign (R18). -/
def decodeIz (iz : Bool) (fw w : Nat) : Fp :=
  if iz && field w (fw + 7) fw == 0 then .fin (bitOf w (fw + 8)) 0 0 else decodeFp fw w

def encSign (fw : Nat) (neg : Bool) : Nat := b2n neg * 2 ^ (fw + 8)
def encNan (fw : Nat) : Nat := 255 * 2 ^ fw + 2 ^ (fw - 1)
def encInf (fw : Nat) (neg : Bool) : Nat := encSign fw neg + 255 * 2 ^ fw
def encZero (fw : Nat) (neg : Bool) : Nat := encSign fw neg
def encMax (fw : Nat) (neg : Bool) : Nat := encSign fw neg + 255 * 2 ^ fw - 1

/-- The bits of a magnitude. -/
def bitLen (m : Nat) : Nat := if m = 0 then 0 else Nat.log2 m + 1

/-! ## Rounding (R25, R27) -/

/-- A magnitude as a multiple of `2^q`, rounded by the mode; whether it was inexact. -/
def roundMag (neg : Bool) (m : Nat) (e : Int) (sticky : Bool) (q : Int) (rm u : Nat) : Nat × Bool :=
  if q ≤ e then (m * 2 ^ (e - q).toNat, sticky)
  else
    let k := (q - e).toNat
    let small := decide (bitLen m + 34 < k)
    let n := if small then 0 else m / 2 ^ k
    let rem := if small then m else m % 2 ^ k
    let inexact := rem != 0 || sticky
    let half := if small then rem + 1 else 2 ^ (k - 1)
    -- the position of the value between its neighbours, from the lower one up, in units of 2^-32
    let frac := if small then 0 else rem * 2 ^ 32 / 2 ^ k
    let fromTop := if small then 2 ^ 32 - 1 else (2 ^ k - rem) * 2 ^ 32 / 2 ^ k
    let up :=
      match rm with
      | 1 => decide (half < rem) || (rem == half && (sticky || n % 2 == 1))
      | 3 => inexact && !neg
      | 4 => inexact && neg
      | 5 => inexact && (if neg then !decide (u < fromTop) else decide (u < frac))
      | _ => false
    (n + b2n up, inexact)

/-- The result of a value at or above 2^128 (R25). -/
def overflowed (fw : Nat) (neg : Bool) (rm : Nat) : Nat :=
  match rm with
  | 2 => encMax fw neg
  | 3 => if neg then encMax fw neg else encInf fw neg
  | 4 => if neg then encInf fw neg else encMax fw neg
  | _ => encInf fw neg

/-- A nonzero magnitude rounded to a format: the bits and the flags of R25, R26 and R18. -/
def roundNonzero (fw : Nat) (neg : Bool) (m : Nat) (e : Int) (sticky : Bool) (rm : Nat) (oz : Bool) (u : Nat) : Nat × Fl :=
  let ex : Int := (bitLen m : Int) - 1 + e
  if 128 ≤ ex then (overflowed fw neg rm, flOF ||| flNX)
  else
    let q : Int := max ex (-126) - fw
    let r := roundMag neg m e sticky q rm u
    let mag := ((q + 126 + fw) * 2 ^ fw).toNat + r.1
    let free := roundMag neg m e sticky (ex - fw) rm u
    let tiny := decide (ex < -126) && !(decide (ex = -127) && free.1 == 2 ^ (fw + 1))
    if 255 * 2 ^ fw ≤ mag then (encInf fw neg, flOF ||| flNX)
    else if oz && 0 < mag && mag < 2 ^ fw then (encZero fw neg, flUF ||| flNX)
    else (encSign fw neg + mag, flIf r.2 flNX ||| flIf (r.2 && tiny) flUF)

/-- A value rounded to a format (R42). -/
def roundFp (fw : Nat) (x : Fp) (rm : Nat) (oz : Bool) (u : Nat) : Nat × Fl :=
  match x with
  | .nan _ => (encNan fw, 0)
  | .inf neg => (encInf fw neg, 0)
  | .fin neg m e => if m = 0 then (encZero fw neg, 0) else roundNonzero fw neg m e false rm oz u

/-- Rounding to FP24: RNE, subnormals kept, only OF raised here (R18, R26). -/
def roundFp24 (x : Fp) : Nat × Fl :=
  let r := roundFp 15 x 1 false 0
  (r.1, r.2 &&& flOF)

/-- round_int of R42: the integer and whether it was inexact. -/
def roundInt (neg : Bool) (m : Nat) (e : Int) (rm u : Nat) : Int × Bool :=
  let r := roundMag neg m e false 0 rm u
  (if neg then -(r.1 : Int) else r.1, r.2)

/-! ## Exact arithmetic with the special cases of R26 -/

def isSnan : Fp → Bool
  | .nan s => s
  | _ => false

def isNan : Fp → Bool
  | .nan _ => true
  | _ => false

/-- A signed value over a power of two as a value; zero takes the sign given. -/
def ofScaled (v : Int) (e : Int) (zeroNeg : Bool) : Fp :=
  if v = 0 then .fin zeroNeg 0 0 else .fin (decide (v < 0)) v.natAbs e

def signedMag (neg : Bool) (m : Nat) : Int := if neg then -(m : Int) else m

/-- a + b, exact; the sign of an exact zero is that of R25. -/
def exactAdd (rm : Nat) (a b : Fp) : Fp × Fl :=
  let nv := flIf (isSnan a || isSnan b) flNV
  match a, b with
  | .nan _, _ => (.nan false, nv)
  | _, .nan _ => (.nan false, nv)
  | .inf x, .inf y => if x = y then (.inf x, 0) else (.nan false, flNV)
  | .inf x, _ => (.inf x, 0)
  | _, .inf y => (.inf y, 0)
  | .fin x m e, .fin y n f =>
    let g := min e f
    let v := signedMag x (m * 2 ^ (e - g).toNat) + signedMag y (n * 2 ^ (f - g).toNat)
    (ofScaled v g (if x = y then x else rm == 4), 0)

/-- a × b, exact. -/
def exactMul (a b : Fp) : Fp × Fl :=
  let nv := flIf (isSnan a || isSnan b) flNV
  match a, b with
  | .nan _, _ => (.nan false, nv)
  | _, .nan _ => (.nan false, nv)
  | .inf x, .inf y => (.inf (x != y), 0)
  | .inf x, .fin y n _ => if n = 0 then (.nan false, flNV) else (.inf (x != y), 0)
  | .fin x m _, .inf y => if m = 0 then (.nan false, flNV) else (.inf (x != y), 0)
  | .fin x m e, .fin y n f => (.fin (x != y) (m * n) (e + f), 0)

def negFp : Fp → Fp
  | .fin n m e => .fin (!n) m e
  | .inf n => .inf (!n)
  | .nan s => .nan s

/-- a × b + c, exact. -/
def exactFma (rm : Nat) (a b c : Fp) : Fp × Fl :=
  let p := exactMul a b
  let s := exactAdd rm p.1 c
  (s.1, p.2 ||| s.2)

/-- The order of two values that are not NaN. -/
def fpLess (a b : Fp) : Bool :=
  match exactAdd 1 a (negFp b) with
  | (.fin n m _, _) => n && m != 0
  | (.inf n, _) => n
  | (.nan _, _) => false

def fpEqual (a b : Fp) : Bool :=
  match a, b with
  | .inf x, .inf y => x == y
  | .fin _ _ _, .fin _ _ _ => !fpLess a b && !fpLess b a
  | _, _ => false

def fpNeg : Fp → Bool
  | .fin n _ _ => n
  | .inf n => n
  | .nan _ => false

/-- Maximum or minimum (R158): a NaN gives the canonical NaN; of two equal values the positive, or the negative, zero. -/
def fpExtreme (big : Bool) (a b : Fp) : Fp × Fl :=
  if isNan a || isNan b then (.nan false, flIf (isSnan a || isSnan b) flNV)
  else if fpLess a b then (if big then b else a, 0)
  else if fpLess b a then (if big then a else b, 0)
  else (if fpNeg a = big then b else a, 0)

/-! ## Special functions (R41) -/

/-- The square root of `n` by its bits from 2^(k-1) down. -/
def isqrtLoop : Nat → Nat → Nat → Nat
  | 0, _, r => r
  | k + 1, n, r =>
    let r' := r + 2 ^ k
    isqrtLoop k n (if r' * r' ≤ n then r' else r)

def isqrt (n : Nat) : Nat := isqrtLoop (bitLen n / 2 + 1) n 0

/-- Round a positive or negative magnitude, marked inexact, by RNE to FP32. -/
def roundSpecial (oz neg : Bool) (m : Nat) (e : Int) (sticky : Bool) : Nat × Fl := roundNonzero 23 neg m e sticky 1 oz 0

/-- 1 / x. -/
def recipFin (oz neg : Bool) (m : Nat) (e : Int) : Nat × Fl :=
  let k := bitLen m + 64
  roundSpecial oz neg (2 ^ k / m) (-(k : Int) - e) (2 ^ k % m != 0)

/-- 1 / √x. -/
def rsqrtFin (oz : Bool) (m : Nat) (e : Int) : Nat × Fl :=
  let m' := if e % 2 = 0 then m else 2 * m
  let e' := if e % 2 = 0 then e else e - 1
  let k := bitLen m' + 64
  let r := isqrt (2 ^ (2 * k) / m')
  roundSpecial oz false r (-(k : Int) - e' / 2) (r * r * m' != 2 ^ (2 * k))

/-- 2^f to 200 bits from the bits of `fr` below `2^i`: the factors are successive square roots of 2. -/
def powBits : Nat → Nat → Nat → Nat → Nat → Nat
  | 0, _, _, _, acc => acc
  | k + 1, fr, i, root, acc =>
    let root' := isqrt (root * 2 ^ 200)
    if i = 0 then acc
    else powBits k fr (i - 1) root' (if bitOf fr (i - 1) then acc * root' / 2 ^ 200 else acc)

/-- 2^x for x = ±m × 2^e. -/
def exp2Fin (oz neg : Bool) (m : Nat) (e : Int) : Nat × Fl :=
  if 9 ≤ (bitLen m : Int) + e then (if neg then roundSpecial oz false 1 (-1000) true else (encInf 23 false, flOF ||| flNX))
  else if 0 ≤ e then roundSpecial oz false 1 (signedMag neg (m * 2 ^ e.toNat)) false
  else
    let d := (-e).toNat
    let v := signedMag neg m
    let n := v / (2 ^ d : Nat)
    let fr := (v % (2 ^ d : Nat)).toNat
    if fr = 0 then roundSpecial oz false 1 n false
    else roundSpecial oz false (powBits 160 fr d (2 * 2 ^ 200) (2 ^ 200)) (n - 200) true

/-- The first `k` bits of log2 of a fixed-point value of [1, 2) with 256 fraction bits. -/
def logBits : Nat → Nat → Nat → Nat
  | 0, _, acc => acc
  | k + 1, y, acc =>
    let z := y * y / 2 ^ 256
    if 2 ^ 257 ≤ z then logBits k (z / 2) (2 * acc + 1) else logBits k z (2 * acc)

/-- log2 of m × 2^e. -/
def log2Fin (oz : Bool) (m : Nat) (e : Int) : Nat × Fl :=
  let l := bitLen m - 1
  let n : Int := e + l
  if m = 2 ^ l then roundFp 23 (ofScaled n 0 false) 1 oz 0
  else
    let v : Int := n * 2 ^ 128 + logBits 128 (m * 2 ^ 256 / 2 ^ l) 0
    if 0 ≤ v then roundSpecial oz false v.toNat (-128) true else roundSpecial oz true (v.natAbs - 1) (-128) true

/-- The four functions with their special inputs: 0 vrcp, 1 vrsq, 2 vexp2, 3 vlog2. -/
def specialFn (sel : Nat) (env : NumEnv) (w : Nat) : Nat × Fl :=
  match decodeIz env.iz 23 w, sel with
  | .nan s, _ => (encNan 23, flIf s flNV)
  | .inf n, 0 => (encZero 23 n, 0)
  | .inf n, 1 => if n then (encNan 23, flNV) else (encZero 23 false, 0)
  | .inf n, 2 => if n then (encZero 23 false, 0) else (encInf 23 false, 0)
  | .inf n, _ => if n then (encNan 23, flNV) else (encInf 23 false, 0)
  | .fin n m e, 0 => if m = 0 then (encInf 23 n, flDZ) else recipFin env.oz n m e
  | .fin n m e, 1 => if m = 0 then (encInf 23 n, flDZ) else if n then (encNan 23, flNV) else rsqrtFin env.oz m e
  | .fin n m e, 2 => if m = 0 then (0x3F800000, 0) else exp2Fin env.oz n m e
  | .fin n m e, _ => if m = 0 then (encInf 23 true, flDZ) else if n then (encNan 23, flNV) else log2Fin env.oz m e

/-! ## Conversions (R19, R30, R170) -/

/-- The range of an integer type of the type codes 2 to 5. -/
def intRange (ty : Nat) : Int × Int :=
  match ty with
  | 2 => (-(2 ^ 31), 2 ^ 31 - 1)
  | 3 => (0, 2 ^ 32 - 1)
  | 4 => (-(2 ^ 15), 2 ^ 15 - 1)
  | _ => (0, 2 ^ 16 - 1)

def tyBits (ty : Nat) : Nat := if ty = 0 ∨ ty = 2 ∨ ty = 3 then 32 else 16

def tySigned (ty : Nat) : Bool := ty == 2 || ty == 4

def clampInt (r : Int × Int) (v : Int) : Int × Bool := if v < r.1 then (r.1, true) else if r.2 < v then (r.2, true) else (v, false)

/-- The integer an element holds. -/
def intOf (ty w : Nat) : Int := if tySigned ty then sext (tyBits ty) w else (w : Int)

/-- The value an element holds, as a float input. -/
def elemFp (env : NumEnv) (ty w : Nat) : Fp := decodeIz env.iz (if ty = 0 then 23 else 7) w

/-- A value to an integer type (R30). -/
def fpToInt (x : Fp) (ty rm u : Nat) : Nat × Fl :=
  let r := intRange ty
  match x with
  | .nan _ => (0, flNV)
  | .inf n => (intMod (tyBits ty) (if n then r.1 else r.2), flSAT)
  | .fin n m e =>
    let v := if m = 0 then (0, false)
             else if 40 < (bitLen m : Int) + e then (signedMag n (2 ^ 40), false) else roundInt n m e rm u
    let c := clampInt r v.1
    (intMod (tyBits ty) c.1, flIf c.2 flSAT ||| flIf v.2 flNX)

/-- One element converted between two type codes (R170). -/
def convertElem (env : NumEnv) (src dst rm u w : Nat) : Nat × Fl :=
  if 2 ≤ src then
    (if 2 ≤ dst then
      let c := clampInt (intRange dst) (intOf src w)
      (intMod (tyBits dst) c.1, flIf c.2 flSAT)
    else roundFp (if dst = 0 then 23 else 7) (ofScaled (intOf src w) 0 false) rm env.oz u)
  else
    let x := elemFp env src w
    let nv := flIf (isSnan x) flNV
    if 2 ≤ dst then fpToInt x dst rm u
    else if dst = 0 then (match x with
      | .nan _ => (encNan 23, nv)
      | .inf n => (encInf 23 n, 0)
      | .fin n m e => ((roundFp 23 (.fin n m e) 1 false 0).1, 0))
    else
      let r := roundFp 7 x rm env.oz u
      (r.1, r.2 ||| nv)

/-! ## Block floating point (R20 to R23, R31, R32) -/

/-- E' of R21. -/
def expPrime (e : Nat) : Int := if e = 0 then 1 else e

/-- floor(log2 |x|) of a finite nonzero value. -/
def floorLog (m : Nat) (e : Int) : Int := (bitLen m : Int) - 1 + e

/-- The greater magnitude of two finite values, by their exponents and mantissas. -/
def magLess (a b : Nat × Int) : Bool :=
  let g := min a.2 b.2
  decide (a.1 * 2 ^ (a.2 - g).toNat < b.1 * 2 ^ (b.2 - g).toNat)

/-- quantise_block of R31: exponent byte, mantissas and flags. The values have had their input flush; `site i` is the draw of element i. -/
def quantiseBlock (bz : Bool) (xs : List Fp) (w rm : Nat) (site : Nat → Nat) : Nat × List Int × Fl :=
  let special := xs.any fun x => match x with
    | .fin _ _ _ => false
    | _ => true
  if special then
    let one (x : Fp) : Int × Fl := match x with
      | .nan s => (-(2 ^ (w - 1)), flIf s flNV)
      | .inf n => (if n then -1 else 1, 0)
      | .fin _ m _ => (0, flIf (m != 0) flNX)
    let r := xs.map one
    (255, r.map (·.1), (r.map (·.2)).foldl (· ||| ·) 0)
  else
    let mags := xs.filterMap fun x => match x with
      | .fin _ m e => if m = 0 then none else some (m, e)
      | _ => none
    match mags with
    | [] => (0, xs.map fun _ => 0, 0)
    | g :: gs =>
      let mx := gs.foldl (fun a b => if magLess a b then b else a) g
      let eb := floorLog mx.1 mx.2 + 127
      if eb < 1 ∧ bz then (0, xs.map fun _ => 0, flUF ||| flNX)
      else
        let e : Nat := if eb < 1 then 0 else eb.toNat
        let shift : Int := -(expPrime e - 127) + ((w : Int) - 2)
        let hi : Int := 2 ^ (w - 1) - 1
        let one (p : Fp × Nat) : Int × Fl := match p.1 with
          | .fin n m ex =>
            let v := if m = 0 then (0, false) else roundInt n m (ex + shift) rm (site p.2)
            let c := clampInt (-(2 ^ (w - 1)), hi) v.1
            (c.1, flIf v.2 flNX ||| flIf c.2 flSAT)
          | _ => (0, 0)
        let r := (xs.zip (List.range xs.length)).map one
        (e, r.map (·.1), (r.map (·.2)).foldl (· ||| ·) 0)

/-- The value of an element of a block (R21, R22). -/
def blockValue (bz : Bool) (e w : Nat) (m : Int) : Fp :=
  if e = 255 then
    (if m = 0 then .fin false 0 0 else if 0 < m then .inf false else if m = -(2 ^ (w - 1)) then .nan false else .inf true)
  else if e = 0 ∧ bz then .fin false 0 0
  else ofScaled m (expPrime e - 127 - ((w : Int) - 2)) false

/-- dequant of one element to FP32 (R32): exact but for -2^128; OZ acts only where the caller says. -/
def dequantElem (bz oz : Bool) (e w : Nat) (m : Int) : Nat × Fl := roundFp 23 (blockValue bz e w m) 1 oz 0

/-! ## The seeded basis (R33) -/

/-- `n` steps of the generator: the bits emitted, in k order. -/
def seedSteps : Nat → BitVec 32 → List Bool
  | 0, _ => []
  | n + 1, st =>
    let b := st.getLsbD 0
    b :: seedSteps n (if b then (st >>> 1) ^^^ 0x80200003#32 else st >>> 1)

/-- seed_row of R33. -/
def seedRow (seed : BitVec 32) (j n : Nat) : List Bool :=
  let st := seed ^^^ (0x9E3779B9#32 * .ofNat 32 (j + 1)) ^^^ (0x85EBCA6B#32 * .ofNat 32 (n + 1))
  seedSteps 256 (if st = 0 then 1 else st)

end Sys2Proof.Machine
end

