-- ==== Sys2Proof/Syntax.lean ====
section
/-!
DEFINITION. The instruction words and device events of Caldaska as data: one constructor of `Instr` per row of
spec/opcode_table.json. Operand fields keep the widths the spec's encodings give them (03 R70 to R84). The
rows without an encoding are events; their arguments say what the event carries.
-/

namespace Sys2Proof

/-- The fields of a VE word after its opcode (03 R77). `aux` is the idle count of an R-class word and the
immediate of an I-class word (R79). -/
structure VFields where
  ty : BitVec 3
  vd : BitVec 7
  va : BitVec 7
  vb : BitVec 7
  vc : BitVec 7
  pred : BitVec 4
  pmode : Bool
  rnd : BitVec 3
  holdA : Bool
  holdB : Bool
  holdC : Bool
  aux : BitVec 14
  deriving DecidableEq, Repr

/-- The word families of 03 R68 to R84; a sequencer word belongs to the matrix, Lift or collective family. -/
inductive Family where
  | cc | ve | matrix | lift | coll
  deriving DecidableEq, Repr

/-- Who makes a configuration access: the PF (and the hypervisor, which acts through it) or a rink (14 R360). -/
inductive Requester where
  | pf
  | rink (r : Nat)
  deriving DecidableEq, Repr

/-- An engine that runs command images (08 R215, R216). -/
inductive EngineId where
  | lift (site : Nat) (l1 : Bool)
  | coll (die e : Nat)
  deriving DecidableEq, Repr

/-- The PCIe AtomicOps the device completes (11 R294). -/
inductive HostAtomic where
  | fetchAdd (dbl : Bool) (v : Word)
  | swapOp (dbl : Bool) (v : Word)
  | casOp (dbl : Bool) (cmp v : Word)
  | cas128
  deriving DecidableEq, Repr

/-- A Bromen Link flit's header and payload (16 R381). -/
structure Flit where
  kind : Nat
  cnum : Nat
  fid : Nat
  src : Nat
  dst : Nat
  bytes : Nat
  word : Nat
  rank : Nat
  offset : Nat
  payload : List Byte
  seq : BitVec 16
  ack : BitVec 16
  crc : BitVec 64
  deriving DecidableEq, Repr

/-- A flit of the link itself, a credit or keep-alive flit, with the port it comes to (16 R381, R384, R392). -/
structure LinkFlit where
  port : Nat
  flit : Flit
  deriving DecidableEq, Repr

/-- A whole contribution that reaches a rink's landing window (16 R389, R390), with the op and the group size of its sender's word. -/
structure Contribution where
  rink : Nat
  src : Nat
  cnum : Nat
  word : Nat
  rank : Nat
  op : Nat
  size : Nat
  data : List Byte
  deriving DecidableEq, Repr

/-- The instruction words and events of Caldaska: one constructor per row of the opcode table. -/
inductive Instr where
  /-- ADD (R99): sd = sa + sb modulo 2^64. -/
  | add (d a b : BitVec 5)
  /-- SUB (R99): sd = sa - sb modulo 2^64. -/
  | sub (d a b : BitVec 5)
  /-- AND (R99): sd = sa AND sb. -/
  | andR (d a b : BitVec 5)
  /-- OR (R99): sd = sa OR sb. -/
  | orR (d a b : BitVec 5)
  /-- XOR (R99): sd = sa XOR sb. -/
  | xorR (d a b : BitVec 5)
  /-- ANDN (R99): sd = sa AND NOT sb. -/
  | andn (d a b : BitVec 5)
  /-- SHL (R99): sd = sa shifted left by sb[5:0]. -/
  | shl (d a b : BitVec 5)
  /-- SHR (R99): sd = sa shifted right logically by sb[5:0]. -/
  | shr (d a b : BitVec 5)
  /-- SRA (R99): sd = sa shifted right arithmetically by sb[5:0]. -/
  | sra (d a b : BitVec 5)
  /-- SLT (R99): sd = 1 if sa < sb signed, else 0. -/
  | slt (d a b : BitVec 5)
  /-- SLTN (R99): sd = 1 if sa < sb unsigned, else 0. -/
  | sltn (d a b : BitVec 5)
  /-- SEQ (R99): sd = 1 if sa == sb, else 0. -/
  | seq (d a b : BitVec 5)
  /-- MIN (R99): sd = signed minimum of sa and sb. -/
  | minR (d a b : BitVec 5)
  /-- MAX (R99): sd = signed maximum of sa and sb. -/
  | maxR (d a b : BitVec 5)
  /-- MINN (R99): sd = unsigned minimum of sa and sb. -/
  | minn (d a b : BitVec 5)
  /-- MAXN (R99): sd = unsigned maximum of sa and sb. -/
  | maxn (d a b : BitVec 5)
  /-- MUL (R99): sd = low 64 bits of sa times sb. -/
  | mul (d a b : BitVec 5)
  /-- MULH (R99): sd = high 64 bits of the signed product. -/
  | mulh (d a b : BitVec 5)
  /-- MULHN (R99): sd = high 64 bits of the unsigned product. -/
  | mulhn (d a b : BitVec 5)
  /-- DIV (R100): Signed division truncating toward zero, total and fixed-latency. -/
  | div (d a b : BitVec 5)
  /-- DIVN (R100): Unsigned division, total and fixed-latency. -/
  | divn (d a b : BitVec 5)
  /-- REM (R100): Signed remainder with the dividend's sign. -/
  | rem (d a b : BitVec 5)
  /-- REMN (R100): Unsigned remainder. -/
  | remn (d a b : BitVec 5)
  /-- SEL (R102): sd = sa if sc is nonzero, else sb, with fixed latency. -/
  | sel (d a b c : BitVec 5)
  /-- CLZ (R99): sd = leading zero bits of sa. -/
  | clz (d a : BitVec 5)
  /-- CTZ (R99): sd = trailing zero bits of sa. -/
  | ctz (d a : BitVec 5)
  /-- POPC (R99): sd = number of one bits of sa. -/
  | popc (d a : BitVec 5)
  /-- ADDW (R99): sd = sign-extended low 32 bits of sa + sb. -/
  | addw (d a b : BitVec 5)
  /-- SUBW (R99): sd = sign-extended low 32 bits of sa - sb. -/
  | subw (d a b : BitVec 5)
  /-- ADDI (R101): sd = sa + sign-extended immediate. -/
  | addi (d a : BitVec 5) (imm : BitVec 16)
  /-- ANDI (R101): sd = sa AND zero-extended immediate. -/
  | andi (d a : BitVec 5) (imm : BitVec 16)
  /-- ORI (R101): sd = sa OR zero-extended immediate. -/
  | ori (d a : BitVec 5) (imm : BitVec 16)
  /-- XORI (R101): sd = sa XOR zero-extended immediate. -/
  | xori (d a : BitVec 5) (imm : BitVec 16)
  /-- SHLI (R101): sd = sa shifted left by an immediate 0 to 63. -/
  | shli (d a : BitVec 5) (imm : BitVec 6)
  /-- SHRI (R101): sd = sa shifted right logically by an immediate. -/
  | shri (d a : BitVec 5) (imm : BitVec 6)
  /-- SRAI (R101): sd = sa shifted right arithmetically by an immediate. -/
  | srai (d a : BitVec 5) (imm : BitVec 6)
  /-- SLTI (R101): Signed compare of sa with the sign-extended immediate. -/
  | slti (d a : BitVec 5) (imm : BitVec 16)
  /-- SLTNI (R101): Unsigned compare of sa with the sign-extended immediate. -/
  | sltni (d a : BitVec 5) (imm : BitVec 16)
  /-- LUI (R101): sd = immediate shifted left by 16. -/
  | lui (d : BitVec 5) (imm : BitVec 16)
  /-- ORHI (R101): sd = sa OR immediate shifted left by 32. -/
  | orhi (d a : BitVec 5) (imm : BitVec 16)
  /-- ORTI (R101): sd = sa OR immediate shifted left by 48. -/
  | orti (d a : BitVec 5) (imm : BitVec 16)
  /-- MULI (R101): sd = low 64 bits of sa times the sign-extended immediate. -/
  | muli (d a : BitVec 5) (imm : BitVec 16)
  /-- BEQ (R104): Branch with two delay slots when sa == sb. -/
  | beq (a b : BitVec 5) (disp : BitVec 16)
  /-- BNE (R104): Branch when sa != sb. -/
  | bne (a b : BitVec 5) (disp : BitVec 16)
  /-- BLT (R104): Branch when sa < sb signed. -/
  | blt (a b : BitVec 5) (disp : BitVec 16)
  /-- BGE (R104): Branch when sa >= sb signed. -/
  | bge (a b : BitVec 5) (disp : BitVec 16)
  /-- BLTN (R104): Branch when sa < sb unsigned. -/
  | bltn (a b : BitVec 5) (disp : BitVec 16)
  /-- BGEN (R104): Branch when sa >= sb unsigned. -/
  | bgen (a b : BitVec 5) (disp : BitVec 16)
  /-- LOOP (R105): Counted loop: decrements s[a] if nonzero and branches while it stays nonzero. -/
  | loop (a : BitVec 5) (disp : BitVec 16)
  /-- JMP (R106): Unconditional relative jump with two delay slots. -/
  | jmp (disp : BitVec 26)
  /-- CALL (R106): Pushes pc + 12 onto the return-address store and jumps. -/
  | call (disp : BitVec 26)
  /-- RET (R106): Pops the return-address store and jumps there. -/
  | ret
  /-- JR (R107): Jumps to a capability's cursor after tag, X, bounds and alignment checks. -/
  | jr (a : BitVec 4)
  /-- CALLR (R106): Calls the address in a capability's cursor. -/
  | callr (a : BitVec 4)
  /-- LD_S8 (R111): Loads a sign-extended byte through a capability. -/
  | ldS8 (d : BitVec 5) (cap : BitVec 4) (off : BitVec 14)
  /-- LD_Z8 (R111): Loads a zero-extended byte through a capability. -/
  | ldZ8 (d : BitVec 5) (cap : BitVec 4) (off : BitVec 14)
  /-- LD_S16 (R111): Loads a sign-extended halfword. -/
  | ldS16 (d : BitVec 5) (cap : BitVec 4) (off : BitVec 14)
  /-- LD_Z16 (R111): Loads a zero-extended halfword. -/
  | ldZ16 (d : BitVec 5) (cap : BitVec 4) (off : BitVec 14)
  /-- LD_S32 (R111): Loads a sign-extended word. -/
  | ldS32 (d : BitVec 5) (cap : BitVec 4) (off : BitVec 14)
  /-- LD_Z32 (R111): Loads a zero-extended word. -/
  | ldZ32 (d : BitVec 5) (cap : BitVec 4) (off : BitVec 14)
  /-- LD_D (R111): Loads a doubleword through a capability. -/
  | ldD (d : BitVec 5) (cap : BitVec 4) (off : BitVec 14)
  /-- LD_C (R113): Loads 16 bytes into a capability register, restoring the TM tag when permitted. -/
  | ldC (d cap : BitVec 4) (off : BitVec 14)
  /-- ST_B (R111): Stores a byte through a capability. -/
  | stB (d : BitVec 5) (cap : BitVec 4) (off : BitVec 14)
  /-- ST_H (R111): Stores a halfword through a capability. -/
  | stH (d : BitVec 5) (cap : BitVec 4) (off : BitVec 14)
  /-- ST_W (R111): Stores a word through a capability. -/
  | stW (d : BitVec 5) (cap : BitVec 4) (off : BitVec 14)
  /-- ST_D (R111): Stores a doubleword through a capability. -/
  | stD (d : BitVec 5) (cap : BitVec 4) (off : BitVec 14)
  /-- ST_C (R113): Stores a capability register and, in TM, its tag. -/
  | stC (d cap : BitVec 4) (off : BitVec 14)
  /-- AMOADD (R118): Atomic add at the memory-side atomic unit, returning the old value. -/
  | amoadd (dbl : Bool) (d : BitVec 5) (a : BitVec 4) (b : BitVec 5)
  /-- AMOAND (R118): Atomic AND returning the old value. -/
  | amoand (dbl : Bool) (d : BitVec 5) (a : BitVec 4) (b : BitVec 5)
  /-- AMOOR (R118): Atomic OR returning the old value. -/
  | amoor (dbl : Bool) (d : BitVec 5) (a : BitVec 4) (b : BitVec 5)
  /-- AMOXOR (R118): Atomic XOR returning the old value. -/
  | amoxor (dbl : Bool) (d : BitVec 5) (a : BitVec 4) (b : BitVec 5)
  /-- AMOSWAP (R118): Atomic swap returning the old value. -/
  | amoswap (dbl : Bool) (d : BitVec 5) (a : BitVec 4) (b : BitVec 5)
  /-- AMOMIN (R118): Atomic signed minimum. -/
  | amomin (dbl : Bool) (d : BitVec 5) (a : BitVec 4) (b : BitVec 5)
  /-- AMOMAX (R118): Atomic signed maximum. -/
  | amomax (dbl : Bool) (d : BitVec 5) (a : BitVec 4) (b : BitVec 5)
  /-- AMOMINN (R118): Atomic unsigned minimum. -/
  | amominn (dbl : Bool) (d : BitVec 5) (a : BitVec 4) (b : BitVec 5)
  /-- AMOMAXN (R118): Atomic unsigned maximum. -/
  | amomaxn (dbl : Bool) (d : BitVec 5) (a : BitVec 4) (b : BitVec 5)
  /-- CAS (R119): Compare and swap at the atomic unit, returning the old value. -/
  | cas (dbl : Bool) (d : BitVec 5) (a : BitVec 4) (b c : BitVec 5)
  /-- KMOV (R121): Copies a capability with its tag. -/
  | kmov (d a : BitVec 4)
  /-- KFLD (R121): Reads a derived field of a capability into a scalar register. -/
  | kfld (d : BitVec 5) (a : BitVec 4) (sel : BitVec 5)
  /-- KSTEP (R121): Moves a capability's cursor by sb and recomputes BACK. -/
  | kstep (d a : BitVec 4) (b : BitVec 5)
  /-- KSEEK (R121): Sets a capability's cursor to sb and recomputes BACK. -/
  | kseek (d a : BitVec 4) (b : BitVec 5)
  /-- KCLIP (R122): Narrows a capability to start at its cursor with length sb, rounding outward. -/
  | kclip (d a : BitVec 4) (b : BitVec 5)
  /-- KMASK (R121): Clears permission bits of a capability. -/
  | kmask (d a : BitVec 4) (b : BitVec 5)
  /-- KCOVER (R123): Tests whether one capability grants no more than another. -/
  | kcover (d : BitVec 5) (a b : BitVec 4)
  /-- KDROP (R121): Copies a capability with its tag clear. -/
  | kdrop (d a : BitVec 4)
  /-- MARK (R116): Orders the context's older accesses before its younger ones. -/
  | mark
  /-- FENCE (R117): Orders and waits for older stores to be visible to the named scope. -/
  | fence (scope : BitVec 3)
  /-- WAITF (R125): Waits for a flag, token or full tile register, optionally clearing it. -/
  | waitf (f : BitVec 6) (clr : Bool)
  /-- SIGF (R125): Sets, clears, pushes or pops a flag. -/
  | sigf (f : BitVec 6) (val : Bool)
  /-- TSTF (R125): Samples a flag into sd, optionally clearing it. -/
  | tstf (d : BitVec 5) (f : BitVec 6) (clr : Bool)
  /-- IDLE (R126): Occupies 1 + s[a] + n beats. -/
  | idle (a : BitVec 5) (n : BitVec 10)
  /-- FORK (R127): Starts the halted other CC context at a capability's cursor. -/
  | fork (a : BitVec 4)
  /-- RENDEZ (R128): Meeting point of the two contexts of a rink on a core. -/
  | rendez
  /-- PUSH (R130): Checks, translates, pins and enqueues a command image with its staged bases. -/
  | push (q : BitVec 4) (d : BitVec 5) (a : BitVec 4)
  /-- PUSHC (R129): Stages a capability as the next base of a command for queue q. -/
  | pushc (q : BitVec 4) (a : BitVec 4)
  /-- POP (R133): Removes the oldest element of the collective completion or Lift status FIFO. -/
  | pop (d : BitVec 5) (q : BitVec 4)
  /-- MTX (R134): Writes a loop-nest configuration register; a GO write arms a nest. -/
  | mtx (half bank : Bool) (reg : BitVec 6) (a : BitVec 5)
  /-- MFX (R134): Reads a loop-nest configuration register. -/
  | mfx (d : BitVec 5) (half bank : Bool) (reg : BitVec 6)
  /-- RALLOC (R135): Allocates a TM region with given attributes and returns its address or an error code. -/
  | ralloc (d a : BitVec 5) (cls policy : BitVec 2) (persistent compressed : Bool)
  /-- RFREE (R136): Waits for users of a region to finish and frees it. -/
  | rfree (a : BitVec 5)
  /-- RWAX (R137): Refreshes n + 1 row groups at fixed beats. -/
  | rwax (a : BitVec 5) (n : BitVec 10)
  /-- LAUNCH (R138): Validates a launch record and, if accepted, begins allocating its units. -/
  | launch (d : BitVec 5) (a : BitVec 4)
  /-- LWAIT (R139): Waits until all work of a level has left its running state and writes a status. -/
  | lwait (d : BitVec 5) (level : BitVec 2)
  /-- CANCEL (R140): Ends all work of a level. -/
  | cancel (level : BitVec 2)
  /-- GATE (R141): Waits for the rink's engine operations to retire, checkpoints and lets the scheduler decide. -/
  | gate (p : Bool)
  /-- EVPOP (R142): Removes the oldest word of the rink's event queue, or returns 0. -/
  | evpop (d : BitVec 5)
  /-- WPUB (R143): Publishes a window after older writes are performed. -/
  | wpub (w : BitVec 6)
  /-- WSYNC (R144): Acquires the latest publication of a window. -/
  | wsync (w : BitVec 6)
  /-- TRAP (R145): Raises a software trap with code n. -/
  | trap (n : BitVec 10)
  /-- ERET (R146): Leaves handler state, completing remaining delay slots and resuming. -/
  | eret
  /-- HCALL (R147): Stops the context and posts a hypervisor service request. -/
  | hcall (n : BitVec 10)
  /-- MFS (R148): Reads a system register into sd. -/
  | mfs (d : BitVec 5) (reg : BitVec 10)
  /-- MTS (R148): Writes s[a] to a system register under its access codes. -/
  | mts (reg : BitVec 10) (a : BitVec 5)
  /-- HALT (R149): Ends the context's stream; by the Rink Sequencer ends the job. -/
  | halt
  /-- SNAP (R150): Raises the common snapshot trigger in the next beat. -/
  | snap
  /-- VIDLE (R185): Occupies 1 + n beats. -/
  | vidle (f : VFields)
  /-- VWAITF (R184): VE wait on a flag, token or tile register. -/
  | vwaitf (f : VFields)
  /-- VSIGF (R184): VE set, clear, push or pop of a flag. -/
  | vsigf (f : VFields)
  /-- VEND (R186): Ends the VE stream after its idle count. -/
  | vend (f : VFields)
  /-- VLOOP (R181): Closes a software-pipelined loop, turning the ring and stage predicate. -/
  | vloop (f : VFields)
  /-- VSETLC (R180): Prepares loop count, depth, ring size and stage predicates. -/
  | vsetlc (f : VFields)
  /-- VTURN (R183): Sets RING.TURN and RING.PTURN. -/
  | vturn (f : VFields)
  /-- VADD (R156): Elementwise add. -/
  | vadd (f : VFields)
  /-- VSUB (R156): Elementwise subtract. -/
  | vsub (f : VFields)
  /-- VMUL (R156): Elementwise multiply. -/
  | vmul (f : VFields)
  /-- VFMA (R156): Fused multiply-add rounded once. -/
  | vfma (f : VFields)
  /-- VFMS (R156): Fused multiply-subtract rounded once. -/
  | vfms (f : VFields)
  /-- VFNMA (R156): Negated fused multiply-add rounded once. -/
  | vfnma (f : VFields)
  /-- VMAX (R158): Elementwise maximum. -/
  | vmax (f : VFields)
  /-- VMIN (R158): Elementwise minimum. -/
  | vmin (f : VFields)
  /-- VABS (R159): Elementwise absolute value. -/
  | vabs (f : VFields)
  /-- VNEG (R159): Elementwise negation. -/
  | vneg (f : VFields)
  /-- VCOPYSGN (R159): Copies the sign of vb onto va. -/
  | vcopysgn (f : VFields)
  /-- VRCP (R160): Correctly rounded reciprocal. -/
  | vrcp (f : VFields)
  /-- VRSQ (R160): Correctly rounded reciprocal square root. -/
  | vrsq (f : VFields)
  /-- VEXP2 (R160): Correctly rounded 2^x. -/
  | vexp2 (f : VFields)
  /-- VLOG2 (R160): Correctly rounded log2 x. -/
  | vlog2 (f : VFields)
  /-- VAND (R161): Bitwise AND of lanes. -/
  | vand (f : VFields)
  /-- VOR (R161): Bitwise OR of lanes. -/
  | vor (f : VFields)
  /-- VXOR (R161): Bitwise XOR of lanes. -/
  | vxor (f : VFields)
  /-- VNOT (R161): Bitwise inversion of lanes. -/
  | vnot (f : VFields)
  /-- VSHL (R162): Elementwise left shift. -/
  | vshl (f : VFields)
  /-- VSHR (R162): Elementwise logical right shift. -/
  | vshr (f : VFields)
  /-- VSRA (R162): Elementwise arithmetic right shift. -/
  | vsra (f : VFields)
  /-- VMOV (R163): Copies a vector register. -/
  | vmov (f : VFields)
  /-- VMOVI (R163): Sets lanes to a sign-extended immediate. -/
  | vmovi (f : VFields)
  /-- VMOVHI (R163): Sets lanes to an immediate in bits 31:18. -/
  | vmovhi (f : VFields)
  /-- VCMP (R164): Compares lanes into a predicate. -/
  | vcmp (f : VFields)
  /-- VSEL (R165): Selects lanes from va or vb by a predicate. -/
  | vsel (f : VFields)
  /-- VPAND (R166): Predicate AND. -/
  | vpand (f : VFields)
  /-- VPOR (R166): Predicate OR. -/
  | vpor (f : VFields)
  /-- VPXOR (R166): Predicate XOR. -/
  | vpxor (f : VFields)
  /-- VPNOT (R166): Predicate inversion. -/
  | vpnot (f : VFields)
  /-- VPLEN (R167): Sets the low c bits of a predicate. -/
  | vplen (f : VFields)
  /-- VRSUM (R168): Tree sum reduction over lanes. -/
  | vrsum (f : VFields)
  /-- VRMAX (R168): Maximum reduction over lanes. -/
  | vrmax (f : VFields)
  /-- VRMIN (R168): Minimum reduction over lanes. -/
  | vrmin (f : VFields)
  /-- VPERM (R169): Permutes lanes by indices. -/
  | vperm (f : VFields)
  /-- VBCAST (R169): Broadcasts one lane. -/
  | vbcast (f : VFields)
  /-- VROT (R169): Rotates lanes. -/
  | vrot (f : VFields)
  /-- VZIP (R169): Interleaves 16-bit elements. -/
  | vzip (f : VFields)
  /-- VUNZIP (R169): De-interleaves 16-bit elements. -/
  | vunzip (f : VFields)
  /-- VCVT (R170): Converts elements between types. -/
  | vcvt (f : VFields)
  /-- VQBFP (R171): Quantises 256 elements to one BFP block. -/
  | vqbfp (f : VFields)
  /-- VDQBFP (R172): Dequantises a BFP block to FP32. -/
  | vdqbfp (f : VFields)
  /-- VSRND (R173): Stochastically rounds FP32 lanes to a narrower type. -/
  | vsrnd (f : VFields)
  /-- VRNG (R174): Writes keyed coordinate-addressed random values. -/
  | vrng (f : VFields)
  /-- VLD (R175): Contiguous TM load. -/
  | vld (f : VFields)
  /-- VLDS (R175): Strided TM load. -/
  | vlds (f : VFields)
  /-- VLDG (R175): Gather TM load. -/
  | vldg (f : VFields)
  /-- VST (R175): Contiguous TM store. -/
  | vst (f : VFields)
  /-- VSTS (R175): Strided TM store. -/
  | vsts (f : VFields)
  /-- VSCAT (R175): Scatter TM store. -/
  | vscat (f : VFields)
  /-- VLDT (R178): Reads a row of a full tile register, optionally consuming it. -/
  | vldt (f : VFields)
  /-- VSTT (R178): Writes a row of an empty tile register; row 31 sets it full. -/
  | vstt (f : VFields)
  /-- VXADDI (R179): Index register add immediate. -/
  | vxaddi (f : VFields)
  /-- VXADD (R179): Index register add. -/
  | vxadd (f : VFields)
  /-- VXSET (R179): Index register set. -/
  | vxset (f : VFields)
  /-- VSEEDGEN (R187): Writes eight seeded basis rows. -/
  | vseedgen (f : VFields)
  /-- VSEEDSRCH (R188): Scores 64 candidate seeds against target values. -/
  | vseedsrch (f : VFields)
  /-- LIT (R82): Pushes a 15-bit value onto the sequencer stack. -/
  | lit (v : BitVec 15)
  /-- SEQ_IDLE (R83): Issues nothing for n beats. -/
  | seqIdle (n : BitVec 8)
  /-- IDLEW (R83): Pops a count and issues nothing for that many beats. -/
  | idlew
  /-- CAT (R83): Concatenates two stack values. -/
  | cat
  /-- DUP (R83): Duplicates the top of stack. -/
  | dup
  /-- DROP (R83): Pops the top of stack. -/
  | drop
  /-- SWAP (R83): Swaps the top two stack values. -/
  | swap
  /-- SADD (R83): Adds the top two stack values. -/
  | sadd
  /-- SNEG (R83): Negates the top of stack. -/
  | sneg
  /-- SSHL (R83): Shifts the top of stack left by k. -/
  | sshl (k : BitVec 6)
  /-- SEQ_WAITF (R83): Sequencer wait or test on a flag. -/
  | seqWaitf (f : BitVec 6) (clr : Bool)
  /-- SEQ_SIGF (R83): Sequencer set, clear or push of a flag. -/
  | seqSigf (f : BitVec 6) (val : Bool)
  /-- REP (R83): Begins a repeated body of n passes or a popped count. -/
  | rep (n : BitVec 8)
  /-- ENDR (R83): Ends the innermost repeated body. -/
  | endr
  /-- CLAIM (R197): Moves a Free operand slot to Claimed. -/
  | claim (slot : BitVec 4)
  /-- RELEASE (R197): Moves a Claimed or Ready slot to Free. -/
  | release (slot : BitVec 4)
  /-- FILL (R197): Pops a specifier address and queues a fetch into a Claimed slot. -/
  | fill (slot : BitVec 4)
  /-- SFILL (R197): Queues a seeded fetch into a Claimed slot. -/
  | sfill (slot : BitVec 4)
  /-- DFILL (R197): Queues a fetch with a delta list into a Claimed slot. -/
  | dfill (slot : BitVec 4)
  /-- MNEST (R202): Pops a value and register number and writes a loop-nest register. -/
  | mnest (bank : Bool)
  /-- MGO (R203): Arms a loop-nest bank and queues the nest. -/
  | mgo (p : BitVec 4) (whole acc bank : Bool)
  /-- PROMOTE (R211): Requests a promotion at the end of the next k-step. -/
  | promote
  /-- ACLR (R212): Sets an accumulator bank to +0.0. -/
  | aclr (whole bank : Bool)
  /-- AOUT (R213): Writes accumulator rows to TM or a tile register. -/
  | aout (tile whole bank : Bool)
  /-- MEND (R214): Ends the half's matrix stream. -/
  | mend
  /-- LREC (R221): Loads layout record 0 or 1 from 16 body halfwords. -/
  | lrec (n : Bool)
  /-- COPY (R225): Lift copy of every element of the iteration space. -/
  | copy (tile tok : Bool) (fifo : BitVec 4)
  /-- COPYZ (R227): Lift copy with the far side in ZRC coding. -/
  | copyz (tile tok : Bool) (fifo : BitVec 4)
  /-- CHAIN (R230): Passes the CRC register to the next command of the queue. -/
  | chain
  /-- CRCSET (R229): Pops and sets the CRC register and enables it. -/
  | crcset
  /-- CRCCHK (R229): Pops an expected value and ends the command on mismatch. -/
  | crcchk
  /-- LFENCE (R231): Waits for earlier copies' writes before later copies. -/
  | lfence
  /-- LEND (R218): Ends a Lift or collective command image. -/
  | lend
  /-- CSEND (R234): Sends BYTES to a peer device under a collective number. -/
  | csend
  /-- CRECV (R234): Waits for a peer's contribution and writes it to DST. -/
  | crecv
  /-- CREDUCE (R235): Group reduction in rank order. -/
  | creduce (op : BitVec 3)
  /-- CGATHER (R234): Gathers every member's contribution at DST. -/
  | cgather
  /-- CBAR (R234): Group barrier. -/
  | cbar
  /-- CWAIT (R234): Waits for operations the command started earlier. -/
  | cwait
  /-- FREEZE_PULSE_ARRIVAL (R251): A unit freezes when the first freeze pulse reaches it. -/
  | freezePulseArrival (rink lcore : Nat)
  /-- HYPERVISOR_RETURN (R147): The hypervisor returns and the context resumes after hcall. -/
  | hypervisorReturn (site : Nat) (ctx : Bool) (regs : List Word)
  /-- UNIT_ALLOCATION (R138): Units of an accepted launch are allocated once their cores are free. -/
  | unitAllocation (rink lctr : Nat)
  /-- START_PULSE (R245): Entry requirements and patterns agree, and the start pulse leaves the origin. -/
  | startPulse (rink lctr : Nat)
  /-- UNIT_COMPLETE (R149): A unit completes when its streams end and its commands retire. -/
  | unitComplete (rink lctr lcore : Nat)
  /-- FILL_START (R199): A queued fill starts, reads and checks its record. -/
  | fillStart (site : Nat) (half : Bool)
  /-- FILL_COMPLETE (R198): The fill makes its slot Ready after D beats. -/
  | fillComplete (site : Nat) (half : Bool)
  /-- NEST_START (R205): A queued nest starts, clearing rows in overwrite mode. -/
  | nestStart (site : Nat) (half : Bool)
  /-- NEST_RETIRE (R205): The nest retires: DONE signalled, flags merged, bank disarmed. -/
  | nestRetire (site : Nat) (half : Bool)
  /-- LIFT_COMMAND_START (R215): A Lift engine starts the next command of its rink after the previous retired. -/
  | liftCommandStart (site : Nat) (l1 : Bool)
  /-- COPY_TOKEN_PUSH (R225): A copy pushes its token once all its writes are performed. -/
  | copyTokenPush (site : Nat) (l1 : Bool)
  /-- COMMAND_RETIRE (R217): A command retires, releasing pins and merging flags. -/
  | commandRetire (u : EngineId)
  /-- COLLECTIVE_COMMAND_START (R216): A collective engine starts the next command round-robin across cores. -/
  | collectiveCommandStart (die e : Nat)
  /-- COLLECTIVE_OP_COMPLETE (R234): A collective operation completes, writes its result and may post an element. -/
  | collectiveOpComplete (rink cnum : Nat)
  /-- CONTRIBUTION_ARRIVAL (R390): A contribution arrives, lands or is refused. -/
  | contributionArrival (c : Contribution)
  /-- COLLECTIVE_TIMEOUT (R393): The operation's timer reaches BEATS and it ends with STATUS 0x04. -/
  | collectiveTimeout (rink cnum : Nat)
  /-- DATA_FLIT (R385): A data flit is delivered or forwarded by the route table. -/
  | dataFlit (port : Nat) (flit : Flit)
  /-- CREDIT_FLIT (R392): A credit flit lets the sender send more. -/
  | creditFlit (arrival : LinkFlit)
  /-- REFUSAL_FLIT (R390): A refusal ends the sending operation with its STATUS. -/
  | refusalFlit (port : Nat) (flit : Flit)
  /-- KEEP_ALIVE_FLIT (R384): A keep-alive flit is answered. -/
  | keepAliveFlit (arrival : LinkFlit)
  /-- NEGATIVE_ACKNOWLEDGE (R382): A NAK makes the sender replay from the last good SEQ. -/
  | negativeAcknowledge (port : Nat) (lastGood : BitVec 16)
  /-- LANE_FAILURE (R383): A failed lane starts retraining on seven lanes. -/
  | laneFailure (port : Nat)
  /-- RETRAIN_COMPLETE (R383): Retraining completes and buffered flits are replayed. -/
  | retrainComplete (port : Nat)
  /-- RETRAIN_TIMEOUT (R383): Retraining does not complete in time and the port goes down. -/
  | retrainTimeout (port : Nat)
  /-- TICK (R264): A die tick increments the age of every valid row group. -/
  | tick (die : Nat)
  /-- GROUP_EXPIRY (R271): A group's age passes its limit and its policy applies. -/
  | groupExpiry (site group : Nat)
  /-- POLICY_REFRESH (R271): A queued refresh rewrites a group on a free bank beat. -/
  | policyRefresh (site group : Nat)
  /-- FORCED_REFRESH (R271): A refresh waiting 32 ticks takes the bank's next beat. -/
  | forcedRefresh (site group : Nat)
  /-- TEMPERATURE_SAMPLE (R269): Sensor sample; a higher band takes effect at once. -/
  | temperatureSample (die : Nat) (celsius : Int)
  /-- BAND_FALL (R269): After 1 ms of lower samples the band falls. -/
  | bandFall (die : Nat)
  /-- ATOMIC_UNIT_SERVE (R294): The atomic unit serves one queued request round-robin. -/
  | atomicUnitServe (bank : Nat)
  /-- HOST_BAR_WRITE (R298): A host write through a BAR is performed at its controller. -/
  | hostBarWrite (fn : Nat) (addr : Word) (data : List Byte) (relaxed : Bool)
  /-- HOST_BAR_READ (R298): A host read of device memory through a BAR. -/
  | hostBarRead (fn : Nat) (addr : Word) (len : Nat)
  /-- HOST_ATOMICOP (R294): A PCIe AtomicOp is queued at the atomic unit. -/
  | hostAtomicop (fn : Nat) (op : HostAtomic) (addr : Word)
  /-- JOB_GO (R327): A JCTL.GO write captures the job and is checked for ordering and queue room. -/
  | jobGo (fn slot : Nat) (jctl : Word) (relaxed : Bool)
  /-- JOB_ACCEPTANCE (R327): With journal room, SEQ is assigned and the acceptance record written. -/
  | jobAcceptance (fn slot : Nat)
  /-- JOB_CANCEL (R330): A JCTL.CANCEL write cancels the slot's jobs. -/
  | jobCancel (fn slot : Nat)
  /-- JOB_START (R320): The Rink Sequencer starts a new job or resumes one from its image. -/
  | jobStart (rink : Nat)
  /-- OPERATOR_LENGTH_EXCEEDED (R323): An operator passes 10^6 beats and an event record is posted. -/
  | operatorLengthExceeded (rink : Nat)
  /-- TINV_GUEST_PAGE (R345): Invalidates translations of one guest virtual page. -/
  | tinvGuestPage (fn : Nat) (page : Word)
  /-- TINV_INTERMEDIATE_PAGE (R345): Invalidates translations of one intermediate page. -/
  | tinvIntermediatePage (fn : Nat) (page : Word)
  /-- TINV_ALL (R345): Invalidates all translations of the VF. -/
  | tinvAll (fn : Nat)
  /-- TINV_DONE (R345): An invalidation completes and DONE returns to 1. -/
  | tinvDone (fn : Nat)
  /-- STAGE2_LEAF_WRITE (R339): A hypervisor write of a stage-2 leaf, ignored while pinned or moving. -/
  | stage2LeafWrite (entry : Nat) (word0 : Word) (create : Bool)
  /-- MIGREQ (R348): The hypervisor requests a page move. -/
  | migreq (fn : Nat) (val : Word)
  /-- MIGRATION_EPOCH (R348): At each 1 ms epoch hardware selects pages to promote or demote. -/
  | migrationEpoch (fn : Nat)
  /-- PAGE_MIGRATION_START (R347): Sets MOV, invalidates translations and copies the page. -/
  | pageMigrationStart (fn : Nat) (page : Word) (target : Nat)
  /-- PAGE_MIGRATION_COMPLETE (R347): MA is rewritten and MOV cleared; waiters proceed. -/
  | pageMigrationComplete (fn : Nat) (page : Word)
  /-- KEY_ERASE (R355): KCTL.ERASE clears a key slot and its root. -/
  | keyErase (slot : Nat)
  /-- WINDOW_DESTROY (R356): Clearing WCTL.VALID completes once all window pins are zero. -/
  | windowDestroy (w : Nat)
  /-- RINK_CREATE (R364): Setting RCTL.VALID creates the rink and clears its engines. -/
  | rinkCreate (rink : Nat) (val : Word)
  /-- RINK_DESTROY (R364): Clearing RCTL.VALID frees regions, cancels jobs and drops ownership. -/
  | rinkDestroy (rink : Nat)
  /-- RINK_SUSPEND (R365): Writing SUSP = 1 suspends the rink now or at its next gate. -/
  | rinkSuspend (rink : Nat)
  /-- RINK_UNSUSPEND (R365): Writing SUSP = 0 clears SUSPD. -/
  | rinkUnsuspend (rink : Nat)
  /-- OWN_WRITE (R363): A write of engine ownership, refused with BAD unless valid. -/
  | ownWrite (site : Nat) (val : Word)
  /-- PLACE_ENTRY_WRITE (R367): A place or link entry write, only while suspended and not to a failed site. -/
  | placeEntryWrite (rink : Nat) (off : Nat) (val : Word)
  /-- TMSHARE_WRITE (R445): A TM split write, taking effect only under its conditions. -/
  | tmshareWrite (site : Nat) (val : Word)
  /-- CPAT_WRITE (R369): A PF write of a cluster pattern, held under a running launch. -/
  | cpatWrite (die c : Nat) (val : Word)
  /-- CPAT_APPLY (R239): A held pattern takes effect once no launch runs in the cluster. -/
  | cpatApply (die c : Nat)
  /-- RFAB_WRITE (R387): A fabric identity write, refused if it duplicates another rink's FID. -/
  | rfabWrite (rink : Nat) (val : Word)
  /-- RLAND_WRITE (R389): A landing window write, refused unless the window is owned. -/
  | rlandWrite (rink : Nat) (val : Word)
  /-- RVOTE_WRITE (R429): A vote write sets PEND; a CAP write may lower EFF. -/
  | rvoteWrite (who : Requester) (rink : Nat) (val : Word)
  /-- OPTAB_WRITE (R428): An operating-point entry write, ignored outside limits or order. -/
  | optabWrite (k : Nat) (val : Word)
  /-- PERF_CLAIM (R373): A claim of a counter bank or trace unit. -/
  | perfClaim (who : Requester) (site : Nat) (perf : Nat)
  /-- PERF_RELEASE (R373): The holder releases a counter bank or trace unit. -/
  | perfRelease (who : Requester) (site : Nat) (perf : Nat)
  /-- PERF_REVOKE (R373): The PF revokes a claim and freezes the bank. -/
  | perfRevoke (site : Nat) (perf : Nat)
  /-- TRACE_SAMPLE (R375): Every 2^SPER beats a sample record is written. -/
  | traceSample (site : Nat)
  /-- TRACE_RECORD_DROP (R375): A record finding no beat within 64 beats is dropped. -/
  | traceRecordDrop (site : Nat)
  /-- SNAPTRIG_RINK (R379): A rink SNAPTRIG write triggers a snapshot of that rink. -/
  | snaptrigRink (who : Requester) (rink : Nat)
  /-- SNAPTRIG_DIE (R379): A die SNAPTRIG write triggers a device-wide snapshot. -/
  | snaptrigDie (die : Nat)
  /-- RFRZ_RESUME (R414): RESUME restarts the frozen launch. -/
  | rfrzResume (rink : Nat)
  /-- RFRZ_REWIND (R414): REWIND rewinds the rink to its last Gate. -/
  | rfrzRewind (rink : Nat)
  /-- AUTO_RESUME (R415): All deviating conditions hold and the launch resumes. -/
  | autoResume (rink : Nat)
  /-- LAUNCH_FROZEN_TRAP (R416): A freeze not resumed in 2^20 beats traps the Rink Sequencer. -/
  | launchFrozenTrap (rink : Nat)
  /-- RESUME_PULSE_ARRIVAL (R253): A unit resumes at the first resume pulse and replays its snapshot. -/
  | resumePulseArrival (rink lcore : Nat)
  /-- CORE_CHECK (R423): A core fault or missed check marks the site failed and rewinds its rinks. `fault` is the WHERE of SERRU, 3 to 5, and
  the INDEX of an uncorrectable error that is one of R421's; an error of the router, which SERRU does not name, has the place 6, and a missed check has none. -/
  | coreCheck (site : Nat) (fault : Option (Nat × Nat))
  /-- PCREMAP_GO (R422): Starts remapping a pseudo-channel to a spare. -/
  | pcremapGo (val : Word)
  /-- PCREMAP_DONE (R422): The remap copy completes and DONE is set. -/
  | pcremapDone
  /-- WARM_RESET (R426): Warm reset keeps the island and restarts accepted jobs. -/
  | warmReset
  /-- OPERATING_POINT_CHANGE (R430): The target point is recomputed when rinks start, stop or change EFF. -/
  | operatingPointChange
  /-- CLOCK_SWITCH (R432): The master clock switches at a multiple-of-16 cycle and CUR changes. -/
  | clockSwitch
  /-- VOLTAGE_RAMP_DONE (R432): The rails reach their target voltage. -/
  | voltageRampDone
  /-- SUPPLY_MONITOR_SAMPLE (R434): Every 1 µs the draw is measured and ballast updated. -/
  | supplyMonitorSample (draw capacity : Nat)
  /-- HOLD_ENTRY (R437): After 4,096 idle beats the device enters Hold. -/
  | holdEntry
  /-- HOLD_EXIT (R437): A wake event returns the device to Run. -/
  | holdExit
  /-- PGOOD_WARN_N_FALL (R438): The power warning pin falls and Retention entry begins. -/
  | pgoodWarnNFall
  /-- RETCTL_ENTER (R436): A write of ENTER begins Retention entry. -/
  | retctlEnter
  /-- RETCTL_RESUME (R440): A write of RESUME starts resumption. -/
  | retctlResume
  /-- RETENTION_DEADLINE (R438): At HOLDUS unstopped rinks are rewound and images written. -/
  | retentionDeadline
  /-- RETENTION_COMPLETE (R438): Memory enters self-refresh and the compute dies power off. -/
  | retentionComplete (us : Nat)
  /-- PGOOD_STABLE (R440): PGOOD_WARN_N high for STABLE ms starts automatic resumption. -/
  | pgoodStable
  /-- RETENTION_RESUME (R440): Dies power up, memory leaves self-refresh and rinks resume. -/
  | retentionResume
  /-- BOOT (R441): The boot ROM verifies and runs firmware stages. -/
  | boot (stage0 stage1 qual : List Byte)
  /-- MEASUREMENT_EXTEND (R442): A PF write extends MEAS3 with a 64-byte value. -/
  | measurementExtend (v : List Byte)
  /-- ATTCMD (R443): Starts an attestation report for the function's nonce. -/
  | attcmd (fn : Nat)
  /-- ATTESTATION_COMPLETE (R443): The report is written and ATTCMD cleared. -/
  | attestationComplete (fn : Nat)
  /-- READ_CLEAR_REGISTER (R11): A read of an RC register returns and clears it. -/
  | readClearRegister (who : Requester) (addr : Word)
  /-- REGISTER_WRITE (R11): A write to a register without a row of its own, under its access codes. -/
  | registerWrite (who : Requester) (addr : Word) (val : Word)
  /-- OFF_CHIP_ACCESS_PERFORMED (R114): An elastic CC load, store or off-chip instruction fetch is performed at its memory controller and its result becomes available. -/
  | offChipAccessPerformed (site : Nat) (ctx : Bool) (isLoad : Bool)
  /-- HOST_READ_COMPLETION (R298): A PCIe completion returns for a device read of host space, including the zero-length reads of fence scope 4 and of Lift commands that wrote host space. -/
  | hostReadCompletion (site : Nat) (ctx : Bool) (ok : Bool)
  /-- FUNCTION_RESET (R327): A reset of one PCIe function returns its job-slot and journal registers to their reset values and restarts SEQ numbering at 1. -/
  | functionReset (fn : Nat)
  /-- POWER_OFF (R6): The module loses its supply and enters Off, keeping only its non-volatile store. -/
  | powerOff
  deriving DecidableEq, Repr

end Sys2Proof
end

