-- ==== Sys2Proof/Machine/State.lean ====
section
/-!
DEFINITION. The state of a Caldaska module as plain data: every register, file, queue, memory and counter the spec
names (INVENTORY.md lists each with its rule), and the state right after reset. A field comment cites the rule
that names it. Values the spec gives no reset value for are named in notes/assumptions/2.md.
-/

namespace Sys2Proof.Machine

/-- A capability register: 128 bits and the hidden tag (02 R44). -/
structure Cap where
  bits : CapBits
  tag : Bool
  deriving DecidableEq, Repr

def Cap.null : Cap := ⟨0, false⟩

/-- The classes of a queue head in a kept beat (15 R370). -/
inductive Cls where
  | issuing | flag | busy | empty
  deriving DecidableEq, Repr

/-- What each stream has: whether it runs, its mode (00 R5), the beat its next word may issue in (03 R86),
whether that word's own idle count and stall have been counted or, of a context, whether it waits for an earlier result (04 R96), and its class in this beat (15 R370). -/
structure Ctl where
  running : Bool
  timetabled : Bool
  next : Nat
  prepared : Bool
  cls : Cls
  deriving DecidableEq, Repr

def Ctl.halted : Ctl := ⟨false, false, 0, false, .empty⟩

/-- A memory page a translation found (14 R340): its space and virtual base, size, machine base, intermediate base,
key slot (none for the PF's plaintext frames, R350), the address of its stage-2 leaf (none for identity pages), and the COMP bit of its stage-1 leaf
(R341). -/
structure Page where
  space : Nat
  va : Nat
  size : Nat
  ma : Nat
  ia : Nat
  key : Option Nat
  leaf : Option Nat
  comp : Bool
  deriving DecidableEq, Repr

/-- A base of a command: the capability as staged (05 R129) and the pages its push translated (R130). -/
structure Base where
  cap : Cap
  pages : List Page
  deriving DecidableEq, Repr

/-- Where an off-chip access goes after its checks (14 R334). -/
inductive Target where
  | tm (site : Nat) (addr : Nat)
  | machine (ma : Nat) (ia : Nat) (key : Option Nat)
  | hostBus (fn : Nat) (addr : Nat)
  | config (addr : Nat)
  deriving DecidableEq, Repr

/-- How a loaded value reaches its register (03 R74). -/
inductive LoadKind where
  | signed | unsigned | capability
  deriving DecidableEq, Repr

/-- An access that waits in a context's load or store buffer (04 R114): its space and virtual address, bytes, the value
stored with the tag of an st.c, the register loaded and whether its tag may be restored, the MARK epoch and position it was
issued in, the beat from which it may be performed, and the beats from its performance to its result. -/
structure Access where
  space : Nat
  va : Nat
  target : Target
  len : Nat
  data : List Byte
  tag : Bool
  kind : LoadKind
  ldc : Bool
  dst : Nat
  epoch : Nat
  order : Nat
  made : Nat
  due : Nat
  lat : Nat
  deriving DecidableEq, Repr

/-- A trap that a context takes before its next instruction (10 R272, 16 R393, 18 R416). -/
structure PendTrap where
  code : Nat
  info : Nat
  fatal : Bool
  deriving DecidableEq, Repr

/-- The registers of a trap and of the return-address store (02 R61, R62, R64). -/
structure TrapRegs where
  epc : Word
  enpc : Word
  eds : BitVec 2
  ecause : Word
  rscnt : BitVec 5
  rse : Table Word
  handler : Bool
  heldCode : Cap
  pend : List PendTrap
  hcallWait : Bool
  deriving DecidableEq, Repr

/-- The load and store buffers and what orders them (04 R114 to R120, 11 R283). -/
structure Buffers where
  loads : List Access
  stores : List Access
  epoch : Nat
  count : Nat
  atomicOut : Bool
  hostDirty : List Nat
  hostReads : Nat
  deriving DecidableEq, Repr

/-- A half of a context's instruction buffer: the space and address of its first word, and its words (09 R255). -/
structure FetchHalf where
  space : Nat
  addr : Nat
  words : List (BitVec 32)
  deriving DecidableEq, Repr

/-- One CC context, with its instruction buffer, the addresses of the halves it fetches ahead, and whether it waits for an off-chip fetch (02 R43 to R66, 09 R255, 04 R103, R107, 05 R128, R129). `was` is the position of
its last word that fell through, for a request of it that loses its bank (10 R258). `prevFctl` and `prevSrkey` are FCTL and SRKEY before the mts of
beat `ctlAt` - 1, which words of that beat still sample (05 R148). -/
structure Ctx where
  s : Table Word
  sValid : BitVec 32
  sReady : Table Nat
  sElastic : BitVec 32
  a : Table Cap
  aValid : BitVec 16
  aReady : Table Nat
  aElastic : BitVec 16
  divFree : Nat
  pc : Word
  npc : Word
  slots : BitVec 2
  was : Word × Word × BitVec 2
  code : Cap
  ctl : Ctl
  trap : TrapRegs
  fstat : BitVec 6
  fctl : BitVec 6
  srkey : Word
  prevFctl : BitVec 6
  prevSrkey : Word
  ctlAt : Nat
  ecnt : BitVec 48
  ecntSat : Bool
  ctxid : Word
  vfid : Word
  staged : Table (List Base)
  buf : Buffers
  ib : List FetchHalf
  ahead : List Nat
  fetching : Bool
  rendezBeat : Option Nat
  lastLaunch : Option Nat
  isUnit : Bool
  deriving DecidableEq, Repr

/-- RING, LCNT and LPASS (02 R65). -/
structure Loop where
  pturn : BitVec 3
  size : BitVec 6
  turn : BitVec 6
  loopno : BitVec 8
  depth : BitVec 8
  count : BitVec 32
  pass : BitVec 32
  deriving DecidableEq, Repr

/-- The vector engine (02 R48 to R53, 06). A vector register is its 64 lanes, lane 0 first; a latch is empty or 64 lanes. `stall` is the bank
stall that the prepared word still has ahead (02 R49); `prevLoop` is the loop registers before the mts of beat `loopAt` - 1 (05 R148); `looping` says that a loop is
open, from its vsetlc to the second delay slot of the vloop that ends it (06 R180, R181); `brk` is 1 while a breakpoint waits for the pass to end and 2 once it
has (15 R376). -/
structure Ve where
  v : Table (List Lane)
  p : Table (BitVec 64)
  x : Table (BitVec 32)
  vValid : BitVec 96
  pValid : BitVec 16
  xValid : BitVec 16
  vReady : Table Nat
  pReady : Table Nat
  xReady : Table Nat
  latchA : Option (List Lane)
  latchB : Option (List Lane)
  latchC : Option (List Lane)
  loop : Loop
  prevLoop : Loop
  loopAt : Nat
  looping : Bool
  pc : Word
  npc : Word
  slots : BitVec 2
  taken : Bool
  stall : Nat
  brk : Nat
  code : Cap
  ctl : Ctl
  deriving DecidableEq, Repr

/-- An open repeated body (03 R83): where it starts, how many passes are left after this one, and whether this is a later pass. -/
structure Rep where
  start : Nat
  left : Nat
  later : Bool
  deriving DecidableEq, Repr

/-- The operand stack and repeated bodies of a sequencer stream or command (03 R82, R83); the top of the stack is the
head. `pc` is a halfword index from the start of the stream or image. -/
structure Seq where
  stack : List Word
  reps : List Rep
  pc : Nat
  deriving DecidableEq, Repr

def Seq.fresh : Seq := ⟨[], [], 0⟩

/-- A BFP block: exponent byte, width and mantissas (01 R20). `decided` says that deltas were applied to it, so that R22's decision on it was
taken before them and is not taken again. -/
structure Block where
  e : BitVec 8
  w : Nat
  m : List Int
  decided : Bool := false
  deriving DecidableEq, Repr

/-- What a Ready slot holds (07 R191). -/
inductive Tile where
  | none
  | a (w : Nat) (rows : List Block)
  | dense (cols : List Block) (sigma : List Lane)
  | seeded (seed : Lane) (coefs : List (BitVec 16)) (count : Nat) (sigma : List Lane) (delta : Option (List Block))
  deriving DecidableEq, Repr

/-- The four states of an operand slot (02 R55). -/
inductive SlotState where
  | free | claimed | filling | ready
  deriving DecidableEq, Repr

/-- An operand slot with the numeric flags held with it (07 R200). -/
structure Slot where
  st : SlotState
  tile : Tile
  flags : BitVec 6
  deriving DecidableEq, Repr

def Slot.empty : Slot := ⟨.free, .none, 0⟩

/-- The three fill words (07 R192). -/
inductive FillKind where
  | fill | sfill | dfill
  deriving DecidableEq, Repr

/-- How a fill forms the scales of its columns (07 R193, R195): SCALE, TSCALE, the row-scale source and how many columns it has. -/
structure Scaling where
  mode : Nat
  tscale : Nat
  treg : Nat
  trow : Nat
  keep : Bool
  count : Nat
  deriving DecidableEq, Repr

def Scaling.none : Scaling := ⟨0, 0, 0, 0, false, 0⟩

/-- A fill in the half's fetch queue (07 R198): its slot, record address, the FCTL sampled at issue, the word's address,
and once started its last beat, how it forms its scales, and what else it will leave in the slot. -/
structure Fill where
  slot : Nat
  record : Nat
  kind : FillKind
  fctl : BitVec 6
  issued : Nat
  word : Nat
  started : Option Nat
  ends : Nat
  banks : List Nat
  scaling : Scaling
  tile : Tile
  flags : BitVec 6
  gave : Nat
  deriving DecidableEq, Repr

/-- A nest that is armed (07 R203, R205): its bank and form, what its MGO sampled, and how far it has run. `idx` is the index
vector of the k-step, innermost first; `step` the beat in which that k-step starts, or ends while it is `busy`; `read` the
slots read since the last SWAP, with their half; `taken` the flags that came with the slots it read (07 R200); `outDue` the latest beat of its OUT writes; `done` the retirement beat once it is known. -/
structure Nest where
  bank : Side
  whole : Bool
  accumulate : Bool
  period : Nat
  fctl : BitVec 6
  srkey : Word
  issuer : Side
  issued : Nat
  started : Bool
  idx : List Nat
  busy : Bool
  step : Nat
  pend : Nat
  prom : Nat
  last : Option Nat
  read : List (Side × Nat)
  flags : BitVec 6
  taken : BitVec 6
  outDue : Nat
  done : Option Nat
  deriving DecidableEq, Repr

/-- One matrix half with its stream, fetcher, slots and accumulators (02, 07). `slotErrs` and `sumErrs` are the storage errors that lie in its slots and
in its accumulators and narrow sums, 1 correctable and 2 uncorrectable (18 R420); `sumErrs` is keyed by 16384 × bank + 256 × row + column of the half, a
narrow sum by 32768 + column. -/
structure Half where
  slots : Table Slot
  slotErrs : Table Nat
  sumErrs : Table Nat
  accA : Table Lane
  accB : Table Lane
  narrow : Table (BitVec 24)
  regsA : Table Word
  regsB : Table Word
  nests : List Nest
  fills : List Fill
  promoteAt : Option Nat
  seq : Seq
  pcBase : Word
  code : Cap
  ctl : Ctl
  deriving DecidableEq, Repr

/-- A command in LQ, SQ or CE (05 R130): `num` is its place in the core's push order (08 R215), `order` the accesses of its context that
are older (05 R131). -/
structure Command where
  words : List (BitVec 16)
  bases : List Base
  rink : Nat
  ctx : Side
  queue : Nat
  num : Nat
  seen : Nat
  order : Nat
  image : Nat
  deriving DecidableEq, Repr

/-- The CRC register and enable bit of a command or of its chain (08 R229, R230). -/
structure Crc where
  r : BitVec 32
  on : Bool
  deriving DecidableEq, Repr

/-- How a command ended or that it has not (08 R217, R230, R232). -/
inductive CmdEnd where
  | running | ended | dataError | faulted
  deriving DecidableEq, Repr

/-- Where the decoding of a ZRC stream stands: the byte it has come to, the kind of the open run, how many words it still gives, and a repeated
run's word once it is read (08 R228). -/
structure Zrun where
  pos : Nat
  kind : Nat
  left : Nat
  word : Option Lane
  deriving DecidableEq, Repr

/-- How far a copy has come (08 R225 to R228): elements moved, or words where a side is coded; bytes moved; the CRC register; the bit LINJ inverts,
as byte and bit; the index entry read for the element that comes; the decoding of a coded source, the plain bytes it gave and its code as read; and, once a coded destination's code is formed,
that code and how much of it is written. -/
structure Progress where
  n : Nat
  off : Nat
  r : BitVec 32
  inj : Option (Nat × Nat)
  entry : Option Nat
  dec : Zrun
  got : List Byte
  code : List Byte
  out : Option (List Byte)
  put : Nat
  deriving DecidableEq, Repr

/-- A read of host space by a Lift engine: none, one that is out, or one whose completion has come (11 R298, 14 R359). -/
inductive HostRead where
  | none | asked | granted
  deriving DecidableEq, Repr

/-- A running command of an engine (08 R217, R220, R229); `copy` is the copy it performs (R225), `flushes` the zero-length reads of
host space that are out, `status` the status and detail of a data error that follow them (11 R298). -/
structure Run where
  cmd : Command
  seq : Seq
  rec0 : Option (List Byte)
  rec1 : Option (List Byte)
  crc : Crc
  chained : Bool
  copy : Option Progress
  host : HostRead
  token : Option Nat
  wroteHost : Bool
  flushes : Nat
  status : Option (Nat × Nat)
  flags : BitVec 6
  ctl : Ctl
  fin : CmdEnd
  site : Nat
  deriving DecidableEq, Repr

/-- What a pipeline entry does when its beat comes (09 R247, R248, R251). TM addresses are those of the site that holds the
entry; `src` is the site whose context issued a load. A lane is its number, address and, for a store, data. -/
inductive Act where
  | ccLoad (src : Nat) (ctx : Side) (addr len : Nat) (kind : LoadKind) (ldc : Bool) (dst : Nat)
  | tmStore (addr : Nat) (data : List Byte) (tag : Option Bool)
  | veLoad (lanes : List (Nat × Nat)) (phys : Nat)
  | veStore (lanes : List (Nat × Lane))
  | tileLoad (tile row phys : Nat) (mask : BitVec 64) (zero consume : Bool)
  | tileStore (tile row : Nat) (lanes : List (Nat × Lane))
  | outRow (addr : Nat) (data : List Byte)
  | aoutRow (half bank whole : Bool) (row : Nat) (bf clear : Bool) (fctl : BitVec 6) (tile : Option Nat) (addr left : Nat)
  | accClear (half bank whole : Bool)
  | sumRow (half bank : Bool) (row : Nat) (sums : List (Nat × Lane))
  | signal (flag : Nat)
  | refresh (group : Nat)
  | collision (dir lane : Nat)
  | mergeFlags (ctx : Side) (flags : BitVec 6)
  deriving DecidableEq, Repr

/-- A perform or flag action still in flight: the pipeline snapshot of 09 R251 holds exactly these. `stream` is the
ECAUSE.STREAM code of the stream that issued it; `again` marks an action that deviated and is taken again (R250); `made` is the beat it was asked for
in, and `via` the issuing site and the arrival direction of an access from another core (10 R258). -/
structure Pend where
  due : Nat
  made : Nat
  stream : Nat
  via : Option (Nat × Nat)
  rink : Nat
  again : Bool
  act : Act
  deriving DecidableEq, Repr

/-- The lifetime policies of a region (10 R259). -/
inductive Policy where
  | refresh | trap | drop
  deriving DecidableEq, Repr

/-- A TM region (10 R259): byte base and size, lifetime class, attributes, owner and the launch that placed it. -/
structure Region where
  rink : Nat
  base : Nat
  size : Nat
  cls : Nat
  policy : Policy
  persistent : Bool
  compressed : Bool
  owner : Side
  launch : Option Nat
  deriving DecidableEq, Repr

/-- A row group's validity, age, dirty bit and queued refresh with its ticks of waiting, and whether that refresh is a freeze-hold refresh or one
that a soft error alone asked for (10 R262, R264, R271, R273, R275, 18 R420). -/
structure Group where
  valid : Bool
  age : Nat
  dirty : Bool
  queued : Option Nat
  hold : Bool
  soft : Bool
  deriving DecidableEq, Repr

def Group.empty : Group := ⟨false, 0, false, none, false, false⟩

/-- The flag block (02 R56): full bits of the tile registers, tokens held, event bits, the three as they stood before this
beat's clears, the sets and pushes of this beat, and the FIFOs whose pushes fail as a whole in this beat. -/
structure Flags where
  full : BitVec 16
  tokens : Table Nat
  events : BitVec 32
  fullBefore : BitVec 16
  tokensBefore : Table Nat
  eventsBefore : BitVec 32
  sets : List Nat
  blocked : List Nat
  deriving DecidableEq, Repr

/-- A CLAIM register (15 R373). -/
structure Claim where
  held : Bool
  hv : Bool
  frozen : Bool
  rink : Nat
  deriving DecidableEq, Repr

/-- A request to the performance arbiter of a core: the claim, what it asks (1 claim, 2 release, 3 revoke), whether the PF asks, else the rink with
its requester number (15 R373, 11 R294). -/
structure ClaimReq where
  claim : Nat
  op : Nat
  hv : Bool
  rink : Nat
  num : Nat
  deriving DecidableEq, Repr

/-- A counter bank (15 R374). -/
structure Bank where
  sel : Word
  cnt : Table (BitVec 48)
  run : Bool
  deriving DecidableEq, Repr

/-- A fault frame's registers (18 R413). -/
structure Frame where
  stat : Word
  beat : Word
  pcs : List Word
  npcs : List Word
  snapCount : Nat
  deriving DecidableEq, Repr

/-- A latched snapshot set (15 R379): SNSEQ and the values in the rule's order. -/
structure Snap where
  seq : BitVec 32
  vals : List Word
  deriving DecidableEq, Repr

/-- An engine field of OWN or CEOWN: V and the rink's number (15 R363). -/
structure Owner where
  v : Bool
  rink : BitVec 6
  deriving DecidableEq, Repr

def Owner.none : Owner := ⟨false, 0⟩

/-- The rink that owns the engine, none when V is clear. -/
def Owner.rink? (o : Owner) : Option (BitVec 6) := if o.v then some o.rink else Option.none

/-- OWN's seven engine fields (15 R363). -/
structure Own where
  ctx0 : Owner
  ctx1 : Owner
  ve : Owner
  h0 : Owner
  h1 : Owner
  l0 : Owner
  l1 : Owner
  bad : Bool
  deriving DecidableEq, Repr

/-- A cached translation (14 R345). -/
structure Tlb where
  fn : Nat
  page : Page
  writable : Bool
  deriving DecidableEq, Repr

/-- The counters and observation registers of a core block (10 R278, 15 R370 to R379, 16 R394, 18 R413, R421). `trQ` holds the trace records
that wait for a free bank beat, with the beat each was made in (R375); `tmFaultAt` and `tmFaultRank` are one more than the beat of TMFAULT's fault,
and its place in R278's order; `asked` holds the requests of this
arbiter cycle (R373). -/
structure Obs where
  wcnt : Table (BitVec 48)
  tmFault : Word
  tmFaultAt : Nat
  tmFaultRank : Nat
  tmCnt : Table (BitVec 48)
  qcnt : Table (BitVec 48)
  claims : Table Claim
  asked : List ClaimReq
  banks : Table Bank
  trctl : Word
  trDrop : BitVec 32
  trPtr : BitVec 32
  trQ : List (Nat × List Byte)
  bpA : Table Word
  bpB : Table Word
  snap : Snap
  snapReq : Option Nat
  frame0 : Frame
  frame1 : Frame
  linj : Word
  linjCount : Nat
  serrc : BitVec 48
  serru : Word
  deriving DecidableEq, Repr

/-- The command queues and status FIFOs of a core (08 R215, R230, R232, R237). `chains` and `skips` are keyed by 2 × queue + context:
what a chain passes on, and the commands a failed chain has discarded so far with the word it failed at. -/
structure Queues where
  lq : List Command
  sq : List Command
  ce : List Command
  pushed : Nat
  run0 : Option Run
  run1 : Option Run
  chains : Table Crc
  skips : Table (Nat × Nat)
  liftFifo : List Word
  liftLost : Bool
  collFifo : List Word
  deriving DecidableEq, Repr

/-- The tile memory of a core: bytes, tags per granule, the errors that lie in it, regions, row groups, the groups whose age was reset in this
beat (R266), the ticks that fall in this beat, retirement bits, SPLIT (10, 02 R47). `turn` is the elastic requester that had each bank last: 0 L0, 1 L1, 2 a refresh, 3 a
save or restore (R257); `images` are the groups that saves and restores still move, by rink and group, with the beats of their bank that each still takes. `errs` is keyed by doubleword: 1 a correctable error, 2 an uncorrectable one (18 R420). -/
structure Tm where
  bytes : Mem
  tags : Table Bool
  errs : Table Nat
  regions : List Region
  groups : Table Group
  written : List Nat
  ticks : Nat
  turn : Table Nat
  images : List (Nat × Nat × Nat)
  retired : Table Bool
  split : BitVec 12
  deriving DecidableEq, Repr

/-- One core site. `landed` holds the pipeline entries performed in this beat. -/
structure Site where
  now : Nat
  beat : Word
  landed : List Pend
  ctx0 : Ctx
  ctx1 : Ctx
  ve : Ve
  half0 : Half
  half1 : Half
  q : Queues
  flags : Flags
  tiles : Table Mem
  tm : Tm
  pipe : List Pend
  own : Own
  obs : Obs
  tlb : List Tlb
  frozen0 : Bool
  frozen1 : Bool
  issued : List Nat
  deriving DecidableEq, Repr

/-- A link-map or route-table entry: V and the physical port (15 R367, 16 R385). -/
structure PortEntry where
  v : Bool
  port : BitVec 4
  deriving DecidableEq, Repr

def PortEntry.none : PortEntry := ⟨false, 0⟩

/-- The port of a valid entry. -/
def PortEntry.port? (e : PortEntry) : Option Nat := if e.v then some e.port.toNat else Option.none

/-- DEVID: V and the device number (16 R385). -/
structure DevId where
  v : Bool
  id : BitVec 12
  deriving DecidableEq, Repr

/-- A place-table entry (15 R367). -/
structure Place where
  v : Bool
  skew : Nat
  ltrim : Nat
  row : Nat
  col : Nat
  site : Nat
  deriving DecidableEq, Repr

/-- The states of a completion counter (13 R312). -/
inductive CtrState where
  | idle | allocating | waiting | running | complete | cancelled | rejected | faulted | rewound
  deriving DecidableEq, Repr

/-- A completion counter (13 R312). -/
structure Ctr where
  status : Nat
  state : CtrState
  pending : Nat
  deriving DecidableEq, Repr

/-- The tables of a unit entry (13 R315, R316). -/
structure RegionEntry where
  size : Nat
  attr : Nat
  place : Nat
  doff : Nat
  dlen : Nat
  deriving DecidableEq, Repr

structure RegLoad where
  reg : Nat
  kind : Nat
  ctx : Side
  arg : Nat
  perm : Nat
  value : Nat
  deriving DecidableEq, Repr

structure Reloc where
  offset : Nat
  region : Nat
  kind : Nat
  deriving DecidableEq, Repr

structure UnitEntry where
  core : Nat
  col : Nat
  row : Nat
  eng : Nat
  slots : Nat
  imgOff : Nat
  imgLen : Nat
  strm : List (Nat × Nat)
  regions : List RegionEntry
  loads : List RegLoad
  reqs : List (Nat × Nat)
  rels : List Reloc
  deriving DecidableEq, Repr

/-- A unit of a launch on its way: allocation, offset from the origin, completion and freeze; `devs` holds the kind and detail of each slip
that froze it, with kind 255 for a trap that is no slip; `later` holds the pulses of freezes that come after the one at hand; `lost` counts its frozen beats (09 R241, R249, R251, R253). -/
structure UnitRun where
  entry : UnitEntry
  site : Nat
  offset : Nat
  allocated : Bool
  begun : Bool
  finished : Bool
  freezeAt : Option Nat
  frozenAt : Option Nat
  resumeAt : Option Nat
  later : List (Nat × Option Nat)
  trapped : Option Nat
  devs : List (Nat × Nat)
  fatal : Bool
  lost : Nat
  deriving DecidableEq, Repr

/-- A launch that is accepted and not complete (13 R313): its counter, record bytes and address, the Sequencer's a registers
when it issued, its pages, whether they are pinned, its units, whether the start pulse has left (`pulsed` in the beat its requirements held) and the kept beats since (09 R241), the launch time of its freeze with the master cycle, slip kind and
logical core of the first trapping unit (18 R414), and the links
its timetabled packets take, as packet, site, direction and launch time (R246). -/
structure Launch where
  lctr : Nat
  addr : Nat
  bytes : List Byte
  free : Bool
  origin : Nat
  regsA : Table Cap
  pinned : Bool
  pins : List Page
  units : List UnitRun
  pulsed : Bool
  time : Nat
  left : Bool
  frozenSince : Option Nat
  froze : Option (Nat × Nat × Nat)
  notified : Bool
  packets : List (Nat × Nat × Nat × Nat)
  wrote : List (Nat × Nat)
  deriving DecidableEq, Repr

/-- An accepted job of a slot (13 R326, R327). -/
structure Job where
  seq : Nat
  prio : Nat
  jgraph : Nat
  jarg : Nat
  arglen : Nat
  image : Bool
  beats : Nat
  deriving DecidableEq, Repr

/-- A Gate table entry (13 R319). -/
structure GateEntry where
  off : Nat
  slive : Nat
  alive : Nat
  name : Nat
  deriving DecidableEq, Repr

/-- The running job of a rink (13 R320, R322). -/
structure RunJob where
  slot : Nat
  job : Job
  codeBase : Nat
  codeLen : Nat
  gates : List GateEntry
  deriving DecidableEq, Repr

/-- The rink's checkpoint (18 R417): the Sequencer's live registers, its position and code capability, and how many launches of the
graph, phase and job had been issued. -/
structure Checkpoint where
  s : Table Word
  sLive : BitVec 32
  a : Table Cap
  aLive : BitVec 16
  fstat : BitVec 6
  fctl : BitVec 6
  srkey : Word
  rscnt : BitVec 5
  rse : Table Word
  pos : Word
  code : Cap
  nG : Nat
  nP : Nat
  nJ : Nat
  deriving DecidableEq, Repr

/-- A collective operation that a local word started (08 R233 to R237, 16 R390): its word and reduction, its peer or the group's devices
in rank order, the data this device contributes, the engine and command that started it, its timer, the slot and number of the job it was started in, whether flits of it were lost
with their port (16 R383), and once it has ended the status, detail and numeric flags it waits to post. -/
structure CollOp where
  word : Nat
  op : Nat
  peer : Nat
  bytes : Nat
  dst : Option Base
  members : List Nat
  rank : Nat
  own : List Byte
  site : Nat
  ctx : Side
  die : Nat
  ce : Nat
  cmd : Nat
  timer : Nat
  job : Option (Nat × Nat)
  lost : Bool
  detached : Bool
  status : Option Nat
  detail : Nat
  flags : BitVec 6
  deriving DecidableEq, Repr

/-- A contribution that has landed (16 R389): rank, sending device, word and bytes, and the op and group size of its sender. -/
structure Landing where
  rank : Nat
  src : Nat
  word : Nat
  bytes : Nat
  op : Nat
  size : Nat
  deriving DecidableEq, Repr

/-- A contribution of which some flits have come (16 R381, R386). -/
structure Partial where
  src : Nat
  word : Nat
  rank : Nat
  got : List Byte
  deriving DecidableEq, Repr

/-- A contribution that has come whole, or a flit of one on its way, whose landing page is being moved: the port whose credit waits for it (16 R392). -/
structure Stalled where
  port : Option Nat
  whole : Option Contribution
  va : Nat
  len : Nat
  deriving DecidableEq, Repr

/-- A collective number of a rink (16 R390): open or closed, whether contributions are refused, the contributions that landed, those on
their way and those that wait for a page to be moved (11 R297), the local operation, and the operations out under the number beside it: csends, those a rewind left
and those that wait to post. -/
structure Coll where
  isOpen : Bool
  refuse : Bool
  landed : List Landing
  parts : List Partial
  stalled : List Stalled
  op : Option CollOp
  others : List CollOp
  deriving DecidableEq, Repr

/-- The frozen-launch and rewind registers of a rink (18 R412, R414, R418). -/
structure Recovery where
  hvec : Word
  hlim : BitVec 32
  frozen : Bool
  kind : BitVec 8
  core : BitVec 9
  auto : Bool
  limit : BitVec 8
  count : BitVec 48
  checkpoint : Option Checkpoint
  deriving DecidableEq, Repr

/-- Where a rink stands in a job's span, from the beat of the job's first word through that of its halt or of the gate at which it is pre-empted (17 R401): outside, in it,
or in its last beat, whose charge the Sequencer's context already has. -/
inductive Span where
  | none | runs | paid
  deriving DecidableEq, Repr

/-- The scheduler and work registers of a rink (13 R312, R321 to R323, R331). `issuedG`, `issuedP` and `issuedJ` list the launches of
the graph, phase and job in issue order: the LCTR taken and how it ended (0 complete, 1 cancelled, 2 rejected, 3 faulted), or 4
while it has not. `ending` is the completion status of a job whose graph program has ended. -/
structure Work where
  lctr : Table Ctr
  lnext : Nat
  gctr : Ctr
  pctr : Ctr
  jctr : Ctr
  issuedG : List (Nat × Nat)
  issuedP : List (Nat × Nat)
  issuedJ : List (Nat × Nat)
  slice : BitVec 48
  sliceCnt : Nat
  starve : Table Nat
  lastGrant : Table Nat
  running : Option RunJob
  launches : List Launch
  gateAddr : Word
  gateName : Nat
  phase : Nat
  opLen : Nat
  opPosted : Bool
  opEvent : Option Nat
  evq : List Word
  evNum : BitVec 32
  evDrop : Option Nat
  placed : Bool
  ending : Option Nat
  span : Span
  deriving DecidableEq, Repr

/-- A rink (15 R362 to R371, 16 R387 to R393, 19 R429). -/
structure Rink where
  valid : Bool
  vf : BitVec 7
  lead : BitVec 9
  leadCtx : Side
  lane : Side
  susp : Bool
  suspd : Bool
  bad : Bool
  place : Table Place
  link : Table PortEntry
  rpat : BitVec 16
  rpatPend : Bool
  work : Work
  recov : Recovery
  rtot : Table (BitVec 48)
  revoked : Bool
  rfab : Option (BitVec 16)
  rfabFid : BitVec 16
  rland : Word
  collto : Word
  peers : Table Bool
  gtabV : Table Word
  gtabL : Table Word
  voteOp : BitVec 3
  voteCap : BitVec 3
  voteEff : BitVec 3
  votePend : Bool
  colls : Table Coll
  deriving DecidableEq, Repr

/-- A host job slot (13 R326). -/
structure JobSlot where
  jgraph : Word
  jarg : Word
  arglen : BitVec 16
  prio : BitVec 2
  jsave : Word
  seq : BitVec 32
  queue : List Job
  cancel : Bool
  deriving DecidableEq, Repr

/-- A GO write that is not yet accepted; `checked` once it has passed the checks of ordering and queue (13 R327). -/
structure GoWrite where
  slot : Nat
  relaxed : Bool
  checked : Bool
  jgraph : Word
  jarg : Word
  arglen : BitVec 16
  prio : BitVec 2
  deriving DecidableEq, Repr

/-- A function: the PF (0) or a VF (1 to 64): journal, job slots and translation block (13 R326, 14 R343, R348, 19 R443). `frames` are the free
frames granted to it, by machine address and size; `promoted` its pages in HBM whose home is the capacity tier, least recently accessed
first, by intermediate address and size. -/
structure Fn where
  en : Bool
  rostrict : Bool
  aint : Bool
  vec : BitVec 16
  jbase : Word
  jlog : BitVec 5
  jhead : BitVec 32
  jtail : BitVec 32
  rocnt : BitVec 32
  refcnt : BitVec 32
  slots : Table JobSlot
  goWait : List GoWrite
  s1root : Word
  s2root : Word
  tinv : List (Nat × Nat)
  tfault : BitVec 48
  tbusy : Bool
  migctl : Word
  migDrop : BitVec 15
  epochHits : Table Nat
  homes : Table Nat
  frames : List (Nat × Nat)
  promoted : List (Nat × Nat)
  busMaster : Bool
  nonce : List Byte
  attcmd : Bool
  report : List Byte
  deriving DecidableEq, Repr

/-- A Bromen port (16 R382 to R384): its retry buffer, the flits that wait for it, its next SEQ, the last SEQ received in order, the
data flits it may still send, and whether it has granted the other end its first credit. -/
structure Port where
  en : Bool
  keep : Bool
  lanes : BitVec 4
  st : BitVec 4
  retry : BitVec 48
  crcBad : BitVec 48
  badKind : BitVec 48
  buf : List Flit
  waiting : List Flit
  nextSeq : BitVec 16
  lastGood : BitVec 16
  credit : Nat
  granted : Bool
  deriving DecidableEq, Repr

/-- A collective engine: its owner, the command it runs and the core it last served (08 R216, 15 R363). -/
structure CollEngine where
  owner : Owner
  run : Option Run
  lastCore : Nat
  deriving DecidableEq, Repr

/-- A die; `below` counts the samples in a row that lie below its band, `siteFail` holds the three words of SITEFAIL, `routerFail` in the same places the sites whose router failed (18 R424), `cpatAt` holds one more than the cycle of a cluster's latest PF write (10 R267 to R269, 15 R369, R372, R377, R379, 16 R384, 18 R423). -/
structure Die where
  ttab : Table (BitVec 16)
  band : BitVec 4
  falling : Bool
  target : BitVec 4
  below : Nat
  cpat : Table (BitVec 16)
  cpatLock : Table Bool
  cpatHeld : Table (Option (BitVec 16 × Bool))
  cpatAt : Table Nat
  ewt : Table (BitVec 16)
  shsel : Table Word
  shcnt : Table (BitVec 48)
  siteFail : BitVec 192
  routerFail : BitVec 192
  ports : Table Port
  ce : Table CollEngine
  snap : Snap
  snapReq : Option Nat
  deriving DecidableEq, Repr

/-- A window (14 R356). -/
structure Window where
  pages : BitVec 24
  owner : BitVec 6
  valid : Bool
  closing : Bool
  s2root : Word
  wrd : Word
  wwr : Word
  pub : BitVec 32
  deriving DecidableEq, Repr

/-- A key slot (14 R355); `epoch` counts its erasures, `written` says that a granule was written under it since the last one, so that its root is no longer that of
all-zero leaves, and `trod` lists the 64-byte lines of its tree area that were written in plaintext since it became valid (R354). -/
structure Key where
  key : BitVec 256
  tree : BitVec 32
  valid : Bool
  epoch : Nat
  written : Bool
  trod : List Nat
  deriving DecidableEq, Repr

/-- Under what a granule was last written (14 R350, R354): the PF's plaintext, or a key slot with its erasure count, at an
intermediate granule address. -/
inductive Seal where
  | plain
  | keyed (slot epoch ia : Nat)
  deriving DecidableEq, Repr

/-- A rink's view of a granule of a window (11 R291): the states it may still read, oldest first, and how many of them are older
than the latest publication. -/
structure View where
  states : List (List Byte)
  old : Nat
  deriving DecidableEq, Repr

/-- A counter block: one major and 64 minors (14 R353), and the place whose leaf it is once it was written: key slot, erasure count and block of 16 KiB of
intermediate space. -/
structure CtrBlock where
  major : BitVec 64
  minors : Table (BitVec 7)
  home : Option (Nat × Nat × Nat)
  deriving DecidableEq, Repr

/-- What an atomic does to the location (04 R118, R119, 11 R294). -/
inductive AtomicOp where
  | add | and | or | xor | swap | min | max | minn | maxn | cas
  deriving DecidableEq, Repr

/-- A request of the host that waits for a page move (11 R297); a GO goes with the writes (13 R329). -/
inductive HostRequest where
  | write (fn : Nat) (addr : Word) (data : List Byte) (relaxed : Bool)
  | read (fn : Nat) (addr : Word) (len : Nat)
  | atomic (fn : Nat) (op : HostAtomic) (addr : Word)
  | go (fn slot jctl : Nat) (relaxed : Bool)
  deriving DecidableEq, Repr

/-- A queued atomic request (11 R294); nobody waits for the answer of one that is not `wanted`. -/
structure AtomReq where
  requester : Nat
  op : AtomicOp
  dbl : Bool
  space : Nat
  ma : Nat
  ia : Nat
  key : Option Nat
  operand : Word
  expected : Word
  site : Nat
  ctx : Side
  dst : Nat
  wanted : Bool
  deriving DecidableEq, Repr

/-- A bank's atomic queue and round-robin pointer (11 R294). -/
structure AtomBank where
  ptr : Nat
  q : List AtomReq
  deriving DecidableEq, Repr

/-- The states of the module's power (19 R436). -/
inductive PowerState where
  | run | hold | entering | retention | resuming | off
  deriving DecidableEq, Repr

/-- Operating points, draw and Retention (19 R428 to R438). Voltage in mV, frequency in MHz, power in W. `idleBeats` counts, for each cluster of both dies,
its beats since anything was active (R437, 00 R7); `slew` is what a moving rail has of its next millivolt, in cycles times 5 (R432). -/
structure Power where
  freq : Table Nat
  volt : Table Nat
  vnow : Nat
  fnow : Nat
  idle : Nat
  ramping : Bool
  slew : Nat
  target : Nat
  cur : Nat
  ballastEn : Bool
  ramp : Nat
  floor : Nat
  trackMilli : Nat
  burnMilli : Nat
  ballast : Nat
  draw : Nat
  stable : Nat
  holdUs : Nat
  autoResume : Bool
  entryUs : Nat
  hot : Bool
  cause : Nat
  st : PowerState
  resumeAsked : Bool
  idleBeats : Table Nat
  deriving DecidableEq, Repr

/-- Secure boot and attestation (19 R441, R442): the fused values are the module's own. -/
structure Boot where
  stat : Nat
  meas0 : List Byte
  meas1 : List Byte
  meas2 : List Byte
  meas3 : List Byte
  endorsement : List Byte
  deriving DecidableEq, Repr

/-- PCREMAP (18 R422): spares left in each stack, LEFT as shown, the fields, the stack and pseudo-channel of a remap in progress, and the remaps made. -/
structure PcRemap where
  left : Table Nat
  shown : Nat
  stack : Nat
  pc : Nat
  going : Option (Nat × Nat)
  made : List (Nat × Nat)
  deriving DecidableEq, Repr

/-- What leaves the module: messages to the host, the PF, the hypervisor and peers (13 R328, 05 R147, 16 R381). -/
inductive Out where
  | msix (fn vec : Nat)
  | hostRead (fn : Nat) (data : List Byte)
  | hcall (ctxid vfid : Word) (n : Nat) (args : List Word)
  | flit (port : Nat) (f : Flit)
  | nak (port : Nat) (lastGood : BitVec 16)
  | hostAtomic (fn : Nat) (old : Option Word)
  | zeroRead (fn : Nat)
  | regRead (value : Word)
  deriving DecidableEq, Repr

/-- The stream whose word is executed: a site with its context, half or Lift engine, or a die with its collective engine. A
sequencer word belongs to the half unless `lift` or `coll` is set. -/
structure Cur where
  site : Nat
  ctx : Side
  half : Side
  lift : Bool
  l1 : Side
  coll : Bool
  die : Nat
  ce : Nat
  deriving DecidableEq, Repr

/-- A page move in progress (14 R347). -/
structure Move where
  fn : Nat
  ia : Nat
  size : Nat
  leaf : Nat
  src : Nat
  dst : Nat
  deriving DecidableEq, Repr

/-- The whole module. `views` is keyed by rink × 2^40 + intermediate granule. `migrations` are the page moves chosen and not started, by
function, intermediate address and frame. `memErrs` are the errors that lie in off-chip memory, by machine address / 32: 1 correctable, 2 not (18
R420), and `metaErrs` the uncorrectable ones beside it, by 2 × granule for its MAC and 2 × the first granule of a block + 1 for its counter leaf (14 R354). `grants`
lists, by 64 KiB frame, the key slots and erasure counts that a frame was granted to, the latest first (R353). `agenda` holds the events that stand next, oldest first (inputs, and the device's elastic transitions in the
order they happen); `cur` is the stream whose word is executed; `fresh` counts the free values used. `stored` are the off-chip bytes that plain writes of this
cycle wrote, by machine address and length (11 R295), `synced` its wsyncs, by rink and window (R292), and `held` the host's requests that wait for a page move, oldest
first (R297). -/
structure State where
  cycle : Nat
  sites : Table Site
  rinks : Table Rink
  fns : Table Fn
  dies : Table Die
  windows : Table Window
  keys : Table Key
  mem : Mem
  memErrs : Table Nat
  metaErrs : Table Nat
  grants : Table (List (Nat × Nat))
  seals : Table Seal
  counters : Table CtrBlock
  views : Table View
  host : Mem
  atomics : Table AtomBank
  moves : List Move
  migrations : List (Nat × Nat × Nat)
  power : Power
  boot : Boot
  devid : DevId
  rtab : Table PortEntry
  pcremap : PcRemap
  sent : List Out
  agenda : List Instr
  cur : Cur
  fresh : Nat
  stored : List (Nat × Nat)
  synced : List (Nat × Nat)
  held : List HostRequest
  deriving DecidableEq, Repr

/-! ## Reasons a step can stop -/

/-- The step stops: no step does, so there is no fault. Without power the module stands as it is until an event comes (00 R6, 19 R438). -/
inductive Fault
  deriving DecidableEq, Repr

/-- The step has no meaning for what it meets. -/
inductive Refusal where
  /-- An instruction whose meaning is not written yet; raised only by `exec`. Safe. -/
  | notModelled (mnemonic : String)
  deriving DecidableEq, Repr

/-! ## The state right after reset -/

def TrapRegs.reset : TrapRegs :=
  { epc := 0, enpc := 0, eds := 0, ecause := 0, rscnt := 0, rse := Table.fill 16 0, handler := false, heldCode := Cap.null,
    pend := [], hcallWait := false }

def Buffers.reset : Buffers :=
  { loads := [], stores := [], epoch := 0, count := 0, atomicOut := false, hostDirty := [], hostReads := 0 }

def Ctx.reset : Ctx :=
  { s := Table.fill 32 0, sValid := 0, sReady := Table.fill 32 0, sElastic := 0, a := Table.fill 16 Cap.null, aValid := 0,
    aReady := Table.fill 16 0, aElastic := 0, divFree := 0, pc := 0, npc := 0, slots := 0, was := (0, 0, 0), code := Cap.null, ctl := Ctl.halted,
    trap := TrapRegs.reset, fstat := 0, fctl := 1, srkey := 0, prevFctl := 1, prevSrkey := 0, ctlAt := 0, ecnt := 0, ecntSat := false, ctxid := 0, vfid := 0,
    staged := Table.fill 3 [], buf := Buffers.reset, ib := [], ahead := [], fetching := false, rendezBeat := none, lastLaunch := none, isUnit := false }

def Loop.reset : Loop :=
  { pturn := 0, size := 48, turn := 0, loopno := 0, depth := 1, count := 0, pass := 0 }

def Ve.reset : Ve :=
  { v := Table.fill 96 (List.replicate 64 0), p := Table.fill 16 0, x := Table.fill 16 0, vValid := 0, pValid := 0, xValid := 0,
    vReady := Table.fill 96 0, pReady := Table.fill 16 0, xReady := Table.fill 16 0, latchA := none, latchB := none,
    latchC := none, loop := Loop.reset, prevLoop := Loop.reset, loopAt := 0, looping := false, pc := 0, npc := 0, slots := 0, taken := false, stall := 0, brk := 0, code := Cap.null, ctl := Ctl.halted }

def Half.reset : Half :=
  { slots := Table.fill 8 Slot.empty, slotErrs := Table.empty, sumErrs := Table.empty, accA := Table.empty, accB := Table.empty, narrow := Table.empty, regsA := Table.empty,
    regsB := Table.empty, nests := [], fills := [], promoteAt := none, seq := Seq.fresh, pcBase := 0, code := Cap.null,
    ctl := Ctl.halted }

def Frame.empty : Frame :=
  { stat := 0, beat := 0, pcs := List.replicate 7 0, npcs := List.replicate 3 0, snapCount := 0 }

def Claim.free : Claim := ⟨false, false, false, 0⟩

def Bank.reset : Bank := ⟨0, Table.fill 8 0, false⟩

def Obs.reset : Obs :=
  { wcnt := Table.fill 64 0, tmFault := 0, tmFaultAt := 0, tmFaultRank := 0, tmCnt := Table.fill 10 0, qcnt := Table.fill 56 0, claims := Table.fill 3 Claim.free, asked := [],
    banks := Table.fill 2 Bank.reset, trctl := 0, trDrop := 0, trPtr := 0, trQ := [], bpA := Table.fill 4 0, bpB := Table.fill 4 0,
    snap := ⟨0, []⟩, snapReq := none, frame0 := Frame.empty, frame1 := Frame.empty, linj := 0, linjCount := 0, serrc := 0,
    serru := 0 }

def Queues.reset : Queues :=
  { lq := [], sq := [], ce := [], pushed := 0, run0 := none, run1 := none, chains := Table.empty, skips := Table.empty, liftFifo := [], liftLost := false,
    collFifo := [] }

def Tm.reset : Tm :=
  { bytes := Table.empty, tags := Table.empty, errs := Table.empty, regions := [], groups := Table.empty, written := [], ticks := 0, turn := Table.empty, images := [], retired := Table.empty, split := 0x600 }

def Own.none : Own :=
  { ctx0 := Owner.none, ctx1 := Owner.none, ve := Owner.none, h0 := Owner.none, h1 := Owner.none, l0 := Owner.none,
    l1 := Owner.none, bad := false }

def Flags.reset : Flags :=
  { full := 0, tokens := Table.fill 16 0, events := 0, fullBefore := 0, tokensBefore := Table.fill 16 0, eventsBefore := 0,
    sets := [], blocked := [] }

def Site.reset : Site :=
  { now := 0, beat := 0, landed := [], ctx0 := Ctx.reset, ctx1 := Ctx.reset, ve := Ve.reset, half0 := Half.reset,
    half1 := Half.reset, q := Queues.reset, flags := Flags.reset, tiles := Table.fill 16 Table.empty, tm := Tm.reset, pipe := [],
    own := Own.none, obs := Obs.reset, tlb := [], frozen0 := false, frozen1 := false, issued := [] }

def Place.reset : Place := ⟨false, 0, 0, 0, 0, 0⟩

def Ctr.idle : Ctr := ⟨0, .idle, 0⟩

def Coll.closed : Coll := ⟨false, false, [], [], [], none, []⟩

def Work.reset : Work :=
  { lctr := Table.fill 4 Ctr.idle, lnext := 0, gctr := Ctr.idle, pctr := Ctr.idle, jctr := Ctr.idle, issuedG := [], issuedP := [],
    issuedJ := [], slice := 8000000, sliceCnt := 0, starve := Table.fill 4 0, lastGrant := Table.fill 4 7, running := none,
    launches := [], gateAddr := 0, gateName := 0, phase := 0, opLen := 0, opPosted := false, opEvent := none, evq := [],
    evNum := 0, evDrop := none, placed := true, ending := none, span := .none }

def Recovery.reset : Recovery :=
  { hvec := 0, hlim := 0, frozen := false, kind := 0, core := 0, auto := true, limit := 3, count := 0, checkpoint := none }

def Rink.reset : Rink :=
  { valid := false, vf := 0, lead := 0, leadCtx := false, lane := false, susp := false, suspd := false, bad := false,
    place := Table.fill 272 Place.reset, link := Table.fill 12 PortEntry.none, rpat := 0xFFFF, rpatPend := false, work := Work.reset,
    recov := Recovery.reset, rtot := Table.fill 32 0, revoked := false, rfab := none, rfabFid := 0, rland := 0, collto := 0,
    peers := Table.empty, gtabV := Table.empty, gtabL := Table.empty, voteOp := 0, voteCap := 7, voteEff := 0, votePend := false,
    colls := Table.empty }

def JobSlot.reset : JobSlot :=
  { jgraph := 0, jarg := 0, arglen := 0, prio := 0, jsave := 0, seq := 0, queue := [], cancel := false }

def Fn.reset : Fn :=
  { en := false, rostrict := false, aint := false, vec := 0, jbase := 0, jlog := 6, jhead := 0, jtail := 0, rocnt := 0, refcnt := 0,
    slots := Table.fill 8 JobSlot.reset, goWait := [], s1root := 0, s2root := 0, tinv := [], tfault := 0, tbusy := false,
    migctl := 0x400002, migDrop := 0, epochHits := Table.empty, homes := Table.empty, frames := [], promoted := [], busMaster := true, nonce := List.replicate 32 0,
    attcmd := false, report := List.replicate 376 0 }

def Port.reset : Port :=
  { en := false, keep := true, lanes := 0, st := 0, retry := 0, crcBad := 0, badKind := 0, buf := [], waiting := [], nextSeq := 1, lastGood := 0,
    credit := 0, granted := false }

def CollEngine.reset : CollEngine := ⟨Owner.none, none, 271⟩

def Die.reset : Die :=
  { ttab := Table.fill 16 0x3C, band := 15, falling := false, target := 0, below := 0, cpat := Table.fill 36 0xFFFF,
    cpatLock := Table.fill 36 false, cpatHeld := Table.fill 36 none, cpatAt := Table.fill 36 0, ewt := Table.fill 16 0, shsel := Table.fill 15 0,
    shcnt := Table.fill 60 0, siteFail := 0, routerFail := 0, ports := Table.fill 6 Port.reset, ce := Table.fill 8 CollEngine.reset, snap := ⟨0, []⟩,
    snapReq := none }

def Window.reset : Window :=
  { pages := 0, owner := 0, valid := false, closing := false, s2root := 0, wrd := 0, wwr := 0, pub := 0 }

def Key.reset : Key := ⟨0, 0, false, 0, false, []⟩

def AtomBank.reset : AtomBank := ⟨2047, []⟩

def CtrBlock.reset : CtrBlock := ⟨0, Table.empty, none⟩

def Power.reset : Power :=
  { freq := Table.ofList [2000, 2400, 2800, 3200, 3400, 3600, 3800, 4000],
    volt := Table.ofList [550, 600, 650, 700, 730, 770, 810, 850],
    vnow := 550, fnow := 2000, idle := 0, ramping := false, slew := 0, target := 0, cur := 0, ballastEn := false, ramp := 0x64, floor := 0,
    trackMilli := 0, burnMilli := 0, ballast := 0, draw := 0, stable := 0x64, holdUs := 0x3E8, autoResume := true, entryUs := 0,
    hot := false, cause := 0, st := .run, resumeAsked := false, idleBeats := Table.fill 72 0 }

def Boot.reset : Boot :=
  { stat := 0, meas0 := List.replicate 64 0, meas1 := List.replicate 64 0, meas2 := List.replicate 64 0, meas3 := List.replicate 64 0,
    endorsement := List.replicate 256 0 }

def PcRemap.reset : PcRemap := ⟨Table.fill 8 4, 0, 0, 0, none, []⟩

def Cur.reset : Cur := ⟨0, false, false, false, false, false, 0, 0⟩

/-- The module right after reset: every register at the value its map states, no rink, nothing listed in any memory, and the
values of notes/assumptions/2.md where the spec states none. -/
def State.reset : State :=
  { cycle := 0, sites := Table.fill 288 Site.reset, rinks := Table.fill 64 Rink.reset, fns := Table.fill 65 Fn.reset,
    dies := Table.fill 2 Die.reset, windows := Table.fill 64 Window.reset, keys := Table.fill 128 Key.reset, mem := Table.empty, memErrs := Table.empty,
    metaErrs := Table.empty, grants := Table.empty, seals := Table.empty, counters := Table.empty, views := Table.empty, host := Table.empty, atomics := Table.empty, moves := [], migrations := [], power := Power.reset,
    boot := Boot.reset, devid := ⟨false, 0⟩, rtab := Table.empty, pcremap := PcRemap.reset, sent := [], agenda := [], cur := Cur.reset,
    fresh := 0, stored := [], synced := [], held := [] }

end Sys2Proof.Machine
end

