-- ==== Sys2Proof/Machine/Crypto.lean ====
section
/-!
DEFINITION. The ciphers of memory (14 R351, R352): AES-256 by FIPS-197 and GHASH by SP 800-38D, over natural numbers as byte
and block values. notes/assumptions/15.md says which byte order the blocks take.
-/

namespace Sys2Proof.Machine

def xorN (a b : Nat) : Nat := Nat.xor a b

/-! ## AES-256 (FIPS-197) -/

/-- Multiplication by x in GF(2^8). -/
def gfDouble (a : Nat) : Nat := if a < 128 then 2 * a else xorN (2 * a - 256) 0x1B

/-- The product in GF(2^8), over the bits of `b` from the lowest. -/
def gfMulBits : Nat → Nat → Nat → Nat
  | 0, _, _ => 0
  | n + 1, a, b => xorN (if b % 2 = 1 then a else 0) (gfMulBits n (gfDouble a) (b / 2))

def gfMul (a b : Nat) : Nat := gfMulBits 8 a b

/-- The inverse a^254, zero for zero. -/
def gfInv (a : Nat) : Nat :=
  let a2 := gfMul a a
  let a3 := gfMul a2 a
  let a6 := gfMul a3 a3
  let a12 := gfMul a6 a6
  let a15 := gfMul a12 a3
  let a30 := gfMul a15 a15
  let a60 := gfMul a30 a30
  let a63 := gfMul a60 a3
  let a126 := gfMul a63 a63
  let a127 := gfMul a126 a
  gfMul a127 a127

def rotByte (a n : Nat) : Nat := (a * 2 ^ n % 256) + a / 2 ^ (8 - n)

/-- The S-box: inverse, then the affine map. -/
def sbox (a : Nat) : Nat :=
  let b := gfInv a
  xorN (xorN (xorN b (rotByte b 1)) (xorN (rotByte b 2) (rotByte b 3))) (xorN (rotByte b 4) 0x63)

def xorList (a b : List Nat) : List Nat := List.zipWith xorN a b

/-- One more word of the key schedule; `w` holds the words so far, newest first. -/
def keyWord (i : Nat) (rcon : Nat) (w : List (List Nat)) : List Nat :=
  let prev := w.headD []
  let back := nth [] w 7
  let t :=
    if i % 8 = 0 then
      match prev with
      | [a, b, c, d] => [xorN (sbox b) rcon, sbox c, sbox d, sbox a]
      | _ => prev
    else if i % 8 = 4 then prev.map sbox else prev
  xorList back t

/-- `n` more words from word number `i` on. -/
def keySchedule : Nat → Nat → Nat → List (List Nat) → List (List Nat)
  | 0, _, _, w => w
  | n + 1, i, rcon, w => keySchedule n (i + 1) (if i % 8 = 0 then gfDouble rcon else rcon) (keyWord i rcon w :: w)

def chunks4 (l : List Nat) : Nat → List (List Nat)
  | 0 => []
  | n + 1 => l.take 4 :: chunks4 (l.drop 4) n

/-- The fifteen round keys of a 32-byte key. -/
def roundKeys (key : List Nat) : List (List Nat) :=
  let w := (keySchedule 52 8 1 (chunks4 key 8).reverse).reverse
  (List.range 15).map fun r => ((w.drop (4 * r)).take 4).flatten

def shiftRows (s : List Nat) : List Nat :=
  (List.range 16).map fun i => nth 0 s ((i % 4 + 4 * ((i / 4 + i % 4) % 4)))

def mixColumn (c : List Nat) : List Nat :=
  (List.range 4).map fun i =>
    xorN (xorN (gfDouble (nth 0 c i)) (gfMul 3 (nth 0 c ((i + 1) % 4)))) (xorN (nth 0 c ((i + 2) % 4)) (nth 0 c ((i + 3) % 4)))

def mixColumns (s : List Nat) : List Nat := ((chunks4 s 4).map mixColumn).flatten

def aesRounds : List (List Nat) → List Nat → List Nat
  | [], s => s
  | [k], s => xorList (shiftRows (s.map sbox)) k
  | k :: ks, s => aesRounds ks (xorList (mixColumns (shiftRows (s.map sbox))) k)

/-- AES-256 of a 16-byte block under a 32-byte key. -/
def aes256 (key block : List Nat) : List Nat :=
  match roundKeys key with
  | [] => block
  | k :: ks => aesRounds ks (xorList block k)

def bytesOf (n v : Nat) : List Nat := (leBytes n v).map (·.toNat)

def natOf (l : List Nat) : Nat := leNat (l.map (BitVec.ofNat 8))

/-- AES-256 of a 128-bit value. -/
def aesBlock (key : BitVec 256) (t : Nat) : Nat := natOf (aes256 (bytesOf 32 key.toNat) (bytesOf 16 t))

/-! ## The granule cipher and MAC (R351, R352) -/

/-- T_j of R351. -/
def tweak (ia major minor j : Nat) : Nat :=
  ia / 256 % 2 ^ 40 * 2 ^ 88 + major % 2 ^ 64 * 2 ^ 24 + minor % 128 * 2 ^ 17 + j % 16

/-- The ciphertext of a granule's 256 bytes (R351); the same map recovers the plaintext. -/
def cipherGranule (key : BitVec 256) (ia major minor : Nat) (p : List Byte) : List Byte :=
  (List.range 16).flatMap fun j =>
    let blk := leNat ((p.drop (16 * j)).take 16)
    leBytes 16 (xorN blk (aesBlock key (tweak ia major minor j)))

/-- The product in GF(2^128) of GCM, bit 127 of a value being the coefficient of x^0. -/
def ghashMulBits : Nat → Nat → Nat → Nat
  | 0, _, _ => 0
  | n + 1, x, v =>
    xorN (if x / 2 ^ n % 2 = 1 then v else 0)
      (ghashMulBits n x (if v % 2 = 1 then xorN (v / 2) (0xE1 * 2 ^ 120) else v / 2))

def ghashMul (x y : Nat) : Nat := ghashMulBits 128 x y

def ghash (h : Nat) (blocks : List Nat) : Nat := blocks.foldl (fun y b => ghashMul (xorN y b) h) 0

/-- The 56-bit MAC of a granule's ciphertext (R352). -/
def granuleMac (key : BitVec 256) (ia major minor : Nat) (ct : List Byte) : Nat :=
  let h := aesBlock key (2 ^ 128 - 1)
  let s := tweak ia major minor 0 + 2 ^ 16
  let blocks := (List.range 16).map fun j => leNat ((ct.drop (16 * j)).take 16)
  xorN (ghash h (blocks ++ [ia * 2 ^ 64 + 2048])) (aesBlock key s) / 2 ^ 72

/-- The 56-bit MAC of a counter leaf or tree node of 64 bytes (R354). L' is laid out as L of R352 is, the index in the high 64 bits and the level in the low
(PRESUMED, notes/assumptions/40.md). -/
def nodeMac (key : BitVec 256) (level index : Nat) (node : List Byte) : Nat :=
  let h := aesBlock key (2 ^ 128 - 1)
  let blocks := (List.range 4).map fun j => leNat ((node.drop (16 * j)).take 16)
  xorN (ghash h (blocks ++ [index * 2 ^ 64 + level])) (aesBlock key (2 ^ 128 - 2)) / 2 ^ 72 % 2 ^ 56

end Sys2Proof.Machine
end

