-- ==== Sys2Proof/Config.lean ====
section
/-!
DEFINITION. What an implementation fixes and the values the spec leaves open. Every constant is opaque: nothing in Lean can
evaluate one, so a statement holds whatever they are (notes/assumptions/5.md).
-/

namespace Sys2Proof.Config

/-- A free value: the n-th value the spec leaves open in a run (notes/assumptions/5.md). -/
opaque freeValue : Nat → Word

/-- A free choice: the n-th choice the spec leaves open in a run (notes/assumptions/5.md). -/
opaque freeChoice : Nat → Bool

/-- The exponent byte of a block whose largest magnitude has an exponent of 255 or more, by that exponent: R31 gives it no byte (01 R31, R37;
notes/assumptions/37.md). -/
opaque wideExponent : Nat → BitVec 8

/-- The memory bank of a machine address, whose atomic unit serves it (11 R294; notes/assumptions/7.md). -/
opaque bankOf : Nat → Nat

/-- The HBM stack or LPDDR half of a machine address, which counts its accesses (15 R372; notes/assumptions/7.md). -/
opaque channelOf : Nat → Nat

/-- The pseudo-channel of a granule within its HBM stack (11 R294, 18 R422; notes/assumptions/7.md). -/
opaque pseudoOf : Nat → Nat

/-- The node that stands in the n-th 64-byte line of a key slot's tree area, as its level and index; none where the line holds none. Where the nodes lie in the area
is not stated (14 R354; notes/assumptions/40.md). -/
opaque nodeAt : Nat → Option (Nat × Nat)

/-- The die already holds the node verified in a cycle, by the cycle, the key slot, the level and the index (14 R354; notes/assumptions/40.md). -/
opaque nodeHeld : Nat → Nat → Nat → Nat → Bool

/-- The fused root hash, security-version floor and unique secret (19 R441, R442; notes/assumptions/5.md). -/
opaque rootHash : List Byte
opaque svnFloor : Nat
opaque uniqueSecret : List Byte

end Sys2Proof.Config
end

