-- ==== Sys2Proof/Machine/Operands.lean ====
section
/-!
DEFINITION. Capabilities as operands (02 R44 to R46, 04 R121 to R123): fields, bounds, the tag rule and the derivations; the
names of vector and predicate registers under rotation and the bank stall (02 R48, R49).
-/

namespace Sys2Proof.Machine

/-! ## Capability fields (R44) -/

namespace Cap

def cursor (c : Cap) : Nat := field c.bits.toNat 63 0
def back (c : Cap) : Nat := field c.bits.toNat 78 64
def extent (c : Cap) : Nat := field c.bits.toNat 93 79
def gran (c : Cap) : Nat := field c.bits.toNat 99 94
def perms (c : Cap) : Nat := field c.bits.toNat 111 100
def space (c : Cap) : Nat := field c.bits.toNat 115 112
def hasLD (c : Cap) : Bool := bitOf c.bits.toNat 100
def hasST (c : Cap) : Bool := bitOf c.bits.toNat 101
def hasLDC (c : Cap) : Bool := bitOf c.bits.toNat 102
def hasSTC (c : Cap) : Bool := bitOf c.bits.toNat 103
def hasX (c : Cap) : Bool := bitOf c.bits.toNat 104
def hasEN (c : Cap) : Bool := bitOf c.bits.toNat 105
def hasSYS (c : Cap) : Bool := bitOf c.bits.toNat 107

/-- The bits of a capability from its fields, reserved fields zero. -/
def pack (space perms gran back extent cursor : Nat) : CapBits :=
  .ofNat 128 (space * 2 ^ 112 + perms % 4096 * 2 ^ 100 + gran * 2 ^ 94 + extent * 2 ^ 79 + back * 2 ^ 64 + cursor % 2 ^ 64)

/-- The capability with its cursor and BACK replaced. -/
def withCursor (c : Cap) (cur bk : Nat) : CapBits :=
  .ofNat 128 (setField (setField c.bits.toNat 78 64 bk) 63 0 cur)

/-- cap_bounds of R45: base and top, exact. -/
def bounds (c : Cap) : Int × Int :=
  let base : Int := ((c.cursor / 2 ^ c.gran : Nat) - (c.back : Int)) * 2 ^ c.gran
  (base, base + (c.extent * 2 ^ c.gran : Nat))

/-- An access of `n` bytes at `x` is in bounds (R45). -/
def inBounds (c : Cap) (x n : Nat) : Bool :=
  decide (c.bounds.1 ≤ x ∧ (x + n : Nat) ≤ c.bounds.2)

/-- The conditions on the bits of a tagged capability (R46). -/
def bitsOk (b : CapBits) : Bool :=
  let c : Cap := ⟨b, true⟩
  decide (c.gran ≤ 49) && decide (c.space ≤ 6) && field b.toNat 127 116 == 0 && field b.toNat 111 108 == 0
    && decide (c.back ≤ c.cursor / 2 ^ c.gran) && decide (c.bounds.2 ≤ 2 ^ 64)

/-- kstep and kseek: the cursor moves and BACK follows, untagged when the bounds would shift (R121). -/
def moveTo (c : Cap) (cur : Nat) : Cap :=
  let bk : Int := c.back + (cur / 2 ^ c.gran : Nat) - (c.cursor / 2 ^ c.gran : Nat)
  let b := c.withCursor cur (intMod 15 bk)
  ⟨b, c.tag && decide (0 ≤ bk ∧ bk ≤ 32767) && bitsOk b⟩

/-- The smallest granule exponent whose outward rounding of `[base, top)` fits EXTENT (R122). -/
def clipGran (base top : Nat) : Option Nat :=
  (List.range 50).find? fun g => decide (ceilDiv top (2 ^ g) - base / 2 ^ g ≤ 32767)

/-- kclip (R122): from the cursor on, `len` bytes, rounded outward. Where no granule exponent fits, the untagged result has the source's bits (DESIGN CHOICE,
notes/assumptions/41.md). -/
def clip (c : Cap) (len : Nat) : Cap :=
  let base := c.cursor
  let top := base + len
  match clipGran base top with
  | none => ⟨c.bits, false⟩
  | some g =>
    let lo := base / 2 ^ g
    let hi := ceilDiv top (2 ^ g)
    let b := BitVec.ofNat 128 (setField (setField (setField c.bits.toNat 99 94 g) 93 79 (hi - lo)) 78 64 0)
    ⟨b, c.tag && decide (c.bounds.1 ≤ (lo * 2 ^ g : Nat) ∧ ((hi * 2 ^ g : Nat) : Int) ≤ c.bounds.2 ∧ hi * 2 ^ g ≤ 2 ^ 64) && bitsOk b⟩

/-- A grant of the device: `[base, base + len)` widened outward by R122's rule, tagged where R46 allows it. -/
def grant (space perms base len : Nat) : Cap :=
  match clipGran base (base + len) with
  | none => ⟨pack space perms 0 0 0 base, false⟩
  | some g =>
    let b := pack space perms g 0 (ceilDiv (base + len) (2 ^ g) - base / 2 ^ g) base
    ⟨b, bitsOk b⟩

/-- kmask (R121). -/
def mask (c : Cap) (m : Nat) : Cap :=
  let p := (BitVec.ofNat 12 c.perms &&& BitVec.ofNat 12 m).toNat
  let b := BitVec.ofNat 128 (setField c.bits.toNat 111 100 p)
  ⟨b, c.tag && bitsOk b⟩

/-- kcover (R123): `b` grants no more than `a`. -/
def covers (a b : Cap) : Bool :=
  b.tag && b.space == a.space && decide (a.bounds.1 ≤ b.bounds.1 ∧ b.bounds.2 ≤ a.bounds.2)
    && (BitVec.ofNat 12 b.perms &&& ~~~(BitVec.ofNat 12 a.perms)) == 0

/-- kfld (R121). -/
def fieldOf (c : Cap) (sel : Nat) : Word :=
  match sel with
  | 0 => .ofInt 64 c.bounds.1
  | 1 => .ofInt 64 (c.bounds.2 - c.bounds.1)
  | 2 => .ofNat 64 c.cursor
  | 3 => .ofNat 64 c.perms
  | 4 => .ofNat 64 c.space
  | 5 => .ofNat 64 (b2n c.tag)
  | 6 => .ofInt 64 c.bounds.2
  | _ => .ofNat 64 c.gran

end Cap

/-! ## Rotation and the bank stall (R48, R49) -/

/-- The physical register a vector name reaches. -/
def physV (l : Loop) (n : Nat) : Nat :=
  let size := l.size.toNat
  if n ≤ 47 || 48 + size ≤ n then n
  else 48 + (n - 48 + size - l.turn.toNat % size) % size

/-- The physical register a predicate name reaches. -/
def physP (l : Loop) (n : Nat) : Nat :=
  if n ≤ 7 then n else 8 + (n - 8 + 8 - l.pturn.toNat) % 8

/-- The physical registers a VE word reads from the file, one per field read. -/
def fileReads (l : Loop) (f : VFields) (srcA srcB srcC : Bool) : List Nat :=
  (if srcA && !f.holdA then [physV l f.va.toNat] else []) ++ (if srcB && !f.holdB then [physV l f.vb.toNat] else [])
    ++ (if srcC && !f.holdC then [physV l f.vc.toNat] else [])

/-- The stall of R49: in every bank, each read beyond the first. -/
def bankStall (reads : List Nat) : Nat :=
  ((List.range 6).map fun b => (reads.filter fun r => r % 6 == b).length - 1).sum

end Sys2Proof.Machine
end

