-- ==== Sys2Proof/Machine/Ops.lean ====
section
/-!
DEFINITION. The named operations over the state: accessors, register files with their ready beats, tile memory, the sync
flags, traps and their return, the freeze of a unit and the rewind of a rink. Nothing here decodes an instruction.
-/

namespace Sys2Proof.Machine

/-! ## Accessors -/

def site (k : Nat) (s : State) : Site := s.sites.get Site.reset k

def setSite (k : Nat) (c : Site) (s : State) : State := { s with sites := s.sites.put k c }

def modSite (k : Nat) (f : Site → Site) (s : State) : State := setSite k (f (site k s)) s

def ctxOf (c : Site) (x : Side) : Ctx := if x then c.ctx1 else c.ctx0

def setCtx (x : Side) (v : Ctx) (c : Site) : Site := if x then { c with ctx1 := v } else { c with ctx0 := v }

def modCtx (x : Side) (f : Ctx → Ctx) (c : Site) : Site := setCtx x (f (ctxOf c x)) c

def halfOf (c : Site) (h : Side) : Half := if h then c.half1 else c.half0

def setHalf (h : Side) (v : Half) (c : Site) : Site := if h then { c with half1 := v } else { c with half0 := v }

def modHalf (h : Side) (f : Half → Half) (c : Site) : Site := setHalf h (f (halfOf c h)) c

def modVe (f : Ve → Ve) (c : Site) : Site := { c with ve := f c.ve }

def modTm (f : Tm → Tm) (c : Site) : Site := { c with tm := f c.tm }

def modFlags (f : Flags → Flags) (c : Site) : Site := { c with flags := f c.flags }

def modObs (f : Obs → Obs) (c : Site) : Site := { c with obs := f c.obs }

def modQ (f : Queues → Queues) (c : Site) : Site := { c with q := f c.q }

def rink (r : Nat) (s : State) : Rink := s.rinks.get Rink.reset r

def modRink (r : Nat) (f : Rink → Rink) (s : State) : State := { s with rinks := s.rinks.put r (f (rink r s)) }

def modWork (r : Nat) (f : Work → Work) (s : State) : State := modRink r (fun k => { k with work := f k.work }) s

def modRecov (r : Nat) (f : Recovery → Recovery) (s : State) : State := modRink r (fun k => { k with recov := f k.recov }) s

def fnOf (v : Nat) (s : State) : Fn := s.fns.get Fn.reset v

def modFn (v : Nat) (f : Fn → Fn) (s : State) : State := { s with fns := s.fns.put v (f (fnOf v s)) }

def die (d : Nat) (s : State) : Die := s.dies.get Die.reset d

def modDie (d : Nat) (f : Die → Die) (s : State) : State := { s with dies := s.dies.put d (f (die d s)) }

def windowOf (w : Nat) (s : State) : Window := s.windows.get Window.reset w

def modWindow (w : Nat) (f : Window → Window) (s : State) : State := { s with windows := s.windows.put w (f (windowOf w s)) }

def keyOf (k : Nat) (s : State) : Key := s.keys.get Key.reset k

/-- A key slot is erased: the key and the root are cleared and VALID is 0 (14 R355). -/
def eraseSlot (k : Key) : Key := { k with key := 0, valid := false, epoch := k.epoch + 1, written := false, trod := [] }


/-- The site and the context whose word is executed. -/
def mySite (s : State) : Site := site s.cur.site s

def modMySite (f : Site → Site) (s : State) : State := modSite s.cur.site f s

def myCtx (s : State) : Ctx := ctxOf (mySite s) s.cur.ctx

def modMyCtx (f : Ctx → Ctx) (s : State) : State := modMySite (modCtx s.cur.ctx f) s

def myVe (s : State) : Ve := (mySite s).ve

def modMyVe (f : Ve → Ve) (s : State) : State := modMySite (modVe f) s

def myHalf (s : State) : Half := halfOf (mySite s) s.cur.half

def modMyHalf (f : Half → Half) (s : State) : State := modMySite (modHalf s.cur.half f) s

/-- A value the spec leaves open, and the state that has used it. -/
def freshWord (s : State) : Word × State := (Config.freeValue s.fresh, { s with fresh := s.fresh + 1 })

def freshBool (s : State) : Bool × State := (Config.freeChoice s.fresh, { s with fresh := s.fresh + 1 })

/-- Something the module sends out. -/
def send (o : Out) (s : State) : State := { s with sent := s.sent ++ [o] }

/-- The stack and functions a die of a site belongs to: sites 0 to 143 are on die 0 (00 R2). -/
def dieOfSite (k : Nat) : Nat := k / 144

/-- The bit of a site in the three words of its die's SITEFAIL (18 R423). -/
def siteBit (k : Nat) : Nat := 64 * (k % 144 / 64) + k % 64

/-- The PF is signalled by its journal vector (18 R423, 19 R435). -/
def signalPf (s : State) : State := send (.msix 0 (fnOf 0 s).vec.toNat) s

/-! ## The shared units' counters (15 R372) -/

/-- SHCNT i of unit u of a die counts `n` when SHSEL names the function. -/
def countShared (d u i fn n : Nat) (s : State) : State :=
  let w := ((die d s).shsel.get 0 u).toNat
  if bitOf w 7 && field w 6 0 == fn then
    modDie d (fun v => { v with shcnt := v.shcnt.put (4 * u + i) (.ofNat 48 (satAdd 48 (v.shcnt.get 0 (4 * u + i)).toNat n)) }) s
  else s

/-- The tier ranges of machine addresses (14 R336). -/
def inHBM (ma : Nat) : Bool := decide (ma < 0x8000000000)
def inLPDDR (ma : Nat) : Bool := decide (0x10000000000 ≤ ma ∧ ma < 0x30000000000)

/-- Some memory unit of a die counts for a function. -/
def memoryCounts (fn : Nat) (s : State) : Bool :=
  [0, 1].any fun d => (List.range 5).any fun u =>
    let w := ((die d s).shsel.get 0 u).toNat
    bitOf w 7 && field w 6 0 == fn

/-- A remap is copying the pseudo-channel of a machine address: an access that reaches it waits, pinned or not (18 R422). -/
def remapping (s : State) (ma : Nat) : Bool :=
  match s.pcremap.going with
  | none => false
  | some (stack, pc) => inHBM ma && Config.channelOf (ma / 256) % 8 == stack && Config.pseudoOf (ma / 256) == pc

/-- An access of a granule counts on its stack's or half's unit: read 0, written 1, atomic 2, failed check 3. -/
def countMem (fn ma i : Nat) (s : State) : State :=
  if !memoryCounts fn s then s
  else
    let x := Config.channelOf (ma / 256)
    if inLPDDR ma then countShared (x % 2) 4 i fn 1 s else countShared (x / 4 % 2) (x % 4) i fn 1 s

/-! ## Streams: heads 0 and 1 are the CC contexts, 2 the VE, 3 and 4 the matrix streams (02 R62) -/

def ctlOf (c : Site) (h : Nat) : Ctl :=
  match h with
  | 0 => c.ctx0.ctl
  | 1 => c.ctx1.ctl
  | 2 => c.ve.ctl
  | 3 => c.half0.ctl
  | _ => c.half1.ctl

def modCtl (h : Nat) (f : Ctl → Ctl) (c : Site) : Site :=
  match h with
  | 0 => { c with ctx0 := { c.ctx0 with ctl := f c.ctx0.ctl } }
  | 1 => { c with ctx1 := { c.ctx1 with ctl := f c.ctx1.ctl } }
  | 2 => { c with ve := { c.ve with ctl := f c.ve.ctl } }
  | 3 => { c with half0 := { c.half0 with ctl := f c.half0.ctl } }
  | _ => { c with half1 := { c.half1 with ctl := f c.half1.ctl } }

def ownField (o : Own) (h : Nat) : Option (BitVec 6) :=
  (match h with
  | 0 => o.ctx0
  | 1 => o.ctx1
  | 2 => o.ve
  | 3 => o.h0
  | 4 => o.h1
  | 5 => o.l0
  | _ => o.l1).rink?

/-- The rink of a stream (15 R363); rink 0 where no rink owns it. -/
def headRink (c : Site) (h : Nat) : Nat :=
  match ownField c.own h with
  | some r => r.toNat
  | none => 0

def owns (c : Site) (r h : Nat) : Bool := (ownField c.own h).map (·.toNat) == some r

def ctxHead (x : Side) : Nat := b2n x

def halfHead (h : Side) : Nat := 3 + b2n h

/-- The rink whose context executes. -/
def myRink (s : State) : Nat := headRink (mySite s) (ctxHead s.cur.ctx)

/-- The function a rink is bound to (15 R362). -/
def rinkFn (r : Nat) (s : State) : Nat := (rink r s).vf.toNat

/-- The set of counters and frames of a rink on a core: 1 only for the rink of context 1 alone (10 R278, 18 R413). -/
def setOf (c : Site) (r : Nat) : Side := !owns c r 0 && owns c r 1

/-- The home context: the lowest-numbered context of the core that belongs to the rink (06 R151). -/
def homeCtx (c : Site) (r : Nat) : Side := setOf c r

def frozenFor (c : Site) (r : Nat) : Bool := if setOf c r then c.frozen1 else c.frozen0

/-- The sites on which a rink owns an engine. -/
def sitesOf (r : Nat) (s : State) : List Nat :=
  (s.sites.cells.filter fun p => (List.range 7).any fun h => owns p.2 r h).map (·.1)

/-- The physical site of a logical core, through the place table (15 R367); none where the entry names no site. -/
def siteOfLogical (r l : Nat) (s : State) : Option Nat :=
  let e := (rink r s).place.get Place.reset l
  if l < 272 ∧ e.v ∧ e.site < 288 then some e.site else none

/-- The logical core of a site in a rink's place table. -/
def logicalOfSite (r k : Nat) (s : State) : Option Nat :=
  (List.range 272).find? fun l => siteOfLogical r l s == some k

/-- The latency of R240 between two logical cores of a rink. -/
def latency (r u v : Nat) (s : State) : Nat :=
  let a := (rink r s).place.get Place.reset u
  let b := (rink r s).place.get Place.reset v
  let dc := (max a.col b.col) - (min a.col b.col)
  let dr := (max a.row b.row) - (min a.row b.row)
  let x := b2n (decide (a.row ≤ 11) != decide (b.row ≤ 11))
  2 * (dc + dr - x) + 6 * x

/-- The rink is the lead context's: the Rink Sequencer (15 R362). -/
def isSequencer (r k : Nat) (x : Side) (s : State) : Bool :=
  let q := rink r s
  siteOfLogical r q.lead.toNat s == some k && q.leadCtx == x

/-! ## Why a word does not proceed -/

/-- A word that cannot proceed: it stalls (a wait in free mode, a slip of that kind, detail and INFO [11:8] in timetabled mode,
09 R249), counted on a flag if it waits for one, or raises a trap with its cause and INFO, latching TMFAULT or TFAULT; a memory error
counts on the unit that found it. -/
inductive Hit where
  | stall (kind detail extra : Nat) (flag : Option Nat)
  | trap (code info : Nat)
  | tmTrap (code info reason addr : Nat)
  | walkTrap (code info fn addr : Nat)
  | memTrap (fn ma : Nat)
  | softTrap (at' : Option Nat) (addr : Nat)
  deriving DecidableEq, Repr

/-- A hit found in the TM of site `k`. -/
def Hit.onSite (k : Nat) : Hit → Hit
  | .softTrap none addr => .softTrap (some k) addr
  | h => h

def firstHit : List (Option Hit) → Option Hit
  | [] => none
  | some h :: _ => some h
  | none :: rest => firstHit rest

def hitIf (b : Bool) (h : Hit) : Option Hit := if b then some h else none

/-- FCTL as written: a code that is no mode stores RNE (01 R24). -/
def fctlOf (v : Nat) : BitVec 6 :=
  let rm := v % 8
  .ofNat 6 (v / 8 % 8 * 8 + if 1 ≤ rm ∧ rm ≤ 5 then rm else 1)

/-! ## Scalar and capability registers (02 R43, R44, R50) -/

/-- The value of a scalar register; s0 reads zero (R43). -/
def getS (x : Ctx) (r : BitVec 5) : Word := if r = 0 then 0 else x.s.get 0 r.toNat

/-- A write of a scalar register whose result may be read `lat` beats on; s0 discards it (R43, R50, 04 R95). -/
def putS (now lat : Nat) (r : BitVec 5) (v : Word) (x : Ctx) : Ctx :=
  if r = 0 then x
  else { x with s := x.s.put r.toNat v, sValid := setBit x.sValid r.toNat true, sReady := x.sReady.put r.toNat (now + lat) }

def getA (x : Ctx) (r : BitVec 4) : Cap := x.a.get Cap.null r.toNat

def putA (now lat : Nat) (r : BitVec 4) (v : Cap) (x : Ctx) : Ctx :=
  { x with a := x.a.put r.toNat v, aValid := setBit x.aValid r.toNat true, aReady := x.aReady.put r.toNat (now + lat) }

/-- An earlier result to a scalar register is not written yet (04 R96). -/
def pendingS (now : Nat) (x : Ctx) (r : BitVec 5) : Bool :=
  r != 0 && (x.sElastic.getLsbD r.toNat || decide (now < x.sReady.get 0 r.toNat))

def pendingA (now : Nat) (x : Ctx) (r : BitVec 4) : Bool :=
  x.aElastic.getLsbD r.toNat || decide (now < x.aReady.get 0 r.toNat)

/-- Reading a scalar register: an earlier result pending, or an invalid register (04 R96, 02 R51). -/
def readS (now : Nat) (x : Ctx) (r : BitVec 5) : Option Hit :=
  if pendingS now x r then some (.stall 5 r.toNat 0 none)
  else hitIf (r != 0 && !x.sValid.getLsbD r.toNat) (.trap 2 r.toNat)

def readA (now : Nat) (x : Ctx) (r : BitVec 4) : Option Hit :=
  if pendingA now x r then some (.stall 5 r.toNat 1 none)
  else hitIf (!x.aValid.getLsbD r.toNat) (.trap 2 (0x1000 + r.toNat))

/-- Writing a register `lat` beats on ahead of a pending write to it, the result coming in beat `ready`; a word that has begun to wait goes on until that one is written
(04 R96). -/
def writesAhead (now lat ready : Nat) (x : Ctx) : Bool := decide (now < ready) && (x.ctl.prepared || decide (now + lat < ready))

/-- Writing a scalar register ahead of a pending write to it (04 R96). An elastic result that is pending may come later still. -/
def writeS (now lat : Nat) (x : Ctx) (r : BitVec 5) : Option Hit :=
  hitIf (r != 0 && (x.sElastic.getLsbD r.toNat || writesAhead now lat (x.sReady.get 0 r.toNat) x)) (.stall 5 r.toNat 0 none)

def writeA (now lat : Nat) (x : Ctx) (r : BitVec 4) : Option Hit :=
  hitIf (x.aElastic.getLsbD r.toNat || writesAhead now lat (x.aReady.get 0 r.toNat) x) (.stall 5 r.toNat 1 none)

/-! ## Traps -/

/-- ECAUSE of 02 R62. -/
def ecauseWord (info code stream : Nat) (fatal recorded : Bool) : Word :=
  .ofNat 64 (info % 65536 * 2 ^ 32 + b2n fatal * 2 ^ 31 + b2n recorded * 2 ^ 30 + stream % 64 * 2 ^ 24 + code % 65536)

/-- Whether a cause is fatal by its class (18 R411, 09 R250). -/
def classFatal (recorded : Bool) (code info : Nat) : Bool :=
  if recorded then !(code == 0x03 && decide (info / 4096 ≤ 4)) && code != 0x1C && code != 0x29
  else code == 0x1A || code == 0x1B || code == 0x2D || code == 0x2E || code == 0x2F

/-- The restart point of a context (02 R61): at the word itself, or after it for a software trap (05 R145). -/
def restart (x : Ctx) (after : Bool) : Word × Word × BitVec 2 :=
  if after then
    if x.slots = 2 then (x.pc + 4, x.npc, 1)
    else if x.slots = 1 then (x.npc, x.npc + 4, 0)
    else (x.pc + 4, x.pc + 8, 0)
  else if x.slots = 0 then (x.pc, x.pc + 4, 0) else (x.pc, x.npc, x.slots)

/-- A program counter holds a word address, whose two low bits are reserved (02 R61, R64, 03 R68); those of a graph's address or of an image's are dropped
(DESIGN CHOICE, notes/assumptions/42.md). -/
def wordAddr (v : Word) : Word := .ofNat 64 (v.toNat / 4 * 4)

/-- Step 1 of taking a trap: the restart registers and ECAUSE (18 R412, 02 R61, R62). -/
def saveTrap (after : Bool) (cause : Word) (x : Ctx) : Ctx :=
  let p := restart x after
  { x with trap := { x.trap with epc := p.1, enpc := p.2.1, eds := p.2.2, ecause := cause } }

/-- The handler's code capability (18 R412). -/
def handlerCap (hvec hlim : Nat) : Cap := Cap.grant 0 0x011 (field hvec 47 2 * 4) hlim

/-- Steps 2 and 3: the code capability is held aside and issue continues at the handler in the next beat (18 R412). -/
def enterHandler (now : Nat) (hvec hlim : Nat) (x : Ctx) : Ctx :=
  { x with
    trap := { x.trap with handler := true, heldCode := x.code },
    code := handlerCap hvec hlim, pc := .ofNat 64 (field hvec 47 2 * 4), npc := 0, slots := 0, ib := [], ahead := [], fetching := false,
    ctl := { x.ctl with next := now + 1, prepared := false, cls := .busy } }

/-! ## Pins (05 R130, R132, 14 R339) -/

/-- Add to the in-flight counter of a stage-2 leaf: bits [15:0] of its word 1. -/
def bumpPin (leaf : Nat) (up : Bool) (m : Mem) : Mem :=
  let n := leNat (m.readBytes (leaf + 8) 2)
  m.writeBytes (leaf + 8) (leBytes 2 (if up then n + 1 else n - 1))

/-- The counter of each machine page counts one command or launch once, however many of its 64 KiB parts the command translated (05 R130). -/
def pinPages (up : Bool) (ps : List Page) (s : State) : State :=
  { s with mem := (ps.filterMap (·.leaf)).dedup.foldl (fun m l => bumpPin l up m) s.mem }

/-- Two translations are of one virtual page (05 R130). -/
def samePage (p q : Page) : Bool := p.space == q.space && p.va == q.va

/-- Each virtual page once. -/
def distinctPages : List Page → List Page
  | [] => []
  | p :: ps => if ps.any (samePage p) then distinctPages ps else p :: distinctPages ps

/-- The pages a command translated, each once (05 R130). -/
def pagesOf (bs : List Base) : List Page := distinctPages (bs.flatMap (·.pages))

def releaseCommand (c : Command) (s : State) : State := pinPages false (pagesOf c.bases) s

/-! ## Tile memory (10) -/

/-- The region of a rink that holds a TM byte (10 R259, R260). -/
def regionAt (c : Site) (r addr : Nat) : Option Region :=
  c.tm.regions.find? fun g => g.rink == r && decide (g.base ≤ addr ∧ addr < g.base + g.size)

def groupOf (c : Site) (g : Nat) : Group := c.tm.groups.get Group.empty g

def setGroup (g : Nat) (v : Group) (t : Tm) : Tm := { t with groups := t.groups.setD Group.empty g v }

/-- The group's age is reset in this beat (10 R266). -/
def markWritten (g : Nat) (t : Tm) : Tm := if t.written.contains g then t else { t with written := g :: t.written }

/-- Drop every entry with a key in `[lo, hi)`. -/
def dropRange {α : Type} (lo hi : Nat) (t : Table α) : Table α := ⟨t.cells.filter fun c => c.1 < lo || hi ≤ c.1⟩

/-- The bytes an action reads or writes in TM: address, length and whether it writes. A refresh takes its bank only. -/
def actSpans : Act → List (Nat × Nat × Bool)
  | .ccLoad _ _ addr len _ _ _ => [(addr, len, false)]
  | .tmStore addr data _ => [(addr, data.length, true)]
  | .veLoad lanes _ => lanes.map fun l => (l.2, 4, false)
  | .veStore lanes => lanes.map fun l => (l.1, 4, true)
  | .outRow addr data => [(addr, data.length, true)]
  | .aoutRow _ _ whole _ bf _ _ tile addr _ => if tile.isSome then [] else [(addr, (if bf then 256 else 512) * (1 + b2n whole), true)]
  | .refresh g => [(g * 4096, 0, false)]
  | _ => []

/-- A write already issued makes a group valid before a read of beat `due` is performed (10 R262, R263, 06 R176). -/
def comingGroup (c : Site) (due g : Nat) : Bool :=
  c.pipe.any fun p => decide (p.due < due)
    && (actSpans p.act).any fun sp => sp.2.2 && decide (sp.1 < g * 4096 + 4096 ∧ g * 4096 < sp.1 + sp.2.1)

/-- The errors of kind `e` in the doublewords of a span (18 R420). -/
def errorsIn (e addr n : Nat) (t : Table Nat) : List Nat :=
  (t.cells.filter fun p => p.2 == e && decide (addr / 8 ≤ p.1 ∧ p.1 * 8 < addr + n)).map (·.1)

/-- The address of the first uncorrectable error in a span of TM (18 R420). -/
def spoiled (t : Tm) (addr n : Nat) : Option Nat := (errorsIn 2 addr n t.errs).head?.map (8 * ·)

/-- The checks of a TM read or write of `n` bytes at `addr` in R177's order: region, compressed, and for a read validity and an uncorrectable error (18 R420). A
compressed region is open only to the fetchers and the Lift engines (10 R261). `ahead` names the groups that writes already issued make
valid before the read is performed. -/
def tmCheck (c : Site) (r addr n : Nat) (isRead : Bool) (ahead : Nat → Bool) (info : Nat) : Option Hit :=
  if 0xC00000 < addr + n then some (.tmTrap 0x17 info 5 addr)
  else
    let gs := (List.range ((addr + n - 1) / 4096 + 1 - addr / 4096)).map (· + addr / 4096)
    if gs.any fun g => (regionAt c r (max addr (4096 * g))).isNone then some (.tmTrap 0x17 info 1 addr)
    else if gs.any fun g => (regionAt c r (max addr (4096 * g))).any (·.compressed) then some (.tmTrap 0x18 info 2 addr)
    else if isRead && gs.any fun g => !((groupOf c g).valid || ahead g) then some (.tmTrap 0x19 info 3 addr)
    else if isRead && !ahead (addr / 4096) then (spoiled c.tm addr n).map (Hit.softTrap none)
    else none

/-- A group that a write reaches: valid from now on, its bytes and tags zero if it was invalid, its age 0 and its dirty bit
set (10 R262, R264, R275). -/
def touchGroup (g : Nat) (t : Tm) : Tm :=
  let v := t.groups.get Group.empty g
  let t' := if v.valid then t
    else { t with bytes := dropRange (g * 4096) (g * 4096 + 4096) t.bytes, tags := dropRange (g * 256) (g * 256 + 256) t.tags }
  markWritten g (setGroup g { v with valid := true, age := 0, dirty := true } t')

/-- The TM write: groups, bytes, and the tags of the granules written cleared, or the tag of an st.c written (02 R47). A doubleword written whole is
sound again. -/
def tmWrite (addr : Nat) (data : List Byte) (tag : Option Bool) (t : Tm) : Tm :=
  if data.isEmpty then t
  else
    let last := addr + data.length - 1
    let t2 := ((List.range (last / 4096 + 1 - addr / 4096)).map (· + addr / 4096)).foldl (fun t g => touchGroup g t) t
    let gs := (List.range (last / 16 + 1 - addr / 16)).map (· + addr / 16)
    let tags := gs.foldl (fun m g => m.setD false g (tag == some true)) t2.tags
    { t2 with bytes := t2.bytes.writeBytes addr data, tags := tags, errs := dropRange (ceilDiv addr 8) ((addr + data.length) / 8) t2.errs }

def tmRead (t : Tm) (addr n : Nat) : List Byte := t.bytes.readBytes addr n

/-- A group becomes invalid: its tags are cleared and its age held at 0 (10 R262, R271). -/
def invalidate (g : Nat) (t : Tm) : Tm :=
  let v := t.groups.get Group.empty g
  setGroup g { v with valid := false, age := 0, queued := none, hold := false, soft := false }
    { t with bytes := dropRange (g * 4096) (g * 4096 + 4096) t.bytes, tags := dropRange (g * 256) (g * 256 + 256) t.tags,
             errs := dropRange (g * 512) (g * 512 + 512) t.errs }

/-- The groups of the region of rink `r` that starts at `b` become free: invalid, clean, uncounted; groups marked for retirement stay
retired (10 R262, R277). -/
def freeRegion (r b : Nat) (t : Tm) : Tm :=
  match t.regions.find? fun g => g.rink == r && g.base == b with
  | none => t
  | some g =>
    let t' := { t with regions := t.regions.filter fun h => !(h.rink == r && h.base == b) }
    (List.range (g.size / 4096)).foldl (fun t i => setGroup (g.base / 4096 + i) Group.empty (invalidate (g.base / 4096 + i) t)) t'

/-- A policy, rwax or freeze-hold refresh of a valid group (10 R271, R274). Its tags stay, those of an rwax's too: 05 R137 leaves values and tags unchanged, where 02 R47
lists an rwax that rewrites data among the stores that clear tags (DESIGN CHOICE, notes/assumptions/42.md). -/
def refreshGroup (g : Nat) (t : Tm) : Tm :=
  let v := t.groups.get Group.empty g
  if v.valid then markWritten g (setGroup g { v with age := 0, queued := none, hold := false, soft := false } t) else t

/-! ### Soft errors (18 R420, R421) -/

/-- SERRU keeps the first uncorrectable error after it was last read. -/
def logSerru (place index : Nat) (c : Site) : Site :=
  if c.obs.serru.getLsbD 63 then c
  else modObs (fun o => { o with serru := .ofNat 64 (2 ^ 63 + place * 2 ^ 60 + index % 2 ^ 24) }) c

def countSerrc (n : Nat) (c : Site) : Site := modObs (fun o => { o with serrc := .ofNat 48 (satAdd 48 o.serrc.toNat n) }) c

/-- A read of TM gives corrected data; each correctable error in it is counted, and its group asks for a refresh. -/
def corrected (addr n : Nat) (c : Site) : Site :=
  let es := errorsIn 1 addr n c.tm.errs
  if es.isEmpty then c
  else
    let ask (t : Tm) (g : Nat) : Tm :=
      let v := t.groups.get Group.empty g
      if v.valid && v.queued.isNone then setGroup g { v with queued := some 0, soft := true } t else t
    modTm (fun t => (es.map (· / 512)).dedup.foldl ask t) (countSerrc es.length c)

/-- The group of a doubleword with an uncorrectable error becomes invalid, and the error is logged. -/
def spoilGroup (addr : Nat) (c : Site) : Site := modTm (invalidate (addr / 4096)) (logSerru 0 addr c)

/-- What a refresh or a save finds in a group: an uncorrectable error invalidates it; correctable errors are counted and corrected. -/
def scrubGroup (g : Nat) (c : Site) : Site :=
  match spoiled c.tm (4096 * g) 4096 with
  | some a => spoilGroup a c
  | none =>
    let es := errorsIn 1 (4096 * g) 4096 c.tm.errs
    if es.isEmpty then c else modTm (fun t => { t with errs := dropRange (g * 512) (g * 512 + 512) t.errs }) (countSerrc es.length c)

/-- A refresh of a group. -/
def refreshSite (g : Nat) (c : Site) : Site := scrubGroup g (modTm (refreshGroup g) c)

/-- A reader meets an uncorrectable error of TM. -/
def softError (k addr : Nat) (s : State) : State := modSite k (spoilGroup addr) s

/-- The refresh the device places itself carries a stream number that no stream has. -/
def deviceStream : Nat := 9

/-- TMFAULT keeps the latest beat's fault, and of one beat the one of the lowest rank in R278's order: timetabled requesters in R258's precedence, free
streams in theirs, Lift, save and restore, expiry. -/
def latchTm (rank reason addr : Nat) (c : Site) : Site :=
  if c.obs.tmFaultAt = c.now + 1 ∧ c.obs.tmFault ≠ 0 ∧ c.obs.tmFaultRank ≤ rank then c
  else modObs (fun o => { o with tmFault := .ofNat 64 (reason * 2 ^ 28 + addr % 2 ^ 24), tmFaultAt := c.now + 1, tmFaultRank := rank }) c

/-- The rank of a request's fault: timetabled ones first, then by the age of the request in beats, and of one beat by its place in R258's order. -/
def requestRank (timetabled : Bool) (age place : Nat) : Nat := (if timetabled then 0 else 1024) + 16 * (63 - min 63 age) + place

/-- The rank of a fault that a stream raises as its word issues: heads 0 to 4, the Lift and collective engines after them. -/
def streamRank (h : Nat) (timetabled : Bool) : Nat := if 5 ≤ h then 2048 + h else requestRank timetabled 0 h

/-- The rank of an expiry. -/
def expiryRank (g : Nat) : Nat := 2064 + g

/-! ## The sync flags (02 R54 to R58) -/

/-- The context whose rink a flag falls to when two rinks share the core (02 R57). -/
def flagSide (f : Nat) : Side :=
  decide (8 ≤ f ∧ f ≤ 15) || decide (24 ≤ f ∧ f ≤ 31) || decide (48 ≤ f)

/-- The rink may name the flag: two rinks share the core only when both contexts are owned by different rinks (02 R57). -/
def ownsFlag (c : Site) (r f : Nat) : Bool :=
  match c.own.ctx0.rink?, c.own.ctx1.rink? with
  | some a, some b => a == b || (if flagSide f then b.toNat == r else a.toNat == r)
  | _, _ => true

/-- Ready for a wait in this beat: full and event flags as the beat began, so that readers of one beat all see them; a token must
still be there (02 R54, R56). -/
def flagReady (c : Site) (f : Nat) : Bool :=
  if f < 16 then c.flags.fullBefore.getLsbD f
  else if f < 32 then decide (0 < c.flags.tokens.get 0 (f - 16))
  else c.flags.eventsBefore.getLsbD (f - 32)

/-- The flag as tstf samples it: before this beat's clears and sets (05 R125). -/
def flagSample (c : Site) (f : Nat) : Bool :=
  if f < 16 then c.flags.fullBefore.getLsbD f
  else if f < 32 then decide (0 < c.flags.tokensBefore.get 0 (f - 16))
  else c.flags.eventsBefore.getLsbD (f - 32)

/-- Clear a flag or pop a token, in the first step of the beat (02 R56). -/
def clearFlag (f : Nat) (c : Site) : Site :=
  modFlags (fun b =>
    if f < 16 then { b with full := setBit b.full f false }
    else if f < 32 then { b with tokens := b.tokens.put (f - 16) (b.tokens.get 0 (f - 16) - 1) }
    else { b with events := setBit b.events (f - 32) false }) c

/-- Set a flag or push a token, in the second step of the beat (02 R56). -/
def setFlag (f : Nat) (c : Site) : Site := modFlags (fun b => { b with sets := b.sets ++ [f] }) c

/-- Room for one more push into a FIFO after those already made in this beat; always for the other flags (02 R56). -/
def pushRoom (c : Site) (f : Nat) : Bool :=
  if 16 ≤ f ∧ f < 32 then
    decide (c.flags.tokens.get 0 (f - 16) + c.flags.sets.count f < 8) && !c.flags.blocked.contains f
  else true

/-- A tile register is empty after this beat's clears (02 R54). -/
def tileEmpty (c : Site) (t : Nat) : Bool := !c.flags.full.getLsbD t

def applySet (b : Flags) (f : Nat) : Flags :=
  if f < 16 then { b with full := setBit b.full f true }
  else if f < 32 then { b with tokens := b.tokens.put (f - 16) (min 8 (b.tokens.get 0 (f - 16) + 1)) }
  else { b with events := setBit b.events (f - 32) true }

/-- The end of a beat: the sets and pushes take effect, and the next beat begins from the result (02 R56). -/
def settleFlags (b : Flags) : Flags :=
  let b' := b.sets.foldl applySet b
  { b' with fullBefore := b'.full, tokensBefore := b'.tokens, eventsBefore := b'.events, sets := [], blocked := [] }

/-- A beat in which a flag is waited for is counted, once however many wait (02 R58). -/
def countWait (f : Nat) (c : Site) : Site :=
  if c.issued.contains (128 + f) then c
  else modObs (fun o => { o with wcnt := o.wcnt.put f (.ofNat 48 (satAdd 48 (o.wcnt.get 0 f).toNat 1)) }) { c with issued := (128 + f) :: c.issued }

/-! ## Launches and units -/

/-- The running launch of a rink that has a begun unit on a site, with the unit. -/
def unitAt (r k : Nat) (s : State) : Option (Launch × UnitRun) :=
  (rink r s).work.launches.findSome? fun l =>
    (l.units.find? fun u => u.site == k && u.begun && !u.finished).map fun u => (l, u)

def modLaunch (r lctr : Nat) (f : Launch → Launch) (s : State) : State :=
  modWork r (fun w => { w with launches := w.launches.map fun l => if l.lctr = lctr then f l else l }) s

def modUnit (k : Nat) (f : UnitRun → UnitRun) (l : Launch) : Launch :=
  { l with units := l.units.map fun u => if u.site = k then f u else u }

/-! ## The freeze of a unit (09 R251, 18 R413) -/

/-- One head's words of a fault frame: FFPC and FFNPC. -/
def framePc (running : Bool) (slots : BitVec 2) (pc : Nat) : Word :=
  .ofNat 64 (b2n running * 2 ^ 63 + slots.toNat * 2 ^ 48 + pc % 2 ^ 48)

/-- The registers of a table whose results are still to come. -/
def unlanded (now : Nat) (t : Table Nat) : Nat := (t.cells.filter fun p => decide (now < p.2)).length

/-- The entries of a rink's snapshot on a core: accesses, flag actions and signals in flight, results still to come, and the k-steps and fills that run
(09 R251, 18 R413). -/
def snapshotCount (c : Site) (r : Nat) : Nat :=
  let ofCtx (x : Side) : Nat := if owns c r (ctxHead x) then unlanded c.now (ctxOf c x).sReady + unlanded c.now (ctxOf c x).aReady else 0
  let ofVe : Nat := if owns c r 2 then unlanded c.now c.ve.vReady + unlanded c.now c.ve.pReady + unlanded c.now c.ve.xReady else 0
  let ofHalf (h : Side) : Nat :=
    if owns c r (halfHead h) then ((halfOf c h).nests.filter (·.busy)).length + ((halfOf c h).fills.filter (·.started.isSome)).length else 0
  min 128 ((c.pipe.filter (·.rink == r)).length + ofCtx false + ofCtx true + ofVe + ofHalf false + ofHalf true)

/-- The rink's command of queue LQ (0) or SQ (1) that runs, on whichever engine (08 R215, 15 R370). -/
def queueRun (c : Site) (r q : Nat) : Option Run := ([c.q.run0, c.q.run1].filterMap id).find? fun v => v.cmd.rink == r && v.cmd.queue == q

/-- The fault frame of a rink's streams on a core: the cause, the beat, the heads and the number of snapshot entries. -/
def frameOf (c : Site) (r : Nat) (stat : Word) : Frame :=
  let v (h : Nat) (b : Bool) : Bool := b && owns c r h
  let queuePc (q : Nat) : Word := match queueRun c r q with
    | some x => framePc true 0 (x.cmd.image + 2 * x.seq.pc)
    | none => 0
  { stat := stat, beat := c.beat,
    pcs := [
      framePc (v 0 c.ctx0.ctl.running) c.ctx0.slots c.ctx0.pc.toNat,
      framePc (v 1 c.ctx1.ctl.running) c.ctx1.slots c.ctx1.pc.toNat,
      framePc (v 2 c.ve.ctl.running) c.ve.slots c.ve.pc.toNat,
      framePc (v 3 c.half0.ctl.running) 0 (c.half0.pcBase.toNat + 2 * c.half0.seq.pc),
      framePc (v 4 c.half1.ctl.running) 0 (c.half1.pcBase.toNat + 2 * c.half1.seq.pc),
      queuePc 0,
      queuePc 1],
    npcs := [.ofNat 64 (c.ctx0.npc.toNat % 2 ^ 48), .ofNat 64 (c.ctx1.npc.toNat % 2 ^ 48), .ofNat 64 (c.ve.npc.toNat % 2 ^ 48)],
    snapCount := snapshotCount c r }

/-- FFSTAT (18 R413). -/
def frameStat (info code stream : Nat) (fatal recorded : Bool) : Word :=
  .ofNat 64 (2 ^ 63 + b2n fatal * 2 ^ 62 + b2n recorded * 2 ^ 61 + stream % 64 * 2 ^ 48 + info % 65536 * 2 ^ 32 + code % 65536)

/-- FFSTAT of a core that only froze (18 R413). -/
def onlyFroze : Word := frameStat 0 0 63 false false

/-- Write a frame when the core stops; a core that has stopped keeps the cause it stopped for. -/
def writeFrame (r : Nat) (stat : Word) (c : Site) : Site :=
  if frozenFor c r then c
  else if setOf c r then modObs (fun o => { o with frame1 := frameOf c r stat }) c
  else modObs (fun o => { o with frame0 := frameOf c r stat }) c

/-- Stop a rink's streams on a core: its frame is written and its BEAT stops (09 R251). -/
def freezeSite (r : Nat) (stat : Word) (c : Site) : Site :=
  let c' := writeFrame r stat c
  if setOf c r then { c' with frozen1 := true } else { c' with frozen0 := true }

/-- A rink's streams on a core are stopped no more. -/
def thawSite (r : Nat) (c : Site) : Site := if setOf c r then { c with frozen1 := false } else { c with frozen0 := false }

/-- VALID of a rink's frame clears, at RESUME or at the end of a rewind (18 R413). -/
def clearFrame (r : Nat) (c : Site) : Site :=
  let f (v : Frame) : Frame := { v with stat := v.stat &&& ~~~(0x8000000000000000 : Word) }
  modObs (fun o => if setOf c r then { o with frame1 := f o.frame1 } else { o with frame0 := f o.frame0 }) c

/-- The freezes a unit is in or has before it, each with the launch time of its first pulse and, once RESUME has been given, of its resumption. -/
def stopsOf (u : UnitRun) : List (Nat × Option Nat) :=
  match u.freezeAt with
  | some f => (f, u.resumeAt) :: u.later
  | none => []

def setStops (es : List (Nat × Option Nat)) (u : UnitRun) : UnitRun :=
  match es with
  | [] => { u with freezeAt := none, resumeAt := none, later := [] }
  | e :: es => { u with freezeAt := some e.1, resumeAt := e.2, later := es }

/-- A pulse of the freeze that stands `back` from the last of the launch reaches the unit at launch time `t`: the first pulse to arrive counts, and
an earlier one brings the resumption forward as much (R252, R253). `back` 0 is a new freeze. -/
def meetPulse (back t : Nat) (u : UnitRun) : UnitRun :=
  let es := stopsOf u
  if back = 0 then setStops (es ++ [(t, none)]) u
  else if es.length < back then u
  else
    setStops (es.zipIdx.map fun p =>
      if p.2 = es.length - back ∧ t < p.1.1 then (t, p.1.2.map (· - (p.1.1 - t))) else p.1) u

/-- The launch time at a core: the beats since the pulse left, less the core's frozen beats (09 R241). -/
def launchTime (l : Launch) (k : Nat) : Nat :=
  match l.units.find? (·.site == k) with
  | some u => l.time - u.lost
  | none => l.time

/-- The packets of a launch that its router on site `k` holds as it freezes: those still to leave it that no router before it holds (R251). -/
def heldPackets (l : Launch) (k : Nat) : Nat :=
  let holds (e : Nat × Nat × Nat × Nat) : Bool := l.units.any fun u => u.site == e.2.1 && (match u.freezeAt with
    | some f => decide (f - u.lost ≤ e.2.2.2)
    | none => false)
  (l.packets.filter fun e => e.2.1 == k && decide (launchTime l k ≤ e.2.2.2)
    && !l.packets.any fun q => q.1 == e.1 && decide (q.2.2.2 < e.2.2.2) && holds q).length

/-- The launch of a rink that has been frozen longest (18 R414). -/
def frozenLaunch (r : Nat) (s : State) : Option Launch :=
  (rink r s).work.launches.foldl (fun (best : Option Launch) l => match l.froze, best.bind (·.froze) with
    | some f, some g => if f.1 < g.1 then some l else best
    | some _, none => some l
    | none, _ => best) none

/-- FROZEN, KIND and CORE of RFRZ show the launch that has been frozen longest (18 R414). -/
def showFreeze (r : Nat) (s : State) : State :=
  match (frozenLaunch r s).bind (·.froze) with
  | some f => modRecov r (fun v => { v with frozen := true, kind := .ofNat 8 f.2.1, core := .ofNat 9 f.2.2 }) s
  | none => modRecov r (fun v => { v with frozen := false, kind := 0, core := 0 }) s

/-- A unit of a launch traps at its core in this beat: it stops after the beat, and a freeze pulse is on its way to every other
unit (09 R251, R252). A unit that traps before the pulse of a freeze reaches it joins that freeze. -/
def freezeLaunch (r k kind detail : Nat) (fatal : Bool) (l : Launch) (s : State) : State :=
  let home := (logicalOfSite r k s).getD 0
  let mine := (l.units.find? (·.site == k)).toList.flatMap stopsOf
  let passed := mine.head?.any (·.2.isSome)
  let f (u : UnitRun) : UnitRun :=
    if u.site = k then
      { meetPulse mine.length l.time u with
        trapped := some (u.trapped.getD l.time), devs := if passed then u.devs else u.devs ++ [(kind, detail)], fatal := u.fatal || fatal,
        frozenAt := some (u.frozenAt.getD l.time) }
    else meetPulse mine.length (l.time + latency r home ((logicalOfSite r u.site s).getD 0) s) u
  let first := (l.units.find? (·.site == k)).all (·.frozenAt.isNone)
  let s0 := if first then countShared (dieOfSite k) 5 2 (rinkFn r s) (heldPackets l k) s else s
  let s1 := modLaunch r l.lctr (fun l =>
    { l with units := l.units.map f, frozenSince := if passed then l.frozenSince else some (l.frozenSince.getD l.time),
             froze := if passed then l.froze else some (l.froze.getD (s.cycle, kind, home)) }) s0
  showFreeze r s1

/-- A launch with a unit on site `src` has written a row group of site `k`: the region that holds it is marked, as a cancel leaves its contents
unspecified (05 R140). -/
def noteWrite (r src k g : Nat) (s : State) : State :=
  match unitAt r src s, (site k s).tm.regions.find? fun q => decide (q.base / 4096 ≤ g ∧ g < (q.base + q.size) / 4096) with
  | some (l, _), some q =>
    if l.wrote.contains (k, q.base) then s else modLaunch r l.lctr (fun l => { l with wrote := (k, q.base) :: l.wrote }) s
  | _, _ => s

/-! ## Counters of a rink's work (13 R312) -/

/-- The entries of an issue list that have not left the running state. -/
def openCount (l : List (Nat × Nat)) : Nat := (l.filter (·.2 == 4)).length

/-- GCTR, PCTR or JCTR with a new PENDING: state 3 while it is nonzero and 4 when it reaches zero. -/
def levelCtr (old : Ctr) (n : Nat) : Ctr :=
  { status := 0, pending := n, state := if n ≠ 0 then .running else if old.state = .idle then .idle else .complete }

/-- The local operations under a collective number. -/
def collOps (c : Coll) : List CollOp := c.op.toList ++ c.others

def rinkOps (r : Nat) (s : State) : List CollOp := (rink r s).colls.cells.flatMap fun c => collOps c.2

/-- The running job of a rink: its slot and number. -/
def jobOf (r : Nat) (s : State) : Option (Nat × Nat) := (rink r s).work.running.map fun j => (j.slot, j.job.seq)

/-- The operation was started in the running job. -/
def ofJob (r : Nat) (s : State) (o : CollOp) : Bool := o.job.isSome && o.job == jobOf r s

/-- The detached collectives of the running job that are not complete (08 R236, 13 R312). -/
def detachedCount (r : Nat) (s : State) : Nat := ((rinkOps r s).filter fun o => o.detached && ofJob r s o).length

def recount (r : Nat) (s : State) : State :=
  let d := detachedCount r s
  modWork r (fun w => { w with
    gctr := levelCtr w.gctr (openCount w.issuedG), pctr := levelCtr w.pctr (openCount w.issuedP),
    jctr := levelCtr w.jctr (openCount w.issuedJ + d) }) s

/-- A launch leaves its running state: its issue entries take its end. -/
def markEnded (lctr code : Nat) (l : List (Nat × Nat)) : List (Nat × Nat) :=
  l.map fun e => if e.1 = lctr ∧ e.2 = 4 then (e.1, code) else e

def endLaunchEntries (lctr code : Nat) (w : Work) : Work :=
  { w with issuedG := markEnded lctr code w.issuedG, issuedP := markEnded lctr code w.issuedP, issuedJ := markEnded lctr code w.issuedJ }

/-! ## Energy (15 R377, R378, 02 R66) -/

/-- A charge to a context's ECNT. -/
def addEnergy (c : Nat) (x : Ctx) : Ctx :=
  if 2 ^ 48 - 1 ≤ x.ecnt.toNat + c then { x with ecnt := .ofNat 48 (2 ^ 48 - 1), ecntSat := true }
  else { x with ecnt := .ofNat 48 (x.ecnt.toNat + c) }

/-- EWTk of the die of a site. -/
def weight (k : Nat) (cls : Nat) (s : State) : Nat := ((die (dieOfSite k) s).ewt.get 0 cls).toNat

/-- Charge class `cls`, `n` times, to a context of a site. -/
def charge (k : Nat) (x : Side) (cls n : Nat) (s : State) : State := modSite k (modCtx x (addEnergy (n * weight k cls s))) s

/-! ## World switches and the journal (15 R371, 13 R328) -/

/-- A posted write to host memory for a function; without Bus Master Enable none is sent (14 R359). -/
def hostWrite (fn addr : Nat) (data : List Byte) (s : State) : State :=
  if (fnOf fn s).busMaster then { s with host := s.host.writeBytes addr data } else s

def addTot (i : Nat) (v : Nat) (t : Table (BitVec 48)) : Table (BitVec 48) := t.put i (.ofNat 48 (satAdd 48 (t.get 0 i).toNat v))

/-- The live counters of a rink on one core added into its totals (15 R371). -/
def gatherSite (r : Nat) (c : Site) (t : Table (BitVec 48)) : Table (BitVec 48) :=
  let x := b2n (setOf c r)
  let t1 := (List.range 5).foldl (fun t i => addTot i (c.obs.tmCnt.get 0 (5 * x + i)).toNat t) t
  let t2 := (List.range 28).foldl (fun t i => addTot (5 + i % 4) (c.obs.qcnt.get 0 (28 * x + i)).toNat t) t1
  (List.range 64).foldl (fun t f =>
    if !ownsFlag c r f then t
    else addTot (if f < 16 then 26 else if f < 32 then f - 6 else 27) (c.obs.wcnt.get 0 f).toNat t) t2

/-- The live counters of a rink on one core set to zero. -/
def zeroSite (r : Nat) (c : Site) : Site :=
  let x := b2n (setOf c r)
  modObs (fun o => { o with
    tmCnt := (List.range 5).foldl (fun t i => t.put (5 * x + i) 0) o.tmCnt,
    qcnt := (List.range 28).foldl (fun t i => t.put (28 * x + i) 0) o.qcnt,
    wcnt := (List.range 64).foldl (fun t f => if ownsFlag c r f then t.put f 0 else t) o.wcnt }) c

/-- The rinks that own an engine on a site, each once. -/
def ownersOf (k : Nat) (s : State) : List Nat := ((List.range 7).filterMap fun h => (ownField (site k s).own h).map (·.toNat)).dedup

/-- The Sequencer's site and context. -/
def seqSite (r : Nat) (s : State) : Option (Nat × Side) := (siteOfLogical r (rink r s).lead.toNat s).map fun k => (k, (rink r s).leadCtx)

/-- The rinks of a core in whose job's span this beat lies. -/
def spanRinks (k : Nat) (s : State) : List Nat := (ownersOf k s).filter fun r => (rink r s).work.span != .none

/-- A rink's part of EWT15 in a kept beat of a core: all of it, or half of it where another rink's job runs too, context 0's rink taking the remainder (15 R378). -/
def chargeStatic (r k : Nat) (s : State) : State :=
  let x := homeCtx (site k s) r
  let w := weight k 15 s
  modSite k (modCtx x (addEnergy (if (spanRinks k s).all (· == r) then w else if x then w / 2 else w - w / 2))) s

/-- A job's span ends with this beat: the beat counts to the job, and its charge is made before what the Sequencer's context holds is kept (17 R401, R402, R405). -/
def closeSpan (r : Nat) (s : State) : State :=
  match seqSite r s with
  | some (k, _) =>
    let w := (rink r s).work
    if w.running.isNone ∨ w.span = .paid then s
    else chargeStatic r k (modWork r (fun w => { w with span := .paid, running := w.running.map fun j => { j with job := { j.job with beats := j.job.beats + 1 } } }) s)
  | none => s

/-- A world switch of a rink (15 R371). -/
def worldSwitch (r : Nat) (s : State) : State :=
  let ks := sitesOf r s
  let s1 := modRink r (fun q => { q with rtot := ks.foldl (fun t k => gatherSite r (site k s) t) q.rtot }) s
  ks.foldl (fun s k => modSite k (zeroSite r) s) s1

/-- One journal record, then its MSI-X message where `notify` says so (13 R328). -/
def journal (fn kind slot status prio seq jgraph jarg beats : Nat) (notify : Bool) (s : State) : State :=
  let f := fnOf fn s
  let w0 := kind * 2 ^ 56 + slot * 2 ^ 48 + status * 2 ^ 40 + prio * 2 ^ 32 + seq
  let data := leBytes 8 w0 ++ leBytes 8 jgraph ++ leBytes 8 jarg ++ leBytes 8 beats
  let s1 := hostWrite fn (f.jbase.toNat + 32 * (f.jhead.toNat % 2 ^ f.jlog.toNat)) data s
  let s2 := modFn fn (fun f => { f with jhead := f.jhead + 1 }) s1
  if notify then send (.msix fn f.vec.toNat) s2 else s2

/-- The completion record of a job (13 R328). -/
def recordJob (fn slot status : Nat) (j : Job) (s : State) : State :=
  journal fn 2 slot status j.prio j.seq j.jgraph j.jarg j.beats true s

/-- The running job of a rink completes: its record is journaled, it leaves its slot, the rink's live counters are added into its
totals, the rink has no running job (13 R328, R330, 05 R149), and a suspension that waited for a gate of it takes effect (15 R365). -/
def completeJob (r status : Nat) (s : State) : State :=
  match (rink r s).work.running with
  | none => modWork r (fun w => { w with ending := none }) s
  | some j =>
    let fn := rinkFn r s
    let sl := (fnOf fn s).slots.get JobSlot.reset j.slot
    let s1 := recordJob fn j.slot status j.job (worldSwitch r s)
    let s2 := modFn fn (fun f => { f with slots := f.slots.put j.slot { sl with queue := sl.queue.drop 1, cancel := false } }) s1
    modRink r (fun q => { q with suspd := q.suspd || q.susp, work := { q.work with running := none, ending := none } }) s2

/-- Nothing of the context is still to be performed. -/
def drained (b : Buffers) : Bool := b.loads.isEmpty && b.stores.isEmpty && !b.atomicOut

/-- A job whose graph program has ended may complete: every launch of it has left its running state (05 R149) and what the Rink
Sequencer's context still buffers is performed. -/
def settles (r : Nat) (s : State) : Bool :=
  let q := rink r s
  q.work.ending.isSome && q.work.launches.isEmpty
    && (match siteOfLogical r q.lead.toNat s with
        | some k => drained (ctxOf (site k s) q.leadCtx).buf
        | none => true)

def settleJob (r : Nat) (s : State) : State :=
  match (rink r s).work.ending with
  | some st => if settles r s then completeJob r st s else s
  | none => s

/-! ## The rewind of a rink (18 R417, R418) -/

def stopCtl (c : Ctl) : Ctl := { c with running := false, cls := .empty, prepared := false }

/-- What chains hold for the contexts of a rink is dropped (08 R230). -/
def dropChains {α : Type} (c : Site) (r : Nat) (t : Table α) : Table α := ⟨t.cells.filter fun e => !owns c r (e.1 % 2)⟩

/-- The streams, queues, flags, slots and frames of a rink on a core, after steps 2 to 4 of R417. `keep` is the context that
goes on (the Rink Sequencer's). -/
def clearSite (r : Nat) (placed : Nat → Region → Bool) (k : Nat) (c : Site) : Site :=
  let ctxStop (x : Side) (c : Site) : Site :=
    if owns c r (ctxHead x) then modCtx x (fun v => { v with ctl := stopCtl v.ctl, isUnit := false, buf := Buffers.reset, ib := [], ahead := [], fetching := false }) c else c
  let halfStop (h : Side) (c : Site) : Site :=
    if owns c r (halfHead h) then
      modHalf h (fun v => { v with ctl := stopCtl v.ctl, nests := [], fills := [], promoteAt := none, slots := Table.fill 8 Slot.empty,
                                   slotErrs := Table.empty, sumErrs := dropRange 32768 32896 v.sumErrs, narrow := Table.empty, seq := Seq.fresh }) c
    else c
  let veStop (c : Site) : Site := if owns c r 2 then modVe (fun v => { v with ctl := stopCtl v.ctl }) c else c
  let c1 := veStop (halfStop true (halfStop false (ctxStop true (ctxStop false c))))
  let keepRun (q : Option Run) : Option Run := match q with
    | some x => if x.cmd.rink = r then none else some x
    | none => none
  let q := c1.q
  let c2 := { c1 with
    q := { q with lq := q.lq.filter (·.rink != r), sq := q.sq.filter (·.rink != r), ce := q.ce.filter (·.rink != r),
                  run0 := keepRun q.run0, run1 := keepRun q.run1, chains := dropChains c1 r q.chains, skips := dropChains c1 r q.skips },
    pipe := c1.pipe.filter (·.rink != r),
    tm := (c1.tm.regions.filter fun g => g.rink == r && placed k g).foldl (fun t g => freeRegion r g.base t) c1.tm }
  let mine (f : Nat) : Bool := ownsFlag c2 r f
  let b := c2.flags
  let b' : Flags := (List.range 64).foldl (fun b f =>
    if !mine f then b
    else if f < 16 then { b with full := setBit b.full f false, fullBefore := setBit b.fullBefore f false }
    else if f < 32 then { b with tokens := b.tokens.put (f - 16) 0, tokensBefore := b.tokensBefore.put (f - 16) 0 }
    else { b with events := setBit b.events (f - 32) false, eventsBefore := setBit b.eventsBefore (f - 32) false }) b
  thawSite r { c2 with flags := { b' with sets := b'.sets.filter fun f => !mine f } }

/-- The region was placed by an incomplete launch and is not persistent. -/
def placedBy (ls : List Launch) (_k : Nat) (g : Region) : Bool :=
  !g.persistent && (match g.launch with
    | some l => ls.any (·.lctr == l)
    | none => false)

/-- Load the Rink Sequencer's context from a checkpoint (18 R417, step 5). -/
def loadCheckpoint (now : Nat) (p : Checkpoint) (x : Ctx) : Ctx :=
  { x with
    s := p.s, sValid := p.sLive, sReady := Table.fill 32 now, sElastic := 0,
    a := p.a, aValid := p.aLive, aReady := Table.fill 16 now, aElastic := 0, divFree := now,
    fstat := p.fstat, fctl := p.fctl, srkey := p.srkey,
    trap := { x.trap with rscnt := p.rscnt, rse := p.rse, handler := false, heldCode := Cap.null, pend := [], hcallWait := false },
    pc := p.pos, npc := 0, slots := 0, code := p.code, buf := Buffers.reset, ib := [], ahead := [], fetching := false, staged := Table.fill 3 [], rendezBeat := none, lastLaunch := none,
    ctl := { running := true, timetabled := false, next := now + 1, prepared := false, cls := .busy } }

/-- The commands of a rink that stand in queues or run on the Lift and collective engines. -/
def commandsOf (r : Nat) (s : State) : List Command :=
  let mine (c : Command) : Bool := c.rink == r
  let ofRun (q : Option Run) : List Command := match q with
    | some x => if mine x.cmd then [x.cmd] else []
    | none => []
  (s.sites.cells.flatMap fun p => (p.2.q.lq ++ p.2.q.sq ++ p.2.q.ce).filter mine ++ ofRun p.2.q.run0 ++ ofRun p.2.q.run1)
    ++ s.dies.cells.flatMap fun d => d.2.ce.cells.flatMap fun e => ofRun e.2.run

/-- The collective engines drop a rink's running commands. -/
def dropCollRuns (r : Nat) (s : State) : State :=
  let f (e : CollEngine) : CollEngine := match e.run with
    | some x => if x.cmd.rink = r then { e with run := none } else e
    | none => e
  { s with dies := s.dies.mapVals fun _ d => { d with ce := d.ce.mapVals fun _ e => f e } }

/-- The atomic requests that a rink's contexts have queued. -/
def dropAtomics (r : Nat) (s : State) : State :=
  let mine (a : AtomReq) : Bool := decide (a.requester < 1024) && owns (site a.site s) r (ctxHead a.ctx)
  { s with atomics := s.atomics.mapVals fun _ b => { b with q := b.q.filter fun a => !mine a } }

/-- A rewind closes every number. A detached operation goes on beside it, with what has landed for it; the others of the number end (18 R417; DEDUCED,
notes/assumptions/42.md). -/
def closeAtRewind (c : Coll) : Coll :=
  let kept := c.op.filter (·.detached)
  { c with isOpen := false, landed := if kept.isSome then c.landed else [], op := kept, others := c.others.filter (·.detached) }

/-- Steps 1 to 4 of R417: what a rewind stops and discards, on every core of the rink. The issue entries of its launches take `code`. -/
def stopRink (r : Nat) (st : CtrState) (code : Nat) (s : State) : State :=
  let ls := (rink r s).work.launches
  let s1 := (commandsOf r s).foldl (fun s c => releaseCommand c s) s
  let s2 := ls.foldl (fun s l => pinPages false l.pins s) s1
  let s3 := (sitesOf r s2).foldl (fun s k => modSite k (clearSite r (placedBy ls) k) s) (dropCollRuns r (dropAtomics r s2))
  let s4 := modRink r (fun q =>
    { q with
      colls := q.colls.mapVals fun _ c => closeAtRewind c }) s3
  modWork r (fun w =>
    ls.foldl (fun w l => endLaunchEntries l.lctr code w)
      { w with launches := [],
               lctr := ls.foldl (fun t l => t.put l.lctr { (t.get Ctr.idle l.lctr) with state := st, pending := 0 }) w.lctr }) s4

/-- The launches issued since the checkpoint are issued again: their entries are dropped. -/
def dropIssued (p : Checkpoint) (w : Work) : Work :=
  { w with issuedG := w.issuedG.take p.nG, issuedP := w.issuedP.take p.nP, issuedJ := w.issuedJ.take p.nJ }

/-- A rewind to the last Gate (18 R417). -/
def rewindSteps (r : Nat) (p : Checkpoint) (s : State) : State :=
  let s0 := (sitesOf r s).foldl (fun s k => modSite k (clearFrame r) s) (stopRink r .rewound 3 s)
  let s1 := modRecov r (fun v => { v with frozen := false, kind := 0, core := 0, count := v.count + 1 }) s0
  let s2 := recount r (modWork r (dropIssued p) s1)
  match siteOfLogical r (rink r s).lead.toNat s2 with
  | some k => modSite k (fun c => modCtx (rink r s).leadCtx (loadCheckpoint c.now p) c) s2
  | none => s2

/-- The job ends by a fault that recovery did not resume: its launches are faulted and it completes with status 0x04 (18 R418). -/
def endJob (r status : Nat) (st : CtrState) (s : State) : State :=
  let s1 := modRecov r (fun v => { v with frozen := false, kind := 0, core := 0 }) (stopRink r st 3 s)
  completeJob r status (recount r s1)

/-- A rewind is asked for: it ends the job instead when it would raise COUNT above LIMIT or when no checkpoint stands
(18 R418). -/
def rewind (r : Nat) (s : State) : State :=
  let v := (rink r s).recov
  match v.checkpoint with
  | some p => if v.count.toNat + 1 ≤ v.limit.toNat then rewindSteps r p s else endJob r 4 .faulted s
  | none => endJob r 4 .faulted s

/-! ## Counter banks and trace (15 R373 to R375) -/

/-- A job of the rink is running. -/
def liveJob (s : State) (r : Nat) : Bool := (rink r s).work.running.isSome

/-- An event of an engine of rink `r` counts `n` in every running bank that selects it: a rink's bank counts its own engines only, while a
job of it is running, the hypervisor's all. -/
def countEvent (live : Nat → Bool) (r code n : Nat) (c : Site) : Site :=
  let bump (b : Nat) (v : Bank) : Bank :=
    let k := c.obs.claims.get Claim.free b
    if v.run && k.held && !k.frozen && (k.hv || (k.rink == r && live r)) then
      { v with cnt := (List.range 8).foldl (fun t i =>
          if field v.sel.toNat (8 * i + 7) (8 * i) = code then t.put i (.ofNat 48 (satAdd 48 (t.get 0 i).toNat n)) else t) v.cnt }
    else v
  modObs (fun o => { o with banks := o.banks.mapVals bump }) c

/-- Elastic traffic of a rink leaves a core: how many flits it takes is not stated, so that a counter which counts them takes a free
number (15 R372, R374; notes/assumptions/5.md). -/
def elasticTraffic (k r : Nat) (s : State) : State :=
  let d := dieOfSite k
  let w := ((die d s).shsel.get 0 5).toNat
  let shared := bitOf w 7 && field w 6 0 == rinkFn r s
  let bank := (site k s).obs.banks.cells.any fun b => b.2.run && (List.range 8).any fun i => field b.2.sel.toNat (8 * i + 7) (8 * i) == 0x0F
  if !shared && !bank then s
  else
    let (v, s1) := freshWord s
    modSite k (countEvent (liveJob s1) r 0x0F v.toNat) (countShared d 5 0 (rinkFn r s1) v.toNat s1)

/-- A slip trap, and a lost bank conflict where the slip is one (15 R374). -/
def countSlip (live : Nat → Bool) (r code info : Nat) (c : Site) : Site :=
  if code = 3 then
    let c1 := countEvent live r 0x0A 1 c
    if info / 4096 = 7 then countEvent live r 0x08 1 c1 else c1
  else c

/-- The word address of a head: its pc, or the halfword its sequencer has reached. -/
def headPc (c : Site) (h : Nat) : Nat :=
  match h with
  | 0 => c.ctx0.pc.toNat
  | 1 => c.ctx1.pc.toNat
  | 2 => c.ve.pc.toNat
  | 3 => c.half0.pcBase.toNat + 2 * c.half0.seq.pc
  | _ => c.half1.pcBase.toNat + 2 * c.half1.seq.pc

/-- The stage of the VE's word: s when its governing predicate is p(8 + s) (R375). -/
def stageOf (c : Site) : Nat :=
  let p := leNat (c.tm.bytes.readBytes (c.ve.pc.toNat % 2 ^ 24) 8)
  let q := field p 24 21
  if 8 ≤ q then q - 8 else 15

/-- A trace record of a head (R375). -/
def traceRecord (c : Site) (h kind : Nat) : List Byte :=
  let ve := h == 2
  let l := c.ve.loop
  let w0 := kind * 2 ^ 60 + h * 2 ^ 56 + (if ve then stageOf c else 15) * 2 ^ 52 + (if ve then l.loopno.toNat else 0) * 2 ^ 44
    + c.beat.toNat % 2 ^ 44
  let w1 := headPc c h % 2 ^ 24 * 2 ^ 40 + (if ve then (l.depth.toNat - 1) % 256 * 2 ^ 32 + l.pass.toNat else 0)
  leBytes 8 w0 ++ leBytes 8 w1

/-- The trace unit records heads of rink `r`: its holder does not count as one while its claim is frozen. -/
def traces (c : Site) (r : Nat) : Bool :=
  let k := c.obs.claims.get Claim.free 2
  k.held && !k.frozen && (k.hv || k.rink == r)

/-- A record of a head that TRCTL.STREAMS traces waits for a free bank beat (R375). -/
def trace (h kind : Nat) (c : Site) : Site :=
  if h < 5 ∧ traces c (headRink c h) ∧ c.obs.trctl.getLsbD (32 + h) then
    modObs (fun o => { o with trQ := o.trQ ++ [(c.now, traceRecord c h kind)] }) c
  else c

/-! ## Taking an exception, and the return from it -/

/-- A fatal trap stops its core, whose frame records it, and rewinds the rink (18 R413, R417). `others` are the sites of the other units of a
free launch, which stop in the same beat (18 R411). -/
def fatalStop (r : Nat) (stat : Word) (others : List Nat) (s : State) : State :=
  rewind r (others.foldl (fun s k => modSite k (freezeSite r onlyFroze) s) (modMySite (freezeSite r stat) s))

/-- The sites of a free launch that has a unit on site `k`. -/
def freeUnitSites (r k : Nat) (s : State) : List Nat :=
  match unitAt r k s with
  | some (l, _) => if l.free then (l.units.filter fun u => u.begun && !u.finished).map (·.site) else []
  | none => []

/-- A context takes a trap (18 R410 to R412, 09 R251). In free mode it is precise: with FATAL clear and handlers enabled the context
enters handler state, otherwise the rink rewinds; in handler state it is a double trap. In timetabled mode it is recorded and the
launch freezes; a fatal cause rewinds the rink. -/
def takeTrap (after : Bool) (code info : Nat) (fatalToo : Bool) (s : State) : State :=
  let s := modMySite (fun c => trace (ctxHead s.cur.ctx) 3 (countSlip (liveJob s) (myRink s) code info c)) s
  let c := mySite s
  let x := myCtx s
  let r := myRink s
  let stream := ctxHead s.cur.ctx
  if x.ctl.timetabled then
    let fatal := fatalToo || classFatal true code info
    let cause := ecauseWord info code stream fatal true
    let s1 := modMyCtx (fun x =>
      let y := saveTrap after cause x
      let p := restart x after
      let q := if after then { y with pc := p.1, npc := p.2.1, slots := p.2.2 } else y
      { q with ctl := { q.ctl with next := if after then c.now + 1 else c.now, cls := .busy } }) s
    let kind := if code = 3 then info / 4096 else 255
    let stat := frameStat info code stream fatal true
    if fatal then fatalStop r stat [] s1
    else
      let s2 := modMySite (freezeSite r stat) s1
      match unitAt r s.cur.site s with
      | some (l, _) => freezeLaunch r s.cur.site kind (info % 256) fatal l s2
      | none => s2
  else if x.trap.handler then
    fatalStop r (frameStat code 0x2F stream true false) [] (modMyCtx (saveTrap after (ecauseWord code 0x2F stream true false)) s)
  else
    let v := (rink r s).recov
    let fatal := fatalToo || classFatal false code info || !bitOf v.hvec.toNat 0
    let cause := ecauseWord info code stream fatal false
    let s1 := modMyCtx (saveTrap after cause) s
    if fatal then fatalStop r (frameStat info code stream true false) [] s1
    else modMyCtx (enterHandler c.now v.hvec.toNat v.hlim.toNat) s1

/-- Run an action as a context of a site. -/
def asCtx (k : Nat) (x : Side) (f : State → State) (s : State) : State :=
  let old := s.cur
  let t := f { s with cur := { old with site := k, ctx := x } }
  { t with cur := old }

/-- The context leaves handler state: its code capability returns, and it goes on with the delay slots that remain, then at ENPC
(05 R146). The next word issues in the next beat. -/
def leaveHandler (now : Nat) (x : Ctx) : Ctx :=
  { x with
    code := x.trap.heldCode, pc := x.trap.epc, npc := x.trap.enpc, slots := x.trap.eds, ib := [], ahead := [], fetching := false,
    trap := { x.trap with handler := false, heldCode := Cap.null },
    ctl := { x.ctl with next := now + 1, prepared := false, cls := .issuing } }

/-- A fault found in an engine stream (VE, matrix, Lift): recorded through the freeze protocol when the stream is timetabled, of the
frame class and fatal otherwise (18 R411). ECAUSE of the home context names the stream. -/
def engineTrap (stream code info : Nat) (timetabled : Bool) (r : Nat) (s : State) : State :=
  let fatal := if timetabled then classFatal true code info else true
  let s := modMySite (fun c => trace stream 3 (countSlip (liveJob s) r code info c)) s
  let x := homeCtx (mySite s) r
  let s1 := modMySite (modCtx x fun v => { v with trap := { v.trap with ecause := ecauseWord info code stream fatal timetabled } }) s
  let stat := frameStat info code stream fatal timetabled
  if fatal then fatalStop r stat (if timetabled then [] else freeUnitSites r s.cur.site s) s1
  else
    let s2 := modMySite (freezeSite r stat) s1
    let kind := if code = 3 then info / 4096 else 255
    match unitAt r s.cur.site s with
    | some (l, _) => freezeLaunch r s.cur.site kind (info % 256) fatal l s2
    | none => s2

/-- INFO of a slip (09 R249). -/
def slipInfo (kind detail extra : Nat) : Nat := kind * 4096 + extra % 16 * 256 + detail % 256

/-- A translation fault is latched in TFAULT of the function (14 R342). -/
def latchWalk (fn addr : Nat) (s : State) : State := modFn fn (fun f => { f with tfault := .ofNat 48 addr }) s

/-- A stalled stream tries again in the next beat; a wait on a flag is counted (09 R244, 02 R58). -/
def waitHead (h : Nat) (flag : Option Nat) (c : Site) : Site :=
  let c' := match flag with
    | some f => countWait f c
    | none => c
  modCtl h (fun t => { t with next := c.now + 1, cls := if flag.isSome then .flag else .busy }) c'

/-- What a hit does to the executing context. -/
def ccStop (h : Hit) (s : State) : State :=
  match h with
  | .stall kind detail extra flag =>
    if (myCtx s).ctl.timetabled then takeTrap false 3 (slipInfo kind detail extra) false s
    else
      let t := modMySite (waitHead (ctxHead s.cur.ctx) flag) s
      if kind = 5 then modMyCtx (fun x => { x with ctl := { x.ctl with prepared := true } }) t else t
  | .trap code info => takeTrap false code info false s
  | .tmTrap code info reason addr =>
    takeTrap false code info false (modMySite (latchTm (streamRank (ctxHead s.cur.ctx) (myCtx s).ctl.timetabled) reason addr) s)
  | .walkTrap code info fn addr => takeTrap false code info false (latchWalk fn addr s)
  | .memTrap fn ma => takeTrap false 0x1B 0 false (countMem fn ma 3 s)
  | .softTrap k addr => takeTrap false 0x2D 0 false (softError (k.getD s.cur.site) addr s)

/-- What a hit does to an engine stream: head 2 is the VE, 3 and 4 the matrix streams. -/
def engineStop (h : Nat) (hit : Hit) (s : State) : State :=
  let c := mySite s
  let r := headRink c h
  let t := (ctlOf c h).timetabled
  match hit with
  | .stall kind detail extra flag =>
    if t then engineTrap h 3 (slipInfo kind detail extra) true r s
    else modMySite (waitHead h flag) s
  | .trap code info => engineTrap h code info t r s
  | .tmTrap code info reason addr => engineTrap h code info t r (modMySite (latchTm (streamRank h t) reason addr) s)
  | .walkTrap code info fn addr => engineTrap h code info t r (latchWalk fn addr s)
  | .memTrap fn ma => engineTrap h 0x1B 0 t r (countMem fn ma 3 s)
  | .softTrap k addr => engineTrap h 0x2D 0 t r (softError (k.getD s.cur.site) addr s)

/-! ## A CC word that proceeds -/

/-- The program counter after a word (04 R103). -/
def advancePc (x : Ctx) : Ctx :=
  let x := { x with was := (x.pc, x.npc, x.slots) }
  if x.slots = 2 then { x with pc := x.pc + 4, slots := 1 }
  else if x.slots = 1 then { x with pc := x.npc, slots := 0 }
  else { x with pc := x.pc + 4 }

/-- Back at the word that has just issued. -/
def retractPc (x : Ctx) : Ctx := { x with pc := x.was.1, npc := x.was.2.1, slots := x.was.2.2 }

/-- A CC word of occupancy `occ` issues in this beat (03 R86). -/
def ccIssue (now occ : Nat) (x : Ctx) : Ctx :=
  { x with ctl := { x.ctl with next := now + occ, prepared := false, cls := .issuing } }

/-- A CC word that is no control transfer: its checks, its effect, then the next word. -/
def ccWord (hits : List (Option Hit)) (occ : Nat) (effect : State → State) (s : State) : State :=
  match firstHit hits with
  | some h => ccStop h s
  | none => modMyCtx (fun x => ccIssue (mySite s).now occ (advancePc x)) (effect s)

/-- A CC word that writes scalar register `d` from sources that are read here. -/
def scalarWord (srcs : List (BitVec 5)) (d : BitVec 5) (lat : Nat) (v : Word) (s : State) : State :=
  let now := (mySite s).now
  let x := myCtx s
  ccWord (srcs.map (readS now x) ++ [writeS now lat x d]) 1 (modMyCtx (putS now lat d v)) s

/-- Permitted only to the Rink Sequencer (05 R124). -/
def needSequencer (s : State) : Option Hit :=
  hitIf (!isSequencer (myRink s) s.cur.site s.cur.ctx s) (.trap 0x10 0)

/-- Not permitted in timetabled mode (05 R124). -/
def needFree (s : State) : Option Hit := hitIf (myCtx s).ctl.timetabled (.trap 0x0D 0)

end Sys2Proof.Machine
end

