-- ==== Sys2Proof/Machine/Translate.lean ====
section
/-!
DEFINITION. Translation through two stages, window rights and off-chip memory (14 R334 to R358).
-/

namespace Sys2Proof.Machine

/-- Why a translation gives no page: a fault with its stage, reason and latched address, a window-rights fault, or a page that is
being moved, at which the access waits, or a table granule that fails its check (R354). -/
inductive WalkErr where
  | fault (stage reason addr : Nat)
  | rights (w : Nat)
  | moving
  | memory (ma : Nat)
  deriving DecidableEq, Repr

/-- A leaf: the address it maps to, the page size, its rights and tier, its word 1 and where it stands. -/
structure Leaf where
  out : Nat
  size : Nat
  rd : Bool
  w : Bool
  tier : Bool
  word1 : Nat
  entry : Nat
  deriving DecidableEq, Repr

/-- The levels of R337: shift, index bits and whether a leaf may, or must, stand there. -/
def walkLevels : List (Nat × Nat × Bool × Bool) :=
  [(39, 9, false, false), (30, 9, true, false), (21, 9, true, false), (16, 5, true, true)]

/-- A stage-2 entry is malformed (R339, R340). -/
def badEntry2 (w0 w1 shift : Nat) (leaf mayLeaf mustLeaf : Bool) : Bool :=
  let ma := field w0 41 16 * 65536
  field w0 63 42 != 0 || field w0 15 4 != 0 || field w1 63 24 != 0 || field w1 22 16 != 0 || (leaf && !mayLeaf)
    || (!leaf && mustLeaf) || (leaf && ma % 2 ^ shift != 0) || !(inHBM ma || inLPDDR ma)

/-- The format codes of R338. -/
def fmtOk (fmt geom : Nat) : Bool :=
  if 2 ≤ fmt ∧ fmt ≤ 8 then true
  else (fmt == 0 || fmt == 9 || fmt == 0xA || fmt == 0xC) && geom == 0

/-- A stage-1 entry is malformed (R338, R340). -/
def badEntry1 (w0 w1 shift : Nat) (leaf mayLeaf mustLeaf : Bool) : Bool :=
  let oa := field w0 47 16 * 65536
  field w0 63 48 != 0 || field w0 15 5 != 0 || (leaf && !mayLeaf) || (!leaf && mustLeaf)
    || (if leaf then
          field w1 63 16 != 0 || field w1 6 0 != 0 || !fmtOk (field w1 15 12) (field w1 11 8) || oa % 2 ^ shift != 0
        else w1 != 0 || field w0 4 2 != 0)

/-- The key slot of an intermediate address (R350): none for the identity pages of the PF. -/
def keySlot (s : State) (r ia : Nat) : Option Nat :=
  if bitOf ia 47 then some (64 + field ia 45 40)
  else if rinkFn r s = 0 then none else some (rinkFn r s - 1)

/-! ## Off-chip memory under its keys (R350 to R355) -/

/-- What a granule was last written under, if it was written. -/
def sealOf (s : State) (ma : Nat) : Option Seal :=
  lookupKey none (ma / 256) (s.seals.cells.map fun c => (c.1, some c.2))

/-- The counters of a granule: its block's major and its own minor (R353). -/
def countersOf (s : State) (ma : Nat) : Nat × Nat :=
  let b := s.counters.get CtrBlock.reset (ma / 16384)
  (b.major.toNat, (b.minors.get 0 (ma / 256 % 64)).toNat)

/-- The access's seal: what a granule must have been written under to be read through it. -/
def sealFor (s : State) (key : Option Nat) (ia : Nat) : Seal :=
  match key with
  | none => .plain
  | some k => .keyed k (keyOf k s).epoch (ia / 256)

/-- The stored bytes of a granule as the memory holds them: plaintext, or the ciphertext of a keyed granule. -/
def storedGranule (s : State) (ma : Nat) : List Byte :=
  let g := ma / 256 * 256
  let p := s.mem.readBytes g 256
  match sealOf s ma with
  | some (.keyed k _ ia) =>
    let ct := countersOf s ma
    cipherGranule (keyOf k s).key (ia * 256) ct.1 ct.2 p
  | _ => p

/-- The key slots, with their erasure counts, that the 64 KiB frame of a machine address was granted to, the latest first. -/
def grantsOf (s : State) (ma : Nat) : List (Nat × Nat) := s.grants.get [] (ma / 65536)

/-- The 64 KiB frame of a machine address was never used under a key slot as it stands: what it holds is of another key or of the PF, and the grant to the slot
leaves its granules zero (R353; notes/assumptions/40.md). -/
def freshFrame (s : State) (slot ma : Nat) : Bool := !(grantsOf s ma).contains (slot, (keyOf slot s).epoch)

/-- A granule of a frame that is fresh to its slot and was written under something else: it reads as zeros (R353). -/
def granted (s : State) (slot ma ia : Nat) : Bool := (match sealOf s ma with
  | some q => q != sealFor s (some slot) ia
  | none => false) && freshFrame s slot ma

/-- What a frame held before a grant is gone: it is zeros, with no seal (R353). -/
def clearFrame64 (f : Nat) (s : State) : State :=
  if s.seals.cells.any fun c => c.1 / 256 == f then
    { s with mem := dropRange (65536 * f) (65536 * f + 65536) s.mem, seals := dropRange (256 * f) (256 * f + 256) s.seals }
  else s

/-- The first use of a frame under a slot finds it as granted: zeros, every counter at major 0 and minor 0 (R353). From then on it is a frame of that slot, also where
the PF overwrites its granules. -/
def grantFrame (slot ma : Nat) (s : State) : State :=
  let f := ma / 65536
  if freshFrame s slot ma then
    let s1 := clearFrame64 f s
    { s1 with metaErrs := dropRange (512 * f) (512 * f + 512) s1.metaErrs, counters := dropRange (4 * f) (4 * f + 4) s1.counters,
              grants := s1.grants.put f ((slot, (keyOf slot s).epoch) :: grantsOf s ma) }
  else s

/-- The use of a frame under the key of an access, if it has one. -/
def useFrame (key : Option Nat) (ma : Nat) (s : State) : State :=
  match key with
  | none => s
  | some k => grantFrame k ma s

/-! ### The counter tree (R354) -/

/-- The counter leaf of the block of 16 KiB of intermediate space with number `i`, as its slot's memory holds it (R353): the major in the low 64 bits and minor j at
bits [70 + 7j : 64 + 7j]. -/
def leafBytes (s : State) (slot i : Nat) : List Byte :=
  match s.counters.cells.find? fun c => c.2.home == some (slot, (keyOf slot s).epoch, i) with
  | none => List.replicate 64 0
  | some (_, b) => leBytes 64 (b.major.toNat + 2 ^ 64 * ((List.range 64).map fun j => (b.minors.get 0 j).toNat * 2 ^ (7 * j)).sum)

/-- Node `i` of a level of a slot's tree, level 0 being the leaves: eight child words, each with the child's MAC. -/
def nodeBytes (s : State) (slot : Nat) : Nat → Nat → List Byte
  | 0, i => leafBytes s slot i
  | l + 1, i => (List.range 8).flatMap fun c => leBytes 8 (nodeMac (keyOf slot s).key l (8 * i + c) (nodeBytes s slot l (8 * i + c)))

/-- The nodes in memory from a leaf up: eleven levels, below the root on die. -/
def pathNodes (ia : Nat) : List (Nat × Nat) := (List.range 11).map fun l => (l + 1, ia / 16384 / 8 ^ (l + 1))

/-- Where a slot's tree area begins. -/
def treeBase (s : State) (slot : Nat) : Nat := (keyOf slot s).tree.toNat * 65536

/-- A node does not stand as the tree has it: its line was written in plaintext, or holds an uncorrectable error. -/
def nodeSpoiled (s : State) (slot : Nat) (n : Nat × Nat) : Bool :=
  (keyOf slot s).trod.any (fun i => Config.nodeAt i == some n)
    || s.memErrs.cells.any fun p => p.2 == 2 && decide (treeBase s slot ≤ 32 * p.1) && Config.nodeAt ((32 * p.1 - treeBase s slot) / 64) == some n

/-- The check of a path, up to the first node that the die already holds verified. -/
def pathFails (s : State) (slot : Nat) : List (Nat × Nat) → Bool
  | [] => false
  | n :: ns => if Config.nodeHeld s.cycle slot n.1 n.2 then false else nodeSpoiled s slot n || pathFails s slot ns

/-- The counters of an access are verified up to the root. -/
def treeIntact (s : State) (slot ia : Nat) : Bool :=
  ((keyOf slot s).trod.isEmpty && s.memErrs.cells.isEmpty) || !pathFails s slot (pathNodes ia)

/-- The lines of the tree areas of valid slots that a plaintext write reaches hold no nodes of their tree any more. -/
def treadTrees (ma n : Nat) (s : State) : State :=
  if s.keys.cells.any fun k => k.2.valid && decide (k.2.tree.toNat * 65536 < ma + n) then
    { s with keys := s.keys.mapVals fun slot k =>
        if k.valid && treeBase s slot < ma + n then
          let lo := (ma - treeBase s slot) / 64
          let hi := (ma + n - 1 - treeBase s slot) / 64
          { k with trod := k.trod ++ ((List.range (hi + 1 - lo)).map (· + lo)).filter fun i => (Config.nodeAt i).isSome && !k.trod.contains i }
        else k }
  else s

/-- An uncorrectable error lies in the MAC of a granule, or in the counter leaf of its block (R354). -/
def metaFails (s : State) (ma : Nat) (leaf : Bool) : Bool :=
  s.metaErrs.get 0 (if leaf then ma / 16384 * 128 + 1 else 2 * (ma / 256)) != 0

/-- The counter leaf of a granule is the one that the slot's tree has at its intermediate address: the frame is the slot's, and its block was last written there or not
at all (R353, R354). -/
def leafStands (s : State) (slot ma ia : Nat) : Bool :=
  (grantsOf s ma).head? == some (slot, (keyOf slot s).epoch) && !metaFails s ma true &&
    (match (s.counters.get CtrBlock.reset (ma / 16384)).home with
      | none => true
      | some h => h == (slot, (keyOf slot s).epoch, ia / 16384))

/-- The granule's own MAC passes: it was last written under the slot at this address, or not since the grant. -/
def macPasses (s : State) (slot ma ia : Nat) : Bool :=
  !metaFails s ma false && (match sealOf s ma with
    | none => true
    | some q => q == sealFor s (some slot) ia)

/-- A keyed access passes its checks: the slot is valid, the tree stands, and the frame is newly granted or the granule's leaf and MAC pass (R353 to R355). A write of a
granule whole needs no MAC of what stood there (DEDUCED from 18 R422, where a granule that cannot be read fails until it is written; notes/assumptions/40.md). -/
def keyPasses (s : State) (key : Option Nat) (ma ia : Nat) (whole : Bool) : Bool :=
  match key with
  | none => true
  | some k => (keyOf k s).valid && treeIntact s k ia && (freshFrame s k ma || (leafStands s k ma ia && (whole || macPasses s k ma ia)))

/-- A read passes the checks of its key. -/
def sealPasses (s : State) (key : Option Nat) (ma ia : Nat) : Bool := keyPasses s key ma ia false

/-- The errors of kind `e` in a granule, by machine address / 32 (18 R420). -/
def memErrors (e ma : Nat) (s : State) : List Nat := (s.memErrs.cells.filter fun p => p.2 == e && p.1 / 8 == ma / 256).map (·.1)

/-- What a plaintext read finds in the tree areas: the nodes of valid slots that stand there (R354). -/
def treeLine (s : State) (ma : Nat) : Option (List Byte) :=
  s.keys.cells.findSome? fun k =>
    if k.2.valid && decide (treeBase s k.1 ≤ ma) && !k.2.trod.contains ((ma - treeBase s k.1) / 64) then
      (Config.nodeAt ((ma - treeBase s k.1) / 64)).map fun n => nodeBytes s k.1 n.1 n.2
    else none

/-- Byte by byte, memory as the PF's plaintext reads it. -/
def plainBytes (s : State) (ma n : Nat) : List Byte :=
  let b := match sealOf s ma with
    | some (.keyed _ _ _) => ((storedGranule s ma).drop (ma % 256)).take n
    | _ => s.mem.readBytes ma n
  if s.keys.cells.any fun k => k.2.valid && decide (k.2.tree.toNat * 65536 < ma + n) then
    (List.range n).map fun i => match treeLine s (ma + i) with
      | some l => nth 0 l ((ma + i) % 64)
      | none => nth 0 b i
  else b

/-- A read of `n` bytes within one granule, which is read and checked whole: none is a memory error. Read without a key, a keyed granule gives its ciphertext. -/
def offRead (s : State) (key : Option Nat) (ma ia n : Nat) : Option (List Byte) :=
  if !sealPasses s key ma ia || !(memErrors 2 ma s).isEmpty then none
  else
    match key with
    | none => some (plainBytes s ma n)
    | some k => some (if granted s k ma ia then List.replicate n 0 else s.mem.readBytes ma n)

/-! ### Stage 2 -/

/-- The stage-2 walk from a table at a machine address: its entries are read in the PF's plaintext (R337, R339), and a granule that cannot be read is a memory
error (18 R420). -/
def walk2 (s : State) (a : Nat) : List (Nat × Nat × Bool × Bool) → Nat → Except WalkErr Leaf
  | [], _ => .error (.fault 2 4 a)
  | (shift, bits, mayLeaf, mustLeaf) :: rest, table =>
    let e := table + 16 * (a / 2 ^ shift % 2 ^ bits)
    match offRead s none e e 16 with
    | none => .error (.memory e)
    | some b =>
      let w0 := leNat (b.take 8)
      let w1 := leNat (b.drop 8)
      let leaf := bitOf w0 1
      if !bitOf w0 0 then .error (.fault 2 0 a)
      else if badEntry2 w0 w1 shift leaf mayLeaf mustLeaf then .error (.fault 2 4 a)
      else if leaf then .ok ⟨field w0 41 16 * 65536, 2 ^ shift, bitOf w0 2, bitOf w0 3, false, w1, e⟩
      else walk2 s a rest (field w0 41 16 * 65536)

/-- rights_check of R358. -/
def rightsCheck (s : State) (r w : Nat) (writes : Bool) : Option WalkErr :=
  let v := windowOf w s
  if !v.valid || !v.wrd.getLsbD r || (writes && !v.wwr.getLsbD r) then some (.rights w) else none

/-- A window's length in 64 KiB pages: 1 to 2^24, so that a field of zero is 2^24 (R356; DEDUCED, notes/assumptions/36.md). -/
def windowPages (v : Window) : Nat := if v.pages = 0 then 2 ^ 24 else v.pages.toNat

/-- Stage 2 of an intermediate address for a rink: the window's table, the function's, or the identity of a PF-bound rink (R340,
R344), which is one page without end. An offset at or beyond a window's length is out of range (R356). -/
def stage2 (s : State) (r ia : Nat) : Except WalkErr Leaf :=
  if bitOf ia 47 then
    let v := windowOf (field ia 45 40) s
    if windowPages v * 65536 ≤ field ia 39 0 then .error (.fault 2 3 ia)
    else walk2 s ia walkLevels (field v.s2root.toNat 41 16 * 65536)
  else if rinkFn r s = 0 then
    if inHBM ia || inLPDDR ia then .ok ⟨0, 2 ^ 48, true, true, inLPDDR ia, 0, 0⟩
    else .error (.fault 2 3 ia)
  else walk2 s ia walkLevels (field (fnOf (rinkFn r s) s).s2root.toNat 41 16 * 65536)

/-! ### Writes -/

/-- Every write of a granule increments its minor; at 127 the major advances and the block's minors return to zero (R353). The leaf is then its slot's, whose root
changes with it (R354). -/
def bumpCounter (slot ma ia : Nat) (s : State) : State :=
  let k := keyOf slot s
  let b := s.counters.get CtrBlock.reset (ma / 16384)
  let home := some (slot, k.epoch, ia / 16384)
  let i := ma / 256 % 64
  let m := b.minors.get 0 i
  let b' : CtrBlock := if m = 127 then ⟨b.major + 1, Table.empty, home⟩ else ⟨b.major, b.minors.setD 0 i (m + 1), home⟩
  { s with counters := s.counters.put (ma / 16384) b', keys := s.keys.put slot { k with written := true } }

/-! ### Window views (11 R291) -/

def viewKey (r ia : Nat) : Nat := r * 2 ^ 40 + ia / 256 % 2 ^ 40

/-- The bytes of a window granule as rink `r` may read them: one of its view's states, a free choice among them; older states
are then behind it. Without a view it reads the latest. -/
def viewRead (r ia : Nat) (latest : List Byte) (s : State) : List Byte × State :=
  let v := s.views.get ⟨[], 0⟩ (viewKey r ia)
  if v.states.isEmpty then (latest, s)
  else
    let (w, s') := freshWord s
    let i := w.toNat % v.states.length
    let rest := v.states.drop i
    (nth latest v.states i, { s' with views := s'.views.put (viewKey r ia) ⟨rest, v.old - i⟩ })

/-- A write of a window granule by rink `r`: every other rink with read rights may still read the states before it, and `r` itself
reads it from now on. -/
def viewWrite (r ia : Nat) (before after : List Byte) (s : State) : State :=
  let w := windowOf (field ia 45 40) s
  (List.range 64).foldl (fun s q =>
    if !w.wrd.getLsbD q then s
    else if q = r then { s with views := s.views.put (viewKey q ia) ⟨[], 0⟩ }
    else
      let v := s.views.get ⟨[], 0⟩ (viewKey q ia)
      let st := (if v.states.isEmpty then [before] else v.states) ++ [after]
      { s with views := s.views.put (viewKey q ia) ⟨st, v.old⟩ }) s

/-- A publication of window `w`: every state but the latest of each view is older than it (11 R292). -/
def viewPublish (w : Nat) (s : State) : State :=
  { s with views := s.views.mapVals fun k v =>
      if bitOf (k % 2 ^ 40) 39 && field (k % 2 ^ 40) 37 32 == w then { v with old := v.states.length - 1 } else v }

/-- wsync by a rink: what is older than the latest publication is behind it (11 R292). -/
def viewSync (r w : Nat) (s : State) : State :=
  { s with views := s.views.mapVals fun k v =>
      if k / 2 ^ 40 == r && bitOf (k % 2 ^ 40) 39 && field (k % 2 ^ 40) 37 32 == w then ⟨v.states.drop v.old, 0⟩ else v }

/-- An access of a rink to a granule: counted on its unit (15 R372), and for its page's epoch where the function's pages migrate by
access counts: a page reached through the capacity space is one whose home is the capacity tier, one reached through the HBM space is at home there (R348). -/
def countAccess (r space ma ia i : Nat) (s : State) : State :=
  let fn := rinkFn r s
  let s1 := countMem fn ma i s
  let f := fnOf fn s
  if space ≤ 1 ∧ bitOf f.migctl.toNat 0 && !bitOf ia 47 then
    modFn fn (fun f => { f with homes := f.homes.setD 0 (ia / 65536) space,
                                epochHits := if space = 1 then f.epochHits.put (ia / 65536) (f.epochHits.get 0 (ia / 65536) + 1) else f.epochHits }) s1
  else s1

/-- Correctable errors of a granule that is read are counted on its unit (18 R420, 15 R372). -/
def countCorrected (r ma : Nat) (s : State) : State :=
  (memErrors 1 ma s).foldl (fun s _ => countMem (rinkFn r s) ma 3 s) s

/-- The bytes a rink reads of a granule, through its view of a window (R282, R291). -/
def rinkSees (r : Nat) (key : Option Nat) (ma ia n : Nat) (s0 : State) : Option (List Byte × State) :=
  let s := useFrame key ma s0
  if bitOf ia 47 then
    match offRead s key (ma / 256 * 256) (ia / 256 * 256) 256 with
    | none => none
    | some g =>
      let (b, s') := viewRead r ia g s
      some ((b.drop (ma % 256)).take n, s')
  else (offRead s key ma ia n).map fun b => (b, s)

/-- A read by rink `r` of `n` bytes within one granule. -/
def rinkRead (r space : Nat) (key : Option Nat) (ma ia n : Nat) (s : State) : Option (List Byte × State) :=
  (rinkSees r key ma ia n s).map fun x => (x.1, countCorrected r ma (countAccess r space ma ia 0 x.2))

/-- The 32-byte units a write covers whole. -/
def coversUnit (ma n u : Nat) : Bool := decide (ma ≤ 32 * u ∧ 32 * u + 32 ≤ ma + n)

/-- The commands of every rink, in queues and on engines. -/
def allCommands (s : State) : List Command :=
  let ofRun (q : Option Run) : List Command := (q.map (·.cmd)).toList
  (s.sites.cells.flatMap fun p => p.2.q.lq ++ p.2.q.sq ++ p.2.q.ce ++ ofRun p.2.q.run0 ++ ofRun p.2.q.run1)
    ++ s.dies.cells.flatMap fun d => d.2.ce.cells.flatMap fun e => ofRun e.2.run

/-- The stage-2 leaves that commands and launches pin, and those of pages that move. -/
def busyLeaves (s : State) : List Nat :=
  ((allCommands s).flatMap (fun c => pagesOf c.bases) ++ s.rinks.cells.flatMap fun q => q.2.work.launches.flatMap (·.pins)).filterMap (·.leaf)
    ++ s.moves.map (·.leaf)

def leafPin (m : Mem) (entry : Nat) : Nat := leNat (m.readBytes (entry + 8) 2)
def leafMov (m : Mem) (entry : Nat) : Bool := bitOf (leNat (m.readBytes (entry + 8) 8)) 23

/-- A leaf is pinned or moving (R339). -/
def leafBusy (m : Mem) (entry : Nat) : Bool := leafPin m entry != 0 || leafMov m entry

/-- The pinned or moving leaves whose word 0 a write of `n` bytes meets. -/
def metLeaves (ma n : Nat) (s : State) : List Nat :=
  let es := ((List.range ((ma + n + 15) / 16 - ma / 16)).map fun i => 16 * (ma / 16 + i)).filter fun e =>
    decide (ma < e + 8 ∧ e < ma + n) && leafBusy s.mem e
  if es.isEmpty then [] else es.filter fun e => (busyLeaves s).contains e

/-- A plaintext write: of word 0 of a pinned or moving leaf it is ignored, and the hypervisor's TFAULT.BUSY is set (R339). -/
def guardLeaves (ma : Nat) (data : List Byte) (s : State) : List Byte × State :=
  let es := metLeaves ma data.length s
  if es.isEmpty then (data, s)
  else
    let old := s.mem.readBytes ma data.length
    ((List.range data.length).map fun i => if es.any fun e => decide (e ≤ ma + i ∧ ma + i < e + 8) then nth 0 old i else nth 0 data i,
     modFn 0 (fun f => { f with tbusy := true }) s)

/-- A write of bytes within one granule: none is a memory error, also where the granule holds an uncorrectable error in a unit that is not
written whole. A plaintext write over a keyed granule leaves that granule's
other bytes as ciphertext. -/
def offWrite (key : Option Nat) (ma ia : Nat) (data : List Byte) (s : State) : Option State :=
  if !keyPasses s key ma ia (data.length == 256) || (memErrors 2 ma s).any fun u => !coversUnit ma data.length u then none
  else
    let g := ma / 256
    let put (data : List Byte) (m : Mem) (s : State) : State :=
      { s with mem := m.writeBytes ma data, memErrs := dropRange (ceilDiv ma 32) ((ma + data.length) / 32) s.memErrs,
               metaErrs := s.metaErrs.setD 0 (2 * g) 0, seals := s.seals.put g (sealFor s key ia) }
    match key with
    | some k =>
      let s0 := grantFrame k ma s
      some (bumpCounter k ma ia (put data s0.mem s0))
    | none =>
      let p := guardLeaves ma data (treadTrees ma data.length s)
      some (put p.1 (match sealOf s ma with
        | some (.keyed _ _ _) => s.mem.writeBytes (g * 256) (storedGranule s ma)
        | _ => s.mem) p.2)

/-- A write by rink `r` within one granule, as the other rinks may come to see it. -/
def rinkPuts (r : Nat) (key : Option Nat) (ma ia : Nat) (data : List Byte) (s : State) : Option State :=
  let before := (offRead s key (ma / 256 * 256) (ia / 256 * 256) 256).getD (List.replicate 256 0)
  match offWrite key ma ia data s with
  | none => none
  | some s' =>
    if bitOf ia 47 then some (viewWrite r ia before (s'.mem.readBytes (ma / 256 * 256) 256) s') else some s'

/-- Bytes that a plain write of this cycle has written (11 R295). -/
def noteStored (ma n : Nat) (s : State) : State := { s with stored := (ma, n) :: s.stored }

/-- A write by rink `r` within one granule. -/
def rinkWrite (r space : Nat) (key : Option Nat) (ma ia : Nat) (data : List Byte) (s : State) : Option State :=
  (rinkPuts r key ma ia data s).map fun t => noteStored ma data.length (countAccess r space ma ia 1 t)

/-! ## Stage 1 -/

/-- An entry of a stage-1 table, read through stage 2 as a read (R337). -/
def readEntry1 (s : State) (r ia : Nat) : Except WalkErr (Nat × Nat) :=
  let rights := if bitOf ia 47 then rightsCheck s r (field ia 45 40) false else none
  match rights with
  | some e => .error e
  | none =>
    match stage2 s r ia with
    | .error e => .error e
    | .ok l =>
      if !l.rd then .error (.fault 2 1 ia)
      else if bitOf l.word1 23 || remapping s (l.out + ia % l.size) then .error .moving
      else
        match offRead s (keySlot s r ia) (l.out + ia % l.size) ia 16 with
        | none => .error (.memory (l.out + ia % l.size))
        | some b => .ok (leNat (b.take 8), leNat (b.drop 8))

def walk1 (s : State) (r a : Nat) : List (Nat × Nat × Bool × Bool) → Nat → Except WalkErr Leaf
  | [], _ => .error (.fault 1 4 a)
  | (shift, bits, mayLeaf, mustLeaf) :: rest, table =>
    match readEntry1 s r (table + 16 * (a / 2 ^ shift % 2 ^ bits)) with
    | .error e => .error e
    | .ok (w0, w1) =>
      let leaf := bitOf w0 1
      if !bitOf w0 0 then .error (.fault 1 0 a)
      else if badEntry1 w0 w1 shift leaf mayLeaf mustLeaf then .error (.fault 1 4 a)
      else if leaf then .ok ⟨field w0 47 16 * 65536, 2 ^ shift, bitOf w0 2, bitOf w0 3, bitOf w0 4, w1, 0⟩
      else walk1 s r a rest (field w0 47 16 * 65536)

/-- The machine addresses of the table entries that a stage-1 walk reads: none that it is refused. -/
def walked1 (s : State) (r a : Nat) : List (Nat × Nat × Bool × Bool) → Nat → List Nat
  | [], _ => []
  | (shift, bits, _, _) :: rest, table =>
    let e := table + 16 * (a / 2 ^ shift % 2 ^ bits)
    match stage2 s r e with
    | .error _ => []
    | .ok l =>
      match readEntry1 s r e with
      | .ok (w0, _) => (l.out + e % l.size) :: (if bitOf w0 0 && !bitOf w0 1 then walked1 s r a rest (field w0 47 16 * 65536) else [])
      | .error _ => []

/-- The granules that a translation reads of its stage-1 tables are counted on their units (15 R372). -/
def countWalk (r space cursor : Nat) (s : State) : State :=
  let fn := rinkFn r s
  let root := (fnOf fn s).s1root.toNat
  if space = 4 || !bitOf root 0 || field cursor 63 48 != 0 || !memoryCounts fn s then s
  else (walked1 s r cursor walkLevels (field root 47 16 * 65536)).foldl (fun s ma => countMem fn ma 0 s) s

/-- The walks that found the pages of a push or of a pinned list. -/
def countPages (r : Nat) (ps : List Page) (s : State) : State := ps.foldl (fun s p => countWalk r p.space p.va s) s

/-- The last part of R340: stage 2 of an intermediate address, with the size of the stage-1 page. -/
def finishWalk (s : State) (r space va ia size1 : Nat) (writes : Bool) : Except WalkErr (Page × Bool) :=
  match stage2 s r ia with
  | .error e => .error e
  | .ok l =>
    if !l.rd || (writes && !l.w) then .error (.fault 2 1 ia)
    else if bitOf l.word1 23 then .error .moving
    else
      let size := min size1 l.size
      let off := va % size
      let identity := !bitOf ia 47 && rinkFn r s == 0
      .ok (⟨space, va - off, size, l.out + ia % l.size - off, ia - off, keySlot s r ia, if identity then none else some l.entry, false⟩, l.w)

/-- A write through a stage-1 leaf that does not permit it: fault(1, 1), unless the leaf reaches a window the rink may not write. R358 has
the rights check come first, and R400 requires it of such a store, where R340's pseudocode tests the leaf first (DEDUCED, notes/assumptions/42.md). -/
def leafDenies (s : State) (r cursor : Nat) (l : Leaf) (writes : Bool) : WalkErr :=
  let ia := l.out + cursor % l.size
  if l.rd && bitOf ia 47 then (rightsCheck s r (field ia 45 40) writes).getD (.fault 1 1 cursor) else .fault 1 1 cursor

/-- translate of R340: the page of a guest address and whether it may be written. `fmt` is the check of word 1 that the access
makes (R341). -/
def translate (s : State) (r space cursor : Nat) (writes : Bool) (fmt : Nat → Bool) : Except WalkErr (Page × Bool) :=
  if !bitOf (fnOf (rinkFn r s) s).s1root.toNat 0 then .error (.fault 1 0 (cursor % 2 ^ 48))
  else if space = 4 then
    if field cursor 63 46 != 0 then .error (.fault 2 3 cursor)
    else
      let ia := 2 ^ 47 + cursor
      match rightsCheck s r (field ia 45 40) writes with
      | some e => .error e
      | none => finishWalk s r space cursor ia (2 ^ 30) writes
  else if field cursor 63 48 != 0 then .error (.fault 1 3 (cursor % 2 ^ 48))
  else
    match walk1 s r cursor walkLevels (field (fnOf (rinkFn r s) s).s1root.toNat 47 16 * 65536) with
    | .error e => .error e
    | .ok l =>
      let ia := l.out + cursor % l.size
      if !l.rd || (writes && !l.w) then .error (leafDenies s r cursor l writes)
      else if l.tier != (space == 1) then .error (.fault 1 2 cursor)
      else if !fmt l.word1 then .error (.fault 1 5 cursor)
      else if bitOf ia 47 && l.tier then .error (.fault 1 4 cursor)
      else
        match (if bitOf ia 47 then rightsCheck s r (field ia 45 40) writes else none) with
        | some e => .error e
        | none =>
          match finishWalk s r space cursor ia l.size writes with
          | .error e => .error e
          | .ok (p, w) =>
            -- the tier of an identity page is that of its machine address (R344)
            if p.leaf.isNone && inLPDDR ia != (space == 1) then .error (.fault 1 2 cursor)
            else .ok ({ p with comp := bitOf l.word1 7 }, l.w && w)

/-- COMP = 0, which every CC access requires (R341). -/
def plainPage (word1 : Nat) : Bool := !bitOf word1 7

/-- The hit a failed translation is to a CC access (R342); a page being moved is waited for. -/
def walkHit (s : State) (r : Nat) (e : WalkErr) : Hit :=
  match e with
  | .fault stage reason addr => .walkTrap 0x26 (stage * 4096 + reason * 256) (rinkFn r s) addr
  | .rights w => .trap 0x27 w
  | .moving => .stall 2 0 0 none
  | .memory ma => .memTrap (rinkFn r s) ma

/-- A core's cached translation of an address, if it holds one that permits the access (R345). -/
def cached (c : Site) (fn space va : Nat) (writes : Bool) : Option Page :=
  (c.tlb.find? fun t => t.fn == fn && t.page.space == space && decide (t.page.va ≤ va ∧ va < t.page.va + t.page.size)
    && (!writes || t.writable)).map (·.page)

/-- What every access is checked for whatever translation it uses: the function's stage 1 is enabled (R343), and its rights to a window (R357). -/
def accessErr (s : State) (r va : Nat) (p : Page) (writes : Bool) : Option WalkErr :=
  if !bitOf (fnOf (rinkFn r s) s).s1root.toNat 0 then some (.fault 1 0 (va % 2 ^ 48))
  else if bitOf p.ia 47 then rightsCheck s r (field p.ia 45 40) writes
  else none

/-- A walk for a CC access, whose page the core's cache then holds (R345). One that waits for a page move has read nothing that counts yet: it is counted when it
goes through (15 R372). -/
def walkCC (s : State) (r space va : Nat) (writes : Bool) : Except WalkErr Page × State :=
  match translate s r space va writes plainPage with
  | .error .moving => (.error .moving, s)
  | .error e => (.error e, countWalk r space va s)
  | .ok (p, w) =>
    (.ok p, modMySite (fun c => { c with tlb := ⟨rinkFn r s, p, w⟩ :: c.tlb.filter (fun t => !(t.fn == rinkFn r s && t.page == p)) }) (countWalk r space va s))

/-- The page of a CC access. A cached translation may be used in place of a walk: which of the two is a free choice (R345). -/
def translateCC (s : State) (r space va : Nat) (writes : Bool) : Except WalkErr Page × State :=
  match cached (mySite s) (rinkFn r s) space va writes with
  | none => walkCC s r space va writes
  | some p =>
    let (b, s') := freshBool s
    if !b then walkCC s' r space va writes
    else match accessErr s r va p writes with
      | some e => (.error e, s')
      | none => (.ok p, s')

end Sys2Proof.Machine
end

