-- ==== Sys2Proof/Machine/Guest.lean ====
section
/-!
DEFINITION. Reads and writes of a rink's off-chip memory by the device itself: launch records, graph headers, job images and code
(13 R314, R319, R325, 09 R255), one granule at a time.
-/

namespace Sys2Proof.Machine

/-- The pieces of `[va, va + n)`, each within one granule. -/
def granulePieces : Nat → Nat → Nat → List (Nat × Nat)
  | 0, _, _ => []
  | fuel + 1, va, n =>
    if n = 0 then []
    else
      let k := min n (256 - va % 256)
      (va, k) :: granulePieces fuel (va + k) (n - k)

def piecesOf (va n : Nat) : List (Nat × Nat) := granulePieces (n / 256 + 2) va n

/-- The machine address of a translated piece. -/
def pieceMa (g : Page) (va : Nat) : Nat := g.ma + (va - g.va)

/-- One piece read through translation; the failure as an access of the control core meets it. -/
def guestPiece (r space : Nat) (p : Nat × Nat) (s0 : State) : Except Hit (List Byte × State) :=
  let s := countWalk r space p.1 s0
  match translate s r space p.1 false plainPage with
  | .error e => .error (walkHit s r e)
  | .ok (g, _) =>
    if remapping s (pieceMa g p.1) then .error (walkHit s r .moving)
    else
      match rinkRead r space g.key (pieceMa g p.1) (g.ia + (p.1 - g.va)) p.2 s with
      | none => .error (.memTrap (rinkFn r s) (pieceMa g p.1))
      | some x => .ok x

def guestPieces (r space : Nat) : List (Nat × Nat) → State → Except Hit (List Byte × State)
  | [], s => .ok ([], s)
  | p :: ps, s =>
    match guestPiece r space p s with
    | .error h => .error h
    | .ok (b, s1) =>
      match guestPieces r space ps s1 with
      | .error h => .error h
      | .ok (bs, s2) => .ok (b ++ bs, s2)

/-- Read `n` bytes at a guest address. -/
def guestRead (r space va n : Nat) (s : State) : Except Hit (List Byte × State) := guestPieces r space (piecesOf va n) s

def guestPut (r space : Nat) (p : Nat × Nat) (data : List Byte) (s0 : State) : Except Hit State :=
  let s := countWalk r space p.1 s0
  match translate s r space p.1 true plainPage with
  | .error e => .error (walkHit s r e)
  | .ok (g, _) =>
    if remapping s (pieceMa g p.1) then .error (walkHit s r .moving)
    else
      match rinkWrite r space g.key (pieceMa g p.1) (g.ia + (p.1 - g.va)) data s with
      | none => .error (.memTrap (rinkFn r s) (pieceMa g p.1))
      | some s' => .ok s'

def guestPuts (r space : Nat) : List (Nat × Nat) → List Byte → State → Except Hit State
  | [], _, s => .ok s
  | p :: ps, data, s =>
    match guestPut r space p (data.take p.2) s with
    | .error h => .error h
    | .ok s' => guestPuts r space ps (data.drop p.2) s'

/-- Write bytes at a guest address. -/
def guestWrite (r space va : Nat) (data : List Byte) (s : State) : Except Hit State :=
  guestPuts r space (piecesOf va data.length) data s

end Sys2Proof.Machine
end

