-- ==== Sys2Proof/Machine/Formats.lean ====
section
/-!
DEFINITION. What the encodings admit: the answer of a decoder, the register numbers of mtx and mfs, and the
format of every VE opcode (03 R69 to R81).
-/

namespace Sys2Proof.Machine

/-- The answer of a decoder: an instruction, or the family and reason of an illegal-instruction trap (R69). -/
inductive Decoded where
  | ok (i : Instr)
  | illegal (family reason : Nat)
  deriving DecidableEq, Repr

/-- A loop-nest register number of R201. -/
def nestReg (g : Nat) : Bool :=
  g ≤ 5 || g == 7 || (8 ≤ g && g ≤ 53 && g % 8 ≤ 5)

/-- A system register number of R59. -/
def sysReg (n : Nat) : Bool :=
  n ≤ 4 || (8 ≤ n && n ≤ 10) || (0x10 ≤ n && n ≤ 0x14) || n == 0x18 || n == 0x19 || (0x20 ≤ n && n ≤ 0x2F)
    || (0x40 ≤ n && n ≤ 0x7F)

/-- waitf and tstf: the clear bit is reserved on a token FIFO (R125). -/
def waitFlagOk (f : Nat) (clr : Bool) : Bool := !(clr && 16 ≤ f && f ≤ 31)

/-- sigf: value 1 is not an operand of a full/empty flag (R125). -/
def signalFlagOk (f : Nat) (val : Bool) : Bool := !(val && f ≤ 15)

/-- How a VE opcode uses a 7-bit field (R77, R80): not at all, as a vector destination, as a vector source that may be
held, as the first register of a source group that may not be held (R171), as a p, x or t register, as a code within
limits, or as the row field of vldt and vstt (R178). -/
inductive VUse where
  | zero | dst | src | group | small | rowKeep | rowPut
  | code (lo hi : Nat)
  deriving DecidableEq, Repr

/-- How a VE opcode uses the rounding field (R24, R157, R170, R173). -/
inductive VRound where
  | none | mode | modeIfFloat | convert | narrow
  deriving DecidableEq, Repr

/-- How a VE opcode uses pred and pmode (R79, R154, R165, R168). -/
inductive VGovern where
  | never | lanes | inputs | selector
  deriving DecidableEq, Repr

/-- How a VE opcode uses aux (R79, R183, R184). -/
inductive VAux where
  | idle | imm | waitFlag | signalFlag | turn
  deriving DecidableEq, Repr

structure VFormat where
  types : List Nat
  vd : VUse
  va : VUse
  vb : VUse
  vc : VUse
  rnd : VRound
  gov : VGovern
  aux : VAux
  deriving DecidableEq, Repr

/-- The rows of R80, with what 06 adds to them. -/
def veFormat (op : Nat) : Option VFormat :=
  match op with
  | 0x00 => some ⟨[0], .zero, .zero, .zero, .zero, .none, .never, .imm⟩
  | 0x01 => some ⟨[0], .zero, .zero, .zero, .zero, .none, .never, .waitFlag⟩
  | 0x02 => some ⟨[0], .zero, .zero, .zero, .zero, .none, .never, .signalFlag⟩
  | 0x03 => some ⟨[0], .zero, .zero, .zero, .zero, .none, .never, .idle⟩
  | 0x04 => some ⟨[0], .zero, .zero, .zero, .zero, .none, .never, .imm⟩
  | 0x05 => some ⟨[0], .code 0 8, .small, .zero, .code 0 127, .none, .never, .imm⟩
  | 0x06 => some ⟨[0], .zero, .zero, .zero, .zero, .none, .never, .turn⟩
  | 0x10 => some ⟨[0, 1, 2, 3, 4, 5], .dst, .src, .src, .zero, .modeIfFloat, .lanes, .idle⟩
  | 0x11 => some ⟨[0, 1, 2, 3, 4, 5], .dst, .src, .src, .zero, .modeIfFloat, .lanes, .idle⟩
  | 0x12 => some ⟨[0, 1, 2, 3, 4, 5], .dst, .src, .src, .zero, .modeIfFloat, .lanes, .idle⟩
  | 0x13 => some ⟨[0, 1], .dst, .src, .src, .src, .mode, .lanes, .idle⟩
  | 0x14 => some ⟨[0, 1], .dst, .src, .src, .src, .mode, .lanes, .idle⟩
  | 0x15 => some ⟨[0, 1], .dst, .src, .src, .src, .mode, .lanes, .idle⟩
  | 0x16 => some ⟨[0, 1, 2, 3, 4, 5], .dst, .src, .src, .zero, .none, .lanes, .idle⟩
  | 0x17 => some ⟨[0, 1, 2, 3, 4, 5], .dst, .src, .src, .zero, .none, .lanes, .idle⟩
  | 0x18 => some ⟨[0, 1, 2, 4], .dst, .src, .zero, .zero, .none, .lanes, .idle⟩
  | 0x19 => some ⟨[0, 1, 2, 4], .dst, .src, .zero, .zero, .none, .lanes, .idle⟩
  | 0x1A => some ⟨[0, 1], .dst, .src, .src, .zero, .none, .lanes, .idle⟩
  | 0x20 => some ⟨[0], .dst, .src, .zero, .zero, .none, .lanes, .idle⟩
  | 0x21 => some ⟨[0], .dst, .src, .zero, .zero, .none, .lanes, .idle⟩
  | 0x22 => some ⟨[0], .dst, .src, .zero, .zero, .none, .lanes, .idle⟩
  | 0x23 => some ⟨[0], .dst, .src, .zero, .zero, .none, .lanes, .idle⟩
  | 0x30 => some ⟨[0], .dst, .src, .src, .zero, .none, .lanes, .idle⟩
  | 0x31 => some ⟨[0], .dst, .src, .src, .zero, .none, .lanes, .idle⟩
  | 0x32 => some ⟨[0], .dst, .src, .src, .zero, .none, .lanes, .idle⟩
  | 0x33 => some ⟨[0], .dst, .src, .zero, .zero, .none, .lanes, .idle⟩
  | 0x34 => some ⟨[2, 3, 4, 5], .dst, .src, .src, .zero, .none, .lanes, .idle⟩
  | 0x35 => some ⟨[2, 3, 4, 5], .dst, .src, .src, .zero, .none, .lanes, .idle⟩
  | 0x36 => some ⟨[2, 3, 4, 5], .dst, .src, .src, .zero, .none, .lanes, .idle⟩
  | 0x37 => some ⟨[0], .dst, .src, .zero, .zero, .none, .lanes, .idle⟩
  | 0x38 => some ⟨[0], .dst, .zero, .zero, .zero, .none, .lanes, .imm⟩
  | 0x39 => some ⟨[0], .dst, .zero, .zero, .zero, .none, .lanes, .imm⟩
  | 0x40 => some ⟨[0, 1, 2, 3, 4, 5], .small, .src, .src, .code 0 4, .none, .lanes, .idle⟩
  | 0x41 => some ⟨[0], .dst, .src, .src, .zero, .none, .selector, .idle⟩
  | 0x42 => some ⟨[0], .small, .small, .small, .zero, .none, .never, .idle⟩
  | 0x43 => some ⟨[0], .small, .small, .small, .zero, .none, .never, .idle⟩
  | 0x44 => some ⟨[0], .small, .small, .small, .zero, .none, .never, .idle⟩
  | 0x45 => some ⟨[0], .small, .small, .zero, .zero, .none, .never, .idle⟩
  | 0x46 => some ⟨[0], .small, .small, .zero, .zero, .none, .never, .imm⟩
  | 0x50 => some ⟨[0, 1], .dst, .src, .zero, .zero, .mode, .inputs, .idle⟩
  | 0x51 => some ⟨[0, 1], .dst, .src, .zero, .zero, .none, .inputs, .idle⟩
  | 0x52 => some ⟨[0, 1], .dst, .src, .zero, .zero, .none, .inputs, .idle⟩
  | 0x58 => some ⟨[0], .dst, .src, .src, .zero, .none, .lanes, .idle⟩
  | 0x59 => some ⟨[0], .dst, .src, .code 0 63, .zero, .none, .lanes, .idle⟩
  | 0x5A => some ⟨[0], .dst, .src, .code 0 63, .zero, .none, .lanes, .idle⟩
  | 0x5B => some ⟨[1, 4, 5], .dst, .src, .src, .zero, .none, .lanes, .idle⟩
  | 0x5C => some ⟨[1, 4, 5], .dst, .src, .src, .zero, .none, .lanes, .idle⟩
  | 0x60 => some ⟨[0, 1, 2, 3, 4, 5], .dst, .src, .zero, .code 0 127, .convert, .lanes, .idle⟩
  | 0x61 => some ⟨[0, 1], .dst, .group, .zero, .code 2 8, .mode, .never, .idle⟩
  | 0x62 => some ⟨[0], .dst, .group, .zero, .code 2 8, .none, .never, .idle⟩
  | 0x63 => some ⟨[0], .dst, .src, .zero, .code 0 127, .narrow, .lanes, .idle⟩
  | 0x64 => some ⟨[0], .dst, .src, .src, .zero, .none, .lanes, .idle⟩
  | 0x70 => some ⟨[0], .dst, .small, .zero, .zero, .none, .lanes, .imm⟩
  | 0x71 => some ⟨[0], .dst, .small, .small, .zero, .none, .lanes, .imm⟩
  | 0x72 => some ⟨[0], .dst, .small, .src, .zero, .none, .lanes, .imm⟩
  | 0x73 => some ⟨[0], .zero, .small, .zero, .src, .none, .lanes, .imm⟩
  | 0x74 => some ⟨[0], .zero, .small, .small, .src, .none, .lanes, .imm⟩
  | 0x75 => some ⟨[0], .zero, .small, .src, .src, .none, .lanes, .imm⟩
  | 0x76 => some ⟨[0], .dst, .small, .rowKeep, .zero, .none, .lanes, .idle⟩
  | 0x77 => some ⟨[0], .zero, .small, .rowPut, .src, .none, .lanes, .idle⟩
  | 0x78 => some ⟨[0], .small, .small, .zero, .zero, .none, .never, .imm⟩
  | 0x79 => some ⟨[0], .small, .small, .small, .zero, .none, .never, .idle⟩
  | 0x7A => some ⟨[0], .small, .zero, .zero, .zero, .none, .never, .imm⟩
  | 0x80 => some ⟨[0], .dst, .src, .src, .zero, .none, .lanes, .idle⟩
  | 0x81 => some ⟨[0], .dst, .src, .src, .src, .none, .lanes, .idle⟩
  | _ => Option.none

/-- The instruction of a VE opcode (R80). -/
def veInstr (op : Nat) (f : VFields) : Option Instr :=
  match op with
  | 0x00 => some (.vidle f)
  | 0x01 => some (.vwaitf f)
  | 0x02 => some (.vsigf f)
  | 0x03 => some (.vend f)
  | 0x04 => some (.vloop f)
  | 0x05 => some (.vsetlc f)
  | 0x06 => some (.vturn f)
  | 0x10 => some (.vadd f)
  | 0x11 => some (.vsub f)
  | 0x12 => some (.vmul f)
  | 0x13 => some (.vfma f)
  | 0x14 => some (.vfms f)
  | 0x15 => some (.vfnma f)
  | 0x16 => some (.vmax f)
  | 0x17 => some (.vmin f)
  | 0x18 => some (.vabs f)
  | 0x19 => some (.vneg f)
  | 0x1A => some (.vcopysgn f)
  | 0x20 => some (.vrcp f)
  | 0x21 => some (.vrsq f)
  | 0x22 => some (.vexp2 f)
  | 0x23 => some (.vlog2 f)
  | 0x30 => some (.vand f)
  | 0x31 => some (.vor f)
  | 0x32 => some (.vxor f)
  | 0x33 => some (.vnot f)
  | 0x34 => some (.vshl f)
  | 0x35 => some (.vshr f)
  | 0x36 => some (.vsra f)
  | 0x37 => some (.vmov f)
  | 0x38 => some (.vmovi f)
  | 0x39 => some (.vmovhi f)
  | 0x40 => some (.vcmp f)
  | 0x41 => some (.vsel f)
  | 0x42 => some (.vpand f)
  | 0x43 => some (.vpor f)
  | 0x44 => some (.vpxor f)
  | 0x45 => some (.vpnot f)
  | 0x46 => some (.vplen f)
  | 0x50 => some (.vrsum f)
  | 0x51 => some (.vrmax f)
  | 0x52 => some (.vrmin f)
  | 0x58 => some (.vperm f)
  | 0x59 => some (.vbcast f)
  | 0x5A => some (.vrot f)
  | 0x5B => some (.vzip f)
  | 0x5C => some (.vunzip f)
  | 0x60 => some (.vcvt f)
  | 0x61 => some (.vqbfp f)
  | 0x62 => some (.vdqbfp f)
  | 0x63 => some (.vsrnd f)
  | 0x64 => some (.vrng f)
  | 0x70 => some (.vld f)
  | 0x71 => some (.vlds f)
  | 0x72 => some (.vldg f)
  | 0x73 => some (.vst f)
  | 0x74 => some (.vsts f)
  | 0x75 => some (.vscat f)
  | 0x76 => some (.vldt f)
  | 0x77 => some (.vstt f)
  | 0x78 => some (.vxaddi f)
  | 0x79 => some (.vxadd f)
  | 0x7A => some (.vxset f)
  | 0x80 => some (.vseedgen f)
  | 0x81 => some (.vseedsrch f)
  | _ => Option.none

/-- Whether a use is of a vector register that a hold bit may replace (R81). -/
def VUse.holdable : VUse → Bool
  | .src => true
  | _ => false

/-- The reason for which a field's value is not admitted, if any; a held source is not decoded (R52). -/
def VUse.check (u : VUse) (held : Bool) (v : Nat) : Option Nat :=
  match u with
  | .zero => if v = 0 then Option.none else some 2
  | .dst => if v < 96 then Option.none else some 3
  | .src => if held || v < 96 then Option.none else some 3
  | .group => if v < 96 then Option.none else some 3
  | .small => if v < 16 then Option.none else some 3
  | .code lo hi => if lo ≤ v ∧ v ≤ hi then Option.none else some 4
  | .rowKeep => if v / 32 % 2 = 0 then Option.none else some 2
  | .rowPut => if v < 32 then Option.none else some 2

/-- Whether a conversion is exact for every input, so that it takes no rounding code (R170). -/
def exactConvert (src dst : Nat) : Bool :=
  (2 ≤ src && 2 ≤ dst) || (src == 1 && dst == 0) || (src == 4 && dst == 0) || (src == 5 && dst == 0)

/-- Whether the type, destination type and rounding codes are accepted (R24, R78, R170, R173). -/
def VRound.accepts (r : VRound) (ty vc rnd : Nat) : Bool :=
  match r with
  | .none => rnd == 0
  | .mode => rnd ≤ 5
  | .modeIfFloat => if ty ≤ 1 then rnd ≤ 5 else rnd == 0
  | .convert => vc ≤ 5 && vc != ty && (if exactConvert ty vc then rnd == 0 else rnd ≤ 5)
  | .narrow => 1 ≤ vc && vc ≤ 5 && rnd == 0

/-- The reason for which pred and pmode are not admitted, if any. -/
def VGovern.check (g : VGovern) (pred : Nat) (pmode : Bool) : Option Nat :=
  match g with
  | .never => if pred = 0 && !pmode then Option.none else some 2
  | .lanes => if pred = 0 && pmode then some 2 else Option.none
  | .inputs => if pmode then some 2 else Option.none
  | .selector => if pmode then some 2 else if pred = 0 then some 4 else Option.none

/-- The reason for which aux is not admitted, if any. -/
def VAux.check (x : VAux) (aux : Nat) : Option Nat :=
  match x with
  | .idle => Option.none
  | .imm => Option.none
  | .turn => if aux < 64 then Option.none else some 2
  | .waitFlag =>
    if 128 ≤ aux then some 2 else if waitFlagOk (aux % 64) (aux / 64 % 2 == 1) then Option.none else some 2
  | .signalFlag =>
    if 128 ≤ aux then some 2 else if signalFlagOk (aux % 64) (aux / 64 % 2 == 1) then Option.none else some 4

/-- The first reason of a list. -/
def firstReason : List (Option Nat) → Option Nat
  | [] => Option.none
  | some r :: _ => some r
  | Option.none :: rest => firstReason rest

/-- What the lanes of a VE word hold, by its type suffix (R78): one FP32, two BF16, one INT32, one 32-bit natural, two INT16 or two 16-bit naturals. -/
inductive LaneType where
  | f32 | bf16 | i32 | n32 | i16 | n16
  deriving DecidableEq, Repr

/-- The type codes of R78; 6 and 7 are never accepted. -/
def laneType : Nat → Option LaneType
  | 0 => some .f32
  | 1 => some .bf16
  | 2 => some .i32
  | 3 => some .n32
  | 4 => some .i16
  | 5 => some .n16
  | _ => Option.none

/-- The type field of an instruction that admits the codes `types`: a code of R78 and one of those. An instruction without suffixes admits code 0 alone
(R78, R80). -/
def typeAccepted (types : List Nat) (ty : Nat) : Bool := (laneType ty).isSome && types.contains ty

/-- Why a VE word of opcode `op` is not an instruction, if it is not (R69). The order in which reasons are looked for is
log entry 8. -/
def veReason (op : Nat) (f : VFields) : Option Nat :=
  match veFormat op with
  | Option.none => some 0
  | some r =>
    firstReason [
      if (!f.holdA || r.va.holdable) && (!f.holdB || r.vb.holdable) && (!f.holdC || r.vc.holdable) then Option.none else some 8,
      r.vd.check false f.vd.toNat,
      r.va.check f.holdA f.va.toNat,
      r.vb.check f.holdB f.vb.toNat,
      r.vc.check f.holdC f.vc.toNat,
      if typeAccepted r.types f.ty.toNat && r.rnd.accepts f.ty.toNat f.vc.toNat f.rnd.toNat then Option.none else some 5,
      r.gov.check f.pred.toNat f.pmode,
      r.aux.check f.aux.toNat,
      -- vcmp: the condition un is not one of the integer types (R164)
      if op == 0x40 && f.vc == 4 && 2 ≤ f.ty.toNat then some 4 else Option.none]

end Sys2Proof.Machine

namespace Sys2Proof

/-- The opcode and fields of a VE instruction. -/
def Instr.veParts : Instr → Option (Nat × VFields)
  | .vidle f => some (0x00, f)
  | .vwaitf f => some (0x01, f)
  | .vsigf f => some (0x02, f)
  | .vend f => some (0x03, f)
  | .vloop f => some (0x04, f)
  | .vsetlc f => some (0x05, f)
  | .vturn f => some (0x06, f)
  | .vadd f => some (0x10, f)
  | .vsub f => some (0x11, f)
  | .vmul f => some (0x12, f)
  | .vfma f => some (0x13, f)
  | .vfms f => some (0x14, f)
  | .vfnma f => some (0x15, f)
  | .vmax f => some (0x16, f)
  | .vmin f => some (0x17, f)
  | .vabs f => some (0x18, f)
  | .vneg f => some (0x19, f)
  | .vcopysgn f => some (0x1A, f)
  | .vrcp f => some (0x20, f)
  | .vrsq f => some (0x21, f)
  | .vexp2 f => some (0x22, f)
  | .vlog2 f => some (0x23, f)
  | .vand f => some (0x30, f)
  | .vor f => some (0x31, f)
  | .vxor f => some (0x32, f)
  | .vnot f => some (0x33, f)
  | .vshl f => some (0x34, f)
  | .vshr f => some (0x35, f)
  | .vsra f => some (0x36, f)
  | .vmov f => some (0x37, f)
  | .vmovi f => some (0x38, f)
  | .vmovhi f => some (0x39, f)
  | .vcmp f => some (0x40, f)
  | .vsel f => some (0x41, f)
  | .vpand f => some (0x42, f)
  | .vpor f => some (0x43, f)
  | .vpxor f => some (0x44, f)
  | .vpnot f => some (0x45, f)
  | .vplen f => some (0x46, f)
  | .vrsum f => some (0x50, f)
  | .vrmax f => some (0x51, f)
  | .vrmin f => some (0x52, f)
  | .vperm f => some (0x58, f)
  | .vbcast f => some (0x59, f)
  | .vrot f => some (0x5A, f)
  | .vzip f => some (0x5B, f)
  | .vunzip f => some (0x5C, f)
  | .vcvt f => some (0x60, f)
  | .vqbfp f => some (0x61, f)
  | .vdqbfp f => some (0x62, f)
  | .vsrnd f => some (0x63, f)
  | .vrng f => some (0x64, f)
  | .vld f => some (0x70, f)
  | .vlds f => some (0x71, f)
  | .vldg f => some (0x72, f)
  | .vst f => some (0x73, f)
  | .vsts f => some (0x74, f)
  | .vscat f => some (0x75, f)
  | .vldt f => some (0x76, f)
  | .vstt f => some (0x77, f)
  | .vxaddi f => some (0x78, f)
  | .vxadd f => some (0x79, f)
  | .vxset f => some (0x7A, f)
  | .vseedgen f => some (0x80, f)
  | .vseedsrch f => some (0x81, f)
  | _ => none

end Sys2Proof
end

