-- ==== Sys2Proof/WellFormed.lean ====
section
/-!
DEFINITION. Which terms of `Instr` have an encoding: every operand within the limit its row states (03 R69 to R84). Events
have no encoding and are well formed as they stand.
-/

namespace Sys2Proof

open Machine

def Instr.wf (i : Instr) : Bool :=
  match i with
  | .kfld _ _ x => x.toNat < 8
  | .fence scope => scope.toNat < 5
  | .waitf f clr => waitFlagOk f.toNat clr
  | .sigf f val => signalFlagOk f.toNat val
  | .tstf _ f clr => waitFlagOk f.toNat clr
  | .push q _ _ => q.toNat < 3
  | .pushc q _ => q.toNat < 3
  | .pop _ q => q.toNat < 2
  | .mtx _ _ reg _ => nestReg reg.toNat
  | .mfx _ _ _ reg => nestReg reg.toNat
  | .ralloc _ _ _ policy _ _ => policy.toNat < 3
  | .mfs _ reg => sysReg reg.toNat
  | .mts reg _ => sysReg reg.toNat
  | .sshl k => 1 ≤ k.toNat
  | .seqWaitf f clr => waitFlagOk f.toNat clr
  | .seqSigf f val => signalFlagOk f.toNat val
  | .copy _ tok fifo => tok || fifo == 0
  | .copyz _ tok fifo => tok || fifo == 0
  | .creduce op => op.toNat < 5
  | i =>
    match i.veParts with
    | some (op, f) => veReason op f == none
    | none => true

end Sys2Proof
end

