-- ==== Sys2Proof/Decode.lean ====
section
/-!
DEFINITION. The decoders of the three word families (03 R68 to R85), total on any word, and the encoder. A word is a natural
number; `decodeTableWord` reads it from its little-endian bytes.
-/

namespace Sys2Proof

open Machine

/-! ## CC words -/

/-- An RR word of three scalar registers; its c field must be zero (R70). -/
def rr3 (k : BitVec 5 → BitVec 5 → BitVec 5 → Instr) (d a b c : Nat) : Decoded :=
  if c = 0 then .ok (k (.ofNat 5 d) (.ofNat 5 a) (.ofNat 5 b)) else .illegal 0 2

/-- An RR word of two scalar registers (R70, R73). -/
def rr2 (k : BitVec 5 → BitVec 5 → Instr) (d a b c : Nat) : Decoded :=
  if b = 0 ∧ c = 0 then .ok (k (.ofNat 5 d) (.ofNat 5 a)) else .illegal 0 2

/-- The ALU group (R73). -/
def decodeAlu (d a b c fn : Nat) : Decoded :=
  match fn with
  | 0x00 => rr3 .add d a b c
  | 0x01 => rr3 .sub d a b c
  | 0x02 => rr3 .andR d a b c
  | 0x03 => rr3 .orR d a b c
  | 0x04 => rr3 .xorR d a b c
  | 0x05 => rr3 .andn d a b c
  | 0x06 => rr3 .shl d a b c
  | 0x07 => rr3 .shr d a b c
  | 0x08 => rr3 .sra d a b c
  | 0x09 => rr3 .slt d a b c
  | 0x0A => rr3 .sltn d a b c
  | 0x0B => rr3 .seq d a b c
  | 0x0C => rr3 .minR d a b c
  | 0x0D => rr3 .maxR d a b c
  | 0x0E => rr3 .minn d a b c
  | 0x0F => rr3 .maxn d a b c
  | 0x10 => rr3 .mul d a b c
  | 0x11 => rr3 .mulh d a b c
  | 0x12 => rr3 .mulhn d a b c
  | 0x13 => rr3 .div d a b c
  | 0x14 => rr3 .divn d a b c
  | 0x15 => rr3 .rem d a b c
  | 0x16 => rr3 .remn d a b c
  | 0x17 => .ok (.sel (.ofNat 5 d) (.ofNat 5 a) (.ofNat 5 b) (.ofNat 5 c))
  | 0x18 => rr2 .clz d a b c
  | 0x19 => rr2 .ctz d a b c
  | 0x1A => rr2 .popc d a b c
  | 0x1B => rr3 .addw d a b c
  | 0x1C => rr3 .subw d a b c
  | _ => .illegal 0 1

/-- The indirect-control group (R73). -/
def decodeControl (d a b c fn : Nat) : Decoded :=
  match fn with
  | 0x00 => if d = 0 ∧ a = 0 ∧ b = 0 ∧ c = 0 then .ok .ret else .illegal 0 2
  | 0x01 =>
    if 16 ≤ a then .illegal 0 3 else if d = 0 ∧ b = 0 ∧ c = 0 then .ok (.jr (.ofNat 4 a)) else .illegal 0 2
  | 0x02 =>
    if 16 ≤ a then .illegal 0 3 else if d = 0 ∧ b = 0 ∧ c = 0 then .ok (.callr (.ofNat 4 a)) else .illegal 0 2
  | _ => .illegal 0 1

/-- An atomic word of one operand (R73). -/
def atom (k : Bool → BitVec 5 → BitVec 4 → BitVec 5 → Instr) (dbl : Bool) (d a b c : Nat) : Decoded :=
  if 16 ≤ a then .illegal 0 3 else if c = 0 then .ok (k dbl (.ofNat 5 d) (.ofNat 4 a) (.ofNat 5 b)) else .illegal 0 2

/-- The atomic group (R73). -/
def decodeAtomic (d a b c fn : Nat) : Decoded :=
  let dbl := decide (32 ≤ fn)
  match fn % 32 with
  | 0x00 => atom .amoadd dbl d a b c
  | 0x01 => atom .amoand dbl d a b c
  | 0x02 => atom .amoor dbl d a b c
  | 0x03 => atom .amoxor dbl d a b c
  | 0x04 => atom .amoswap dbl d a b c
  | 0x05 => atom .amomin dbl d a b c
  | 0x06 => atom .amomax dbl d a b c
  | 0x07 => atom .amominn dbl d a b c
  | 0x08 => atom .amomaxn dbl d a b c
  | 0x10 =>
    if 16 ≤ a then .illegal 0 3 else .ok (.cas dbl (.ofNat 5 d) (.ofNat 4 a) (.ofNat 5 b) (.ofNat 5 c))
  | _ => .illegal 0 1

/-- A capability word with a capability destination and a scalar source (R73). -/
def capScalar (k : BitVec 4 → BitVec 4 → BitVec 5 → Instr) (d a b c : Nat) : Decoded :=
  if 16 ≤ d ∨ 16 ≤ a then .illegal 0 3
  else if c = 0 then .ok (k (.ofNat 4 d) (.ofNat 4 a) (.ofNat 5 b)) else .illegal 0 2

/-- A capability word of two capabilities (R73). -/
def capPair (k : BitVec 4 → BitVec 4 → Instr) (d a b c : Nat) : Decoded :=
  if 16 ≤ d ∨ 16 ≤ a then .illegal 0 3
  else if b = 0 ∧ c = 0 then .ok (k (.ofNat 4 d) (.ofNat 4 a)) else .illegal 0 2

/-- The capability group (R73). -/
def decodeCap (d a b c fn : Nat) : Decoded :=
  match fn with
  | 0x00 => capPair .kmov d a b c
  | 0x01 =>
    if 16 ≤ a then .illegal 0 3
    else if c ≠ 0 then .illegal 0 2
    else if 8 ≤ b then .illegal 0 4
    else .ok (.kfld (.ofNat 5 d) (.ofNat 4 a) (.ofNat 5 b))
  | 0x02 => capScalar .kstep d a b c
  | 0x03 => capScalar .kseek d a b c
  | 0x04 => capScalar .kclip d a b c
  | 0x05 => capScalar .kmask d a b c
  | 0x06 =>
    if 16 ≤ a ∨ 16 ≤ b then .illegal 0 3
    else if c = 0 then .ok (.kcover (.ofNat 5 d) (.ofNat 4 a) (.ofNat 4 b)) else .illegal 0 2
  | 0x07 => capPair .kdrop d a b c
  | _ => .illegal 0 1

/-- An RI shift, whose amount is below 64 (R72). -/
def shiftImm (k : BitVec 5 → BitVec 5 → BitVec 6 → Instr) (d a imm : Nat) : Decoded :=
  if imm < 64 then .ok (k (.ofNat 5 d) (.ofNat 5 a) (.ofNat 6 imm)) else .illegal 0 4

def immOp (k : BitVec 5 → BitVec 5 → BitVec 16 → Instr) (d a imm : Nat) : Decoded :=
  .ok (k (.ofNat 5 d) (.ofNat 5 a) (.ofNat 16 imm))

/-- A load by its size code (R74). For ld.c and st.c with [25] set the reason is 3, a register out of range (DESIGN CHOICE, notes/assumptions/8.md). -/
def decodeLoad (data cap size off : Nat) : Decoded :=
  let o := BitVec.ofNat 14 off
  let d := BitVec.ofNat 5 data
  let c := BitVec.ofNat 4 cap
  match size with
  | 0 => .ok (.ldS8 d c o)
  | 1 => .ok (.ldZ8 d c o)
  | 2 => .ok (.ldS16 d c o)
  | 3 => .ok (.ldZ16 d c o)
  | 4 => .ok (.ldS32 d c o)
  | 5 => .ok (.ldZ32 d c o)
  | 6 => .ok (.ldD d c o)
  | _ => if 16 ≤ data then .illegal 0 3 else .ok (.ldC (.ofNat 4 data) c o)

/-- A store by its size code (R74). -/
def decodeStore (data cap size off : Nat) : Decoded :=
  let o := BitVec.ofNat 14 off
  let d := BitVec.ofNat 5 data
  let c := BitVec.ofNat 4 cap
  match size with
  | 0 => .ok (.stB d c o)
  | 2 => .ok (.stH d c o)
  | 4 => .ok (.stW d c o)
  | 6 => .ok (.stD d c o)
  | 7 => if 16 ≤ data then .illegal 0 3 else .ok (.stC (.ofNat 4 data) c o)
  | _ => .illegal 0 1

/-- A capability field of a SYS word, or reason 3 (R70); it is looked at before the word's reserved fields (DESIGN CHOICE, notes/assumptions/8.md). -/
def capField (n : Nat) (k : BitVec 4 → Decoded) : Decoded :=
  if 16 ≤ n then .illegal 0 3 else k (.ofNat 4 n)

/-- Fields that must be zero, or reason 2 (R75). -/
def zeros (n : Nat) (k : Decoded) : Decoded :=
  if n = 0 then k else .illegal 0 2

/-- An operand within its limit, or reason 4 (R75). -/
def limit (ok : Bool) (k : Decoded) : Decoded :=
  if ok then k else .illegal 0 4

/-- The major 0x30 group (R75, R125). -/
def decodeSys0 (d a sub imm : Nat) : Decoded :=
  let f := BitVec.ofNat 6 (imm % 64)
  let x := imm / 64 % 2 == 1
  match sub with
  | 0x00 => zeros (d + a + imm) (.ok .mark)
  | 0x01 => zeros (d + a + imm / 8) (limit (imm % 8 < 5) (.ok (.fence (.ofNat 3 imm))))
  | 0x02 => zeros (d + a + imm / 128 + b2n (!waitFlagOk (imm % 64) x)) (.ok (.waitf f x))
  | 0x03 => zeros (d + a + imm / 128) (limit (signalFlagOk (imm % 64) x) (.ok (.sigf f x)))
  | 0x04 => zeros (a + imm / 128 + b2n (!waitFlagOk (imm % 64) x)) (.ok (.tstf (.ofNat 5 d) f x))
  | 0x05 => zeros d (.ok (.idle (.ofNat 5 a) (.ofNat 10 imm)))
  | _ => .illegal 0 1

/-- The index of mtx and mfx (R134). -/
def nestIndexOk (imm : Nat) : Bool := imm / 64 % 4 == 0 && nestReg (imm % 64)

/-- The major 0x31 group (R75). -/
def decodeSys1 (d a sub imm : Nat) : Decoded :=
  let half := imm / 512 % 2 == 1
  let bank := imm / 256 % 2 == 1
  let reg := BitVec.ofNat 6 imm
  let q := BitVec.ofNat 4 imm
  match sub with
  | 0x00 => capField a fun c => zeros (d + imm) (.ok (.fork c))
  | 0x01 => zeros (d + a + imm) (.ok .rendez)
  | 0x02 => capField a fun c => zeros (imm / 16) (limit (imm % 16 < 3) (.ok (.push q (.ofNat 5 d) c)))
  | 0x03 => capField a fun c => zeros (d + imm / 16) (limit (imm % 16 < 3) (.ok (.pushc q c)))
  | 0x04 => zeros (a + imm / 16) (limit (imm % 16 < 2) (.ok (.pop (.ofNat 5 d) q)))
  | 0x05 => zeros d (limit (nestIndexOk imm) (.ok (.mtx half bank reg (.ofNat 5 a))))
  | 0x06 => zeros a (limit (nestIndexOk imm) (.ok (.mfx (.ofNat 5 d) half bank reg)))
  | _ => .illegal 0 1

/-- The major 0x32 group (R75). -/
def decodeSys2 (d a sub imm : Nat) : Decoded :=
  match sub with
  | 0x00 =>
    zeros (imm / 64) (limit (imm / 4 % 4 < 3) (.ok (.ralloc (.ofNat 5 d) (.ofNat 5 a) (.ofNat 2 imm) (.ofNat 2 (imm / 4))
      (imm / 16 % 2 == 1) (imm / 32 % 2 == 1))))
  | 0x01 => zeros (d + imm) (.ok (.rfree (.ofNat 5 a)))
  | 0x02 => zeros d (.ok (.rwax (.ofNat 5 a) (.ofNat 10 imm)))
  | 0x03 => capField a fun c => zeros imm (.ok (.launch (.ofNat 5 d) c))
  | 0x04 => zeros (a + imm / 4) (.ok (.lwait (.ofNat 5 d) (.ofNat 2 imm)))
  | 0x05 => zeros (d + a + imm / 4) (.ok (.cancel (.ofNat 2 imm)))
  | 0x06 => zeros (d + a + imm / 2) (.ok (.gate (imm % 2 == 1)))
  | 0x07 => zeros (a + imm) (.ok (.evpop (.ofNat 5 d)))
  | 0x08 => zeros (d + a + imm / 64) (.ok (.wpub (.ofNat 6 imm)))
  | 0x09 => zeros (d + a + imm / 64) (.ok (.wsync (.ofNat 6 imm)))
  | _ => .illegal 0 1

/-- The major 0x33 group (R75). -/
def decodeSys3 (d a sub imm : Nat) : Decoded :=
  match sub with
  | 0x00 => zeros (d + a) (.ok (.trap (.ofNat 10 imm)))
  | 0x01 => zeros (d + a + imm) (.ok .eret)
  | 0x02 => zeros (d + a) (.ok (.hcall (.ofNat 10 imm)))
  | 0x03 => zeros a (limit (sysReg imm) (.ok (.mfs (.ofNat 5 d) (.ofNat 10 imm))))
  | 0x04 => zeros d (limit (sysReg imm) (.ok (.mts (.ofNat 10 imm) (.ofNat 5 a))))
  | 0x05 => zeros (d + a + imm) (.ok .halt)
  | 0x06 => zeros (d + a + imm) (.ok .snap)
  | _ => .illegal 0 1

/-- A CC word (R70 to R75). -/
def decodeCC (w : Nat) : Decoded :=
  let d := field w 25 21
  let a := field w 20 16
  let b := field w 15 11
  let c := field w 10 6
  let fn := field w 5 0
  let imm := field w 15 0
  let sub := field w 15 10
  let imm10 := field w 9 0
  let bd := BitVec.ofNat 5 d
  let ba := BitVec.ofNat 5 a
  let bi := BitVec.ofNat 16 imm
  match field w 31 26 with
  | 0x00 => decodeAlu d a b c fn
  | 0x01 => immOp .addi d a imm
  | 0x02 => immOp .andi d a imm
  | 0x03 => immOp .ori d a imm
  | 0x04 => immOp .xori d a imm
  | 0x05 => shiftImm .shli d a imm
  | 0x06 => shiftImm .shri d a imm
  | 0x07 => shiftImm .srai d a imm
  | 0x08 => immOp .slti d a imm
  | 0x09 => immOp .sltni d a imm
  | 0x0A => zeros a (.ok (.lui bd bi))
  | 0x0B => immOp .orhi d a imm
  | 0x0C => immOp .orti d a imm
  | 0x0D => immOp .muli d a imm
  | 0x10 => .ok (.beq bd ba bi)
  | 0x11 => .ok (.bne bd ba bi)
  | 0x12 => .ok (.blt bd ba bi)
  | 0x13 => .ok (.bge bd ba bi)
  | 0x14 => .ok (.bltn bd ba bi)
  | 0x15 => .ok (.bgen bd ba bi)
  | 0x16 => zeros a (.ok (.loop bd bi))
  | 0x17 => .ok (.jmp (.ofNat 26 w))
  | 0x18 => .ok (.call (.ofNat 26 w))
  | 0x19 => decodeControl d a b c fn
  | 0x20 => decodeLoad d (field w 20 17) (field w 16 14) (field w 13 0)
  | 0x21 => decodeStore d (field w 20 17) (field w 16 14) (field w 13 0)
  | 0x22 => decodeAtomic d a b c fn
  | 0x23 => decodeCap d a b c fn
  | 0x30 => decodeSys0 d a sub imm10
  | 0x31 => decodeSys1 d a sub imm10
  | 0x32 => decodeSys2 d a sub imm10
  | 0x33 => decodeSys3 d a sub imm10
  | _ => .illegal 0 0

/-! ## VE words -/

/-- The fields of a VE word (R77). -/
def veFields (w : Nat) : VFields :=
  { ty := .ofNat 3 (field w 55 53), vd := .ofNat 7 (field w 52 46), va := .ofNat 7 (field w 45 39),
    vb := .ofNat 7 (field w 38 32), vc := .ofNat 7 (field w 31 25), pred := .ofNat 4 (field w 24 21), pmode := bitOf w 20,
    rnd := .ofNat 3 (field w 19 17), holdA := bitOf w 16, holdB := bitOf w 15, holdC := bitOf w 14, aux := .ofNat 14 w }

/-- A VE word (R77 to R81). -/
def decodeVE (w : Nat) : Decoded :=
  let op := field w 63 56
  let f := veFields w
  match veReason op f, veInstr op f with
  | none, some i => .ok i
  | some r, _ => .illegal 1 r
  | none, none => .illegal 1 0

/-! ## Sequencer words -/

/-- The families that meet a sequencer opcode: the shared words by all three, lend by two (R84). -/
def seqFamilies (op : Nat) : List Family :=
  if op ≤ 0x0C then [.matrix, .lift, .coll]
  else if 0x20 ≤ op ∧ op ≤ 0x2A then [.matrix]
  else if op = 0x47 then [.lift, .coll]
  else if 0x40 ≤ op ∧ op ≤ 0x46 then [.lift]
  else if 0x60 ≤ op ∧ op ≤ 0x65 then [.coll]
  else []

/-- A sequencer word read without regard to the stream that meets it: the instruction or the reason (R82 to R84). -/
def decodeSeqWord (w : Nat) : Except Nat Instr :=
  if w / 32768 % 2 = 0 then .ok (.lit (.ofNat 15 w))
  else
    let x := w % 256
    let z (k : Nat) (i : Instr) : Except Nat Instr := if k = 0 then .ok i else .error 2
    let slot := BitVec.ofNat 4 x
    let flag := BitVec.ofNat 6 x
    let six := x / 64 % 2 == 1
    match field w 14 8 with
    | 0x00 => .ok (.seqIdle (.ofNat 8 x))
    | 0x01 => z x .idlew
    | 0x02 => z x .cat
    | 0x03 => z x .dup
    | 0x04 => z x .drop
    | 0x05 => z x .swap
    | 0x06 => z x .sadd
    | 0x07 => z x .sneg
    | 0x08 => if 1 ≤ x ∧ x < 64 then .ok (.sshl (.ofNat 6 x)) else .error 4
    | 0x09 => z (x / 128 + b2n (!waitFlagOk (x % 64) six)) (.seqWaitf flag six)
    | 0x0A => if x / 128 = 0 then (if signalFlagOk (x % 64) six then .ok (.seqSigf flag six) else .error 4) else .error 2
    | 0x0B => .ok (.rep (.ofNat 8 x))
    | 0x0C => z x .endr
    | 0x20 => z (x / 16) (.claim slot)
    | 0x21 => z (x / 16) (.release slot)
    | 0x22 => z (x / 16) (.fill slot)
    | 0x23 => z (x / 16) (.sfill slot)
    | 0x24 => z (x / 16) (.dfill slot)
    | 0x25 => z (x / 2) (.mnest (x % 2 == 1))
    | 0x26 => z (x / 2 % 2) (.mgo (.ofNat 4 (x / 16)) (x / 8 % 2 == 1) (x / 4 % 2 == 1) (x % 2 == 1))
    | 0x27 => z x .promote
    | 0x28 => z (x / 4) (.aclr (x / 2 % 2 == 1) (x % 2 == 1))
    | 0x29 => z (x / 8) (.aout (x / 4 % 2 == 1) (x / 2 % 2 == 1) (x % 2 == 1))
    | 0x2A => z x .mend
    | 0x40 => z (x / 2) (.lrec (x % 2 == 1))
    | 0x41 => z (x / 64 + (if x / 16 % 2 = 0 then x % 16 else 0)) (.copy (x / 32 % 2 == 1) (x / 16 % 2 == 1) slot)
    | 0x42 => z (x / 64 + (if x / 16 % 2 = 0 then x % 16 else 0)) (.copyz (x / 32 % 2 == 1) (x / 16 % 2 == 1) slot)
    | 0x43 => z x .chain
    | 0x44 => z x .crcset
    | 0x45 => z x .crcchk
    | 0x46 => z x .lfence
    | 0x47 => z x .lend
    | 0x60 => z x .csend
    | 0x61 => z x .crecv
    | 0x62 => if x / 8 = 0 then (if x < 5 then .ok (.creduce (.ofNat 3 x)) else .error 4) else .error 2
    | 0x63 => z x .cgather
    | 0x64 => z x .cbar
    | 0x65 => z x .cwait
    | _ => .error 0

/-- The family number of ECAUSE.INFO (R69). -/
def familyCode : Family → Nat
  | .cc => 0
  | .ve => 1
  | .matrix => 2
  | .lift => 3
  | .coll => 4

/-- A sequencer word met by a stream of family `fam` (R69, R84). -/
def decodeSeq (fam : Family) (w : Nat) : Decoded :=
  let op := field w 14 8
  if 32768 ≤ w % 65536 && (seqFamilies op).isEmpty then .illegal (familyCode fam) 0
  else if 32768 ≤ w % 65536 && !(seqFamilies op).contains fam then .illegal (familyCode fam) 6
  else
    match decodeSeqWord w with
    | .ok i => .ok i
    | .error r => .illegal (familyCode fam) r

/-! ## The encoder -/

/-- An RR word (R70). -/
def encRR (mj d a b c fn : Nat) : Nat :=
  mj * 0x4000000 + d * 0x200000 + a * 0x10000 + b * 0x800 + c * 0x40 + fn

/-- An RI or BR word (R70). -/
def encRI (mj d a imm : Nat) : Nat :=
  mj * 0x4000000 + d * 0x200000 + a * 0x10000 + imm

/-- A J word (R70). -/
def encJ (mj disp : Nat) : Nat := mj * 0x4000000 + disp

/-- A MEM word (R70). -/
def encMem (mj data cap size off : Nat) : Nat :=
  mj * 0x4000000 + data * 0x200000 + cap * 0x20000 + size * 0x4000 + off

/-- A SYS word (R70). -/
def encSys (mj d a sub imm : Nat) : Nat :=
  mj * 0x4000000 + d * 0x200000 + a * 0x10000 + sub * 0x400 + imm

/-- An atomic word (R73). -/
def encAtom (op : Nat) (dbl : Bool) (d : BitVec 5) (a : BitVec 4) (b : BitVec 5) (c : Nat) : Nat :=
  encRR 0x22 d.toNat a.toNat b.toNat c (op + 32 * b2n dbl)

/-- A VE word (R77). -/
def encVE (op : Nat) (f : VFields) : Nat :=
  op * 2 ^ 56 + f.ty.toNat * 2 ^ 53 + f.vd.toNat * 2 ^ 46 + f.va.toNat * 2 ^ 39 + f.vb.toNat * 2 ^ 32 + f.vc.toNat * 2 ^ 25
    + f.pred.toNat * 2 ^ 21 + b2n f.pmode * 2 ^ 20 + f.rnd.toNat * 2 ^ 17 + b2n f.holdA * 2 ^ 16 + b2n f.holdB * 2 ^ 15
    + b2n f.holdC * 2 ^ 14 + f.aux.toNat

/-- A sequencer word (R82). -/
def encSeq (op x : Nat) : Nat := 32768 + op * 256 + x

/-- The word of a CC or sequencer instruction, with its width in bits; none for VE words and events. -/
def encodePlain : Instr → Option (Nat × Nat)
  | .add d a b => some (32, encRR 0 d.toNat a.toNat b.toNat 0 0x00)
  | .sub d a b => some (32, encRR 0 d.toNat a.toNat b.toNat 0 0x01)
  | .andR d a b => some (32, encRR 0 d.toNat a.toNat b.toNat 0 0x02)
  | .orR d a b => some (32, encRR 0 d.toNat a.toNat b.toNat 0 0x03)
  | .xorR d a b => some (32, encRR 0 d.toNat a.toNat b.toNat 0 0x04)
  | .andn d a b => some (32, encRR 0 d.toNat a.toNat b.toNat 0 0x05)
  | .shl d a b => some (32, encRR 0 d.toNat a.toNat b.toNat 0 0x06)
  | .shr d a b => some (32, encRR 0 d.toNat a.toNat b.toNat 0 0x07)
  | .sra d a b => some (32, encRR 0 d.toNat a.toNat b.toNat 0 0x08)
  | .slt d a b => some (32, encRR 0 d.toNat a.toNat b.toNat 0 0x09)
  | .sltn d a b => some (32, encRR 0 d.toNat a.toNat b.toNat 0 0x0A)
  | .seq d a b => some (32, encRR 0 d.toNat a.toNat b.toNat 0 0x0B)
  | .minR d a b => some (32, encRR 0 d.toNat a.toNat b.toNat 0 0x0C)
  | .maxR d a b => some (32, encRR 0 d.toNat a.toNat b.toNat 0 0x0D)
  | .minn d a b => some (32, encRR 0 d.toNat a.toNat b.toNat 0 0x0E)
  | .maxn d a b => some (32, encRR 0 d.toNat a.toNat b.toNat 0 0x0F)
  | .mul d a b => some (32, encRR 0 d.toNat a.toNat b.toNat 0 0x10)
  | .mulh d a b => some (32, encRR 0 d.toNat a.toNat b.toNat 0 0x11)
  | .mulhn d a b => some (32, encRR 0 d.toNat a.toNat b.toNat 0 0x12)
  | .div d a b => some (32, encRR 0 d.toNat a.toNat b.toNat 0 0x13)
  | .divn d a b => some (32, encRR 0 d.toNat a.toNat b.toNat 0 0x14)
  | .rem d a b => some (32, encRR 0 d.toNat a.toNat b.toNat 0 0x15)
  | .remn d a b => some (32, encRR 0 d.toNat a.toNat b.toNat 0 0x16)
  | .sel d a b c => some (32, encRR 0 d.toNat a.toNat b.toNat c.toNat 0x17)
  | .clz d a => some (32, encRR 0 d.toNat a.toNat 0 0 0x18)
  | .ctz d a => some (32, encRR 0 d.toNat a.toNat 0 0 0x19)
  | .popc d a => some (32, encRR 0 d.toNat a.toNat 0 0 0x1A)
  | .addw d a b => some (32, encRR 0 d.toNat a.toNat b.toNat 0 0x1B)
  | .subw d a b => some (32, encRR 0 d.toNat a.toNat b.toNat 0 0x1C)
  | .addi d a imm => some (32, encRI 0x01 d.toNat a.toNat imm.toNat)
  | .andi d a imm => some (32, encRI 0x02 d.toNat a.toNat imm.toNat)
  | .ori d a imm => some (32, encRI 0x03 d.toNat a.toNat imm.toNat)
  | .xori d a imm => some (32, encRI 0x04 d.toNat a.toNat imm.toNat)
  | .shli d a imm => some (32, encRI 0x05 d.toNat a.toNat imm.toNat)
  | .shri d a imm => some (32, encRI 0x06 d.toNat a.toNat imm.toNat)
  | .srai d a imm => some (32, encRI 0x07 d.toNat a.toNat imm.toNat)
  | .slti d a imm => some (32, encRI 0x08 d.toNat a.toNat imm.toNat)
  | .sltni d a imm => some (32, encRI 0x09 d.toNat a.toNat imm.toNat)
  | .lui d imm => some (32, encRI 0x0A d.toNat 0 imm.toNat)
  | .orhi d a imm => some (32, encRI 0x0B d.toNat a.toNat imm.toNat)
  | .orti d a imm => some (32, encRI 0x0C d.toNat a.toNat imm.toNat)
  | .muli d a imm => some (32, encRI 0x0D d.toNat a.toNat imm.toNat)
  | .beq a b disp => some (32, encRI 0x10 a.toNat b.toNat disp.toNat)
  | .bne a b disp => some (32, encRI 0x11 a.toNat b.toNat disp.toNat)
  | .blt a b disp => some (32, encRI 0x12 a.toNat b.toNat disp.toNat)
  | .bge a b disp => some (32, encRI 0x13 a.toNat b.toNat disp.toNat)
  | .bltn a b disp => some (32, encRI 0x14 a.toNat b.toNat disp.toNat)
  | .bgen a b disp => some (32, encRI 0x15 a.toNat b.toNat disp.toNat)
  | .loop a disp => some (32, encRI 0x16 a.toNat 0 disp.toNat)
  | .jmp disp => some (32, encJ 0x17 disp.toNat)
  | .call disp => some (32, encJ 0x18 disp.toNat)
  | .ret => some (32, encRR 0x19 0 0 0 0 0)
  | .jr a => some (32, encRR 0x19 0 a.toNat 0 0 1)
  | .callr a => some (32, encRR 0x19 0 a.toNat 0 0 2)
  | .ldS8 d c off => some (32, encMem 0x20 d.toNat c.toNat 0 off.toNat)
  | .ldZ8 d c off => some (32, encMem 0x20 d.toNat c.toNat 1 off.toNat)
  | .ldS16 d c off => some (32, encMem 0x20 d.toNat c.toNat 2 off.toNat)
  | .ldZ16 d c off => some (32, encMem 0x20 d.toNat c.toNat 3 off.toNat)
  | .ldS32 d c off => some (32, encMem 0x20 d.toNat c.toNat 4 off.toNat)
  | .ldZ32 d c off => some (32, encMem 0x20 d.toNat c.toNat 5 off.toNat)
  | .ldD d c off => some (32, encMem 0x20 d.toNat c.toNat 6 off.toNat)
  | .ldC d c off => some (32, encMem 0x20 d.toNat c.toNat 7 off.toNat)
  | .stB d c off => some (32, encMem 0x21 d.toNat c.toNat 0 off.toNat)
  | .stH d c off => some (32, encMem 0x21 d.toNat c.toNat 2 off.toNat)
  | .stW d c off => some (32, encMem 0x21 d.toNat c.toNat 4 off.toNat)
  | .stD d c off => some (32, encMem 0x21 d.toNat c.toNat 6 off.toNat)
  | .stC d c off => some (32, encMem 0x21 d.toNat c.toNat 7 off.toNat)
  | .amoadd dbl d a b => some (32, encAtom 0x00 dbl d a b 0)
  | .amoand dbl d a b => some (32, encAtom 0x01 dbl d a b 0)
  | .amoor dbl d a b => some (32, encAtom 0x02 dbl d a b 0)
  | .amoxor dbl d a b => some (32, encAtom 0x03 dbl d a b 0)
  | .amoswap dbl d a b => some (32, encAtom 0x04 dbl d a b 0)
  | .amomin dbl d a b => some (32, encAtom 0x05 dbl d a b 0)
  | .amomax dbl d a b => some (32, encAtom 0x06 dbl d a b 0)
  | .amominn dbl d a b => some (32, encAtom 0x07 dbl d a b 0)
  | .amomaxn dbl d a b => some (32, encAtom 0x08 dbl d a b 0)
  | .cas dbl d a b c => some (32, encAtom 0x10 dbl d a b c.toNat)
  | .kmov d a => some (32, encRR 0x23 d.toNat a.toNat 0 0 0)
  | .kfld d a sel => some (32, encRR 0x23 d.toNat a.toNat sel.toNat 0 1)
  | .kstep d a b => some (32, encRR 0x23 d.toNat a.toNat b.toNat 0 2)
  | .kseek d a b => some (32, encRR 0x23 d.toNat a.toNat b.toNat 0 3)
  | .kclip d a b => some (32, encRR 0x23 d.toNat a.toNat b.toNat 0 4)
  | .kmask d a b => some (32, encRR 0x23 d.toNat a.toNat b.toNat 0 5)
  | .kcover d a b => some (32, encRR 0x23 d.toNat a.toNat b.toNat 0 6)
  | .kdrop d a => some (32, encRR 0x23 d.toNat a.toNat 0 0 7)
  | .mark => some (32, encSys 0x30 0 0 0x00 0)
  | .fence scope => some (32, encSys 0x30 0 0 0x01 scope.toNat)
  | .waitf f clr => some (32, encSys 0x30 0 0 0x02 (f.toNat + 64 * b2n clr))
  | .sigf f val => some (32, encSys 0x30 0 0 0x03 (f.toNat + 64 * b2n val))
  | .tstf d f clr => some (32, encSys 0x30 d.toNat 0 0x04 (f.toNat + 64 * b2n clr))
  | .idle a n => some (32, encSys 0x30 0 a.toNat 0x05 n.toNat)
  | .fork a => some (32, encSys 0x31 0 a.toNat 0x00 0)
  | .rendez => some (32, encSys 0x31 0 0 0x01 0)
  | .push q d a => some (32, encSys 0x31 d.toNat a.toNat 0x02 q.toNat)
  | .pushc q a => some (32, encSys 0x31 0 a.toNat 0x03 q.toNat)
  | .pop d q => some (32, encSys 0x31 d.toNat 0 0x04 q.toNat)
  | .mtx half bank reg a => some (32, encSys 0x31 0 a.toNat 0x05 (b2n half * 512 + b2n bank * 256 + reg.toNat))
  | .mfx d half bank reg => some (32, encSys 0x31 d.toNat 0 0x06 (b2n half * 512 + b2n bank * 256 + reg.toNat))
  | .ralloc d a cls policy per com => some (32, encSys 0x32 d.toNat a.toNat 0x00 (cls.toNat + 4 * policy.toNat + 16 * b2n per + 32 * b2n com))
  | .rfree a => some (32, encSys 0x32 0 a.toNat 0x01 0)
  | .rwax a n => some (32, encSys 0x32 0 a.toNat 0x02 n.toNat)
  | .launch d a => some (32, encSys 0x32 d.toNat a.toNat 0x03 0)
  | .lwait d level => some (32, encSys 0x32 d.toNat 0 0x04 level.toNat)
  | .cancel level => some (32, encSys 0x32 0 0 0x05 level.toNat)
  | .gate p => some (32, encSys 0x32 0 0 0x06 (b2n p))
  | .evpop d => some (32, encSys 0x32 d.toNat 0 0x07 0)
  | .wpub w => some (32, encSys 0x32 0 0 0x08 w.toNat)
  | .wsync w => some (32, encSys 0x32 0 0 0x09 w.toNat)
  | .trap n => some (32, encSys 0x33 0 0 0x00 n.toNat)
  | .eret => some (32, encSys 0x33 0 0 0x01 0)
  | .hcall n => some (32, encSys 0x33 0 0 0x02 n.toNat)
  | .mfs d reg => some (32, encSys 0x33 d.toNat 0 0x03 reg.toNat)
  | .mts reg a => some (32, encSys 0x33 0 a.toNat 0x04 reg.toNat)
  | .halt => some (32, encSys 0x33 0 0 0x05 0)
  | .snap => some (32, encSys 0x33 0 0 0x06 0)
  | .lit v => some (16, v.toNat)
  | .seqIdle n => some (16, encSeq 0x00 n.toNat)
  | .idlew => some (16, encSeq 0x01 0)
  | .cat => some (16, encSeq 0x02 0)
  | .dup => some (16, encSeq 0x03 0)
  | .drop => some (16, encSeq 0x04 0)
  | .swap => some (16, encSeq 0x05 0)
  | .sadd => some (16, encSeq 0x06 0)
  | .sneg => some (16, encSeq 0x07 0)
  | .sshl k => some (16, encSeq 0x08 k.toNat)
  | .seqWaitf f clr => some (16, encSeq 0x09 (f.toNat + 64 * b2n clr))
  | .seqSigf f val => some (16, encSeq 0x0A (f.toNat + 64 * b2n val))
  | .rep n => some (16, encSeq 0x0B n.toNat)
  | .endr => some (16, encSeq 0x0C 0)
  | .claim slot => some (16, encSeq 0x20 slot.toNat)
  | .release slot => some (16, encSeq 0x21 slot.toNat)
  | .fill slot => some (16, encSeq 0x22 slot.toNat)
  | .sfill slot => some (16, encSeq 0x23 slot.toNat)
  | .dfill slot => some (16, encSeq 0x24 slot.toNat)
  | .mnest bank => some (16, encSeq 0x25 (b2n bank))
  | .mgo p whole acc bank => some (16, encSeq 0x26 (p.toNat * 16 + b2n whole * 8 + b2n acc * 4 + b2n bank))
  | .promote => some (16, encSeq 0x27 0)
  | .aclr whole bank => some (16, encSeq 0x28 (b2n whole * 2 + b2n bank))
  | .aout tile whole bank => some (16, encSeq 0x29 (b2n tile * 4 + b2n whole * 2 + b2n bank))
  | .mend => some (16, encSeq 0x2A 0)
  | .lrec n => some (16, encSeq 0x40 (b2n n))
  | .copy tile tok fifo => some (16, encSeq 0x41 (b2n tile * 32 + b2n tok * 16 + fifo.toNat))
  | .copyz tile tok fifo => some (16, encSeq 0x42 (b2n tile * 32 + b2n tok * 16 + fifo.toNat))
  | .chain => some (16, encSeq 0x43 0)
  | .crcset => some (16, encSeq 0x44 0)
  | .crcchk => some (16, encSeq 0x45 0)
  | .lfence => some (16, encSeq 0x46 0)
  | .lend => some (16, encSeq 0x47 0)
  | .csend => some (16, encSeq 0x60 0)
  | .crecv => some (16, encSeq 0x61 0)
  | .creduce op => some (16, encSeq 0x62 op.toNat)
  | .cgather => some (16, encSeq 0x63 0)
  | .cbar => some (16, encSeq 0x64 0)
  | .cwait => some (16, encSeq 0x65 0)
  | _ => none

/-- The word of an instruction with its width in bits, by the encoding tables of 03; none for an event. -/
def encode (i : Instr) : Option (Nat × Nat) :=
  match i.veParts with
  | some (op, f) => some (64, encVE op f)
  | none => encodePlain i

/-- Decoding by width: CC, VE or any sequencer word. -/
def decodeWidth (nbits w : Nat) : Option Instr :=
  match nbits with
  | 32 =>
    match decodeCC w with
    | .ok i => some i
    | .illegal _ _ => none
  | 64 =>
    match decodeVE w with
    | .ok i => some i
    | .illegal _ _ => none
  | 16 =>
    match decodeSeqWord w with
    | .ok i => some i
    | .error _ => none
  | _ => none

/-- The instruction the decoder reads from a table word: its bytes are laid out little-endian (R68) and read back. -/
def decodeTableWord (nbits w : Nat) : Option Instr :=
  decodeWidth nbits (leNat (leBytes (nbits / 8) w))

end Sys2Proof
end

