-- ==== Sys2Proof/Machine/Alu.lean ====
section
/-!
DEFINITION. The integer arithmetic of the control core: the ALU group and the RI-form words (04 R95 to R102).
-/

namespace Sys2Proof.Machine

open Host (Outcome)

/-- 1 or 0 (R99). -/
def truth (b : Bool) : Word := if b then 1 else 0

/-- The low 32 bits, sign-extended (R99). -/
def low32 (v : Word) : Word := (v.setWidth 32).signExtend 64

/-- Leading zero bits (R99). -/
def leadingZeros (v : Word) : Word := .ofNat 64 (64 - ((List.range 65).find? fun n => v.toNat < 2 ^ n).getD 64)

/-- Trailing zero bits (R99). -/
def trailingZeros (v : Word) : Word := .ofNat 64 (((List.range 64).find? fun n => v.getLsbD n).getD 64)

/-- Number of one bits (R99). -/
def oneBits (v : Word) : Word := .ofNat 64 ((List.range 64).filter fun n => v.getLsbD n).length

/-- Signed division truncating toward zero, total (R100). -/
def divS (a b : Word) : Word := if b = 0 then -1 else .ofInt 64 (a.toInt.tdiv b.toInt)

/-- The remainder with the dividend's sign (R100). -/
def remS (a b : Word) : Word := if b = 0 then a else .ofInt 64 (a.toInt.tmod b.toInt)

def divU (a b : Word) : Word := if b = 0 then -1 else .ofNat 64 (a.toNat / b.toNat)

def remU (a b : Word) : Word := if b = 0 then a else .ofNat 64 (a.toNat % b.toNat)

/-- Bits [127:64] of the signed product (R99). -/
def mulHigh (a b : Word) : Word := .ofInt 64 (a.toInt * b.toInt / 2 ^ 64)

/-- Bits [127:64] of the natural product (R99). -/
def mulHighN (a b : Word) : Word := .ofNat 64 (a.toNat * b.toNat / 2 ^ 64)

def minS (a b : Word) : Word := if a.slt b then a else b
def maxS (a b : Word) : Word := if a.slt b then b else a
def minU (a b : Word) : Word := if a.ult b then a else b
def maxU (a b : Word) : Word := if a.ult b then b else a

/-- sext64 and zext64 of an immediate (R101). -/
def sextImm (imm : BitVec 16) : Word := imm.signExtend 64
def zextImm (imm : BitVec 16) : Word := imm.setWidth 64

/-- Two sources. -/
def rrWord (d a b : BitVec 5) (lat : Nat) (f : Word → Word → Word) (s : State) : Outcome State Fault Refusal :=
  .next (scalarWord [a, b] d lat (f (getS (myCtx s) a) (getS (myCtx s) b)) s)

/-- One source. -/
def rWord (d a : BitVec 5) (lat : Nat) (f : Word → Word) (s : State) : Outcome State Fault Refusal :=
  .next (scalarWord [a] d lat (f (getS (myCtx s) a)) s)

/-- A divide holds the context's divider for its latency of 34 beats (R95, R96). -/
def divWord (d a b : BitVec 5) (f : Word → Word → Word) (s : State) : Outcome State Fault Refusal :=
  let now := (mySite s).now
  let x := myCtx s
  let v := f (getS x a) (getS x b)
  .next (ccWord [readS now x a, readS now x b, writeS now 34 x d, hitIf (decide (now < x.divFree)) (.stall 5 0 6 none)] 1
    (modMyCtx fun y => { putS now 34 d v y with divFree := now + 34 }) s)

/-- ADD (R99), latency 1 (R95). -/
def execAdd (d a b : BitVec 5) (s : State) : Outcome State Fault Refusal :=
  rrWord d a b 1 (fun x y => x + y) s

/-- SUB (R99), latency 1 (R95). -/
def execSub (d a b : BitVec 5) (s : State) : Outcome State Fault Refusal :=
  rrWord d a b 1 (fun x y => x - y) s

/-- AND (R99), latency 1 (R95). -/
def execAnd (d a b : BitVec 5) (s : State) : Outcome State Fault Refusal :=
  rrWord d a b 1 (fun x y => x &&& y) s

/-- OR (R99), latency 1 (R95). -/
def execOr (d a b : BitVec 5) (s : State) : Outcome State Fault Refusal :=
  rrWord d a b 1 (fun x y => x ||| y) s

/-- XOR (R99), latency 1 (R95). -/
def execXor (d a b : BitVec 5) (s : State) : Outcome State Fault Refusal :=
  rrWord d a b 1 (fun x y => x ^^^ y) s

/-- ANDN (R99), latency 1 (R95). -/
def execAndn (d a b : BitVec 5) (s : State) : Outcome State Fault Refusal :=
  rrWord d a b 1 (fun x y => x &&& ~~~y) s

/-- SHL (R99), latency 1 (R95). -/
def execShl (d a b : BitVec 5) (s : State) : Outcome State Fault Refusal :=
  rrWord d a b 1 (fun x y => x <<< (y.toNat % 64)) s

/-- SHR (R99), latency 1 (R95). -/
def execShr (d a b : BitVec 5) (s : State) : Outcome State Fault Refusal :=
  rrWord d a b 1 (fun x y => x >>> (y.toNat % 64)) s

/-- SRA (R99), latency 1 (R95). -/
def execSra (d a b : BitVec 5) (s : State) : Outcome State Fault Refusal :=
  rrWord d a b 1 (fun x y => x.sshiftRight (y.toNat % 64)) s

/-- SLT (R99), latency 1 (R95). -/
def execSlt (d a b : BitVec 5) (s : State) : Outcome State Fault Refusal :=
  rrWord d a b 1 (fun x y => truth (x.slt y)) s

/-- SLTN (R99), latency 1 (R95). -/
def execSltn (d a b : BitVec 5) (s : State) : Outcome State Fault Refusal :=
  rrWord d a b 1 (fun x y => truth (x.ult y)) s

/-- SEQ (R99), latency 1 (R95). -/
def execSeq (d a b : BitVec 5) (s : State) : Outcome State Fault Refusal :=
  rrWord d a b 1 (fun x y => truth (x == y)) s

/-- MIN (R99), latency 1 (R95). -/
def execMin (d a b : BitVec 5) (s : State) : Outcome State Fault Refusal :=
  rrWord d a b 1 minS s

/-- MAX (R99), latency 1 (R95). -/
def execMax (d a b : BitVec 5) (s : State) : Outcome State Fault Refusal :=
  rrWord d a b 1 maxS s

/-- MINN (R99), latency 1 (R95). -/
def execMinn (d a b : BitVec 5) (s : State) : Outcome State Fault Refusal :=
  rrWord d a b 1 minU s

/-- MAXN (R99), latency 1 (R95). -/
def execMaxn (d a b : BitVec 5) (s : State) : Outcome State Fault Refusal :=
  rrWord d a b 1 maxU s

/-- MUL (R99), latency 3 (R95). -/
def execMul (d a b : BitVec 5) (s : State) : Outcome State Fault Refusal :=
  rrWord d a b 3 (fun x y => x * y) s

/-- MULH (R99), latency 4 (R95). -/
def execMulh (d a b : BitVec 5) (s : State) : Outcome State Fault Refusal :=
  rrWord d a b 4 mulHigh s

/-- MULHN (R99), latency 4 (R95). -/
def execMulhn (d a b : BitVec 5) (s : State) : Outcome State Fault Refusal :=
  rrWord d a b 4 mulHighN s

/-- DIV (R100), latency 34 (R95). -/
def execDiv (d a b : BitVec 5) (s : State) : Outcome State Fault Refusal :=
  divWord d a b divS s

/-- DIVN (R100), latency 34 (R95). -/
def execDivn (d a b : BitVec 5) (s : State) : Outcome State Fault Refusal :=
  divWord d a b divU s

/-- REM (R100), latency 34 (R95). -/
def execRem (d a b : BitVec 5) (s : State) : Outcome State Fault Refusal :=
  divWord d a b remS s

/-- REMN (R100), latency 34 (R95). -/
def execRemn (d a b : BitVec 5) (s : State) : Outcome State Fault Refusal :=
  divWord d a b remU s

/-- SEL (R99, R102): all three operands are read. -/
def execSel (d a b c : BitVec 5) (s : State) : Outcome State Fault Refusal :=
  let x := myCtx s
  .next (scalarWord [a, b, c] d 1 (if getS x c ≠ 0 then getS x a else getS x b) s)

/-- CLZ (R99). -/
def execClz (d a : BitVec 5) (s : State) : Outcome State Fault Refusal :=
  rWord d a 1 leadingZeros s

/-- CTZ (R99). -/
def execCtz (d a : BitVec 5) (s : State) : Outcome State Fault Refusal :=
  rWord d a 1 trailingZeros s

/-- POPC (R99). -/
def execPopc (d a : BitVec 5) (s : State) : Outcome State Fault Refusal :=
  rWord d a 1 oneBits s

/-- ADDW (R99). -/
def execAddw (d a b : BitVec 5) (s : State) : Outcome State Fault Refusal :=
  rrWord d a b 1 (fun x y => low32 (x + y)) s

/-- SUBW (R99). -/
def execSubw (d a b : BitVec 5) (s : State) : Outcome State Fault Refusal :=
  rrWord d a b 1 (fun x y => low32 (x - y)) s

/-- ADDI (R101). -/
def execAddi (d a : BitVec 5) (imm : BitVec 16) (s : State) : Outcome State Fault Refusal :=
  rWord d a 1 (fun x => x + sextImm imm) s

/-- ANDI (R101). -/
def execAndi (d a : BitVec 5) (imm : BitVec 16) (s : State) : Outcome State Fault Refusal :=
  rWord d a 1 (fun x => x &&& zextImm imm) s

/-- ORI (R101). -/
def execOri (d a : BitVec 5) (imm : BitVec 16) (s : State) : Outcome State Fault Refusal :=
  rWord d a 1 (fun x => x ||| zextImm imm) s

/-- XORI (R101). -/
def execXori (d a : BitVec 5) (imm : BitVec 16) (s : State) : Outcome State Fault Refusal :=
  rWord d a 1 (fun x => x ^^^ zextImm imm) s

/-- SHLI (R101). -/
def execShli (d a : BitVec 5) (imm : BitVec 6) (s : State) : Outcome State Fault Refusal :=
  rWord d a 1 (fun x => x <<< imm.toNat) s

/-- SHRI (R101). -/
def execShri (d a : BitVec 5) (imm : BitVec 6) (s : State) : Outcome State Fault Refusal :=
  rWord d a 1 (fun x => x >>> imm.toNat) s

/-- SRAI (R101). -/
def execSrai (d a : BitVec 5) (imm : BitVec 6) (s : State) : Outcome State Fault Refusal :=
  rWord d a 1 (fun x => x.sshiftRight imm.toNat) s

/-- SLTI (R101). -/
def execSlti (d a : BitVec 5) (imm : BitVec 16) (s : State) : Outcome State Fault Refusal :=
  rWord d a 1 (fun x => truth (x.slt (sextImm imm))) s

/-- SLTNI (R101): natural compare with the sign-extended immediate. -/
def execSltni (d a : BitVec 5) (imm : BitVec 16) (s : State) : Outcome State Fault Refusal :=
  rWord d a 1 (fun x => truth (x.ult (sextImm imm))) s

/-- LUI (R101). -/
def execLui (d : BitVec 5) (imm : BitVec 16) (s : State) : Outcome State Fault Refusal :=
  .next (scalarWord [] d 1 (zextImm imm <<< 16) s)

/-- ORHI (R101). -/
def execOrhi (d a : BitVec 5) (imm : BitVec 16) (s : State) : Outcome State Fault Refusal :=
  rWord d a 1 (fun x => x ||| (zextImm imm <<< 32)) s

/-- ORTI (R101). -/
def execOrti (d a : BitVec 5) (imm : BitVec 16) (s : State) : Outcome State Fault Refusal :=
  rWord d a 1 (fun x => x ||| (zextImm imm <<< 48)) s

/-- MULI (R101), latency 3 (R95). -/
def execMuli (d a : BitVec 5) (imm : BitVec 16) (s : State) : Outcome State Fault Refusal :=
  rWord d a 3 (fun x => x * sextImm imm) s

end Sys2Proof.Machine
end

