-- ==== Sys2Proof/Machine/Control.lean ====
section
/-!
DEFINITION. Control transfers of the control core (04 R103 to R110).
-/

namespace Sys2Proof.Machine

open Host (Outcome)

/-- The address `n` words of 4 bytes from `pc` (03 R71). -/
def wordTarget (pc : Word) (n : Int) : Word := pc + .ofInt 64 (4 * n)

/-- A control transfer in a delay slot (R108). -/
def slotHit (x : Ctx) : Option Hit := hitIf (x.slots != 0) (.trap 1 0x0700)

/-- Data-dependent transfers are not permitted in timetabled mode (R110). -/
def branchHit (x : Ctx) : Option Hit := hitIf x.ctl.timetabled (.trap 0x0D 0)

/-- The target lies in the code capability (R107). -/
def targetHit (x : Ctx) (taken : Bool) (target : Word) : Option Hit :=
  hitIf (taken && !x.code.inBounds target.toNat 4) (.trap 9 0)

/-- The program counter after a transfer: two delay slots, then the target or the word after them (R103). -/
def transferPc (taken : Bool) (target : Word) (x : Ctx) : Ctx :=
  { x with npc := if taken then target else x.pc + 12, pc := x.pc + 4, slots := 2 }

/-- A control transfer: its checks, its effect on the registers, then its delay slots. -/
def transfer (hits : List (Option Hit)) (taken : Bool) (target : Word) (effect : Ctx → Ctx) (s : State) : State :=
  let x := myCtx s
  match firstHit (hits ++ [targetHit x taken target]) with
  | some h => ccStop h s
  | none => modMyCtx (fun x => ccIssue (mySite s).now 1 (transferPc taken target (effect x))) s

/-- The conditional branches of R104. -/
def branch (a b : BitVec 5) (disp : BitVec 16) (taken : Word → Word → Bool) (s : State) : Outcome State Fault Refusal :=
  let now := (mySite s).now
  let x := myCtx s
  .next (transfer [slotHit x, branchHit x, readS now x a, readS now x b] (taken (getS x a) (getS x b))
    (wordTarget x.pc disp.toInt) id s)

/-- BEQ (R104). -/
def execBeq (a b : BitVec 5) (disp : BitVec 16) (s : State) : Outcome State Fault Refusal :=
  branch a b disp (fun x y => x == y) s

/-- BNE (R104). -/
def execBne (a b : BitVec 5) (disp : BitVec 16) (s : State) : Outcome State Fault Refusal :=
  branch a b disp (fun x y => x != y) s

/-- BLT (R104). -/
def execBlt (a b : BitVec 5) (disp : BitVec 16) (s : State) : Outcome State Fault Refusal :=
  branch a b disp (fun x y => x.slt y) s

/-- BGE (R104). -/
def execBge (a b : BitVec 5) (disp : BitVec 16) (s : State) : Outcome State Fault Refusal :=
  branch a b disp (fun x y => !x.slt y) s

/-- BLTN (R104). -/
def execBltn (a b : BitVec 5) (disp : BitVec 16) (s : State) : Outcome State Fault Refusal :=
  branch a b disp (fun x y => x.ult y) s

/-- BGEN (R104). -/
def execBgen (a b : BitVec 5) (disp : BitVec 16) (s : State) : Outcome State Fault Refusal :=
  branch a b disp (fun x y => !x.ult y) s

/-- The counter of a loop after it: one less, zero staying zero (R105). -/
def loopCount (v : Word) : Word := if v = 0 then 0 else v - 1

/-- LOOP (R105). A loop whose counter reads zero writes nothing. -/
def execLoop (a : BitVec 5) (disp : BitVec 16) (s : State) : Outcome State Fault Refusal :=
  let now := (mySite s).now
  let x := myCtx s
  let v := getS x a
  .next (transfer [slotHit x, readS now x a, writeS now 1 x a] (loopCount v != 0) (wordTarget x.pc disp.toInt)
    (if v = 0 then id else putS now 1 a (loopCount v)) s)

/-- JMP (R106). -/
def execJmp (disp : BitVec 26) (s : State) : Outcome State Fault Refusal :=
  let x := myCtx s
  .next (transfer [slotHit x] true (wordTarget x.pc disp.toInt) id s)

/-- A return address is pushed (02 R64, R106). -/
def pushReturn (x : Ctx) : Ctx :=
  { x with trap := { x.trap with rse := x.trap.rse.put x.trap.rscnt.toNat (x.pc + 12), rscnt := x.trap.rscnt + 1 } }

def overflowHit (x : Ctx) : Option Hit := hitIf (decide (16 ≤ x.trap.rscnt.toNat)) (.trap 0x0B 0)

/-- CALL (R106). -/
def execCall (disp : BitVec 26) (s : State) : Outcome State Fault Refusal :=
  let x := myCtx s
  .next (transfer [slotHit x, overflowHit x] true (wordTarget x.pc disp.toInt) pushReturn s)

/-- RET (R106). -/
def execRet (s : State) : Outcome State Fault Refusal :=
  let x := myCtx s
  let n := x.trap.rscnt.toNat
  .next (transfer [slotHit x, hitIf (n == 0) (.trap 0x0C 0)] true (x.trap.rse.get 0 (n - 1))
    (fun x => { x with trap := { x.trap with rscnt := x.trap.rscnt - 1 } }) s)

/-- The checks of R107 on the capability of jr, callr and fork. -/
def jumpHits (c : Cap) : List (Option Hit) :=
  [hitIf (!c.tag) (.trap 4 0), hitIf (!c.hasX) (.trap 6 0), hitIf (!c.inBounds c.cursor 4) (.trap 5 0),
   hitIf (c.cursor % 4 != 0) (.trap 8 0)]

/-- JR (R107). -/
def execJr (a : BitVec 4) (s : State) : Outcome State Fault Refusal :=
  let now := (mySite s).now
  let x := myCtx s
  let c := getA x a
  .next (transfer ([slotHit x, branchHit x, readA now x a] ++ jumpHits c) true (.ofNat 64 c.cursor) id s)

/-- CALLR (R106): the checks on the capability, then on the target, then the overflow check. -/
def execCallr (a : BitVec 4) (s : State) : Outcome State Fault Refusal :=
  let now := (mySite s).now
  let x := myCtx s
  let c := getA x a
  .next (transfer ([slotHit x, branchHit x, readA now x a] ++ jumpHits c
      ++ [targetHit x true (.ofNat 64 c.cursor), overflowHit x]) true (.ofNat 64 c.cursor) pushReturn s)

end Sys2Proof.Machine
end

