-- ==== Sys2Proof/Machine/Memory.lean ====
section
/-!
DEFINITION. Loads, stores, MARK, FENCE and atomics of the control core, as they issue (04 R111 to R120). An access in free mode
enters its buffer (R114); in timetabled mode a TM access enters the pipeline of the core that holds the byte (R115).
-/

namespace Sys2Proof.Machine

open Host (Outcome)

/-! ## Bank and granule conflicts (09 R247, R249, 10 R258) -/

/-- The row groups a span of bytes reaches. -/
def spanGroups (sp : Nat × Nat × Bool) : List Nat :=
  let a := sp.1 / 4096
  let b := (sp.1 + sp.2.1 - 1) / 4096
  if sp.2.1 = 0 || a = b then [a] else [a, b]

def spanGranules (sp : Nat × Nat × Bool) : List Nat :=
  if sp.2.1 = 0 then [] else (List.range ((sp.1 + sp.2.1 - 1) / 16 + 1 - sp.1 / 16)).map (· + sp.1 / 16)

/-- The row groups whose banks the running fills hold in a beat (07 R198). One that starts in this beat is set against the requests of the beat as it
ends (10 R258). -/
def fillGroups (c : Site) (due : Nat) : List Nat :=
  (c.half0.fills ++ c.half1.fills).flatMap fun f =>
    match f.started with
    | some b => if b ≤ due && due ≤ f.ends && b != c.now then f.banks else []
    | none => []

/-- The row groups whose banks a fill holds in this beat, its first one too (07 R198, 10 R257). A fill that gave its banks up to an older request does not
have them. -/
def heldGroups (c : Site) : List Nat :=
  (c.half0.fills ++ c.half1.fills).flatMap fun f =>
    match f.started with
    | some b => if b ≤ c.now && c.now ≤ f.ends && f.gave != c.now + 1 then f.banks else []
    | none => []

/-- The spans of a context's buffered accesses to the core's own TM that are due in a beat. -/
def bufferSpans (x : Ctx) (due : Nat) : List (Nat × Nat × Bool) :=
  let span (w : Bool) (a : Access) : Option (Nat × Nat × Bool) :=
    match a.target with
    | .tm _ addr => if a.due = due ∧ a.lat = 2 then some (addr, a.len, w) else none
    | _ => none
  x.buf.loads.filterMap (span false) ++ x.buf.stores.filterMap (span true)

/-- The place of a request in R258's order within one beat: contexts 0 and 1, the VE, the two halves, accesses that arrive from other cores by their
direction, rwax. A refresh the device placed takes its beat whoever asks (R271). -/
def precedence (p : Pend) : Nat :=
  match p.via, p.act with
  | some v, _ => 5 + v.2
  | none, .refresh _ => if p.stream = 9 then 0 else 10
  | none, _ => p.stream

/-- A request stands before one of place `me` that is asked for in this beat: it is older, or comes first in the beat (10 R258). -/
def standsBefore (c : Site) (me : Nat) (p : Pend) : Bool := decide (p.made < c.now ∨ precedence p ≤ me)

/-- The spans already due in a beat that a request of place `me` yields to. -/
def dueSpans (c : Site) (me due : Nat) : List (Nat × Nat × Bool) :=
  ((c.pipe.filter fun p => p.due == due && standsBefore c me p).flatMap fun p => actSpans p.act) ++ bufferSpans c.ctx0 due ++ bufferSpans c.ctx1 due

/-- The clash of spans with others and with row groups a fill holds: the slip's kind and detail. A granule conflict goes before a bank
conflict (log entry 8). Lanes that name two row groups of one bank conflict with themselves (10 R258). -/
def clashOf (old : List (Nat × Nat × Bool)) (held : List Nat) (new : List (Nat × Nat × Bool)) : Option (Nat × Nat) :=
  let granule := new.any fun a => old.any fun b =>
    (a.2.2 || b.2.2) && (spanGranules a).any fun g => (spanGranules b).contains g
  if granule then some (8, 0)
  else
    let groups := (old.flatMap spanGroups) ++ held
    let mine := (new.flatMap spanGroups).dedup
    match mine.find? fun g => groups.any (fun h => h % 16 == g % 16) || mine.any (fun h => h % 16 == g % 16 && h != g) with
    | some g => some (7, g % 16)
    | none => none

/-- A conflict of new spans with what is due in the same beat. -/
def conflict (c : Site) (me due : Nat) (new : List (Nat × Nat × Bool)) : Option (Nat × Nat) := clashOf (dueSpans c me due) (fillGroups c due) new

/-- The first of `n` beats from `due` on in which spans meet no conflict. -/
def freeFrom (c : Site) (me : Nat) (spans : List (Nat × Nat × Bool)) : Nat → Nat → Nat
  | 0, due => due
  | n + 1, due => if (conflict c me due spans).isNone then due else freeFrom c me spans n (due + 1)

/-- The latest beat for which a TM bank is spoken for. -/
def horizon (c : Site) : Nat :=
  let m := c.pipe.foldl (fun m p => max m p.due) 0
  let m := (c.half0.fills ++ c.half1.fills).foldl (fun m f => if f.started.isSome then max m f.ends else m) m
  (c.ctx0.buf.loads ++ c.ctx0.buf.stores ++ c.ctx1.buf.loads ++ c.ctx1.buf.stores).foldl (fun m a => max m a.due) m

/-- The first beat from `due` on in which spans meet no conflict: the delay of a free-mode access (10 R258). -/
def freeBeat (c : Site) (me : Nat) (spans : List (Nat × Nat × Bool)) (due : Nat) : Nat :=
  freeFrom c me spans (horizon c + 1 - due) due

/-- The parts of a free access in their order, each from its beat on in the first beat in which it meets no conflict and after the part before it; and the
beats so lost (10 R258). The first comes no earlier than beat `first`. -/
def placeFree (c : Site) (me first : Nat) (ps : List Pend) : List Pend × Nat :=
  let q := ps.foldl (fun (q : List Pend × Nat × Nat) p =>
    let want := max q.2.1 p.due
    let due := freeBeat c me (actSpans p.act) want
    (q.1 ++ [{ p with due := due }], due + 1, q.2.2 + (due - want))) ([], first, 0)
  (q.1, q.2.2)

/-- The parts of an access enter the pipeline; a beat lost to a bank conflict is counted (15 R374). -/
def addPends (live : Nat → Bool) (r : Nat) (ps : List Pend × Nat) (c : Site) : Site := countEvent live r 0x08 ps.2 { c with pipe := c.pipe ++ ps.1 }

/-! ## The checks of R111 -/

/-- The spaces an access may name in timetabled mode (R112). -/
def spaceHit (timetabled : Bool) (space : Nat) : Option Hit :=
  hitIf (timetabled && space != 2 && space != 3) (.trap 0x0E 0)

/-- Steps 1 to 5 of R111. Configuration space takes doublewords only. -/
def capHits (timetabled : Bool) (c : Cap) (va n : Nat) (ld st stc : Bool) : List (Option Hit) :=
  [hitIf (!c.tag) (.trap 4 0),
   spaceHit timetabled c.space,
   hitIf ((ld && !c.hasLD) || (st && !c.hasST) || (stc && !c.hasSTC) || (c.space == 6 && (!c.hasSYS || n != 8))) (.trap 6 0),
   hitIf (!c.inBounds va n) (.trap 5 0),
   hitIf (va % n != 0) (.trap 7 0)]

/-- The core and TM address a TM capability's address names: none is a region fault (14 R334). A core absent from the place
table holds no region of the rink. -/
def tmPlace (s : State) (r space va : Nat) : Option (Nat × Nat) :=
  if space = 2 then (if va < 2 ^ 24 then some (s.cur.site, va) else none)
  else if field va 63 57 = 0 ∧ field va 47 24 = 0 then
    (siteOfLogical r (field va 56 48) s).map fun k => (k, va % 2 ^ 24)
  else none

/-- The fault of a TM capability's address that names no place: above 0xBFFFFF, or on a core that is not the rink's (10 R278). -/
def noPlace (space va : Nat) : Hit := .tmTrap 0x17 0 (if space = 2 ∨ field va 47 24 ≠ 0 then 5 else 1) (va % 2 ^ 24)

/-- The blocks of configuration space and who reaches them (14 R360): an access that is not reachable faults. The PF names a core by its
physical site, with INST [15] set (15). Blocks: 0x01 core, 0x02 rink, 0x03 die, 0x04 translation, 0x05 window, 0x06 key. -/
def configReach (s : State) (who : Requester) (addr : Nat) : Bool :=
  let inst := field addr 31 16
  let own (r : Nat) : Bool := match who with
    | .pf => true
    | .rink q => q == r
  let fn : Option Nat := match who with
    | .pf => none
    | .rink q => some (rinkFn q s)
  addr < 2 ^ 40 &&
    match field addr 39 32 with
    | 1 => (match who with
            | .pf => decide (32768 ≤ inst ∧ inst < 32768 + 288)
            | .rink q => (siteOfLogical q inst s).isSome)
    | 2 => (inst == 0xFFFF && who != .pf) || (inst < 64 && own inst)
    | 3 => inst < 2
    | 4 => inst == 0xFFFF || (inst ≤ 64 && (fn.isNone || fn == some inst))
    | 5 => inst < 64
    | 6 => who == .pf && inst == 0
    | _ => false

/-- A store of the context that waits in its buffer makes a group valid before a later load of it is performed (04 R114). -/
def bufferedGroup (x : Ctx) (k g : Nat) : Bool :=
  x.buf.stores.any fun a => match a.target with
    | .tm j addr => j == k && decide (addr < g * 4096 + 4096 ∧ g * 4096 < addr + a.len)
    | _ => false

/-- Step 6: where the access goes. Host space needs Bus Master Enable (14 R359). -/
def resolve (r space va n : Nat) (ld st : Bool) (s : State) : Except Hit Target × State :=
  match space with
  | 2 | 3 =>
    match tmPlace s r space va with
    | none => (.error (noPlace space va), s)
    | some (k, a) =>
      let h := if k = s.cur.site then 0 else latency r ((logicalOfSite r s.cur.site s).getD 0) ((logicalOfSite r k s).getD 0) s
      match tmCheck (site k s) r a n ld (fun g => comingGroup (site k s) ((site k s).now + 2 + h) g || bufferedGroup (myCtx s) k g) 0 with
      | some h => (.error (h.onSite k), s)
      | none => (.ok (.tm k a), s)
  | 5 => if (fnOf (rinkFn r s) s).busMaster then (.ok (.hostBus (rinkFn r s) va), s) else (.error (.trap 0x2B 0), s)
  | 6 => if configReach s (.rink r) va then (.ok (.config va), s) else (.error (.trap 0x2C 0), s)
  | _ =>
    match translateCC s r space va st with
    | (.error e, s') => (.error (walkHit s r e), s')
    | (.ok p, s') => (.ok (.machine (p.ma + (va - p.va)) (p.ia + (va - p.va)) p.key), s')

/-! ## The mesh (09 R246) -/

/-- The logical positions on the route from `u` to `v`, along the source row, then along the destination column, each with the launch time in which the
packet leaves it, or for the last comes to it. -/
def routeFrom : Nat → Nat × Nat → Nat × Nat → Nat → List ((Nat × Nat) × Nat)
  | 0, _, _, _ => []
  | n + 1, u, v, t =>
    if u.1 < v.1 then (u, t) :: routeFrom n (u.1 + 1, u.2) v (t + 2)
    else if v.1 < u.1 then (u, t) :: routeFrom n (u.1 - 1, u.2) v (t + 2)
    else if v.2 < u.2 then (u, t) :: routeFrom n (u.1, u.2 - 1) v (if u.2 = 12 then t + 6 else t + 2)
    else if u.2 < v.2 then (u, t) :: routeFrom n (u.1, u.2 + 1) v (if u.2 = 11 then t + 6 else t + 2)
    else [(u, t)]

def posOf (r l : Nat) (s : State) : Nat × Nat :=
  let e := (rink r s).place.get Place.reset l
  (e.col, e.row)

/-- The core of a launch's unit at a logical position, as its site. -/
def unitAtPos (r : Nat) (l : Launch) (p : Nat × Nat) (s : State) : Option Nat :=
  (l.units.find? fun u => match logicalOfSite r u.site s with
    | some n => posOf r n s == p
    | none => false).map (·.site)

/-- The physical column and row of a site (R246). -/
def physOf (k : Nat) : Nat × Nat := (k % 12, k / 12)

/-- The direction of the link by which a packet leaves site `a` for site `b`: 0 east, 1 west, 2 north, 3 south, 4 bridge. -/
def leavesBy (a b : Nat) : Nat :=
  let p := physOf a
  let q := physOf b
  if p.1 < q.1 then 0 else if q.1 < p.1 then 1
  else if q.2 < p.2 then (if p.2 = 12 then 4 else 2) else if p.2 = 11 then 4 else 3

/-- The direction in which a packet comes to position `q` on the last hop of its way from `p`, along the row, then along the column. -/
def wayTo (p q : Nat × Nat) : Nat :=
  if q.2 < p.2 then (if q.2 = 11 then 4 else 2)
  else if p.2 < q.2 then (if q.2 = 12 then 4 else 3)
  else if p.1 < q.1 then 0 else 1

/-- The direction of the link by which a packet from site `a` comes to site `b`. -/
def comesBy (a b : Nat) : Nat := wayTo (physOf a) (physOf b)

/-- The sites of the launch's units on a route, with their times; none is a route escape (R246). -/
def meshPath (r : Nat) (l : Launch) (t u v : Nat) (s : State) : Option (List (Nat × Nat)) :=
  let ks := (routeFrom 64 (posOf r u s) (posOf r v s) t).map fun e => (unitAtPos r l e.1 s).map fun k => (k, e.2)
  if ks.all (·.isSome) then some (ks.filterMap id) else none

/-- The links of a path, as packet, site, direction and time; the last is the arrival, which takes no link (15). -/
def linksOf (n : Nat) : List (Nat × Nat) → List (Nat × Nat × Nat × Nat)
  | a :: b :: ps => (n, a.1, leavesBy a.1 b.1, a.2) :: linksOf n (b :: ps)
  | [a] => [(n, a.1, 15, a.2)]
  | [] => []

/-- The direction in which a path comes to its end. -/
def arrivesBy : List (Nat × Nat) → Nat
  | [a, b] => comesBy a.1 b.1
  | _ :: ps => arrivesBy ps
  | [] => 0

/-- The links a timetabled access issued by `u` at launch time `t` to core `v` takes, forth and, for a load, back, and the direction in which it
arrives. None is a route escape (R246). The reply of a load leaves the far router in the beat in which the load is performed (DESIGN CHOICE,
notes/assumptions/42.md). -/
def meshLinks (r : Nat) (l : Launch) (t u v : Nat) (load : Bool) (s : State) : Option (List (Nat × Nat × Nat × Nat) × Nat) :=
  let n := l.packets.length
  (meshPath r l (t + 2) u v s).bind fun out =>
    if load then (meshPath r l (t + 2 + latency r u v s) v u s).map fun back => (linksOf n out ++ linksOf (n + out.length) back, arrivesBy out)
    else some (linksOf n out, arrivesBy out)

/-- The beats on which this access's packets meet another packet of the lane on a link: a collision at that core (R246, R249). -/
def meshCollisions (l : Launch) (links : List (Nat × Nat × Nat × Nat)) : List (Nat × Nat × Nat × Nat) :=
  links.filter fun e => e.2.2.1 != 15 && l.packets.any fun q => q.2 == e.2

/-! ## Issue -/

/-- Where an access's result goes, or what it stores. -/
structure Mem1 where
  store : Bool
  len : Nat
  kind : LoadKind
  ldc : Bool
  dst : Nat
  data : List Byte
  tag : Bool

/-- The register an outstanding load writes is pending until its result is there (04 R96). -/
def setPending (kind : LoadKind) (dst : Nat) (b : Bool) (x : Ctx) : Ctx :=
  match kind with
  | .capability => { x with aElastic := setBit x.aElastic dst b }
  | _ => if dst = 0 then x else { x with sElastic := setBit x.sElastic dst b }

/-- The loaded value reaches its register (03 R74, 04 R111, R113): `tag` says that the bytes may carry one. -/
def finishLoad (now lat : Nat) (kind : LoadKind) (dst : Nat) (bytes : List Byte) (tag : Bool) (x : Ctx) : Ctx :=
  let v := leNat bytes
  let x' := setPending kind dst false x
  match kind with
  | .capability =>
    let b := BitVec.ofNat 128 v
    putA now lat (.ofNat 4 dst) ⟨b, tag && Cap.bitsOk b⟩ x'
  | .signed => putS now lat (.ofNat 5 dst) (.ofInt 64 (sext (8 * bytes.length) v)) x'
  | .unsigned => putS now lat (.ofNat 5 dst) (.ofNat 64 v) x'

/-- The register of a timetabled load is pending until beat `now + lat` (04 R95). -/
def reserve (now lat : Nat) (kind : LoadKind) (dst : Nat) (x : Ctx) : Ctx :=
  match kind with
  | .capability => { x with aReady := x.aReady.put dst (now + lat) }
  | _ => if dst = 0 then x else { x with sReady := x.sReady.put dst (now + lat) }

/-- The action of a timetabled TM access at the core that holds the byte. -/
def tmAct (m : Mem1) (src : Nat) (x : Side) (addr : Nat) : Act :=
  if m.store then .tmStore addr m.data (if m.kind = .capability then some m.tag else none)
  else .ccLoad src x addr m.len m.kind m.ldc m.dst

/-- A timetabled TM access issues: it is performed at b + 2 + h at core `k`, and a load's result comes at b + 4 + 2h (R115). -/
def issueTimed (m : Mem1) (k addr : Nat) (s : State) : State :=
  let c := mySite s
  let r := myRink s
  let home := (logicalOfSite r s.cur.site s).getD 0
  let away := (logicalOfSite r k s).getD 0
  let remote := k != s.cur.site
  let h := if remote then latency r home away s else 0
  let act := tmAct m s.cur.site s.cur.ctx addr
  let unit := if remote then unitAt r s.cur.site s else none
  let t := match unit with
    | some p => launchTime p.1 s.cur.site
    | none => 0
  let due := match unit with
    | some p => (site k s).now + (t + 2 + h - launchTime p.1 k)
    | none => (site k s).now + 2 + h
  let mesh := unit.map fun p => (p.1, meshLinks r p.1 t home away (!m.store) s)
  match mesh with
  | some (_, none) => ccStop (.stall 10 0 0 none) s
  | _ =>
    let met := match mesh with
      | some (l, some p) => meshCollisions l p.1
      | _ => []
    let via := match mesh with
      | some (_, some p) => some (s.cur.site, p.2)
      | _ => none
    let p : Pend := ⟨due, (site k s).now, ctxHead s.cur.ctx, via, r, false, act⟩
    match if met.isEmpty then conflict (site k s) (precedence p) due (actSpans act) else none with
    | some (kind, detail) => ccStop (.stall kind detail 0 none) s
    | none =>
      let s1 := modSite k (fun d => { d with pipe := d.pipe ++ [p] }) s
      let s2 := if m.store then s1 else modMyCtx (reserve c.now (4 + 2 * h) m.kind m.dst) s1
      let s3 := match mesh with
        | some (l, some p) =>
          let lane := b2n (rink r s).lane
          let s' := met.foldl (fun s e => modSite e.2.1 (fun d =>
            { d with pipe := d.pipe ++ [⟨d.now + (e.2.2.2 - launchTime l e.2.1), d.now, 8, some (s.cur.site, e.2.2.1), r, false, .collision e.2.2.1 lane⟩] }) s) s2
          let n := if m.store then 1 else 2
          let s3 := countShared (dieOfSite s.cur.site) 5 1 (rinkFn r s) n (modMySite (countEvent (liveJob s) r 0x0E n) s')
          modLaunch r l.lctr (fun l => { l with packets := l.packets ++ p.1 }) s3
        | _ => s2
      modMyCtx (fun x => ccIssue c.now 1 (advancePc x)) s3

/-- A free-mode access enters its buffer, or waits for room in it (R114). -/
def issueFree (m : Mem1) (space va : Nat) (t : Target) (s : State) : State :=
  let c := mySite s
  let x := myCtx s
  let full := if m.store then decide (16 ≤ x.buf.stores.length) else decide (8 ≤ x.buf.loads.length)
  if full then ccStop (.stall 2 0 0 none) s
  else
    let r := myRink s
    let h := match t with
      | .tm k _ => if k = s.cur.site then 0 else latency r ((logicalOfSite r s.cur.site s).getD 0) ((logicalOfSite r k s).getD 0) s
      | _ => 0
    let lat := match t with
      | .tm _ _ => 2 + h
      | _ => 0
    let due := match t with
      | .tm k addr => if k = s.cur.site then freeBeat c (ctxHead s.cur.ctx) [(addr, m.len, m.store)] (c.now + 2) else c.now + 2 + h
      | _ => c.now + 2
    let a : Access := { space := space, va := va, target := t, len := m.len, data := m.data, tag := m.tag, kind := m.kind, ldc := m.ldc,
                        dst := m.dst, epoch := x.buf.epoch, order := x.buf.count, made := c.now, due := due, lat := lat }
    let away := match t with
      | .tm k _ => k != s.cur.site
      | .config _ => false
      | _ => true
    modMyCtx (fun x =>
      let b := { x.buf with count := x.buf.count + 1 }
      let y := if m.store then { x with buf := { b with stores := b.stores ++ [a] } }
               else setPending m.kind m.dst true { x with buf := { b with loads := b.loads ++ [a] } }
      ccIssue c.now 1 (advancePc y))
      (if away then elasticTraffic s.cur.site r s else modMySite (countEvent (liveJob s) r 0x08 (due - (c.now + 2 + h))) s)

/-- The beats from a load's issue to its result: fixed from TM (04 R95), at the earliest at once from elsewhere. -/
def loadLatency (c : Cap) (va : Nat) (s : State) : Nat :=
  if c.space = 2 then 4
  else if c.space = 3 then 4 + 2 * latency (myRink s) ((logicalOfSite (myRink s) s.cur.site s).getD 0) (field va 56 48) s
  else 0

/-- A load or store: its checks in R111's order, then its issue. -/
def memWord (regs : List (Option Hit)) (cap : Cap) (va : Nat) (m : Mem1) (stc : Bool) (s : State) : State :=
  let x := myCtx s
  let hits := regs ++ capHits x.ctl.timetabled cap va m.len (!m.store) m.store stc
  match firstHit hits with
  | some h => ccStop h s
  | none =>
    match resolve (myRink s) cap.space va m.len (!m.store) m.store s with
    | (.error h, s') => ccStop h s'
    | (.ok t, s') =>
      match x.ctl.timetabled, t with
      | true, .tm k a => issueTimed m k a s'
      | _, _ => issueFree m cap.space va t s'

/-- The effective address of a MEM word (03 R71, 04 R111). -/
def memAddr (c : Cap) (off : BitVec 14) (n : Nat) : Nat := (BitVec.ofNat 64 c.cursor + .ofInt 64 (off.toInt * n)).toNat

/-- A data load of `n` bytes (R111). -/
def loadWord (d : BitVec 5) (cap : BitVec 4) (off : BitVec 14) (n : Nat) (kind : LoadKind) (s : State) : Outcome State Fault Refusal :=
  let now := (mySite s).now
  let x := myCtx s
  let c := getA x cap
  let va := memAddr c off n
  .next (memWord [readA now x cap, writeS now (loadLatency c va s) x d] c va ⟨false, n, kind, false, d.toNat, [], false⟩ false s)

/-- A data store of `n` bytes (R111). -/
def storeWord (d : BitVec 5) (cap : BitVec 4) (off : BitVec 14) (n : Nat) (s : State) : Outcome State Fault Refusal :=
  let now := (mySite s).now
  let x := myCtx s
  let c := getA x cap
  .next (memWord [readA now x cap, readS now x d] c (memAddr c off n)
    ⟨true, n, .unsigned, false, 0, leBytes n (getS x d).toNat, false⟩ false s)

/-- LD_S8 (R111). -/
def execLdS8 (d : BitVec 5) (cap : BitVec 4) (off : BitVec 14) (s : State) : Outcome State Fault Refusal :=
  loadWord d cap off 1 .signed s

/-- LD_Z8 (R111). -/
def execLdZ8 (d : BitVec 5) (cap : BitVec 4) (off : BitVec 14) (s : State) : Outcome State Fault Refusal :=
  loadWord d cap off 1 .unsigned s

/-- LD_S16 (R111). -/
def execLdS16 (d : BitVec 5) (cap : BitVec 4) (off : BitVec 14) (s : State) : Outcome State Fault Refusal :=
  loadWord d cap off 2 .signed s

/-- LD_Z16 (R111). -/
def execLdZ16 (d : BitVec 5) (cap : BitVec 4) (off : BitVec 14) (s : State) : Outcome State Fault Refusal :=
  loadWord d cap off 2 .unsigned s

/-- LD_S32 (R111). -/
def execLdS32 (d : BitVec 5) (cap : BitVec 4) (off : BitVec 14) (s : State) : Outcome State Fault Refusal :=
  loadWord d cap off 4 .signed s

/-- LD_Z32 (R111). -/
def execLdZ32 (d : BitVec 5) (cap : BitVec 4) (off : BitVec 14) (s : State) : Outcome State Fault Refusal :=
  loadWord d cap off 4 .unsigned s

/-- LD_D (R111). -/
def execLdD (d : BitVec 5) (cap : BitVec 4) (off : BitVec 14) (s : State) : Outcome State Fault Refusal :=
  loadWord d cap off 8 .unsigned s

/-- LD_C (R113). -/
def execLdC (d cap : BitVec 4) (off : BitVec 14) (s : State) : Outcome State Fault Refusal :=
  let now := (mySite s).now
  let x := myCtx s
  let c := getA x cap
  let va := memAddr c off 16
  .next (memWord [readA now x cap, writeA now (loadLatency c va s) x d] c va ⟨false, 16, .capability, c.hasLDC, d.toNat, [], false⟩ false s)

/-- ST_B (R111). -/
def execStB (d : BitVec 5) (cap : BitVec 4) (off : BitVec 14) (s : State) : Outcome State Fault Refusal :=
  storeWord d cap off 1 s

/-- ST_H (R111). -/
def execStH (d : BitVec 5) (cap : BitVec 4) (off : BitVec 14) (s : State) : Outcome State Fault Refusal :=
  storeWord d cap off 2 s

/-- ST_W (R111). -/
def execStW (d : BitVec 5) (cap : BitVec 4) (off : BitVec 14) (s : State) : Outcome State Fault Refusal :=
  storeWord d cap off 4 s

/-- ST_D (R111). -/
def execStD (d : BitVec 5) (cap : BitVec 4) (off : BitVec 14) (s : State) : Outcome State Fault Refusal :=
  storeWord d cap off 8 s

/-- ST_C (R113): a tagged capability also needs STC. -/
def execStC (d cap : BitVec 4) (off : BitVec 14) (s : State) : Outcome State Fault Refusal :=
  let now := (mySite s).now
  let x := myCtx s
  let c := getA x cap
  let v := getA x d
  .next (memWord [readA now x cap, readA now x d] c (memAddr c off 16)
    ⟨true, 16, .capability, false, 0, leBytes 16 v.bits.toNat, v.tag⟩ v.tag s)

/-! ## MARK and FENCE -/

/-- MARK (R116): a new epoch; no access of it is performed before every access of the earlier ones. It takes none of the 8 and 16 entries of the buffers it enters, and
waits for none (DESIGN CHOICE, notes/assumptions/42.md). -/
def execMark (s : State) : Outcome State Fault Refusal :=
  .next (ccWord [] 1 (modMyCtx fun x => { x with buf := { x.buf with epoch := x.buf.epoch + 1 } }) s)

/-- FENCE (R117, 11 R283): in free mode issue is held until every older access is performed and, at system scope, a zero-length read
sent to each function whose host space was written has returned. -/
def execFence (scope : BitVec 3) (s : State) : Outcome State Fault Refusal :=
  let x := myCtx s
  let done := ccWord [] 1 (modMyCtx fun x => { x with buf := { x.buf with epoch := x.buf.epoch + 1 } }) s
  if x.ctl.timetabled then .next done
  else if !drained x.buf || x.buf.hostReads != 0 then .next (ccStop (.stall 2 0 0 none) s)
  else if scope = 4 && !x.buf.hostDirty.isEmpty then
    let s1 := x.buf.hostDirty.foldl (fun s f => send (.zeroRead f) s) s
    .next (ccStop (.stall 2 0 0 none)
      (modMyCtx (fun x => { x with buf := { x.buf with hostReads := x.buf.hostDirty.length, hostDirty := [] } }) s1))
  else .next done

/-! ## Atomics -/

/-- AMO and CAS: R111's checks with LD and ST both required, in the HBM-global, capacity-tier and window spaces (R118). The request
is queued at the atomic unit once every older access is performed (R120); its result is elastic. -/
def atomicWord (op : AtomicOp) (dbl : Bool) (d : BitVec 5) (a : BitVec 4) (b : BitVec 5) (exp : Option (BitVec 5)) (s : State) :
    Outcome State Fault Refusal :=
  let now := (mySite s).now
  let x := myCtx s
  let c := getA x a
  let n := if dbl then 8 else 4
  let expHit := match exp with
    | some e => readS now x e
    | none => none
  let hits := [readA now x a, readS now x b, expHit, writeS now 0 x d,
    hitIf (!c.tag) (.trap 4 0),
    hitIf x.ctl.timetabled (.trap 0x0E 0),
    hitIf (c.space != 0 && c.space != 1 && c.space != 4) (.trap 0x0F 0),
    hitIf (!c.hasLD || !c.hasST) (.trap 6 0),
    hitIf (!c.inBounds c.cursor n) (.trap 5 0),
    hitIf (c.cursor % n != 0) (.trap 7 0)]
  match firstHit hits with
  | some h => .next (ccStop h s)
  | none =>
    match resolve (myRink s) c.space c.cursor n true true s with
    | (.error h, s') => .next (ccStop h s')
    | (.ok t, s') =>
      match t with
      | .machine ma ia key =>
        let bank := Config.bankOf (ma / 256)
        let q := s'.atomics.get AtomBank.reset bank
        if !drained x.buf || decide (64 ≤ q.q.length) then .next (ccStop (.stall 2 0 0 none) s')
        else
          let ev := match exp with
            | some e => getS x e
            | none => 0
          let req : AtomReq := { requester := 2 * s.cur.site + b2n s.cur.ctx, op := op, dbl := dbl, space := c.space, ma := ma, ia := ia, key := key,
                                 operand := getS x b, expected := ev, site := s.cur.site, ctx := s.cur.ctx, dst := d.toNat,
                                 wanted := true }
          let s1 := { s' with atomics := s'.atomics.put bank { q with q := q.q ++ [req] } }
          .next (modMyCtx (fun x =>
            let y := { x with buf := { x.buf with atomicOut := true } }
            ccIssue now 1 (advancePc (setPending .unsigned d.toNat true y))) s1)
      | _ => .next (ccStop (.trap 0x0F 0) s')

/-- AMOADD (R118). -/
def execAmoadd (dbl : Bool) (d : BitVec 5) (a : BitVec 4) (b : BitVec 5) (s : State) : Outcome State Fault Refusal :=
  atomicWord .add dbl d a b none s

/-- AMOAND (R118). -/
def execAmoand (dbl : Bool) (d : BitVec 5) (a : BitVec 4) (b : BitVec 5) (s : State) : Outcome State Fault Refusal :=
  atomicWord .and dbl d a b none s

/-- AMOOR (R118). -/
def execAmoor (dbl : Bool) (d : BitVec 5) (a : BitVec 4) (b : BitVec 5) (s : State) : Outcome State Fault Refusal :=
  atomicWord .or dbl d a b none s

/-- AMOXOR (R118). -/
def execAmoxor (dbl : Bool) (d : BitVec 5) (a : BitVec 4) (b : BitVec 5) (s : State) : Outcome State Fault Refusal :=
  atomicWord .xor dbl d a b none s

/-- AMOSWAP (R118). -/
def execAmoswap (dbl : Bool) (d : BitVec 5) (a : BitVec 4) (b : BitVec 5) (s : State) : Outcome State Fault Refusal :=
  atomicWord .swap dbl d a b none s

/-- AMOMIN (R118). -/
def execAmomin (dbl : Bool) (d : BitVec 5) (a : BitVec 4) (b : BitVec 5) (s : State) : Outcome State Fault Refusal :=
  atomicWord .min dbl d a b none s

/-- AMOMAX (R118). -/
def execAmomax (dbl : Bool) (d : BitVec 5) (a : BitVec 4) (b : BitVec 5) (s : State) : Outcome State Fault Refusal :=
  atomicWord .max dbl d a b none s

/-- AMOMINN (R118). -/
def execAmominn (dbl : Bool) (d : BitVec 5) (a : BitVec 4) (b : BitVec 5) (s : State) : Outcome State Fault Refusal :=
  atomicWord .minn dbl d a b none s

/-- AMOMAXN (R118). -/
def execAmomaxn (dbl : Bool) (d : BitVec 5) (a : BitVec 4) (b : BitVec 5) (s : State) : Outcome State Fault Refusal :=
  atomicWord .maxn dbl d a b none s

/-- CAS (R119). -/
def execCas (dbl : Bool) (d : BitVec 5) (a : BitVec 4) (b c : BitVec 5) (s : State) : Outcome State Fault Refusal :=
  atomicWord .cas dbl d a b (some c) s

end Sys2Proof.Machine
end

