-- ==== Sys2Proof/Machine/Engines.lean ====
section
/-!
DEFINITION. Flags, idle, the second context and the result FIFOs, as the control core reaches them (05 R125 to R128, R133).
-/

namespace Sys2Proof.Machine

open Host (Outcome)

/-- A flag of another rink (02 R57). -/
def flagHit (c : Site) (r f : Nat) : Option Hit := hitIf (!ownsFlag c r f) (.trap 0x14 0)

/-- What a wait does to its flag once it succeeds: a token is popped, `clr` clears (R125). -/
def consumeFlag (f : Nat) (clr : Bool) (c : Site) : Site :=
  if clr || (16 ≤ f && f < 32) then clearFlag f c else c

/-- WAITF (R125). -/
def execWaitf (f : BitVec 6) (clr : Bool) (s : State) : Outcome State Fault Refusal :=
  let c := mySite s
  .next (ccWord [flagHit c (myRink s) f.toNat, hitIf (!flagReady c f.toNat) (.stall 0 f.toNat 0 (some f.toNat))] 1
    (modMySite (consumeFlag f.toNat clr)) s)

/-- In free mode a set or push waits until every older store and atomic of the context is performed, counted as a wait on the flag (11
R286). -/
def releaseHit (x : Ctx) (f : Nat) : Option Hit :=
  hitIf (!x.ctl.timetabled && !(x.buf.stores.isEmpty && !x.buf.atomicOut)) (.stall 1 f 0 (some f))

/-- SIGF (R125): a clear or pop, or a set or push. -/
def execSigf (f : BitVec 6) (val : Bool) (s : State) : Outcome State Fault Refusal :=
  let c := mySite s
  let n := f.toNat
  if val then
    .next (ccWord [flagHit c (myRink s) n, releaseHit (myCtx s) n, hitIf (!pushRoom c n) (.stall 1 n 0 (some n))] 1
      (modMySite (setFlag n)) s)
  else
    .next (ccWord [flagHit c (myRink s) n, hitIf (16 ≤ n && n < 32 && !flagReady c n) (.stall 0 n 0 (some n))] 1
      (modMySite (clearFlag n)) s)

/-- TSTF (R125): it samples the flag before this beat's clears and sets, and never waits. -/
def execTstf (d : BitVec 5) (f : BitVec 6) (clr : Bool) (s : State) : Outcome State Fault Refusal :=
  let c := mySite s
  let v := flagSample c f.toNat
  .next (ccWord [flagHit c (myRink s) f.toNat, writeS c.now 1 (myCtx s) d] 1
    (fun s => modMySite (fun c => if clr && v then clearFlag f.toNat c else c) (modMyCtx (putS c.now 1 d (truth v)) s)) s)

/-- IDLE (R126): 1 + s[a] + n beats. -/
def execIdle (a : BitVec 5) (n : BitVec 10) (s : State) : Outcome State Fault Refusal :=
  let c := mySite s
  let x := myCtx s
  .next (ccWord [readS c.now x a] (1 + (getS x a + n.setWidth 64).toNat) id s)

/-! ## FORK and RENDEZ -/

/-- fork reads every register of the context: it issues once every earlier result is written, a divide included (R127). -/
def allWritten (now : Nat) (x : Ctx) : Bool :=
  x.sElastic == 0 && x.aElastic == 0 && decide (x.divFree ≤ now)
    && (List.range 32).all (fun r => decide (x.sReady.get 0 r ≤ now)) && (List.range 16).all fun r => decide (x.aReady.get 0 r ≤ now)

/-- The forked context (R127): its code capability is `cap`, its first word issues 2 beats after the fork. -/
def forkedCtx (now : Nat) (cap : Cap) (x old : Ctx) : Ctx :=
  { old with
    s := x.s, sValid := x.sValid, sReady := Table.fill 32 now, sElastic := 0,
    a := x.a, aValid := x.aValid, aReady := Table.fill 16 now, aElastic := 0, divFree := now,
    pc := .ofNat 64 cap.cursor, npc := 0, slots := 0, code := cap, fctl := x.fctl, srkey := x.srkey, fstat := 0,
    trap := { old.trap with rscnt := 0, epc := 0, enpc := 0, eds := 0, ecause := 0, handler := false, heldCode := Cap.null },
    rendezBeat := none, isUnit := x.isUnit, ib := [], ahead := [], fetching := false,
    ctl := { running := true, timetabled := false, next := now + 2, prepared := false, cls := .issuing } }

/-- FORK (R127). -/
def execFork (a : BitVec 4) (s : State) : Outcome State Fault Refusal :=
  let c := mySite s
  let x := myCtx s
  let other := ctxOf c (!s.cur.ctx)
  let cap := getA x a
  .next (ccWord ([needFree s,
      hitIf (!owns c (myRink s) (ctxHead (!s.cur.ctx))) (.trap 0x12 (b2n (!s.cur.ctx))),
      hitIf other.ctl.running (.trap 0x11 0),
      readA c.now x a,
      hitIf (!allWritten c.now x) (.stall 5 0 0 none)] ++ jumpHits cap) 1
    (modMySite (modCtx (!s.cur.ctx) (forkedCtx c.now cap x))) s)

/-- The other context is not one to meet: it is halted or belongs to another rink (R128). -/
def meetsNobody (c : Site) (r : Nat) (other : Side) : Bool :=
  !(ctxOf c other).ctl.running || !owns c r (ctxHead other)

/-- A rendez that has completed leaves its context to go on. -/
def passRendez (now : Nat) (x : Ctx) : Ctx := ccIssue now 1 (advancePc { x with rendezBeat := none })

/-- RENDEZ (R128). A context that meets its partner in this beat lets both go on. One that does not stays at its rendez; in
timetabled mode the end of the beat makes that a deviation. -/
def execRendez (s : State) : Outcome State Fault Refusal :=
  let c := mySite s
  let o := !s.cur.ctx
  if meetsNobody c (myRink s) o then .next (modMyCtx (passRendez c.now) s)
  else if (ctxOf c o).rendezBeat = some c.now then
    .next (modMySite (fun c => modCtx o (passRendez c.now) (modCtx s.cur.ctx (passRendez c.now) c)) s)
  else
    .next (modMyCtx (fun x =>
      { x with rendezBeat := some c.now, ctl := { x.ctl with next := c.now + 1, cls := .busy } }) s)

/-! ## POP and PUSHC -/

/-- The numeric flags of a detached collective merge into FSTAT of the context that issued it (R133, 08 R237). -/
def mergeElement (e : Word) (ctx : Side) (x : Ctx) : Ctx :=
  if e.getLsbD 55 && e.getLsbD 54 == ctx then { x with fstat := x.fstat ||| .ofNat 6 (field e.toNat 53 48) } else x

/-- POP (R133): code 0 is the collective completion FIFO, 1 the Lift status FIFO. -/
def execPop (d : BitVec 5) (q : BitVec 4) (s : State) : Outcome State Fault Refusal :=
  let c := mySite s
  let fifo := if q = 0 then c.q.collFifo else c.q.liftFifo
  match fifo with
  | [] => .next (ccWord [writeS c.now 1 (myCtx s) d, some (.stall 2 (if q = 0 then 4 else 5) 0 none)] 1 id s)
  | e :: rest =>
    .next (ccWord [writeS c.now 1 (myCtx s) d] 1 (fun s =>
      modMyCtx (fun x => putS c.now 1 d e (if q = 0 then mergeElement e s.cur.ctx x else x))
        (modMySite (modQ fun v => if q = 0 then { v with collFifo := rest } else { v with liftFifo := rest }) s)) s)

/-- The bases staged for a queue (R129). -/
def stagedOf (x : Ctx) (q : Nat) : List Base := x.staged.get [] q

/-- PUSHC (R129): the value the capability has now is staged. -/
def execPushc (q a : BitVec 4) (s : State) : Outcome State Fault Refusal :=
  let c := mySite s
  let x := myCtx s
  let cap := getA x a
  .next (ccWord [readA c.now x a,
      hitIf (!cap.tag) (.trap 4 0),
      hitIf (!cap.hasEN || cap.space == 6) (.trap 6 0),
      hitIf (decide (4 ≤ (stagedOf x q.toNat).length)) (.trap 0x15 0)] 1
    (modMyCtx fun x => { x with staged := x.staged.put q.toNat (stagedOf x q.toNat ++ [⟨cap, []⟩]) }) s)

end Sys2Proof.Machine
end

