-- ==== Sys2Proof/Machine/Image.lean ====
section
/-!
DEFINITION. Command images (08 R218 to R228) and PUSH, which checks, translates, pins and enqueues them (05 R130, R131).
-/

namespace Sys2Proof.Machine

open Host (Outcome)

/-! ## Layout records (R221) -/

structure Rec0 where
  tmaddr : Nat
  dims : Nat
  esz : Nat
  idx : Bool
  idim : Nat
  ibase : Nat
  counts : List Nat
  tstr : List Int
  ioff : Nat
  deriving DecidableEq, Repr

structure Rec1 where
  base : Nat
  off : Int
  fstr : List Int
  deriving DecidableEq, Repr

def leAt (b : List Byte) (i n : Nat) : Nat := leNat ((b.drop i).take n)

def parseRec0 (b : List Byte) : Rec0 :=
  let x4 := leAt b 4 1
  let x5 := leAt b 5 1
  { tmaddr := leAt b 0 3, dims := field x4 4 2, esz := 2 ^ field x4 1 0, idx := bitOf x5 7, idim := field x5 6 4, ibase := field x5 3 2,
    counts := (List.range 5).map fun d => leAt b (8 + 2 * d) 2, tstr := (List.range 5).map fun d => sext 16 (leAt b (18 + 2 * d) 2),
    ioff := leAt b 28 4 }

def parseRec1 (b : List Byte) : Rec1 :=
  { base := leAt b 0 4 % 4, off := sext 64 (leAt b 4 8), fstr := (List.range 5).map fun d => sext 32 (leAt b (12 + 4 * d) 4) }

/-- The fields of record 0 that R223's first row checks. -/
def rec0Ok (b : List Byte) : Bool :=
  let r := parseRec0 b
  leAt b 3 1 == 0 && field (leAt b 4 1) 7 5 == 0 && leAt b 5 1 % 4 == 0 && leAt b 6 2 == 0 && 1 ≤ r.dims && r.dims ≤ 5
    && r.idim < r.dims && (r.counts.drop r.dims).all (· == 0) && (r.tstr.drop r.dims).all (· == 0)

def rec1Ok (dims : Nat) (b : List Byte) : Bool :=
  leAt b 0 4 < 4 && ((parseRec1 b).fstr.drop dims).all (· == 0)

/-- The elements of the iteration space. -/
def copyCount (r : Rec0) : Nat := (r.counts.take r.dims).prod

/-- The least and greatest value of Σ i_d × stride_d over the iteration space. -/
def extremes (counts : List Nat) (strides : List Int) : Int × Int :=
  (counts.zip strides).foldl (fun acc cs =>
    let v : Int := ((cs.1 : Int) - 1) * cs.2
    (acc.1 + min 0 v, acc.2 + max 0 v)) (0, 0)

/-- The worst-case size of a ZRC code of `len` words (R228). -/
def zrcWorst (len : Nat) : Nat := 4 * len + 2 * ceilDiv len 16384 + 2

/-! ## Walking an image -/

/-- The halfwords of an image in order, each with its index, the records in force and whether it stands in a rep body; record
bodies are skipped. -/
structure ImgWord where
  at' : Nat
  word : Nat
  rec0 : Option (List Byte)
  rec1 : Option (List Byte)
  depth : Nat
  deriving DecidableEq, Repr

def halfBytes (w : BitVec 16) : List Byte := leBytes 2 w.toNat

def isLrec (w : Nat) : Bool := w == 0xC000 || w == 0xC001

/-- The words of an image; `fuel` is its length. A record cut short by the image's end leaves none in force. -/
def imgWords : Nat → Nat → List (BitVec 16) → Option (List Byte) → Option (List Byte) → Nat → Bool → List ImgWord
  | 0, _, _, _, _, _, _ => []
  | _, _, [], _, _, _, _ => []
  | n + 1, i, w :: ws, r0, r1, depth, lift =>
    let v := w.toNat
    let here : ImgWord := ⟨i, v, r0, r1, depth⟩
    if lift && isLrec v then
      let body := (ws.take 16).flatMap halfBytes
      let b := if body.length = 32 then some body else none
      here :: imgWords n (i + 17) (ws.drop 16) (if v = 0xC000 then b else r0) (if v = 0xC001 then b else r1) depth lift
    else
      let op := field v 14 8
      let d := if v < 32768 then depth else if op = 0x0B then depth + 1 else if op = 0x0C then depth - 1 else depth
      here :: imgWords n (i + 1) ws r0 r1 d lift

def wordsOf (lift : Bool) (ws : List (BitVec 16)) : List ImgWord := imgWords ws.length 0 ws none none 0 lift

/-- The grammar of R218 beyond the words themselves. -/
def grammarOk (lift : Bool) (ws : List (BitVec 16)) : Bool :=
  let l := wordsOf lift ws
  let n := l.length
  let isLend (w : ImgWord) : Bool := w.word == 0xC700
  let opens (w : ImgWord) : Bool := field w.word 15 8 == 0x8B
  let closes (w : ImgWord) : Bool := field w.word 15 8 == 0x8C
  -- one lend, the last halfword; records whole; chain only just before lend
  (l.filter isLend).length == 1
    && (match l.getLast? with
        | some w => isLend w && w.at' + 1 == ws.length && w.depth == 0
        | none => false)
    && (l.zip (List.range n)).all (fun p =>
      (!(lift && isLrec p.1.word) || decide (p.1.at' + 17 ≤ ws.length && p.1.depth == 0))
        && (p.1.word != 0xC300 || decide (p.2 + 2 = n))
        && (!closes p.1 || decide (0 < p.1.depth)))
    && (l.filter opens).length == (l.filter closes).length

/-- The first illegal word's trap INFO (03 R69). -/
def imageIllegal (fam : Family) (ws : List (BitVec 16)) : Option Nat :=
  (wordsOf (fam == .lift) ws).findSome? fun w =>
    match decodeSeq fam w.word with
    | .ok _ => none
    | .illegal f r => some (f * 4096 + r * 256)

/-- The copies of a Lift image with their records: whether it is copyz, to a tile register, and its two records. -/
def copiesOf (ws : List (BitVec 16)) : List (Bool × Bool × Option (List Byte) × Option (List Byte)) :=
  (wordsOf true ws).filterMap fun w =>
    if field w.word 15 8 == 0xC1 then some (false, bitOf w.word 5, w.rec0, w.rec1)
    else if field w.word 15 8 == 0xC2 then some (true, bitOf w.word 5, w.rec0, w.rec1)
    else none

def recordBytes (ws : List (BitVec 16)) (w : ImgWord) : List Byte := ((ws.drop (w.at' + 1)).take 16).flatMap halfBytes

/-- The record 0 that stands beside a record 1 no copy uses, `life` being the words up to the next one: the last in force. -/
def besideRecord (ws : List (BitVec 16)) (w : ImgWord) (life : List ImgWord) : Option (List Byte) :=
  match (life.filter (·.word == 0xC000)).getLast? with
  | some v => some (recordBytes ws v)
  | none => w.rec0

/-- The first two rows of R223 for every lrec of an image with `n` staged bases, used by a copy or not. -/
def recordHits (lift : Bool) (ws : List (BitVec 16)) (n : Nat) : List (Option Hit) :=
  if !lift then []
  else
    let l := wordsOf true ws
    l.map fun w =>
      let b := recordBytes ws w
      let life := (l.filter fun v => decide (w.at' < v.at')).takeWhile (·.word != 0xC001)
      let bare := !life.any fun v => field v.word 15 8 == 0xC1 || field v.word 15 8 == 0xC2
      let above := match besideRecord ws w life with
        | some b0 => bare && !rec1Ok (parseRec0 b0).dims b
        | none => false
      hitIf ((w.word == 0xC000 && (!rec0Ok b || ((parseRec0 b).idx && decide (n ≤ (parseRec0 b).ibase))))
          || (w.word == 0xC001 && (decide (4 ≤ leAt b 0 4 ∨ n ≤ (parseRec1 b).base) || above))) (.trap 0x15 0)

/-- The flags an image names, tile registers as their full flags (R130, step 2.6). -/
def imageFlags (lift : Bool) (ws : List (BitVec 16)) : List Nat :=
  (wordsOf lift ws).flatMap fun w =>
    let op := field w.word 15 8
    if op == 0x89 || op == 0x8A then [w.word % 64]
    else if lift && (op == 0xC1 || op == 0xC2) then
      (if bitOf w.word 4 then [16 + w.word % 16] else [])
        ++ (if bitOf w.word 5 then (match w.rec0 with
                                    | some b => [(parseRec0 b).tmaddr % 16]
                                    | none => []) else [])
    else []

/-! ## The record checks of R223, R226, R227 -/

def capOf (bases : List Base) (i : Nat) : Cap := (nth ⟨Cap.null, []⟩ bases i).cap

/-- The far range `[lo, hi)` of an affine copy, from the base's cursor. -/
def farRange (bases : List Base) (r0 : Rec0) (r1 : Rec1) : Int × Int :=
  let e := extremes (r0.counts.take r0.dims) r1.fstr
  let start : Int := (capOf bases r1.base).cursor + r1.off
  (start + e.1, start + e.2 + r0.esz)

def withinCap (c : Cap) (lo hi : Int) : Bool := decide (c.bounds.1 ≤ lo ∧ hi ≤ c.bounds.2)

/-- The index tensor's range, from its base's cursor. -/
def indexRange (bases : List Base) (r0 : Rec0) : Int × Int :=
  let lo : Int := (capOf bases r0.ibase).cursor + r0.ioff
  (lo, lo + 4 * nth 0 r0.counts r0.idim)

/-- The compressed region a copy's near side lies in. -/
def nearZip (tile : Bool) (r0 : Rec0) (r : Nat) (c : Site) : Option Region :=
  if tile then none
  else match regionAt c r r0.tmaddr with
    | some g => if g.compressed then some g else none
    | none => none

/-- The hits of one copy's records at the push, in R223's order; `sq` is a store command. -/
def copyHits (sq : Bool) (bases : List Base) (cp : Bool × Bool × Option (List Byte) × Option (List Byte)) : List (Option Hit) :=
  let (z, tile, b0, b1) := cp
  match b0, b1 with
  | some b0, some b1 =>
    let r0 := parseRec0 b0
    let r1 := parseRec1 b1
    let cf (b : Bool) : Option Hit := hitIf b (.trap 0x15 0)
    let none' := copyCount r0 == 0
    let far := capOf bases r1.base
    let fr := farRange bases r0 r1
    let start : Int := far.cursor + r1.off
    let ne := extremes (r0.counts.take r0.dims) r0.tstr
    let es : Int := r0.esz
    let whole (st : List Int) : Bool := (r0.counts.zip (st.take r0.dims)).all fun p => decide (p.1 ≤ 1) || p.2 % es == 0
    [cf (!rec0Ok b0 || !rec1Ok r0.dims b1 || (tile && 16 ≤ r0.tmaddr)),
     cf (z && (r0.esz != 4 || r0.idx || !r1.fstr.all (· == 0))),
     cf (decide (bases.length ≤ r1.base) || (r0.idx && decide (bases.length ≤ r0.ibase))),
     hitIf (!none' && ((sq && !far.hasST) || (!sq && !far.hasLD) || (r0.idx && !(capOf bases r0.ibase).hasLD))) (.trap 6 0),
     hitIf (!none' && !(if z then withinCap far start (start + (if sq then zrcWorst (copyCount r0) else 2))
                        else if r0.idx then
                          withinCap (capOf bases r0.ibase) (indexRange bases r0).1 (indexRange bases r0).2
                        else withinCap far fr.1 fr.2)) (.trap 5 0),
     hitIf (!none' && ((!z && !r0.idx && (start % es != 0 || !whole r1.fstr))
        || (!tile && ((r0.tmaddr : Int) % es != 0 || !whole r0.tstr)))) (.trap 7 0),
     cf (!none' && (if tile then decide (8192 < copyCount r0 * r0.esz)
                    else decide ((r0.tmaddr : Int) + ne.1 < 0 ∨ 0xC00000 < (r0.tmaddr : Int) + ne.2 + es)))]
  | _, _ => [some (.trap 0x15 0)]

/-! ## Translation of the staged bases (R130, step 2.7) -/

/-- How a base's pages are to be translated: the byte ranges the command may write, or all of it. -/
def writeRanges (q : Nat) (bases : List Base) (ws : List (BitVec 16)) (i : Nat) : List (Int × Int) :=
  let c := capOf bases i
  if q = 2 then (if c.hasST then [c.bounds] else [])
  else if q = 0 then []
  else
    (copiesOf ws).filterMap fun cp =>
      match cp.2.2.1, cp.2.2.2 with
      | some b0, some b1 =>
        let r0 := parseRec0 b0
        let r1 := parseRec1 b1
        if r1.base != i || copyCount r0 == 0 then none
        else if r0.idx then some c.bounds
        else if cp.1 then some ((c.cursor : Int) + r1.off, (c.cursor : Int) + r1.off + zrcWorst (copyCount r0))
        else some (farRange bases r0 r1)
      | _, _ => none

/-- The format check of a base's pages: each copy whose far side is this base, and COMP = 0 for an index base (14 R341). -/
def formatOk (q : Nat) (ws : List (BitVec 16)) (i word1 : Nat) : Bool :=
  q == 2 || (copiesOf ws).all fun cp =>
    match cp.2.2.1, cp.2.2.2 with
    | some b0, some b1 =>
      let r0 := parseRec0 b0
      let fmt := field word1 15 12
      (parseRec1 b1 |>.base) != i || (bitOf word1 7 == cp.1 && (fmt != 9 || decide (2 ≤ r0.esz)) && (fmt != 0xC || decide (4 ≤ r0.esz)))
    | _, _ => true

/-- Pages a timetabled push may use: those the launch pinned; a base that has no pinned page raises an elastic-access fault (R130). -/
def pushPins (s : State) (r : Nat) : Option (List Page) :=
  if !(myCtx s).ctl.timetabled then none
  else some (match unitAt r s.cur.site s with
    | some (l, _) => l.pins
    | none => [])

def pinHit (pins : Option (List Page)) (p : Page) : Option Hit :=
  match pins with
  | some qs => hitIf (!qs.any fun q => q.ma ≤ p.ma && p.ma + p.size ≤ q.ma + q.size) (.trap 0x0E 0)
  | none => none

/-- A page that does not translate: off the list of a timetabled push it is the elastic-access fault all the same (R130). -/
def offList (pins : Option (List Page)) (space va : Nat) (h : Hit) : Hit :=
  match pins with
  | some qs => if qs.any fun q => q.space == space && decide (q.va ≤ va ∧ va < q.va + q.size) then h else .trap 0x0E 0
  | none => h

/-- The pages of `[va, top)` in turn, each translated, checked against the pins and counted once; `seen` are those of the push or list so far,
which holds at most `limit`. -/
def basePages (s : State) (r space : Nat) (wr : Nat → Nat → Bool) (fmt : Nat → Bool) (pins : Option (List Page)) (limit : Nat) :
    Nat → List Page → Nat → Nat → Except Hit (List Page)
  | 0, _, va, top => if va < top then .error (.trap 0x16 0) else .ok []
  | n + 1, seen, va, top =>
    if top ≤ va then .ok []
    else
      match translate s r space va false fmt with
      | .error e => .error (offList pins space va (walkHit s r e))
      | .ok (p, _) =>
        match (if wr p.va (p.va + p.size) then translate s r space va true fmt else .ok (p, true)) with
        | .error e => .error (walkHit s r e)
        | .ok _ =>
          let seen' := if seen.any fun q => q.space == p.space && q.va == p.va then seen else p :: seen
          match pinHit pins p with
          | some h => .error h
          | none =>
            if limit < seen'.length then .error (.trap 0x16 0)
            else
              match basePages s r space wr fmt pins limit n seen' (p.va + p.size) top with
              | .error e => .error e
              | .ok ps => .ok (p :: ps)

/-- All bases with their pages; more than 16 pages in all is a command-pages fault. -/
def translateBases (s : State) (r q : Nat) (ws : List (BitVec 16)) (bases : List Base) (pins : Option (List Page)) :
    Nat → List Page → Except Hit (List Base)
  | 0, _ => .ok []
  | n + 1, seen =>
    let i := bases.length - (n + 1)
    let c := capOf bases i
    let rest (b : Base) : Except Hit (List Base) :=
      match translateBases s r q ws bases pins n (b.pages ++ seen) with
      | .error h => .error h
      | .ok bs => .ok (b :: bs)
    if c.space == 2 || c.space == 3 then rest ⟨c, []⟩
    else if c.space == 5 then (if pins.isSome then .error (.trap 0x0E 0) else rest ⟨c, []⟩)
    else
      let ranges := writeRanges q bases ws i
      let wr (lo hi : Nat) : Bool := ranges.any fun g => decide (g.1 < (hi : Int) ∧ (lo : Int) < g.2)
      match basePages s r c.space wr (formatOk q ws i) pins 16 40 seen.dedup c.bounds.1.toNat c.bounds.2.toNat with
      | .error h => .error h
      | .ok ps => rest ⟨c, ps⟩

/-! ## PUSH -/

def queueOf (c : Site) (q : Nat) : List Command := if q = 0 then c.q.lq else if q = 1 then c.q.sq else c.q.ce

def addCommand (q : Nat) (cmd : Command) (v : Queues) : Queues :=
  if q = 0 then { v with lq := v.lq ++ [cmd], pushed := v.pushed + 1 }
  else if q = 1 then { v with sq := v.sq ++ [cmd], pushed := v.pushed + 1 }
  else { v with ce := v.ce ++ [cmd], pushed := v.pushed + 1 }

/-- The rink owns an engine that serves the queue (R130, step 2.2, 15 R366). -/
def servesQueue (s : State) (r q : Nat) : Bool :=
  if q = 2 then s.dies.cells.any fun d => d.2.ce.cells.any fun e => e.2.owner.rink?.map (·.toNat) == some r
  else owns (mySite s) r 5 || owns (mySite s) r 6

/-- A store of the context that waits makes a group valid for its push. -/
def ownStored (x : Ctx) (k : Nat) (c : Site) (g : Nat) : Bool :=
  comingGroup c (c.now + 3) g || x.buf.stores.any fun a => match a.target with
    | .tm j addr => j == k && decide (addr < g * 4096 + 4096 ∧ g * 4096 < addr + a.len)
    | _ => false

/-- The bytes a push reads of its image: those of TM with the context's own earlier stores, whether or not they are performed yet. -/
def imageBytes (x : Ctx) (k addr n : Nat) (s : State) : List Byte :=
  let c := site k s
  let pipe := c.pipe.filterMap fun p => match p.act, p.via with
    | .tmStore a d _, none => if p.stream = ctxHead s.cur.ctx then some (a, d) else none
    | _, _ => none
  let buf := x.buf.stores.filterMap fun a => match a.target with
    | .tm j a' => if j = k then some (a', a.data) else none
    | _ => none
  ((pipe ++ buf).foldl (fun m p => m.writeBytes p.1 p.2) c.tm.bytes).readBytes addr n

/-- The command is copied into its queue; its engine sees it no earlier than 2 beats after the push completes (R131). -/
def enqueue (q : Nat) (ws : List (BitVec 16)) (bs : List Base) (image : Nat) (s : State) : State :=
  let c := mySite s
  let x := myCtx s
  let pages := (pagesOf bs).length
  let cmd : Command := { words := ws, bases := bs, rink := myRink s, ctx := s.cur.ctx, queue := q, num := c.q.pushed, seen := c.now + 4 + pages,
                         order := x.buf.count, image := image }
  modMyCtx (fun x => ccIssue c.now (2 + pages) (advancePc { x with staged := x.staged.put q [] }))
    (modMySite (modQ (addCommand q cmd)) (pinPages true (pagesOf bs) s))

/-- PUSH (R130): room, then the checks in order, then translation, pinning and the queue entry. -/
def execPush (q : BitVec 4) (d : BitVec 5) (a : BitVec 4) (s : State) : Outcome State Fault Refusal :=
  let c := mySite s
  let x := myCtx s
  let r := myRink s
  let qn := q.toNat
  let cap := getA x a
  let n := (getS x d).toNat
  let lift := qn != 2
  let bases := stagedOf x qn
  let ws := leHalves (imageBytes x s.cur.site cap.cursor (2 * n) s)
  match firstHit [readA c.now x a, readS c.now x d,
      hitIf (decide (32 ≤ (queueOf c qn).length)) (.stall 2 qn 0 none),
      hitIf (!servesQueue s r qn) (.trap 0x12 (if qn = 2 then 6 else 5)),
      hitIf (!cap.tag) (.trap 4 0),
      hitIf (cap.space != 2 || !cap.hasLD) (.trap 6 0),
      hitIf (!cap.inBounds cap.cursor (2 * n)) (.trap 5 0),
      hitIf (cap.cursor % 2 != 0) (.trap 7 0),
      hitIf (n == 0 || decide (128 < n)) (.trap 0x15 0)] with
  | some h => .next (ccStop h s)
  | none =>
    match firstHit ([tmCheck c r cap.cursor (2 * n) true (ownStored x s.cur.site c) 0,
        (imageIllegal (if lift then .lift else .coll) ws).map (Hit.trap 1),
        hitIf (!grammarOk lift ws) (.trap 0x15 0),
        hitIf ((imageFlags lift ws).any fun f => !ownsFlag c r f) (.trap 0x14 0)]
        ++ recordHits lift ws bases.length ++ (if lift then (copiesOf ws).flatMap (copyHits (qn == 1) bases) else [])) with
    | some h => .next (ccStop h s)
    | none =>
      match translateBases s r qn ws bases (pushPins s r) bases.length [] with
      | .error h => .next (ccStop h s)
      | .ok bs => .next (enqueue qn ws bs cap.cursor (countPages r (bs.flatMap (·.pages)) (modMySite (corrected cap.cursor (2 * n)) s)))

end Sys2Proof.Machine
end

