-- ==== Sys2Proof/Machine/Regions.lean ====
section
/-!
DEFINITION. Tile-memory regions as the control core manages them: RALLOC and RWAX (05 R135, R137, 10 R259, R445).
-/

namespace Sys2Proof.Machine

open Host (Outcome)

/-- The row groups of a rink's share of a core, `[lo, hi)` (10 R445). -/
def shareOf (c : Site) (r : Nat) : Nat × Nat :=
  match c.own.ctx0.rink?, c.own.ctx1.rink? with
  | some a, some b =>
    if a = b then (0, 3072) else if a.toNat == r then (0, c.tm.split.toNat) else (c.tm.split.toNat, 3072)
  | _, _ => (0, 3072)

/-- A row group that may be allocated: in no region and not retired (R135, 10 R277). -/
def groupFree (t : Tm) (g : Nat) : Bool :=
  !t.regions.any (fun q => decide (q.base / 4096 ≤ g ∧ g < (q.base + q.size) / 4096)) && !t.retired.get false g

/-- The lowest start in `[g, hi)` of a run of `n` allocatable groups; `run` groups before `g` are allocatable already. -/
def findRun (t : Tm) (n hi : Nat) : Nat → Nat → Nat → Option Nat
  | 0, _, _ => none
  | fuel + 1, g, run =>
    if n ≤ run then some (g - run)
    else if hi ≤ g then none
    else findRun t n hi fuel (g + 1) (if groupFree t g then run + 1 else 0)

/-- Where a region of `n` groups is placed for a rink, if anywhere (R135). -/
def placeRun (c : Site) (r n : Nat) : Option Nat :=
  let (lo, hi) := shareOf c r
  findRun c.tm n hi (hi - lo + 1) lo 0

def policyOf (p : Nat) : Policy := if p = 0 then .refresh else if p = 1 then .trap else .drop

/-- Regions in order of address. -/
def addRegion (g : Region) (t : Tm) : Tm :=
  { t with regions := (t.regions.filter fun q => decide (q.base < g.base)) ++ [g] ++ t.regions.filter fun q => decide (g.base ≤ q.base) }

/-- A region is placed: its groups start invalid with age 0 (R135). -/
def placeRegion (g : Region) (t : Tm) : Tm :=
  (List.range (g.size / 4096)).foldl (fun t i => setGroup (g.base / 4096 + i) Group.empty (invalidate (g.base / 4096 + i) t))
    (addRegion g t)

/-- The answer of ralloc: an address, or an error code (R135). With 256 regions held, code 3 goes before code 2 (DESIGN CHOICE, notes/assumptions/41.md). -/
def rallocAnswer (c : Site) (r size : Nat) : Except Nat Nat :=
  if size = 0 ∨ 0xC00000 < size ∨ size % 4096 ≠ 0 then .error 0x8000000000000001
  else if 256 ≤ c.tm.regions.length then .error 0x8000000000000003
  else
    match placeRun c r (size / 4096) with
    | none => .error 0x8000000000000002
    | some g => .ok (g * 4096)

/-- RALLOC (R135). -/
def execRalloc (d a : BitVec 5) (cls policy : BitVec 2) (persistent compressed : Bool) (s : State) : Outcome State Fault Refusal :=
  let c := mySite s
  let x := myCtx s
  let r := myRink s
  let size := (getS x a).toNat
  .next (ccWord [needFree s, readS c.now x a, writeS c.now 1 x d] 1 (fun s =>
    match rallocAnswer c r size with
    | .error e => modMyCtx (putS c.now 1 d (.ofNat 64 e)) s
    | .ok base =>
      modMyCtx (putS c.now 1 d (.ofNat 64 base))
        (modMySite (modTm (placeRegion ⟨r, base, size, cls.toNat, policyOf policy.toNat, persistent, compressed, s.cur.ctx, none⟩)) s)) s)

/-! ## RWAX -/

/-- Every group of the run lies in one region of the rink (R137). -/
def waxRegion (c : Site) (r base n : Nat) : Bool :=
  base % 4096 == 0 && (match regionAt c r base with
    | some g => decide (base + 4096 * n ≤ g.base + g.size)
    | none => false)

/-- The refreshes of a run: group i in beat b + 2 + 8i, later in free mode if its bank is taken, with the beats so lost. -/
def waxPends (c : Site) (stream r base n : Nat) (timetabled : Bool) : List Pend × Nat :=
  let ps : List Pend := (List.range n).map fun i => ⟨c.now + 2 + 8 * i, c.now, stream, none, r, false, .refresh (base / 4096 + i)⟩
  if timetabled then (ps, 0) else placeFree c 10 0 ps

/-- The hit of an rwax, whose request is the last of its beat (10 R258, R278). -/
def waxStop (h : Hit) (s : State) : State :=
  match h with
  | .tmTrap code info reason addr => takeTrap false code info false (modMySite (latchTm (requestRank (myCtx s).ctl.timetabled 0 10) reason addr) s)
  | _ => ccStop h s

/-- RWAX (R137): imm10 + 1 groups from s[a] on. -/
def execRwax (a : BitVec 5) (n : BitVec 10) (s : State) : Outcome State Fault Refusal :=
  let c := mySite s
  let x := myCtx s
  let r := myRink s
  let base := (getS x a).toNat
  let k := n.toNat + 1
  let pends := waxPends c (ctxHead s.cur.ctx) r base k x.ctl.timetabled
  let clash := if x.ctl.timetabled then pends.1.findSome? (fun p => conflict c 10 p.due (actSpans p.act)) else none
  .next (match firstHit [readS c.now x a, hitIf (!waxRegion c r base k) (.tmTrap 0x17 0 (if 0xC00000 < base + 4096 * k then 5 else 1) base)] with
    | some h => waxStop h s
    | none => ccWord [clash.map fun e => .stall e.1 e.2 0 none] 1 (modMySite (addPends (liveJob s) r pends)) s)

end Sys2Proof.Machine
end

