-- ==== Sys2Proof/Machine/Launch.lean ====
section
/-!
DEFINITION. Launch records: their layout, the checks of LAUNCH in R317's order, and the placement of a unit's regions (13 R314 to
R318, 15 R368).
-/

namespace Sys2Proof.Machine

/-! ## The record's layout (R314 to R316) -/

def le16 (b : List Byte) (i : Nat) : Nat := leAt b i 2
def le32 (b : List Byte) (i : Nat) : Nat := leAt b i 4
def le8 (b : List Byte) (i : Nat) : Nat := leAt b i 1

def parseRegion (b : List Byte) (o : Nat) : RegionEntry :=
  { size := le32 b o, attr := le8 b (o + 4), place := le32 b (o + 8), doff := le32 b (o + 12), dlen := le32 b (o + 16) }

def parseLoad (b : List Byte) (o : Nat) : RegLoad :=
  { reg := le8 b o, kind := field (le8 b (o + 1)) 2 1, ctx := bitOf (le8 b (o + 1)) 0, arg := le16 b (o + 2), perm := le16 b (o + 4),
    value := leAt b (o + 8) 8 }

def parseReq (b : List Byte) (o : Nat) : Nat × Nat := (le32 b o % 64, field (le32 b o) 9 6)

def parseReloc (b : List Byte) (o : Nat) : Reloc :=
  { offset := le32 b o, region := field (le32 b (o + 4)) 5 0, kind := field (le32 b (o + 4)) 7 6 }

/-- `n` entries of `size` bytes from an offset. -/
def parseMany {α : Type} (f : List Byte → Nat → α) (b : List Byte) (o size n : Nat) : List α :=
  (List.range n).map fun i => f b (o + size * i)

def parseUnit (b : List Byte) (o : Nat) : UnitEntry :=
  { core := le16 b o, col := le8 b (o + 2), row := le8 b (o + 3), eng := le8 b (o + 4) % 128, slots := le8 b (o + 5),
    imgOff := le32 b (o + 8), imgLen := le32 b (o + 12),
    strm := (List.range 5).map fun i => (le16 b (o + 18 + 4 * i), le16 b (o + 16 + 4 * i)),
    regions := parseMany parseRegion b (le32 b (o + 40)) 32 (le8 b (o + 36)),
    loads := parseMany parseLoad b (le32 b (o + 44)) 16 (le8 b (o + 6)),
    reqs := parseMany parseReq b (le32 b (o + 48)) 4 (le8 b (o + 7)),
    rels := parseMany parseReloc b (le32 b (o + 52)) 8 (le16 b (o + 38)) }

def recUnits (b : List Byte) : Nat := le16 b 0
def recFree (b : List Byte) : Bool := bitOf (le8 b 2) 0
def recOrigin (b : List Byte) : Nat := le16 b 4
def recTotal (b : List Byte) : Nat := le32 b 8

def parseUnits (b : List Byte) : List UnitEntry := parseMany parseUnit b (le32 b 12) 64 (recUnits b)

/-- The pinned-page entries: register, pages and offset (R316). -/
def parsePins (b : List Byte) : List (Nat × Nat × Nat) :=
  parseMany (fun b o => (le8 b o, le16 b (o + 2), leAt b (o + 8) 8)) b (le32 b 16) 16 (le16 b 6)

/-! ## Status 0x01: the record is malformed -/

/-- A table of `n` entries lies in the record, at an offset that is a multiple of 8. -/
def tableOk (total o size n : Nat) : Bool := o % 8 == 0 && decide (o + size * n ≤ total)

def zeros (b : List Byte) (o n : Nat) : Bool := ((b.drop o).take n).all (· == 0)

def headerOk (b : List Byte) : Bool :=
  let total := recTotal b
  1 ≤ recUnits b && recUnits b ≤ 272 && le8 b 2 < 2 && le8 b 3 == 0 && le16 b 6 ≤ 64 && 64 ≤ total && zeros b 20 44
    && tableOk total (le32 b 12) 64 (recUnits b) && tableOk total (le32 b 16) 16 (le16 b 6)
    && (parseUnits b).any (·.core == recOrigin b) && decide ((parseUnits b).map (·.core)).Nodup

def regionOk (b : List Byte) (o : Nat) : Bool :=
  let g := parseRegion b o
  let total := recTotal b
  g.size != 0 && g.size % 4096 == 0 && g.attr < 64 && field g.attr 3 2 != 3 && zeros b (o + 5) 3 && g.place % 4096 == 0
    && g.dlen ≤ g.size && (g.dlen != 0 || g.doff == 0) && g.doff % 8 == 0 && g.doff + g.dlen ≤ total && zeros b (o + 20) 12

/-- The permissions a kind 1 load may give: LD, ST, LDC, STC and EN, or LD, LDC and EN over the code image. -/
def permOk (arg perm : Nat) : Bool :=
  let mask := if arg = 0xFFFF then 0x25 else 0x2F
  decide (perm < 4096) && (BitVec.ofNat 12 perm &&& ~~~(BitVec.ofNat 12 mask)) == 0

def loadOk (b : List Byte) (nrgn o : Nat) : Bool :=
  let l := parseLoad b o
  le8 b (o + 1) < 8 && zeros b (o + 6) 2
    && (if l.kind = 1 then permOk l.arg l.perm else l.perm == 0)
    && (if l.kind = 1 ∨ l.kind = 3 then l.arg == 0xFFFF || decide (l.arg < nrgn)
        else if l.kind = 2 then decide (l.arg < 16) else true)

def reqOk (b : List Byte) (o : Nat) : Bool :=
  let q := parseReq b o
  decide (le32 b o < 1024) && (if 16 ≤ q.1 ∧ q.1 < 32 then decide (1 ≤ q.2 ∧ q.2 ≤ 8) else q.2 == 0)

/-- The bytes of the image that a relocation patches. -/
def relocSpan (kind : Nat) : Nat := if kind = 1 ∨ kind = 3 then 8 else 4

/-- A kind 3 relocation patches a lui and an ori of the same destination. -/
def luiOri (w0 w1 : Nat) : Bool :=
  match decodeCC w0, decodeCC w1 with
  | .ok (.lui d _), .ok (.ori d' _ _) => d == d'
  | _, _ => false

def relocOk (b : List Byte) (nrgn imgOff imgLen o : Nat) : Bool :=
  let q := parseReloc b o
  decide (le32 b (o + 4) < 256) && decide (q.region < nrgn) && decide (q.offset + relocSpan q.kind ≤ imgLen)
    && (q.kind != 3 || luiOri (le32 b (imgOff + q.offset)) (le32 b (imgOff + q.offset + 4)))

/-- The bytes of a stream's words: 4 for the CC, 8 for the VE, 2 for a matrix stream. -/
def streamBytes (i : Nat) : Nat := if i < 2 then 4 else if i = 2 then 8 else 2

def streamOk (u : UnitEntry) (i : Nat) : Bool :=
  let p := nth (0, 0) u.strm i
  p.2 == 0 || (bitOf u.eng i && decide (256 * p.1 + p.2 * streamBytes i ≤ u.imgLen))

def unitOk (b : List Byte) (o : Nat) : Bool :=
  let u := parseUnit b o
  let total := recTotal b
  let n := le8 b (o + 36)
  u.core ≤ 271 && u.col ≤ 11 && u.row ≤ 23 && le8 b (o + 4) < 128 && u.slots ≤ 16 && le8 b (o + 6) ≤ 94 && le8 b (o + 7) ≤ 16
    && u.imgOff % 256 == 0 && decide (u.imgOff + u.imgLen ≤ total) && n ≤ 64 && le8 b (o + 37) == 0 && le16 b (o + 38) ≤ 4095
    && zeros b (o + 56) 8
    && tableOk total (le32 b (o + 40)) 32 n && tableOk total (le32 b (o + 44)) 16 (le8 b (o + 6))
    && tableOk total (le32 b (o + 48)) 4 (le8 b (o + 7)) && tableOk total (le32 b (o + 52)) 8 (le16 b (o + 38))
    && (List.range 5).all (streamOk u)
    && (List.range n).all (fun i => regionOk b (le32 b (o + 40) + 32 * i))
    && (List.range (le8 b (o + 6))).all (fun i => loadOk b n (le32 b (o + 44) + 16 * i))
    && (List.range (le8 b (o + 7))).all (fun i => reqOk b (le32 b (o + 48) + 4 * i))
    && (List.range (le16 b (o + 38))).all (fun i => relocOk b n u.imgOff u.imgLen (le32 b (o + 52) + 8 * i))

def pinOk (b : List Byte) (o : Nat) : Bool :=
  decide (le8 b o < 16) && le8 b (o + 1) == 0 && 1 ≤ le16 b (o + 2) && le16 b (o + 2) ≤ 64 && zeros b (o + 4) 4

/-- The record is well formed (R314 to R316). -/
def recordOk (b : List Byte) : Bool :=
  headerOk b && (List.range (recUnits b)).all (fun i => unitOk b (le32 b 12 + 64 * i))
    && (List.range (le16 b 6)).all (fun i => pinOk b (le32 b 16 + 16 * i))

/-! ## The other statuses -/

/-- Physical column and row of a site (15). -/
def sitePos (k : Nat) : Nat × Nat := (k % 12, 12 * (k / 144) + k % 144 / 12)

/-- hp of R368: R240's formula on physical positions. -/
def physLatency (a b : Nat) : Nat :=
  let p := sitePos a
  let q := sitePos b
  let dc := max p.1 q.1 - min p.1 q.1
  let dr := max p.2 q.2 - min p.2 q.2
  let x := b2n (decide (p.2 ≤ 11) != decide (q.2 ≤ 11))
  2 * (dc + dr - x) + 6 * x

/-- The physical sites of the route from one site to another: along the source row, then the destination column. -/
def physRoute (a b : Nat) : List Nat :=
  let p := sitePos a
  let q := sitePos b
  let at' (c r : Nat) : Nat := 144 * (r / 12) + 12 * (r % 12) + c
  ((List.range 12).filter fun c => decide (min p.1 q.1 ≤ c ∧ c ≤ max p.1 q.1)).map (fun c => at' c p.2)
    ++ ((List.range 24).filter fun r => decide (min p.2 q.2 ≤ r ∧ r ≤ max p.2 q.2)).map (fun r => at' q.1 r)

def siteFailed (k : Nat) (s : State) : Bool := (die (dieOfSite k) s).siteFail.getLsbD (siteBit k)

/-- A core check on the site's router stands (18 R424). -/
def routerFailed (k : Nat) (s : State) : Bool := (die (dieOfSite k) s).routerFail.getLsbD (siteBit k)

/-- The route from `u` to `v` and a pulse along it can be held to the logical latency, through no failed router (R368, 18 R424). -/
def routeOk (r u v : Nat) (s : State) : Bool :=
  if u = v then true
  else
    let a := ((siteOfLogical r u s).getD 0)
    let b := ((siteOfLogical r v s).getD 0)
    let e := (rink r s).place.get Place.reset v
    decide (physLatency a b + e.ltrim ≤ latency r u v s) && decide (physLatency a b + e.skew ≤ latency r u v s)
      && (physRoute a b).all fun k => !routerFailed k s

/-- Status 0x09 (R317, R368). -/
def shapeOk (r : Nat) (us : List UnitEntry) (s : State) : Bool :=
  us.all (fun u =>
      let e := (rink r s).place.get Place.reset u.core
      e.col == u.col && e.row == u.row)
    && us.all (fun u => us.all fun v => routeOk r u.core v.core s)

/-- Status 0x06: a context the rink does not hold there, or the Rink Sequencer's own. -/
def contextsOk (r : Nat) (u : UnitEntry) (s : State) : Bool :=
  match siteOfLogical r u.core s with
  | none => true
  | some k => [false, true].all fun x =>
      !bitOf u.eng (b2n x) || (owns (site k s) r (ctxHead x) && !isSequencer r k x s)

/-- Status 0x07: an engine the rink lacks. -/
def enginesOk (r : Nat) (u : UnitEntry) (s : State) : Bool :=
  match siteOfLogical r u.core s with
  | none => true
  | some k =>
    let c := site k s
    (!bitOf u.eng 2 || owns c r 2) && (!bitOf u.eng 3 || owns c r 3) && (!bitOf u.eng 4 || owns c r 4)
      && (!bitOf u.eng 5 || owns c r 5 || owns c r 6) && (!bitOf u.eng 6 || servesQueue s r 2)

/-- Status 0x03: a load that fits no register of a context of the unit. -/
def loadsOk (u : UnitEntry) : Bool :=
  u.loads.all fun l =>
    bitOf u.eng (b2n l.ctx)
      && (if l.kind = 0 ∨ l.kind = 3 then 1 ≤ l.reg && l.reg ≤ 31 else 32 ≤ l.reg && l.reg ≤ 47)

/-- Status 0x05: more slots than the unit's halves hold. -/
def slotsOk (u : UnitEntry) : Bool := u.slots ≤ 8 * (b2n (bitOf u.eng 3) + b2n (bitOf u.eng 4))

/-! ## Placement (R318) -/

/-- Every group of `[g, g + n)` is free, unretired and within the rink's share. -/
def runFree (c : Site) (r g n : Nat) : Bool :=
  let (lo, hi) := shareOf c r
  lo ≤ g && g + n ≤ hi && (List.range n).all fun i => groupFree c.tm (g + i)

/-- Where a region that assumed `place` goes: there, or the lowest run that fits. -/
def chooseRun (c : Site) (r place n : Nat) : Option Nat :=
  if runFree c r (place / 4096) n then some (place / 4096) else placeRun c r n

/-- The regions of a unit placed in turn, then its code image: the core, the regions' addresses and the code image's. -/
def placeRegions (r lctr : Nat) : List RegionEntry → Site → List Nat → Option (Site × List Nat)
  | [], c, acc => some (c, acc)
  | g :: gs, c, acc =>
    if 256 ≤ c.tm.regions.length then none
    else
      match chooseRun c r g.place (g.size / 4096) with
      | none => none
      | some base =>
        let q : Region := { rink := r, base := base * 4096, size := g.size, cls := g.attr % 4, policy := policyOf (field g.attr 3 2),
                            persistent := bitOf g.attr 4, compressed := bitOf g.attr 5, owner := homeCtx c r, launch := some lctr }
        placeRegions r lctr gs (modTm (placeRegion q) c) (acc ++ [base * 4096])

/-- The code image as a region entry: LC3, REFRESH (10 R259). -/
def codeEntry (len : Nat) : RegionEntry := ⟨ceilDiv len 4096 * 4096, 3, 0, 0, 0⟩

/-- All of a unit's regions placed: a unit without an image has no code region. -/
def placeUnit (r lctr : Nat) (u : UnitEntry) (c : Site) : Option (Site × List Nat × Nat) :=
  match placeRegions r lctr u.regions c [] with
  | none => none
  | some (c1, addrs) =>
    if u.imgLen = 0 then some (c1, addrs, 0)
    else if 256 ≤ c1.tm.regions.length then none
    else
      match placeRun c1 r (ceilDiv u.imgLen 4096) with
      | none => none
      | some g =>
        let e := codeEntry u.imgLen
        let q : Region := { rink := r, base := g * 4096, size := e.size, cls := 3, policy := .refresh, persistent := false, compressed := false,
                            owner := homeCtx c1 r, launch := some lctr }
        some (modTm (placeRegion q) c1, addrs, g * 4096)

/-- The value of a relocated field (R316). -/
def relocField (img : List Byte) (q : Reloc) : Nat :=
  match q.kind with
  | 0 => le32 img q.offset % 2 ^ 24
  | 1 => leAt img q.offset 8 % 2 ^ 14
  | 2 => le16 img q.offset % 2 ^ 15 * 2 ^ 15 + le16 img (q.offset + 2) % 2 ^ 15
  | _ => le16 img q.offset * 2 ^ 16 + le16 img (q.offset + 4)

/-- The field moved by the region's displacement, modulo 2^24 (R318). -/
def relocValue (img : List Byte) (q : Reloc) (addr place : Nat) : Nat :=
  relocField img q + (addr + 2 ^ 32 - place) % 2 ^ 24

def relocLimit (kind : Nat) : Nat := if kind = 1 then 16383 else 0x00BFFFFF

def overwrite (b : List Byte) (o : Nat) (v : List Byte) : List Byte := b.take o ++ v ++ b.drop (o + v.length)

/-- Patch one field of an image. -/
def patchImage (img : List Byte) (q : Reloc) (v : Nat) : List Byte :=
  match q.kind with
  | 0 => overwrite img q.offset (leBytes 3 v)
  | 1 => overwrite img q.offset (leBytes 8 (leAt img q.offset 8 / 2 ^ 14 * 2 ^ 14 + v % 2 ^ 14))
  | 2 => overwrite (overwrite img q.offset (leBytes 2 (le16 img q.offset / 2 ^ 15 * 2 ^ 15 + field v 23 15)))
      (q.offset + 2) (leBytes 2 (le16 img (q.offset + 2) / 2 ^ 15 * 2 ^ 15 + v % 2 ^ 15))
  | _ => overwrite (overwrite img q.offset (leBytes 2 (v / 2 ^ 16))) (q.offset + 4) (leBytes 2 (v % 2 ^ 16))

/-- The relocated image, or none where a field would exceed its limit. The displacement is added modulo 2^24, so a sum past 2^24 wraps
only when the region moved down. -/
def relocate (u : UnitEntry) (addrs : List Nat) : List Reloc → List Byte → Option (List Byte)
  | [], img => some img
  | q :: qs, img =>
    let v := relocValue img q (nth 0 addrs q.region) (nth ⟨0, 0, 0, 0, 0⟩ u.regions q.region).place % 2 ^ 24
    if relocLimit q.kind < v then none else relocate u addrs qs (patchImage img q v)

/-- Status 0x04: the unit's regions fit and its relocated fields stay within their limits. -/
def placementOk (r lctr : Nat) (b : List Byte) (u : UnitEntry) (s : State) : Bool :=
  match siteOfLogical r u.core s with
  | none => true
  | some k =>
    match placeUnit r lctr u (site k s) with
    | none => false
    | some (_, addrs, _) => (relocate u addrs u.rels ((b.drop u.imgOff).take u.imgLen)).isSome

/-! ## Pinned pages (R316, R317) -/

/-- The pages of one entry: 64 KiB units from the register's cursor and OFFSET on, in the register's bounds. No hit stands beside an
entry that fails at its register; a failed translation gives its own. -/
def pinEntryPages (s : State) (r : Nat) (regs : Nat → Option Cap) (e : Nat × Nat × Nat) : Except (Option Hit) (List Page) :=
  match regs e.1 with
  | none => .error none
  | some c =>
    let lo := (c.cursor + e.2.2) % 2 ^ 64 / 65536 * 65536
    let hi := lo + 65536 * e.2.1
    if !c.tag || !c.hasEN || !withinCap c ((c.cursor + e.2.2) % 2 ^ 64 : Nat) hi then .error none
    else if c.space = 0 ∨ c.space = 1 ∨ c.space = 4 then
      match basePages s r c.space (fun _ _ => c.hasST) (fun _ => true) none 64 64 [] lo hi with
      | .ok ps => .ok ps
      | .error h => .error (some h)
    else .error none

/-- The pages of the list; a list that fails is status 0x0A, with the hit of the page that fails translation (R317, 14 R342). -/
def pinList (s : State) (r : Nat) (regs : Nat → Option Cap) (es : List (Nat × Nat × Nat)) : Except (Option Hit) (List Page) :=
  if 64 < (es.map (·.2.1)).sum then .error none
  else
    es.foldl (fun acc e =>
      match acc with
      | .error h => .error h
      | .ok a =>
        match pinEntryPages s r regs e with
        | .error h => .error h
        | .ok b => .ok (a ++ b)) (.ok [])

/-! ## LAUNCH's checks in R317's order -/

/-- A launch that is accepted and not complete. -/
def launchOpen (s : State) (r : Nat) : Nat := (rink r s).work.launches.length

/-- The first status that applies, 0 when none does. Every launch of a job with a region that its restore could not place has 0x09 (18 R427); a record that its
capability does not cover has 0x01 (R314). -/
def launchStatus (r lctr : Nat) (covers : Bool) (b : List Byte) (regs : Nat → Option Cap) (s : State) : Nat :=
  if !(rink r s).work.placed then 9
  else if !covers || !recordOk b then 1
  else
    let us := parseUnits b
    if 2 ≤ launchOpen s r then 8
    else if !us.all (fun u => (siteOfLogical r u.core s).isSome) then 2
    else if !shapeOk r us s then 9
    else if !us.all (contextsOk r · s) then 6
    else if !us.all (enginesOk r · s) then 7
    else if !us.all loadsOk then 3
    else if !us.all slotsOk then 5
    else if !us.all (placementOk r lctr b · s) then 4
    else match pinList s r regs (parsePins b) with
      | .error _ => 0x0A
      | .ok _ => 0

/-- An entry requirement names a flag of the other rink of its core (02 R57). -/
def reqsForeign (r : Nat) (b : List Byte) (s : State) : Bool :=
  (parseUnits b).any fun u => match siteOfLogical r u.core s with
    | some k => u.reqs.any fun q => !ownsFlag (site k s) r q.1
    | none => false

/-- What a list that gives status 0x0A does beside: a page being moved is waited for (14 R340), and a translation fault is latched in
TFAULT (14 R342). -/
def pinFault (r : Nat) (b : List Byte) (regs : Nat → Option Cap) (s : State) : Option Hit :=
  match pinList s r regs (parsePins b) with
  | .error h => h
  | .ok _ => none

end Sys2Proof.Machine
end

