-- ==== Sys2Proof/Machine/Ending.lean ====
section
/-!
DEFINITION. The event queue (13 R331 to R333), and the end of a collective operation: its element, its record and its number (08 R236, R237, 16 R390). Cancel and the collective
engines share it.
-/

namespace Sys2Proof.Machine

/-! ## The event queue (R331 to R333) -/

/-- The first word of a record. -/
def eventWord (kind len info num : Nat) : Word := .ofNat 64 (kind * 2 ^ 56 + len * 2 ^ 52 + info % 65536 * 2 ^ 32 + num % 2 ^ 32)

/-- The overflow record takes one more drop. -/
def bumpDrop (i : Nat) (q : List Word) : List Word :=
  let w := (nth 0 q i).toNat
  setNth q i (.ofNat 64 (setField w 47 32 (min 0xFFFF (field w 47 32 + 1))))

/-- Post a record; one word of the queue is always kept free for an overflow record (R333). -/
def postEvent (kind info : Nat) (rest : List Word) (w : Work) : Work :=
  let len := rest.length + 1
  let num := w.evNum.toNat + 1
  let free := 256 - w.evq.length - b2n w.evDrop.isNone
  if len ≤ free then { w with evNum := w.evNum + 1, evq := w.evq ++ (eventWord kind len info num :: rest) }
  else
    match w.evDrop with
    | some i => { w with evq := bumpDrop i w.evq }
    | none => { w with evNum := w.evNum + 1, evq := w.evq ++ [eventWord 0x0F 1 1 num], evDrop := some w.evq.length }

/-- The oldest word, if any. -/
def popEvent (w : Work) : Word × Work :=
  match w.evq with
  | [] => (0, w)
  | e :: rest =>
    (e, { w with evq := rest, evDrop := match w.evDrop with
                                        | some (i + 1) => some i
                                        | _ => none })

/-! ## Engines and their commands (08 R216) -/

def collEngine (d e : Nat) (s : State) : CollEngine := (die d s).ce.get CollEngine.reset e

def modCollEngine (d e : Nat) (f : CollEngine → CollEngine) (s : State) : State :=
  modDie d (fun v => { v with ce := v.ce.put e (f (v.ce.get CollEngine.reset e)) }) s

/-- The operation belongs to a command. -/
def ofRun (r : Run) (o : CollOp) : Bool := o.site == r.site && o.cmd == r.cmd.num

/-! ## Ending an operation (R236, R237, 16 R390, R393) -/

/-- The completion element of R237. -/
def collElement (o : CollOp) (cnum status detail : Nat) : Word :=
  .ofNat 64 (status * 2 ^ 56 + b2n o.detached * 2 ^ 55 + b2n o.ctx * 2 ^ 54 + o.flags.toNat * 2 ^ 48 + o.word % 16 * 2 ^ 44
    + cnum % 4096 * 2 ^ 32 + detail % 2 ^ 32)

/-- A detached operation posts an element; an attached one only on failure (R236). -/
def mustPost (o : CollOp) (status : Nat) : Bool := o.detached || status != 0

def modColl (r n : Nat) (f : Coll → Coll) (s : State) : State :=
  modRink r (fun q => { q with colls := q.colls.setD Coll.closed n (f (q.colls.get Coll.closed n)) }) s

def collAt (r n : Nat) (s : State) : Coll := (rink r s).colls.get Coll.closed n

/-- The flags of an attached operation are kept for its command's retirement (R217). -/
def mergeAttached (o : CollOp) (s : State) : State :=
  modCollEngine o.die o.ce (fun e => { e with run := e.run.map fun v => if ofRun v o then { v with flags := v.flags ||| o.flags } else v }) s

/-- An operation that has left its number ends with a status. When it must post and the FIFO is full it waits to (R237). -/
def endOp (r n status detail : Nat) (o : CollOp) (s : State) : State :=
  let full := decide (16 ≤ (site o.site s).q.collFifo.length)
  if mustPost o status && full then
    modColl r n (fun c => { c with others := c.others ++ [{ o with status := some status, detail := detail }] }) s
  else
    let e := collElement o n status detail
    let s1 := if mustPost o status then modSite o.site (modQ fun q => { q with collFifo := q.collFifo ++ [e] }) s else s
    let s2 := if status ≠ 0 then modWork r (postEvent 4 ((logicalOfSite r o.site s).getD 0) [e]) s1 else s1
    recount r (if o.detached then s2 else mergeAttached o s2)

/-- The number closes: what had landed is unspecified from here on; after a timeout, a cancel or the rink's destruction later contributions are
refused (16 R390). What is still on its way comes under the closed number. -/
def closeColl (refuse : Bool) (c : Coll) : Coll := { c with isOpen := false, refuse := refuse, landed := [], op := none }

/-- Detached operations end with STATUS 0x03 and their numbers close (16 R390). -/
def endDetached (r : Nat) (which : CollOp → Bool) (s : State) : State :=
  let its (o : CollOp) : Bool := o.detached && o.status.isNone && which o
  (rink r s).colls.cells.foldl (fun s c =>
    let out := (collOps c.2).filter its
    let mainGone := c.2.op.any its
    let s1 := modColl r c.1 (fun v =>
      let w := { v with others := v.others.filter fun o => !its o }
      if mainGone then closeColl true w else w) s
    out.foldl (fun s o => endOp r c.1 3 0 o s) s1) s

/-- A cancel at level 3 ends the detached operations of its job (05 R140). -/
def cancelColls (r : Nat) (job : Option (Nat × Nat)) (s : State) : State := endDetached r (fun o => o.job.isSome && o.job == job) s

end Sys2Proof.Machine
end

