-- ==== Sys2Proof/Machine/Zrc.lean ====
section
/-!
DEFINITION. The ZRC code (08 R228).
-/

namespace Sys2Proof.Machine

/-- A ZRC header: kind and run length. -/
def zrcHeader (kind n : Nat) : List Byte := leBytes 2 (kind * 16384 + (n - 1))

/-- The length of the run of `w` at the head of a list, at most `n`. -/
def runLength (w : Lane) : Nat → List Lane → Nat
  | 0, _ => 0
  | _, [] => 0
  | n + 1, x :: xs => if x = w then runLength w n xs + 1 else 0

/-- The length of the literal run at the head of a list, at most `n`. -/
def literalLength : Nat → List Lane → Nat
  | 0, _ => 0
  | _, [] => 0
  | n + 1, x :: xs => if x = 0 || xs.head? == some x then 0 else literalLength n xs + 1

/-- zrc_encode of R228, `fuel` being the number of words. -/
def zrcRuns : Nat → List Lane → List Byte
  | 0, _ => []
  | _, [] => []
  | n + 1, x :: xs =>
    let l := x :: xs
    if x = 0 then
      let k := runLength 0 16384 l
      zrcHeader 0 k ++ zrcRuns n (l.drop k)
    else if xs.head? == some x then
      let k := runLength x 16384 l
      zrcHeader 1 k ++ leBytes 4 x.toNat ++ zrcRuns n (l.drop k)
    else
      let k := literalLength 16384 l
      zrcHeader 2 k ++ (l.take k).flatMap (fun w => leBytes 4 w.toNat) ++ zrcRuns n (l.drop k)

def zrcEncode (l : List Lane) : List Byte := zrcRuns l.length l ++ leBytes 2 0xC000

/-- What decoding `need` words from a byte stream gives: the words, the bytes used (more than there are when it runs out of them), and whether the stream is well formed. `fuel` bounds
the headers. -/
def zrcDecode : Nat → Nat → List Byte → List Lane × Nat × Bool
  | 0, _, _ => ([], 0, false)
  | fuel + 1, need, bytes =>
    let h := leNat (bytes.take 2)
    let n := h % 16384 + 1
    let rest := bytes.drop 2
    if bytes.length < 2 then ([], 2, false)
    else if 49152 ≤ h then ([], 2, h == 49152 && need == 0)
    else if need < n then ([], 2, false)
    else
      let go (ws : List Lane) (used : Nat) : List Lane × Nat × Bool :=
        let r := zrcDecode fuel (need - n) (bytes.drop (2 + used))
        (ws ++ r.1, 2 + used + r.2.1, r.2.2)
      if h < 16384 then go (List.replicate n 0) 0
      else if h < 32768 then go (List.replicate n (.ofNat 32 (leNat (rest.take 4)))) 4
      else go (leWords (rest.take (4 * n))) (4 * n)

end Sys2Proof.Machine
end

