-- ==== Sys2Proof/Machine/Sched.lean ====
section
/-!
DEFINITION. The job scheduler, the context image and the start of a job (13 R319 to R325, 18 R417, R427).
-/

namespace Sys2Proof.Machine

/-! ## Choosing a job (R322) -/

/-- The head job of a slot. -/
def headJob (s : State) (r slot : Nat) : Option Job := ((fnOf (rinkFn r s) s).slots.get JobSlot.reset slot).queue.head?

/-- The class of a slot's ready job; the running job is ready for the choice. -/
def readyClass (s : State) (r slot : Nat) : Option Nat := (headJob s r slot).map (·.prio)

def classReady (s : State) (r c : Nat) : Bool := (List.range 8).any fun n => readyClass s r n == some c

/-- The classes owed a grant. -/
def owed (s : State) (r : Nat) : List Nat :=
  [1, 2, 3].filter fun c => classReady s r c && decide (13 ≤ (rink r s).work.starve.get 0 c)

/-- choose() of R322: the slot granted and the scheduler's registers after it. -/
def choose (s : State) (r : Nat) : Option (Nat × Work) :=
  let w := (rink r s).work
  let ready := [0, 1, 2, 3].filter (classReady s r)
  match (owed s r).head?.or ready.head? with
  | none => none
  | some c =>
    let last := w.lastGrant.get 7 c
    match ((List.range 8).map fun i => (last + 1 + i) % 8).find? fun n => readyClass s r n == some c with
    | none => none
    | some slot =>
      let starve := [1, 2, 3].foldl (fun t c2 =>
        if c2 = c then t.put c2 0 else if classReady s r c2 then t.put c2 (min 255 (t.get 0 c2 + 1)) else t) w.starve
      some (slot, { w with starve := starve, lastGrant := w.lastGrant.put c slot, sliceCnt := 0 })

/-- At a gate the scheduler switches only for a strictly higher class, at the slice's end, or for a class that is owed. -/
def mustChoose (s : State) (r : Nat) : Bool :=
  let w := (rink r s).work
  match w.running with
  | none => true
  | some j => ((List.range j.job.prio).any (classReady s r)) || decide (w.slice.toNat ≤ w.sliceCnt) || !(owed s r).isEmpty

/-! ## The context image (R325) -/

/-- The regions of a rink: logical core, site and region. -/
def rinkRegions (r : Nat) (s : State) : List (Nat × Nat × Region) :=
  (sitesOf r s).flatMap fun k =>
    match logicalOfSite r k s with
    | none => []
    | some n => ((site k s).tm.regions.filter (·.rink == r)).map fun g => (n, k, g)

def regionDirty (t : Tm) (g : Region) : Bool :=
  (List.range (g.size / 4096)).any fun i => (t.groups.get Group.empty (g.base / 4096 + i)).dirty

def regionAttr (g : Region) : Nat :=
  let p := match g.policy with
    | .refresh => 0
    | .trap => 1
    | .drop => 2
  g.cls + 4 * p + 16 * b2n g.persistent + 32 * b2n g.compressed

/-- The descriptors: for each region its fields, its ZRC code and the code's offset; codes stand on 256-byte boundaries. -/
structure Saved where
  core : Nat
  k : Nat
  region : Region
  code : List Byte
  off : Nat

def layout (s : State) : Nat → List (Nat × Nat × Region) → List Saved
  | _, [] => []
  | o, (n, k, g) :: rest =>
    if g.persistent then
      let code := zrcEncode (leWords (tmRead (site k s).tm g.base g.size))
      let o' := ceilDiv o 256 * 256
      ⟨n, k, g, code, o'⟩ :: layout s (o' + code.length) rest
    else ⟨n, k, g, [], 0⟩ :: layout s o rest

def descriptor (d : Saved) : List Byte :=
  leBytes 4 d.core ++ leBytes 4 d.region.base ++ leBytes 4 d.region.size ++ leBytes 4 (regionAttr d.region)
    ++ leBytes 4 d.code.length ++ leBytes 4 d.off ++ leBytes 8 0

/-- The registers a live map names. -/
def liveRegs (n live : Nat) : List Nat := (List.range n).filter (bitOf live)

/-- The header of a context's image (13 R320 onward, 17 R408). Every live tag is saved, with GL set or clear: the image is the scheduler's, and the spec says
nothing of GL there (DESIGN CHOICE, notes/assumptions/41.md). -/
def imageHeader (j : RunJob) (pos slive alive : Nat) (x : Ctx) (n len : Nat) : List Byte :=
  let word (v : Nat) : List Byte := leBytes 8 v
  let tags := ((List.range 16).map fun i => if bitOf alive i && (x.a.get Cap.null i).tag then 2 ^ i else 0).sum
  word (2 ^ 56 + j.slot * 2 ^ 48 + j.job.seq) ++ word pos ++ word (slive * 2 ^ 32 + alive * 2 ^ 16 + x.trap.rscnt.toNat)
    ++ word x.fstat.toNat ++ word x.fctl.toNat ++ word x.srkey.toNat ++ word (b2n x.ecntSat * 2 ^ 63 + x.ecnt.toNat) ++ word tags
    ++ (List.range 16).flatMap (fun i => word (x.trap.rse.get 0 i).toNat) ++ word n ++ word len ++ List.replicate 48 0

/-- The counter block: RTOT0 to RTOT31 (15 R371). -/
def counterBlock (q : Rink) : List Byte := (List.range 32).flatMap fun i => leBytes 8 (q.rtot.get 0 i).toNat

/-- The descriptors that stand in an earlier image of the job: core, address, size, code length and offset. -/
def oldDescriptors (r jsave : Nat) (s : State) : List (Nat × Nat × Nat × Nat × Nat) :=
  match guestRead r 0 jsave 256 s with
  | .error _ => []
  | .ok (h, _) =>
    let n := leAt h 0xC0 2
    let w := leAt h 0x10 8
    let o := 512 + 8 * (liveRegs 32 (field w 63 32)).length + 16 * (liveRegs 16 (field w 31 16)).length
    match guestRead r 0 (jsave + o) (32 * n) s with
    | .error _ => []
    | .ok (b, _) => parseMany (fun b i => (le32 b i, le32 b (i + 4), le32 b (i + 8), le32 b (i + 16), le32 b (i + 20))) b 0 32 n

/-- A region's code already stands in the job's last image: no group of it is dirty and its place in the image is unchanged (10 R275). -/
def stands (s : State) (old : List (Nat × Nat × Nat × Nat × Nat)) (d : Saved) : Bool :=
  !regionDirty (site d.k s).tm d.region && old.contains (d.core, d.region.base, d.region.size, d.code.length, d.off)

/-- A save or restore moves the groups of a region: each takes 8 beats of its bank, at 512 bytes a beat (10 R257). -/
def moveImage (g : Region) (c : Site) : Site :=
  modTm (fun t => { t with images := t.images ++ (List.range (g.size / 4096)).map fun i => (g.rink, g.base / 4096 + i, 8) }) c

/-- Write the codes of the persistent regions that are dirty. -/
def writeCodes (r jsave : Nat) (old : List (Nat × Nat × Nat × Nat × Nat)) : List Saved → State → Except Hit State
  | [], s => .ok s
  | d :: ds, s =>
    if !d.region.persistent || stands s old d then writeCodes r jsave old ds s
    else
      match guestWrite r 0 (jsave + d.off) d.code s with
      | .error h => .error h
      | .ok s' => writeCodes r jsave old ds (modSite d.k (moveImage d.region) s')

/-- A save reads the groups of the persistent regions: an uncorrectable error found in one invalidates it (18 R420). -/
def scrubRegions (r : Nat) (s : State) : State :=
  (rinkRegions r s).foldl (fun s p =>
    if p.2.2.persistent then modSite p.2.1 (fun c => (List.range (p.2.2.size / 4096)).foldl (fun c i => scrubGroup (p.2.2.base / 4096 + i) c) c) s
    else s) s

/-- Write the image of a job whose Sequencer's context is `x` and stands at `pos` (R324, R325). The bytes up to the first region's code are written as zeros (17 R408, where
13 R325 counts only the bytes before them; notes/assumptions/42.md). -/
def writeImage (r : Nat) (j : RunJob) (pos slive alive : Nat) (x : Ctx) (s0 : State) : Except Hit State :=
  let s := scrubRegions r s0
  let jsave := ((fnOf (rinkFn r s) s).slots.get JobSlot.reset j.slot).jsave.toNat
  let ss := liveRegs 32 slive
  let as := liveRegs 16 alive
  let rs := rinkRegions r s
  let fixed := 512 + 8 * ss.length + 16 * as.length + 32 * rs.length
  let ds := layout s fixed rs
  let len := ds.foldl (fun m d => max m (d.off + d.code.length)) fixed
  let old := if j.job.image then oldDescriptors r jsave s else []
  let data := imageHeader j pos slive alive x rs.length len ++ counterBlock (rink r s)
    ++ ss.flatMap (fun i => leBytes 8 (x.s.get 0 i).toNat)
    ++ as.flatMap (fun i => leBytes 16 (x.a.get Cap.null i).bits.toNat) ++ ds.flatMap descriptor
    ++ List.replicate (if ds.any (·.region.persistent) then ceilDiv fixed 256 * 256 - fixed else 0) 0
  match guestWrite r 0 jsave data s with
  | .error h => .error h
  | .ok s1 => writeCodes r jsave old ds s1

/-- After a save the regions of the rink leave TM (10 R275, R277). -/
def dropRegions (r : Nat) (s : State) : State :=
  (sitesOf r s).foldl (fun s k => modSite k (fun c =>
    modTm (fun t => (t.regions.filter (·.rink == r)).foldl (fun t g => freeRegion r g.base t) t) c) s) s

/-! ## Reading an image -/

/-- One region of an image placed again: persistent ones are decoded, valid, with age 0 and clean (10 R275). -/
def restoreRegion (r jsave : Nat) (b : List Byte) (o : Nat) (s : State) : Except Hit State :=
  let core := le32 b o
  let base := le32 b (o + 4)
  let size := le32 b (o + 8)
  let attr := le32 b (o + 12)
  let lost : Except Hit State := .ok (modWork r (fun w => { w with placed := false }) s)
  match siteOfLogical r core s with
  | none => lost
  | some k =>
    let c := site k s
    match chooseRun c r base (size / 4096) with
    | none => lost
    | some g =>
      let q : Region := { rink := r, base := g * 4096, size := size, cls := attr % 4, policy := policyOf (field attr 3 2), persistent := bitOf attr 4,
                          compressed := bitOf attr 5, owner := homeCtx c r, launch := none }
      let s1 := modSite k (modTm (placeRegion q)) s
      if !bitOf attr 4 then .ok s1
      else
        match guestRead r 0 (jsave + le32 b (o + 20)) (le32 b (o + 16)) s1 with
        | .error h => .error h
        | .ok (code, s2) =>
          let ws := (zrcDecode code.length (size / 4) code).1
          .ok (modSite k (modTm fun t =>
            let t1 := { t with bytes := t.bytes.writeBytes (g * 4096) (ws.flatMap fun w => leBytes 4 w.toNat) }
            (List.range (size / 4096)).foldl (fun t i => setGroup (g + i) { Group.empty with valid := true } t) t1) (modSite k (moveImage q) s2))

def restoreRegions (r jsave : Nat) (b : List Byte) : List Nat → State → Except Hit State
  | [], s => .ok s
  | i :: is, s =>
    match restoreRegion r jsave b (32 * i) s with
    | .error h => .error h
    | .ok s' => restoreRegions r jsave b is s'

/-! ## Starting a job -/

/-- The graph header as read (R319): code and its length, and the Gate table; none where it is malformed. -/
structure Graph where
  base : Nat
  len : Nat
  gtoff : Nat
  ngate : Nat

def parseGraph (jgraph : Nat) (h : List Byte) : Option Graph :=
  let co := le32 h 0
  let cl := le32 h 4
  let go := le32 h 8
  let n := le32 h 12
  if co % 4 = 0 ∧ 4 ≤ cl ∧ cl ≤ 2 ^ 24 ∧ go % 16 = 0 ∧ n ≤ 65535 ∧ zeros h 16 48 ∧ jgraph + co + cl ≤ 2 ^ 48 ∧ jgraph + go + 16 * n ≤ 2 ^ 48 then
    some ⟨jgraph + co, cl, jgraph + go, n⟩
  else none

def parseGate (b : List Byte) (o : Nat) : GateEntry := ⟨le32 b o, le32 b (o + 4), le16 b (o + 8), le16 b (o + 10)⟩

def codeCap (g : Graph) : Cap := Cap.grant 0 0x011 g.base g.len

/-- The Sequencer's context at job start (R320). -/
def freshSeq (now : Nat) (g : Graph) (slot : Nat) (j : Job) (x : Ctx) : Ctx :=
  let arg : Cap := Cap.grant 0 0x023 j.jarg j.arglen
  { x with
    s := Table.ofList [0, .ofNat 64 j.jarg, .ofNat 64 slot, .ofNat 64 j.seq], sValid := 0xE, sReady := Table.fill 32 now, sElastic := 0,
    a := (Table.empty : Table Cap).put 1 arg, aValid := 2, aReady := Table.fill 16 now, aElastic := 0, divFree := now,
    pc := wordAddr (.ofNat 64 g.base), npc := 0, slots := 0, code := codeCap g, fctl := 1, fstat := 0, srkey := 0,
    trap := { x.trap with rscnt := 0, handler := false, heldCode := Cap.null, pend := [], hcallWait := false },
    buf := Buffers.reset, ib := [], ahead := [], fetching := false, staged := Table.fill 3 [], rendezBeat := none, lastLaunch := none, isUnit := false, ecnt := 0, ecntSat := false,
    ctl := { running := true, timetabled := false, next := now + 1, prepared := false, cls := .issuing } }

/-- The Sequencer's context from an image's header and registers (R325). -/
def imageSeq (now : Nat) (g : Graph) (b : List Byte) (x : Ctx) : Ctx :=
  let w := leAt b 0x10 8
  let ss := liveRegs 32 (field w 63 32)
  let as := liveRegs 16 (field w 31 16)
  let tags := leAt b 0x38 8
  let sv (i : Nat) : Nat × Word := (nth 0 ss i, .ofNat 64 (leAt b (512 + 8 * i) 8))
  let av (i : Nat) : Nat × Cap :=
    let n := nth 0 as i
    let v := BitVec.ofNat 128 (leAt b (512 + 8 * ss.length + 16 * i) 16)
    (n, ⟨v, bitOf tags n && Cap.bitsOk v⟩)
  let y := freshSeq now g 0 ⟨0, 0, 0, 0, 0, true, 0⟩ x
  { y with
    s := ((List.range ss.length).map sv).foldl (fun t e => t.put e.1 e.2) Table.empty, sValid := .ofNat 32 (field w 63 32),
    a := ((List.range as.length).map av).foldl (fun t e => t.put e.1 e.2) Table.empty, aValid := .ofNat 16 (field w 31 16),
    pc := wordAddr (.ofNat 64 (leAt b 8 8)), fstat := .ofNat 6 (leAt b 0x18 8), fctl := fctlOf (leAt b 0x20 8), srkey := .ofNat 64 (leAt b 0x28 8 % 2 ^ 48),
    ecnt := .ofNat 48 (leAt b 0x30 8), ecntSat := bitOf (leAt b 0x30 8) 63,
    trap := { y.trap with rscnt := .ofNat 5 (w % 32), rse := Table.ofList ((List.range 16).map fun i => wordAddr (.ofNat 64 (leAt b (0x40 + 8 * i) 8))) } }

/-- The checkpoint of a context at a position (18 R417). -/
def checkpointOf (x : Ctx) (pos : Word) (slive alive : Nat) (w : Work) : Checkpoint :=
  { s := x.s, sLive := .ofNat 32 slive, a := x.a, aLive := .ofNat 16 alive, fstat := x.fstat, fctl := x.fctl, srkey := x.srkey,
    rscnt := x.trap.rscnt, rse := x.trap.rse, pos := pos, code := x.code, nG := w.issuedG.length, nP := w.issuedP.length, nJ := w.issuedJ.length }

/-- The rink's work at job start: GCTR, PCTR and JCTR idle, nothing issued (R312). -/
def startWork (slot : Nat) (j : Job) (g : Graph) (gates : List GateEntry) (w : Work) : Work :=
  { w with gctr := Ctr.idle, pctr := Ctr.idle, jctr := Ctr.idle, issuedG := [], issuedP := [], issuedJ := [], opLen := 0, opPosted := false,
           opEvent := none, placed := true, running := some ⟨slot, j, g.base, g.len, gates⟩ }

/-- The graph of a job reads through pages that are being moved: its start waits (14 R340). -/
def waits : Hit → Bool
  | .stall _ _ _ _ => true
  | _ => false

/-- A job that cannot start completes at once with a status. -/
def refuseJob (r slot status : Nat) (j : Job) (s : State) : State :=
  completeJob r status (modWork r (fun w => { w with running := some ⟨slot, j, 0, 0, []⟩ }) s)

/-- A cancelled job that has not its turn yet completes, and its detached operations end as a cancel at level 3 ends them (R330, 05 R140). -/
def cancelHead (r slot : Nat) (j : Job) (s : State) : State := refuseJob r slot 2 j (cancelColls r (some (slot, j.seq)) s)

/-- A job's start that cannot read: it waits for a page being moved, a check that fails in an image is a memory-error fault of the
Sequencer (14 R354, R361), and any other failure completes the job with status 0x04. -/
def startFails (r slot : Nat) (j : Job) (g : Graph) (restore : Bool) (k : Nat) (x : Side) (h : Hit) (s : State) : Option State :=
  if waits h then none
  else match h with
    | .memTrap fn ma =>
      if restore then
        let s1 := modRecov r (fun v => { v with frozen := false, count := 0, checkpoint := none }) (modWork r (startWork slot j g []) (worldSwitch r s))
        some (asCtx k x (takeTrap false 0x1B 0 true) (countMem fn ma 3 (modSite k (modCtx x (freshSeq (site k s).now g slot j)) s1)))
      else some (refuseJob r slot 4 j s)
    | _ => some (refuseJob r slot 4 j s)

/-- A job begins: its world switch, its Sequencer's context, and the first checkpoint (R320, 18 R417). -/
def beginJob (r slot : Nat) (j : Job) (g : Graph) (gates : List GateEntry) (k : Nat) (x : Side) (f : Ctx → Ctx) (rtot : Table (BitVec 48)) (s : State) : State :=
  let s1 := modRink r (fun q => { q with rtot := rtot }) (worldSwitch r s)
  let s2 := recount r (modSite k (modCtx x f) (modWork r (startWork slot j g gates) s1))
  let y := ctxOf (site k s2) x
  let cp := checkpointOf y y.pc y.sValid.toNat y.aValid.toNat (rink r s2).work
  modRecov r (fun v => { v with frozen := false, count := 0, checkpoint := some cp }) s2

/-- The start of a job from its image (R325). -/
def resumeJob (r slot : Nat) (j : Job) (g : Graph) (gates : List GateEntry) (k : Nat) (x : Side) (s : State) : Option State :=
  let jsave := ((fnOf (rinkFn r s) s).slots.get JobSlot.reset slot).jsave.toNat
  match guestRead r 0 jsave 512 s with
  | .error h => startFails r slot j g true k x h s
  | .ok (hd, s1) =>
    let w := leAt hd 0x10 8
    let regs := 8 * (liveRegs 32 (field w 63 32)).length + 16 * (liveRegs 16 (field w 31 16)).length
    let n := leAt hd 0xC0 2
    match guestRead r 0 (jsave + 512) (regs + 32 * n) s1 with
    | .error h => startFails r slot j g true k x h s1
    | .ok (b, s2) =>
      let rtot := Table.ofList ((List.range 32).map fun i => BitVec.ofNat 48 (leAt hd (256 + 8 * i) 8))
      match restoreRegions r jsave (b.drop regs) (List.range n) (modWork r (fun w => { w with placed := true }) s2) with
      | .error h => startFails r slot j g true k x h s2
      | .ok s3 =>
        let ok := (rink r s3).work.placed
        some (modWork r (fun w => { w with placed := ok }) (beginJob r slot j g gates k x (imageSeq (site k s).now g (hd ++ b)) rtot s3))

/-- The start of a slot's head job on the Sequencer's context: afresh (R320), or from its image (R325). None while a page that it reads is being
moved. -/
def startJob (r slot : Nat) (j : Job) (k : Nat) (x : Side) (s : State) : Option State :=
  match guestRead r 0 j.jgraph 64 s with
  | .error h => startFails r slot j ⟨0, 0, 0, 0⟩ false k x h s
  | .ok (b, s1) =>
    match parseGraph j.jgraph b with
    | none => some (refuseJob r slot 3 j s1)
    | some g =>
      match guestRead r 0 g.gtoff (16 * g.ngate) s1 with
      | .error h => startFails r slot j g false k x h s1
      | .ok (gt, s2) =>
        let gates := parseMany parseGate gt 0 16 g.ngate
        if j.image then resumeJob r slot j g gates k x s2
        else some (beginJob r slot j g gates k x (freshSeq (site k s2).now g slot j) (Table.fill 32 0) s2)

/-- A grant: the scheduler's registers, then the job's start; a cancelled job completes instead (R322, R330). None while the start waits. -/
def grantJob (r : Nat) (s : State) : Option State :=
  match seqSite r s, choose s r with
  | some (k, x), some (slot, w) =>
    let s1 := modWork r (fun _ => w) s
    let sl := (fnOf (rinkFn r s) s).slots.get JobSlot.reset slot
    match sl.queue with
    | [] => some s1
    | j :: _ => if sl.cancel then some (cancelHead r slot j s1) else startJob r slot j k x s1
  | _, _ => none

/-- The rink may be granted a job: it exists, is not suspended and no suspension is asked for, nothing stands against it, and the job's start need not wait
(R322, 15 R365). -/
def mayGrant (r : Nat) (s : State) : Bool :=
  let q := rink r s
  q.valid && !q.suspd && !q.susp && q.work.running.isNone && q.work.ending.isNone && decide (s.power.st = .run ∨ s.power.st = .hold)
    && (List.range 8).any (fun n => (readyClass s r n).isSome) && (grantJob r s).isSome

/-- The decision when the rink has no running job (R322). -/
def scheduleNext (r : Nat) (s : State) : State := if mayGrant r s then (grantJob r s).getD s else s

end Sys2Proof.Machine
end

