-- ==== Sys2Proof/Machine/Work.lean ====
section
/-!
DEFINITION. Launch, wait, cancel, gate, events and windows as the Rink Sequencer reaches them (05 R138 to R144, 13 R312 to R324).
-/

namespace Sys2Proof.Machine

open Host (Outcome)

/-! ## LAUNCH -/

/-- A counter whose launch has not left its running states (R312). -/
def ctrBusy (c : Ctr) : Bool := decide (c.state = .allocating ∨ c.state = .waiting ∨ c.state = .running)

/-- The LCTR the next LAUNCH takes (R312). -/
def takeCtr (w : Work) : Nat :=
  (((List.range 4).map fun i => (w.lnext + i) % 4).find? fun n => !ctrBusy (w.lctr.get Ctr.idle n)).getD w.lnext

/-- A launch is issued: it takes its counter and stands in the lists of its graph, phase and job. -/
def issueEntry (n code : Nat) (ctr : Ctr) (w : Work) : Work :=
  { w with lctr := w.lctr.put n ctr, lnext := (n + 1) % 4, issuedG := w.issuedG ++ [(n, code)], issuedP := w.issuedP ++ [(n, code)],
           issuedJ := w.issuedJ ++ [(n, code)] }

/-- The unit as it starts its way through a launch (R313). -/
def newUnit (r : Nat) (origin : Nat) (s : State) (u : UnitEntry) : UnitRun :=
  { entry := u, site := (siteOfLogical r u.core s).getD 0, offset := latency r origin u.core s, allocated := false, begun := false,
    finished := false, freezeAt := none, frozenAt := none, resumeAt := none, later := [], trapped := none, devs := [], fatal := false, lost := 0 }

/-- The Sequencer's capability registers as LAUNCH reads them. -/
def launchRegs (x : Ctx) (i : Nat) : Option Cap := if x.aValid.getLsbD i then some (x.a.get Cap.null i) else none

/-- An accepted launch (R313): PENDING is its units. -/
def acceptLaunch (r n addr : Nat) (b : List Byte) (x : Ctx) (s : State) : State :=
  let us := parseUnits b
  let l : Launch := { lctr := n, addr := addr, bytes := b, free := recFree b, origin := recOrigin b, regsA := x.a, pinned := false, pins := [],
                      units := us.map (newUnit r (recOrigin b) s), pulsed := false, time := 0, left := false, frozenSince := none,
                      froze := none, notified := false, packets := [], wrote := [] }
  modWork r (fun w => issueEntry n 4 ⟨0, .allocating, us.length⟩ { w with launches := w.launches ++ [l] }) s

/-- A rejected launch: its counter, and the record of kind 0x01 (R313, R332). -/
def rejectLaunch (r n addr st : Nat) (s : State) : State :=
  modWork r (fun w => postEvent 1 st [.ofNat 64 (addr / 4 * 4 + n)] (issueEntry n 2 ⟨st, .rejected, 0⟩ w)) s

/-- Read `n` bytes of a launch record at an address its capability reaches (R138). -/
def recordRead (r : Nat) (cap : Cap) (at' n : Nat) (s : State) : Except Hit (List Byte × State) :=
  if cap.space = 2 then
    match tmCheck (mySite s) r at' n true (fun _ => false) 0 with
    | some h => .error h
    | none => .ok (tmRead (mySite s).tm at' n, modMySite (corrected at' n) s)
  else guestRead r cap.space at' n s

/-- LAUNCH once its record is read: the status, then acceptance or rejection. A pinned page that is being moved is waited for (14 R340). A record that would be
accepted and names a flag of the other rink faults instead (02 R57; its place among the checks is a DESIGN CHOICE, notes/assumptions/41.md). -/
def finishLaunch (d : BitVec 5) (cap : Cap) (covers : Bool) (b : List Byte) (s0 s : State) : State :=
  let r := myRink s
  let x := myCtx s
  let now := (mySite s).now
  let n := takeCtr (rink r s).work
  let st := launchStatus r n covers b (launchRegs x) s
  let fault := if st = 0x0A then pinFault r b (launchRegs x) s else none
  if st = 0 ∧ reqsForeign r b s then ccStop (.trap 0x14 0) s
  else
  match fault with
  | some (.stall kind detail extra flag) => ccStop (.stall kind detail extra flag) s0
  | _ =>
    let s1 := match fault with
      | some (.walkTrap _ _ fn addr) => latchWalk fn addr s
      | _ => s
    let s2 := if st = 0 then acceptLaunch r n cap.cursor b x s1 else rejectLaunch r n cap.cursor st s1
    modMyCtx (fun x => ccIssue now 1 (advancePc { putS now 1 d (.ofNat 64 st) x with lastLaunch := some n })) (recount r s2)

/-- LAUNCH (R138): a capability that does not cover the record, its header or the rest to TOTAL, gives status 0x01 (R314; R138 has R111's fault there: DESIGN CHOICE
between the two rules, notes/assumptions/41.md). It is a release of the Sequencer's older accesses (11 R285), and waits for them; during Retention entry it does not
complete (19 R438). -/
def execLaunch (d : BitVec 5) (a : BitVec 4) (s : State) : Outcome State Fault Refusal :=
  let c := mySite s
  let x := myCtx s
  let r := myRink s
  let cap := getA x a
  match firstHit [needFree s, needSequencer s, readA c.now x a, writeS c.now 1 x d,
      hitIf (!cap.tag) (.trap 4 0),
      hitIf ((cap.space != 0 && cap.space != 1 && cap.space != 2) || !cap.hasLD) (.trap 6 0),
      hitIf (!drained x.buf || s.power.st != .run) (.stall 2 0 0 none)] with
  | some h => .next (ccStop h s)
  | none =>
    if !cap.inBounds cap.cursor 64 then .next (finishLaunch d cap false [] s s)
    else
    match recordRead r cap cap.cursor 64 s with
    | .error h => .next (ccStop h s)
    | .ok (hd, s1) =>
      if !cap.inBounds cap.cursor (recTotal hd) then .next (finishLaunch d cap false hd s s1)
      else
        match recordRead r cap (cap.cursor + 64) (recTotal hd - 64) s1 with
        | .error h => .next (ccStop h s1)
        | .ok (b, s2) => .next (finishLaunch d cap true (hd ++ b) s s2)

/-! ## LWAIT -/

/-- The first nonzero status of an issue list (R139). -/
def firstStatus (l : List (Nat × Nat)) : Nat := ((l.map (·.2)).find? (· != 0)).getD 0

/-- The status of one counter: 4 while its launch has not left its running states. -/
def ctrStatus (c : Ctr) : Nat :=
  match c.state with
  | .allocating | .waiting | .running => 4
  | .cancelled => 1
  | .rejected => 2
  | .faulted | .rewound => 3
  | _ => 0

/-- The work of a level: whether some of it still runs, and the status (R139). -/
def levelState (s : State) (r level : Nat) (x : Ctx) : Bool × Nat :=
  let w := (rink r s).work
  match level with
  | 0 =>
    match x.lastLaunch with
    | none => (false, 0)
    | some n => let v := ctrStatus (w.lctr.get Ctr.idle n); (v == 4, v)
  | 1 => (openCount w.issuedG != 0, firstStatus w.issuedG)
  | 2 => (openCount w.issuedP != 0, firstStatus w.issuedP)
  | _ => (openCount w.issuedJ != 0 || detachedCount r s != 0, firstStatus w.issuedJ)

/-- LWAIT (R139). -/
def execLwait (d : BitVec 5) (level : BitVec 2) (s : State) : Outcome State Fault Refusal :=
  let c := mySite s
  let x := myCtx s
  let v := levelState s (myRink s) level.toNat x
  .next (ccWord [needFree s, needSequencer s, writeS c.now 1 x d, hitIf v.1 (.stall 2 0 0 none)] 1
    (modMyCtx (putS c.now 1 d (.ofNat 64 v.2))) s)

/-! ## CANCEL -/

/-- A context is the unit's: its record names it, or the unit forked it (05 R127). -/
def unitHasCtx (r : Nat) (u : UnitRun) (c : Site) (x : Side) : Bool := bitOf u.entry.eng (b2n x) || (owns c r (ctxHead x) && (ctxOf c x).isUnit)

/-- The streams of a unit stop; what it has in flight goes on (R140). -/
def stopUnitSite (r : Nat) (u : UnitRun) (c : Site) : Site :=
  let its (x : Side) : Bool := unitHasCtx r u c x
  let stop (h : Nat) (b : Bool) (c : Site) : Site := if b && owns c r h then modCtl h stopCtl c else c
  let c1 := (List.range 5).foldl (fun c h => stop h (if h < 2 then its (h == 1) else bitOf u.entry.eng h) c) c
  let quiet (h : Side) (c : Site) : Site :=
    if bitOf u.entry.eng (halfHead h) && owns c r (halfHead h) then
      modHalf h (fun v => { v with nests := [], fills := [], promoteAt := none, seq := Seq.fresh }) c
    else c
  let mine (m : Command) : Bool := m.rink == r && its m.ctx
  let c2 := quiet true (quiet false c1)
  let c3 := modQ (fun q => { q with lq := q.lq.filter (!mine ·), sq := q.sq.filter (!mine ·), ce := q.ce.filter (!mine ·),
                                    chains := ⟨q.chains.cells.filter fun e => !its (e.1 % 2 == 1)⟩,
                                    skips := ⟨q.skips.cells.filter fun e => !its (e.1 % 2 == 1)⟩ }) c2
  let leave (x : Side) (c : Site) : Site := if its x then modCtx x (fun v => { v with isUnit := false }) c else c
  thawSite r (leave false (leave true c3))

/-- The queued commands a unit's contexts pushed. -/
def unitCommands (r : Nat) (u : UnitRun) (c : Site) : List Command :=
  (c.q.lq ++ c.q.sq ++ c.q.ce).filter fun m => m.rink == r && unitHasCtx r u c m.ctx

/-- The regions a launch placed are freed, except the persistent ones. -/
def freePlaced (lctr r : Nat) (c : Site) : Site :=
  modTm (fun t => (t.regions.filter fun g => g.rink == r && g.launch == some lctr && !g.persistent).foldl
    (fun t g => freeRegion r g.base t) t) c

/-- The persistent regions that a launch placed are its own no more once it has ended, for its counter is taken again. -/
def leavePlaced (lctr r : Nat) (c : Site) : Site :=
  modTm (fun t => { t with regions := t.regions.map fun g => if g.rink == r && g.launch == some lctr then { g with launch := none } else g }) c

def leaveRegions (r : Nat) (l : Launch) (s : State) : State := l.units.foldl (fun s u => modSite u.site (leavePlaced l.lctr r) s) s

/-- Free values for the bytes of a row group. -/
def freeBytes (n : Nat) : Nat → List Byte
  | 0 => []
  | k + 1 => (Config.freeValue n).setWidth 8 :: freeBytes (n + 1) k

/-- The contents of the regions that a cancelled launch has written are unspecified (R140): their valid groups hold free values. Its data images
are writes of the launch too. -/
def scrambleSite (r k : Nat) (l : Launch) (s : State) : State :=
  let its (g : Region) : Bool := g.rink == r && (l.wrote.contains (k, g.base) || g.launch == some l.lctr)
  let gs := ((site k s).tm.regions.filter its).flatMap fun g =>
    ((List.range (g.size / 4096)).map (· + g.base / 4096)).filter fun i => ((site k s).tm.groups.get Group.empty i).valid
  gs.foldl (fun s g =>
    { modSite k (modTm fun t => { t with bytes := t.bytes.writeBytes (4096 * g) (freeBytes s.fresh 4096) }) s with
      fresh := s.fresh + 4096 }) s

/-- One launch is cancelled (R140). -/
def cancelLaunch (r : Nat) (l : Launch) (s : State) : State :=
  let us := l.units.filter (·.allocated)
  let s1 := us.foldl (fun s u => (unitCommands r u (site u.site s)).foldl (fun s m => releaseCommand m s) s) s
  let s2 := us.foldl (fun s u => modSite u.site (fun c => freePlaced l.lctr r (stopUnitSite r u c)) s) s1
  let s3 := leaveRegions r l ((sitesOf r s2).foldl (fun s k => scrambleSite r k l s) (pinPages false l.pins s2))
  let s4 := modWork r (fun w => endLaunchEntries l.lctr 1
    { w with launches := w.launches.filter (·.lctr != l.lctr),
             lctr := w.lctr.put l.lctr { (w.lctr.get Ctr.idle l.lctr) with state := .cancelled, pending := 0 } }) s3
  showFreeze r s4

/-- The launches of a level that have not left their running states (R139, R140). -/
def levelLaunches (s : State) (r level : Nat) (x : Ctx) : List Launch :=
  let w := (rink r s).work
  let has (l : List (Nat × Nat)) (n : Nat) : Bool := l.any fun e => e.1 == n && e.2 == 4
  w.launches.filter fun l =>
    match level with
    | 0 => x.lastLaunch == some l.lctr
    | 1 => has w.issuedG l.lctr
    | 2 => has w.issuedP l.lctr
    | _ => has w.issuedJ l.lctr

def cancelWork (r level : Nat) (x : Ctx) (s : State) : State :=
  let s1 := (levelLaunches s r level x).foldl (fun s l => cancelLaunch r l s) s
  recount r (if level = 3 then cancelColls r (jobOf r s) s1 else s1)

/-- The Rink Sequencer has issued a word: a job that had issued none begins its span (17 R401). -/
def openSpan (k : Nat) (x : Side) (s : State) : State :=
  let r := headRink (site k s) (ctxHead x)
  let w := (rink r s).work
  if w.span = .none ∧ w.running.isSome ∧ (ctxOf (site k s) x).ctl.running ∧ isSequencer r k x s then modWork r (fun w => { w with span := .runs }) s else s

/-- The graph program ends with a completion status (R140, R149), and its span with this beat (17 R401). -/
def endGraph (r status : Nat) (s : State) : State :=
  let s1 := modWork r (fun w => { w with ending := if w.running.isSome then some status else none }) s
  scheduleNext r (settleJob r (closeSpan r s1))

/-- The context's stream ends where it stands (R149). -/
def haltCtx (x : Ctx) : Ctx :=
  { x with ctl := { x.ctl with running := false, prepared := false, cls := .issuing }, slots := 0 }

/-- CANCEL (R140): levels 1 and 3 also end the graph program. A word that ends or switches the job is charged before it does (17 R402). -/
def execCancel (level : BitVec 2) (s : State) : Outcome State Fault Refusal :=
  let n := level.toNat
  let r := myRink s
  let x := myCtx s
  if n = 0 ∨ n = 2 then
    .next (ccWord [needFree s, needSequencer s] 1 (fun s => cancelWork r n x (charge s.cur.site s.cur.ctx 3 1 s)) s)
  else
    match firstHit [needFree s, needSequencer s] with
    | some h => .next (ccStop h s)
    | none =>
      .next (endGraph r (if n = 1 then 1 else 2) (modMyCtx haltCtx (cancelWork r n x (charge s.cur.site s.cur.ctx 3 1 s))))

/-! ## GATE -/

/-- Nothing of a rink's is in flight on a core: no fill, no nest and no access or flag action of its streams. -/
def siteRetired (r : Nat) (c : Site) : Bool :=
  let half (h : Side) : Bool := !owns c r (halfHead h) || ((halfOf c h).nests.isEmpty && (halfOf c h).fills.isEmpty)
  half false && half true && c.pipe.all fun p => p.rink != r || p.stream == deviceStream

/-- Every engine operation of the rink has retired, except detached collectives (R141). -/
def rinkRetired (r : Nat) (s : State) : Bool :=
  (rink r s).work.launches.isEmpty && (commandsOf r s).isEmpty
    && (rinkOps r s).all (·.detached) && (sitesOf r s).all fun k => siteRetired r (site k s)

/-- Latches, matrix stacks and staging entries of the rink are cleared (R141). -/
def clearEngines (r : Nat) (s : State) : State :=
  (sitesOf r s).foldl (fun s k => modSite k (fun c =>
    let c1 := if owns c r 2 then modVe (fun v => { v with latchA := none, latchB := none, latchC := none }) c else c
    let half (h : Side) (c : Site) : Site :=
      if owns c r (halfHead h) then modHalf h (fun v => { v with seq := { v.seq with stack := [] } }) c else c
    let ctx (x : Side) (c : Site) : Site :=
      if owns c r (ctxHead x) then modCtx x (fun v => { v with staged := Table.fill 3 [] }) c else c
    ctx true (ctx false (half true (half false c1)))) s) s

/-- The cluster of a site (15 R369). -/
def clusterOf (k : Nat) : Nat := 6 * (k % 144 / 24) + k % 12 / 2

def sitesOfCluster (d c : Nat) : List Nat := ((List.range 144).map (· + 144 * d)).filter fun k => clusterOf k == c

/-- Every engine of every present site of a cluster belongs to the rink; a failed site is not present. -/
def clusterOwned (r d c : Nat) (s : State) : Bool :=
  (sitesOfCluster d c).all fun k => siteFailed k s || (List.range 7).all fun h => owns (site k s) r h

/-- A launch that has started and not completed has a unit on some core of a cluster (09 R239). -/
def clusterBusy (d c : Nat) (s : State) : Bool :=
  s.rinks.cells.any fun q => q.2.work.launches.any fun l => l.pulsed && l.units.any fun u =>
    decide (u.site / 144 = d) && clusterOf u.site == c

/-- Set a cluster's pattern, or hold it while a launch runs there (09 R238, R239). -/
def setPattern (d c : Nat) (pat : BitVec 16) (lock : Bool) (s : State) : State :=
  let p := if pat = 0 then 1 else pat
  if clusterBusy d c s then modDie d (fun v => { v with cpatHeld := v.cpatHeld.put c (some (p, lock)) }) s
  else modDie d (fun v => { v with cpat := v.cpat.put c p, cpatLock := v.cpatLock.put c lock, cpatHeld := v.cpatHeld.put c none }) s

/-- RPAT at a phase Gate; a PF write of the same cycle stands (15 R369). -/
def applyPattern (r : Nat) (s : State) : State :=
  if !(rink r s).rpatPend then s
  else
    let cs := [0, 1].flatMap fun d => (List.range 36).map fun c => (d, c)
    let s1 := cs.foldl (fun s e =>
      if clusterOwned r e.1 e.2 s && !(die e.1 s).cpatLock.get false e.2 && (die e.1 s).cpatAt.get 0 e.2 != s.cycle + 1 then setPattern e.1 e.2 (rink r s).rpat false s else s) s
    modRink r (fun q => { q with rpatPend := false }) s1

/-- The vote at a gate: OP and CAP at a phase Gate, CAP alone at any (19 R429). -/
def applyVote (p : Bool) (q : Rink) : Rink :=
  let low (a b : BitVec 3) : BitVec 3 := if a.toNat ≤ b.toNat then a else b
  let eff := if p && q.votePend then low q.voteOp q.voteCap else q.voteEff
  { q with voteEff := low eff q.voteCap, votePend := q.votePend && !p }

/-- The gate's entry in the Gate table (R319). -/
def gateEntry (s : State) (r : Nat) (pc : Word) : Option GateEntry :=
  match (rink r s).work.running with
  | none => none
  | some j => j.gates.find? fun g => j.codeBase + g.off == pc.toNat

/-- What a gate does to the rink in its one step, before the scheduler's decision (R141, 18 R417, R418). -/
def gateStep (r : Nat) (p : Bool) (g : GateEntry) (pos : Word) (x : Ctx) (s : State) : State :=
  let s1 := modWork r (fun w => { w with
    gateAddr := pos - 4, gateName := g.name, phase := w.phase + b2n p, pctr := if p then Ctr.idle else w.pctr,
    issuedP := if p then [] else w.issuedP, opLen := 0, opPosted := false, opEvent := none }) (clearEngines r s)
  let s2 := if p then applyPattern r s1 else s1
  modRecov r (fun v => { v with count := 0, checkpoint := some (checkpointOf x pos g.slive g.alive (rink r s2).work) }) s2

/-- Stop the Rink Sequencer's context. -/
def haltSeq (r : Nat) (s : State) : State :=
  match seqSite r s with
  | some (k, x) => modSite k (modCtx x fun v => { v with ctl := stopCtl v.ctl }) s
  | none => s

/-- The running job's image is written from the Sequencer's context as it stood at `pos`, its regions leave TM, and it is ready again
(R324, R325). None while a page that it writes is being moved (14 R340). -/
def saveJob (r slive alive pos : Nat) (x : Ctx) (s : State) : Option State :=
  match (rink r s).work.running with
  | none => some s
  | some j =>
    let s1 := worldSwitch r s
    match writeImage r j pos slive alive x s1 with
    | .error h => if waits h then none else some (completeJob r 4 (haltSeq r s1))
    | .ok s2 =>
      let mark (q : List Job) : List Job := match q with
        | [] => []
        | h :: t => { h with image := true, beats := j.job.beats } :: t
      let s3 := modFn (rinkFn r s2) (fun f =>
        let sl := f.slots.get JobSlot.reset j.slot
        { f with slots := f.slots.put j.slot { sl with queue := mark sl.queue } }) s2
      some (haltSeq r (modWork r (fun w => { w with running := none, ending := none }) (dropRegions r s3)))

/-- Pre-emption of the running job at its gate (R324). -/
def preempt (r : Nat) (g : GateEntry) (pos : Word) (s : State) : Option State :=
  match seqSite r s with
  | some (k, x) => saveJob r g.slive g.alive pos.toNat (ctxOf (site k s) x) s
  | none => some s

/-- A suspension that was requested takes effect (15 R365). -/
def takeSusp (r : Nat) (s : State) : State := modRink r (fun q => { q with suspd := true }) s

/-- The running job's slot has been cancelled (R330). -/
def jobCancelled (s : State) (r : Nat) : Bool :=
  match (rink r s).work.running with
  | none => false
  | some j => ((fnOf (rinkFn r s) s).slots.get JobSlot.reset j.slot).cancel

/-- A cancelled job ends at its gate, and its detached operations with it (R330). -/
def cancelJob (r : Nat) (s : State) : State := completeJob r 2 (haltSeq r (recount r (cancelColls r (jobOf r s) s)))

/-- The slot's head job follows the one that was pre-empted for it; a cancelled one completes instead. -/
def followJob (r slot : Nat) (s : State) : Option State :=
  match seqSite r s, headJob s r slot with
  | some (k, x), some h =>
    if (rink r s).work.running.isSome then some s
    else if ((fnOf (rinkFn r s) s).slots.get JobSlot.reset slot).cancel then some (cancelHead r slot h s)
    else startJob r slot h k x s
  | _, _ => some s

/-- The decision at a gate (R322, R324, R330, 15 R365, 19 R438): a suspension that was asked for takes effect whatever becomes of the job. None while an
image is kept from its place by a page that is being moved. -/
def gateDecision (r : Nat) (g : GateEntry) (pos : Word) (s : State) : Option State :=
  let q := rink r s
  if q.susp && !q.suspd then
    if jobCancelled s r then some (takeSusp r (cancelJob r s)) else (preempt r g pos s).map (takeSusp r)
  else if jobCancelled s r then some (scheduleNext r (cancelJob r s))
  else if s.power.st = .entering then some (haltSeq r s)
  else if !mustChoose s r then some s
  else
    match choose s r, q.work.running with
    | some (slot, w), some j =>
      if slot = j.slot then some (modWork r (fun _ => w) s)
      else (preempt r g pos (modWork r (fun _ => w) s)).bind (followJob r slot)
    | _, _ => some s

/-- At this gate the job goes on: no suspension, cancellation or Retention stands against it, and the scheduler keeps it (R322). -/
def gateStays (r : Nat) (s : State) : Bool :=
  let q := rink r s
  !(q.susp && !q.suspd) && !jobCancelled s r && s.power.st != .entering && (!mustChoose s r || (match choose s r, q.work.running with
    | some (slot, _), some j => slot == j.slot
    | _, _ => true))

/-- A register that the gate's map names as live waits for a load: the checkpoint takes its value when it has come (18 R417). -/
def livePending (g : GateEntry) (x : Ctx) : Bool :=
  (liveRegs 32 g.slive).any (fun i => bitOf x.sElastic.toNat i) || (liveRegs 16 g.alive).any fun i => bitOf x.aElastic.toNat i

/-- GATE (R141), charged before the decision, so that an image holds the charge (17 R402). One that switches waits for the context's own accesses too, which belong to
the job that leaves (notes/assumptions/21.md). -/
def execGate (p : Bool) (s : State) : Outcome State Fault Refusal :=
  let x := myCtx s
  let r := myRink s
  match gateEntry s r x.pc with
  | none => .next (ccWord [slotHit x, needFree s, needSequencer s, some (.trap 0x28 0)] 1 id s)
  | some g =>
    match firstHit [slotHit x, needFree s, needSequencer s, hitIf (!rinkRetired r s || livePending g x || (!gateStays r s && !drained x.buf)) (.stall 2 0 0 none)] with
    | some h => .next (ccStop h s)
    | none =>
      let s1 := modRink r (applyVote p) s
      if s1.power.cur < (rink r s1).voteEff.toNat then .next (ccStop (.stall 2 0 0 none) s1)
      else
        let pos := x.pc + 4
        let s2 := modMyCtx (fun x => ccIssue (mySite s1).now 1 (advancePc x))
          (gateStep r p g pos x (charge s.cur.site s.cur.ctx 3 1 s1))
        match gateDecision r g pos (if gateStays r s2 then s2 else closeSpan r s2) with
        | some s3 => .next s3
        | none => .next (ccStop (.stall 2 0 0 none) s1)

/-! ## Events and windows -/

/-- EVPOP (R142). -/
def execEvpop (d : BitVec 5) (s : State) : Outcome State Fault Refusal :=
  let c := mySite s
  let r := myRink s
  .next (ccWord [needFree s, needSequencer s, writeS c.now 1 (myCtx s) d] 1 (fun s =>
    let e := popEvent (rink r s).work
    modMyCtx (putS c.now 1 d e.1) (modWork r (fun _ => e.2) s)) s)

/-- A command of the rink that is queued or running may write a page of window `w`, as R130 has it. The operations that a command detached go on after it has
retired, and wpub does not wait for them (DEDUCED, notes/assumptions/42.md). -/
def writesWindow (r w : Nat) (s : State) : Bool :=
  (commandsOf r s).any fun c => (List.range c.bases.length).any fun i =>
    (nth ⟨Cap.null, []⟩ c.bases i).pages.any fun p => bitOf p.ia 47 && field p.ia 45 40 == w
      && (writeRanges c.queue c.bases c.words i).any fun g => decide (g.1 < ((p.va + p.size : Nat) : Int) ∧ (p.va : Int) < g.2)

/-- WPUB (R143, 11 R292). The wsyncs of the window in this cycle come after it. -/
def execWpub (w : BitVec 6) (s : State) : Outcome State Fault Refusal :=
  let r := myRink s
  let x := myCtx s
  let n := w.toNat
  let v := windowOf n s
  let own := v.valid && v.owner.toNat == r && v.wwr.getLsbD r
  .next (ccWord [needFree s, hitIf (!own) (.trap 0x27 n),
      hitIf (!(x.buf.stores.isEmpty && !x.buf.atomicOut) || writesWindow r n s) (.stall 2 0 0 none)] 1
    (fun s => (s.synced.filter (·.2 == n)).foldl (fun s q => viewSync q.1 n s) (viewPublish n (modWindow n (fun v => { v with pub := v.pub + 1 }) s))) s)

/-- WSYNC (R144, 11 R292). -/
def execWsync (w : BitVec 6) (s : State) : Outcome State Fault Refusal :=
  let r := myRink s
  let n := w.toNat
  let v := windowOf n s
  .next (ccWord [needFree s, hitIf (!(v.valid && v.wrd.getLsbD r)) (.trap 0x27 n)] 1 (fun s => { viewSync r n s with synced := (r, n) :: s.synced }) s)

end Sys2Proof.Machine
end

