-- ==== Sys2Proof/Machine/System.lean ====
section
/-!
DEFINITION. Traps by instruction, system registers, HALT and SNAP (05 R145 to R150, 02 R59 to R66).
-/

namespace Sys2Proof.Machine

open Host (Outcome)

/-- TRAP (R145). -/
def execTrap (n : BitVec 10) (s : State) : Outcome State Fault Refusal :=
  .next (takeTrap true 0x1C n.toNat false s)

/-- ERET (R146): not in a delay slot, not in timetabled mode, and only in handler state. -/
def execEret (s : State) : Outcome State Fault Refusal :=
  let x := myCtx s
  match firstHit [slotHit x, needFree s, hitIf (!x.trap.handler) (.trap 0x1D 0)] with
  | some h => .next (ccStop h s)
  | none => .next (modMyCtx (leaveHandler (mySite s).now) s)

/-- HCALL (R147): the request is posted with the arguments in s1 to s8, and issue stops until the hypervisor returns. -/
def execHcall (n : BitVec 10) (s : State) : Outcome State Fault Refusal :=
  let c := mySite s
  let x := myCtx s
  let args := (List.range 8).map fun i => x.s.get 0 (i + 1)
  .next (ccWord [needFree s] 1 (fun s =>
    send (.hcall x.ctxid x.vfid n.toNat args)
      (modMyCtx (fun x =>
        let y := saveTrap true (ecauseWord n.toNat 0x1E (ctxHead s.cur.ctx) false false) x
        { y with trap := { y.trap with hcallWait := true }, ctl := { y.ctl with next := c.now + 1 } }) s)) s)

/-! ## System registers -/

/-- RING, LCNT and LPASS (02 R65). -/
def ringWord (l : Loop) : Word := .ofNat 64 (l.pturn.toNat * 65536 + l.size.toNat * 256 + l.turn.toNat)
def lcntWord (l : Loop) : Word := .ofNat 64 (l.loopno.toNat * 2 ^ 48 + l.depth.toNat * 2 ^ 40 + l.count.toNat)
def lpassWord (l : Loop) : Word := .ofNat 64 l.pass.toNat

/-- The value of a system register (02 R59 to R66). -/
def readSys (c : Site) (x : Ctx) (n : Nat) : Word :=
  match n with
  | 0x000 => c.beat
  | 0x001 => x.trap.epc
  | 0x002 => x.trap.enpc
  | 0x003 => x.trap.eds.setWidth 64
  | 0x004 => x.trap.ecause
  | 0x008 => x.fstat.setWidth 64
  | 0x009 => x.fctl.setWidth 64
  | 0x00A => x.srkey
  | 0x010 => x.trap.rscnt.setWidth 64
  | 0x011 => ringWord c.ve.loop
  | 0x012 => lcntWord c.ve.loop
  | 0x013 => .ofNat 64 (b2n x.ecntSat * 2 ^ 63 + x.ecnt.toNat)
  | 0x014 => lpassWord c.ve.loop
  | 0x018 => x.ctxid
  | 0x019 => x.vfid
  | _ =>
    if n < 0x30 then x.trap.rse.get 0 (n - 0x20) else (c.obs.wcnt.get 0 (n - 0x40)).setWidth 64


/-- RING.SIZE as written (02 R65). -/
def ringSize (n : Nat) : Nat := if n % 6 = 0 ∧ 6 ≤ n ∧ n ≤ 48 then n else 48

def writeRing (v : Nat) (l : Loop) : Loop :=
  let size := ringSize (field v 13 8)
  { l with pturn := .ofNat 3 (field v 18 16), size := .ofNat 6 size, turn := .ofNat 6 (field v 5 0 % size) }

def writeLcnt (v : Nat) (l : Loop) : Loop :=
  let d := field v 47 40
  { l with depth := .ofNat 8 (if d = 0 then 1 else min d 128), count := .ofNat 32 v }

/-- FCTL and SRKEY keep their old values for the words of this beat (R148). -/
def stampCtl (now : Nat) (x : Ctx) : Ctx :=
  if x.ctlAt = now + 1 then x else { x with prevFctl := x.fctl, prevSrkey := x.srkey, ctlAt := now + 1 }

/-- FCTL and SRKEY as a word of this beat samples them. -/
def sampleFctl (now : Nat) (x : Ctx) : BitVec 6 := if x.ctlAt = now + 1 then x.prevFctl else x.fctl
def sampleSrkey (now : Nat) (x : Ctx) : Word := if x.ctlAt = now + 1 then x.prevSrkey else x.srkey

/-- RING, LCNT and LPASS likewise, which both contexts may read (R148). -/
def stampVe (now : Nat) (v : Ve) : Ve := if v.loopAt = now + 1 then v else { v with prevLoop := v.loop, loopAt := now + 1 }

def sampleVe (now : Nat) (v : Ve) : Ve := if v.loopAt = now + 1 then { v with loop := v.prevLoop } else v

/-- The write of a context register; fields keep their access codes (R148, 02 R60 to R66). -/
def writeSys (now n : Nat) (v : Word) (x : Ctx) : Ctx :=
  let t := x.trap
  match n with
  | 0x001 => { x with trap := { t with epc := wordAddr v } }
  | 0x002 => { x with trap := { t with enpc := wordAddr v } }
  | 0x003 => { x with trap := { t with eds := .ofNat 2 (min (v.toNat % 4) 2) } }
  | 0x004 => { x with trap := { t with ecause := ecauseWord (field v.toNat 47 32) (v.toNat % 65536) (field v.toNat 29 24) (v.getLsbD 31) (v.getLsbD 30) } }
  | 0x008 => { x with fstat := v.setWidth 6 }
  | 0x009 => { stampCtl now x with fctl := fctlOf v.toNat }
  | 0x00A => { stampCtl now x with srkey := .ofNat 64 (v.toNat % 2 ^ 48) }
  | 0x010 => { x with trap := { t with rscnt := .ofNat 5 (min (v.toNat % 32) 16) } }
  | _ => if 0x20 ≤ n ∧ n < 0x30 then { x with trap := { t with rse := t.rse.put (n - 0x20) (wordAddr v) } } else x

def writeLoop (n : Nat) (v : Word) (l : Loop) : Loop :=
  match n with
  | 0x011 => writeRing v.toNat l
  | 0x012 => writeLcnt v.toNat l
  | 0x014 => { l with pass := .ofNat 32 v.toNat }
  | _ => l

def isVeReg (n : Nat) : Bool := n == 0x011 || n == 0x012 || n == 0x014

/-- The VE registers are reached by the context whose rink owns the VE (02 R59). -/
def veHit (s : State) (n : Nat) : Option Hit := hitIf (isVeReg n && !owns (mySite s) (myRink s) 2) (.trap 0x12 2)

/-- MFS (R148). -/
def execMfs (d : BitVec 5) (reg : BitVec 10) (s : State) : Outcome State Fault Refusal :=
  let c := mySite s
  .next (ccWord [veHit s reg.toNat, writeS c.now 1 (myCtx s) d] 1
    (fun s => modMyCtx (putS c.now 1 d (readSys { c with ve := sampleVe c.now c.ve } (myCtx s) reg.toNat)) s) s)

/-- MTS (R148): a VE register may not be written while a VE unit is in progress (02 R59), which the model takes to be while the VE's stream runs, neither from
its unit's allocation nor to that unit's completion (DESIGN CHOICE, notes/assumptions/42.md). -/
def execMts (reg : BitVec 10) (a : BitVec 5) (s : State) : Outcome State Fault Refusal :=
  let c := mySite s
  let x := myCtx s
  let n := reg.toNat
  .next (ccWord [readS c.now x a, veHit s n, hitIf (isVeReg n && c.ve.ctl.running) (.trap 0x13 0)] 1
    (fun s => if isVeReg n then modMyVe (fun v => { stampVe c.now v with loop := writeLoop n (getS x a) v.loop }) s
              else modMyCtx (writeSys c.now n (getS x a)) s) s)

/-! ## HALT and SNAP -/

/-- HALT (R149): the stream ends where it stands, in a delay slot too. Commands and stores it has issued go on. A halt of the Rink
Sequencer ends the graph program and completes its job once every launch of it has left its running state; the word is charged
before the job's record and the next grant (17 R402). -/
def execHalt (s : State) : Outcome State Fault Refusal :=
  let r := myRink s
  let s1 := modMyCtx haltCtx (charge s.cur.site s.cur.ctx 3 1 s)
  .next (if isSequencer r s.cur.site s.cur.ctx s then endGraph r 0 s1 else s1)

def triggerSite (from' k : Nat) (s : State) : State := modSite k (modObs fun o => { o with snapReq := some (o.snapReq.getD from') }) s

def triggerDies (from' : Nat) (s : State) : State :=
  let f (d : Die) : Die := { d with snapReq := some (d.snapReq.getD from') }
  modDie 1 f (modDie 0 f s)

/-- The source of a trigger that comes from no core. -/
def noSite : Nat := 288

/-- The common snapshot trigger of a rink: every core block of it and both die blocks latch at the cycle that begins the next beat (R150, 15
R379). -/
def triggerRink (from' r : Nat) (s : State) : State := (sitesOf r s).foldl (fun s k => triggerSite from' k s) (triggerDies from' s)

/-- SNAP (R150). -/
def execSnap (s : State) : Outcome State Fault Refusal :=
  .next (ccWord [] 1 (fun s => triggerRink s.cur.site (myRink s) s) s)

end Sys2Proof.Machine
end

