-- ==== Sys2Proof/Machine/Units.lean ====
section
/-!
DEFINITION. The life of a launch's units: allocation, the start pulse and completion (02 R67, 05 R138, R149, 09 R239 to R245, 13 R313,
R316, R318, 15 R378).
-/

namespace Sys2Proof.Machine

open Host (Outcome)

/-! ## Allocation (R67, R316, R318) -/

/-- The region a register load names, as its address and size: the unit's code image for ARG 0xFFFF. -/
def loadRegion (u : UnitEntry) (addrs : List Nat) (code arg : Nat) : Nat × Nat :=
  if arg = 0xFFFF then (code, ceilDiv u.imgLen 4096 * 4096)
  else (nth 0 addrs arg, (nth ⟨0, 0, 0, 0, 0⟩ u.regions arg).size)

/-- One register load of a context (R316). -/
def applyLoad (now : Nat) (l : Launch) (u : UnitEntry) (addrs : List Nat) (code : Nat) (q : RegLoad) (x : Ctx) : Ctx :=
  let g := loadRegion u addrs code q.arg
  match q.kind with
  | 0 => putS now 0 (.ofNat 5 q.reg) (.ofNat 64 q.value) x
  | 1 => putA now 0 (.ofNat 4 (q.reg - 32)) ((Cap.grant 2 q.perm g.1 g.2).moveTo ((g.1 + q.value) % 2 ^ 64)) x
  | 2 => putA now 0 (.ofNat 4 (q.reg - 32)) (l.regsA.get Cap.null q.arg) x
  | _ => putS now 0 (.ofNat 5 q.reg) (.ofNat 64 (g.1 + q.value)) x

/-- The registers of a context at allocation: zero, untagged and invalid, then the record's loads (R67). A result of an earlier unit that
is still to come is dropped. -/
def allocCtx (now : Nat) (l : Launch) (u : UnitEntry) (addrs : List Nat) (code : Nat) (c : Side) (x : Ctx) : Ctx :=
  let y : Ctx := { x with
    s := Table.fill 32 0, sValid := 0, sReady := Table.fill 32 now, sElastic := 0, a := Table.fill 16 Cap.null, aValid := 0,
    aReady := Table.fill 16 now, aElastic := 0, divFree := now, slots := 0, npc := 0, rendezBeat := none, lastLaunch := none,
    isUnit := true, buf := { x.buf with loads := [], atomicOut := false }, ib := [], ahead := [], fetching := false, staged := Table.fill 3 [] }
  (u.loads.filter (·.ctx == c)).foldl (fun y q => applyLoad now l u addrs code q y) y

/-- The vector engine at allocation (R67). -/
def allocVe (v : Ve) : Ve :=
  { v with vValid := 0, pValid := 0, xValid := 0, latchA := none, latchB := none, latchC := none,
           loop := { v.loop with pturn := 0, size := 48, turn := 0, loopno := 0, depth := 1, count := 0, pass := 0 },
           looping := false, slots := 0, npc := 0, taken := false, stall := 0, brk := 0 }

/-- A matrix half at allocation (R67). The numeric flags held with a Ready slot that no operation has read go with the slot: R200 says that none is lost
and names only release and refill, R67 has FSTAT unchanged (DESIGN CHOICE, notes/assumptions/42.md). -/
def allocHalf (h : Half) : Half :=
  { h with slots := Table.fill 8 Slot.empty, slotErrs := Table.empty, sumErrs := dropRange 32768 32896 h.sumErrs, narrow := Table.empty,
           seq := Seq.fresh, promoteAt := none }

/-- The code capability of stream `i`: its words exactly, with X and LD (R254, R318). -/
def streamCap (u : UnitEntry) (code i : Nat) : Cap :=
  let p := nth (0, 0) u.strm i
  Cap.grant 2 0x011 (code + 256 * p.1) (p.2 * streamBytes i)

/-- The streams of a unit take their code capabilities; they do not run before the start pulse. -/
def allocStreams (free : Bool) (u : UnitEntry) (code : Nat) (c : Site) : Site :=
  let ctl (t : Ctl) : Ctl := { t with running := false, timetabled := !free, prepared := false, cls := .empty }
  (List.range 5).foldl (fun c i =>
    if !bitOf u.eng i then c
    else
      let k := streamCap u code i
      let pc : Word := .ofNat 64 k.cursor
      let c1 := modCtl i ctl c
      match i with
      | 0 => modCtx false (fun x => { x with code := k, pc := pc }) c1
      | 1 => modCtx true (fun x => { x with code := k, pc := pc }) c1
      | 2 => modVe (fun v => { v with code := k, pc := pc }) c1
      | 3 => modHalf false (fun h => { h with code := k, pcBase := pc }) c1
      | _ => modHalf true (fun h => { h with code := k, pcBase := pc }) c1) c

/-- The data images of a unit's regions and its code image, relocated, written to TM (R318). -/
def writeImages (l : Launch) (u : UnitEntry) (addrs : List Nat) (code : Nat) (img : List Byte) (t : Tm) : Tm :=
  let t1 := (u.regions.zip addrs).foldl (fun t e => tmWrite e.2 ((l.bytes.drop e.1.doff).take e.1.dlen) none t) t
  tmWrite code img none t1

/-- A unit is allocated on its core; none while its regions do not fit. -/
def allocSite (r : Nat) (l : Launch) (u : UnitEntry) (c : Site) : Option Site :=
  match placeUnit r l.lctr u c with
  | none => none
  | some (c1, addrs, code) =>
    match relocate u addrs u.rels ((l.bytes.drop u.imgOff).take u.imgLen) with
    | none => none
    | some img =>
      let c2 := modTm (writeImages l u addrs code img) c1
      let ctx (x : Side) (c : Site) : Site :=
        if bitOf u.eng (b2n x) then modCtx x (allocCtx c.now l u addrs code x) c else c
      let half (h : Side) (c : Site) : Site := if bitOf u.eng (halfHead h) then modHalf h allocHalf c else c
      let c3 := half true (half false (ctx true (ctx false c2)))
      some (allocStreams l.free u code (if bitOf u.eng 2 then modVe allocVe c3 else c3))

/-- An earlier launch of the rink still holds the core. -/
def coreHeld (s : State) (r lctr k : Nat) : Bool :=
  let earlier := (rink r s).work.launches.takeWhile (·.lctr != lctr)
  earlier.any fun l => l.units.any fun u => u.site == k && !u.finished

/-- The answers to atomics that an earlier, cancelled unit of the contexts has out go nowhere. -/
def forgetAtomics (u : UnitRun) (s : State) : State :=
  let its (a : AtomReq) : Bool := decide (a.requester < 1024) && a.site == u.site && bitOf u.entry.eng (b2n a.ctx)
  { s with atomics := s.atomics.mapVals fun _ b => { b with q := b.q.map fun a => if its a then { a with wanted := false } else a } }

/-- Allocate the units of a launch whose cores are free, in the record's order. -/
def allocUnits (r : Nat) (l : Launch) : List UnitRun → State → State
  | [], s => s
  | u :: us, s =>
    if u.allocated || coreHeld s r l.lctr u.site then allocUnits r l us s
    else
      match allocSite r l u.entry (site u.site s) with
      | none => allocUnits r l us s
      | some c =>
        allocUnits r l us (modLaunch r l.lctr (modUnit u.site fun v => { v with allocated := true }) (forgetAtomics u (setSite u.site c s)))

/-- The list is translated again and pinned once every unit is allocated and every region placed (R138); until every page of it translates the launch
waits (DESIGN CHOICE, notes/assumptions/41.md). -/
def launchPages (r : Nat) (l : Launch) (s : State) : Option (List Page) :=
  match pinList s r (fun i => some (l.regsA.get Cap.null i)) (parsePins l.bytes) with
  | .error _ => none
  | .ok ps => some ps

def pinLaunch (r : Nat) (l : Launch) (s : State) : State :=
  match launchPages r l s with
  | none => s
  | some ps =>
    let pins := distinctPages ps
    countPages r pins (pinPages true pins (modLaunch r l.lctr (fun l => { l with pinned := true, pins := pins }) s))

def launchAt (s : State) (r lctr : Nat) : Option Launch := (rink r s).work.launches.find? (·.lctr == lctr)

def setCtrState (r lctr : Nat) (st : CtrState) (s : State) : State :=
  modWork r (fun w => { w with lctr := w.lctr.put lctr { (w.lctr.get Ctr.idle lctr) with state := st } }) s

/-- UNIT_ALLOCATION (R138, R313): once every unit is allocated and the list pinned the launch waits for its entry. -/
def execUnitAllocation (r lctr : Nat) (s : State) : Outcome State Fault Refusal :=
  match launchAt s r lctr with
  | none => .next s
  | some l =>
    let s1 := allocUnits r l l.units s
    let s2 := match launchAt s1 r lctr with
      | some v => if v.units.all (·.allocated) && !v.pinned then pinLaunch r v s1 else s1
      | none => s1
    match launchAt s2 r lctr with
    | some v => .next (if v.pinned && !v.pulsed then setCtrState r lctr .waiting s2 else s2)
    | none => .next s2

/-- A unit of the launch could be allocated now, or its list pinned. -/
def canAllocate (s : State) (r : Nat) (l : Launch) : Bool :=
  (l.units.all (·.allocated) && !l.pinned && (launchPages r l s).isSome) || l.units.any fun u => !u.allocated && !coreHeld s r l.lctr u.site && (allocSite r l u.entry (site u.site s)).isSome

/-! ## The start pulse (R239, R241, R245) -/

/-- An entry requirement holds in this beat (R245). -/
def reqHolds (c : Site) (q : Nat × Nat) : Bool :=
  if 16 ≤ q.1 ∧ q.1 < 32 then decide (q.2 ≤ c.flags.tokensBefore.get 0 (q.1 - 16)) else flagSample c q.1

/-- The pattern in force of a die's cluster (09 R238). -/
def patternOf (d x : Nat) (s : State) : BitVec 16 := (die d s).cpat.get 0xFFFF x

def clusterPattern (k : Nat) (s : State) : BitVec 16 := patternOf (dieOfSite k) (clusterOf k) s

/-- The clusters of the launch's units hold one pattern (R239). -/
def patternsAgree (l : Launch) (s : State) : Bool :=
  match l.units with
  | [] => true
  | u :: us => us.all fun v => clusterPattern v.site s == clusterPattern u.site s

def reqsHold (l : Launch) (s : State) : Bool := l.units.all fun u => u.entry.reqs.all fun q => reqHolds (site u.site s) q

def mayStart (l : Launch) (s : State) : Bool :=
  !l.pulsed && l.pinned && decide (s.power.st = .run) && reqsHold l s && patternsAgree l s

/-- START_PULSE (R245): the requirements hold in this beat, and the pulse leaves the origin in the next. -/
def execStartPulse (r lctr : Nat) (s : State) : Outcome State Fault Refusal :=
  match launchAt s r lctr with
  | none => .next s
  | some l =>
    .next (if mayStart l s then setCtrState r lctr .running (modLaunch r lctr (fun l => { l with pulsed := true }) s) else s)

/-- The pulse reaches a unit: BEAT is 0 and its streams begin (R241). -/
def beginSite (u : UnitEntry) (c : Site) : Site :=
  let start (c : Site) (i : Nat) : Site :=
    if bitOf u.eng i && (nth (0, 0) u.strm i).2 != 0 then
      modCtl i (fun t => { t with running := true, next := c.now, prepared := false, cls := .issuing }) c
    else c
  (List.range 5).foldl start { c with beat := 0 }

def beginUnit (r lctr : Nat) (u : UnitRun) (s : State) : State :=
  modSite u.site (beginSite u.entry) (modLaunch r lctr (modUnit u.site fun v => { v with begun := true }) s)

/-! ## Completion (R149, R214, R313, R378) -/

/-- A command that the unit's contexts pushed. -/
def pushedBy (r : Nat) (u : UnitRun) (c : Site) (m : Command) : Bool := m.rink == r && unitHasCtx r u c m.ctx

def noneOf (r : Nat) (u : UnitRun) (c : Site) (q : Option Run) : Bool := match q with
  | some x => !pushedBy r u c x.cmd
  | none => true

/-- An access or flag action in flight on site `k` is of the unit's own streams. -/
def issuedBy (r : Nat) (u : UnitRun) (s : State) (k : Nat) (p : Pend) : Bool :=
  p.rink == r && (if p.stream < 2 then unitHasCtx r u (site u.site s) (p.stream == 1) else bitOf (u.entry.eng % 32) p.stream) && (match p.via with
    | some v => v.1
    | none => k) == u.site

/-- The rink's streams and engine operations on a core are over, and every access its unit made is performed: what a launch's completion
releases (11 R285). -/
def unitQuiet (r : Nat) (u : UnitRun) (s : State) : Bool :=
  let c := site u.site s
  let ctxDone (x : Side) : Bool :=
    !owns c r (ctxHead x) || !(ctxOf c x).isUnit || (!(ctxOf c x).ctl.running && drained (ctxOf c x).buf)
  let halfDone (h : Side) : Bool :=
    !bitOf u.entry.eng (halfHead h) || (!(halfOf c h).ctl.running && (halfOf c h).nests.isEmpty && (halfOf c h).fills.isEmpty)
  ctxDone false && ctxDone true && (!bitOf u.entry.eng 2 || !c.ve.ctl.running) && halfDone false && halfDone true
    && (c.q.lq ++ c.q.sq ++ c.q.ce).all (!pushedBy r u c ·) && noneOf r u c c.q.run0 && noneOf r u c c.q.run1
    && (s.dies.cells.all fun d => d.2.ce.cells.all fun e => match e.2.run with
      | some v => !pushedBy r u c v.cmd || v.site != u.site
      | none => true)
    && (c.pipe.all (!issuedBy r u s u.site ·)) && !frozenFor c r

/-- ECNT of a unit's context is added into the Rink Sequencer's and cleared (R378). -/
def mergeEnergy (r k : Nat) (x : Side) (s : State) : State :=
  let v := ctxOf (site k s) x
  let s1 := modSite k (modCtx x fun v => { v with ecnt := 0, ecntSat := false }) s
  match seqSite r s with
  | some (k', x') => modSite k' (modCtx x' fun y =>
      let z := addEnergy v.ecnt.toNat y
      { z with ecntSat := z.ecntSat || v.ecntSat }) s1
  | none => s1

/-- The last unit has completed: the launch is complete (R313). -/
def completeLaunch (r : Nat) (l : Launch) (s : State) : State :=
  let s1 := leaveRegions r l (l.units.foldl (fun s u => modSite u.site (freePlaced l.lctr r) s) (pinPages false l.pins s))
  let s2 := modWork r (fun w => endLaunchEntries l.lctr 0
    { w with launches := w.launches.filter (·.lctr != l.lctr),
             lctr := w.lctr.put l.lctr ⟨0, .complete, 0⟩ }) s1
  scheduleNext r (settleJob r (recount r s2))

/-- The unit's contexts are free of it. -/
def leaveUnit (r : Nat) (c : Site) : Site :=
  let f (x : Side) (c : Site) : Site := if owns c r (ctxHead x) then modCtx x (fun v => { v with isUnit := false }) c else c
  f true (f false c)

/-- A unit that is begun may complete; the last one of a launch waits for every write of the launch (11 R285). -/
def mayComplete (r : Nat) (l : Launch) (u : UnitRun) (s : State) : Bool :=
  u.begun && !u.finished && unitQuiet r u s
    && (!(l.units.all fun v => v.finished || v.site == u.site) || (sitesOf r s).all fun k => (site k s).pipe.all fun p => l.units.all fun v => !issuedBy r v s k p)

/-- UNIT_COMPLETE (R149, R313, R378). -/
def execUnitComplete (r lctr lcore : Nat) (s : State) : Outcome State Fault Refusal :=
  match launchAt s r lctr with
  | none => .next s
  | some l =>
    match l.units.find? (·.entry.core == lcore) with
    | none => .next s
    | some u =>
      if !mayComplete r l u s then .next s
      else
        let merge (x : Side) (s : State) : State := if unitHasCtx r u (site u.site s) x then mergeEnergy r u.site x s else s
        let s1 := modSite u.site (leaveUnit r) (merge true (merge false s))
        let s2 := modLaunch r lctr (modUnit u.site fun v => { v with finished := true }) s1
        let s3 := modWork r (fun w =>
          let v := w.lctr.get Ctr.idle lctr
          { w with lctr := w.lctr.put lctr { v with pending := v.pending - 1 } }) s2
        .next (if l.units.all fun v => v.finished || v.site == u.site then completeLaunch r l s3 else s3)

end Sys2Proof.Machine
end

