-- ==== Sys2Proof/Machine/Lifetime.lean ====
section
/-!
DEFINITION. Lifetimes of row groups: ticks, temperature bands, expiry and refresh (10 R262 to R275).
-/

namespace Sys2Proof.Machine

open Host (Outcome)

/-! ## Ticks and bands -/

/-- The site has a beat in the current master cycle (09 R238); running launches go on during Retention entry (19 R438). -/
def keeps (k : Nat) (s : State) : Bool := (s.power.st == .run || s.power.st == .entering) && (clusterPattern k s).getLsbD (s.cycle % 16)

/-- A tick of a core: every valid group but those written in this beat ages by one, and a refresh queued by an expiry has waited one more (R264,
R266, R271). -/
def tickTm (skip : List Nat) (t : Tm) : Tm :=
  { t with groups := t.groups.mapVals fun g v =>
      if !v.valid then v
      else
        let w := if v.soft then v else { v with queued := v.queued.map (· + 1) }
        if skip.contains g then w else { w with age := min 2047 (w.age + 1) } }

def sitesOfDie (d : Nat) : List Nat := (List.range 144).map (· + 144 * d)

/-- The band of a temperature in degrees (R267). -/
def bandOf (celsius : Int) : Nat := if celsius ≤ 25 then 0 else min 15 ((celsius - 21) / 5).toNat

/-- A sample moves the band up at once, and starts, goes on with or ends a fall (R269). -/
def sampleBand (b : Nat) (d : Die) : Die :=
  if d.band.toNat ≤ b then { d with band := .ofNat 4 b, falling := false, target := 0, below := 0 }
  else { d with falling := true, target := .ofNat 4 (if d.falling then max d.target.toNat b else b), below := d.below + 1 }

/-- BAND_FALL (R269): every sample of a millisecond has been lower. -/
def execBandFall (d : Nat) (s : State) : Outcome State Fault Refusal :=
  .next (modDie d (fun v =>
    if v.falling ∧ 1000 ≤ v.below then { v with band := v.target, falling := false, target := 0, below := 0 } else v) s)

/-! ## Expiry (R265, R271 to R273) -/

def classLimit (cls : Nat) : Nat := 4 ^ cls * 16

/-- A group's age has passed its limit and its policy has not been applied (R265). A refresh that only a soft error asked for is none of its policy. -/
def expired (c : Site) (g : Region) (n : Nat) : Bool :=
  let v := groupOf c n
  v.valid && (v.queued.isNone || v.soft) && decide (classLimit g.cls < v.age)

/-- The row groups of a region. -/
def regionGroups (g : Region) : List Nat := (List.range (g.size / 4096)).map (· + g.base / 4096)

/-- The region, of whatever rink, that holds a row group. -/
def groupRegion (c : Site) (n : Nat) : Option Region :=
  c.tm.regions.find? fun g => decide (g.base / 4096 ≤ n ∧ n < (g.base + g.size) / 4096)

/-- The counter set of a region's rink takes `n` more of count `i`: 0 TMREF, 1 TMRWX, 2 TMFRZ, 3 TMDROP, 4 TMEXP (R278). -/
def countTm (r i n : Nat) (c : Site) : Site :=
  let at' := 5 * b2n (setOf c r) + i
  modObs (fun o => { o with tmCnt := o.tmCnt.put at' (.ofNat 48 (satAdd 48 (o.tmCnt.get 0 at').toNat n)) }) c

/-- Expiry of the rink's groups on a core is suspended (R273). -/
def expirySuspended (s : State) (c : Site) (r : Nat) : Bool := frozenFor c r || decide (s.power.st = .hold)

/-- The expiry trap of a region (R272). -/
def expiryTrap (k : Nat) (g : Region) (first n : Nat) (s : State) : State :=
  let info := min n 15 * 4096 + first
  let x := ctxOf (site k s) g.owner
  if !x.ctl.running || x.trap.handler then
    modWork g.rink (postEvent 3 info [.ofNat 64 ((logicalOfSite g.rink k s).getD 0), .ofNat 64 g.base]) s
  else if x.ctl.timetabled then asCtx k g.owner (takeTrap false 0x1A info true) s
  else modSite k (modCtx g.owner fun x => { x with trap := { x.trap with pend := x.trap.pend ++ [⟨0x1A, info, true⟩] } }) s

/-- The policy of a region at the expiry of some of its groups (R271, R273). -/
def expireRegion (k : Nat) (g : Region) (gs : List Nat) (s : State) : State :=
  let queue (frz : Bool) : State :=
    modSite k (modTm fun t => gs.foldl (fun t n => setGroup n { (t.groups.get Group.empty n) with queued := some 0, hold := frz, soft := false } t) t) s
  let drop (s : State) : State := modSite k (modTm fun t => gs.foldl (fun t n => invalidate n t) t) s
  if expirySuspended s (site k s) g.rink then queue true
  else
    match g.policy with
    | .refresh => queue false
    | .drop => modSite k (countTm g.rink 3 gs.length) (drop s)
    | .trap =>
      let first := gs.foldl min (gs.headD 0)
      expiryTrap k g first gs.length
        (modSite k (fun c => latchTm (expiryRank first) 4 (4096 * first) (countTm g.rink 4 gs.length c)) (drop s))

/-- GROUP_EXPIRY (R271): the policy of the group's region, applied to every group of it that has expired. -/
def execGroupExpiry (k g : Nat) (s : State) : Outcome State Fault Refusal :=
  let c := site k s
  match groupRegion c g with
  | none => .next s
  | some q => .next (if expired c q g then expireRegion k q ((regionGroups q).filter (expired c q)) s else s)

/-- The policies of a core's expired groups are applied, region by region in the order of their addresses (R266, R272). -/
def expireAll (k : Nat) (s : State) : State :=
  let go (s : State) (q : Region) : State :=
    let c := site k s
    let gs := (regionGroups q).filter (expired c q)
    if gs.isEmpty || !c.tm.regions.contains q then s else expireRegion k q gs s
  ((site k s).tm.regions.mergeSort fun a b => decide (a.base ≤ b.base)).foldl go s

/-- A tick takes effect on a core, and expiry is evaluated (R266). -/
def tickSite (k : Nat) (s : State) : State := expireAll k (modSite k (fun c => modTm (tickTm c.tm.written) c) s)

/-- A refresh of the group already has its beat. -/
def refreshPlaced (c : Site) (g : Nat) : Bool := c.pipe.any fun p => p.stream == deviceStream && p.act == .refresh g

/-- A queued refresh has waited 32 ticks (R271). -/
def mustRefresh (c : Site) (g : Nat) : Bool :=
  (groupOf c g).valid && (match (groupOf c g).queued with
    | some n => decide (32 ≤ n)
    | none => false) && !refreshPlaced c g

/-- The first beat of a bank that no refresh which must come has yet (R271). -/
def nextOfBank (c : Site) (bank : Nat) : Nat :=
  c.now + 1 + (c.pipe.filter fun p => p.stream == deviceStream && (match p.act with
    | .refresh g => g % 16 == bank
    | _ => false)).length

/-- A refresh that must come takes its bank's next beat, one refresh to a beat. -/
def placeRefresh (g r : Nat) (c : Site) : Site :=
  { c with pipe := c.pipe ++ [⟨nextOfBank c (g % 16), c.now, deviceStream, none, r, false, .refresh g⟩] }

/-- The refreshes that a tick leaves overdue. -/
def forceRefreshes (c : Site) : Site :=
  c.tm.groups.cells.foldl (fun c g => if mustRefresh c g.1 then
      (match groupRegion c g.1 with
       | some q => placeRefresh g.1 q.rink c
       | none => c)
    else c) c

/-- The ticks that fall in a core's beat take effect after its reads and writes (R266); a refresh that the last of them leaves overdue has the next beat
(R271). -/
def settleTicks (k : Nat) (s : State) : State :=
  let n := (site k s).tm.ticks
  if n = 0 then s
  else modSite k forceRefreshes ((List.range n).foldl (fun s _ => tickSite k s) (modSite k (modTm fun t => { t with ticks := 0 }) s))

/-- TICK (R264, R266, R267): it falls in the beat of each core of the die that has one, and takes effect at once on the others. -/
def execTick (d : Nat) (s : State) : Outcome State Fault Refusal :=
  .next ((sitesOfDie d).foldl (fun v k =>
    if keeps k s then modSite k (modTm fun t => { t with ticks := t.ticks + 1 }) v else tickSite k (modSite k (fun c => modObs (fun o => { o with tmFaultAt := 0 }) (modTm (fun t => { t with written := [] }) c)) v)) s)

/-! ## Elastic refresh (R271, R274) -/

/-- The bank of a row group is free for the device in this beat: no entry performed in it, or due in it, and no fill holds it. -/
def bankFree (c : Site) (g : Nat) : Bool :=
  let acts := c.landed ++ c.pipe.filter (·.due == c.now)
  let used := (acts.flatMap fun p => (actSpans p.act).flatMap spanGroups) ++ heldGroups c
  !used.any fun h => h % 16 == g % 16

/-- An elastic requester of a core takes a bank in this beat, and is the bank's last (R257). -/
def takePort (who g : Nat) (c : Site) : Site :=
  modTm (fun t => { t with turn := t.turn.put (g % 16) who })
    { c with landed := c.landed ++ [⟨c.now, c.now, deviceStream, none, 0, false, .refresh g⟩] }

/-- A refresh of a group is performed: it is counted and charged to the region's context. -/
def doRefresh (k g : Nat) (s : State) : State :=
  let c := site k s
  match groupRegion c g with
  | none => s
  | some q =>
    let v := groupOf c g
    if !v.valid then s
    else
      let s1 := modSite k (fun c => countEvent (liveJob s) q.rink 0x0B 1 (countTm q.rink (if v.hold then 2 else 0) 1 (refreshSite g c))) s
      charge k q.owner 14 1 s1

/-- A save or restore of the core has a group of the bank to move. -/
def imageWants (c : Site) (bank : Nat) : Option (Nat × Nat × Nat) := c.tm.images.find? fun e => e.2.1 % 16 == bank

/-- The save or restore takes a beat of a bank. -/
def moveBank (bank : Nat) (c : Site) : Site :=
  match imageWants c bank with
  | none => c
  | some (r, g, n) =>
    let rest := c.tm.images.erase (r, g, n)
    takePort 3 g (modTm (fun t => { t with images := if n ≤ 1 then rest else (r, g, n - 1) :: rest }) c)

/-- What a save or restore moves in a core's beat: one beat of each bank that nothing else uses. -/
def moveBanks (c : Site) : Site := (List.range 16).foldl (fun c bank => if bankFree c bank then moveBank bank c else c) c

/-- A Rink Sequencer's next word waits for the image of its rink (13 R324). -/
def awaitImage (r : Nat) (s : State) : State :=
  match seqSite r s with
  | some (k, x) => modSite k (fun c => modCtx x (fun v => { v with ctl := { v.ctl with next := max v.ctl.next (c.now + 2) } }) c) s
  | none => s

/-- The beats of a core's banks that saves and restores take, as the core's beat ends. -/
def moveImages (k : Nat) (s : State) : State :=
  if (site k s).tm.images.isEmpty then s
  else
    let s1 := modSite k moveBanks s
    ((site k s1).tm.images.map (·.1)).dedup.foldl (fun s r => awaitImage r s) s1

/-- A queued refresh that may be performed now: its bank is free in this beat, or the cores stand in Hold, and it is not placed already. -/
def mayRefresh (c : Site) (hold : Bool) (g : Nat) : Bool :=
  (groupOf c g).queued.isSome && (groupOf c g).valid && !refreshPlaced c g && (hold || bankFree c g)

/-- POLICY_REFRESH (R271): a queued refresh takes a free beat of its bank. -/
def execPolicyRefresh (k g : Nat) (s : State) : Outcome State Fault Refusal :=
  let c := site k s
  let hold := decide (s.power.st = .hold)
  .next (if mayRefresh c hold g then doRefresh k g (if hold then s else modSite k (takePort 2 g) s) else s)

/-- FORCED_REFRESH (R271): the refresh takes its bank's next beat; a timetabled request that meets it deviates there. -/
def execForcedRefresh (k g : Nat) (s : State) : Outcome State Fault Refusal :=
  let c := site k s
  match groupRegion c g with
  | none => .next s
  | some q => .next (if !mustRefresh c g then s
      else if s.power.st = .hold then doRefresh k g s
      else modSite k (placeRefresh g q.rink) s)

/-! ## Trace (15 R375) -/

/-- TRACE_SAMPLE (R375): a record of every traced head that runs. -/
def execTraceSample (k : Nat) (s : State) : Outcome State Fault Refusal :=
  .next (modSite k (fun c => (List.range 5).foldl (fun c h => if (ctlOf c h).running then trace h 1 c else c) c) s)

/-- The next record's address, if it lies in a region of the holder that is not compressed (10 R261) and the buffer is not stopped full. -/
def traceSlot (c : Site) : Option Nat :=
  let o := c.obs
  let k := o.claims.get Claim.free 2
  let base := field o.trctl.toNat 23 12 * 4096
  let n := 2 ^ field o.trctl.toNat 31 28
  let a := base + 16 * (o.trPtr.toNat % (256 * n))
  if o.trctl.getLsbD 24 && decide (256 * n ≤ o.trPtr.toNat) then none
  else if !k.hv && (regionAt c k.rink base).isSome && regionAt c k.rink base == regionAt c k.rink (base + 4096 * n - 1)
      && !(regionAt c k.rink base).any (·.compressed) then some a
  else none

/-- TRACE_RECORD_DROP (R375): the oldest record has found no beat, or no place. -/
def execTraceRecordDrop (k : Nat) (s : State) : Outcome State Fault Refusal :=
  .next (modSite k (fun c =>
    match c.obs.trQ with
    | [] => c
    | q :: rest =>
      if decide (q.1 + 64 ≤ c.now) || (traceSlot c).isNone then modObs (fun o => { o with trQ := rest, trDrop := o.trDrop + 1 }) c else c) s)

/-- At the end of a beat the oldest record is written if its bank is free (R375). -/
def writeTrace (c : Site) : Site :=
  match c.obs.trQ, traceSlot c with
  | q :: rest, some a =>
    if bankFree c (a / 4096) then
      modObs (fun o => { o with trQ := rest, trPtr := o.trPtr + 1 }) (modTm (tmWrite a q.2 none) c)
    else c
  | _, _ => c

end Sys2Proof.Machine
end

