-- ==== Sys2Proof/Machine/Sequencer.lean ====
section
/-!
DEFINITION. The sequencer words that matrix, Lift and collective streams share (03 R82 to R85). Which stream executes stands in
`cur`: a matrix half, a Lift engine or a collective engine.
-/

namespace Sys2Proof.Machine

open Host (Outcome)

/-! ## The stream -/

def runOf (q : Queues) (l1 : Bool) : Option Run := if l1 then q.run1 else q.run0

def setRun (l1 : Bool) (v : Option Run) (q : Queues) : Queues := if l1 then { q with run1 := v } else { q with run0 := v }

def modRunIn (l1 : Bool) (f : Run → Run) (q : Queues) : Queues := setRun l1 ((runOf q l1).map f) q

/-- The command the executing engine runs. -/
def myRun (s : State) : Option Run :=
  if s.cur.coll then (collEngine s.cur.die s.cur.ce s).run else runOf (mySite s).q s.cur.l1

def modMyRun (f : Run → Run) (s : State) : State :=
  if s.cur.coll then modCollEngine s.cur.die s.cur.ce (fun e => { e with run := e.run.map f }) s
  else modMySite (modQ (modRunIn s.cur.l1 f)) s

def inMatrix (s : State) : Bool := !s.cur.lift && !s.cur.coll

def mySeq (s : State) : Seq :=
  if inMatrix s then (myHalf s).seq
  else match myRun s with
    | some r => r.seq
    | none => Seq.fresh

def modMySeq (f : Seq → Seq) (s : State) : State :=
  if inMatrix s then modMyHalf (fun h => { h with seq := f h.seq }) s else modMyRun (fun r => { r with seq := f r.seq }) s

/-- The core whose beats the stream counts: its own, or for a collective command that of the pushing core (08 R220). -/
def streamSite (s : State) : Nat :=
  if s.cur.coll then (match myRun s with
    | some r => r.site
    | none => s.cur.site)
  else s.cur.site

def streamNow (s : State) : Nat := (site (streamSite s) s).now

def myHead (s : State) : Nat := halfHead s.cur.half

/-- The rink of the stream. -/
def streamRink (s : State) : Nat :=
  if inMatrix s then headRink (mySite s) (myHead s)
  else match myRun s with
    | some r => r.cmd.rink
    | none => 0

def modSeqCtl (f : Ctl → Ctl) (s : State) : State :=
  if inMatrix s then modMyHalf (fun h => { h with ctl := f h.ctl }) s else modMyRun (fun r => { r with ctl := f r.ctl }) s

/-- The words of the stream: those of the command, or of the half's code in TM (09 R254), up to the end of its code capability. -/
def matrixWords (s : State) : List (BitVec 16) :=
  let h := myHalf s
  leHalves (tmRead (mySite s).tm h.pcBase.toNat (h.code.bounds.2.toNat - h.pcBase.toNat))

def myWords (s : State) : List (BitVec 16) :=
  if inMatrix s then matrixWords s
  else match myRun s with
    | some r => r.cmd.words
    | none => []

/-- The ECAUSE.STREAM code of the stream (02 R62): queues LQ and SQ are 5 and 6, CE 7. -/
def seqStream (s : State) : Nat :=
  if inMatrix s then myHead s
  else if s.cur.coll then 7
  else match myRun s with
    | some r => 5 + r.cmd.queue
    | none => 5

/-! ## Lift status and chains (08 R230, R232) -/

/-- The status element of R232. -/
def liftElement (status : Nat) (lost : Bool) (queue : Nat) (ctx : Side) (word disc detail : Nat) : Word :=
  .ofNat 64 (status * 2 ^ 56 + b2n lost * 2 ^ 55 + queue % 2 * 2 ^ 54 + b2n ctx * 2 ^ 53 + word % 128 * 2 ^ 40 + disc % 256 * 2 ^ 32
    + detail % 2 ^ 32)

/-- Post a status element to the core's Lift status FIFO, and its record to the rink's event queue. The record is posted whether or not the FIFO has room. -/
def postLift (k r status queue : Nat) (ctx : Side) (word disc detail : Nat) (s : State) : State :=
  let q := (site k s).q
  let e := liftElement status q.liftLost queue ctx word disc detail
  let s1 := modSite k (modQ fun q =>
    if q.liftFifo.length < 16 then { q with liftFifo := q.liftFifo ++ [e], liftLost := false } else { q with liftLost := true }) s
  modWork r (postEvent 2 ((logicalOfSite r k s).getD 0) [e]) s1

def dropCommand (m : Command) (q : Queues) : Queues :=
  { q with lq := q.lq.filter (·.num != m.num), sq := q.sq.filter (·.num != m.num), ce := q.ce.filter (·.num != m.num) }

def chains (m : Command) : Bool := m.words.length ≥ 2 && nth 0 m.words (m.words.length - 2) == 0xC300

def queueKey (m : Command) : Nat := 2 * m.queue + b2n m.ctx

/-- Successors of a failed chain that stand in its queue are discarded, up to the first that does not end with chain; the status is posted
with it (R230). `fuel` is the queue's depth. -/
def discardChain (k key : Nat) : Nat → State → State
  | 0, s => s
  | n + 1, s =>
    let q := (site k s).q
    match q.skips.cells.find? (·.1 == key), (q.lq ++ q.sq).find? fun m => queueKey m == key with
    | some (_, count, word), some m =>
      let s1 := modSite k (modQ (dropCommand m)) (releaseCommand m s)
      if chains m then
        discardChain k key n (modSite k (modQ fun q => { q with skips := q.skips.put key (count + 1, word) }) s1)
      else
        let s2 := modSite k (modQ fun q => { q with skips := ⟨eraseKey key q.skips.cells⟩ }) s1
        postLift k m.rink 3 m.queue m.ctx word (count + 1) 0 s2
    | _, _ => s

/-- A chained Lift command that ends with a fault ends its chain: the successors that stand in the queue are discarded, with one status (R230). -/
def failChain (v : Run) (s : State) : State :=
  let key := queueKey v.cmd
  if !chains v.cmd || v.cmd.queue = 2 then s
  else
    let s1 := discardChain v.site key 33 (modSite v.site (modQ fun q => { q with skips := q.skips.put key (0, v.seq.pc) }) s)
    match (site v.site s1).q.skips.cells.find? (·.1 == key) with
    | some (_, count, word) =>
      let s2 := modSite v.site (modQ fun q => { q with skips := ⟨eraseKey key q.skips.cells⟩ }) s1
      if count = 0 then s2 else postLift v.site v.cmd.rink 3 v.cmd.queue v.cmd.ctx word count 0 s2
    | none => s1

/-! ## Issue and stops -/

/-- A fault of a Lift or collective engine is reported through its core's fault frame (08 R223, 18 R411). -/
def frameFault (code info : Nat) (s : State) : State :=
  let k := streamSite s
  let stream := seqStream s
  let r := streamRink s
  let s0 := match myRun s with
    | some v => failChain v s
    | none => s
  let s1 := modMyRun (fun v => { v with fin := .faulted }) s0
  engineTrap stream code info false r { s1 with cur := { s1.cur with site := k } }

/-- A sequencer word that does not proceed. A wait of a Lift or collective stream is elastic in both modes (03 R83). -/
def seqStop (h : Hit) (s : State) : State :=
  if inMatrix s then engineStop (myHead s) h s
  else
    match h with
    | .stall _ _ _ flag =>
      let k := streamSite s
      let s1 := match flag with
        | some f => modSite k (countWait f) s
        | none => s
      modSeqCtl (fun t => { t with next := streamNow s + 1, cls := if flag.isSome then .flag else .busy }) s1
    | .trap code info => frameFault code info s
    | .tmTrap code info reason addr => frameFault code info (modSite (streamSite s) (latchTm (streamRank (if s.cur.coll then 7 else 5 + b2n s.cur.l1) false) reason addr) s)
    | .walkTrap code info fn addr => frameFault code info (latchWalk fn addr s)
    | .memTrap fn ma => frameFault 0x1B 0 (countMem fn ma 3 s)
    | .softTrap k addr => frameFault 0x2D 0 (softError (k.getD (streamSite s)) addr s)

/-- A sequencer word of occupancy `occ` issues in this beat (R86). -/
def seqIssue (occ : Nat) (s : State) : State :=
  modSeqCtl (fun t => { t with next := streamNow s + occ, prepared := false, cls := .issuing }) s

/-- A word: its checks, its effect, then the word `skip` halfwords on. -/
def seqWord (hits : List (Option Hit)) (occ skip : Nat) (effect : State → State) (s : State) : State :=
  match firstHit hits with
  | some h => seqStop h s
  | none => seqIssue occ (modMySeq (fun q => { q with pc := q.pc + skip }) (effect s))

/-! ## The operand stack (R82, 07 R446) -/

def stackInfo (case : Nat) (q : Seq) : Nat := case * 256 + q.stack.length

def stackHit (b : Bool) (case : Nat) (q : Seq) : Option Hit := hitIf b (.trap 0x1F (stackInfo case q))

/-- `n` entries are there to pop. -/
def popHit (n : Nat) (q : Seq) : Option Hit := stackHit (decide (q.stack.length < n)) 1 q

/-- Room for `n` more entries. -/
def pushHit (n : Nat) (q : Seq) : Option Hit := stackHit (decide (16 < q.stack.length + n)) 0 q

def top (q : Seq) (i : Nat) : Word := nth 0 q.stack i

/-- A word that pops `n` entries and pushes values. -/
def stackWord (n : Nat) (push : List Word) (s : State) : State :=
  let q := mySeq s
  seqWord [popHit n q, pushHit (push.length - n) q] 1 1 (modMySeq fun q => { q with stack := push ++ q.stack.drop n }) s

/-- LIT (R82). -/
def execLit (v : BitVec 15) (s : State) : Outcome State Fault Refusal := .next (stackWord 0 [v.setWidth 64] s)

/-- CAT (R83). -/
def execCat (s : State) : Outcome State Fault Refusal :=
  let q := mySeq s
  .next (stackWord 2 [(top q 1 <<< 15) ||| (top q 0 &&& 0x7FFF)] s)

/-- DUP (R83). -/
def execDup (s : State) : Outcome State Fault Refusal :=
  let q := mySeq s
  .next (stackWord 1 [top q 0, top q 0] s)

/-- DROP (R83). -/
def execDrop (s : State) : Outcome State Fault Refusal := .next (stackWord 1 [] s)

/-- SWAP (R83). -/
def execSwap (s : State) : Outcome State Fault Refusal :=
  let q := mySeq s
  .next (stackWord 2 [top q 1, top q 0] s)

/-- SADD (R83). -/
def execSadd (s : State) : Outcome State Fault Refusal :=
  let q := mySeq s
  .next (stackWord 2 [top q 1 + top q 0] s)

/-- SNEG (R83). -/
def execSneg (s : State) : Outcome State Fault Refusal :=
  let q := mySeq s
  .next (stackWord 1 [0 - top q 0] s)

/-- SSHL (R83). -/
def execSshl (k : BitVec 6) (s : State) : Outcome State Fault Refusal :=
  let q := mySeq s
  .next (stackWord 1 [top q 0 <<< k.toNat] s)

/-! ## Idle -/

/-- SEQ_IDLE (R83, R86). -/
def execSeqIdle (n : BitVec 8) (s : State) : Outcome State Fault Refusal := .next (seqWord [] (1 + n.toNat) 1 id s)

/-- IDLEW (R83, R86). -/
def execIdlew (s : State) : Outcome State Fault Refusal :=
  let q := mySeq s
  .next (seqWord [popHit 1 q] (1 + (top q 0).toNat) 1 (modMySeq fun q => { q with stack := q.stack.drop 1 }) s)

/-! ## Flags -/

/-- SEQ_WAITF (R83): as waitf of R125 on the flags of the stream's core. -/
def execSeqWaitf (f : BitVec 6) (clr : Bool) (s : State) : Outcome State Fault Refusal :=
  let c := site (streamSite s) s
  .next (seqWord [flagHit c (streamRink s) f.toNat, hitIf (!flagReady c f.toNat) (.stall 0 f.toNat 0 (some f.toNat))] 1 1
    (modSite (streamSite s) (consumeFlag f.toNat clr)) s)

/-- Operations of the executing command that are not complete (08 R234). -/
def openOps (r : Run) (s : State) : Bool := (rinkOps r.cmd.rink s).any (ofRun r)

/-- A row of an aout of the matrix stream is not written yet. -/
def rowsComing (c : Site) (h : Nat) : Bool :=
  c.pipe.any fun p => p.stream == h && (match p.act with
    | .aoutRow _ _ _ _ _ _ _ _ _ _ => true
    | _ => false)

/-- In a collective image a sigf waits for every operation its command started (11 R287). A set or push of a matrix stream in free mode waits for the rows of
its stream's older aouts, and the wait counts on the flag (11 R286). A Lift copy's writes are performed as its word executes, so a Lift sigf follows them
(08 R231). -/
def seqSigHit (s : State) (f : Nat) (set : Bool) : Option Hit :=
  if s.cur.coll then (myRun s).bind fun r => hitIf (openOps r s) (.stall 0 f 0 none)
  else if s.cur.lift then none
  else hitIf (set && !(ctlOf (site s.cur.site s) (myHead s)).timetabled && rowsComing (site s.cur.site s) (myHead s)) (.stall 1 f 0 (some f))

/-- SEQ_SIGF (R83). -/
def execSeqSigf (f : BitVec 6) (val : Bool) (s : State) : Outcome State Fault Refusal :=
  let k := streamSite s
  let c := site k s
  let n := f.toNat
  if val then
    .next (seqWord [flagHit c (streamRink s) n, seqSigHit s n true, hitIf (!pushRoom c n) (.stall 1 n 0 (some n))] 1 1 (modSite k (setFlag n)) s)
  else
    .next (seqWord [flagHit c (streamRink s) n, seqSigHit s n false, hitIf (16 ≤ n && n < 32 && !flagReady c n) (.stall 0 n 0 (some n))] 1 1
      (modSite k (clearFlag n)) s)

/-! ## Repeated bodies (R83) -/

/-- The word that ends a stream's words: mend of a matrix stream, lend of an image. -/
def endWord (s : State) : BitVec 16 := if s.cur.lift || s.cur.coll then 0xC700 else 0xAA00

/-- The halfwords from the first of `ws` to just past the endr that closes `depth` open bodies, before the end word `e`. -/
def matchEndr (e : BitVec 16) : Nat → List (BitVec 16) → Nat → Option Nat
  | _, [], _ => none
  | depth, w :: ws, i =>
    if w = e then none
    else if w = 0x8C00 then (if depth = 0 then some (i + 1) else matchEndr e (depth - 1) ws (i + 1))
    else if field w.toNat 15 8 = 0x8B then matchEndr e (depth + 1) ws (i + 1)
    else matchEndr e depth ws (i + 1)

/-- REP (R83): with operand 0 the count is popped; a count of 0 skips the body. -/
def execRep (n : BitVec 8) (s : State) : Outcome State Fault Refusal :=
  let q := mySeq s
  let popped := n == 0
  let count := if popped then (top q 0).toNat else n.toNat
  let rest := (myWords s).drop (q.pc + 1)
  let skip := matchEndr (endWord s) 0 rest 0
  .next (seqWord [if popped then popHit 1 q else none,
      stackHit (decide (2 ^ 32 ≤ count)) 5 q,
      stackHit (decide (4 ≤ q.reps.length)) 3 q,
      stackHit (count == 0 && skip.isNone) 6 q] 1 0
    (modMySeq fun q =>
      let q' := if popped then { q with stack := q.stack.drop 1 } else q
      if count = 0 then { q' with pc := q.pc + 1 + skip.getD 0 }
      else { q' with pc := q.pc + 1, reps := ⟨q.pc + 1, count - 1, false⟩ :: q.reps }) s)

/-- ENDR (R83): another pass, or the word after it. It takes a beat on the first pass only. -/
def execEndr (s : State) : Outcome State Fault Refusal :=
  let q := mySeq s
  match q.reps with
  | [] => .next (seqStop (.trap 0x1F (stackInfo 4 q)) s)
  | r :: rs =>
    .next (seqWord [] (if r.later then 0 else 1) 0 (modMySeq fun q =>
      if r.left = 0 then { q with pc := q.pc + 1, reps := rs }
      else { q with pc := r.start, reps := ⟨r.start, r.left - 1, true⟩ :: rs }) s)

/-- The checks of a word that ends a stream or a command: entries still held, then an open body (R82, R83). -/
def endHits (q : Seq) : List (Option Hit) := [stackHit (!q.stack.isEmpty) 2 q, stackHit (!q.reps.isEmpty) 6 q]

end Sys2Proof.Machine
end

