-- ==== Sys2Proof/Machine/Copy.lean ====
section
/-!
DEFINITION. The bytes of a Lift copy (08 R222, R223, R225 to R229): its far side, its near side, and what it moves in one beat through the bank
ports that the Piste leaves free (10 R257; notes/assumptions/20.md).
-/

namespace Sys2Proof.Machine

open Host (Outcome)

/-! ## CRC (R229) -/

/-- One of the eight shifts of crc_update_byte. -/
def crcShift (r : BitVec 32) : BitVec 32 := if r.getLsbD 0 then (r >>> 1) ^^^ 0x82F63B78#32 else r >>> 1

def crcByte (r : BitVec 32) (x : Byte) : BitVec 32 := (List.range 8).foldl (fun r _ => crcShift r) (r ^^^ x.setWidth 32)

def crcBytes (r : BitVec 32) (xs : List Byte) : BitVec 32 := xs.foldl crcByte r

/-! ## The far side (R222, R223) -/

/-- The far address of an index vector (R222), given the value of its index entry. -/
def farAddr (r0 : Rec0) (r1 : Rec1) (base : Cap) (i : List Nat) (entry : Nat) : Int :=
  let c := if r0.idx then i.set r0.idim entry else i
  (base.cursor : Int) + r1.off + ((c.zip r1.fstr).map fun p => (p.1 : Int) * p.2).sum

def nearAddr (r0 : Rec0) (i : List Nat) : Int := (r0.tmaddr : Int) + ((i.zip r0.tstr).map fun p => (p.1 : Int) * p.2).sum

/-- The `n`-th index vector of a copy in iteration order, i0 innermost (R222). -/
def vectorAt : List Nat → Nat → List Nat
  | [], _ => []
  | k :: ks, n => n % k :: vectorAt ks (n / k)

/-- The page of a base that holds an address. -/
def basePage (b : Base) (va : Nat) : Option Page := b.pages.find? fun p => decide (p.va ≤ va ∧ va < p.va + p.size)

def pageRead (r : Nat) (b : Base) : List (Nat × Nat) → State → Except Hit (List Byte × State)
  | [], s => .ok ([], s)
  | (va, n) :: ps, s =>
    match basePage b va with
    | none => .error (.trap 0x25 0)
    | some p =>
      match rinkRead r p.space p.key (p.ma + (va - p.va)) (p.ia + (va - p.va)) n s with
      | none => .error (.memTrap (rinkFn r s) (p.ma + (va - p.va)))
      | some (x, s1) =>
        match pageRead r b ps s1 with
        | .error h => .error h
        | .ok (xs, s2) => .ok (x ++ xs, s2)

def pageWrite (r : Nat) (b : Base) : List (Nat × Nat) → List Byte → State → Except Hit State
  | [], _, s => .ok s
  | (va, n) :: ps, data, s =>
    match basePage b va with
    | none => .error (.trap 0x25 0)
    | some p =>
      match rinkWrite r p.space p.key (p.ma + (va - p.va)) (p.ia + (va - p.va)) (data.take n) s with
      | none => .error (.memTrap (rinkFn r s) (p.ma + (va - p.va)))
      | some s1 => pageWrite r b ps (data.drop n) s1

/-- An access through a staged base reaches a pseudo-channel that is being copied (18 R422). -/
def baseWaits (b : Base) (va n : Nat) (s : State) : Bool :=
  (piecesOf va n).any fun p => match basePage b p.1 with
    | some g => remapping s (pieceMa g p.1)
    | none => false

/-- Read through a staged base: a core's TM, host space, or the pages its push translated (05 R130). -/
def baseRead (r : Nat) (b : Base) (va n : Nat) (s : State) : Except Hit (List Byte × State) :=
  let c := b.cap
  if c.space = 2 ∨ c.space = 3 then
    match tmPlace s r c.space va with
    | none => .error (noPlace c.space va)
    | some (k, a) =>
      match tmCheck (site k s) r a n true (fun _ => false) 0 with
      | some h => .error (h.onSite k)
      | none => .ok (tmRead (site k s).tm a n, modSite k (corrected a n) s)
  else if c.space = 5 then
    if (fnOf (rinkFn r s) s).busMaster then .ok (s.host.readBytes va n, s) else .error (.trap 0x2B 0)
  else if baseWaits b va n s then .error (walkHit s r .moving)
  else pageRead r b (piecesOf va n) s

/-- Write through a staged base. -/
def baseWrite (r : Nat) (b : Base) (va : Nat) (data : List Byte) (s : State) : Except Hit State :=
  let c := b.cap
  if c.space = 2 ∨ c.space = 3 then
    match tmPlace s r c.space va with
    | none => .error (noPlace c.space va)
    | some (k, a) =>
      match tmCheck (site k s) r a data.length false (fun _ => false) 0 with
      | some h => .error h
      | none => .ok (noteWrite r s.cur.site k (a / 4096) (modSite k (modTm (tmWrite a data none)) s))
  else if c.space = 5 then
    if (fnOf (rinkFn r s) s).busMaster then .ok (hostWrite (rinkFn r s) va data s) else .error (.trap 0x2B 0)
  else if baseWaits b va data.length s then .error (walkHit s r .moving)
  else pageWrite r b (piecesOf va data.length) data s

/-- An address that an index entry gave: outside BASE's bounds or misaligned is a Lift-bounds fault (R223). -/
def farHit (c : Cap) (esz : Nat) (a : Int) : Option Hit :=
  hitIf (!withinCap c a (a + esz) || a % esz != 0) (.trap 0x25 0)

/-! ## A copy -/

/-- A copy as it executes: its command, queue, records and form, and the compressed region its near side lies in. -/
structure Copy where
  run : Run
  z : Bool
  tile : Bool
  r0 : Rec0
  r1 : Rec1
  zip : Option Region
  deriving DecidableEq, Repr

namespace Copy

def sq (c : Copy) : Bool := c.run.cmd.queue == 1
def rk (c : Copy) : Nat := c.run.cmd.rink
def base (c : Copy) (i : Nat) : Base := nth ⟨Cap.null, []⟩ c.run.cmd.bases i
def far (c : Copy) : Base := c.base c.r1.base
def farStart (c : Copy) : Nat := ((c.far.cap.cursor : Int) + c.r1.off).toNat
def count (c : Copy) : Nat := copyCount c.r0
def vector (c : Copy) (n : Nat) : List Nat := vectorAt (c.r0.counts.take c.r0.dims) n
def bytes (c : Copy) : Nat := c.count * c.r0.esz
def words (c : Copy) : Nat := ceilDiv c.bytes 4
/-- The side it reads, and the side it writes, is a ZRC stream (R227). -/
def fromCode (c : Copy) : Bool := if c.sq then c.zip.isSome else c.z
def toCode (c : Copy) : Bool := if c.sq then c.z else c.zip.isSome

end Copy

/-- The row group and the place of a copy's bytes: those it takes bank ports of (10 R257). -/
def byteGroups (k a n : Nat) : List (Nat × Nat) := (List.range ((a + n - 1) / 4096 + 1 - a / 4096)).map fun j => (k, j + a / 4096)

def baseGroups (r : Nat) (b : Base) (va n : Nat) (s : State) : List (Nat × Nat) :=
  if b.cap.space = 2 ∨ b.cap.space = 3 then
    match tmPlace s r b.cap.space va with
    | some (k, a) => byteGroups k a n
    | none => []
  else []

/-- The address of an element's index entry. -/
def indexAt (c : Copy) (i : List Nat) : Nat := (((c.base c.r0.ibase).cap.cursor : Int) + c.r0.ioff + 4 * (nth 0 i c.r0.idim : Nat)).toNat

/-- The far address of an element, given its index entry; one that an entry gave is checked (R223). -/
def elementFar (c : Copy) (i : List Nat) (p : Progress) : Except Hit Nat :=
  let a := farAddr c.r0 c.r1 c.far.cap i (p.entry.getD 0)
  match (if c.r0.idx then farHit c.far.cap c.r0.esz a else none) with
  | some h => .error h
  | none => .ok a.toNat

/-! ## Bank ports (10 R257) -/

/-- The row group of the core's own TM that a copy goes on with. -/
def nextGroup (c : Copy) (p : Progress) : Option Nat :=
  if c.tile then none
  else if c.zip.isSome then some ((c.r0.tmaddr + (if c.sq then p.dec.pos else p.put)) / 4096)
  else some ((nearAddr c.r0 (c.vector (if c.sq then p.n else p.put))).toNat / 4096)

/-- A command's copy as it stands. -/
def copyOf (z tile : Bool) (v : Run) (c : Site) : Option Copy :=
  match v.rec0, v.rec1 with
  | some b0, some b1 => some ⟨v, z, tile, parseRec0 b0, parseRec1 b1, nearZip tile (parseRec0 b0) v.cmd.rink c⟩
  | _, _ => none

/-- The other engine's copy, whose turn comes later in the beat, goes on with a bank. -/
def otherWants (c : Site) (bank : Nat) : Bool :=
  match c.q.run1 with
  | some v => decide (v.ctl.next ≤ c.now) && v.host != .asked && (match v.copy, copyOf false false v c with
      | some p, some w => (nextGroup w p).any fun g => g % 16 == bank
      | _, _ => false)
  | none => false

/-- A queued refresh that waits for a bank. -/
def refreshWants (c : Site) (bank : Nat) : Option Nat :=
  (c.tm.groups.cells.find? fun g => g.1 % 16 == bank && mayRefresh c false g.1).map (·.1)

/-- The elastic requester whose turn a free bank is, of those that want it: `who` itself, L1 after L0, a refresh, or a save or restore; the round goes
L0, L1, refresh, save or restore (10 R257). -/
def portTurn (c : Site) (who bank : Nat) : Nat :=
  let wants (x : Nat) : Bool := x == who || (who == 0 && x == 1 && otherWants c bank) || (x == 2 && (refreshWants c bank).isSome) || (x == 3 && (imageWants c bank).isSome)
  let last := c.tm.turn.get 3 bank
  (([1, 2, 3, 4].map fun d => (last + d) % 4).find? wants).getD who

/-- Ask for the port of a group's bank for a beat: the state with the port taken, or the state in which it waits, another requester's turn being served
or kept for it. -/
def askPort (who : Nat) (t : Nat × Nat) (s : State) : Except State State :=
  let c := site t.1 s
  let bank := t.2 % 16
  if !bankFree c t.2 then .error s
  else
    match portTurn c who bank, refreshWants c bank with
    | 2, some g => .error (doRefresh t.1 g (modSite t.1 (takePort 2 g) s))
    | 3, _ => .error (modSite t.1 (moveBank bank) s)
    | x, _ => if x = who then .ok (modSite t.1 (takePort who t.2) s)
              else .error (modSite t.1 (modTm fun t => { t with turn := t.turn.put bank x }) s)

/-- The ports of all groups of an access, those already taken in this beat among them. -/
def askPorts (who : Nat) : List (Nat × Nat) → List (Nat × Nat) → State → Except State (List (Nat × Nat) × State)
  | [], taken, s => .ok (taken, s)
  | t :: ts, taken, s =>
    if taken.contains t then askPorts who ts taken s
    else match askPort who t s with
      | .error w => .error w
      | .ok s1 => askPorts who ts (t :: taken) s1

/-! ## One move of a copy (R225 to R229) -/

/-- What a move of a copy answers: it goes on with the ports taken in this beat, waits, is complete, or ends by a hit or a format error. -/
inductive Moved where
  | on (p : Progress) (taken : List (Nat × Nat)) (s : State)
  | wait (p : Progress) (s : State)
  | done (p : Progress) (s : State)
  | hit (p : Progress) (h : Hit) (s : State)
  | bad (p : Progress) (off : Nat) (s : State)

/-- Invert the bit LINJ names if it falls in `data`, which starts at moved byte `off` (16 R394). -/
def injectBit (inj : Option (Nat × Nat)) (off : Nat) (data : List Byte) : List Byte :=
  match inj with
  | some (byte, bit) => if off ≤ byte ∧ byte < off + data.length then
      data.set (byte - off) (nth 0 data (byte - off) ^^^ (1#8 <<< bit)) else data
  | none => data

/-- Plain bytes pass LINJ and the CRC register (R229). -/
def passBytes (c : Copy) (p : Progress) (data : List Byte) : List Byte × Progress :=
  let d := injectBit p.inj p.off data
  (d, { p with r := if c.run.crc.on then crcBytes p.r d else p.r, off := p.off + data.length })

/-- The code passes unchanged between two coded sides, unless LINJ inverts a bit of it (R227, 16 R394). -/
def passesCode (c : Copy) (p : Progress) : Bool := c.fromCode && c.toCode && p.inj.isNone

/-- Ports, then an access that may wait or fail, then its result. -/
def withPorts {α : Type} (who : Nat) (gs taken : List (Nat × Nat)) (p : Progress) (s : State) (act : State → Except Hit (α × State))
    (k : α → List (Nat × Nat) → State → Moved) : Moved :=
  match askPorts who gs taken s with
  | .error w => .wait p w
  | .ok (taken', s1) =>
    match act s1 with
    | .error (.stall _ _ _ _) => .wait p s1
    | .error h => .hit p h s1
    | .ok (a, s2) => k a taken' s2

/-- Read the index entry of an element. -/
def readEntry (who : Nat) (c : Copy) (i : List Nat) (taken : List (Nat × Nat)) (p : Progress) (s : State) : Moved :=
  let b := c.base c.r0.ibase
  withPorts who (baseGroups c.rk b (indexAt c i) 4 s) taken p s (baseRead c.rk b (indexAt c i) 4)
    fun d taken s => .on { p with entry := some (leNat d) } taken s

/-- Act on the far side of an element: its index entry is read first. -/
def withFar {α : Type} (who : Nat) (c : Copy) (i : List Nat) (taken : List (Nat × Nat)) (p : Progress) (s : State)
    (act : Nat → State → Except Hit (α × State)) (k : α → List (Nat × Nat) → State → Moved) : Moved :=
  if c.r0.idx && p.entry.isNone then readEntry who c i taken p s
  else
    match elementFar c i p with
    | .error h => .hit p h s
    | .ok a => withPorts who (baseGroups c.rk c.far a c.r0.esz s) taken p s (act a) k

/-- Read one element of a plain source. -/
def readElement (who : Nat) (c : Copy) (taken : List (Nat × Nat)) (p : Progress) (s : State) : Moved :=
  let i := c.vector p.n
  let next (d : List Byte) (taken : List (Nat × Nat)) (s : State) : Moved :=
    let q := passBytes c p d
    .on { q.2 with n := p.n + 1, entry := none, got := p.got ++ q.1 } taken s
  if !c.sq then withFar who c i taken p s (fun a s => baseRead c.rk c.far a c.r0.esz s) next
  else if c.tile then next (((mySite s).tiles.get Table.empty (c.r0.tmaddr % 16)).readBytes (p.n * c.r0.esz) c.r0.esz) taken s
  else
    let a := (nearAddr c.r0 i).toNat
    withPorts who (byteGroups s.cur.site a c.r0.esz) taken p s (fun s =>
      match tmCheck (mySite s) c.rk a c.r0.esz true (fun _ => false) 0 with
      | some h => .error h
      | none => .ok (tmRead (mySite s).tm a c.r0.esz, modMySite (corrected a c.r0.esz) s)) next

/-- Write one element of a plain destination. -/
def writeElement (who : Nat) (c : Copy) (taken : List (Nat × Nat)) (p : Progress) (s : State) : Moved :=
  let i := c.vector p.put
  let data := p.got.take c.r0.esz
  let p' := { p with entry := none, got := p.got.drop c.r0.esz, put := p.put + 1 }
  if c.sq then
    withFar who c i taken p s (fun a s => (baseWrite c.rk c.far a data s).map fun s => ((), s))
      (fun _ taken s => .on p' taken (if c.far.cap.space == 5 then modMyRun (fun v => { v with wroteHost := true }) s else s))
  else if c.tile then
    let t := c.r0.tmaddr % 16
    .on p' taken (modMySite (fun k => { k with tiles := k.tiles.put t ((k.tiles.get Table.empty t).writeBytes (p.put * c.r0.esz) data) }) s)
  else
    let a := (nearAddr c.r0 i).toNat
    withPorts who (byteGroups s.cur.site a c.r0.esz) taken p s (fun s =>
      match tmCheck (mySite s) c.rk a c.r0.esz false (fun _ => false) 0 with
      | some h => .error h
      | none => .ok ((), noteWrite c.rk s.cur.site s.cur.site (a / 4096) (modMySite (modTm (tmWrite a data none)) s))) (fun _ taken s => .on p' taken s)

/-- Read `n` bytes at a place of the coded source: past BASE's bounds is a Lift-bounds fault, past the near region a region fault (R223, R228). -/
def readCode (who : Nat) (c : Copy) (n : Nat) (taken : List (Nat × Nat)) (p : Progress) (s : State)
    (k : List Byte → List (Nat × Nat) → State → Moved) : Moved :=
  if c.sq then
    let a := c.r0.tmaddr + p.dec.pos
    if c.zip.any fun g => decide (g.base + g.size < a + n) then .hit p (.tmTrap 0x17 0 1 a) s
    else
      withPorts who (byteGroups s.cur.site a n) taken p s (fun s =>
        let t := mySite s
        if (byteGroups 0 a n).any fun g => !(groupOf t g.2).valid then .error (.tmTrap 0x19 0 3 a)
        else match spoiled t.tm a n with
          | some e => .error (.softTrap none e)
          | none => .ok (tmRead t.tm a n, modMySite (corrected a n) s)) k
  else
    let a := c.farStart + p.dec.pos
    if !withinCap c.far.cap a (a + n) then .hit p (.trap 0x25 0) s
    else withPorts who (baseGroups c.rk c.far a n s) taken p s (baseRead c.rk c.far a n) k

/-- The code bytes a coded source gave, where they pass on as they are. -/
def passCode (c : Copy) (b : List Byte) (p : Progress) : Progress := if passesCode c p then { p with got := p.got ++ b } else p

/-- One decoded word: its plain bytes, the last cut to the copy's length. -/
def giveWord (c : Copy) (w : Lane) (p : Progress) : Progress :=
  let d := (leBytes 4 w.toNat).take (c.bytes - p.off)
  let q := passBytes c p d
  { q.2 with n := p.n + 1, got := if passesCode c p then p.got else p.got ++ q.1, dec := { p.dec with left := p.dec.left - 1 } }

/-- One header or word of a coded source (R228). The kind of the end is 3. -/
def decodeMore (who : Nat) (c : Copy) (taken : List (Nat × Nat)) (p : Progress) (s : State) : Moved :=
  if p.dec.left = 0 then
    readCode who c 2 taken p s fun b taken s =>
      let h := leNat b
      let kind := h / 16384
      let n := h % 16384 + 1
      if kind = 3 then
        if h = 0xC000 ∧ p.n = c.words then .on (passCode c b { p with dec := ⟨p.dec.pos + 2, 3, 0, none⟩ }) taken s
        else .bad p p.dec.pos s
      else if c.words < p.n + n then .bad p p.dec.pos s
      else .on (passCode c b { p with dec := ⟨p.dec.pos + 2, kind, n, none⟩ }) taken s
  else
    match p.dec.kind, p.dec.word with
    | 0, _ => .on (giveWord c 0 p) taken s
    | 1, some w => .on (giveWord c w p) taken s
    | kind, _ =>
      readCode who c 4 taken p s fun b taken s =>
        let w : Lane := .ofNat 32 (leNat b)
        .on (giveWord c w (passCode c b { p with dec := { p.dec with pos := p.dec.pos + 4, word := if kind = 1 then some w else none } })) taken s

/-- The code of plain bytes; those that do not fill a word are followed by zeros. -/
def encodeBytes (c : Copy) (data : List Byte) : List Byte := zrcEncode (leWords (data ++ List.replicate (4 * c.words - data.length) 0))

/-- Write the next code bytes, within one row group. The worst-case size was checked before (R227): a code that passes through and is longer is written past it, within what
the destination's own checks admit (DESIGN CHOICE, notes/assumptions/42.md). -/
def writeCode (who : Nat) (c : Copy) (code : List Byte) (taken : List (Nat × Nat)) (p : Progress) (s : State) (rest : List Byte → Progress → Progress) : Moved :=
  let a := (if c.sq then c.farStart else c.r0.tmaddr) + p.put
  let n := min code.length (min 64 (256 - a % 256))
  let p' := rest (code.drop n) { p with put := p.put + n }
  if c.sq then
    withPorts who (baseGroups c.rk c.far a n s) taken p s (fun s => (baseWrite c.rk c.far a (code.take n) s).map fun s => ((), s))
      (fun _ taken s => .on p' taken (if c.far.cap.space == 5 then modMyRun (fun v => { v with wroteHost := true }) s else s))
  else
    withPorts who (byteGroups s.cur.site a n) taken p s (fun s =>
      .ok ((), noteWrite c.rk s.cur.site s.cur.site (a / 4096) (modMySite (modTm (tmWrite a (code.take n) none)) s)))
      (fun _ taken s => .on p' taken s)

/-- Everything the source gives has been read. -/
def sourceDone (c : Copy) (p : Progress) : Bool := if c.fromCode then p.dec.kind == 3 else p.n == c.count

/-- One move: what has been read is written where it can be, else more is read. `start` is the progress as the beat began: a beat moves at most 256
bytes. -/
def moveOnce (who : Nat) (c : Copy) (start : Progress) (taken : List (Nat × Nat)) (p : Progress) (s : State) : Moved :=
  let full := decide (start.off + 256 ≤ p.off)
  let more : Moved := if full then .wait p s
    else if c.fromCode then decodeMore who c taken p s else readElement who c taken p s
  if c.count = 0 then .done p s
  else if !c.toCode then
    if c.r0.esz ≤ p.got.length then writeElement who c taken p s
    else if sourceDone c p then .done p s else more
  else if start.put + 256 ≤ p.put then .wait p s
  else if passesCode c p then
    if !p.got.isEmpty then writeCode who c p.got taken p s fun l p => { p with got := l }
    else if sourceDone c p then .done p s else more
  else
    match p.out with
    | some [] => .done p s
    | some code => writeCode who c code taken p s fun l p => { p with out := some l }
    | none => if sourceDone c p then .on { p with out := some (encodeBytes c p.got) } taken s else more

/-- The moves of one beat; `fuel` bounds them. -/
def moveBeat (who : Nat) (c : Copy) (start : Progress) : Nat → List (Nat × Nat) → Progress → State → Moved
  | 0, _, p, s => .wait p s
  | n + 1, taken, p, s =>
    match moveOnce who c start taken p s with
    | .on p' taken' s' => moveBeat who c start n taken' p' s'
    | m => m

end Sys2Proof.Machine
end

