-- ==== Sys2Proof/Machine/Lift.lean ====
section
/-!
DEFINITION. Lift commands (08 R215 to R232): the words of a Lift image, the copies and their data errors, and the start, token and
retirement of a command.
-/

namespace Sys2Proof.Machine

open Host (Outcome)

/-! ## Data errors (R232, 16 R395) -/

/-- A command that has written host space sends a zero-length read after its last write, or after the writes that a token says are done
(11 R298; notes/assumptions/42.md). -/
def zeroRead (v : Run) (s : State) : State :=
  if v.wroteHost then modMyRun (fun v => { v with wroteHost := false, flushes := v.flushes + 1 }) (send (.zeroRead (rinkFn v.cmd.rink s)) s) else s

/-- The status element of a command that ended with a data error. -/
def postStatus (k : Nat) (v : Run) (e : Nat × Nat) (s : State) : State := postLift k v.cmd.rink e.1 v.cmd.queue v.cmd.ctx v.seq.pc 0 e.2 s

/-- The command ends at the word it executes with a data error. Its status element follows its writes to host space (11 R298). -/
def dataError (status detail : Nat) (s : State) : State :=
  match myRun s with
  | none => s
  | some v =>
    let s1 := modMyRun (fun v => { v with fin := .dataError }) s
    if v.wroteHost || v.flushes != 0 then seqIssue 1 (zeroRead v (modMyRun (fun v => { v with status := some (status, detail) }) s1))
    else seqIssue 1 (postStatus s.cur.site v (status, detail) s1)

/-! ## The start of a copy (R223, R225, R226) -/

/-- The code of a coded near side, as far as it can be read: how many bytes it takes. -/
def nearCodeLength (c : Copy) (g : Region) (s : State) : Nat :=
  let n := min (6 * c.words + 2) (g.base + g.size - c.r0.tmaddr)
  min n (zrcDecode (c.words + 2) c.words (tmRead (mySite s).tm c.r0.tmaddr n)).2.1

/-- The near side's checks as the copy starts (R223). -/
def nearHits (c : Copy) (s : State) : List (Option Hit) :=
  if c.tile || c.count = 0 then []
  else match c.zip with
    | some g =>
      let k := mySite s
      let n := nearCodeLength c g s
      [hitIf (decide (g.base + g.size < c.r0.tmaddr + zrcWorst c.words)) (.tmTrap 0x17 0 1 c.r0.tmaddr),
       hitIf (c.sq && (byteGroups 0 c.r0.tmaddr n).any fun t => !(groupOf k t.2).valid) (.tmTrap 0x19 0 3 c.r0.tmaddr),
       if c.sq then (spoiled k.tm c.r0.tmaddr n).map (Hit.softTrap none) else none]
    | none => (List.range c.count).map fun n => tmCheck (mySite s) c.rk (nearAddr c.r0 (c.vector n)).toNat c.r0.esz c.sq (fun _ => false) 0

def disarmLinj (o : Obs) : Obs := { o with linj := .ofNat 64 (setField o.linj.toNat 63 63 0), linjCount := 0 }

/-- LINJ as a copy of a queue starts: the bit it inverts, and the register after it (16 R394). The copy numbered SKIP has it, and no later one. -/
def armLinj (queue bytes : Nat) (o : Obs) : Option (Nat × Nat) × Obs :=
  let w := o.linj.toNat
  if !bitOf w 63 || b2n (bitOf w 62) != queue then (none, o)
  else if o.linjCount ≠ field w 47 40 then (none, { o with linjCount := o.linjCount + 1 })
  else if field w 26 3 < bytes then (some (field w 26 3, field w 2 0), { o with linjCount := o.linjCount + 1 })
  else (none, disarmLinj o)

/-- The byte with the inverted bit has been read: ARM clears. -/
def settleLinj (p p' : Progress) (s : State) : State :=
  match p.inj with
  | some (byte, _) => if p.off ≤ byte ∧ byte < p'.off then modMySite (modObs disarmLinj) s else s
  | none => s

/-- The copy's wait for its tile register, and for the token of an earlier copy (R225, R226). -/
def copyWaits (tile tok : Bool) (r0 : Rec0) (v : Run) (s : State) : List (Option Hit) :=
  let t := r0.tmaddr % 16
  let c := mySite s
  [if !tile then none
   else if v.cmd.queue = 1 then hitIf (!flagReady c t) (.stall 0 t 0 (some t))
   else hitIf (!tileEmpty c t) (.stall 1 t 0 (some t)),
   hitIf (tok && v.token.isSome) (.stall 2 0 0 none)]

/-- A copy ends, whichever way: its register stands where its bytes left it. -/
def endCopy (p : Progress) : State → State := modMyRun fun v => { v with copy := none, host := .none, crc := { v.crc with r := p.r } }

/-- What a copy leaves besides the bytes: tile flag and token (R225, R226). -/
def copyDone (c : Copy) (tok : Bool) (fifo : BitVec 4) (p : Progress) (s : State) : State :=
  let t := c.r0.tmaddr % 16
  let s1 := if !c.tile then s else modMySite (fun k => if c.sq then clearFlag t k else setFlag t k) s
  let s2 := modMyRun (fun v => { v with token := if tok then some (16 + fifo.toNat) else v.token }) s1
  endCopy p (match myRun s with
    | some v => if tok then zeroRead v s2 else s2
    | none => s2)

/-- The bytes a copy has moved in a beat are counted and charged (15 R374, R377). -/
def countMoved (c : Copy) (p p' : Progress) (s : State) : State :=
  if p'.off = p.off then s
  else
    let s1 := charge s.cur.site c.run.cmd.ctx 12 (ceilDiv p'.off 256 - ceilDiv p.off 256) (settleLinj p p' s)
    elasticTraffic s.cur.site c.rk (modMySite (countEvent (liveJob s) c.rk 7 (p'.off - p.off)) s1)

/-- The copy stays at the head for the next beat. -/
def stayCopy (moved : Bool) (p : Progress) (s : State) : State :=
  modMyRun (fun v => { v with copy := some p, ctl := { v.ctl with next := streamNow s + 1, cls := if moved then .issuing else .busy } }) s

/-- The copy reads host space: each chunk of it is a request of its own (14 R359). -/
def readsHost (c : Copy) : Bool := (!c.sq && c.far.cap.space == 5) || (c.r0.idx && (c.base c.r0.ibase).cap.space == 5)

/-- One beat of a copy. -/
def runCopy (c : Copy) (tok : Bool) (fifo : BitVec 4) (p : Progress) (s : State) : State :=
  match moveBeat (b2n s.cur.l1) c p 600 [] p s with
  | .on q _ t => stayCopy true q (countMoved c p q t)
  | .wait q t =>
    let s1 := countMoved c p q t
    stayCopy (decide (q.off ≠ p.off ∨ q.put ≠ p.put)) q (modMyRun (fun v => { v with host := .none }) s1)
  | .done q t => seqWord [] 1 1 (copyDone c tok fifo q) (countMoved c p q t)
  | .hit q h t => seqStop h (endCopy q (countMoved c p q t))
  | .bad q off t => dataError 2 off (endCopy q (countMoved c p q t))

/-- One beat of a copy, once a request for a chunk of host space that it reads has come back. -/
def copyBeat (c : Copy) (tok : Bool) (fifo : BitVec 4) (p : Progress) (s : State) : State :=
  if readsHost c && c.count != 0 && c.run.host != .granted then
    if !(fnOf (rinkFn c.rk s) s).busMaster then seqStop (.trap 0x2B 0) (endCopy p s)
    else stayCopy false p (modMyRun (fun v => { v with host := .asked }) s)
  else runCopy c tok fifo p s

/-- COPY and COPYZ (R225 to R228): the waits and the near side's checks, then the bytes, beat by beat. -/
def copyWord (z tile tok : Bool) (fifo : BitVec 4) (s : State) : State :=
  match myRun s with
  | none => s
  | some v =>
    match copyOf z tile v (mySite s) with
    | none => seqStop (.trap 0x15 0) s
    | some c =>
      match v.copy with
      | some p => copyBeat c tok fifo p s
      | none =>
        match firstHit (copyWaits tile tok c.r0 v s) with
        | some h => seqStop h s
        | none =>
          let arm := armLinj v.cmd.queue c.bytes (mySite s).obs
          let s0 := modMySite (modObs fun _ => arm.2) s
          match firstHit (nearHits c s) with
          | some h => seqStop h s0
          | none => copyBeat c tok fifo ⟨0, 0, v.crc.r, arm.1, none, ⟨0, 0, 0, none⟩, [], [], none, 0⟩ s0

/-! ## The words (R221, R224, R229 to R231) -/

/-- LREC (R221): the 16 halfwords that follow are record n. -/
def execLrec (n : Bool) (s : State) : Outcome State Fault Refusal :=
  let body := (((myWords s).drop ((mySeq s).pc + 1)).take 16).flatMap halfBytes
  .next (seqWord [] 1 17 (modMyRun fun v => if n then { v with rec1 := some body } else { v with rec0 := some body }) s)

/-- COPY (R225). -/
def execCopy (tile tok : Bool) (fifo : BitVec 4) (s : State) : Outcome State Fault Refusal := .next (copyWord false tile tok fifo s)

/-- COPYZ (R227). -/
def execCopyz (tile tok : Bool) (fifo : BitVec 4) (s : State) : Outcome State Fault Refusal := .next (copyWord true tile tok fifo s)

/-- CHAIN (R230). -/
def execChain (s : State) : Outcome State Fault Refusal :=
  .next (seqWord [] 1 1 (modMyRun fun v => { v with chained := true }) s)

/-- CRCSET (R229). -/
def execCrcset (s : State) : Outcome State Fault Refusal :=
  let q := mySeq s
  .next (seqWord [popHit 1 q] 1 1 (fun s =>
    modMyRun (fun v => { v with crc := ⟨(top q 0).setWidth 32, true⟩ }) (modMySeq (fun q => { q with stack := q.stack.drop 1 }) s)) s)

/-- CRCCHK (R229): on a mismatch the command ends here. -/
def execCrcchk (s : State) : Outcome State Fault Refusal :=
  let q := mySeq s
  let r := match myRun s with
    | some v => v.crc.r
    | none => 0
  let drop (s : State) : State := modMySeq (fun q => { q with stack := q.stack.drop 1 }) s
  if !q.stack.isEmpty && r != (top q 0).setWidth 32 then .next (dataError 1 r.toNat (drop s))
  else .next (seqWord [popHit 1 q] 1 1 drop s)

/-- LFENCE (R231): every earlier copy's writes are performed already, in the copies' order, so that without a fence too the later copy's value stays (DESIGN CHOICE,
notes/assumptions/42.md). -/
def execLfence (s : State) : Outcome State Fault Refusal := .next (seqWord [] 1 1 id s)

/-! ## LEND (R218, R236) -/

/-- The operations a command leaves detached: those that have not completed, all started after its last cwait (R236). -/
def detachOps (v : Run) (s : State) : State :=
  let f (o : CollOp) : CollOp := if ofRun v o && o.status.isNone then { o with detached := true } else o
  recount v.cmd.rink (modRink v.cmd.rink (fun q =>
    { q with colls := q.colls.mapVals fun _ c => { c with op := c.op.map f, others := c.others.map f } }) s)

/-- The end of a command: what its chain passes on, its zero-length read of host space (11 R298), its detached operations. -/
def endCommand (s : State) : State :=
  match myRun s with
  | none => s
  | some v =>
    let s1 := modMyRun (fun v => { v with fin := .ended }) s
    if s.cur.coll then detachOps v s1
    else
      let s2 := if v.chained then
          modMySite (modQ fun q => { q with chains := q.chains.put (2 * v.cmd.queue + b2n v.cmd.ctx) v.crc }) s1
        else s1
      zeroRead v s2

/-- LEND. -/
def execLend (s : State) : Outcome State Fault Refusal := .next (seqWord (endHits (mySeq s)) 1 1 endCommand s)

/-! ## The engines: start, token and retirement (R215, R217, R230) -/

/-- The engine of a core that serves a rink's queue: with both engines L0 takes LQ and L1 takes SQ (R215). -/
def servesCommand (c : Site) (l1 : Side) (m : Command) : Bool :=
  let a := owns c m.rink 5
  let b := owns c m.rink 6
  if a && b then decide (m.queue = b2n l1) else if l1 then b else a

/-- The next command of an engine: the earliest pushed that it serves. -/
def nextCommand (c : Site) (l1 : Side) : Option Command :=
  ((c.q.lq ++ c.q.sq).filter (servesCommand c l1)).foldl (fun best m => match best with
    | none => some m
    | some b => if m.num < b.num then some m else some b) none

/-- The accesses of the pushing context that are older than the push are performed, and the engine sees the entry (05 R131). -/
def commandVisible (s : State) (k : Nat) (m : Command) : Bool :=
  let c := site k s
  let x := ctxOf c m.ctx
  m.seen ≤ c.now && !x.buf.atomicOut && (x.buf.stores.all fun a => m.order ≤ a.order)
    && (sitesOf m.rink s).all fun j => !(site j s).pipe.any fun p => p.rink == m.rink && p.stream == ctxHead m.ctx
      && (match p.act with
          | .tmStore _ _ _ => true
          | _ => false)

/-- A command as it starts (R220, R229): its CRC register and enable are zero, or those a chain passes on. -/
def startRun (k : Nat) (now : Nat) (crc : Crc) (m : Command) : Run :=
  { cmd := m, seq := Seq.fresh, rec0 := none, rec1 := none, crc := crc, chained := false, copy := none, host := .none, token := none, wroteHost := false,
    flushes := 0, status := none, flags := 0, ctl := { running := true, timetabled := false, next := now, prepared := false, cls := .issuing },
    fin := .running, site := k }

/-- LIFT_COMMAND_START (R215). A command that has started is no longer among its queue's 32 entries (DESIGN CHOICE, notes/assumptions/42.md). -/
def execLiftCommandStart (k : Nat) (l1 : Bool) (s : State) : Outcome State Fault Refusal :=
  let s0 := (List.range 4).foldl (fun s key => discardChain k key 33 s) s
  let c := site k s0
  match nextCommand c l1, runOf c.q l1 with
  | some m, none =>
    if commandVisible s0 k m then
      let crc := lookupKey ⟨0, false⟩ (queueKey m) c.q.chains.cells
      .next (modSite k (modQ fun q =>
        setRun l1 (some (startRun k c.now crc m)) { dropCommand m q with chains := ⟨eraseKey (queueKey m) q.chains.cells⟩ }) s0)
    else .next s0
  | _, _ => .next s0

/-- The engines of a core whose copy's token goes into FIFO `f` in this beat. -/
def tokensDue (c : Site) (f : Nat) : List Side :=
  [false, true].filter fun l1 => match runOf c.q l1 with
    | some v => v.token == some f && v.flushes == 0
    | none => false

/-- The tokens that copies push into a FIFO in one beat go in together or not at all (02 R56). -/
def tokensFit (c : Site) (f : Nat) : Bool :=
  decide (c.flags.tokens.get 0 (f - 16) + c.flags.sets.count f + (tokensDue c f).length ≤ 8) && !c.flags.blocked.contains f

def pushTokens (f : Nat) (c : Site) : Site :=
  (tokensDue c f).foldl (fun c l1 => setFlag f (modQ (modRunIn l1 fun v => { v with token := none }) c)) c

/-- COPY_TOKEN_PUSH (R225): the token waits while its FIFO is full, and for the zero-length read that follows the copy's writes to host space (11 R298). -/
def execCopyTokenPush (k : Nat) (l1 : Bool) (s : State) : Outcome State Fault Refusal :=
  let c := site k s
  match runOf c.q l1 with
  | some v =>
    match v.token with
    | some f => if v.flushes == 0 && tokensFit c f then .next (modSite k (pushTokens f) s) else .next s
    | none => .next s
  | none => .next s

/-- The operations a command started are complete or detached (R217). -/
def opsSettled (v : Run) (s : State) : Bool := (rinkOps v.cmd.rink s).all fun o => !ofRun v o || o.detached

/-- A command that has ended and whose writes are all performed (R217). -/
def canRetire (v : Run) (s : State) : Bool :=
  v.fin != .running && v.token.isNone && !v.wroteHost && v.flushes == 0 && decide (v.ctl.next ≤ (site v.site s).now) && opsSettled v s

/-- What the retirement of a command does beside emptying its engine (R217, R230). -/
def retireCommand (v : Run) (s : State) : State :=
  let m := v.cmd
  let s0 := match v.status with
    | some e => postStatus v.site v e s
    | none => s
  let s1 := modSite v.site (modCtx m.ctx fun x => { x with fstat := x.fstat ||| v.flags }) (releaseCommand m s0)
  if v.fin = .dataError && chains m then
    discardChain v.site (queueKey m) 33 (modSite v.site (modQ fun q => { q with skips := q.skips.put (queueKey m) (0, v.seq.pc) }) s1)
  else s1

/-- COMMAND_RETIRE (R217). -/
def execCommandRetire (u : EngineId) (s : State) : Outcome State Fault Refusal :=
  match u with
  | .lift k l1 =>
    match runOf (site k s).q l1 with
    | some v => if canRetire v s then .next (retireCommand v (modSite k (modQ (setRun l1 none)) s)) else .next s
    | none => .next s
  | .coll d e =>
    match (collEngine d e s).run with
    | some v => if canRetire v s then .next (retireCommand v (modCollEngine d e (fun c => { c with run := none }) s)) else .next s
    | none => .next s

end Sys2Proof.Machine
end

