-- ==== Sys2Proof/Machine/Collective.lean ====
section
/-!
DEFINITION. Collective commands and Bromen Link (08 R216, R233 to R237, 16 R380 to R393): the words, the landing of contributions,
completion and timeouts, and the flits of the twelve ports.
-/

namespace Sys2Proof.Machine

open Host (Outcome)

/-! ## Ports and flits (16 R380 to R385) -/

def portOf (p : Nat) (s : State) : Port := (die (p / 6) s).ports.get Port.reset (p % 6)

def modPort (p : Nat) (f : Port → Port) (s : State) : State :=
  modDie (p / 6) (fun d => { d with ports := d.ports.put (p % 6) (f (d.ports.get Port.reset (p % 6))) }) s

/-- The bytes 0 to 239 of a flit (R381). -/
def flitBytes (f : Flit) : List Byte :=
  leBytes 8 (f.payload.length * 2 ^ 56 + f.kind % 16 * 2 ^ 52 + f.cnum % 4096 * 2 ^ 40 + f.fid % 65536 * 2 ^ 24 + f.src % 4096 * 2 ^ 12
      + f.dst % 4096)
    ++ leBytes 8 (f.bytes % 2 ^ 24 * 2 ^ 40 + f.word % 16 * 2 ^ 36 + f.rank % 4096 * 2 ^ 24 + f.offset % 2 ^ 24)
    ++ f.payload ++ List.replicate (224 - f.payload.length) 0

/-- One bit of the CRC-64 with the ECMA-182 polynomial, most significant bit first. -/
def crc64Bit (r : BitVec 64) : BitVec 64 := if r.getLsbD 63 then (r <<< 1) ^^^ 0x42F0E1EBA9EA3693#64 else r <<< 1

def crc64 (bs : List Byte) : BitVec 64 :=
  bs.foldl (fun r x => (List.range 8).foldl (fun r _ => crc64Bit r) (r ^^^ BitVec.ofNat 64 (x.toNat * 2 ^ 56))) 0

def sealFlit (seq ack : BitVec 16) (f : Flit) : Flit := { f with seq := seq, ack := ack, crc := crc64 (flitBytes f) }

/-- A credit or a keep-alive flit: it concerns the two ports only. -/
def linkFlit (f : Flit) : Bool := f.kind == 1 || f.kind == 3

/-- A port that runs or keeps alive sends and answers keep-alive flits (R384). -/
def aliveOn (p : Port) : Bool := p.st == 2 || (p.st == 3 && p.keep)

/-- A port may send a flit: a port that is up sends data flits for which it has credit, and all others (R384, R392). -/
def maySend (p : Port) (f : Flit) : Bool := if f.kind = 3 then aliveOn p else p.st == 2 && (f.kind != 0 || decide (0 < p.credit))

/-- The flit a port sends next: credits and keep-alive flits go ahead, the others keep their order (R386); nothing new while the retry buffer is full (R382). -/
def nextOut (p : Port) : Option Flit :=
  if 128 ≤ p.buf.length then none
  else match p.waiting.find? fun f => linkFlit f && maySend p f with
    | some f => some f
    | none => (p.waiting.find? fun f => !linkFlit f).filter (maySend p)

/-- A port sends a flit that waits for it. -/
def sendOut (n : Nat) (f : Flit) (s : State) : State :=
  let g := sealFlit (portOf n s).nextSeq (portOf n s).lastGood f
  send (.flit n g) (modPort n (fun p =>
    { p with waiting := p.waiting.erase f, buf := p.buf ++ [g], nextSeq := p.nextSeq + 1, credit := if f.kind = 0 then p.credit - 1 else p.credit }) s)

def pumpPort (n : Nat) (s : State) : State :=
  (portOf n s).waiting.foldl (fun s _ => match nextOut (portOf n s) with
    | some f => sendOut n f s
    | none => s) s

def queueFlit (n : Nat) (f : Flit) (s : State) : State := pumpPort n (modPort n (fun p => { p with waiting := p.waiting ++ [f] }) s)

/-- The physical port toward a device (R385). -/
def routeTo (d : Nat) (s : State) : Option Nat := (s.rtab.get PortEntry.none d).port?

def devId (s : State) : Nat := s.devid.id.toNat

/-- A refusal of a flit, which carries STATUS in payload byte 0 (R381). -/
def refusalOf (f : Flit) (status : Nat) (s : State) : Flit :=
  { f with kind := 2, src := devId s, dst := f.src, offset := 0, payload := [.ofNat 8 status] }

def sendToward (f : Flit) (s : State) : State :=
  match routeTo f.dst s with
  | some p => queueFlit p f s
  | none => s

/-! ## The engines of a rink (R216) -/

/-- The collective engines of a rink in ascending physical order. -/
def enginesOf (r : Nat) (s : State) : List (Nat × Nat) :=
  ([0, 1].flatMap fun d => (List.range 8).map fun e => (d, e)).filter fun p =>
    (collEngine p.1 p.2 s).owner.rink?.map (·.toNat) == some r

/-- The engine that runs the commands of a logical core. -/
def engineFor (r l : Nat) (s : State) : Option (Nat × Nat) :=
  let es := enginesOf r s
  if es.isEmpty then none else es[l % es.length]?

/-- The first command of a rink in a core's collective queue. -/
def firstCe (r k : Nat) (s : State) : Option Command := (site k s).q.ce.find? (·.rink == r)

/-- The core whose command the engine takes next: round-robin in ascending logical-core order after the core it last served. -/
def nextCore (r d e : Nat) (s : State) : Option (Nat × Nat × Command) :=
  let last := (collEngine d e s).lastCore
  let order := (List.range 272).map fun i => (last + 1 + i) % 272
  order.findSome? fun l =>
    match siteOfLogical r l s with
    | none => none
    | some k =>
      if engineFor r l s != some (d, e) then none
      else match firstCe r k s with
        | some m => if commandVisible s k m then some (l, k, m) else none
        | none => none

/-- COLLECTIVE_COMMAND_START (R216). -/
def execCollectiveCommandStart (d e : Nat) (s : State) : Outcome State Fault Refusal :=
  let eng := collEngine d e s
  match eng.owner.rink?, eng.run with
  | some r, none =>
    match nextCore r.toNat d e s with
    | none => .next s
    | some (l, k, m) =>
      .next (modCollEngine d e (fun v => { v with run := some (startRun k (site k s).now ⟨0, false⟩ m), lastCore := l })
        (modSite k (modQ (dropCommand m)) s))
  | _, _ => .next s

/-! ## Landing (16 R389, R390) -/

/-- The window offset at which a rank's contribution of `n` bytes lands, if RLAND is valid and it ends within its slot, and the slot within the 2^40 bytes that a
window has at most (14 R356). -/
def landingAt (land : Word) (cnum rank n : Nat) : Option (Nat × Nat) :=
  let w := land.toNat
  let slot := 2 ^ field w 4 0
  if bitOf w 63 && decide (rank * n + n ≤ slot ∧ cnum * slot + rank * n + n ≤ 2 ^ 40) then some (field w 21 16, cnum * slot + rank * n) else none

/-- The window address of an offset, as a cursor of space 4. -/
def windowCursor (w off : Nat) : Nat := w * 2 ^ 40 + off

/-- A page of the landing is being moved, or its pseudo-channel is: the access waits at translation (11 R297, 14 R340, 18 R422). -/
def landingMoves (r va n : Nat) (s : State) : Bool :=
  (piecesOf va n).any fun p => match translate s r 4 p.1 true plainPage with
    | .error .moving => true
    | .ok (g, _) => remapping s (pieceMa g p.1)
    | .error _ => false

/-- Why a contribution is refused, if it is (16 R389, R390). -/
def refuseStatus (q : Rink) (c : Contribution) : Option Nat :=
  let v := q.colls.get Coll.closed c.cnum
  if v.refuse then some 4
  else if (landingAt q.rland c.cnum c.rank c.data.length).isNone then some 1
  else if v.landed.any (·.rank == c.rank) then some 2
  else none

def engineOfRink (r : Nat) (s : State) : Option (Nat × Nat) := engineFor r (rink r s).lead.toNat s

/-- A contribution arrives: the status it is refused with, or it lands (16 R389 to R391). Its landing restarts the operation's timer. -/
def arrive (c : Contribution) (s : State) : Option Nat × State :=
  let q := rink c.rink s
  match refuseStatus q c, landingAt q.rland c.cnum c.rank c.data.length with
  | some st, _ => (some st, s)
  | none, none => (some 1, s)
  | none, some (w, off) =>
    match guestWrite c.rink 4 (windowCursor w off) c.data s with
    | .error _ => (some 1, s)
    | .ok s1 =>
      let s2 := modColl c.rink c.cnum (fun v =>
        { v with isOpen := true, landed := v.landed ++ [⟨c.rank, c.src, c.word, c.data.length, c.op, c.size⟩],
                 op := v.op.map fun o => { o with timer := 0 } }) s1
      (none, match engineOfRink c.rink s with
        | some (d, e) => countShared d (7 + e) 2 (rinkFn c.rink s) c.data.length s2
        | none => s2)

/-- A credit for the sender at the other end of a port. -/
def creditOf (s : State) : Flit :=
  { kind := 1, cnum := 0, fid := 0, src := devId s, dst := 0, bytes := 0, word := 0, rank := 0, offset := 0, payload := [], seq := 0, ack := 0,
    crc := 0 }

/-- The port a flit came by grants the credit for it. -/
def grantCredit (port : Option Nat) (s : State) : State :=
  match port with
  | some n => queueFlit n (creditOf s) s
  | none => s

/-- The flit whose answer a refusal of a contribution is. -/
def headFlit (c : Contribution) (s : State) : Flit :=
  { kind := 0, cnum := c.cnum, fid := (rink c.rink s).rfabFid.toNat, src := c.src, dst := devId s, bytes := (c.data.length + 2 ^ 24 - 1) % 2 ^ 24,
    word := c.word, rank := c.rank, offset := 0, payload := [], seq := 0, ack := 0, crc := 0 }

/-- A contribution that has come lands, or is refused. -/
def settleArrival (c : Contribution) (s : State) : State :=
  match arrive c s with
  | (none, s1) => s1
  | (some st, s1) => sendToward (refusalOf (headFlit c s) st s) s1

/-- Where a contribution's bytes from `off` on land. -/
def landingVa (c : Contribution) (off n : Nat) (s : State) : Option Nat :=
  (landingAt (rink c.rink s).rland c.cnum c.rank n).map fun p => windowCursor p.1 (p.2 + off)

/-- What came by `port` waits: after others of its number that wait, or for a page that is being moved. -/
def waitsFor (port : Option Nat) (whole : Option Contribution) (r cnum va n : Nat) (s : State) : Option Stalled :=
  if !(collAt r cnum s).stalled.isEmpty || landingMoves r va n s then some ⟨port, whole, va, n⟩ else none

def stall (r cnum : Nat) (w : Stalled) (s : State) : State := modColl r cnum (fun c => { c with stalled := c.stalled ++ [w] }) s

/-- A whole contribution comes by a port: it lands or is refused, and the port grants the credit of its last flit, or it waits and holds the credit
(R390, R392). -/
def comeWhole (port : Option Nat) (c : Contribution) (s : State) : State :=
  match (landingVa c 0 c.data.length s).bind fun va => waitsFor port (some c) c.rink c.cnum va c.data.length s with
  | some w => stall c.rink c.cnum w s
  | none => settleArrival c (grantCredit port s)

/-- CONTRIBUTION_ARRIVAL (16 R390). -/
def execContributionArrival (c : Contribution) (s : State) : Outcome State Fault Refusal := .next (comeWhole none c s)

/-- What waits first under a number need wait no longer. -/
def landReady (r cnum : Nat) (s : State) : Option Stalled :=
  match (collAt r cnum s).stalled with
  | w :: _ => if landingMoves r w.va w.len s then none else some w
  | [] => none


/-! ## The words (08 R233, R234) -/

/-- A descriptor (R233). -/
structure CollDesc where
  bytes : Nat
  dst : Nat
  src : Nat
  peer : Nat
  cnum : Nat
  deriving DecidableEq, Repr

def parseDesc (w : Word) : CollDesc :=
  let n := w.toNat
  ⟨field n 63 32, field n 31 28, field n 27 24, field n 23 12, field n 11 0⟩

/-- A group of the rink (16 R388): its rank, size and member list; none when V is 0. -/
def groupEntry (r n : Nat) (s : State) : Option (Nat × Nat × Nat) :=
  let v := ((rink r s).gtabV.get 0 n).toNat
  if bitOf v 63 then some (field v 35 24, field v 12 0, field ((rink r s).gtabL.get 0 n).toNat 41 1 * 2) else none

/-- The devices of a member list, in rank order. -/
def memberList (s : State) (a g : Nat) : List Nat :=
  (List.range g).map fun k => match offRead s none (a + 2 * k) (a + 2 * k) 2 with
    | some b => leNat b % 4096
    | none => 0

/-- The element size of creduce's op (R233, 03 R84). -/
def reduceSize (op : Nat) : Nat := if op = 1 then 2 else 4

/-- A base is staged with a right, is not compressed, and covers `n` bytes from its cursor (R233, 14 R341). -/
def baseServes (bases : List Base) (i n : Nat) (st : Bool) : Bool :=
  match bases[i]? with
  | none => false
  | some b => (if st then b.cap.hasST else b.cap.hasLD) && b.pages.all (!·.comp)
      && withinCap b.cap b.cap.cursor ((b.cap.cursor : Int) + n)

/-- The rink's link map holds the route's port (16 R380). -/
def routed (r d : Nat) (s : State) : Bool :=
  d == devId s || match routeTo d s with
    | some p => (List.range 12).any fun i => ((rink r s).link.get PortEntry.none i).port? == some p
    | none => false

/-- The devices an operation sends to: its peer, or the other members. -/
def targetsOf (word : Nat) (d : CollDesc) (rank : Nat) (members : List Nat) : List Nat :=
  if word = 0 then [d.peer]
  else if word = 1 then []
  else ((members.zip (List.range members.length)).filter fun p => p.2 != rank).map (·.1)

/-- The checks of R233, with those of 16 R380, R385 and R388. -/
def descOk (word op : Nat) (d : CollDesc) (bases : List Base) (r : Nat) (group : Option (Nat × Nat × Nat)) (targets : List Nat) (s : State) :
    Bool :=
  let g := match group with
    | some (_, g, _) => g
    | none => 0
  (if word = 4 then d.bytes == 0 else 1 ≤ d.bytes && d.bytes ≤ 2 ^ 24)
    && (if word ≤ 1 then (rink r s).peers.get false d.peer else d.peer < 256 && group.isSome && 1 ≤ g && g ≤ 4096)
    && (word == 1 || targets.isEmpty || (s.devid.v && (rink r s).rfab.isSome))
    && (word == 4 || word == 1 || baseServes bases d.src d.bytes false)
    && (word == 4 || word == 0 || baseServes bases d.dst (if word = 3 then g * d.bytes else d.bytes) true)
    && (word != 2 || d.bytes % reduceSize op == 0)
    && targets.all fun t => routed r t s

/-- The flits of a contribution to one device. -/
def flitsTo (dst fid src word rank cnum : Nat) (data : List Byte) : List Flit :=
  (List.range (max 1 (ceilDiv data.length 224))).map fun i =>
    { kind := 0, cnum := cnum, fid := fid, src := src, dst := dst, bytes := (data.length + 2 ^ 24 - 1) % 2 ^ 24, word := word, rank := rank,
      offset := 224 * i, payload := (data.drop (224 * i)).take 224, seq := 0, ack := 0, crc := 0 }

/-- The operation that a refusal of a flit ends: one under the number whose word, rank and bytes the refused flit had; `strict` asks for the refusing
device among those it sent to. -/
def refusedBy (strict : Bool) (f : Flit) (o : CollOp) : Bool :=
  o.status.isNone && o.word != 1 && o.word == f.word && o.rank == f.rank && (o.bytes + 2 ^ 24 - 1) % 2 ^ 24 == f.bytes
    && (!strict || (if o.word = 0 then o.peer == f.src else o.members.contains f.src))

/-- A refusal comes: the sending operation ends with its STATUS (R390). The refusal of the receiver is looked for first, then that of a device on the way
(R385). -/
def refusedOp (r : Nat) (f : Flit) (s : State) : State :=
  let st := ((f.payload.head?).map (·.toNat)).getD 0
  let c := collAt r f.cnum s
  let ops := collOps c
  match (ops.find? (refusedBy true f)).or (ops.find? (refusedBy false f)) with
  | none => s
  | some o =>
    endOp r f.cnum st (if o.word = 0 then 0 else (o.members.findIdx? (· == f.src)).getD 0) o
      (modColl r f.cnum (fun c => if c.op == some o then closeColl false c else { c with others := c.others.erase o }) s)

/-- A contribution of this device for itself lands here, or is refused. -/
def landOwn (r : Nat) (c : Contribution) (s : State) : State :=
  match arrive c s with
  | (none, s1) => s1
  | (some st, s1) => refusedOp r (refusalOf (headFlit c s) st s) s1

/-- What waited for a page takes its turn. -/
def landStalled (r cnum : Nat) (w : Stalled) (s : State) : State :=
  let s1 := grantCredit w.port (modColl r cnum (fun c => { c with stalled := c.stalled.drop 1 }) s)
  match w.whole with
  | some c => if c.src = devId s then landOwn r c s1 else settleArrival c s1
  | none => s1

/-- Send a contribution to its devices; one to this device itself lands here, or is refused. -/
def sendContribution (r : Nat) (o : CollOp) (cnum : Nat) (targets : List Nat) (s : State) : State :=
  let fid := (rink r s).rfabFid.toNat
  targets.foldl (fun s t =>
    if t = devId s then
      let c : Contribution := ⟨r, t, cnum, o.word, o.rank, o.op, o.members.length, o.own⟩
      match (landingVa c 0 c.data.length s).bind fun va => waitsFor none (some c) r cnum va c.data.length s with
      | some w => stall r cnum w s
      | none => landOwn r c s
    else (flitsTo t fid (devId s) o.word o.rank cnum o.own).foldl (fun s f => sendToward f s) s) s

/-- An operation starts: its data are sent, and a word other than csend opens its number; a second local word under an open operation
ends with STATUS 0x02 (16 R390). A csend's number is the receiver's. -/
def startOp (r : Nat) (o : CollOp) (cnum : Nat) (targets : List Nat) (s : State) : State :=
  if o.word ≠ 0 ∧ (collAt r cnum s).isOpen ∧ (collAt r cnum s).op.isSome then endOp r cnum 2 0 o s
  else
    let s1 := modColl r cnum (fun c =>
      if o.word = 0 then { c with others := c.others ++ [o] }
      else { c with isOpen := true, refuse := false, landed := if c.isOpen then c.landed else [], others := c.others ++ c.op.toList, op := some o }) s
    let n := targets.length * o.own.length
    let s2 := charge o.site o.ctx 13 (targets.length * ceilDiv o.own.length 256) (sendContribution r o cnum targets s1)
    let fn := rinkFn r s
    modSite o.site (countEvent (liveJob s) r 0x0F (targets.length * max 1 (ceilDiv o.own.length 224)))
      (countShared o.die (7 + o.ce) 1 fn n (countShared o.die (7 + o.ce) 0 fn 1 s2))

/-- A collective word but cwait: its descriptor, the checks of R233, its own data, then the operation. -/
def collWord (word op : Nat) (s : State) : State :=
  let q := mySeq s
  match myRun s, firstHit [popHit 1 q] with
  | _, some h => seqStop h s
  | none, none => s
  | some v, none =>
    let r := v.cmd.rink
    let d := parseDesc (top q 0)
    let group := if 2 ≤ word then groupEntry r d.peer s else none
    let rank := match group with
      | some (k, _, _) => k
      | none => 0
    let members := match group with
      | some (_, g, a) => memberList s a g
      | none => []
    let targets := targetsOf word d rank members
    let o : CollOp := { word := word, op := op, peer := d.peer, bytes := d.bytes, dst := v.cmd.bases[d.dst]?, members := members, rank := rank,
                        own := [], site := v.site, ctx := v.cmd.ctx, die := s.cur.die, ce := s.cur.ce, cmd := v.cmd.num, timer := 0, job := jobOf r s, lost := false,
                        detached := false, status := none, detail := 0, flags := 0 }
    let next (f : State → State) (s : State) : State :=
      seqWord [] 1 1 (fun s => f (modMySeq (fun q => { q with stack := q.stack.drop 1 }) s)) s
    if group.any fun g => (List.range g.2.1).any fun k => remapping s (g.2.2 + 2 * k) then seqStop (walkHit s r .moving) s
    else if !descOk word op d v.cmd.bases r group targets s then next (endOp r d.cnum 1 0 o) s
    else if word = 1 ∨ word = 4 then next (startOp r o d.cnum targets) s
    else
      match v.cmd.bases[d.src]? with
      | none => next (endOp r d.cnum 1 0 o) s
      | some b =>
        match baseRead r b b.cap.cursor d.bytes { s with cur := { s.cur with site := v.site } } with
        | .error h => seqStop h s
        | .ok (own, s1) => next (startOp r { o with own := own } d.cnum targets) { s1 with cur := s.cur }

/-- CSEND (R234). -/
def execCsend (s : State) : Outcome State Fault Refusal := .next (collWord 0 0 s)

/-- CRECV (R234). -/
def execCrecv (s : State) : Outcome State Fault Refusal := .next (collWord 1 0 s)

/-- CREDUCE (R234, R235). -/
def execCreduce (op : BitVec 3) (s : State) : Outcome State Fault Refusal := .next (collWord 2 op.toNat s)

/-- CGATHER (R234). -/
def execCgather (s : State) : Outcome State Fault Refusal := .next (collWord 3 0 s)

/-- CBAR (R234). -/
def execCbar (s : State) : Outcome State Fault Refusal := .next (collWord 4 0 s)

/-- CWAIT (R234): until every operation this command started earlier has completed. -/
def execCwait (s : State) : Outcome State Fault Refusal :=
  .next (seqWord [(myRun s).bind fun v => hitIf (openOps v s) (.stall 0 0 0 none)] 1 1 id s)

/-! ## Completion (R234, R235) -/

/-- One op step of R235 on FP32 or INT32 elements. -/
def reduceWide (op : Nat) (x y : Nat) : Nat × Fl :=
  let a := decodeFp 23 x
  let b := decodeFp 23 y
  match op with
  | 2 | 3 =>
    let e := fpExtreme (op == 2) a b
    ((roundFp 23 e.1 1 false 0).1, e.2)
  | 4 => ((x + y) % 2 ^ 32, 0)
  | _ =>
    let e := exactAdd 1 a b
    let z := roundFp 23 e.1 1 false 0
    (z.1, e.2 ||| z.2)

/-- BF16 elements widen to FP32 exactly; a signalling NaN sets NV (01 R30). -/
def widenElement (op w : Nat) : Nat × Fl :=
  if op = 1 then
    let x := decodeFp 7 w
    ((roundFp 23 x 1 false 0).1, flIf (isSnan x) flNV)
  else (w, 0)

/-- One op step (R235): that of BF16 widens both elements, sums them in FP32 and rounds once to BF16. -/
def reduceStep (op x y : Nat) : Nat × Fl :=
  let v := widenElement op x
  let w := widenElement op y
  let z := reduceWide op v.1 w.1
  let fl := v.2 ||| w.2 ||| z.2
  if op = 1 then
    let e := roundFp 7 (decodeFp 23 z.1) 1 false 0
    (e.1, fl ||| e.2)
  else (z.1, fl)

/-- One element of every member, in rank order (R235). -/
def reduceElement (op : Nat) : List Nat → Nat × Fl
  | [] => (0, 0)
  | x :: xs => xs.foldl (fun (acc : Nat × Fl) y =>
      let z := reduceStep op acc.1 y
      (z.1, acc.2 ||| z.2)) (x, 0)

/-- The reduction of whole contributions, `n` elements of `esz` bytes. -/
def reduceAll (op esz : Nat) (parts : List (List Byte)) : Nat → List Byte × Fl
  | 0 => ([], 0)
  | n + 1 =>
    let r := reduceAll op esz parts n
    let e := reduceElement op (parts.map fun p => leNat ((p.drop (n * esz)).take esz))
    (r.1 ++ leBytes esz e.1, r.2 ||| e.2)

/-- The ranks whose contributions an operation needs. -/
def neededRanks (o : CollOp) : List Nat := (List.range o.members.length).filter (· != o.rank)

/-- The landed contribution of a rank, or for crecv of the peer. -/
def landingOf (c : Coll) (o : CollOp) (rank : Nat) : Option Landing :=
  if o.word = 1 then c.landed.find? (·.src == o.peer) else c.landed.find? (·.rank == rank)

/-- Every contribution that the operation needs has landed (16 R390). -/
def haveAll (c : Coll) (o : CollOp) : Bool :=
  if o.word = 1 then (landingOf c o 0).isSome else (neededRanks o).all fun k => (landingOf c o k).isSome

/-- A contribution disagrees with the local operation: on BYTES, or for a group word on the word, the op or g (R234). -/
def disagrees (o : CollOp) (l : Landing) : Bool :=
  l.bytes != o.bytes || (o.word != 1 && (l.word != o.word || l.size != o.members.length || (o.word == 2 && l.op != o.op)))

/-- The first rank that disagrees. -/
def mismatched (c : Coll) (o : CollOp) : Option Nat :=
  (if o.word = 1 then [0] else neededRanks o).findSome? fun k =>
    match landingOf c o k with
    | some l => if disagrees o l then some l.rank else none
    | none => none

/-- A member's data: this device's own, or what landed. -/
def memberData (r cnum : Nat) (c : Coll) (o : CollOp) (k : Nat) (s : State) : Except Hit (List Byte × State) :=
  if o.word ≠ 1 ∧ k = o.rank then .ok (o.own, s)
  else
    match landingOf c o k with
    | none => .ok ([], s)
    | some l =>
      match landingAt (rink r s).rland cnum l.rank l.bytes with
      | none => .error (.trap 0x1B 0)
      | some (w, off) => guestRead r 4 (windowCursor w off) l.bytes s

def allData (r cnum : Nat) (c : Coll) (o : CollOp) : List Nat → State → Except Hit (List (List Byte) × State)
  | [], s => .ok ([], s)
  | k :: ks, s =>
    match memberData r cnum c o k s with
    | .error h => .error h
    | .ok (d, s1) =>
      match allData r cnum c o ks s1 with
      | .error h => .error h
      | .ok (ds, s2) => .ok (d :: ds, s2)

/-- The result of an operation with its numeric flags: crecv's data, the reduction, or the members' data end to end. -/
def resultOf (o : CollOp) (parts : List (List Byte)) : List Byte × Fl :=
  if o.word = 2 then reduceAll o.op (reduceSize o.op) parts (o.bytes / reduceSize o.op) else (parts.flatMap id, 0)

/-- The local operation writes its result and ends; its number closes (R234, 16 R390). It waits while a page it reads what landed from, or a
pseudo-channel it reads or writes, is being moved (11 R297, 18 R422). -/
def completeMain (r cnum : Nat) (c : Coll) (o : CollOp) (s : State) : State :=
  let close := modColl r cnum (closeColl false)
  match mismatched c o with
  | some k => endOp r cnum 2 k o (close s)
  | none =>
    if o.word = 4 then endOp r cnum 0 0 o (close s)
    else
      match allData r cnum c o (if o.word = 1 then [0] else List.range o.members.length) s with
      | .error (.stall _ _ _ _) => s
      | .error _ => endOp r cnum 1 0 o (close s)
      | .ok (parts, s1) =>
        let res := resultOf o parts
        match o.dst with
        | none => endOp r cnum 1 0 o (close s1)
        | some b =>
          match baseWrite r b b.cap.cursor res.1 { s1 with cur := { s1.cur with site := o.site } } with
          | .error (.stall _ _ _ _) => s
          | .error _ => endOp r cnum 1 0 o (close s1)
          | .ok s2 => endOp r cnum 0 0 { o with flags := res.2 } (close { s2 with cur := s.cur })

/-- A flit that carries data of an operation of this device. -/
def flitOf (r cnum : Nat) (o : CollOp) (s : State) (f : Flit) : Bool :=
  f.kind == 0 && f.src == devId s && f.fid == (rink r s).rfabFid.toNat && f.cnum == cnum && f.word == o.word && (o.word != 0 || f.dst == o.peer)

/-- Every flit of an operation has left this device and been taken. -/
def allSent (r cnum : Nat) (o : CollOp) (s : State) : Bool :=
  !o.lost && !(List.range 12).any fun p => ((portOf p s).waiting ++ (portOf p s).buf).any (flitOf r cnum o s)

/-- An operation that waits to post and has room (R237). -/
def postReady (r cnum : Nat) (s : State) : Option CollOp :=
  (collAt r cnum s).others.find? fun o => o.status.isSome && decide ((site o.site s).q.collFifo.length < 16)

/-- The local operation, if it has what it needs and its own data have landed. -/
def mainReady (r cnum : Nat) (s : State) : Option CollOp :=
  (collAt r cnum s).op.filter fun o => haveAll (collAt r cnum s) o && (o.word == 1 || allSent r cnum o s)

/-- A csend whose last flit has landed. -/
def sendReady (r cnum : Nat) (s : State) : Option CollOp :=
  (collAt r cnum s).others.find? fun o => o.word == 0 && o.status.isNone && allSent r cnum o s

/-- An operation sends nothing to another device. -/
def staysHome (o : CollOp) (s : State) : Bool := if o.word = 0 then o.peer == devId s else o.word == 1 || o.members.all (· == devId s)

/-- What the device does by itself under a number: a contribution that waited lands, an operation posts, or one ends that sent nothing to another device. That data
have landed at another device is its own event: until COLLECTIVE_OP_COMPLETE says so, a refusal may still come (R390; notes/assumptions/27.md). -/
def collReady (r cnum : Nat) (s : State) : Bool :=
  (landReady r cnum s).isSome || (postReady r cnum s).isSome || ((mainReady r cnum s).filter (staysHome · s)).isSome
    || ((sendReady r cnum s).filter (staysHome · s)).isSome

/-- COLLECTIVE_OP_COMPLETE: what waited for a page lands; else an operation that waits to post does so when there is room; else the local operation ends once it has
what it needs and its own data have landed; else a csend ends whose last flit has landed (R234, R237, 16 R390, R392). -/
def execCollectiveOpComplete (r cnum : Nat) (s : State) : Outcome State Fault Refusal :=
  let drop (o : CollOp) (s : State) : State := modColl r cnum (fun c => { c with others := c.others.erase o }) s
  .next (match landReady r cnum s, postReady r cnum s, mainReady r cnum s, sendReady r cnum s with
    | some w, _, _, _ => landStalled r cnum w s
    | none, some o, _, _ => endOp r cnum (o.status.getD 0) o.detail o (drop o s)
    | none, none, some o, _ => completeMain r cnum (collAt r cnum s) o s
    | none, none, none, some o => endOp r cnum 0 0 o (drop o s)
    | none, none, none, none => s)

/-! ## Timeouts (16 R393) -/

/-- COLLTO.BEATS of a rink; 0 is none. -/
def timeoutBeats (q : Rink) : Nat := field q.collto.toNat 47 0

/-- The operation whose timer has reached BEATS: the local one that still waits for a contribution, one a rewind left without its number, or a csend whose flits were
lost (R383). -/
def timedOut (q : Rink) (c : Coll) : Option CollOp :=
  let late (o : CollOp) : Bool := timeoutBeats q != 0 && decide (timeoutBeats q ≤ o.timer)
  (c.op.filter fun o => late o && (!haveAll c o || o.lost)).or (c.others.find? fun o => o.status.isNone && late o && (o.word != 0 || o.lost))

/-- The Rink Sequencer's context takes a collective-timeout trap before its next instruction; a halted context, or one in handler state,
takes none. -/
def timeoutTrap (r cnum : Nat) (s : State) : State :=
  let q := rink r s
  match siteOfLogical r q.lead.toNat s with
  | some k =>
    if bitOf q.collto.toNat 63 then
      modSite k (modCtx q.leadCtx fun x =>
        if !x.ctl.running || x.trap.handler then x
        else { x with trap := { x.trap with pend := x.trap.pend ++ [⟨0x2A, cnum, false⟩] } }) s
    else s
  | none => s

/-- COLLECTIVE_TIMEOUT (16 R393). -/
def execCollectiveTimeout (r cnum : Nat) (s : State) : Outcome State Fault Refusal :=
  let c := collAt r cnum s
  .next (match timedOut (rink r s) c with
    | some o =>
      let s1 := endOp r cnum 4 0 o
        (modColl r cnum (fun c => if c.op == some o then closeColl true c else { c with others := c.others.erase o }) s)
      timeoutTrap r cnum (countShared o.die (7 + o.ce) 3 (rinkFn r s) 1 s1)
    | none => s)

/-! ## Flits that arrive (16 R381 to R393) -/

/-- A flit that passes its CRC and comes in order: the receiver keeps its SEQ, frees the retry buffer up to its ACK, and sends what
waits. -/
def acceptFlit (n : Nat) (f : Flit) (s : State) : State :=
  let ackd (p : Port) : List Flit := match p.buf.findIdx? (·.seq == f.ack) with
    | some i => p.buf.drop (i + 1)
    | none => p.buf
  pumpPort n (modPort n (fun p => { p with lastGood := f.seq, buf := ackd p }) s)

/-- The receiver's answer to a flit: whether it goes on. One that fails its CRC or is out of order is discarded with a negative acknowledgement
(R382). A port that keeps alive takes keep-alive flits only (R384). -/
def receiveFlit (n : Nat) (f : Flit) (s : State) : Bool × State :=
  let p := portOf n s
  if !(if f.kind = 3 then aliveOn p else p.st == 2) then (false, s)
  else if f.crc != crc64 (flitBytes f) || f.seq != p.lastGood + 1 then
    (false, send (.nak n p.lastGood) (modPort n (fun p => { p with crcBad := .ofNat 48 (satAdd 48 p.crcBad.toNat 1) }) s))
  else (true, acceptFlit n f s)

/-- The valid rink of a fabric identity (R387). -/
def rinkOfFid (fid : Nat) (s : State) : Option Nat :=
  (List.range 64).find? fun r => (rink r s).valid && (rink r s).rfab.map (·.toNat) == some fid

/-- The part of a contribution that a flit adds to; a flit that starts one replaces what stood there. -/
def addPart (f : Flit) (c : Coll) : Coll :=
  let here (p : Partial) : Bool := p.src == f.src && p.rank == f.rank && p.word == f.word
  let old := if f.offset = 0 then [] else match c.parts.find? here with
    | some p => p.got
    | none => []
  { c with parts := (c.parts.filter fun p => !here p) ++ [⟨f.src, f.word, f.rank, old ++ f.payload⟩] }

/-- The contribution a delivered flit completes, if it is its last. -/
def finishedPart (r : Nat) (f : Flit) (c : Coll) : Option Contribution :=
  let total := if f.word = 4 then 0 else f.bytes + 1
  match c.parts.find? fun p => p.src == f.src && p.rank == f.rank && p.word == f.word with
  | some p => if p.got.length = total then some ⟨r, f.src, f.cnum, f.word, f.rank, 0, 0, p.got⟩ else none
  | none => none

def dropPart (f : Flit) (c : Coll) : Coll :=
  { c with parts := c.parts.filter fun p => !(p.src == f.src && p.rank == f.rank && p.word == f.word) }

/-- No flit carries the op and g of a group word: whether members agree on them is a free value (notes/assumptions/27.md). -/
def withTerms (c : Contribution) (s : State) : Contribution × State :=
  if c.word < 2 then (c, s)
  else
    let v := (freshWord s).1.toNat
    ({ c with op := v % 8, size := field v 15 3 }, (freshWord s).2)

/-- A data flit for this device: it goes to the rink of its fabric identity, or is refused with STATUS 0x04 (R387). The port grants its credit once the landing
window can take it (R392). -/
def deliverFlit (n : Nat) (f : Flit) (s : State) : State :=
  match rinkOfFid f.fid s with
  | none => sendToward (refusalOf f 4 s) (grantCredit (some n) s)
  | some r =>
    let s1 := modColl r f.cnum (addPart f) s
    match finishedPart r f (collAt r f.cnum s1) with
    | none =>
      let c : Contribution := ⟨r, f.src, f.cnum, f.word, f.rank, 0, 0, []⟩
      (match (landingVa c f.offset (f.bytes + 1) s1).bind fun va => waitsFor (some n) none r f.cnum va f.payload.length s1 with
       | some w => stall r f.cnum w s1
       | none => grantCredit (some n) s1)
    | some c =>
      let t := withTerms c (modColl r f.cnum (dropPart f) s1)
      comeWhole (some n) t.1 t.2

/-- A flit for another device: through the port the route table names, or refused with STATUS 0x01 (R385). -/
def forwardFlit (f : Flit) (s : State) : State :=
  match routeTo f.dst s with
  | some p => queueFlit p f s
  | none => sendToward (refusalOf f 1 s) s

def forMe (f : Flit) (s : State) : Bool := s.devid.v && s.devid.id.toNat == f.dst

/-- A flit that passes its checks but is of a reserved kind is dropped and counted (R381). -/
def reservedKind (n : Nat) (f : Flit) (s : State) : Option State :=
  if 4 ≤ f.kind then some (modPort n (fun p => { p with badKind := .ofNat 48 (satAdd 48 p.badKind.toNat 1) }) s) else none

/-- DATA_FLIT (R385). -/
def execDataFlit (n : Nat) (f : Flit) (s : State) : Outcome State Fault Refusal :=
  match receiveFlit n f s with
  | (false, s1) => .next s1
  | (true, s1) =>
    match reservedKind n f s1 with
    | some s2 => .next s2
    | none =>
      .next (if forMe f s then deliverFlit n f s1 else forwardFlit f (grantCredit (some n) s1))

/-- CREDIT_FLIT (R392). -/
def execCreditFlit (a : LinkFlit) (s : State) : Outcome State Fault Refusal :=
  match receiveFlit a.port a.flit s with
  | (false, s1) => .next s1
  | (true, s1) => .next (pumpPort a.port (modPort a.port (fun p => { p with credit := p.credit + 1 }) s1))

/-- REFUSAL_FLIT (R390). -/
def execRefusalFlit (n : Nat) (f : Flit) (s : State) : Outcome State Fault Refusal :=
  match receiveFlit n f s with
  | (false, s1) => .next s1
  | (true, s1) =>
    match reservedKind n f s1 with
    | some s2 => .next s2
    | none =>
      if !forMe f s then .next (forwardFlit f s1)
      else match rinkOfFid f.fid s with
        | some r => .next (refusedOp r f s1)
        | none => .next s1

def aliveFlit (s : State) : Flit := { creditOf s with kind := 3 }

/-- KEEP_ALIVE_FLIT (R384): it is answered by a port that runs or keeps alive. -/
def execKeepAliveFlit (a : LinkFlit) (s : State) : Outcome State Fault Refusal :=
  match receiveFlit a.port a.flit s with
  | (false, s1) => .next s1
  | (true, s1) => .next (queueFlit a.port (aliveFlit s1) s1)

/-- A replay of flits that the retry buffer holds, one for BLRETRY; a port that keeps alive sends no other flits (R382, R384). -/
def replay (n : Nat) (fs : List Flit) (s : State) : State :=
  let p := portOf n s
  let again := fs.filter fun f => if f.kind = 3 then aliveOn p else p.st == 2
  if again.isEmpty then s
  else again.foldl (fun s f => send (.flit n f) s) (modPort n (fun p => { p with retry := .ofNat 48 (satAdd 48 p.retry.toNat 1) }) s)

/-- NEGATIVE_ACKNOWLEDGE (R382): the sender replays from the flit after the last good SEQ. Entries leave the buffer only as ACK advances. -/
def execNegativeAcknowledge (n : Nat) (lastGood : BitVec 16) (s : State) : Outcome State Fault Refusal :=
  let p := portOf n s
  .next (replay n (match p.buf.findIdx? (·.seq == lastGood) with
    | some i => p.buf.drop (i + 1)
    | none => p.buf) s)

/-- A port that is down: its flits are discarded, and its numbers begin again. -/
def downPort (p : Port) : Port := { p with st := 0, lanes := 0, buf := [], waiting := [], nextSeq := 1, lastGood := 0, credit := 0, granted := false }

/-- The operations whose flits a port held have lost them. -/
def loseFlits (n : Nat) (s : State) : State :=
  let gone := (portOf n s).waiting ++ (portOf n s).buf
  if gone.isEmpty then s
  else { s with rinks := s.rinks.mapVals fun r q =>
    let mark (c : Nat) (o : CollOp) : CollOp := if gone.any (flitOf r c o s) then { o with lost := true } else o
    { q with colls := q.colls.mapVals fun n c => { c with op := c.op.map (mark n), others := c.others.map (mark n) } } }

/-- The port goes down and its flits in flight are discarded; operations that wait on them end by their timeout (R383). -/
def takeDown (n : Nat) (s : State) : State := modPort n downPort (loseFlits n s)

/-- LANE_FAILURE (R383): the port retrains on seven lanes; a second failure takes it down. -/
def execLaneFailure (n : Nat) (s : State) : Outcome State Fault Refusal :=
  let p := portOf n s
  .next (if p.st = 0 then s else if p.lanes = 7 then takeDown n s else modPort n (fun p => { p with lanes := 7, st := 1 }) s)

/-- A port that is up sends its flits again, then the credit with which the other end begins, once. -/
def comeUp (n : Nat) (s : State) : State :=
  let p := portOf n s
  let s1 := replay n p.buf s
  pumpPort n (if p.granted then s1 else queueFlit n (creditOf s) (modPort n (fun p => { p with granted := true }) s1))

/-- RETRAIN_COMPLETE (R383, R384): a training port comes up and replays the flits it holds; in Retention it keeps alive, and sends nothing else. -/
def execRetrainComplete (n : Nat) (s : State) : Outcome State Fault Refusal :=
  let p := portOf n s
  if p.st ≠ 1 then .next s
  else
    let trained (st : BitVec 4) : State := modPort n (fun p => { p with st := st, lanes := if p.lanes = 0 then 8 else p.lanes }) s
    .next (if s.power.st = .retention then queueFlit n (aliveFlit s) (trained 3) else comeUp n (trained 2))

/-- RETRAIN_TIMEOUT (R383). -/
def execRetrainTimeout (n : Nat) (s : State) : Outcome State Fault Refusal := .next (if (portOf n s).st = 1 then takeDown n s else s)

/-- The ports that may send a keep-alive flit now: none of theirs waits, and the retry buffer has room (R384). -/
def alivePorts (s : State) : List Nat :=
  s.dies.cells.flatMap fun d => (d.2.ports.cells.filter fun p =>
    aliveOn p.2 && decide (p.2.buf.length < 128) && !p.2.waiting.any (·.kind == 3)).map fun p => 6 * d.1 + p.1

/-- A port sends a keep-alive flit of its own. -/
def sendAlive (n : Nat) (s : State) : State := queueFlit n (aliveFlit s) s

end Sys2Proof.Machine
end

