-- ==== Sys2Proof/Machine/Power.lean ====
section
/-!
DEFINITION. Operating points, draw, thermal control, Hold and Retention (10 R269, R276, 19 R428 to R440).
-/

namespace Sys2Proof.Machine

open Host (Outcome)

def modPower (f : Power → Power) (s : State) : State := { s with power := f s.power }

/-- What happens in Hold returns the device to Run (R437). -/
def wake (s : State) : State :=
  if s.power.st = .hold ∧ !s.agenda.contains .holdExit then { s with agenda := s.agenda ++ [.holdExit] } else s

/-! ## Operating points (R428 to R432) -/

/-- A rink is running (R430). -/
def rinkRuns (q : Rink) : Bool := q.valid && q.work.running.isSome && !q.suspd

def someRinkRuns (s : State) : Bool := s.rinks.cells.any fun q => rinkRuns q.2

/-- The target point (R430). -/
def targetPoint (s : State) : Nat :=
  if someRinkRuns s then s.rinks.cells.foldl (fun m q => if rinkRuns q.2 then max m q.2.voteEff.toNat else m) 0 else s.power.idle

def pointVolt (p : Power) (k : Nat) : Nat := p.volt.get 0 k
def pointFreq (p : Power) (k : Nat) : Nat := p.freq.get 0 k

/-- The rails move toward a new target, or one above the current point, from the voltage that stands; below the current point they stand until the
clock has switched (R432). A VOLT written for the point in force moves nothing until the target changes (R431). -/
def rampTo (t : Nat) (p : Power) : Power :=
  { p with target := t, ramping := decide (p.cur ≤ t) && p.vnow != pointVolt p t && (p.ramping || t != p.target || decide (p.cur < t)) }

/-- The target is not the one in force, or its rails have yet to move. -/
def pointMoves (s : State) : Bool :=
  let p := s.power
  targetPoint s != p.target || (!p.ramping && decide (p.cur < p.target) && p.vnow != pointVolt p p.target)

/-- One master cycle of a rail that moves: 5 mV per µs, a cycle being 1 / FNOW µs (R432). -/
def slewRails (p : Power) : Power :=
  if !p.ramping || decide (p.target < p.cur) then p
  else if p.slew + 5 < p.fnow then { p with slew := p.slew + 5 }
  else
    let v := pointVolt p p.target
    { p with slew := p.slew + 5 - p.fnow, vnow := if p.vnow < v then p.vnow + 1 else if v < p.vnow then p.vnow - 1 else v }

/-- The rails stand at the voltage of a target at or above the current point. -/
def rampOver (p : Power) : Bool := p.ramping && decide (p.cur ≤ p.target) && p.vnow == pointVolt p p.target

/-- OPERATING_POINT_CHANGE (R430): the target is computed again. -/
def execOperatingPointChange (s : State) : Outcome State Fault Refusal := .next (modPower (rampTo (targetPoint s)) s)

/-- The clock may switch in this cycle: down at once, up once the rails stand at the target's voltage (R432). -/
def maySwitch (s : State) : Bool :=
  let p := s.power
  s.cycle % 16 == 0 && (decide (p.target < p.cur) || (decide (p.cur < p.target) && !p.ramping && p.vnow == pointVolt p p.target))

/-- CLOCK_SWITCH (R432). -/
def execClockSwitch (s : State) : Outcome State Fault Refusal :=
  .next (if maySwitch s then
    modPower (fun p => { p with cur := p.target, fnow := pointFreq p p.target, ramping := p.ramping || p.vnow != pointVolt p p.target }) s
  else s)

/-- VOLTAGE_RAMP_DONE (R432). -/
def execVoltageRampDone (s : State) : Outcome State Fault Refusal :=
  .next (if rampOver s.power then modPower (fun p => { p with ramping := false, slew := 0 }) s else s)

/-- A write of an operating-point entry within the limits and in order (R428). -/
def optabOk (p : Power) (k f v : Nat) : Bool :=
  decide (k < 8) && decide (2000 ≤ f ∧ f ≤ 4000) && decide (550 ≤ v ∧ v ≤ 850)
    && (k == 0 || decide (pointFreq p (k - 1) ≤ f ∧ pointVolt p (k - 1) ≤ v))
    && (k == 7 || decide (f ≤ pointFreq p (k + 1) ∧ v ≤ pointVolt p (k + 1)))

def writeOptab (k f v : Nat) (p : Power) : Power :=
  if optabOk p k f v then { p with freq := p.freq.put k f, volt := p.volt.put k v } else p

/-- OPTAB_WRITE (R428). -/
def execOptabWrite (k : Nat) (val : Word) (s : State) : Outcome State Fault Refusal :=
  .next (modPower (writeOptab k (field val.toNat 31 16) (field val.toNat 15 0)) s)

/-- A rink's vote: OP is the rink's, CAP the PF's. A lower CAP lowers EFF at once while the rink is not running (R429). -/
def writeVote (who : Requester) (v : Nat) (q : Rink) : Rink :=
  match who with
  | .rink _ => { q with voteOp := .ofNat 3 (min (v % 8) q.voteCap.toNat), votePend := true }
  | .pf =>
    let cap := BitVec.ofNat 3 (field v 10 8)
    { q with voteCap := cap, voteEff := if !rinkRuns q ∧ cap.toNat < q.voteEff.toNat then cap else q.voteEff }

/-- RVOTE_WRITE (R429): a rink writes its own vote only. -/
def execRvoteWrite (who : Requester) (r : Nat) (val : Word) (s : State) : Outcome State Fault Refusal :=
  .next (if who = .pf ∨ who = .rink r then modRink r (writeVote who val.toNat) s else s)

/-! ## The supply monitor (R433, R434) -/

/-- One microsecond of the supply monitor, in mW: a ramp of so many W per ms is as many mW per µs. -/
def monitor (running : Bool) (draw capacity : Nat) (p : Power) : Power :=
  let d := 1000 * draw
  let t := max d (p.trackMilli - p.ramp)
  let b := if p.ballastEn && running then max (1000 * p.floor) t - d else p.burnMilli - p.ramp
  let burn := min b (1000 * capacity)
  { p with trackMilli := t, burnMilli := b, ballast := burn / 1000, draw := draw + burn / 1000 }

/-- SUPPLY_MONITOR_SAMPLE (R434). -/
def execSupplyMonitorSample (draw capacity : Nat) (s : State) : Outcome State Fault Refusal :=
  .next (modPower (monitor (someRinkRuns s) draw capacity) s)

/-- A write of PWRCTL; `t` starts at `d` on any rise of EN (R433, R434). -/
def writePwrctl (v : Nat) (p : Power) : Power :=
  { p with ballastEn := bitOf v 63, ramp := max 1 (field v 47 32), floor := field v 15 0,
           trackMilli := if bitOf v 63 && !p.ballastEn then 0 else p.trackMilli }

/-! ## Hold (R437) -/

/-- Every cluster has had 4,096 beats with nothing active (R437). -/
def restedLong (p : Power) : Bool := p.idleBeats.cells.all fun c => decide (4096 ≤ c.2)

/-- The beat of each cluster that keeps this pulse counts toward Hold while nothing is active (00 R7, R437). -/
def countIdle (active : Bool) (s : State) : State :=
  modPower (fun p => { p with
    idleBeats := if active then Table.fill 72 0
      else p.idleBeats.mapVals fun x n => if (patternOf (x / 36) (x % 36) s).getLsbD (s.cycle % 16) then n + 1 else n }) s

/-- HOLD_ENTRY (R437). -/
def execHoldEntry (s : State) : Outcome State Fault Refusal :=
  .next (if s.power.st = .run ∧ restedLong s.power then modPower (fun p => { p with st := .hold }) s else s)

/-- HOLD_EXIT (R437). -/
def execHoldExit (s : State) : Outcome State Fault Refusal :=
  .next (if s.power.st = .hold then modPower (fun p => { p with st := .run, idleBeats := Table.fill 72 0 }) s else s)

/-! ## Retention entry (R435, R438) -/

/-- A launch that waits for its entry takes the rewound state: its regions are freed and its pages unpinned. -/
def undoLaunch (r : Nat) (l : Launch) (s : State) : State :=
  let s1 := leaveRegions r l (l.units.foldl (fun s u => modSite u.site (freePlaced l.lctr r) s) (pinPages false l.pins s))
  modWork r (fun w => endLaunchEntries l.lctr 3
    { w with launches := w.launches.filter (·.lctr != l.lctr), lctr := w.lctr.put l.lctr ⟨0, .rewound, 0⟩ }) s1

/-- Every launch that has not had its start pulse is undone. -/
def undoWaiting (s : State) : State :=
  s.rinks.cells.foldl (fun s q =>
    let ls := q.2.work.launches.filter (!·.pulsed)
    if ls.isEmpty then s else recount q.1 (ls.foldl (fun s l => undoLaunch q.1 l s) s)) s

/-- Retention entry begins; a second request during entry or Retention changes nothing (R438). -/
def enterRetention (cause : Nat) (s : State) : State :=
  if s.power.st = .run ∨ s.power.st = .hold ∨ s.power.st = .resuming then
    modPower (fun p => { p with st := .entering, cause := cause, resumeAsked := false }) (undoWaiting s)
  else s

/-- PGOOD_WARN_N_FALL (R438). -/
def execPgoodWarnNFall (s : State) : Outcome State Fault Refusal := .next (enterRetention 1 s)

/-- RETCTL_ENTER (R436). -/
def execRetctlEnter (s : State) : Outcome State Fault Refusal := .next (enterRetention 2 s)

/-- TEMPERATURE_SAMPLE (R269, R435): the band, the alarm when a die enters band 15, and the trip at 105 °C. -/
def execTemperatureSample (d : Nat) (celsius : Int) (s : State) : Outcome State Fault Refusal :=
  let b := bandOf celsius
  let old := (die d s).band.toNat
  let s1 := modDie d (sampleBand b) (if old < b then wake s else s)
  let s2 := if old < 15 ∧ b = 15 then signalPf (modPower (fun p => { p with hot := true }) s1) else s1
  .next (if 105 ≤ celsius then enterRetention 3 s2 else s2)

/-- Detached collectives not complete are abandoned: the rink's event queue holds the record that R440 gives for each. -/
def abandonColls (r : Nat) (s : State) : State :=
  (rink r s).colls.cells.foldl (fun s c =>
    let s1 := ((collOps c.2).filter fun o => o.detached && o.status.isNone).foldl (fun s o =>
      modWork r (postEvent 4 ((logicalOfSite r o.site s).getD 0) [collElement o c.1 3 0]) s) s
    modColl r c.1 (fun _ => { Coll.closed with refuse := true }) s1) s

/-- The Rink Sequencer stands at a gate, where it has stopped. -/
def stoppedAtGate (r : Nat) (s : State) : Bool :=
  match seqSite r s with
  | some (k, x) => !(ctxOf (site k s) x).ctl.running && (rink r s).work.ending.isNone
  | none => true

/-- At D a rink that has not stopped at a gate is rewound without counting it, and its job's image is written from its last gate; a rink
without a job only switches worlds (15 R371). An image that a page move keeps from its place is written at the next such event. -/
def deadlineRink (r : Nat) (s : State) : State :=
  let s0 := abandonColls r s
  if (rink r s0).work.running.isNone then worldSwitch r s0
  else
    match (rink r s0).recov.checkpoint, seqSite r s0 with
    | some p, some (k, x) =>
      let s1 := if stoppedAtGate r s0 then s0
        else recount r (modWork r (dropIssued p) (modRecov r (fun v => { v with frozen := false, kind := 0, core := 0 }) (stopRink r .rewound 3 s0)))
      (saveJob r p.sLive.toNat p.aLive.toNat p.pos.toNat (loadCheckpoint (site k s1).now p (ctxOf (site k s1) x)) s1).getD s1
    | _, _ => worldSwitch r s0

/-- RETENTION_DEADLINE (R438): steps 2 and 3 for every rink. -/
def execRetentionDeadline (s : State) : Outcome State Fault Refusal :=
  .next (if s.power.st = .entering then (s.rinks.cells.filter (·.2.valid)).foldl (fun s q => deadlineRink q.1 s) s else s)

/-- What a core keeps when the compute dies lose power: its ownership, split and retirement bits (R426, R440, 10 R277). -/
def coldSite (c : Site) : Site :=
  { Site.reset with
    own := c.own, tm := { Tm.reset with split := c.tm.split, retired := c.tm.retired },
    ctx0 := { Ctx.reset with ctxid := c.ctx0.ctxid, vfid := c.ctx0.vfid }, ctx1 := { Ctx.reset with ctxid := c.ctx1.ctxid, vfid := c.ctx1.vfid } }

/-- A port that runs keeps alive in Retention under KEEP. -/
def keepsPort (p : Port) : Bool := p.keep && p.st != 0

/-- The flits of the ports that go down are lost. -/
def losePorts (s : State) : State := (List.range 12).foldl (fun s n => if keepsPort (portOf n s) then s else loseFlits n s) s

/-- What a die keeps: its tables, its owners of collective engines and its ports, which keep alive under KEEP. -/
def coldDie (d : Die) : Die :=
  { Die.reset with
    ttab := d.ttab, ewt := d.ewt, siteFail := d.siteFail, routerFail := d.routerFail, ce := d.ce.mapVals fun _ e => { e with run := none },
    ports := d.ports.mapVals fun _ p => if keepsPort p then { p with st := if p.st = 2 then 3 else p.st } else downPort p }

/-- RETENTION_COMPLETE (R438): the compute dies are off; the supply monitor goes on, and what the spec restores from the island stands in State throughout. -/
def execRetentionComplete (us : Nat) (s : State) : Outcome State Fault Refusal :=
  if s.power.st ≠ .entering ∨ s.rinks.cells.any (fun q => q.2.work.running.isSome) then .next s
  else
    let t := losePorts s
    let s1 := { t with sites := s.sites.mapVals fun _ c => coldSite c, dies := s.dies.mapVals fun _ d => coldDie d, atomics := Table.empty,
                       views := Table.empty, moves := [] }
    .next (modPower (fun p => { p with st := if p.resumeAsked then .resuming else .retention, entryUs := us }) s1)

/-! ## Resumption (R440) -/

/-- A request to resume: at once in Retention, or once entry completes. -/
def askResume (s : State) : State :=
  match s.power.st with
  | .retention => modPower (fun p => { p with st := .resuming, resumeAsked := false }) s
  | .entering => modPower (fun p => { p with resumeAsked := true }) s
  | _ => s

/-- RETCTL_RESUME (R440). -/
def execRetctlResume (s : State) : Outcome State Fault Refusal := .next (askResume s)

/-- PGOOD_STABLE (R440): AUTO resumes. -/
def execPgoodStable (s : State) : Outcome State Fault Refusal := .next (if s.power.autoResume then askResume s else s)

/-- RETENTION_RESUME (R440): the dies run at DVFS.IDLE, TBAND is at band 15 and the ports retrain; each rink's scheduler then decides. -/
def execRetentionResume (s : State) : Outcome State Fault Refusal :=
  if s.power.st ≠ .resuming then .next s
  else
    let s1 := modPower (fun p => { p with
      st := .run, resumeAsked := false, idleBeats := Table.fill 72 0, cur := p.idle, target := p.idle, fnow := pointFreq p p.idle, vnow := pointVolt p p.idle,
      ramping := false, slew := 0 }) s
    .next { s1 with dies := s1.dies.mapVals fun _ d =>
      { d with band := 15, falling := false, target := 0, below := 0,
               ports := d.ports.mapVals fun _ p => if p.en then { p with st := 1 } else p } }

/-! ## Warm reset and Off (18 R426, 00 R6) -/

/-- What a function keeps through a warm reset: its queues of accepted jobs and its journal registers. -/
def warmFn (f : Fn) : Fn :=
  { Fn.reset with en := f.en, rostrict := f.rostrict, aint := f.aint, vec := f.vec, jbase := f.jbase, jlog := f.jlog, jhead := f.jhead,
                  jtail := f.jtail, rocnt := f.rocnt, refcnt := f.refcnt, slots := f.slots, goWait := f.goWait, busMaster := f.busMaster }

/-- What the non-volatile store holds of the remaps: those made and the spares left (00 R6, 18 R422). -/
def heldRemaps (p : PcRemap) : PcRemap := { PcRemap.reset with left := p.left, made := p.made }

/-- WARM_RESET (R426). -/
def execWarmReset (s : State) : Outcome State Fault Refusal :=
  .next { State.reset with
    sites := s.sites.mapVals fun _ c => { Site.reset with tm := { Tm.reset with retired := c.tm.retired } },
    fns := s.fns.mapVals fun _ f => warmFn f, keys := s.keys, mem := s.mem, memErrs := s.memErrs, metaErrs := s.metaErrs, grants := s.grants, seals := s.seals, counters := s.counters, host := s.host,
    boot := s.boot, pcremap := heldRemaps s.pcremap, sent := s.sent, agenda := s.agenda, fresh := s.fresh }

/-- The module without power: its non-volatile store holds the retirement bits and the remaps; memory has lost its contents. -/
def offState (s : State) : State :=
  { State.reset with
    sites := s.sites.mapVals fun _ c => { Site.reset with tm := { Tm.reset with retired := c.tm.retired } },
    host := s.host, pcremap := heldRemaps s.pcremap, sent := s.sent, agenda := s.agenda, fresh := s.fresh,
    power := { Power.reset with st := .off } }

/-- POWER_OFF (R6). -/
def execPowerOff (s : State) : Outcome State Fault Refusal := .next (offState s)

end Sys2Proof.Machine
end

