-- ==== Sys2Proof/Machine/Sign.lean ====
section
/-!
DEFINITION. SHA-512 (FIPS 180-4) and Ed25519 (RFC 8032), which boot and attestation use (19 R441 to R443).
-/

namespace Sys2Proof.Machine

/-! ## SHA-512 -/

/-- The round constants: the fractions of the cube roots of the first eighty primes. -/
def shaK : List Nat :=
  [
   0x428A2F98D728AE22, 0x7137449123EF65CD, 0xB5C0FBCFEC4D3B2F, 0xE9B5DBA58189DBBC, 0x3956C25BF348B538,
   0x59F111F1B605D019, 0x923F82A4AF194F9B, 0xAB1C5ED5DA6D8118, 0xD807AA98A3030242, 0x12835B0145706FBE,
   0x243185BE4EE4B28C, 0x550C7DC3D5FFB4E2, 0x72BE5D74F27B896F, 0x80DEB1FE3B1696B1, 0x9BDC06A725C71235,
   0xC19BF174CF692694, 0xE49B69C19EF14AD2, 0xEFBE4786384F25E3, 0x0FC19DC68B8CD5B5, 0x240CA1CC77AC9C65,
   0x2DE92C6F592B0275, 0x4A7484AA6EA6E483, 0x5CB0A9DCBD41FBD4, 0x76F988DA831153B5, 0x983E5152EE66DFAB,
   0xA831C66D2DB43210, 0xB00327C898FB213F, 0xBF597FC7BEEF0EE4, 0xC6E00BF33DA88FC2, 0xD5A79147930AA725,
   0x06CA6351E003826F, 0x142929670A0E6E70, 0x27B70A8546D22FFC, 0x2E1B21385C26C926, 0x4D2C6DFC5AC42AED,
   0x53380D139D95B3DF, 0x650A73548BAF63DE, 0x766A0ABB3C77B2A8, 0x81C2C92E47EDAEE6, 0x92722C851482353B]
  ++ [
   0xA2BFE8A14CF10364, 0xA81A664BBC423001, 0xC24B8B70D0F89791, 0xC76C51A30654BE30, 0xD192E819D6EF5218,
   0xD69906245565A910, 0xF40E35855771202A, 0x106AA07032BBD1B8, 0x19A4C116B8D2D0C8, 0x1E376C085141AB53,
   0x2748774CDF8EEB99, 0x34B0BCB5E19B48A8, 0x391C0CB3C5C95A63, 0x4ED8AA4AE3418ACB, 0x5B9CCA4F7763E373,
   0x682E6FF3D6B2B8A3, 0x748F82EE5DEFB2FC, 0x78A5636F43172F60, 0x84C87814A1F0AB72, 0x8CC702081A6439EC,
   0x90BEFFFA23631E28, 0xA4506CEBDE82BDE9, 0xBEF9A3F7B2C67915, 0xC67178F2E372532B, 0xCA273ECEEA26619C,
   0xD186B8C721C0C207, 0xEADA7DD6CDE0EB1E, 0xF57D4F7FEE6ED178, 0x06F067AA72176FBA, 0x0A637DC5A2C898A6,
   0x113F9804BEF90DAE, 0x1B710B35131C471B, 0x28DB77F523047D84, 0x32CAAB7B40C72493, 0x3C9EBE0A15C9BEBC,
   0x431D67C49C100D4C, 0x4CC5D4BECB3E42B6, 0x597F299CFC657E2A, 0x5FCB6FAB3AD6FAEC, 0x6C44198C4A475817]

/-- The first hash value: the fractions of the square roots of the first eight primes. -/
def shaH : List Nat := [
   0x6A09E667F3BCC908, 0xBB67AE8584CAA73B, 0x3C6EF372FE94F82B, 0xA54FF53A5F1D36F1, 0x510E527FADE682D1,
   0x9B05688C2B3E6C1F, 0x1F83D9ABFB41BD6B, 0x5BE0CD19137E2179]

def add64 (l : List Nat) : Nat := l.sum % 2 ^ 64

/-- Rotate a 64-bit word right by `n`. -/
def rotr (n x : Nat) : Nat := x / 2 ^ n + x % 2 ^ n * 2 ^ (64 - n)

def xor3 (a b c : Nat) : Nat := xorN (xorN a b) c

/-- `x and y` and `not x and z`, bit by bit. -/
def shaCh (x y z : Nat) : Nat := xorN (Nat.land x y) (Nat.land (2 ^ 64 - 1 - x) z)

def shaMaj (x y z : Nat) : Nat := xor3 (Nat.land x y) (Nat.land x z) (Nat.land y z)

/-- The message schedule, newest word first. -/
def shaSchedule : Nat → List Nat → List Nat
  | 0, w => w
  | n + 1, w =>
    let a := nth 0 w 14
    let b := nth 0 w 1
    let s0 := xor3 (rotr 1 a) (rotr 8 a) (a / 2 ^ 7)
    let s1 := xor3 (rotr 19 b) (rotr 61 b) (b / 2 ^ 6)
    shaSchedule n (add64 [s1, nth 0 w 6, s0, nth 0 w 15] :: w)

def shaRound (h : List Nat) (kw : Nat × Nat) : List Nat :=
  match h with
  | [a, b, c, d, e, f, g, i] =>
    let t1 := add64 [i, xor3 (rotr 14 e) (rotr 18 e) (rotr 41 e), shaCh e f g, kw.1, kw.2]
    let t2 := add64 [xor3 (rotr 28 a) (rotr 34 a) (rotr 39 a), shaMaj a b c]
    [add64 [t1, t2], a, b, c, add64 [d, t1], e, f, g]
  | _ => h

/-- A value read big-endian. -/
def beNat (b : List Byte) : Nat := leNat b.reverse

def beBytes (n v : Nat) : List Byte := (leBytes n v).reverse

/-- One 128-byte block. -/
def shaBlock (h : List Nat) (b : List Byte) : List Nat :=
  let w0 := (List.range 16).map fun i => beNat ((b.drop (8 * i)).take 8)
  let w := (shaSchedule 64 w0.reverse).reverse
  (h.zip ((shaK.zip w).foldl shaRound h)).map fun p => add64 [p.1, p.2]

def shaBlocks : Nat → List Nat → List Byte → List Nat
  | 0, h, _ => h
  | n + 1, h, b => shaBlocks n (shaBlock h (b.take 128)) (b.drop 128)

/-- SHA-512 of a byte string. -/
def sha512 (m : List Byte) : List Byte :=
  let pad := (239 - m.length % 128) % 128
  let b := m ++ 0x80 :: List.replicate pad 0 ++ beBytes 16 (8 * m.length)
  (shaBlocks (b.length / 128) shaH b).flatMap (beBytes 8)

/-! ## Ed25519 -/

def edP : Nat := 2 ^ 255 - 19
def edL : Nat := 2 ^ 252 + 27742317777372353535851937790883648493
def edD : Nat := 37095705934669439343138083508754565189542113879843219016388785533085940283555

/-- `b ^ e` modulo `m`, over `n` bits of `e` from the highest. -/
def edPow (b m e : Nat) : Nat → Nat → Nat
  | 0, acc => acc
  | n + 1, acc => edPow b m e n (if bitOf e n then acc * acc % m * b % m else acc * acc % m)

def powMod (b e m : Nat) : Nat := edPow b m e 256 1

def edInv (x : Nat) : Nat := powMod x (edP - 2) edP

/-- A point in extended coordinates. -/
structure EdPoint where
  x : Nat
  y : Nat
  z : Nat
  t : Nat
  deriving DecidableEq, Repr

def edZero : EdPoint := ⟨0, 1, 1, 0⟩

def edSub (a b : Nat) : Nat := (a + edP - b) % edP

/-- The sum of two points (RFC 8032, 5.1.4). -/
def edAdd (p q : EdPoint) : EdPoint :=
  let a := edSub p.y p.x * edSub q.y q.x % edP
  let b := (p.y + p.x) * (q.y + q.x) % edP
  let c := 2 * p.t * q.t % edP * edD % edP
  let d := 2 * p.z * q.z % edP
  let e := edSub b a
  let f := edSub d c
  let g := (d + c) % edP
  let h := (b + a) % edP
  ⟨e * f % edP, g * h % edP, f * g % edP, e * h % edP⟩

/-- `n` times a point, over `k` bits from the highest. -/
def edMulBits (n : Nat) (p : EdPoint) : Nat → EdPoint → EdPoint
  | 0, acc => acc
  | k + 1, acc =>
    let d := edAdd acc acc
    edMulBits n p k (if bitOf n k then edAdd d p else d)

def edMul (n : Nat) (p : EdPoint) : EdPoint := edMulBits n p 256 edZero

/-- The root of x² for a given y and sign, if there is one (RFC 8032, 5.1.3). -/
def edRecover (y sign : Nat) : Option Nat :=
  if edP ≤ y then none
  else
    let u := edSub (y * y % edP) 1
    let v := (edD * (y * y % edP) + 1) % edP
    let x2 := u * edInv v % edP
    let r := powMod x2 ((edP + 3) / 8) edP
    let r' := if r * r % edP = x2 then r else r * powMod 2 ((edP - 1) / 4) edP % edP
    if r' * r' % edP ≠ x2 then none
    else if r' = 0 ∧ sign = 1 then none
    else some (if r' % 2 = sign then r' else edP - r')

def edDecode (b : List Byte) : Option EdPoint :=
  let v := leNat b
  (edRecover (v % 2 ^ 255) (v / 2 ^ 255)).map fun x => ⟨x, v % 2 ^ 255, 1, x * (v % 2 ^ 255) % edP⟩

def edEncode (p : EdPoint) : List Byte :=
  let i := edInv p.z
  leBytes 32 (p.y * i % edP + p.x * i % edP % 2 * 2 ^ 255)

/-- The base point: y is 4/5 and x is even. -/
def edBase : EdPoint :=
  let y := 4 * edInv 5 % edP
  let x := (edRecover y 0).getD 0
  ⟨x, y, 1, x * y % edP⟩

/-- The same point. -/
def edSame (p q : EdPoint) : Bool := p.x * q.z % edP == q.x * p.z % edP && p.y * q.z % edP == q.y * p.z % edP

/-- The secret scalar and the second half of the hash of a 32-byte seed. -/
def edSecret (seed : List Byte) : Nat × List Byte :=
  let h := sha512 seed
  let a := leNat (h.take 32)
  (a % 2 ^ 254 / 8 * 8 + 2 ^ 254, h.drop 32)

def edPublic (seed : List Byte) : List Byte := edEncode (edMul (edSecret seed).1 edBase)

def edSign (seed msg : List Byte) : List Byte :=
  let (a, tail') := edSecret seed
  let pub := edPublic seed
  let r := leNat (sha512 (tail' ++ msg)) % edL
  let rb := edEncode (edMul r edBase)
  let k := leNat (sha512 (rb ++ pub ++ msg)) % edL
  rb ++ leBytes 32 ((r + k * a) % edL)

def edVerify (pub sig msg : List Byte) : Bool :=
  let rb := sig.take 32
  let sc := leNat ((sig.drop 32).take 32)
  match edDecode pub, edDecode rb with
  | some a, some r =>
    let k := leNat (sha512 (rb ++ pub ++ msg)) % edL
    decide (sc < edL) && edSame (edMul 8 (edMul sc edBase)) (edMul 8 (edAdd r (edMul k a)))
  | _, _ => false

end Sys2Proof.Machine
end

