-- ==== Sys2Proof/Machine/Boot.lean ====
section
/-!
DEFINITION. Secure boot, measurement and attestation (19 R441 to R443).
-/

namespace Sys2Proof.Machine

open Host (Outcome)

/-! ## Verification of a stage (R441) -/

/-- The code BOOTSTAT takes for a stage image that is refused, 0 for one that is accepted. -/
def stageStatus (stage : Nat) (b : List Byte) : Nat :=
  let len := le32 b 8
  let body := b.drop 128
  let key := (b.drop 32).take 32
  let sig := (b.drop 64).take 64
  if b.length < 128 || le32 b 0 != 0x5A484339 || len == 0 || decide (2 ^ 26 < len) || body.length != len || le32 b 12 != stage
      || !zeros b 16 16 then 1
  else if (sha512 key).take 32 ≠ Config.rootHash then 2
  else if !edVerify key sig (sha512 (b.take 64 ++ body)) then 3
  else if le32 b 4 < Config.svnFloor then 4
  else 0

/-! ## Measurements and keys (R442) -/

def devSeed : List Byte := (sha512 Config.uniqueSecret).take 32

def aliasSeed (b : Boot) : List Byte := (sha512 (Config.uniqueSecret ++ b.meas0 ++ b.meas1)).take 32

/-- The endorsement of ALIAS by DEV. -/
def endorsementOf (b : Boot) : List Byte :=
  let body := edPublic (aliasSeed b) ++ b.meas0 ++ b.meas1
  body ++ edSign devSeed body ++ edPublic devSeed

/-! ## Boot (R441) -/

/-- `n` values that the qualification data gives: the spec does not state its layout. -/
def freeWords : Nat → State → List Word × State
  | 0, s => ([], s)
  | n + 1, s =>
    let (w, s1) := freshWord s
    let (ws, s2) := freeWords n s1
    (w :: ws, s2)

/-- A table of sixteen 16-bit values. -/
def table16 (f : Nat → Nat) (ws : List Word) : Table (BitVec 16) := Table.ofList (ws.map fun w => .ofNat 16 (f (w.toNat % 65536)))

/-- A value for each of eight points, in order and from `lo` to `hi`. -/
def orderedPoints (lo hi : Nat) (ws : List Word) : Table Nat := Table.ofList ((ws.map fun w => lo + w.toNat % (hi - lo + 1)).mergeSort (· ≤ ·))

/-- The trims of a logical core's entry, before the PF gives it a site (15 R367). -/
def trimOf (w : Word) : Place := { Place.reset with skew := w.toNat % 256, ltrim := w.toNat / 256 % 256 }

/-- Stage 1 loads TTAB, EWT, a table of operating points that keeps R428's limits and order, and the trims, from the qualification data. -/
def loadTables (s : State) : State :=
  let (t0, s1) := freeWords 16 s
  let (e0, s2) := freeWords 16 s1
  let (t1, s3) := freeWords 16 s2
  let (e1, s4) := freeWords 16 s3
  let (f, s5) := freeWords 8 s4
  let (v, s6) := freeWords 8 s5
  let (p, s7) := freeWords 272 s6
  let s8 := modDie 1 (fun d => { d with ttab := table16 (max 1) t1, ewt := table16 id e1 })
    (modDie 0 (fun d => { d with ttab := table16 (max 1) t0, ewt := table16 id e0 }) s7)
  modPower (fun q => { q with freq := orderedPoints 2000 4000 f, volt := orderedPoints 550 850 v })
    { s8 with rinks := s8.rinks.mapVals fun _ q => { q with place := Table.ofList (p.map trimOf) } }

/-- BOOT (R441, R442): from the cold state, or the module stays Off with the code of the stage that is refused. -/
def execBoot (stage0 stage1 qual : List Byte) (s : State) : Outcome State Fault Refusal :=
  let cold := offState s
  let st := if stageStatus 0 stage0 ≠ 0 then stageStatus 0 stage0 else stageStatus 1 stage1
  if st ≠ 0 then .next { cold with boot := { cold.boot with stat := st } }
  else
    let b : Boot := { stat := 0, meas0 := sha512 stage0, meas1 := sha512 stage1, meas2 := sha512 qual, meas3 := List.replicate 64 0,
                      endorsement := [] }
    .next (loadTables { cold with power := Power.reset, boot := { b with endorsement := endorsementOf b } })

/-- MEASUREMENT_EXTEND (R442): a 64-byte value. -/
def execMeasurementExtend (v : List Byte) (s : State) : Outcome State Fault Refusal :=
  .next (if v.length = 64 then { s with boot := { s.boot with meas3 := sha512 (s.boot.meas3 ++ v) } } else s)

/-! ## Attestation (R443) -/

/-- ATTCMD (R443): a command in progress goes on. -/
def execAttcmd (fn : Nat) (s : State) : Outcome State Fault Refusal := .next (modFn fn (fun f => { f with attcmd := true }) s)

/-- The VALID bits of the key slots, slot 0 lowest. -/
def validBits (s : State) : Nat := ((List.range 128).map fun i => if (keyOf i s).valid then 2 ^ i else 0).sum

/-- The report of a function. -/
def reportOf (fn : Nat) (s : State) : List Byte :=
  let id := if s.devid.v then s.devid.id.toNat else 0xFFFF
  let b := s.boot
  let body := leBytes 4 1 ++ leBytes 2 id ++ leBytes 2 fn ++ (fnOf fn s).nonce ++ b.meas0 ++ b.meas1 ++ b.meas2 ++ b.meas3
    ++ leBytes 16 (validBits s)
  body ++ edSign (aliasSeed b) body

/-- ATTESTATION_COMPLETE (R443). -/
def execAttestationComplete (fn : Nat) (s : State) : Outcome State Fault Refusal :=
  .next (if (fnOf fn s).attcmd then modFn fn (fun f => { f with report := reportOf fn s, attcmd := false }) s else s)

end Sys2Proof.Machine
end

