-- ==== Sys2Proof/Machine/Rinks.lean ====
section
/-!
DEFINITION. Rinks, ownership, placement, patterns, fabric identity and claims, as the hypervisor writes them (10 R445, 15 R362 to R379, 16
R387 to R389).
-/

namespace Sys2Proof.Machine

open Host (Outcome)

def setBad (r : Nat) (s : State) : State := modRink r (fun q => { q with bad := true }) s

/-- A rink that may be reconfigured: suspended or not valid (R363, R367). -/
def mayConfigure (s : State) (r : Nat) : Bool := !(rink r s).valid || (rink r s).suspd

/-! ## Creation and destruction (R362, R364) -/

/-- The fields of RCTL that a write with VALID clear, or one that creates the rink, sets. -/
def rctlFields (v : Nat) (q : Rink) : Rink :=
  { q with vf := .ofNat 7 (field v 46 40), lead := .ofNat 9 (field v 24 16), leadCtx := bitOf v 2, lane := bitOf v 3 }

/-- The rinks other than `r` that own an engine on a core. -/
def coOwners (c : Site) (r : Nat) : List Nat :=
  ((List.range 7).filterMap fun h => (ownField c.own h).map (·.toNat)).filter (· != r)

/-- The conditions of creation (R364). -/
def createOk (r v : Nat) (s : State) : Bool :=
  let q := rctlFields v (rink r s)
  let e := q.place.get Place.reset q.lead.toNat
  !(s.rinks.cells.any fun p => p.1 != r && p.2.valid && p.2.vf == q.vf)
    && !(q.rfab.isSome && s.rinks.cells.any fun p => p.1 != r && p.2.valid && p.2.rfab == q.rfab)
    && decide (q.lead.toNat < 272) && e.v && owns (site e.site s) r (ctxHead q.leadCtx)
    && (sitesOf r s).all fun k => (coOwners (site k s) r).all fun p => (rink p s).lane != q.lane

/-- The flags, tile registers and wait counters of a rink on a core are cleared (02 R57). -/
def clearFlags (r : Nat) (c : Site) : Site :=
  let mine := (List.range 64).filter (ownsFlag c r)
  let clear (b : Flags) (f : Nat) : Flags :=
    if f < 16 then { b with full := setBit b.full f false, fullBefore := setBit b.fullBefore f false }
    else if f < 32 then { b with tokens := b.tokens.put (f - 16) 0, tokensBefore := b.tokensBefore.put (f - 16) 0 }
    else { b with events := setBit b.events (f - 32) false, eventsBefore := setBit b.eventsBefore (f - 32) false }
  let b := mine.foldl clear c.flags
  let tiles := mine.foldl (fun t f => if f < 16 then t.put f Table.empty else t) c.tiles
  modObs (fun o => { o with wcnt := mine.foldl (fun t f => t.put f 0) o.wcnt })
    { c with flags := { b with sets := b.sets.filter fun f => !mine.contains f }, tiles := tiles }

/-- A half at rink creation: accumulators +0.0, loop-nest registers zero, slots Free (R364). -/
def createHalf (h : Half) : Half :=
  { h with accA := Table.empty, accB := Table.empty, narrow := Table.empty, regsA := Table.empty, regsB := Table.empty,
           slots := Table.fill 8 Slot.empty, slotErrs := Table.empty, sumErrs := Table.empty }

/-- CTXID and VFID of a rink's contexts (02 R66). -/
def nameCtx (r vf : Nat) (x : Side) (v : Ctx) : Ctx := { v with ctxid := .ofNat 64 (r * 256 + b2n x), vfid := .ofNat 64 vf }

/-- One core at the creation of a rink (R364). -/
def createSite (r vf : Nat) (c : Site) : Site :=
  let half (h : Side) (c : Site) : Site := if owns c r (halfHead h) then modHalf h createHalf c else c
  let ctx (x : Side) (c : Site) : Site := if owns c r (ctxHead x) then modCtx x (nameCtx r vf x) c else c
  let x := b2n (setOf c r)
  let free (o : Obs) (n : Nat) : Bool :=
    let k := o.claims.get Claim.free n
    !k.held || (!k.hv && k.rink == r)
  modObs (fun o => { o with
      qcnt := (List.range 28).foldl (fun t i => t.put (28 * x + i) 0) o.qcnt,
      tmCnt := (List.range 5).foldl (fun t i => t.put (5 * x + i) 0) o.tmCnt,
      banks := o.banks.mapVals fun n b => if free o n then { b with cnt := Table.fill 8 0 } else b,
      trDrop := if free o 2 then 0 else o.trDrop })
    (ctx true (ctx false (half true (half false (clearFlags r c)))))

def createRink (r v : Nat) (s : State) : State :=
  if (rink r s).valid then s
  else if !createOk r v s then setBad r s
  else
    let s1 := modRink r (fun q => { rctlFields v q with
      valid := true, rtot := Table.fill 32 0, work := { Work.reset with slice := q.work.slice },
      colls := q.colls.mapVals fun _ c => closeColl false c }) s
    (sitesOf r s1).foldl (fun s k => modSite k (createSite r (field v 46 40)) s) s1

/-- RINK_CREATE (R364). -/
def execRinkCreate (r : Nat) (val : Word) (s : State) : Outcome State Fault Refusal := .next (createRink r val.toNat s)

/-- Every accepted job of a slot completes with a status, in SEQ order. -/
def dropJobs (fn slot status : Nat) (s : State) : State :=
  let sl := (fnOf fn s).slots.get JobSlot.reset slot
  modFn fn (fun f => { f with slots := f.slots.put slot { f.slots.get JobSlot.reset slot with queue := [], cancel := false } })
    (sl.queue.foldl (fun s j => recordJob fn slot status j s) s)

/-- A core field loses its V where it names the rink. -/
def disown (r : Nat) (o : Owner) : Owner := if o.rink.toNat = r then { o with v := false } else o

def disownSite (r : Nat) (c : Site) : Site :=
  let o := c.own
  { c with own := { o with ctx0 := disown r o.ctx0, ctx1 := disown r o.ctx1, ve := disown r o.ve, h0 := disown r o.h0, h1 := disown r o.h1,
                           l0 := disown r o.l0, l1 := disown r o.l1 } }

/-- The end of a rink (R364, 16 R390): its detached operations end with no status, its jobs are cancelled, its regions are freed and its engines are
unowned. -/
def destroyRink (r : Nat) (s : State) : State :=
  if !(rink r s).valid then s
  else if !(rink r s).suspd then setBad r s
  else
    let s2 := modRink r (fun q => { q with colls := q.colls.mapVals fun _ c => { closeColl true c with others := [] } }) s
    let s3 := (List.range 8).foldl (fun s n => dropJobs (rinkFn r s) n 2 s) s2
    let s4 := (sitesOf r s3).foldl (fun s k => modSite k (disownSite r) s) (dropRegions r s3)
    let s5 := { s4 with dies := s4.dies.mapVals fun _ d => { d with ce := d.ce.mapVals fun _ e => { e with owner := disown r e.owner } } }
    modRink r (fun q => { q with valid := false, susp := false, suspd := false }) s5

/-- RINK_DESTROY (R364). -/
def execRinkDestroy (r : Nat) (s : State) : Outcome State Fault Refusal := .next (destroyRink r s)

/-! ## Suspension (R365) -/

/-- Suspension takes effect at once without a running job, otherwise at the job's next gate. -/
def suspendRink (r : Nat) (s : State) : State :=
  modRink r (fun q => { q with susp := true, suspd := q.suspd || q.work.running.isNone }) s

/-- RINK_SUSPEND (R365). -/
def execRinkSuspend (r : Nat) (s : State) : Outcome State Fault Refusal := .next (suspendRink r s)

/-- The rink's claims on sites it no longer uses are released, and REVOKED says so (R373). -/
def releaseLost (r : Nat) (s : State) : State :=
  s.sites.cells.foldl (fun s e =>
    let lost := (List.range 3).filter fun n =>
      let k := e.2.obs.claims.get Claim.free n
      k.held && !k.hv && k.rink == r && (logicalOfSite r e.1 s).isNone
    if lost.isEmpty then s
    else modRink r (fun q => { q with revoked := true })
      (modSite e.1 (modObs fun o => { o with claims := lost.foldl (fun t n => t.put n Claim.free) o.claims }) s)) s

/-- A job rewound by a core check goes on from its checkpoint, which its Sequencer's context, on another site since, may not hold yet (18
R417, R424). -/
def reloadSeq (r : Nat) (s : State) : State :=
  match (rink r s).recov.checkpoint, seqSite r s with
  | some p, some (k, x) =>
    if (rink r s).work.running.isSome && (rink r s).work.ending.isNone && !(ctxOf (site k s) x).ctl.running then
      modSite k (fun c => modCtx x (loadCheckpoint c.now p) c) s
    else s
  | _, _ => s

/-- The scheduler's decision follows (R322). -/
def unsuspendRink (r : Nat) (s : State) : State :=
  scheduleNext r (reloadSeq r (modRink r (fun q => { q with susp := false, suspd := false }) (releaseLost r s)))

/-- RINK_UNSUSPEND (R365). -/
def execRinkUnsuspend (r : Nat) (s : State) : Outcome State Fault Refusal := .next (unsuspendRink r s)

/-- A write of RCTL (R362). One that would create or end the rink and may not is ignored whole (R364). -/
def writeRctl (r v : Nat) (s : State) : State :=
  let q := rink r s
  if (!q.valid && bitOf v 0 && !createOk r v s) || (q.valid && !bitOf v 0 && !q.suspd) then setBad r s
  else
    let s1 := if bitOf v 6 then modRink r (fun q => { q with bad := false }) s else s
    let s2 := if !q.valid && bitOf v 0 then createRink r v s1
      else if q.valid && !bitOf v 0 then destroyRink r s1
      else if !q.valid then modRink r (rctlFields v) s1
      else s1
    let p := rink r s2
    if bitOf v 4 then suspendRink r s2 else if !bitOf v 4 && (p.susp || p.suspd) then unsuspendRink r s2 else s2

/-! ## Ownership (R363) -/

def ownByte (v i : Nat) : Owner := ⟨bitOf v (8 * i + 7), .ofNat 6 (field v (8 * i + 5) (8 * i))⟩

def ownOf (v : Nat) (bad : Bool) : Own :=
  { ctx0 := ownByte v 0, ctx1 := ownByte v 1, ve := ownByte v 2, h0 := ownByte v 3, h1 := ownByte v 4, l0 := ownByte v 5, l1 := ownByte v 6,
    bad := bad }

/-- The conditions of a write of OWN (R363). -/
def ownOk (old new : Own) (s : State) : Bool :=
  let ok (b : Option (BitVec 6)) : Bool := match b with
    | some q => mayConfigure s q.toNat
    | none => true
  (List.range 7).all (fun h => match ownField new h with
    | none => true
    | some q => new.ctx0.rink? == some q || new.ctx1.rink? == some q)
  && (List.range 7).all (fun h => ownField old h == ownField new h || (ok (ownField old h) && ok (ownField new h)))
  && (match new.ctx0.rink?, new.ctx1.rink? with
    | some a, some b => a == b || (rink a.toNat s).lane != (rink b.toNat s).lane
    | _, _ => true)

/-- A context takes the identity of its owner. -/
def nameOwner (x : Side) (s : State) (c : Site) : Site :=
  match ownField c.own (ctxHead x) with
  | some q => modCtx x (nameCtx q.toNat (rinkFn q.toNat s) x) c
  | none => c

def writeOwn (k v : Nat) (s : State) : State :=
  let old := (site k s).own
  let new := ownOf v (old.bad && !bitOf v 63)
  if ownOk old new s then modSite k (fun c => nameOwner true s (nameOwner false s { c with own := new })) s
  else modSite k (fun c => { c with own := { old with bad := true } }) s

/-- OWN_WRITE (R363). -/
def execOwnWrite (k : Nat) (val : Word) (s : State) : Outcome State Fault Refusal := .next (writeOwn k val.toNat s)

/-! ## Place and link tables (R367, 18 R423) -/

def placeOf (v : Nat) : Place :=
  { v := bitOf v 63, skew := field v 55 48, ltrim := field v 47 40, row := field v 31 24, col := field v 23 16, site := field v 8 0 }

/-- A failed site is never named by an entry the device accepts (18 R423). -/
def placeOk (s : State) (e : Place) : Bool := !e.v || !siteFailed e.site s

/-- A link or route entry. -/
def portEntry (v : Nat) : PortEntry := ⟨bitOf v 7, .ofNat 4 v⟩

def writePlace (r off v : Nat) (s : State) : State :=
  if !mayConfigure s r then setBad r s
  else if 0x400 ≤ off ∧ off < 0x400 + 8 * 272 ∧ off % 8 = 0 then
    if placeOk s (placeOf v) then modRink r (fun q => { q with place := q.place.put ((off - 0x400) / 8) (placeOf v) }) s else setBad r s
  else if 0xD00 ≤ off ∧ off < 0xD60 ∧ off % 8 = 0 then
    modRink r (fun q => { q with link := q.link.put ((off - 0xD00) / 8) (portEntry v) }) s
  else s

/-- PLACE_ENTRY_WRITE (R367). -/
def execPlaceEntryWrite (r off : Nat) (val : Word) (s : State) : Outcome State Fault Refusal := .next (writePlace r off val.toNat s)

/-! ## TMSHARE (10 R445) -/

/-- The conditions of a new split. -/
def splitOk (c : Site) (n : Nat) (s : State) : Bool :=
  let rs := (List.range 7).filterMap fun h => (ownField c.own h).map (·.toNat)
  rs.all (mayConfigure s) && (match c.own.ctx0.rink?, c.own.ctx1.rink? with
    | some a, some b => a == b || c.tm.regions.all fun g =>
        (g.rink != a.toNat || decide (g.base + g.size ≤ 4096 * n)) && (g.rink != b.toNat || decide (4096 * n ≤ g.base))
    | _, _ => true)

def writeSplit (k v : Nat) (s : State) : State :=
  let n := min (v % 4096) 3072
  if splitOk (site k s) n s then modSite k (modTm fun t => { t with split := .ofNat 12 n }) s
  else modSite k (fun c => { c with own := { c.own with bad := true } }) s

/-- TMSHARE_WRITE (10 R445). -/
def execTmshareWrite (k : Nat) (val : Word) (s : State) : Outcome State Fault Refusal := .next (writeSplit k val.toNat s)

/-! ## Patterns (R369, 09 R239) -/

def writeCpat (d c v : Nat) (s : State) : State :=
  modDie d (fun w => { w with cpatAt := w.cpatAt.put c (s.cycle + 1) }) (setPattern d c (.ofNat 16 v) (bitOf v 16) s)

/-- CPAT_WRITE (R369). -/
def execCpatWrite (d c : Nat) (val : Word) (s : State) : Outcome State Fault Refusal := .next (writeCpat d c val.toNat s)

/-- A held pattern may take effect. -/
def mayApply (d c : Nat) (s : State) : Bool := ((die d s).cpatHeld.get none c).isSome && !clusterBusy d c s

/-- CPAT_APPLY (09 R239). -/
def execCpatApply (d c : Nat) (s : State) : Outcome State Fault Refusal :=
  .next (match (die d s).cpatHeld.get none c with
    | some p => if mayApply d c s then setPattern d c p.1 p.2 s else s
    | none => s)

/-! ## Fabric identity and landing window (16 R387, R389) -/

def writeRfab (r v : Nat) (s : State) : State :=
  let fid := BitVec.ofNat 16 v
  let clash := bitOf v 16 && (rink r s).valid && s.rinks.cells.any fun q => q.1 != r && q.2.valid && q.2.rfab == some fid
  if clash then setBad r s else modRink r (fun q => { q with rfab := if bitOf v 16 then some fid else none, rfabFid := fid }) s

/-- RFAB_WRITE (16 R387). -/
def execRfabWrite (r : Nat) (val : Word) (s : State) : Outcome State Fault Refusal := .next (writeRfab r val.toNat s)

/-- RLAND as held: V, the window and LSLOT between 12 and 30. -/
def rlandWord (v : Nat) : Word := .ofNat 64 (b2n (bitOf v 63) * 2 ^ 63 + field v 21 16 * 2 ^ 16 + max 12 (min 30 (field v 4 0)))

def writeRland (r v : Nat) (s : State) : State :=
  let w := windowOf (field v 21 16) s
  if w.valid ∧ w.owner.toNat = r then modRink r (fun q => { q with rland := rlandWord v }) s else setBad r s

/-- RLAND_WRITE (16 R389). -/
def execRlandWrite (r : Nat) (val : Word) (s : State) : Outcome State Fault Refusal := .next (writeRland r val.toNat s)

/-! ## Claims (R373) -/

def claimAt (k n : Nat) (s : State) : Claim := (site k s).obs.claims.get Claim.free n

def setClaim (k n : Nat) (v : Claim) (s : State) : State := modSite k (modObs fun o => { o with claims := o.claims.put n v }) s

/-- The requester holds the claim. -/
def holdsClaim (who : Requester) (c : Claim) : Bool :=
  match who with
  | .pf => c.held && c.hv
  | .rink r => c.held && !c.hv && c.rink == r

/-- A request goes to the core's arbiter, which decides as the cycle ends; a claim by a rink that owns no engine of the core is ignored. -/
def askPerf (who : Requester) (num k n op : Nat) (s : State) : State :=
  let ask (q : ClaimReq) : State := modSite k (modObs fun o => { o with asked := o.asked ++ [q] }) s
  if 3 ≤ n then s
  else
    match who with
    | .pf => ask ⟨n, op, true, 0, 0⟩
    | .rink r => if op = 1 && !(List.range 7).any (owns (site k s) r) then s else ask ⟨n, op, false, r, num⟩

/-- The requester number of a rink's lowest context on a core (11 R294). -/
def rinkRequester (who : Requester) (k : Nat) (s : State) : Nat :=
  match who with
  | .pf => 0
  | .rink r => 2 * k + b2n (setOf (site k s) r)

/-- PERF_CLAIM (R373). -/
def execPerfClaim (who : Requester) (k n : Nat) (s : State) : Outcome State Fault Refusal :=
  .next (askPerf who (rinkRequester who k s) k n 1 s)

/-- PERF_RELEASE (R373). -/
def execPerfRelease (who : Requester) (k n : Nat) (s : State) : Outcome State Fault Refusal :=
  .next (askPerf who (rinkRequester who k s) k n 2 s)

/-- PERF_REVOKE (R373): only the PF makes one. -/
def execPerfRevoke (k n : Nat) (s : State) : Outcome State Fault Refusal := .next (askPerf .pf 0 k n 3 s)

/-- The decision on one claim: a revoke; else a release by the holder; else, of the claims on one that is not held, the PF's or the lowest-numbered
requester's. -/
def decideClaim (c : Claim) (qs : List ClaimReq) : Claim :=
  if qs.any (·.op == 3) then ⟨true, true, true, 0⟩
  else if c.held then
    (if qs.any fun q => q.op == 2 && q.hv == c.hv && (q.hv || q.rink == c.rink) then Claim.free else c)
  else
    let cs := qs.filter (·.op == 1)
    if cs.any (·.hv) then ⟨true, true, false, 0⟩
    else match cs.foldl (fun (b : Option ClaimReq) q => match b with
        | some p => if q.num < p.num then some q else some p
        | none => some q) none with
      | some q => ⟨true, false, false, q.rink⟩
      | none => c

/-- The decision of a core's arbiter on claim `n` in this cycle (R373): the former holder's REVOKED says that it was revoked. -/
def arbitrate (k n : Nat) (s : State) : State :=
  let c := claimAt k n s
  let qs := (site k s).obs.asked.filter (·.claim == n)
  if qs.isEmpty then s
  else
    let s1 := setClaim k n (decideClaim c qs) s
    if qs.any (·.op == 3) && c.held && !c.hv then modRink c.rink (fun q => { q with revoked := true }) s1 else s1

/-- The arbiter cycles that end with this cycle of the master clock. -/
def arbitrateAll (s : State) : State :=
  ((s.sites.cells.filter fun p => !p.2.obs.asked.isEmpty).map (·.1)).foldl (fun s k =>
    modSite k (modObs fun o => { o with asked := [] }) ((List.range 3).foldl (fun s n => arbitrate k n s) s)) s

/-! ## Snapshot triggers (R379) -/

/-- SNAPTRIG_RINK (R379): the PF or the rink itself. -/
def execSnaptrigRink (who : Requester) (r : Nat) (s : State) : Outcome State Fault Refusal :=
  .next (if who = .pf ∨ who = .rink r then triggerRink noSite r s else s)

/-- SNAPTRIG_DIE (R379): every block of the device. -/
def execSnaptrigDie (_d : Nat) (s : State) : Outcome State Fault Refusal :=
  .next ((List.range 288).foldl (fun s k => triggerSite noSite k s) (triggerDies noSite s))

end Sys2Proof.Machine
end

