-- ==== Sys2Proof/Machine/Recovery.lean ====
section
/-!
DEFINITION. Freeze and resume pulses, the recovery registers of a rink, core checks and pseudo-channel remaps (09 R251 to R253, 18 R413 to
R424).
-/

namespace Sys2Proof.Machine

open Host (Outcome)

/-! ## Freeze pulses (09 R251, R252) -/

/-- The launch's unit on a logical core. -/
def unitOn (l : Launch) (lcore : Nat) : Option UnitRun := l.units.find? (·.entry.core == lcore)

/-- A freeze pulse has reached the unit (R252). -/
def freezeDue (l : Launch) (u : UnitRun) : Bool :=
  u.begun && u.frozenAt.isNone && (match u.freezeAt with
    | some t => decide (t ≤ l.time)
    | none => false)

/-- The unit freezes in this beat (R251, step 3); of one that has completed only the router, for the launch's packets (step 4). -/
def freezeUnit (r : Nat) (l : Launch) (u : UnitRun) (s : State) : State :=
  let s1 := modLaunch r l.lctr (modUnit u.site fun v => { v with frozenAt := some l.time })
    (countShared (dieOfSite u.site) 5 2 (rinkFn r s) (heldPackets l u.site) s)
  if u.finished then s1 else modSite u.site (freezeSite r onlyFroze) s1

/-- The launch of a rink that has a unit of a kind on a logical core. -/
def launchWith (r lcore : Nat) (p : Launch → UnitRun → Bool) (s : State) : Option (Launch × UnitRun) :=
  (rink r s).work.launches.findSome? fun l => match unitOn l lcore with
    | some u => if p l u then some (l, u) else none
    | none => none

/-- FREEZE_PULSE_ARRIVAL (R251, R252). -/
def execFreezePulseArrival (r lcore : Nat) (s : State) : Outcome State Fault Refusal :=
  .next (match launchWith r lcore freezeDue s with
    | some (l, u) => freezeUnit r l u s
    | none => s)

/-! ## Resume (09 R253, 18 R414, R415) -/

/-- The trap times of the freeze that waits for RESUME. -/
def trapTimes (l : Launch) : List Nat :=
  l.units.filterMap fun u => u.trapped.bind fun t => if (stopsOf u).contains (t, none) then some t else none

/-- Every unit's resumption, for a RESUME performed at launch time W: W − t₀ + f(u), also where f(u) is still to come (R253). -/
def planResume (w : Nat) (l : Launch) : Launch :=
  let t0 := (trapTimes l).foldl min w
  { l with frozenSince := none, froze := none, notified := false,
           units := l.units.map fun u =>
             { setStops ((stopsOf u).map fun e => (e.1, some (e.2.getD (w - t0 + e.1)))) u with trapped := none, devs := [], fatal := false } }

/-- RESUME restarts the frozen launch, from the beat after this one (R253, R415). -/
def resumeLaunch (r : Nat) (l : Launch) (s : State) : State :=
  showFreeze r (modLaunch r l.lctr (planResume (l.time + 1)) s)

/-- A write of RESUME: a rewind where a unit froze fatally, nothing where no launch is frozen (R414). -/
def askRfrz (again : Bool) (r : Nat) (s : State) : State :=
  if again then rewind r s
  else
    match frozenLaunch r s with
    | none => s
    | some l => if l.units.any (·.fatal) then rewind r s else resumeLaunch r l s

/-- RFRZ_RESUME (R414). -/
def execRfrzResume (r : Nat) (s : State) : Outcome State Fault Refusal := .next (askRfrz false r s)

/-- RFRZ_REWIND (R414, R417). -/
def execRfrzRewind (r : Nat) (s : State) : Outcome State Fault Refusal := .next (askRfrz true r s)

/-- A deviating condition holds now (R415). A slot, bank or fetch queue of the frozen core stands as it was, so a slip on one never resumes
by itself. -/
def devHolds (c : Site) (d : Nat × Nat) : Bool :=
  match d.1 with
  | 0 => flagSample c d.2
  | 1 => if d.2 < 16 then tileEmpty c d.2 else if d.2 < 32 then decide (c.flags.tokens.get 0 (d.2 - 16) < 8) else true
  | 2 =>
    match d.2 with
    | 0 => decide (c.q.lq.length < 32)
    | 1 => decide (c.q.sq.length < 32)
    | 2 => decide (c.q.ce.length < 32)
    | 4 => !c.q.collFifo.isEmpty
    | 5 => !c.q.liftFifo.isEmpty
    | _ => false
  | _ => false

/-- Every trapping unit raised slips of kinds 0 to 3 (R415). -/
def autoKinds (l : Launch) : Bool := l.units.all fun u => u.devs.all fun d => decide (d.1 ≤ 3)

/-- The freeze resumes on its own now (R415). -/
def mayAutoResume (r : Nat) (l : Launch) (s : State) : Bool :=
  (rink r s).recov.auto && autoKinds l && (match l.frozenSince with
    | some t => decide (t < l.time ∧ l.time < t + 2 ^ 20)
    | none => false)
    && l.units.all fun u => u.devs.all (devHolds (site u.site s))

/-- AUTO_RESUME (R415): each frozen launch of the rink by itself. -/
def execAutoResume (r : Nat) (s : State) : Outcome State Fault Refusal :=
  .next (match (rink r s).work.launches.find? fun l => mayAutoResume r l s with
    | some l => resumeLaunch r l s
    | none => s)

/-- A resume pulse has reached the unit (R253). -/
def resumeDue (l : Launch) (u : UnitRun) : Bool := match u.resumeAt with
  | some t => decide (t ≤ l.time)
  | none => false

/-- The unit resumes: its frame is cleared, and its snapshot, which stands in its pipeline, goes on; of one that has completed the router (R253). -/
def resumeUnit (r : Nat) (l : Launch) (u : UnitRun) (s : State) : State :=
  let s1 := modLaunch r l.lctr (modUnit u.site fun v => { setStops ((stopsOf v).drop 1) v with frozenAt := none, trapped := none }) s
  if u.finished then s1 else modSite u.site (fun c => clearFrame r (thawSite r c)) s1

/-- RESUME_PULSE_ARRIVAL (R253). -/
def execResumePulseArrival (r lcore : Nat) (s : State) : Outcome State Fault Refusal :=
  .next (match launchWith r lcore resumeDue s with
    | some (l, u) => resumeUnit r l u s
    | none => s)

/-- The start, resume and freeze pulses that arrive at a launch's units in this beat. A unit resumes before it freezes again. -/
def arriveLaunch (r : Nat) (l : Launch) (s : State) : State :=
  let s1 := if l.left then (l.units.filter fun u => !u.begun && decide (u.offset ≤ l.time)).foldl (fun s u => beginUnit r l.lctr u s) s else s
  let s2 := (l.units.filter (resumeDue l)).foldl (fun s u => resumeUnit r l u s) s1
  match launchAt s2 r l.lctr with
  | some v => (v.units.filter (freezeDue v)).foldl (fun s u => freezeUnit r v u s) s2
  | none => s2

/-! ## The launch-frozen trap (18 R416) -/

/-- The freeze is the Rink Sequencer's to handle: it is none that resumes by itself, or has stood for 2^20 beats. -/
def mustNotify (r : Nat) (l : Launch) (s : State) : Bool :=
  !l.notified && !l.units.any (·.fatal) && (match l.frozenSince with
    | some t => !(rink r s).recov.auto || !autoKinds l || decide (t + 2 ^ 20 ≤ l.time)
    | none => false)

/-- LAUNCH_FROZEN_TRAP (R416): INFO is the logical core of the launch's first trapping unit, and a halted Sequencer turns the freeze into a rewind. -/
def execLaunchFrozenTrap (r : Nat) (s : State) : Outcome State Fault Refusal :=
  match (rink r s).work.launches.find? fun l => mustNotify r l s with
  | none => .next s
  | some l =>
      let core := ((l.froze.map (·.2.2)).getD 0) % 512
      let s1 := modLaunch r l.lctr (fun l => { l with notified := true }) s
      match seqSite r s1 with
      | some (k, x) =>
        if (ctxOf (site k s1) x).ctl.running then
          .next (modSite k (modCtx x fun v =>
            { v with trap := { v.trap with pend := v.trap.pend ++ [⟨0x30, core, false⟩] } }) s1)
        else .next (rewind r s1)
      | none => .next (rewind r s1)

/-! ## Core checks (18 R423) -/

/-- The failed core stops for a core check (18 R410, R413): its frame, and ECAUSE of the rink's home context on it, hold code 0x2E, fatal; no stream found it, so STREAM is
63 as for a core that only froze (DESIGN CHOICE, notes/assumptions/39.md). A rewind clears VALID of the frame. -/
def recordCheck (k r : Nat) (s : State) : State :=
  let c := writeFrame r (frameStat 0 0x2E 63 true false) (site k s)
  setSite k (modCtx (homeCtx c r) (fun x => { x with trap := { x.trap with ecause := ecauseWord 0 0x2E 63 true false } }) c) s

/-- Step 2 and 3 for one rink: a rewind of its job, then suspension; during Retention entry the rewind comes at the deadline (19 R438). -/
def checkRink (r : Nat) (s : State) : State :=
  let s1 := if (rink r s).work.running.isSome ∧ s.power.st ≠ .entering then rewind r s else s
  modRink r (fun q => { q with susp := true, suspd := true }) s1

/-- SERRU after an error of a register file or latch, a queue or buffer, or the flag block (18 R421). -/
def logCheck (k : Nat) (fault : Option (Nat × Nat)) (s : State) : State :=
  match fault with
  | some (place, index) => if 3 ≤ place ∧ place ≤ 5 then modSite k (logSerru place index) s else s
  | none => s

/-- An error of the core's router (18 R423, R424). -/
def ofRouter (fault : Option (Nat × Nat)) : Bool := fault.any (·.1 == 6)

/-- CORE_CHECK (R423). -/
def execCoreCheck (k : Nat) (fault : Option (Nat × Nat)) (s : State) : Outcome State Fault Refusal :=
  let fail (v : BitVec 192) : BitVec 192 := setBit v (siteBit k) true
  let s1 := modDie (dieOfSite k) (fun d =>
    { d with siteFail := fail d.siteFail, routerFail := if ofRouter fault then fail d.routerFail else d.routerFail }) (logCheck k fault s)
  .next (signalPf ((ownersOf k s1).foldl (fun s r => checkRink r (recordCheck k r s)) s1))

/-! ## Pseudo-channel remaps (18 R422) -/

/-- A write of PCREMAP sets STACK and PC, and LEFT shows the spares of that stack. GO starts a remap where a spare is left and PC names a pseudo-channel; while one is
in progress GO starts no other (DESIGN CHOICE, notes/assumptions/39.md). -/
def writePcremap (v : Nat) (p : PcRemap) : PcRemap :=
  let stack := field v 10 8
  let pc := field v 7 0
  let left := p.left.get 0 stack
  { p with stack := stack, pc := pc, shown := left,
           going := p.going.or (if bitOf v 63 ∧ 0 < left ∧ pc < 160 then some (stack, pc) else none) }

/-- PCREMAP_GO (R422). -/
def execPcremapGo (val : Word) (s : State) : Outcome State Fault Refusal := .next { s with pcremap := writePcremap val.toNat s.pcremap }

/-- PCREMAP_DONE (R422): the copy is complete; every access finds the same bytes. -/
def execPcremapDone (s : State) : Outcome State Fault Refusal :=
  let p := s.pcremap
  .next (match p.going with
    | some (stack, pc) =>
      let left := p.left.put stack (p.left.get 0 stack - 1)
      { s with pcremap := { p with left := left, shown := if p.stack = stack then left.get 0 stack else p.shown, going := none, made := p.made ++ [(stack, pc)] } }
    | none => s)

end Sys2Proof.Machine
end

