-- ==== Sys2Proof/Machine/Paging.lean ====
section
/-!
DEFINITION. Invalidation of translations, stage-2 leaves, page migration, key erasure and the end of a window (14 R339 to R357).
-/

namespace Sys2Proof.Machine

open Host (Outcome)

/-! ## Invalidation (R345) -/

/-- A cached translation is of the page that an invalidation names: kind 0 a guest virtual page, 1 an intermediate page, 2 all. -/
def tinvNames (fn : Nat) (q : Nat × Nat) (t : Tlb) : Bool :=
  t.fn == fn && (match q.1 with
    | 0 => t.page.space != 4 && decide (t.page.va < q.2 + 65536 ∧ q.2 < t.page.va + t.page.size)
    | 1 => decide (t.page.ia < q.2 + 65536 ∧ q.2 < t.page.ia + t.page.size)
    | _ => true)

/-- TINV: the invalidation begins and DONE is 0. -/
def askTinv (fn kind page : Nat) (s : State) : State :=
  modFn fn (fun f => { f with tinv := f.tinv ++ [(kind, page / 65536 * 65536)] }) s

/-- TINV_GUEST_PAGE (R345). -/
def execTinvGuestPage (fn : Nat) (page : Word) (s : State) : Outcome State Fault Refusal := .next (askTinv fn 0 page.toNat s)

/-- TINV_INTERMEDIATE_PAGE (R345); of no effect on the PF's block (R344). -/
def execTinvIntermediatePage (fn : Nat) (page : Word) (s : State) : Outcome State Fault Refusal :=
  .next (if fn = 0 then s else askTinv fn 1 page.toNat s)

/-- TINV_ALL (R345). -/
def execTinvAll (fn : Nat) (s : State) : Outcome State Fault Refusal := .next (askTinv fn 2 0 s)

/-- The off-chip accesses a context has issued and not performed. -/
def accessesOf (x : Ctx) : List Access := x.buf.loads ++ x.buf.stores

/-- An access goes to machine memory of a page. -/
def usesPage (p : Page) (a : Access) : Bool :=
  match a.target with
  | .machine ma _ _ => a.space == p.space && decide (p.ma ≤ ma ∧ ma < p.ma + p.size)
  | _ => false

/-- Some CC access already translated through a cached page is not performed. -/
def pageUsed (c : Site) (t : Tlb) (atoms : List AtomReq) : Bool :=
  (accessesOf c.ctx0 ++ accessesOf c.ctx1).any (usesPage t.page)
    || atoms.any fun a => decide (t.page.ma ≤ a.ma ∧ a.ma < t.page.ma + t.page.size)

def queuedAtomics (s : State) : List AtomReq := s.atomics.cells.flatMap fun b => b.2.q

/-- Every access translated through a named translation is performed, and no page of the function is on its way. -/
def tinvSettled (fn : Nat) (s : State) : Bool :=
  let q := (fnOf fn s).tinv
  let atoms := queuedAtomics s
  s.moves.all (·.fn != fn)
    && s.sites.cells.all fun c => c.2.tlb.all fun t => !(q.any fun e => tinvNames fn e t) || !pageUsed c.2 t atoms

def dropTlb (p : Tlb → Bool) (s : State) : State := { s with sites := s.sites.mapVals fun _ c => { c with tlb := c.tlb.filter fun t => !p t } }

/-- TINV_DONE (R345). -/
def execTinvDone (fn : Nat) (s : State) : Outcome State Fault Refusal :=
  let q := (fnOf fn s).tinv
  .next (if q.isEmpty || !tinvSettled fn s then s
    else modFn fn (fun f => { f with tinv := [] }) (dropTlb (fun t => q.any fun e => tinvNames fn e t) s))

/-! ## Stage-2 leaves (R339) -/

/-- STAGE2_LEAF_WRITE (R339): of the entry of 16 bytes that the address names: word 0, and word 1 as zero where the write creates the
leaf; ignored while the leaf is pinned or moving, with the hypervisor's TFAULT.BUSY set. -/
def execStage2LeafWrite (entry : Nat) (word0 : Word) (create : Bool) (s : State) : Outcome State Fault Refusal :=
  let e := entry / 16 * 16
  .next (if leafBusy s.mem e then modFn 0 (fun f => { f with tbusy := true }) s
    else (offWrite none e e (leBytes 8 word0.toNat ++ if create then leBytes 8 0 else []) s).getD s)

/-! ## Migration (R346 to R348) -/

/-- The stage-2 leaf of an intermediate address of a VF: private, or of a window (R339). -/
def leafOf (fn ia : Nat) (s : State) : Option Leaf :=
  let root := if bitOf ia 47 then (windowOf (field ia 45 40) s).s2root else (fnOf fn s).s2root
  if fn = 0 ∨ 2 ^ 48 ≤ ia then none
  else match walk2 s ia walkLevels (field root.toNat 41 16 * 65536) with
    | .ok l => some l
    | .error _ => none

/-- The page may move: 64 KiB or 2 MiB, not pinned and not moving. -/
def movable (l : Leaf) (s : State) : Bool :=
  (l.size == 2 ^ 16 || l.size == 2 ^ 21) && !leafBusy s.mem l.entry

def inTier (lpddr : Bool) (ma : Nat) : Bool := if lpddr then inLPDDR ma else inHBM ma

/-- A free frame granted to the function in a tier. -/
def freeFrame (fn size : Nat) (lpddr : Bool) (s : State) : Option Nat :=
  ((fnOf fn s).frames.find? fun f => f.2 == size && inTier lpddr f.1).map (·.1)

/-- A move is chosen: the page, and the frame it takes. It starts once the page is not pinned (R346). -/
def queueMove (fn ia frame size : Nat) (s : State) : State :=
  let s1 := modFn fn (fun f => { f with frames := f.frames.filter (· != (frame, size)) }) s
  { s1 with migrations := s1.migrations ++ [(fn, ia, frame)] }

/-- The home of a page is the capacity tier, as far as the device has seen it reached (notes/assumptions/36.md). -/
def homeCapacity (f : Fn) (ia size : Nat) : Bool := (List.range (size / 65536)).any fun i => f.homes.get 0 (ia / 65536 + i) == 1

/-- A page whose home is the capacity tier and that is asked to HBM lies there away from home; one asked to the capacity tier does no more. -/
def noteMigreq (fn ia : Nat) (l : Leaf) (lpddr : Bool) (s : State) : State :=
  if bitOf ia 47 then s
  else modFn fn (fun f =>
    let rest := f.promoted.filter (·.1 != ia)
    { f with promoted := if lpddr then rest else if inLPDDR l.out && homeCapacity f ia l.size then rest ++ [(ia, l.size)] else f.promoted }) s

/-- MIGREQ (R348): a request whose tier has no free frame is dropped and counted. -/
def execMigreq (fn : Nat) (val : Word) (s : State) : Outcome State Fault Refusal :=
  let ia := field val.toNat 63 16 * 65536
  .next (match leafOf fn ia s with
    | none => s
    | some l =>
      match freeFrame fn l.size (bitOf val.toNat 0) s with
      | some f => countShared 0 6 2 fn 1 (noteMigreq fn (ia / l.size * l.size) l (bitOf val.toNat 0) (queueMove fn (ia / l.size * l.size) f l.size s))
      | none => countShared 0 6 3 fn 1 (modFn fn (fun f => { f with migDrop := f.migDrop + 1 }) s))

/-- The 64 KiB pages that lie in HBM away from home. -/
def awayPages (f : Fn) : Nat := (f.promoted.map fun p => p.2 / 65536).sum

def pageHits (f : Fn) (ia size : Nat) : Nat :=
  ((List.range (size / 65536)).map fun i => f.epochHits.get 0 (ia / 65536 + i)).sum

/-- A page that was accessed is the most recently accessed one. -/
def refreshOrder (f : Fn) : List (Nat × Nat) :=
  (f.promoted.filter fun p => pageHits f p.1 p.2 == 0) ++ f.promoted.filter fun p => pageHits f p.1 p.2 != 0

/-- One page with THRESH accesses in the epoch through the capacity space, which is its home, goes to HBM while QUOTA and the frames allow. -/
def promotePage (fn thresh quota : Nat) (s : State) (page : Nat) : State :=
  match leafOf fn (page * 65536) s with
  | none => s
  | some l =>
    let ia := page * 65536 / l.size * l.size
    let f := fnOf fn s
    if inLPDDR l.out && movable l s && decide (thresh ≤ pageHits f ia l.size) && !f.promoted.any (·.1 == ia)
        && decide (awayPages f + l.size / 65536 ≤ quota) then
      match freeFrame fn l.size false s with
      | some fr => modFn fn (fun f => { f with promoted := f.promoted ++ [(ia, l.size)] }) (queueMove fn ia fr l.size s)
      | none => s
    else s

/-- A page that was reached through the capacity space and lies in HBM is away from home, however it came there. -/
def adoptPage (fn : Nat) (s : State) (page : Nat) : State :=
  match leafOf fn (page * 65536) s with
  | none => s
  | some l =>
    let ia := page * 65536 / l.size * l.size
    if inHBM l.out && homeCapacity (fnOf fn s) ia l.size && !(fnOf fn s).promoted.any (·.1 == ia) then modFn fn (fun f => { f with promoted := f.promoted ++ [(ia, l.size)] }) s else s

/-- Pages over QUOTA return to the capacity tier, the least recently accessed first. -/
def demotePages (fn quota : Nat) : List (Nat × Nat) → State → State
  | [], s => s
  | (ia, size) :: rest, s =>
    if awayPages (fnOf fn s) ≤ quota then s
    else
      let s' := match leafOf fn ia s, freeFrame fn size true s with
        | some l, some fr =>
          if movable l s then modFn fn (fun f => { f with promoted := f.promoted.filter (·.1 != ia) }) (queueMove fn ia fr size s) else s
        | _, _ => s
      demotePages fn quota rest s'

/-- MIGRATION_EPOCH (R348): the epoch's counts choose the pages, and the next epoch begins. -/
def execMigrationEpoch (fn : Nat) (s : State) : Outcome State Fault Refusal :=
  let f := fnOf fn s
  let v := f.migctl.toNat
  let quota := field v 63 32
  if fn = 0 || !bitOf v 0 then .next s
  else
    let s0 := (f.epochHits.cells.map (·.1)).foldl (adoptPage fn) s
    let s1 := modFn fn (fun f => { f with promoted := refreshOrder f }) s0
    let s2 := if bitOf v 1 then demotePages fn quota (fnOf fn s1).promoted s1 else s1
    let s3 := (f.epochHits.cells.map (·.1)).foldl (promotePage fn (field v 31 16) quota) s2
    .next (modFn fn (fun f => { f with epochHits := Table.empty }) s3)

/-- MOV of a leaf (bit 23 of its word 1). -/
def writeMov (entry : Nat) (b : Bool) (m : Mem) : Mem :=
  let v := leNat (m.readBytes (entry + 10) 1)
  m.writeBytes (entry + 10) [.ofNat 8 (v % 128 + 128 * b2n b)]

/-- PAGE_MIGRATION_START (R347, steps 1 and 2); of no effect on the PF's identity pages (R344) and on a page that may not move. -/
def execPageMigrationStart (fn : Nat) (page : Word) (target : Nat) (s : State) : Outcome State Fault Refusal :=
  let ia0 := page.toNat / 65536 * 65536
  .next (match leafOf fn ia0 s with
    | none => s
    | some l =>
      let ia := ia0 / l.size * l.size
      if movable l s && target % l.size == 0 && (inHBM target || inLPDDR target) then
        let s0 := { s with migrations := s.migrations.filter (· != (fn, ia, target)) }
        let s1 := dropTlb (fun t => (t.fn == fn || bitOf ia 47) && decide (t.page.ia < ia + l.size ∧ ia < t.page.ia + t.page.size)) s0
        { s1 with mem := writeMov l.entry true s1.mem, moves := s1.moves ++ [⟨fn, ia, l.size, l.entry, l.out, target⟩] }
      else s)

/-- The cells of `[src, src + n)` also stand at `dst`. -/
def copyCells {α : Type} (src dst n : Nat) (t : Table α) : Table α :=
  let moved := (t.cells.filter fun c => src ≤ c.1 && c.1 < src + n).map fun c => (c.1 - src + dst, c.2)
  ⟨t.cells.filter (fun c => c.1 < dst) ++ moved ++ t.cells.filter fun c => dst + n ≤ c.1⟩

/-- Every access that was translated to the old frame is performed. -/
def moveSettled (m : Move) (s : State) : Bool :=
  let at' (ma : Nat) : Bool := decide (m.src ≤ ma ∧ ma < m.src + m.size)
  (s.sites.cells.all fun c => (accessesOf c.2.ctx0 ++ accessesOf c.2.ctx1).all fun a => match a.target with
    | .machine ma _ _ => !at' ma
    | _ => true) && (queuedAtomics s).all fun a => !at' a.ma

/-- The old frame of a move: free for another page, and empty until it is granted anew; of a move within a tier, the retired frame is used no more (R349). -/
def freeOld (m : Move) (s : State) : State :=
  if inHBM m.src == inHBM m.dst then s
  else
    modFn m.fn (fun f => { f with frames := f.frames ++ [(m.src, m.size)] })
      { s with mem := dropRange m.src (m.src + m.size) s.mem, memErrs := dropRange (m.src / 32) ((m.src + m.size) / 32) s.memErrs,
               metaErrs := dropRange (m.src / 128) ((m.src + m.size) / 128) s.metaErrs, grants := dropRange (m.src / 65536) ((m.src + m.size) / 65536) s.grants,
               seals := dropRange (m.src / 256) ((m.src + m.size) / 256) s.seals,
               counters := dropRange (m.src / 16384) ((m.src + m.size) / 16384) s.counters }

/-- Steps 3 and 4 of R347: ciphertext, MACs and counters are copied, MA is rewritten and MOV cleared; what waited for the move goes on (11 R297). -/
def finishMove (m : Move) (s : State) : State :=
  let mem : Mem := copyCells m.src m.dst m.size s.mem
  let w0 := leNat (mem.readBytes m.leaf 8)
  let mem' := writeMov m.leaf false (mem.writeBytes m.leaf (leBytes 8 (setField w0 41 16 (m.dst / 65536))))
  let s1 := { s with mem := mem', memErrs := copyCells (m.src / 32) (m.dst / 32) (m.size / 32) s.memErrs,
                     metaErrs := copyCells (m.src / 128) (m.dst / 128) (m.size / 128) s.metaErrs, grants := copyCells (m.src / 65536) (m.dst / 65536) (m.size / 65536) s.grants,
                     seals := copyCells (m.src / 256) (m.dst / 256) (m.size / 256) s.seals,
                     counters := copyCells (m.src / 16384) (m.dst / 16384) (m.size / 16384) s.counters,
                     moves := s.moves.filter (· != m) }
  countShared 0 6 (if inHBM m.dst then 0 else 1) m.fn 1 (freeOld m s1)

def moveOf (fn ia : Nat) (s : State) : Option Move := s.moves.find? fun m => m.fn == fn && decide (m.ia ≤ ia ∧ ia < m.ia + m.size)

/-- PAGE_MIGRATION_COMPLETE (R347). -/
def execPageMigrationComplete (fn : Nat) (page : Word) (s : State) : Outcome State Fault Refusal :=
  .next (match moveOf fn page.toNat s with
    | some m => if moveSettled m s then finishMove m s else s
    | none => s)

/-! ## Keys and windows (R355, R356) -/

/-- KEY_ERASE (R355): the key and the root are cleared and VALID is 0. -/
def execKeyErase (slot : Nat) (s : State) : Outcome State Fault Refusal :=
  .next { s with keys := s.keys.put slot (eraseSlot (keyOf slot s)) }

/-- The slot's root holds the tree of all-zero leaves: no granule was written under it since its last erasure, for the leaf of a granule that was written is never
zero again (R353). -/
def rootClear (slot : Nat) (s : State) : Bool := !(keyOf slot s).written

/-- A page of a window is pinned by a command or a launch. -/
def windowPinned (w : Nat) (s : State) : Bool :=
  let mine (p : Page) : Bool := p.key == some (64 + w)
  s.rinks.cells.any fun q => ((commandsOf q.1 s).any fun m => m.bases.any fun b => b.pages.any mine)
    || q.2.work.launches.any fun l => l.pins.any mine

/-- WINDOW_DESTROY (R356): a cleared VALID takes effect once no leaf of the window is pinned. -/
def execWindowDestroy (w : Nat) (s : State) : Outcome State Fault Refusal :=
  .next (if (windowOf w s).closing && !windowPinned w s then modWindow w (fun v => { v with valid := false, closing := false }) s else s)

end Sys2Proof.Machine
end

