-- ==== Sys2Proof/Machine/Jobs.lean ====
section
/-!
DEFINITION. Job slots and the journal as the host uses them, the start of jobs, the operator's length, and the hypervisor's return (13 R320 to R330, 05
R147).
-/

namespace Sys2Proof.Machine

open Host (Outcome)

/-- A value the host may see below its bound: a 32-bit counter that saturates. -/
def sat32 (v : BitVec 32) : BitVec 32 := .ofNat 32 (satAdd 32 v.toNat 1)

def modSlot (fn slot : Nat) (g : JobSlot → JobSlot) (s : State) : State :=
  modFn fn (fun f => { f with slots := f.slots.put slot (g (f.slots.get JobSlot.reset slot)) }) s

/-- F of R327: the free journal entries. -/
def journalFree (f : Fn) : Nat := 2 ^ f.jlog.toNat - (f.jhead - f.jtail).toNat

/-- O of R327: accepted jobs without a completion record. -/
def openJobs (f : Fn) : Nat := ((List.range 8).map fun n => (f.slots.get JobSlot.reset n).queue.length).sum

/-- A GO is refused: a record where the journal has room for it, else a count. -/
def refuseGo (fn status : Nat) (g : GoWrite) (s : State) : State :=
  let f := fnOf fn s
  if openJobs f + 1 ≤ journalFree f then
    journal fn 3 g.slot status g.prio.toNat 0 g.jgraph.toNat g.jarg.toNat 0 false s
  else modFn fn (fun f => { f with refcnt := sat32 f.refcnt }) s

/-- Steps 1 and 2 of R327 for the GO writes that stand first: those refused leave, until one passes. -/
def checkGo (fn : Nat) : List GoWrite → State → State
  | [], s => s
  | g :: rest, s =>
    if g.checked then s
    else
      let s1 := if g.relaxed then modFn fn (fun f => { f with rocnt := sat32 f.rocnt }) s else s
      let f := fnOf fn s1
      let drop (status : Nat) : State := checkGo fn rest (modFn fn (fun f => { f with goWait := rest }) (refuseGo fn status g s1))
      if g.relaxed && f.rostrict then drop 0x10
      else if 4 ≤ (f.slots.get JobSlot.reset g.slot).queue.length then drop 0x11
      else modFn fn (fun f => { f with goWait := { g with checked := true } :: rest }) s1

def settleGo (fn : Nat) (s : State) : State := checkGo fn (fnOf fn s).goWait s

/-- The first GO write of a function has passed its checks and the journal has room for it. -/
def mayAccept (fn : Nat) (s : State) : Option GoWrite :=
  let f := fnOf fn s
  match f.goWait with
  | g :: _ => if g.checked && decide (openJobs f + 2 ≤ journalFree f) then some g else none
  | [] => none

/-- The slot's GO waits for room: STATE 3. -/
def slotWaits (fn slot : Nat) (s : State) : Bool :=
  match (fnOf fn s).goWait with
  | g :: _ => g.slot == slot && g.checked && (mayAccept fn s).isNone
  | [] => false

/-- JOB_ACCEPTANCE (R327, R328): SEQ, the acceptance record, then the job stands in its slot's queue. -/
def execJobAcceptance (fn slot : Nat) (s : State) : Outcome State Fault Refusal :=
  .next (match mayAccept fn s with
    | none => s
    | some g =>
      if g.slot ≠ slot then s
      else
        let sl := (fnOf fn s).slots.get JobSlot.reset slot
        let seq : BitVec 32 := if sl.seq = 0xFFFFFFFF then 1 else sl.seq + 1
        let s1 := journal fn 1 slot 0 g.prio.toNat seq.toNat g.jgraph.toNat g.jarg.toNat 0 (fnOf fn s).aint s
        let job : Job := { seq := seq.toNat, prio := g.prio.toNat, jgraph := g.jgraph.toNat, jarg := g.jarg.toNat, arglen := g.arglen.toNat,
                           image := false, beats := 0 }
        settleGo fn (modFn fn (fun f => { f with goWait := f.goWait.drop 1 })
          (modSlot fn slot (fun v => { v with seq := seq, queue := sl.queue ++ [job] }) s1)))

/-! ## JCTL (R326, R330) -/

/-- The slot's head job has started: it runs, or it is pre-empted. -/
def headStarted (fn slot : Nat) (s : State) : Bool :=
  (s.rinks.cells.any fun q => q.2.valid && q.2.vf.toNat == fn && (match q.2.work.running with
    | some j => j.slot == slot
    | none => false))
  || (match ((fnOf fn s).slots.get JobSlot.reset slot).queue with
    | j :: _ => j.image
    | [] => false)

/-- JCTL.CANCEL (R330). -/
def cancelSlot (fn slot : Nat) (s : State) : State :=
  let sl := (fnOf fn s).slots.get JobSlot.reset slot
  let n := b2n (headStarted fn slot s)
  let s1 := (sl.queue.drop n).foldl (fun s j => recordJob fn slot 2 j s) s
  modSlot fn slot (fun v => { v with queue := sl.queue.take n, cancel := decide (n = 1) }) s1

/-- A GO write arrives: dropped and counted while EN is 0, else it stands behind the earlier ones. -/
def submitJob (fn slot : Nat) (relaxed : Bool) (s : State) : State :=
  let f := fnOf fn s
  if !f.en then modFn fn (fun f => { f with refcnt := sat32 f.refcnt }) s
  else
    let sl := f.slots.get JobSlot.reset slot
    let g : GoWrite := { slot := slot, relaxed := relaxed, checked := false, jgraph := sl.jgraph, jarg := sl.jarg, arglen := sl.arglen,
                         prio := sl.prio }
    settleGo fn (wake (modFn fn (fun f => { f with goWait := f.goWait ++ [g] }) s))

/-- A write of JCTL: both GO and CANCEL are a CANCEL alone. -/
def writeJctl (fn slot v : Nat) (relaxed : Bool) (s : State) : State :=
  let s1 := modSlot fn slot (fun j => { j with arglen := .ofNat 16 (field v 47 32), prio := .ofNat 2 v }) s
  if bitOf v 3 then cancelSlot fn slot s1
  else if bitOf v 2 then submitJob fn slot relaxed s1
  else s1

/-- JOB_CANCEL (R330). -/
def execJobCancel (fn slot : Nat) (s : State) : Outcome State Fault Refusal := .next (cancelSlot fn slot s)

/-- JOB_START (R320, R322, R325). -/
def execJobStart (r : Nat) (s : State) : Outcome State Fault Refusal := .next (scheduleNext r s)

/-- FUNCTION_RESET (R327): the job-slot and journal registers return to their reset values; work of the function's rinks on its jobs ends
without a record (notes/assumptions/30.md). -/
def execFunctionReset (fn : Nat) (s : State) : Outcome State Fault Refusal :=
  let rs := (s.rinks.cells.filter fun q => q.2.valid && q.2.vf.toNat == fn && (q.2.work.running.isSome || q.2.work.ending.isSome)).map (·.1)
  let s1 := rs.foldl (fun s r =>
    modWork r (fun w => { w with running := none, ending := none }) (recount r (haltSeq r (stopRink r .cancelled 1 s)))) s
  .next (modFn fn (fun f =>
    { f with en := false, rostrict := false, aint := false, vec := 0, jbase := 0, jlog := 6, jhead := 0, jtail := 0, rocnt := 0, refcnt := 0,
             slots := Table.fill 8 JobSlot.reset, goWait := [] }) s1)

/-! ## The operator's length (R323) -/

/-- The sum of running beats has passed 10^6 and its record is not posted. -/
def opPassed (w : Work) : Bool := decide (1000000 < w.opLen) && !w.opPosted

/-- OPERATOR_LENGTH_EXCEEDED (R323). -/
def execOperatorLengthExceeded (r : Nat) (s : State) : Outcome State Fault Refusal :=
  .next (if opPassed (rink r s).work then
      modWork r (fun w => postEvent 5 (w.opEvent.getD 0) [] { w with opPosted := true }) s
    else s)

/-! ## The hypervisor's return (05 R147) -/

/-- Results in s1 to s8. -/
def putResults (now : Nat) : Nat → List Word → Ctx → Ctx
  | _, [], x => x
  | i, v :: vs, x => if 8 < i then x else putResults now (i + 1) vs (putS now 0 (.ofNat 5 i) v x)

/-- HYPERVISOR_RETURN (R147): the context goes on after its hcall. -/
def execHypervisorReturn (k : Nat) (x : Bool) (regs : List Word) (s : State) : Outcome State Fault Refusal :=
  let v := ctxOf (site k s) x
  .next (if v.trap.hcallWait then
      modSite k (fun c => modCtx x (fun v =>
        let y := putResults c.now 1 regs v
        { y with trap := { y.trap with hcallWait := false }, ctl := { y.ctl with next := max y.ctl.next (c.now + 1) } }) c) s
    else s)

end Sys2Proof.Machine
end

