-- ==== Sys2Proof/Machine/Registers.lean ====
section
/-!
DEFINITION. Configuration space (14 R360) and BAR0 (13 R326, 19): every register block, as a requester reads and writes it. A read also gives the
state it leaves, since a read of an RC field clears it (00 R11).
-/

namespace Sys2Proof.Machine

open Host (Outcome)

def nat64 (n : Nat) : Word := .ofNat 64 n

/-- The value and the state of a register that a read does not change. -/
def plain (n : Nat) (s : State) : Word × State := (nat64 n, s)

def isPf (who : Requester) : Bool := who == .pf

/-- Offset `off` is register `i < n` of an array of doublewords at `base`, `step` bytes apart. -/
def regIndex (base step n off : Nat) : Option Nat :=
  if base ≤ off ∧ off < base + step * n ∧ (off - base) % step = 0 then some ((off - base) / step) else none

/-! ## The core block -/

/-- An owner's byte of OWN or CEOWN as the requester sees it (15 R363). -/
def ownSeen (who : Requester) (o : Owner) : Nat :=
  if isPf who || (o.v && who == .rink o.rink.toNat) then 128 * b2n o.v + o.rink.toNat else 0

def readOwn (who : Requester) (o : Own) : Nat :=
  (([o.ctx0, o.ctx1, o.ve, o.h0, o.h1, o.l0, o.l1].zip (List.range 7)).map fun p => ownSeen who p.1 * 256 ^ p.2).sum + b2n o.bad * 2 ^ 63

def claimWord (c : Claim) : Nat :=
  b2n c.frozen * 512 + b2n c.hv * 256 + b2n c.held * 128 + (if c.held && !c.hv then c.rink else 0)

def readFrame (f : Frame) (o : Nat) : Nat :=
  if o = 0 then f.stat.toNat
  else if o = 8 then f.beat.toNat
  else if o = 0x60 then f.snapCount % 256
  else
    match regIndex 0x10 8 7 o, regIndex 0x48 8 3 o with
    | some h, _ => (nth 0 f.pcs h).toNat
    | _, some h => (nth 0 f.npcs h).toNat
    | none, none => 0

def readSnap (v : Snap) (o : Nat) : Nat := if o = 0 then v.seq.toNat else (nth 0 v.vals (o / 8 - 1)).toNat

/-- A counter bank's register: the holder reads it, every other requester zero (15 R373, R374). -/
def readBank (b : Bank) (o : Nat) : Nat :=
  if o = 0 then b.sel.toNat
  else if o = 0x48 then b2n b.run
  else match regIndex 8 8 8 o with
    | some i => (b.cnt.get 0 i).toNat
    | none => 0

def writeBank (o v : Nat) (b : Bank) : Bank :=
  if o = 0 then { b with sel := nat64 v }
  else if o = 0x48 then { b with run := bitOf v 0 }
  else match regIndex 8 8 8 o with
    | some i => { b with cnt := b.cnt.put i (.ofNat 48 v) }
    | none => b

/-- The fields of TRCTL (15 R375). -/
def trctlOf (v : Nat) : Word :=
  nat64 (field v 47 40 * 2 ^ 40 + field v 39 32 * 2 ^ 32 + field v 31 28 * 2 ^ 28 + b2n (bitOf v 24) * 2 ^ 24 + field v 23 0)

def bpAOf (v : Nat) : Word := nat64 (field v 63 58 * 2 ^ 58 + field v 23 0)
def bpBOf (v : Nat) : Word := nat64 (field v 32 0)

/-- The registers that the trace unit's holder owns. -/
def readTrace (o : Obs) (off : Nat) : Nat :=
  if off = 0x280 then o.trctl.toNat
  else if off = 0x288 then o.trDrop.toNat * 2 ^ 32 + o.trPtr.toNat
  else match regIndex 0x240 16 4 off, regIndex 0x248 16 4 off with
    | some i, _ => (o.bpA.get 0 i).toNat
    | _, some i => (o.bpB.get 0 i).toNat
    | none, none => 0

def writeTraceReg (off v : Nat) (o : Obs) : Obs :=
  if off = 0x280 then { o with trctl := trctlOf v }
  else match regIndex 0x240 16 4 off, regIndex 0x248 16 4 off with
    | some i, _ => { o with bpA := o.bpA.put i (bpAOf v) }
    | _, some i => { o with bpB := o.bpB.put i (bpBOf v) }
    | none, none => o

def inBank (off : Nat) : Option (Nat × Nat) :=
  if 0x140 ≤ off ∧ off < 0x240 then some ((off - 0x140) / 0x80, (off - 0x140) % 0x80) else none

def isTraceReg (off : Nat) : Bool := decide (0x240 ≤ off ∧ off < 0x290)

def readCore (who : Requester) (k off : Nat) (s : State) : Word × State :=
  let c := site k s
  let o := c.obs
  let mod (f : Obs → Obs) : State := modSite k (modObs f) s
  if off = 0 then plain (readOwn who c.own) s
  else if off = 8 then plain c.tm.split.toNat s
  else if off = 0x400 then (o.tmFault, mod fun o => { o with tmFault := 0 })
  else if off = 0x700 then plain o.linj.toNat s
  else if off = 0x710 then (nat64 o.serrc.toNat, mod fun o => { o with serrc := 0 })
  else if off = 0x718 then (o.serru, mod fun o => { o with serru := 0 })
  else if isTraceReg off then
    if holdsClaim who (claimAt k 2 s) then
      (nat64 (readTrace o off), if off = 0x288 then mod fun o => { o with trDrop := 0 } else s)
    else plain 0 s
  else
    match inBank off with
    | some (b, d) => plain (if holdsClaim who (claimAt k b s) then readBank (o.banks.get Bank.reset b) d else 0) s
    | none =>
      match regIndex 0x100 8 3 off, regIndex 0x420 8 5 off, regIndex 0x460 8 5 off with
      | some n, _, _ => plain (claimWord (claimAt k n s)) s
      | _, some i, _ => plain (o.tmCnt.get 0 i).toNat s
      | _, _, some i => plain (o.tmCnt.get 0 (5 + i)).toNat s
      | none, none, none =>
        match regIndex 0x500 8 28 off, regIndex 0x600 8 28 off with
        | some i, _ => plain (o.qcnt.get 0 i).toNat s
        | _, some i => plain (o.qcnt.get 0 (28 + i)).toNat s
        | none, none =>
          if 0x800 ≤ off ∧ off < 0xC00 then plain (readSnap o.snap (off - 0x800)) s
          else if 0xC00 ≤ off ∧ off < 0xD00 then plain (readFrame o.frame0 (off - 0xC00)) s
          else if 0xD00 ≤ off ∧ off < 0xE00 then plain (readFrame o.frame1 (off - 0xD00)) s
          else plain 0 s

/-- A request to the performance arbiter (15 R373). -/
def askClaim (who : Requester) (k n op : Nat) (s : State) : State :=
  if op = 0 ∨ (op = 3 ∧ !isPf who) then s else askPerf who (2 * s.cur.site + b2n s.cur.ctx) k n op s

def writeCore (who : Requester) (k off v : Nat) (s : State) : State :=
  let mod (f : Obs → Obs) : State := modSite k (modObs f) s
  if off = 0 then (if isPf who then writeOwn k v s else s)
  else if off = 8 then (if isPf who then writeSplit k v s else s)
  else if off = 0x700 then
    if isPf who then mod fun o => { o with linj := nat64 (field v 63 62 * 2 ^ 62 + field v 47 40 * 2 ^ 40 + field v 26 0), linjCount := 0 } else s
  else if isTraceReg off then (if holdsClaim who (claimAt k 2 s) then mod (writeTraceReg off v) else s)
  else
    match inBank off with
    | some (b, d) =>
      if holdsClaim who (claimAt k b s) then mod fun o => { o with banks := o.banks.put b (writeBank d v (o.banks.get Bank.reset b)) } else s
    | none =>
      match regIndex 0x100 8 3 off with
      | some n => askClaim who k n (v % 4) s
      | none => s

/-! ## The rink block -/

def stateCodeOf (c : CtrState) : Nat :=
  match c with
  | .idle => 0
  | .allocating => 1
  | .waiting => 2
  | .running => 3
  | .complete => 4
  | .cancelled => 5
  | .rejected => 6
  | .faulted => 7
  | .rewound => 8

/-- A completion counter (13 R312). -/
def ctrWord (c : Ctr) : Nat := (if c.state = .rejected then c.status * 2 ^ 40 else 0) + stateCodeOf c.state * 2 ^ 32 + c.pending % 2 ^ 32

def rctlWord (q : Rink) : Nat :=
  q.vf.toNat * 2 ^ 40 + q.lead.toNat * 2 ^ 16 + b2n q.bad * 64 + b2n q.suspd * 32 + b2n q.susp * 16 + b2n q.lane * 8 + b2n q.leadCtx * 4
    + b2n q.valid

def placeWord (e : Place) : Nat := b2n e.v * 2 ^ 63 + e.skew * 2 ^ 48 + e.ltrim * 2 ^ 40 + e.row * 2 ^ 24 + e.col * 2 ^ 16 + e.site

def linkWord (e : PortEntry) : Nat := 128 * b2n e.v + e.port.toNat

def rfrzWord (v : Recovery) : Nat := b2n v.frozen * 2 ^ 63 + v.kind.toNat * 2 ^ 40 + v.core.toNat * 2 ^ 16 + b2n v.auto * 4

def rvoteWord (q : Rink) : Nat := q.voteEff.toNat * 2 ^ 16 + q.voteCap.toNat * 256 + b2n q.votePend * 8 + q.voteOp.toNat

def peersWord (t : Table Bool) (i : Nat) : Nat := ((List.range 64).map fun j => if t.get false (64 * i + j) then 2 ^ j else 0).sum

def readWork (w : Work) (off : Nat) : Option Nat :=
  match off with
  | 0x00 => some (ctrWord (w.lctr.get Ctr.idle 0))
  | 0x08 => some (ctrWord (w.lctr.get Ctr.idle 1))
  | 0x10 => some (ctrWord (w.lctr.get Ctr.idle 2))
  | 0x18 => some (ctrWord (w.lctr.get Ctr.idle 3))
  | 0x20 => some (ctrWord w.gctr)
  | 0x28 => some (ctrWord w.pctr)
  | 0x30 => some (ctrWord w.jctr)
  | 0x100 => some w.slice.toNat
  | 0x108 => some (w.starve.get 0 3 * 2 ^ 16 + w.starve.get 0 2 * 2 ^ 8 + w.starve.get 0 1)
  | _ => none

def readRinkReg (q : Rink) (off : Nat) : Option Nat :=
  match off with
  | 0x200 => some (rctlWord q)
  | 0x208 => some (b2n q.rpatPend * 2 ^ 16 + q.rpat.toNat)
  | 0x210 => some (b2n q.revoked)
  | 0x220 => some (b2n q.rfab.isSome * 2 ^ 16 + q.rfabFid.toNat)
  | 0x228 => some q.rland.toNat
  | 0x230 => some q.collto.toNat
  | 0x238 => some q.recov.hvec.toNat
  | 0x240 => some q.recov.hlim.toNat
  | 0x248 => some (rfrzWord q.recov)
  | 0x250 => some (q.recov.limit.toNat * 2 ^ 56 + q.recov.count.toNat)
  | 0x258 => some (rvoteWord q)
  | _ => none

def readRink (r off : Nat) (s : State) : Word × State :=
  let q := rink r s
  let tables : Nat :=
    match regIndex 0x300 8 32 off, regIndex 0x400 8 272 off, regIndex 0xD00 8 12 off with
    | some i, _, _ => (q.rtot.get 0 i).toNat
    | _, some n, _ => placeWord (q.place.get Place.reset n)
    | _, _, some p => linkWord (q.link.get PortEntry.none p)
    | none, none, none =>
      match regIndex 0x1000 8 64 off, regIndex 0x1400 16 256 off, regIndex 0x1408 16 256 off with
      | some i, _, _ => peersWord q.peers i
      | _, some n, _ => (q.gtabV.get 0 n).toNat
      | _, _, some n => (q.gtabL.get 0 n).toNat
      | none, none, none => 0
  plain (((readWork q.work off).or (readRinkReg q off)).getD tables) s

/-- A write of RPAT: a pattern of 0 stores 1 (15 R369). -/
def writeRpat (v : Nat) (q : Rink) : Rink := { q with rpat := .ofNat 16 (max 1 (field v 15 0)), rpatPend := bitOf v 16 }

/-- A write of RFRZ (18 R414). -/
def writeRfrz (r v : Nat) (s : State) : State :=
  let s1 := modRecov r (fun w => { w with auto := bitOf v 2 }) s
  if bitOf v 1 then askRfrz true r s1 else if bitOf v 0 then askRfrz false r s1 else s1

def putPeers (i v : Nat) (t : Table Bool) : Table Bool := (List.range 64).foldl (fun t j => t.setD false (64 * i + j) (bitOf v j)) t

/-- What the rink and the PF both write. -/
def writeRinkShared (who : Requester) (r off v : Nat) (s : State) : State :=
  match off with
  | 0x208 => modRink r (writeRpat v) s
  | 0x210 => if bitOf v 0 then modRink r (fun q => { q with revoked := false }) s else s
  | 0x218 => if bitOf v 0 then triggerRink noSite r s else s
  | 0x230 => modRink r (fun q => { q with collto := nat64 (b2n (bitOf v 63) * 2 ^ 63 + field v 47 0) }) s
  | 0x238 => modRecov r (fun w => { w with hvec := nat64 (field v 47 2 * 4 + v % 2) }) s
  | 0x240 => modRecov r (fun w => { w with hlim := .ofNat 32 v }) s
  | 0x248 => writeRfrz r v s
  | 0x250 => modRecov r (fun w => { w with limit := .ofNat 8 (field v 63 56) }) s
  | 0x258 => modRink r (writeVote who v) s
  | _ => s

/-- What only the PF writes. -/
def writeRinkPf (r off v : Nat) (s : State) : State :=
  match off with
  | 0x100 => modWork r (fun w => { w with slice := .ofNat 48 (max 1 (field v 47 0)) }) s
  | 0x200 => writeRctl r v s
  | 0x220 => writeRfab r v s
  | 0x228 => writeRland r v s
  | _ =>
    match regIndex 0x1000 8 64 off, regIndex 0x1400 16 256 off, regIndex 0x1408 16 256 off with
    | some i, _, _ => modRink r (fun q => { q with peers := putPeers i v q.peers }) s
    | _, some n, _ =>
      modRink r (fun q => { q with gtabV := q.gtabV.setD 0 n (nat64 (b2n (bitOf v 63) * 2 ^ 63 + field v 35 24 * 2 ^ 24 + field v 12 0)) }) s
    | _, _, some n => modRink r (fun q => { q with gtabL := q.gtabL.setD 0 n (nat64 (field v 41 1 * 2)) }) s
    | none, none, none =>
      if (regIndex 0x400 8 272 off).isSome || (regIndex 0xD00 8 12 off).isSome then writePlace r off v s else s

/-- A rink's own write of a place or link entry is ignored and sets BAD (15 R367). -/
def writeRink (who : Requester) (r off v : Nat) (s : State) : State :=
  let s1 := writeRinkShared who r off v s
  if isPf who then writeRinkPf r off v s1
  else if (regIndex 0x400 8 272 off).isSome || (regIndex 0xD00 8 12 off).isSome then setBad r s1 else s1

/-! ## The die block -/

/-- A requester sees a shared unit's counters: the PF, and the rinks of the selected function (15 R372). -/
def seesShared (who : Requester) (sel : Word) (s : State) : Bool :=
  match who with
  | .pf => true
  | .rink r => rinkFn r s == field sel.toNat 6 0

def tbandWord (d : Die) : Nat := b2n d.falling * 4096 + d.target.toNat * 256 + d.band.toNat

/-- DVFS (19 R431). -/
def dvfsWord (p : Power) : Nat := p.vnow * 2 ^ 32 + p.fnow * 2 ^ 16 + p.idle * 256 + b2n p.ramping * 128 + p.target * 16 + p.cur

def powerCode (p : PowerState) : Nat :=
  match p with
  | .run => 0
  | .hold => 1
  | .entering => 2
  | .retention => 3
  | .resuming => 4
  | .off => 0

/-- Die 0's registers of chapter 19. -/
def readPower (off : Nat) (s : State) : Word × State :=
  let p := s.power
  match off with
  | 0x1240 => plain (dvfsWord p) s
  | 0x1248 => plain (b2n p.ballastEn * 2 ^ 63 + p.ramp * 2 ^ 32 + p.floor) s
  | 0x1250 => plain (p.ballast % 65536 * 2 ^ 32 + p.draw % 65536) s
  | 0x1260 => plain (p.stable * 2 ^ 32 + p.holdUs * 2 ^ 16 + b2n p.autoResume * 4) s
  | 0x1268 => plain (p.entryUs % 65536 * 2 ^ 32 + b2n p.hot * 256 + p.cause * 16 + powerCode p.st) s
  | _ =>
    match regIndex 0x1200 8 8 off with
    | some k => plain (pointFreq p k * 2 ^ 16 + pointVolt p k) s
    | none => plain 0 s

/-- A write of RETCTL (19 R436). -/
def writeRetctl (v : Nat) (s : State) : State :=
  let s1 := modPower (fun p => { p with stable := field v 47 32, holdUs := min 1300 (field v 31 16), autoResume := bitOf v 2 }) s
  let s2 := if bitOf v 0 then enterRetention 2 s1 else s1
  if bitOf v 1 then askResume s2 else s2

def writePowerReg (off v : Nat) (s : State) : State :=
  match off with
  | 0x1240 => modPower (fun p => { p with idle := field v 10 8 }) s
  | 0x1248 => modPower (writePwrctl v) s
  | 0x1260 => writeRetctl v s
  | 0x1268 => if bitOf v 8 then modPower (fun p => { p with hot := false }) s else s
  | _ =>
    match regIndex 0x1200 8 8 off with
    | some k => modPower (writeOptab k (field v 31 16) (field v 15 0)) s
    | none => s

def pcremapWord (p : PcRemap) : Nat := b2n p.going.isNone * 2 ^ 62 + p.shown * 2 ^ 16 + p.stack * 256 + p.pc

def devidWord (s : State) : Nat := 4096 * b2n s.devid.v + s.devid.id.toNat

/-- The registers that only die 0 has. -/
def readDie0 (off : Nat) (s : State) : Word × State :=
  if off = 0xE40 then plain (pcremapWord s.pcremap) s
  else if off = 0xF00 then plain (devidWord s) s
  else if 0x1200 ≤ off ∧ off < 0x1270 then readPower off s
  else match regIndex 0x8000 8 4096 off with
    | some d => plain (linkWord (s.rtab.get PortEntry.none d)) s
    | none => plain 0 s

def writeDie0 (off v : Nat) (s : State) : State :=
  if off = 0xE40 then { s with pcremap := writePcremap v s.pcremap }
  else if off = 0xF00 then { s with devid := ⟨bitOf v 12, .ofNat 12 v⟩ }
  else if 0x1200 ≤ off ∧ off < 0x1270 then writePowerReg off v s
  else match regIndex 0x8000 8 4096 off with
    | some d => { s with rtab := s.rtab.setD PortEntry.none d (portEntry v) }
    | none => s

/-- A port's registers (16 R384); the counters are RC. -/
def readPort (n o : Nat) (s : State) : Word × State :=
  let p := portOf n s
  if o = 0 then plain (b2n p.keep * 2 + b2n p.en) s
  else if o = 8 then plain (p.lanes.toNat * 16 + p.st.toNat) s
  else if o = 0x10 then (nat64 p.retry.toNat, modPort n (fun p => { p with retry := 0 }) s)
  else if o = 0x18 then (nat64 p.crcBad.toNat, modPort n (fun p => { p with crcBad := 0 }) s)
  else if o = 0x20 then (nat64 p.badKind.toNat, modPort n (fun p => { p with badKind := 0 }) s)
  else plain 0 s

/-- A write of BLCTL: a port that is enabled trains, one that is disabled goes down (16 R384). -/
def writeBlctl (n v : Nat) (s : State) : State :=
  let p := portOf n s
  let s1 := if !bitOf v 0 && p.en then takeDown n s else if bitOf v 0 && !p.en then modPort n (fun q => { q with st := 1, lanes := 0 }) s else s
  modPort n (fun q => { q with en := bitOf v 0, keep := bitOf v 1 }) s1

def readDie (who : Requester) (d off : Nat) (s : State) : Word × State :=
  let v := die d s
  if off = 0x180 then plain (tbandWord v) s
  else if 0x400 ≤ off ∧ off < 0x7C0 then
    let u := (off - 0x400) / 0x40
    let o := (off - 0x400) % 0x40
    if o = 0 then plain (v.shsel.get 0 u).toNat s
    else match regIndex 8 8 4 o with
      | some i =>
        if seesShared who (v.shsel.get 0 u) s then
          (nat64 (v.shcnt.get 0 (4 * u + i)).toNat, modDie d (fun v => { v with shcnt := v.shcnt.put (4 * u + i) 0 }) s)
        else plain 0 s
      | none => plain 0 s
  else if 0x800 ≤ off ∧ off < 0xE00 then plain (readSnap v.snap (off - 0x800)) s
  else if 0x1000 ≤ off ∧ off < 0x1180 then readPort (6 * d + (off - 0x1000) / 0x40) ((off - 0x1000) % 0x40) s
  else
    match regIndex 0x100 8 16 off, regIndex 0x200 8 36 off, regIndex 0x340 8 8 off with
    | some k, _, _ => plain (v.ttab.get 0 k).toNat s
    | _, some c, _ => plain (b2n (v.cpatLock.get false c) * 2 ^ 16 + (v.cpat.get 0 c).toNat) s
    | _, _, some e => plain (ownSeen who (v.ce.get CollEngine.reset e).owner) s
    | none, none, none =>
      match regIndex 0x380 8 16 off, regIndex 0xE00 8 3 off with
      | some k, _ => plain (v.ewt.get 0 k).toNat s
      | _, some w => plain (v.siteFail.toNat / 2 ^ (64 * w) % 2 ^ 64) s
      | none, none => if d = 0 then readDie0 off s else plain 0 s

/-- The PF's writes of a die block. -/
def writeDie (d off v : Nat) (s : State) : State :=
  if 0x400 ≤ off ∧ off < 0x7C0 then
    if (off - 0x400) % 0x40 = 0 then modDie d (fun w => { w with shsel := w.shsel.put ((off - 0x400) / 0x40) (nat64 (v % 256)) }) s else s
  else if off = 0x7F8 then (if bitOf v 0 then (List.range 288).foldl (fun s k => triggerSite noSite k s) (triggerDies noSite s) else s)
  else if 0x1000 ≤ off ∧ off < 0x1180 then
    if (off - 0x1000) % 0x40 = 0 then writeBlctl (6 * d + (off - 0x1000) / 0x40) v s else s
  else
    match regIndex 0x100 8 16 off, regIndex 0x200 8 36 off, regIndex 0x340 8 8 off with
    | some k, _, _ => modDie d (fun w => { w with ttab := w.ttab.put k (.ofNat 16 (max 1 (v % 65536))) }) s
    | _, some c, _ => writeCpat d c v s
    | _, _, some e => modCollEngine d e (fun w => { w with owner := ownByte v 0 }) s
    | none, none, none =>
      match regIndex 0x380 8 16 off, regIndex 0xE00 8 3 off with
      | some k, _ => modDie d (fun w => { w with ewt := w.ewt.put k (.ofNat 16 v) }) s
      | _, some w =>
        let keep : BitVec 192 := ~~~(.ofNat 192 (v % 2 ^ 64 * 2 ^ (64 * w)))
        modDie d (fun x => { x with siteFail := x.siteFail &&& keep, routerFail := x.routerFail &&& keep }) s
      | none, none => if d = 0 then writeDie0 off v s else s

/-! ## The translation, window and key blocks (14 R343, R348, R355, R356) -/

def readTrans (fn off : Nat) (s : State) : Word × State :=
  let f := fnOf fn s
  match off with
  | 0x00 => plain f.s1root.toNat s
  | 0x08 => plain f.s2root.toNat s
  | 0x10 => plain (b2n f.tinv.isEmpty) s
  | 0x18 => (nat64 (b2n f.tbusy * 2 ^ 63 + f.tfault.toNat), modFn fn (fun f => { f with tfault := 0 }) s)
  | 0x20 => plain f.migctl.toNat s
  | 0x28 => plain (f.migDrop.toNat * 2) s
  | _ => plain 0 s

/-- A write of TINV: kind 1 is the hypervisor's, kind 3 is ignored. -/
def writeTinv (who : Requester) (fn v : Nat) (s : State) : State :=
  let page := field v 63 16 * 65536
  match field v 2 1 with
  | 0 => askTinv fn 0 page s
  | 1 => if isPf who && fn != 0 then askTinv fn 1 page s else s
  | 2 => askTinv fn 2 0 s
  | _ => s

/-- MIGREQ of a function's page. -/
def askMove (fn v : Nat) (s : State) : State :=
  match execMigreq fn (nat64 v) s with
  | .next s' => s'
  | _ => s

def writeTrans (who : Requester) (fn off v : Nat) (s : State) : State :=
  match off with
  | 0x00 => modFn fn (fun f => { f with s1root := nat64 (field v 47 16 * 65536 + v % 2) }) s
  | 0x08 => if isPf who && fn != 0 then modFn fn (fun f => { f with s2root := nat64 (field v 41 16 * 65536) }) s else s
  | 0x10 => writeTinv who fn v s
  | 0x18 => if bitOf v 63 then modFn fn (fun f => { f with tbusy := false }) s else s
  | 0x20 => if isPf who then modFn fn (fun f => { f with migctl := nat64 (field v 63 16 * 65536 + v % 4) }) s else s
  | 0x28 => if isPf who then askMove fn v s else s
  | _ => s

def readWindow (w off : Nat) (s : State) : Word × State :=
  let v := windowOf w s
  match off with
  | 0x00 => plain (v.pages.toNat * 2 ^ 24 + v.owner.toNat * 256 + b2n v.valid) s
  | 0x08 => plain v.s2root.toNat s
  | 0x10 => plain v.wrd.toNat s
  | 0x18 => plain v.wwr.toNat s
  | 0x20 => plain v.pub.toNat s
  | _ => plain 0 s

/-- While a window is valid its owner reads and writes it. -/
def forceOwner (v : Window) : Window :=
  if v.valid then { v with wrd := setBit v.wrd v.owner.toNat true, wwr := setBit v.wwr v.owner.toNat true } else v

/-- A write of WCTL: VALID is set only when slot 64 + w is valid, and a clear waits for the window's pins (14 R356). -/
def writeWctl (keyOk : Bool) (v : Nat) (w : Window) : Window :=
  let n := { w with pages := .ofNat 24 (field v 47 24), owner := .ofNat 6 (field v 13 8) }
  if bitOf v 0 then { n with valid := w.valid || keyOk, closing := false } else { n with closing := w.valid }

def writeWindow (w off v : Nat) (s : State) : State :=
  let mod (f : Window → Window) : State := modWindow w (fun x => forceOwner (f x)) s
  match off with
  | 0x00 => mod (writeWctl (keyOf (64 + w) s).valid v)
  | 0x08 => mod fun x => { x with s2root := nat64 (field v 41 16 * 65536) }
  | 0x10 => mod fun x => { x with wrd := nat64 v, wwr := x.wwr &&& nat64 v }
  | 0x18 => mod fun x => { x with wwr := nat64 v &&& x.wrd }
  | _ => s

def readKey (off : Nat) (s : State) : Word × State :=
  match regIndex 0x2000 8 128 off with
  | some n => plain ((keyOf n s).tree.toNat * 65536 + b2n (keyOf n s).valid) s
  | none => plain 0 s

/-- A write of KCTL: ERASE; TREE while VALID is 0; VALID only over an empty tree (14 R355). -/
def writeKctl (n v : Nat) (s : State) : State :=
  let k := keyOf n s
  if bitOf v 1 then { s with keys := s.keys.put n (eraseSlot k) }
  else
    let k1 := if k.valid then k else { k with tree := .ofNat 32 (field v 47 16) }
    { s with keys := s.keys.put n { k1 with valid := bitOf v 0 && (k.valid || rootClear n s) } }

def writeKey (off v : Nat) (s : State) : State :=
  match regIndex 0 8 1024 off, regIndex 0x2000 8 128 off with
  | some i, _ =>
    let k := keyOf (i / 8) s
    if k.valid || 4 ≤ i % 8 then s
    else { s with keys := s.keys.put (i / 8) { k with key := .ofNat 256 (setField k.key.toNat (64 * (i % 8) + 63) (64 * (i % 8)) (v % 2 ^ 64)) } }
  | _, some n => writeKctl n v s
  | none, none => s

/-! ## Configuration space (14 R360) -/

/-- The instance an address names: a site, a rink, a die, a function, a window. -/
def instanceOf (who : Requester) (block inst : Nat) (s : State) : Nat :=
  match block, who with
  | 1, .pf => inst % 512
  | 1, .rink q => (siteOfLogical q inst s).getD 0
  | 2, .rink q => if inst = 0xFFFF then q else inst
  | 4, .rink q => if inst = 0xFFFF then rinkFn q s else inst
  | 4, .pf => if inst = 0xFFFF then 0 else inst
  | _, _ => inst

/-- A read of configuration space by a requester that reaches the block; 8-byte registers. -/
def readCfg (who : Requester) (addr : Nat) (s : State) : Word × State :=
  let block := field addr 39 32
  let i := instanceOf who block (field addr 31 16) s
  let off := addr % 65536
  if !configReach s who addr then plain 0 s
  else
    match block with
    | 1 => readCore who i off s
    | 2 => readRink i off s
    | 3 => readDie who i off s
    | 4 => readTrans i off s
    | 5 => readWindow i off s
    | _ => readKey off s

def writeCfg (who : Requester) (addr v : Nat) (s : State) : State :=
  let block := field addr 39 32
  let i := instanceOf who block (field addr 31 16) s
  let off := addr % 65536
  if !configReach s who addr then s
  else
    match block with
    | 1 => writeCore who i off v s
    | 2 => writeRink who i off v s
    | 3 => if isPf who then writeDie i off v s else s
    | 4 => writeTrans who i off v s
    | 5 => if isPf who then writeWindow i off v s else s
    | _ => writeKey off v s

/-! ## BAR0 (13 R326, 19 R441 to R443) -/

/-- STATE of a job slot. -/
def slotState (fn slot : Nat) (s : State) : Nat :=
  let sl := (fnOf fn s).slots.get JobSlot.reset slot
  if slotWaits fn slot s then 3
  else if s.rinks.cells.any fun q => q.2.valid && q.2.vf.toNat == fn && (match q.2.work.running with
      | some j => j.slot == slot
      | none => false) then 1
  else match sl.queue with
    | j :: _ => if j.image then 2 else 0
    | [] => 0

def readSlot (fn slot o : Nat) (s : State) : Nat :=
  let sl := (fnOf fn s).slots.get JobSlot.reset slot
  match o with
  | 0x00 => sl.jgraph.toNat
  | 0x08 => sl.jarg.toNat
  | 0x10 => sl.arglen.toNat * 2 ^ 32 + sl.prio.toNat
  | 0x18 => sl.jsave.toNat
  | 0x20 => sl.seq.toNat * 2 ^ 32 + sl.queue.length * 2 ^ 16 + slotState fn slot s
  | _ => 0

/-- A doubleword of a byte array in BAR0. -/
def barBytes (b : List Byte) (o : Nat) : Nat := leNat ((b.drop o).take 8)

def readBar (fn off : Nat) (s : State) : Word × State :=
  let f := fnOf fn s
  if 0x200 ≤ off ∧ off < 0x400 then plain (readSlot fn ((off - 0x200) / 0x40) ((off - 0x200) % 0x40) s) s
  else if 0x4000 ≤ off ∧ off < 0x4070 then (if fn = 0 then readPower (off - 0x4000 + 0x1200) s else plain 0 s)
  else if 0x5000 ≤ off ∧ off < 0x5020 then plain (barBytes f.nonce (off - 0x5000)) s
  else if 0x5100 ≤ off ∧ off < 0x5278 then plain (barBytes f.report (off - 0x5100)) s
  else if 0x5400 ≤ off ∧ off < 0x5500 then plain (barBytes s.boot.endorsement (off - 0x5400)) s
  else
    match off with
    | 0x000 => plain (b2n f.en * 2 ^ 18 + b2n f.rostrict * 2 ^ 17 + b2n f.aint * 2 ^ 16 + f.vec.toNat) s
    | 0x008 => plain f.jbase.toNat s
    | 0x010 => plain f.jlog.toNat s
    | 0x018 => plain f.jhead.toNat s
    | 0x020 => plain f.jtail.toNat s
    | 0x028 => (nat64 f.rocnt.toNat, modFn fn (fun f => { f with rocnt := 0 }) s)
    | 0x030 => (nat64 f.refcnt.toNat, modFn fn (fun f => { f with refcnt := 0 }) s)
    | 0x5020 => plain (b2n f.attcmd) s
    | 0x5030 => plain s.boot.stat s
    | _ => plain 0 s

def writeSlot (fn slot o v : Nat) (relaxed : Bool) (s : State) : State :=
  match o with
  | 0x00 => modSlot fn slot (fun j => { j with jgraph := nat64 v }) s
  | 0x08 => modSlot fn slot (fun j => { j with jarg := nat64 v }) s
  | 0x10 => writeJctl fn slot v relaxed s
  | _ => s

def putNonce (o v : Nat) (f : Fn) : Fn := { f with nonce := f.nonce.take o ++ leBytes 8 v ++ f.nonce.drop (o + 8) }

def writeBar (fn off v : Nat) (relaxed : Bool) (s : State) : State :=
  if 0x200 ≤ off ∧ off < 0x400 then writeSlot fn ((off - 0x200) / 0x40) ((off - 0x200) % 0x40) v relaxed s
  else if 0x4000 ≤ off ∧ off < 0x4070 then (if fn = 0 then writePowerReg (off - 0x4000 + 0x1200) v s else s)
  else if 0x5000 ≤ off ∧ off < 0x5020 then modFn fn (putNonce (off - 0x5000) v) s
  else
    match off with
    | 0x000 => modFn fn (fun f => { f with en := bitOf v 18, rostrict := bitOf v 17, aint := bitOf v 16, vec := .ofNat 16 v }) s
    | 0x008 => modFn fn (fun f => { f with jbase := nat64 (v / 256 * 256) }) s
    | 0x010 => modFn fn (fun f => { f with jlog := .ofNat 5 (max 6 (min 20 (v % 32))) }) s
    | 0x020 => modFn fn (fun f => { f with jtail := .ofNat 32 v }) s
    | 0x5020 => if bitOf v 0 then modFn fn (fun f => { f with attcmd := true }) s else s
    | _ => s

/-! ## The events -/

/-- A register that a requester names: a configuration address, or for the PF block 0, BAR0 of the function INST (notes/assumptions/31.md). -/
def readReg (who : Requester) (addr : Nat) (s : State) : Word × State :=
  if isPf who && field addr 63 32 == 0 then (if field addr 31 16 ≤ 64 then readBar (field addr 31 16) (addr % 65536) s else plain 0 s)
  else readCfg who addr s

/-- The PF sets a slot's JSAVE, which the function only reads (13 R326). -/
def writeJsave (fn off v : Nat) (s : State) : State :=
  if fn ≤ 64 ∧ 0x200 ≤ off ∧ off < 0x400 ∧ (off - 0x200) % 0x40 = 0x18 then
    modSlot fn ((off - 0x200) / 0x40) (fun j => { j with jsave := nat64 (v / 256 * 256) }) s
  else s

/-- READ_CLEAR_REGISTER (00 R11). -/
def execReadClearRegister (who : Requester) (addr : Word) (s : State) : Outcome State Fault Refusal :=
  let p := readReg who addr.toNat s
  .next (send (.regRead p.1) p.2)

/-- REGISTER_WRITE (00 R11); a PF write also wakes the device (19 R437). -/
def execRegisterWrite (who : Requester) (addr val : Word) (s : State) : Outcome State Fault Refusal :=
  let a := addr.toNat
  let s1 := if isPf who then wake s else s
  .next (if isPf who && field a 63 32 == 0 then writeJsave (field a 31 16) (a % 65536) val.toNat s1 else writeCfg who a val.toNat s1)

end Sys2Proof.Machine
end

