-- ==== Sys2Proof/Machine/Access.lean ====
section
/-!
DEFINITION. How accesses that wait are performed: a context's buffers (04 R114 to R120), off-chip instruction fetch (09 R255), host completions and the
host's own accesses (11 R298, 14 R359), and the atomic units (04 R118, R119, 11 R294).
-/

namespace Sys2Proof.Machine

open Host (Outcome)

/-! ## The buffers (R114, R116) -/

/-- The same virtual bytes in the same space. -/
def sameSpot (a b : Access) : Bool := a.space == b.space && decide (a.va < b.va + b.len ∧ b.va < a.va + a.len)

/-- The load that may be performed next: the oldest, once everything before the latest MARK ahead of it is. -/
def mayLoad (now : Nat) (b : Buffers) : Option Access :=
  match b.loads with
  | a :: _ => if a.due ≤ now && !b.atomicOut && b.stores.all (fun q => decide (a.epoch ≤ q.epoch)) then some a else none
  | [] => none

/-- The store that may be performed next; not before an older load of the same bytes. -/
def mayStore (now : Nat) (b : Buffers) : Option Access :=
  match b.stores with
  | a :: _ =>
    if a.due ≤ now && !b.atomicOut && b.loads.all (fun q => decide (a.epoch ≤ q.epoch) && !(decide (q.order < a.order) && sameSpot a q))
    then some a else none
  | [] => none

/-- The older stores of the bytes a load reads, oldest first. -/
def olderStores (b : Buffers) (a : Access) : List Access := b.stores.filter fun q => decide (q.order < a.order) && sameSpot a q

/-- Byte `i` of a load as the youngest older store gives it. -/
def forwarded (b : Buffers) (a : Access) (i : Nat) : Option Byte :=
  ((olderStores b a).filter fun q => decide (q.va ≤ a.va + i ∧ a.va + i < q.va + q.len)).getLast?.map fun q => nth 0 q.data (a.va + i - q.va)

def allForwarded (b : Buffers) (a : Access) : Bool := (List.range a.len).all fun i => (forwarded b a i).isSome

/-- The bytes a load returns over what memory holds. -/
def overlay (b : Buffers) (a : Access) (mem : List Byte) : List Byte :=
  (List.range a.len).map fun i => (forwarded b a i).getD (nth 0 mem i)

/-- The tag of the loaded bytes: the memory's, or that of a capability store they are taken from. Outside TM none is kept (04 R113). -/
def overlayTag (b : Buffers) (a : Access) (mem : Bool) : Bool :=
  match a.target, (olderStores b a).getLast? with
  | .tm _ _, some q => (match q.kind with
    | .capability => q.tag && q.va == a.va
    | _ => false)
  | .tm _ _, none => mem
  | _, _ => false

/-- The load leaves its buffer and its register takes the value. -/
def finishAccess (k : Nat) (x : Side) (a : Access) (mem : List Byte) (tag : Bool) (s : State) : State :=
  modSite k (fun c => modCtx x (fun v =>
    let bytes := overlay v.buf a mem
    finishLoad c.now a.lat a.kind a.dst bytes (a.ldc && overlayTag v.buf a tag) { v with buf := { v.buf with loads := v.buf.loads.drop 1 } }) c) s

/-- The load leaves its buffer without a value. -/
def dropLoad (k : Nat) (x : Side) (a : Access) (s : State) : State :=
  modSite k (modCtx x fun v => setPending a.kind a.dst false { v with buf := { v.buf with loads := v.buf.loads.drop 1 } }) s

def dropStore (k : Nat) (x : Side) (s : State) : State := modSite k (modCtx x fun v => { v with buf := { v.buf with stores := v.buf.stores.drop 1 } }) s

/-! ## TM accesses in free mode -/

/-- The banks of a span are free in this beat. -/
def spanFree (c : Site) (addr n : Nat) (w : Bool) : Bool := (spanGroups (addr, n, w)).all (bankFree c)

/-- The bank is taken in this beat. -/
def takeBank (r : Nat) (a : Act) (c : Site) : Site := { c with landed := c.landed ++ [⟨c.now, c.now, deviceStream, none, r, false, a⟩] }

/-- A store of the context still reaches an invalid group that its load reads. -/
def groupComing (b : Buffers) (a : Access) (j g : Nat) : Bool :=
  b.stores.any fun q => decide (q.order < a.order) && (match q.target with
    | .tm i addr => i == j && decide (addr < g * 4096 + 4096 ∧ g * 4096 < addr + q.len)
    | _ => false)

/-- The place in R258's order of a context's access to the TM of core `j`: at home its own, elsewhere by the direction in which it arrives. -/
def arrivalPlace (k j : Nat) (x : Side) (s : State) : Nat :=
  if j = k then ctxHead x
  else
    let r := headRink (site k s) (ctxHead x)
    let pos (i : Nat) : Nat × Nat := posOf r ((logicalOfSite r i s).getD 0) s
    match ((routeFrom 64 (pos k) (pos j) 0).map (·.1)).reverse with
    | b :: a :: _ => 5 + wayTo a b
    | _ => 5

/-- The context's next load, if it goes to TM and its bank is free. A group that is no longer valid poisons it (10 R263). -/
def performTmLoad (k : Nat) (x : Side) (s : State) : State :=
  let c := site k s
  let b := (ctxOf c x).buf
  match mayLoad c.now b with
  | none => s
  | some a =>
    match a.target with
    | .tm j addr =>
      let d := site j s
      let r := headRink c (ctxHead x)
      if !spanFree d addr a.len false then modSite k (countEvent (liveJob s) r 0x08 1) s
      else
        let bad := (spanGroups (addr, a.len, false)).filter fun g => !(groupOf d g).valid
        let s1 := modSite j (takeBank r (.ccLoad k x addr a.len a.kind a.ldc a.dst)) s
        if bad.isEmpty || allForwarded b a then
          match if allForwarded b a then none else spoiled d.tm addr a.len with
          | some e => asCtx k x (ccStop (.softTrap (some j) e)) (dropLoad k x a s1)
          | none => finishAccess k x a (tmRead d.tm addr a.len) (d.tm.tags.get false (addr / 16)) (modSite j (corrected addr a.len) s1)
        else if bad.any (groupComing b a j) then s
        else asCtx k x (ccStop (.tmTrap 0x19 0 3 addr))
          (dropLoad k x a (modSite k (latchTm (requestRank false (c.now - a.made) (arrivalPlace k j x s)) 3 addr) s1))
    | _ => s

/-- The context's next store, if it goes to TM and its bank is free. -/
def performTmStore (k : Nat) (x : Side) (s : State) : State :=
  let c := site k s
  match mayStore c.now (ctxOf c x).buf with
  | none => s
  | some a =>
    match a.target with
    | .tm j addr =>
      if !spanFree (site j s) addr a.len true then modSite k (countEvent (liveJob s) (headRink c (ctxHead x)) 0x08 1) s
      else
        let tag := match a.kind with
          | .capability => some a.tag
          | _ => none
        let act : Act := .tmStore addr a.data tag
        let r := headRink c (ctxHead x)
        dropStore k x (noteWrite r k j (addr / 4096) (modSite j (fun d => takeBank r act (modTm (tmWrite addr a.data tag) d)) s))
    | _ => s

/-! ## Off-chip accesses and configuration space -/

def ctxRink (k : Nat) (x : Side) (s : State) : Nat := headRink (site k s) (ctxHead x)

/-- The context's next load, if it goes to off-chip memory or configuration space. -/
def offLoad (k : Nat) (x : Side) (s : State) : Option Access :=
  match mayLoad (site k s).now (ctxOf (site k s) x).buf with
  | some a => (match a.target with
    | .machine ma _ _ => if remapping s ma then none else some a
    | .config _ => some a
    | _ => none)
  | none => none

def hostLoad (k : Nat) (x : Side) (s : State) : Option Access :=
  match mayLoad (site k s).now (ctxOf (site k s) x).buf with
  | some a => (match a.target with
    | .hostBus _ _ => some a
    | _ => none)
  | none => none

/-- The context's next store, if it does not go to TM. -/
def offStore (k : Nat) (x : Side) (s : State) : Option Access :=
  match mayStore (site k s).now (ctxOf (site k s) x).buf with
  | some a => (match a.target with
    | .tm _ _ => none
    | .machine ma _ _ => if remapping s ma then none else some a
    | _ => some a)
  | none => none

def performOffLoad (k : Nat) (x : Side) (s : State) : State :=
  match offLoad k x s with
  | none => s
  | some a =>
    let r := ctxRink k x s
    match a.target with
    | .machine ma ia key =>
      if allForwarded (ctxOf (site k s) x).buf a then finishAccess k x a [] false s
      else
        match rinkRead r a.space key ma ia a.len s with
        | some (b, s1) => finishAccess k x a b false s1
        | none => asCtx k x (ccStop (.memTrap (rinkFn r s) ma)) (dropLoad k x a s)
    | .config addr =>
      let p := readCfg (.rink r) addr s
      finishAccess k x a (leBytes 8 p.1.toNat) false p.2
    | _ => s

def performOffStore (k : Nat) (x : Side) (s : State) : State :=
  match offStore k x s with
  | none => s
  | some a =>
    let r := ctxRink k x s
    let s1 := dropStore k x s
    match a.target with
    | .machine ma ia key =>
      match rinkWrite r a.space key ma ia a.data s1 with
      | some s2 => s2
      | none => asCtx k x (ccStop (.memTrap (rinkFn r s) ma)) s1
    | .config addr => asCtx k x (writeCfg (.rink r) addr (leNat a.data)) s1
    | .hostBus fn addr =>
      modSite k (modCtx x fun v => { v with buf := { v.buf with hostDirty := if v.buf.hostDirty.contains fn then v.buf.hostDirty else v.buf.hostDirty ++ [fn] } })
        (hostWrite fn addr a.data s1)
    | .tm _ _ => s

/-! ## Off-chip instruction fetch (09 R255) -/

/-- The half that begins at `a` holds address `pc`. -/
def halfCovers (pc a : Nat) : Bool := decide (a ≤ pc ∧ pc < a + 64)

/-- The address the context fetches from next: the word it waits for, unless a half on its way holds it; else the oldest half it fetches ahead. -/
def nextFetch (x : Ctx) : Option Nat :=
  if x.fetching && !x.ahead.any (halfCovers x.pc.toNat) then some x.pc.toNat else x.ahead.head?

/-- The bytes that a fetch from `a` brings, within the code capability: 16 words, or the delay slots that are left. -/
def fetchLength (x : Ctx) (a : Nat) : Nat :=
  4 * min (if x.slots ≠ 0 ∧ a = x.pc.toNat then x.slots.toNat else 16) ((x.code.bounds.2.toNat - a) / 4)

/-- A half takes the words that came; the words of delay slots stand beside the two halves. -/
def putHalf (a : Nat) (b : List Byte) (x : Ctx) : Ctx :=
  { x with ib := ⟨x.code.space, a, leWords b⟩ :: x.ib.take (if x.slots = 0 then 1 else 2), ahead := x.ahead.filter (· != a),
           fetching := x.fetching && !(decide (a ≤ x.pc.toNat ∧ x.pc.toNat < a + b.length)), ctl := { x.ctl with prepared := false } }

/-- A half fetched ahead that fails is dropped: on the path not taken that raises nothing, and on the other the word is fetched again when it is to issue. -/
def dropHalf (a : Nat) (x : Ctx) : Ctx := { x with ahead := x.ahead.filter (· != a) }

/-- The pieces that can be read, up to the first that fails. -/
def fetchPieces (r space : Nat) : List (Nat × Nat) → State → List Byte × Option Hit × State
  | [], s => ([], none, s)
  | p :: ps, s =>
    match guestPiece r space p s with
    | .error h => ([], some h, s)
    | .ok (b, s1) =>
      let (bs, h, s2) := fetchPieces r space ps s1
      (b ++ bs, h, s2)

/-- A fetch fails at the word that would issue: a fetch fault, precise; what found the error latches or counts it. -/
def fetchFault (k : Nat) (x : Side) (h : Hit) (s : State) : State :=
  let s1 := modSite k (modCtx x fun v => { v with fetching := false, ahead := [] }) s
  let s2 := match h with
    | .walkTrap _ _ fn addr => latchWalk fn addr s1
    | .memTrap fn ma => countMem fn ma 3 s1
    | _ => s1
  asCtx k x (takeTrap false 0x0A 0 false) s2

/-- The address of the context's next fetch, from the host or from memory. -/
def fetchNext (k : Nat) (x : Side) (host : Bool) (s : State) : Option Nat :=
  let v := ctxOf (site k s) x
  if v.ctl.running && v.code.space != 2 && (v.code.space == 5) == host then nextFetch v else none

/-- A fetch failed: at the word that waits to issue, or of a half fetched ahead. -/
def failFetch (k : Nat) (x : Side) (a : Nat) (h : Hit) (s : State) : State :=
  let v := ctxOf (site k s) x
  if v.fetching && a == v.pc.toNat then fetchFault k x h s else modSite k (modCtx x (dropHalf a)) s

/-- A fetch from memory is performed; at a page that is being moved it waits. -/
def performFetch (k : Nat) (x : Side) (s : State) : State :=
  let v := ctxOf (site k s) x
  match fetchNext k x false s with
  | none => s
  | some a =>
    let (b, h, s1) := fetchPieces (ctxRink k x s) v.code.space (piecesOf a (fetchLength v a)) s
    match b, h with
    | [], some (.stall _ _ _ _) => s
    | [], some e => failFetch k x a e s1
    | [], none => modSite k (modCtx x (dropHalf a)) s1
    | _, _ => modSite k (modCtx x (putHalf a b)) s1

/-- OFF_CHIP_ACCESS_PERFORMED (R114, 09 R255): the context's next load, else its fetch; or its next store. -/
def execOffChipAccessPerformed (k : Nat) (x isLoad : Bool) (s : State) : Outcome State Fault Refusal :=
  .next (if !isLoad then performOffStore k x s
    else if (offLoad k x s).isSome then performOffLoad k x s
    else performFetch k x s)

/-! ## Completions from the host (11 R298, 14 R359) -/

/-- A Lift command of the site that waits for a read of host space: a zero-length read (R298), or a chunk that its copy reads. They come back in order. -/
def liftWaits (c : Site) (x : Side) : Option Bool :=
  let waits (q : Option Run) : Bool := match q with
    | some v => v.cmd.ctx == x && (v.flushes != 0 || v.host == .asked)
    | none => false
  if waits c.q.run0 then some false else if waits c.q.run1 then some true else none

/-- The request of a Lift command has come back; one that failed is a memory error, through its core's fault frame (14 R359). -/
def answerLift (k : Nat) (l1 ok : Bool) (s : State) : State :=
  let got (v : Run) : Run := if v.flushes != 0 then { v with flushes := v.flushes - 1 } else { v with host := .granted }
  let s1 := modSite k (modQ (modRunIn l1 got)) s
  if ok then s1
  else
    let t := frameFault 0x1B 0 { s1 with cur := { s1.cur with site := k, lift := true, l1 := l1, coll := false } }
    { t with cur := s.cur }

/-- HOST_READ_COMPLETION (11 R298, 14 R359): a fence's zero-length read, a fetch, the next load, or a read of a Lift command; a load or zero-length read that
failed is a memory error, a fetch that failed a fetch fault (09 R255). -/
def execHostReadCompletion (k : Nat) (x ok : Bool) (s : State) : Outcome State Fault Refusal :=
  let c := site k s
  let v := ctxOf c x
  let fail (s : State) : State := asCtx k x (takeTrap false 0x1B 0 true) s
  if v.buf.hostReads ≠ 0 then
    let s1 := modSite k (modCtx x fun v => { v with buf := { v.buf with hostReads := v.buf.hostReads - 1 } }) s
    .next (if ok then s1 else fail s1)
  else
  match fetchNext k x true s with
  | some a =>
    .next (if ok then modSite k (modCtx x (if fetchLength v a = 0 then dropHalf a else putHalf a (s.host.readBytes a (fetchLength v a)))) s
      else failFetch k x a (.trap 0x1B 0) s)
  | none =>
    match hostLoad k x s with
    | some a =>
      match a.target with
      | .hostBus _ addr => .next (if ok then finishAccess k x a (s.host.readBytes addr a.len) false s else fail (dropLoad k x a s))
      | _ => .next s
    | none =>
      match liftWaits c x with
      | some l1 => .next (answerLift k l1 ok s)
      | none => .next s

/-! ## The host's accesses through a BAR (11 R298, 14 R350; notes/assumptions/31.md) -/

/-- A BAR address of device memory: bit 63 set, then the intermediate address. -/
def barMemory (addr : Nat) : Option Nat := if bitOf addr 63 then some (addr % 2 ^ 48) else none

/-- Where a function's BAR reaches an intermediate address: its machine address and key. A VF's BAR reaches its private memory, not the windows. -/
def barTarget (fn ia : Nat) (writes : Bool) (s : State) : Option (Nat × Option Nat) :=
  if fn = 0 then (if inHBM ia || inLPDDR ia then some (ia, none) else none)
  else if bitOf ia 47 then none
  else match leafOf fn ia s with
    | some l => if l.rd && (!writes || l.w) then some (l.out + ia % l.size, some (fn - 1)) else none
    | none => none

/-- A request of the host reaches a page, or a pseudo-channel, that is being moved (11 R297, 18 R422). -/
def barMoves (fn ia n : Nat) (s : State) : Bool :=
  (piecesOf ia n).any fun p => if fn = 0 then remapping s p.1 else !bitOf p.1 47 && (match leafOf fn p.1 s with
    | some l => bitOf l.word1 23 || remapping s (l.out + p.1 % l.size)
    | none => false)

def HostRequest.fn : HostRequest → Nat
  | .write fn _ _ _ => fn
  | .read fn _ _ => fn
  | .atomic fn _ _ => fn
  | .go fn _ _ _ => fn

/-- A request reaches a page or a pseudo-channel that is being moved. -/
def HostRequest.moves (q : HostRequest) (s : State) : Bool :=
  let at' (fn : Nat) (addr : Word) (n : Nat) : Bool := match barMemory addr.toNat with
    | some ia => barMoves fn ia n s
    | none => false
  match q with
  | .write fn addr data _ => at' fn addr data.length
  | .read fn addr len => at' fn addr len
  | .atomic fn _ addr => at' fn addr 8
  | .go _ _ _ _ => false

/-- Only a write with relaxed ordering may go ahead of the earlier requests of its function (R298). -/
def HostRequest.relaxed : HostRequest → Bool
  | .write _ _ _ relaxed => relaxed
  | .go _ _ _ relaxed => relaxed
  | _ => false

/-- A request waits: for a page that is being moved, or behind an earlier one. -/
def HostRequest.waits (q : HostRequest) (before : List HostRequest) (s : State) : Bool :=
  q.moves s || (!q.relaxed && before.any fun p => p.fn == q.fn)

/-- A read of a granule for a function: counted on its unit, a failed check too (15 R372). -/
def hostSees (fn : Nat) (key : Option Nat) (ma ia n : Nat) (s0 : State) : Option (List Byte) × State :=
  let s := useFrame key ma s0
  match offRead s key ma ia n with
  | some b => (some b, (memErrors 1 ma s).foldl (fun s _ => countMem fn ma 3 s) (countMem fn ma 0 s))
  | none => (none, countMem fn ma 3 s)

def barRead (fn : Nat) : List (Nat × Nat) → State → Option (List Byte) × State
  | [], s => (some [], s)
  | (ia, n) :: ps, s =>
    match barTarget fn ia false s with
    | none => (none, s)
    | some (ma, key) =>
      match hostSees fn key ma ia n s with
      | (none, s1) => (none, s1)
      | (some b, s1) => ((barRead fn ps s1).1.map (b ++ ·), (barRead fn ps s1).2)

def barWrite (fn : Nat) : List (Nat × Nat) → List Byte → State → State
  | [], _, s => s
  | (ia, n) :: ps, data, s =>
    match barTarget fn ia true s with
    | none => s
    | some (ma, key) =>
      barWrite fn ps (data.drop n) (match offWrite key ma ia (data.take n) s with
        | some t => noteStored ma n (countMem fn ma 1 t)
        | none => countMem fn ma 3 s)

/-- Registers of BAR0 are written a doubleword at a time; a 64-byte write at 0x5040 by the PF extends MEAS3 (19 R442). -/
def barWords (fn : Nat) (relaxed : Bool) : Nat → Nat → List Byte → State → State
  | 0, _, _, s => s
  | n + 1, off, data, s => barWords fn relaxed n (off + 8) (data.drop 8) (writeBar fn off (leNat (data.take 8)) relaxed s)

def writeBar0 (fn off : Nat) (data : List Byte) (relaxed : Bool) (s : State) : State :=
  if fn = 0 ∧ off = 0x5040 ∧ data.length = 64 then { s with boot := { s.boot with meas3 := sha512 (s.boot.meas3 ++ data) } }
  else if off % 8 = 0 ∧ data.length % 8 = 0 then barWords fn relaxed (data.length / 8) off data s
  else s

/-- A PF write of a register wakes the device (19 R437). -/
def hostWrites (fn : Nat) (addr : Word) (data : List Byte) (relaxed : Bool) (s : State) : State :=
  match barMemory addr.toNat with
  | some ia => barWrite fn (piecesOf ia data.length) data s
  | none => if 64 < fn then s else writeBar0 fn (addr.toNat % 65536) data relaxed (if fn = 0 then wake s else s)

def readBarWords (fn : Nat) : Nat → Nat → State → List Byte × State
  | 0, _, s => ([], s)
  | n + 1, off, s =>
    let (v, s1) := readBar fn off s
    let (bs, s2) := readBarWords fn n (off + 8) s1
    (leBytes 8 v.toNat ++ bs, s2)

/-- The bytes go back to the host, or none where the request fails. -/
def hostReads (fn : Nat) (addr : Word) (len : Nat) (s : State) : State :=
  match barMemory addr.toNat with
  | some ia =>
    let p := barRead fn (piecesOf ia len) s
    send (.hostRead fn (p.1.getD [])) p.2
  | none =>
    let off := addr.toNat % 65536
    let base := off / 8 * 8
    let (bs, s1) := readBarWords fn ((off + len + 7) / 8 - off / 8) base s
    send (.hostRead fn ((bs.drop (off - base)).take len)) s1

/-! ## The atomic units (04 R118, R119, 11 R294) -/

/-- The new value of a location from the old one and the operands, at a width; none where a CAS does not write. -/
def atomicNew (op : AtomicOp) (n m v e : Nat) : Option Nat :=
  let sg (x : Nat) : Int := sext n x
  match op with
  | .add => some ((m + v) % 2 ^ n)
  | .and => some (m &&& v)
  | .or => some (m ||| v)
  | .xor => some (m ^^^ v)
  | .swap => some v
  | .min => some (if sg m ≤ sg v then m else v)
  | .max => some (if sg v ≤ sg m then m else v)
  | .minn => some (min m v)
  | .maxn => some (max m v)
  | .cas => if m = e then some v else none

/-- The request the unit serves next: round-robin by requester, then that requester's oldest. -/
def pickAtomic (b : AtomBank) : Option AtomReq :=
  let q := b.q.take 64
  let above := q.filter fun a => b.ptr < a.requester
  let from' := if above.isEmpty then q else above
  match from' with
  | [] => none
  | a :: rest =>
    let least := rest.foldl (fun m x => min m x.requester) a.requester
    q.find? (·.requester == least)

def isHost (a : AtomReq) : Bool := decide (1024 ≤ a.requester)

/-- The old value goes back to the requester. -/
def answerAtomic (a : AtomReq) (m : Nat) (s : State) : State :=
  if isHost a then send (.hostAtomic (a.requester - 1024) (some (nat64 m))) s
  else if !a.wanted then s
  else
    let v : Word := if a.dbl then nat64 m else .ofInt 64 (sext 32 m)
    modSite a.site (fun c => modCtx a.ctx (fun x =>
      putS c.now 0 (.ofNat 5 a.dst) v (setPending .unsigned a.dst false { x with buf := { x.buf with atomicOut := false } })) c) s

/-- A request whose location fails its check. -/
def failAtomic (a : AtomReq) (s : State) : State :=
  if isHost a then send (.hostAtomic (a.requester - 1024) none) (countMem (a.requester - 1024) a.ma 3 s)
  else if !a.wanted then countMem (rinkFn (ctxRink a.site a.ctx s) s) a.ma 3 s
  else
    let fn := rinkFn (ctxRink a.site a.ctx s) s
    asCtx a.site a.ctx (ccStop (.memTrap fn a.ma))
      (modSite a.site (modCtx a.ctx fun x => setPending .unsigned a.dst false { x with buf := { x.buf with atomicOut := false } }) s)

def atomLen (a : AtomReq) : Nat := if a.dbl then 8 else 4

/-- A plain write of this cycle has written the location: atomics come first in a cycle, so that this one is of the next (11 R295); or its pseudo-channel is being
copied (18 R422). -/
def atomWaits (a : AtomReq) (s : State) : Bool := remapping s a.ma || s.stored.any fun p => decide (a.ma < p.1 + p.2 ∧ p.1 < a.ma + atomLen a)

/-- An atomic counts on its unit, a context's as an access of its page too. -/
def countAtomic (a : AtomReq) (r : Nat) (s : State) : State :=
  if isHost a then countMem (a.requester - 1024) a.ma 2 s else countAccess r a.space a.ma a.ia 2 (countCorrected r a.ma s)

/-- A context that has read the latest state of a window's granule reads no older one after it (11 R291). -/
def sawLatest (a : AtomReq) (r : Nat) (s : State) : State :=
  if isHost a || !bitOf a.ia 47 then s else { s with views := s.views.put (viewKey r a.ia) ⟨[], 0⟩ }

/-- Read and write together, always of the latest state (11 R281, R291). -/
def performAtomic (a : AtomReq) (s : State) : State :=
  let n := atomLen a
  let r := ctxRink a.site a.ctx s
  match offRead s a.key a.ma a.ia n with
  | none => failAtomic a s
  | some b =>
    let m := leNat b
    let s1 := sawLatest a r s
    match atomicNew a.op (8 * n) m (a.operand.toNat % 2 ^ (8 * n)) (a.expected.toNat % 2 ^ (8 * n)) with
    | none => answerAtomic a m (countAtomic a r s1)
    | some v =>
      let wrote := if isHost a then offWrite a.key a.ma a.ia (leBytes n v) s1 else rinkPuts r a.key a.ma a.ia (leBytes n v) s1
      match wrote with
      | none => failAtomic a s1
      | some s2 => answerAtomic a m (countAtomic a r s2)

/-- The queue without its first entry of a request. -/
def dropReq (a : AtomReq) : List AtomReq → List AtomReq
  | [] => []
  | b :: bs => if b = a then bs else b :: dropReq a bs

/-- ATOMIC_UNIT_SERVE (11 R294, R295). -/
def execAtomicUnitServe (bank : Nat) (s : State) : Outcome State Fault Refusal :=
  let b := s.atomics.get AtomBank.reset bank
  .next (match pickAtomic b with
    | none => s
    | some a => if atomWaits a s then s else performAtomic a { s with atomics := s.atomics.put bank { ptr := a.requester, q := dropReq a b.q } })

/-- The atomic of a PCIe AtomicOp; none of 128 bits. -/
def hostOp (op : HostAtomic) : Option (AtomicOp × Bool × Word × Word) :=
  match op with
  | .fetchAdd d v => some (.add, d, v, 0)
  | .swapOp d v => some (.swap, d, v, 0)
  | .casOp d e v => some (.cas, d, v, e)
  | .cas128 => none

/-- An atomic of the host is queued at the unit of its location; one that is not supported changes nothing. -/
def hostAtomics (fn : Nat) (op : HostAtomic) (addr : Word) (s : State) : State :=
  let fail : State := send (.hostAtomic fn none) s
  match hostOp op, barMemory addr.toNat with
  | some (o, dbl, v, e), some ia =>
    match barTarget fn ia true s with
    | some (ma, key) =>
      if ia % (if dbl then 8 else 4) ≠ 0 then fail
      else
        let bank := Config.bankOf (ma / 256)
        let q := s.atomics.get AtomBank.reset bank
        let req : AtomReq := { requester := 1024 + fn, op := o, dbl := dbl, space := 0, ma := ma, ia := ia, key := key, operand := v, expected := e,
                               site := 0, ctx := false, dst := 0, wanted := true }
        { s with atomics := s.atomics.put bank { q with q := q.q ++ [req] } }
    | none => fail
  | _, _ => fail

/-! ## The host's requests (11 R297, R298) -/

def HostRequest.serve (q : HostRequest) (s : State) : State :=
  match q with
  | .write fn addr data relaxed => hostWrites fn addr data relaxed s
  | .read fn addr len => hostReads fn addr len s
  | .atomic fn op addr => hostAtomics fn op addr s
  | .go fn slot jctl relaxed => writeJctl fn slot jctl relaxed s

/-- A request comes in: it is served, or waits behind a page move. -/
def takeRequest (q : HostRequest) (s : State) : State := if q.waits s.held s then { s with held := s.held ++ [q] } else q.serve s

/-- The oldest request that waits no more, between those before it and those after it. -/
def readyRequest (before : List HostRequest) (s : State) : List HostRequest → Option (HostRequest × List HostRequest)
  | [] => none
  | q :: qs => if q.waits before s then readyRequest (before ++ [q]) s qs else some (q, before ++ qs)

/-- Requests that waited for a page move go on. -/
def resumeRequest (s : State) : Option State := (readyRequest [] s s.held).map fun p => p.1.serve { s with held := p.2 }

/-- JOB_GO (13 R327, R329): one with relaxed ordering clear passes no earlier write of its function. -/
def execJobGo (fn slot : Nat) (jctl : Word) (relaxed : Bool) (s : State) : Outcome State Fault Refusal :=
  .next (takeRequest (.go fn slot (jctl.toNat / 16 * 16 + 4 + jctl.toNat % 4 + 8 * b2n (bitOf jctl.toNat 3)) relaxed) s)

/-- HOST_BAR_WRITE (11 R298). -/
def execHostBarWrite (fn : Nat) (addr : Word) (data : List Byte) (relaxed : Bool) (s : State) : Outcome State Fault Refusal :=
  .next (takeRequest (.write fn addr data relaxed) s)

/-- HOST_BAR_READ (11 R298). -/
def execHostBarRead (fn : Nat) (addr : Word) (len : Nat) (s : State) : Outcome State Fault Refusal := .next (takeRequest (.read fn addr len) s)

/-- HOST_ATOMICOP (11 R294). -/
def execHostAtomicop (fn : Nat) (op : HostAtomic) (addr : Word) (s : State) : Outcome State Fault Refusal := .next (takeRequest (.atomic fn op addr) s)

end Sys2Proof.Machine
end

