-- ==== Sys2Proof/Machine/Vector.lean ====
section
/-!
DEFINITION. Vector engine words over lanes: operand delivery with its latches, the common form of a word, arithmetic, logic, shifts, moves,
compares and predicates (06 R151 to R167).
-/

namespace Sys2Proof.Machine

open Host (Outcome)

/-! ## Operands (02 R48 to R53, 06 R153) -/

def srcField (f : VFields) (i : Nat) : Nat := match i with
  | 0 => f.va.toNat
  | 1 => f.vb.toNat
  | _ => f.vc.toNat

def srcHeld (f : VFields) (i : Nat) : Bool := match i with
  | 0 => f.holdA
  | 1 => f.holdB
  | _ => f.holdC

def latchOf (v : Ve) (i : Nat) : Option (List Lane) := match i with
  | 0 => v.latchA
  | 1 => v.latchB
  | _ => v.latchC

def setLatch (i : Nat) (l : List Lane) (v : Ve) : Ve := match i with
  | 0 => { v with latchA := some l }
  | 1 => { v with latchB := some l }
  | _ => { v with latchC := some l }

/-- Reading vector register `n`: an earlier result pending, or an invalid register (R153, R51). -/
def readV (now : Nat) (v : Ve) (n : Nat) : Option Hit :=
  let p := physV v.loop n
  if now < v.vReady.get 0 p then some (.stall 5 n 2 none) else hitIf (!v.vValid.getLsbD p) (.trap 2 (0x2000 + n))

def readP (now : Nat) (v : Ve) (n : Nat) : Option Hit :=
  let p := physP v.loop n
  if now < v.pReady.get 0 p then some (.stall 5 n 3 none) else hitIf (!v.pValid.getLsbD p) (.trap 2 (0x3000 + n))

def readX (now : Nat) (v : Ve) (n : Nat) : Option Hit :=
  if now < v.xReady.get 0 n then some (.stall 5 n 4 none) else hitIf (!v.xValid.getLsbD n) (.trap 2 (0x4000 + n))

/-- Writing ahead of a pending write (R153). -/
def writeV (now : Nat) (v : Ve) (n : Nat) : Option Hit := hitIf (decide (now < v.vReady.get 0 (physV v.loop n))) (.stall 5 n 2 none)

def writeP (now : Nat) (v : Ve) (n : Nat) : Option Hit := hitIf (decide (now < v.pReady.get 0 (physP v.loop n))) (.stall 5 n 3 none)

def writeX (now : Nat) (v : Ve) (n : Nat) : Option Hit := hitIf (decide (now < v.xReady.get 0 n)) (.stall 5 n 4 none)

def getV (v : Ve) (n : Nat) : List Lane := v.v.get [] (physV v.loop n)

def getP (v : Ve) (n : Nat) : BitVec 64 := v.p.get 0 (physP v.loop n)

def getX (v : Ve) (n : Nat) : BitVec 32 := v.x.get 0 n

/-- A source through its latch: a held one uses what the latch last loaded, and an empty latch traps (R52). -/
def srcHit (now : Nat) (v : Ve) (f : VFields) (i : Nat) : Option Hit :=
  if srcHeld f i then hitIf (latchOf v i).isNone (.trap 2 (0x5000 + i)) else readV now v (srcField f i)

def srcVal (v : Ve) (f : VFields) (i : Nat) : List Lane :=
  if srcHeld f i then (latchOf v i).getD [] else getV v (srcField f i)

/-- The latches of the sources that are read load their values, from before the word's own write (R53). -/
def loadLatches (f : VFields) (srcs : List Nat) (old v : Ve) : Ve :=
  srcs.foldl (fun v i => if srcHeld f i then v else setLatch i (getV old (srcField f i)) v) v

/-- The governing predicate: none for pred 0 (R79). -/
def governHit (now : Nat) (v : Ve) (f : VFields) : Option Hit := if f.pred = 0 then none else readP now v f.pred.toNat

def activeLanes (v : Ve) (f : VFields) : BitVec 64 := if f.pred = 0 then BitVec.allOnes 64 else getP v f.pred.toNat

/-- A vector register takes lanes; the others keep their value under merge, or are zero under zero and in a register that was
invalid (R79, R50). -/
def putV (now lat : Nat) (n : Nat) (act : BitVec 64) (zero : Bool) (new : List Lane) (v : Ve) : Ve :=
  let p := physV v.loop n
  let old := v.v.get [] p
  let keep := !zero && v.vValid.getLsbD p
  let lanes := (List.range 64).map fun i => if act.getLsbD i then nth 0 new i else if keep then nth 0 old i else 0
  { v with v := v.v.put p lanes, vValid := setBit v.vValid p true, vReady := v.vReady.put p (now + lat) }

def putP (now lat : Nat) (n : Nat) (act : BitVec 64) (zero : Bool) (new : BitVec 64) (v : Ve) : Ve :=
  let p := physP v.loop n
  let old := if zero || !v.pValid.getLsbD p then 0 else v.p.get 0 p
  { v with p := v.p.put p ((new &&& act) ||| (old &&& ~~~act)), pValid := setBit v.pValid p true, pReady := v.pReady.put p (now + lat) }

def putX (now lat : Nat) (n : Nat) (w : BitVec 32) (v : Ve) : Ve :=
  { v with x := v.x.put n w, xValid := setBit v.xValid n true, xReady := v.xReady.put n (now + lat) }

/-! ## The common form of a word -/

def veRink (c : Site) : Nat := headRink c 2

/-- The context that gives the VE its numeric controls and takes its flags (R151). -/
def veHome (c : Site) : Ctx := ctxOf c (homeCtx c (veRink c))

def veEnv (c : Site) : NumEnv := numEnv (sampleFctl c.now (veHome c)) (sampleSrkey c.now (veHome c))

/-- A taken vloop turns the ring and writes its stage bit after its second slot (R181). A slot's result to that predicate lands
later than the stage bit, and remains. -/
def turnLoop (next : Nat) (v : Ve) : Ve :=
  let l := v.loop
  let l' := { l with turn := .ofNat 6 ((l.turn.toNat + 1) % l.size.toNat), pturn := l.pturn + 1 }
  let p := physP l' 8
  let v' := { v with loop := l', taken := false }
  if next < v.pReady.get 0 p then v'
  else { v' with p := v.p.put p (if l.pass < l.count then BitVec.allOnes 64 else 0), pValid := setBit v.pValid p true }

/-- The program counter after a word (R181). -/
def advanceVe (next : Nat) (v : Ve) : Ve :=
  if v.slots = 2 then { v with pc := v.pc + 8, slots := 1 }
  else if v.slots = 1 then
    let v' := { v with pc := v.npc, slots := 0 }
    if v.taken then turnLoop next v' else { v' with looping := false }
  else { v with pc := v.pc + 8 }

/-- A VE word of occupancy `occ` issues in this beat (R86). -/
def veIssue (now occ : Nat) (v : Ve) : Ve :=
  { v with ctl := { v.ctl with next := now + occ, prepared := false, cls := .issuing } }

/-- A VE word: its checks, its effect, the latches of its sources, then the next word. -/
def veWord (f : VFields) (srcs : List Nat) (extra : List (Option Hit)) (occ : Nat) (effect : State → State) (s : State) : State :=
  let c := mySite s
  match firstHit (srcs.map (srcHit c.now c.ve f) ++ extra) with
  | some h => engineStop 2 h s
  | none => modMyVe (fun v => veIssue c.now occ (advanceVe (c.now + occ) (loadLatches f srcs c.ve v))) (effect s)

/-- Numeric flags merge into the home context in the beat the result is written (R151). -/
def laterFlags (stream r lat : Nat) (x : Side) (fl : Fl) (c : Site) : Site :=
  if fl = 0 then c else { c with pipe := c.pipe ++ [⟨c.now + lat, c.now, stream, none, r, false, .mergeFlags x fl⟩] }

def veFlags (lat : Nat) (fl : Fl) (c : Site) : Site := laterFlags 2 (veRink c) lat (homeCtx c (veRink c)) fl c

/-- The results and flags of the active lanes; inactive lanes compute nothing (R154). -/
def laneMap (act : BitVec 64) (g : Nat → Lane × Fl) : List (Lane × Fl) :=
  (List.range 64).map fun i => if act.getLsbD i then g i else (0, 0)

def allFlags (l : List (Lane × Fl)) : Fl := (l.map (·.2)).foldl (· ||| ·) 0

/-- Two 16-bit elements to a lane. -/
def is16 (ty : BitVec 3) : Bool := ty == 1 || ty == 4 || ty == 5

def isFloat (ty : BitVec 3) : Bool := ty == 0 || ty == 1

/-- A function of elements on a lane: on one of 32 bits, or on both of 16 (R155). -/
def elemLane (w16 : Bool) (g : Nat → List Nat → Nat × Fl) (srcs : List (List Lane)) (i : Nat) : Lane × Fl :=
  let a := srcs.map fun l => (nth 0 l i).toNat
  if w16 then
    let lo := g (2 * i) (a.map (· % 65536))
    let hi := g (2 * i + 1) (a.map (· / 65536))
    (.ofNat 32 (lo.1 + hi.1 * 65536), lo.2 ||| hi.2)
  else
    let r := g i a
    (.ofNat 32 r.1, r.2)

/-- A word that writes vector register vd from lane results. -/
def vLanes (f : VFields) (srcs : List Nat) (occ lat : Nat) (g : Site → List (List Lane) → Nat → Lane × Fl) (s : State) : State :=
  let c := mySite s
  let v := c.ve
  let act := activeLanes v f
  let res := laneMap act (g c (srcs.map (srcVal v f)))
  veWord f srcs [governHit c.now v f, writeV c.now v f.vd.toNat] occ (fun s =>
    modMySite (veFlags lat (allFlags res)) (modMyVe (putV c.now lat f.vd.toNat act f.pmode (res.map (·.1))) s)) s

/-- A word on the elements of its type. -/
def vElems (f : VFields) (srcs : List Nat) (lat : Nat) (g : Site → Nat → List Nat → Nat × Fl) (s : State) : State :=
  vLanes f srcs 1 lat (fun c vals i => elemLane (is16 f.ty) (g c) vals i) s

/-! ## Arithmetic (R156 to R160) -/

def fracBits (ty : BitVec 3) : Nat := if ty = 0 then 23 else 7

def elemBits (ty : BitVec 3) : Nat := if is16 ty then 16 else 32

/-- The rounding site of an elementwise operation (R155). -/
def vSite (c : Site) (step i : Nat) : Nat := srAt (veEnv c) step c.ve.loop.pass.toNat i

/-- A floating-point result: the exact value of `g`, rounded once (R156). -/
def floatElem (f : VFields) (g : Nat → List Fp → Fp × Fl) (c : Site) (i : Nat) (a : List Nat) : Nat × Fl :=
  let env := veEnv c
  let rm := resolveRm env f.rnd.toNat
  let x := g rm (a.map (decodeIz env.iz (fracBits f.ty)))
  let r := roundFp (fracBits f.ty) x.1 rm env.oz (vSite c 7 i)
  (r.1, x.2 ||| r.2)

def argF (l : List Fp) (i : Nat) : Fp := nth (.fin false 0 0) l i

/-- An integer result modulo the width (R157). -/
def intElem (ty : BitVec 3) (g : Int → Int → Int) (a : List Nat) : Nat × Fl :=
  (intMod (elemBits ty) (g (intOf ty.toNat (nth 0 a 0)) (intOf ty.toNat (nth 0 a 1))), 0)

def arith2 (f : VFields) (intLat : Nat) (gf : Nat → Fp → Fp → Fp × Fl) (gi : Int → Int → Int) (s : State) : State :=
  vElems f [0, 1] (if isFloat f.ty then 4 else intLat) (fun c i a =>
    if isFloat f.ty then floatElem f (fun rm l => gf rm (argF l 0) (argF l 1)) c i a else intElem f.ty gi a) s

/-- VADD (R156, R157). -/
def execVadd (f : VFields) (s : State) : Outcome State Fault Refusal :=
  .next (arith2 f 2 exactAdd (· + ·) s)

/-- VSUB (R156, R157). -/
def execVsub (f : VFields) (s : State) : Outcome State Fault Refusal :=
  .next (arith2 f 2 (fun rm a b => exactAdd rm a (negFp b)) (· - ·) s)

/-- VMUL (R156, R157). -/
def execVmul (f : VFields) (s : State) : Outcome State Fault Refusal :=
  .next (arith2 f 4 (fun _ => exactMul) (· * ·) s)

def fused (f : VFields) (g : Nat → Fp → Fp → Fp → Fp × Fl) (s : State) : State :=
  vElems f [0, 1, 2] 4 (floatElem f fun rm l => g rm (argF l 0) (argF l 1) (argF l 2)) s

/-- VFMA (R156). -/
def execVfma (f : VFields) (s : State) : Outcome State Fault Refusal := .next (fused f exactFma s)

/-- VFMS (R156): the negation is exact. -/
def execVfms (f : VFields) (s : State) : Outcome State Fault Refusal :=
  .next (fused f (fun rm a b c => exactFma rm a b (negFp c)) s)

/-- VFNMA (R156). -/
def execVfnma (f : VFields) (s : State) : Outcome State Fault Refusal :=
  .next (fused f (fun rm a b c => exactFma rm (negFp a) b c) s)

/-- A value that is representable, as its bits. -/
def encExact (fw : Nat) (x : Fp) : Nat := (roundFp fw x 1 false 0).1

/-- The greater or lesser of two elements (R158). -/
def extremeElem (f : VFields) (big : Bool) (c : Site) (_ : Nat) (a : List Nat) : Nat × Fl :=
  if isFloat f.ty then
    let d := decodeIz (veEnv c).iz (fracBits f.ty)
    let r := fpExtreme big (d (nth 0 a 0)) (d (nth 0 a 1))
    (encExact (fracBits f.ty) r.1, r.2)
  else
    let x := nth 0 a 0
    let y := nth 0 a 1
    let less := decide (intOf f.ty.toNat x < intOf f.ty.toNat y)
    (if less = big then y else x, 0)

def extreme (f : VFields) (big : Bool) (s : State) : State :=
  vElems f [0, 1] (if isFloat f.ty then 4 else 2) (extremeElem f big) s

/-- VMAX (R158). -/
def execVmax (f : VFields) (s : State) : Outcome State Fault Refusal := .next (extreme f true s)

/-- VMIN (R158). -/
def execVmin (f : VFields) (s : State) : Outcome State Fault Refusal := .next (extreme f false s)

/-- The value with the sign `g` gives; a NaN becomes the canonical NaN (R159). -/
def signElem (f : VFields) (g : Bool → Nat → Bool) (c : Site) (_ : Nat) (a : List Nat) : Nat × Fl :=
  let fw := fracBits f.ty
  match decodeIz (veEnv c).iz fw (nth 0 a 0) with
  | .nan sig => (encNan fw, flIf sig flNV)
  | .inf n => (encInf fw (g n (nth 0 a 1)), 0)
  | .fin n m e => (encExact fw (.fin (g n (nth 0 a 1)) m e), 0)

/-- VABS (R159). -/
def execVabs (f : VFields) (s : State) : Outcome State Fault Refusal :=
  .next (vElems f [0] 2 (fun c i a =>
    if isFloat f.ty then signElem f (fun _ _ => false) c i a else intElem f.ty (fun x _ => x.natAbs) a) s)

/-- VNEG (R159). -/
def execVneg (f : VFields) (s : State) : Outcome State Fault Refusal :=
  .next (vElems f [0] 2 (fun c i a =>
    if isFloat f.ty then signElem f (fun n _ => !n) c i a else intElem f.ty (fun x _ => -x) a) s)

/-- VCOPYSGN (R159): the sign of b is read from its stored bits. -/
def execVcopysgn (f : VFields) (s : State) : Outcome State Fault Refusal :=
  .next (vElems f [0, 1] 2 (signElem f fun _ b => bitOf b (fracBits f.ty + 8)) s)

def special (sel : Nat) (f : VFields) (s : State) : State :=
  vElems f [0] 8 (fun c _ a => specialFn sel (veEnv c) (nth 0 a 0)) s

/-- VRCP (R160). -/
def execVrcp (f : VFields) (s : State) : Outcome State Fault Refusal := .next (special 0 f s)

/-- VRSQ (R160). -/
def execVrsq (f : VFields) (s : State) : Outcome State Fault Refusal := .next (special 1 f s)

/-- VEXP2 (R160). -/
def execVexp2 (f : VFields) (s : State) : Outcome State Fault Refusal := .next (special 2 f s)

/-- VLOG2 (R160). -/
def execVlog2 (f : VFields) (s : State) : Outcome State Fault Refusal := .next (special 3 f s)

/-! ## Logic, shifts and moves (R161 to R163) -/

def bitwise (f : VFields) (srcs : List Nat) (g : Lane → Lane → Lane) (s : State) : State :=
  vLanes f srcs 1 2 (fun _ vals i => (g (nth 0 (nth [] vals 0) i) (nth 0 (nth [] vals 1) i), 0)) s

/-- VAND (R161). -/
def execVand (f : VFields) (s : State) : Outcome State Fault Refusal := .next (bitwise f [0, 1] (· &&& ·) s)

/-- VOR (R161). -/
def execVor (f : VFields) (s : State) : Outcome State Fault Refusal := .next (bitwise f [0, 1] (· ||| ·) s)

/-- VXOR (R161). -/
def execVxor (f : VFields) (s : State) : Outcome State Fault Refusal := .next (bitwise f [0, 1] (· ^^^ ·) s)

/-- VNOT (R161). -/
def execVnot (f : VFields) (s : State) : Outcome State Fault Refusal := .next (bitwise f [0] (fun a _ => ~~~a) s)

/-- A shift by the low bits of vb's element (R162). -/
def shiftElems (f : VFields) (g : Nat → Nat → Nat) (s : State) : State :=
  vElems f [0, 1] 2 (fun _ _ a => (g (nth 0 a 0) (nth 0 a 1 % elemBits f.ty), 0)) s

/-- VSHL (R162). -/
def execVshl (f : VFields) (s : State) : Outcome State Fault Refusal :=
  .next (shiftElems f (fun x n => x * 2 ^ n % 2 ^ elemBits f.ty) s)

/-- VSHR (R162). -/
def execVshr (f : VFields) (s : State) : Outcome State Fault Refusal :=
  .next (shiftElems f (fun x n => x / 2 ^ n) s)

/-- VSRA (R162): copies of the top bit on the signed types only. -/
def execVsra (f : VFields) (s : State) : Outcome State Fault Refusal :=
  .next (shiftElems f (fun x n => intMod (elemBits f.ty) (intOf f.ty.toNat x / (2 ^ n : Nat))) s)

/-- VMOV (R163). -/
def execVmov (f : VFields) (s : State) : Outcome State Fault Refusal := .next (bitwise f [0] (fun a _ => a) s)

/-- VMOVI (R163). -/
def execVmovi (f : VFields) (s : State) : Outcome State Fault Refusal :=
  .next (bitwise f [] (fun _ _ => f.aux.signExtend 32) s)

/-- VMOVHI (R163). -/
def execVmovhi (f : VFields) (s : State) : Outcome State Fault Refusal :=
  .next (bitwise f [] (fun _ _ => f.aux.setWidth 32 <<< 18) s)

/-! ## Compare, select and predicates (R164 to R167) -/

/-- A comparison of two elements: 0 eq, 1 ne, 2 lt, 3 le, 4 un. -/
def compareElem (f : VFields) (c : Site) (a b : Nat) : Bool × Fl :=
  let cond := f.vc.toNat
  if isFloat f.ty then
    let x := decodeIz (veEnv c).iz (fracBits f.ty) a
    let y := decodeIz (veEnv c).iz (fracBits f.ty) b
    let un := isNan x || isNan y
    let nv := if cond = 2 ∨ cond = 3 then un else isSnan x || isSnan y
    let r := match cond with
      | 0 => !un && fpEqual x y
      | 1 => un || !fpEqual x y
      | 2 => !un && fpLess x y
      | 3 => !un && (fpLess x y || fpEqual x y)
      | _ => un
    (r, flIf nv flNV)
  else
    let x := intOf f.ty.toNat a
    let y := intOf f.ty.toNat b
    (match cond with
     | 0 => x == y
     | 1 => x != y
     | 2 => decide (x < y)
     | _ => decide (x ≤ y), 0)

/-- The condition on a lane: on both elements for a 16-bit type. -/
def compareLane (f : VFields) (c : Site) (a b : Lane) : Bool × Fl :=
  if is16 f.ty then
    let lo := compareElem f c (a.toNat % 65536) (b.toNat % 65536)
    let hi := compareElem f c (a.toNat / 65536) (b.toNat / 65536)
    (lo.1 && hi.1, lo.2 ||| hi.2)
  else compareElem f c a.toNat b.toNat

/-- The bits of a predicate from a test of each lane. -/
def maskOf (g : Nat → Bool) : BitVec 64 :=
  .ofNat 64 ((List.range 64).foldl (fun n i => n + b2n (g i) * 2 ^ i) 0)

/-- VCMP (R164). -/
def execVcmp (f : VFields) (s : State) : Outcome State Fault Refusal :=
  let c := mySite s
  let v := c.ve
  let act := activeLanes v f
  let a := srcVal v f 0
  let b := srcVal v f 1
  let res := laneMap act fun i =>
    let r := compareLane f c (nth 0 a i) (nth 0 b i)
    (.ofNat 32 (b2n r.1), r.2)
  let bits := maskOf fun i => (nth (0, 0) res i).1 == 1
  .next (veWord f [0, 1] [governHit c.now v f, writeP c.now v f.vd.toNat] 1 (fun s =>
    modMySite (veFlags 2 (allFlags res)) (modMyVe (putP c.now 2 f.vd.toNat act f.pmode bits) s)) s)

/-- VSEL (R165): the predicate field selects. -/
def execVsel (f : VFields) (s : State) : Outcome State Fault Refusal :=
  let c := mySite s
  let v := c.ve
  let sel := getP v f.pred.toNat
  let a := srcVal v f 0
  let b := srcVal v f 1
  let res := (List.range 64).map fun i => if sel.getLsbD i then nth 0 a i else nth 0 b i
  .next (veWord f [0, 1] [governHit c.now v f, writeV c.now v f.vd.toNat] 1
    (modMyVe (putV c.now 2 f.vd.toNat (BitVec.allOnes 64) false res)) s)

/-- Predicate logic (R166). -/
def predWord (f : VFields) (two : Bool) (g : BitVec 64 → BitVec 64 → BitVec 64) (s : State) : State :=
  let c := mySite s
  let v := c.ve
  veWord f [] [readP c.now v f.va.toNat, if two then readP c.now v f.vb.toNat else none, writeP c.now v f.vd.toNat] 1
    (modMyVe (putP c.now 2 f.vd.toNat (BitVec.allOnes 64) false (g (getP v f.va.toNat) (getP v f.vb.toNat)))) s

/-- VPAND (R166). -/
def execVpand (f : VFields) (s : State) : Outcome State Fault Refusal := .next (predWord f true (· &&& ·) s)

/-- VPOR (R166). -/
def execVpor (f : VFields) (s : State) : Outcome State Fault Refusal := .next (predWord f true (· ||| ·) s)

/-- VPXOR (R166). -/
def execVpxor (f : VFields) (s : State) : Outcome State Fault Refusal := .next (predWord f true (· ^^^ ·) s)

/-- VPNOT (R166). -/
def execVpnot (f : VFields) (s : State) : Outcome State Fault Refusal := .next (predWord f false (fun a _ => ~~~a) s)

/-- The low `n` bits set, all 64 from 64 on. -/
def lowMask (n : Nat) : BitVec 64 := if 64 ≤ n then BitVec.allOnes 64 else .ofNat 64 (2 ^ n - 1)

/-- VPLEN (R167). -/
def execVplen (f : VFields) (s : State) : Outcome State Fault Refusal :=
  let c := mySite s
  let v := c.ve
  let n := (getX v f.va.toNat + f.aux.setWidth 32).toNat
  .next (veWord f [] [readX c.now v f.va.toNat, writeP c.now v f.vd.toNat] 1
    (modMyVe (putP c.now 2 f.vd.toNat (BitVec.allOnes 64) false (lowMask n))) s)

/-! ## Flags, idle and end (R184 to R186) -/

/-- VIDLE (R185). -/
def execVidle (f : VFields) (s : State) : Outcome State Fault Refusal := .next (veWord f [] [] (1 + f.aux.toNat) id s)

/-- VWAITF (R184, 05 R125). -/
def execVwaitf (f : VFields) (s : State) : Outcome State Fault Refusal :=
  let c := mySite s
  let n := f.aux.toNat % 64
  .next (veWord f [] [flagHit c (veRink c) n, hitIf (!flagReady c n) (.stall 0 n 0 (some n))] 1
    (modMySite (consumeFlag n (f.aux.getLsbD 6))) s)

/-- A store of the VE stream is not performed yet. -/
def veStoring (c : Site) : Bool :=
  c.pipe.any fun p => p.stream == 2 && (match p.act with
    | .veStore _ | .tileStore _ _ _ => true
    | _ => false)

/-- VSIGF (R184): in free mode a set or push waits for the stream's older stores (11 R286). -/
def execVsigf (f : VFields) (s : State) : Outcome State Fault Refusal :=
  let c := mySite s
  let n := f.aux.toNat % 64
  if f.aux.getLsbD 6 then
    .next (veWord f [] [flagHit c (veRink c) n, hitIf (!c.ve.ctl.timetabled && veStoring c) (.stall 1 n 0 (some n)),
      hitIf (!pushRoom c n) (.stall 1 n 0 (some n))] 1 (modMySite (setFlag n)) s)
  else
    .next (veWord f [] [flagHit c (veRink c) n, hitIf (16 ≤ n && n < 32 && !flagReady c n) (.stall 0 n 0 (some n))] 1
      (modMySite (clearFlag n)) s)

/-- A word that may not stand in a delay slot of vloop (R182, 03 R69). -/
def veSlotHit (v : Ve) : Option Hit := hitIf (v.slots != 0) (.trap 1 (4096 + 7 * 256))

/-- VEND (R186): the stream ends; what is in flight lands. -/
def execVend (f : VFields) (s : State) : Outcome State Fault Refusal :=
  .next (veWord f [] [veSlotHit (myVe s)] 1 (modMyVe fun v => { v with ctl := { v.ctl with running := false } }) s)

/-! ## Loops and rotation (R180 to R183) -/

/-- The loop state vsetlc leaves (R180). -/
def setLoop (f : VFields) (v : Ve) : Loop :=
  let size := if f.vd = 0 then 48 else 6 * f.vd.toNat
  { v.loop with count := getX v f.va.toNat + f.aux.setWidth 32, depth := .ofNat 8 (f.vc.toNat + 1), loopno := v.loop.loopno + 1, pass := 0,
                size := .ofNat 6 size, turn := .ofNat 6 (v.loop.turn.toNat % size) }

/-- VSETLC (R180): p8 to p15 become valid. -/
def execVsetlc (f : VFields) (s : State) : Outcome State Fault Refusal :=
  let c := mySite s
  let v := c.ve
  let l := setLoop f v
  .next (veWord f [] (readX c.now v f.va.toNat :: (List.range 8).map fun i => writeP c.now v (8 + i)) 1 (modMyVe fun w =>
    (List.range 8).foldl (fun w i =>
      putP c.now 1 (8 + i) (BitVec.allOnes 64) false (if i = 0 ∧ l.count ≠ 0 then BitVec.allOnes 64 else 0) w) { w with loop := l, looping := true }) s)

/-- Whether a vloop that leaves PASS at `pass` is taken (R181): the comparison is exact. -/
def loopTaken (l : Loop) (pass : BitVec 32) : Bool := decide (pass.toNat + 1 < l.count.toNat + l.depth.toNat)

/-- VLOOP (R181): the next two words are its delay slots; the turns change after them. The stage bit is a write of the predicate that
the new turn names p8 (R153). -/
def execVloop (f : VFields) (s : State) : Outcome State Fault Refusal :=
  let c := mySite s
  let v := c.ve
  let pass := v.loop.pass + 1
  let taken := loopTaken v.loop pass
  let turned := { v.loop with pturn := v.loop.pturn + 1 }
  let target := if taken then v.pc + .ofInt 64 (f.aux.toInt * 8) else v.pc + 24
  match firstHit [veSlotHit v, hitIf (taken && decide (c.now < v.pReady.get 0 (physP turned 8))) (.stall 5 8 3 none)] with
  | some h => .next (engineStop 2 h s)
  | none => .next (modMyVe (fun v => veIssue c.now 1
      { v with loop := { v.loop with pass := pass }, taken := taken, pc := v.pc + 8, npc := target, slots := 2 }) s)

/-- VTURN (R183). -/
def execVturn (f : VFields) (s : State) : Outcome State Fault Refusal :=
  let v := myVe s
  .next (veWord f [] [veSlotHit v, hitIf (decide (v.loop.size.toNat ≤ f.aux.toNat % 64)) (.trap 1 (4096 + 4 * 256))] 1
    (modMyVe fun v => { v with loop := { v.loop with turn := .ofNat 6 f.aux.toNat, pturn := .ofNat 3 f.aux.toNat } }) s)

end Sys2Proof.Machine
end

