-- ==== Sys2Proof/Machine/Fill.lean ====
section
/-!
DEFINITION. The operand fetcher (07 R192 to R200): specifier records, sources, scales, deltas, and a fill from its start to its
completion.
-/

namespace Sys2Proof.Machine

open Host (Outcome)

/-! ## The specifier record (R192, R193) -/

structure Spec where
  src : Nat
  keep : Bool
  delta : Bool
  roleB : Bool
  scale : Nat
  layout : Nat
  enc : Nat
  count : Nat
  stride : Int
  tscale : Nat
  dlist : Nat
  dcount : Nat
  treg : Nat
  trow : Nat
  deriving DecidableEq, Repr

def parseSpec (b : List Byte) : Spec :=
  let w := leAt b 4 2
  { src := leAt b 0 3, keep := bitOf w 10, delta := bitOf w 9, roleB := bitOf w 8, scale := field w 7 6, layout := field w 5 4,
    enc := field w 3 0, count := leAt b 6 1, stride := sext 32 (leAt b 8 4), tscale := leAt b 12 4, dlist := leAt b 16 3,
    dcount := leAt b 20 2 % 8192, treg := leAt b 22 1 % 16, trow := leAt b 23 1 % 32 }

def isBfp (e : Nat) : Bool := decide (2 ≤ e ∧ e ≤ 8)

/-- The combinations each fill word accepts (R193). -/
def combo (k : FillKind) (p : Spec) : Bool :=
  let scaleOk := if p.roleB then decide (p.scale ≤ 2) else p.scale == 0
  match k with
  | .fill => !p.delta && scaleOk && ((isBfp p.enc && (p.layout == 0 || p.layout == 2)) || ((p.enc == 9 || p.enc == 10) && p.layout != 2))
  | .sfill => p.enc == 11 && p.roleB && !p.delta && p.layout == 0 && decide (p.scale ≤ 2)
  | .dfill => p.roleB && p.delta && decide (p.scale ≤ 2)
      && ((isBfp p.enc && (p.layout == 0 || p.layout == 2)) || (p.enc == 11 && p.layout == 0))

/-- The byte offset of the first field of the record that fails, if one does (R193, R446). A combination that is not accepted fails at
byte 4, where its codes begin. -/
def specFails (k : FillKind) (b : List Byte) : Option Nat :=
  let p := parseSpec b
  let at' (n : Nat) (bad : Bool) : Option Nat := if bad then some n else none
  ([at' 3 (leAt b 3 1 != 0), at' 4 (!combo k p), at' 5 (field (leAt b 4 2) 15 11 != 0), at' 6 (p.count == 0 || decide (128 < p.count)),
    at' 7 (leAt b 7 1 != 0), at' 16 (p.delta && p.dlist % 4 != 0), at' 19 (leAt b 19 1 != 0),
    at' 20 (p.delta && decide (4096 < p.dcount)), at' 21 (field (leAt b 20 2) 15 13 != 0), at' 22 (field (leAt b 22 1) 7 4 != 0),
    at' 23 (field (leAt b 23 1) 7 5 != 0 || (p.scale == 2 && p.trow == 31))]
    ++ (List.range 8).map fun i => at' (24 + i) (leAt b (24 + i) 1 != 0)).findSome? id

/-- The first field of a seeded header that fails (R196). -/
def headerFails (b : List Byte) : Option Nat :=
  let j := leAt b 4 1
  if j = 0 ∨ 16 < j then some 4 else ((List.range 3).find? fun i => leAt b (5 + i) 1 != 0).map (5 + ·)

/-! ## Addresses of a source (R194) -/

def tmMod (a : Int) : Nat := intMod 24 a

/-- The element size of an element encoding: BF16 is 2 bytes, INT8 one. -/
def elemSize (p : Spec) : Nat := if p.enc = 9 then 2 else 1

/-- The offset of element X[r][k] from SRC. -/
def elemOff (p : Spec) (r k : Nat) : Int :=
  let es : Int := elemSize p
  match p.layout with
  | 0 => r * p.stride + k * es
  | 1 => k * p.stride + r * es
  | _ => (r / 4 : Nat) * p.stride + (k / 4 : Nat) * 16 * es + ((r % 4 * 4 + k % 4 : Nat) : Int) * es

/-- The pieces of a source: an offset from SRC and a length, each run of adjacent elements one piece. `j` is J of a seeded header. -/
def sourcePieces (p : Spec) (j : Nat) : List (Int × Nat) :=
  if p.enc = 11 then [(0, 8 + 2 * j)]
  else if isBfp p.enc then (List.range (if p.layout = 2 then 256 else p.count)).map fun (i : Nat) => ((i : Int) * p.stride, 1 + 32 * p.enc)
  else
    match p.layout with
    | 0 => (List.range p.count).map fun r => (elemOff p r 0, 256 * elemSize p)
    | 1 => (List.range 256).map fun k => (elemOff p 0 k, p.count * elemSize p)
    | _ => (List.range (ceilDiv p.count 4)).flatMap fun i => (List.range 64).map fun k =>
        (elemOff p (4 * i) (4 * k), min 4 (p.count - 4 * i) * 4 * elemSize p)

/-- The decoded size S of R198. -/
def sourceSize (p : Spec) (j : Nat) : Nat :=
  if p.enc = 11 then 8 + 2 * j
  else if isBfp p.enc then (if p.layout = 2 then 256 else p.count) * (1 + 32 * p.enc)
  else p.count * 256 * elemSize p

/-- The beats D of R198. -/
def fillBeats (p : Spec) (j : Nat) : Nat :=
  4 + ceilDiv (sourceSize p j) 512 + (if p.scale = 2 then 2 else 0) + (if p.delta then p.dcount + (if p.enc = 11 then 64 else 0) else 0)

/-! ## Reading a source -/

/-- What the fetcher reads a source from: TM, or the plain bytes of a ZRC stream in a compressed region (R198, 08 R228). Where that
stream gives no byte the value is open. -/
inductive Source where
  | tm
  | plain (bytes : List Byte) (openFrom : Nat)
  deriving DecidableEq, Repr

def sourceByte (t : Tm) (p : Spec) (q : Source) (off : Int) : Byte :=
  match q with
  | .tm => t.bytes.read (tmMod (p.src + off))
  | .plain bs o => if 0 ≤ off ∧ off < bs.length then nth 0 bs off.toNat else (Config.freeValue (o + intMod 24 off)).setWidth 8

def sourceNat (t : Tm) (p : Spec) (q : Source) (off : Int) (n : Nat) : Nat :=
  leNat ((List.range n).map fun (i : Nat) => sourceByte t p q (off + i))

/-- A BFP block as stored (01 R20). -/
def blockOf (w : Nat) (bz : Bool) (n : Nat) : Block :=
  let e := n % 256
  let m := n / 256
  { e := .ofNat 8 e, w := w, m := (List.range 256).map fun k => if bz && e == 0 then 0 else sext w (m / 2 ^ (w * k)) }

def isFin : Fp → Bool
  | .fin _ _ _ => true
  | _ => false

/-- A block quantised by the fetcher: always BFP8, always RNE (01 R23). Summed deltas can pass the largest value of R31's sources; the exponent
byte of such a block is open (notes/assumptions/37.md). -/
def quantised (bz : Bool) (xs : List Fp) : Block × Fl :=
  let q := quantiseBlock bz xs 8 1 fun _ => 0
  ({ e := if 255 ≤ q.1 && xs.all isFin then Config.wideExponent q.1 else .ofNat 8 q.1, w := 8, m := q.2.1 }, q.2.2)

/-- An element of a block in passing: −2^128 decodes to −infinity with OF and NX (01 R32). -/
def passing (bz : Bool) (b : Block) (r : Nat) : Fp × Fl :=
  let m := nth 0 b.m r
  if b.e = 254 ∧ m = -(2 ^ (b.w - 1)) then (.inf true, flOF ||| flNX) else (blockValue bz b.e.toNat b.w m, 0)

def orFlags (l : List Fl) : Fl := l.foldl (· ||| ·) 0

/-- The blocks of a dense source with their flags: row r or column c in turn (R194, 01 R23). -/
def denseBlocks (t : Tm) (p : Spec) (q : Source) (env : NumEnv) : List Block × Fl :=
  if isBfp p.enc then
    let read (bz : Bool) (i : Nat) : Block := blockOf p.enc bz (sourceNat t p q (i * p.stride) (1 + 32 * p.enc))
    if p.layout = 0 then ((List.range p.count).map (read env.bz), 0)
    else
      let byK := (List.range 256).map (read false)
      let one (r : Nat) : Block × Fl :=
        let xs := byK.map fun b => passing env.bz b r
        let b := quantised env.bz (xs.map (·.1))
        (b.1, b.2 ||| orFlags (xs.map (·.2)))
      let bs := (List.range p.count).map one
      (bs.map (·.1), orFlags (bs.map (·.2)))
  else if p.enc = 10 then
    ((List.range p.count).map fun r =>
      { e := 133, w := 8, m := (List.range 256).map fun k => sext 8 (sourceNat t p q (elemOff p r k) 1) }, 0)
  else
    let bs := (List.range p.count).map fun r =>
      quantised env.bz ((List.range 256).map fun k => decodeIz env.iz 7 (sourceNat t p q (elemOff p r k) 2))
    (bs.map (·.1), orFlags (bs.map (·.2)))

/-! ## Deltas (01 R37, R196) -/

/-- The entries for tile columns of half `h` below COUNT: column, k and value. IZ acts on no entry (R194). -/
def deltaEntries (t : Tm) (p : Spec) (q : Source) (h : Side) : List (Nat × Nat × Fp) :=
  ((List.range p.dcount).map fun (i : Nat) =>
    let e := sourceNat t { p with src := p.dlist } q (4 * (i : Int)) 4
    (field e 15 8, e % 256, decodeFp 7 (e / 65536))).filterMap fun d =>
      if d.1 / 128 = b2n h ∧ d.1 % 128 < p.count then some (d.1 % 128, d.2.1, d.2.2) else none

/-- The exact sum of the entries of one element, with NV where an entry is signalling or infinities of both signs meet. -/
def sumEntries (l : List Fp) : Fp × Fl :=
  let both := l.contains (.inf true) && l.contains (.inf false)
  let nv := flIf (l.any isSnan || both) flNV
  if both || l.any isNan then (.nan false, nv)
  else (l.foldl (fun a x => (exactAdd 1 a x).1) (.fin false 0 0), nv)

/-- A dense block with its summed deltas, by k (R37). Where a sum that is not finite makes the block special, an element with a finite sum of its
own counts as nonzero by the element with that sum added (notes/assumptions/37.md). -/
def deltaBlock (bz : Bool) (b : Block) (ds : List (Nat × Fp × Fl)) : Block × Fl :=
  if ds.isEmpty || b.e == 255 then (b, 0)
  else
    let unit : Int := expPrime b.e.toNat - 127 - ((b.w : Int) - 2)
    let base := if bz && b.e == 0 then b.m.map fun _ => (0 : Int) else b.m
    let find (k : Nat) : Option (Fp × Fl) := (ds.find? (·.1 == k)).map (·.2)
    let whole (k : Nat) (d : Fp) : Fp := (exactAdd 1 (ofScaled (nth 0 base k) unit false) d).1
    let fl := orFlags (ds.map (·.2.2))
    if ds.any (fun d => !isFin d.2.1) then
      let one (k : Nat) : Int × Fl := match find k with
        | some (.nan _, _) => (-(2 ^ (b.w - 1)), 0)
        | some (.inf n, _) => (if n then -1 else 1, 0)
        | some (d, _) => (0, flIf (match whole k d with
            | .fin _ m _ => m != 0
            | _ => true) flNX)
        | none => (0, flIf (nth 0 base k != 0) flNX)
      let r := (List.range 256).map one
      ({ b with e := 255, m := r.map (·.1), decided := true }, fl ||| orFlags (r.map (·.2)))
    else
      let hi : Int := 2 ^ (b.w - 1) - 1
      let one (k : Nat) : Int × Fl := match find k with
        | some (d, _) => (match whole k d with
          | .fin n m e =>
            let v := if m = 0 then (0, false) else roundInt n m (e - unit) 1 0
            let c := clampInt (-(2 ^ (b.w - 1)), hi) v.1
            (c.1, flIf v.2 flNX ||| flIf c.2 flSAT)
          | _ => (nth 0 base k, 0))
        | none => (nth 0 base k, 0)
      let r := (List.range 256).map one
      ({ b with m := r.map (·.1), decided := true }, fl ||| orFlags (r.map (·.2)))

/-- The summed deltas of a column: k, sum and flags, each element once. -/
def columnDeltas (es : List (Nat × Nat × Fp)) (c : Nat) : List (Nat × Fp × Fl) :=
  let mine := es.filter (·.1 == c)
  ((mine.map (·.2.1)).dedup).map fun k => (k, sumEntries ((mine.filter (·.2.1 == k)).map (·.2.2)))

/-- R31's input flush of an exact sum: one below the smallest normal magnitude, 2^-126, counts as subnormal. -/
def flushSum (iz : Bool) (x : Fp) : Fp :=
  match x with
  | .fin n m e => if iz && m != 0 && decide (floorLog m e < -126) then .fin n 0 0 else x
  | _ => x

/-- A column of the delta tile of a seeded base (R37): the sums, quantised by R31. -/
def deltaColumn (env : NumEnv) (ds : List (Nat × Fp × Fl)) : Block × Fl :=
  let xs := (List.range 256).map fun k => match ds.find? (·.1 == k) with
    | some d => flushSum env.iz d.2.1
    | none => .fin false 0 0
  let q := quantised env.bz xs
  (q.1, q.2 ||| orFlags (ds.map (·.2.2)))

/-! ## Scales and tiles (R191, R195) -/

def one32 : Lane := 0x3F800000

/-- σ of column n below COUNT: OZ acts on the product, IZ on neither factor (R194, R195). -/
def sigmaOf (c : Site) (p : Scaling) (env : NumEnv) (n : Nat) : Lane × Fl :=
  match p.mode with
  | 0 => (one32, 0)
  | 1 => (.ofNat 32 p.tscale, 0)
  | _ =>
    let row := leNat ((c.tiles.get Table.empty p.treg).readBytes (256 * p.trow + 4 * n) 4)
    let x := exactMul (decodeFp 23 p.tscale) (decodeFp 23 row)
    let r := roundFp 23 x.1 1 env.oz 0
    (.ofNat 32 r.1, x.2 ||| r.2)

/-- The scales of a fill's columns with their flags. -/
def scales (c : Site) (p : Scaling) (env : NumEnv) : List Lane × Fl :=
  let sig := (List.range p.count).map (sigmaOf c p env)
  (sig.map (·.1), orFlags (sig.map (·.2)))

def Tile.withSigma (sigma : List Lane) : Tile → Tile
  | .dense cols _ => .dense cols sigma
  | .seeded seed coefs n _ delta => .seeded seed coefs n sigma delta
  | t => t

/-- The tile a fill leaves but for its scales, and its flags. -/
def buildTile (t : Tm) (h : Side) (p : Spec) (q dq : Source) (env : NumEnv) : Tile × Fl :=
  let es := if p.delta then deltaEntries t p dq h else []
  if p.enc = 11 then
    let j := sourceNat t p q 4 1
    let coefs := (List.range j).map fun (i : Nat) => BitVec.ofNat 16 (sourceNat t p q ((8 + 2 * i : Nat) : Int) 2)
    let ds := (List.range p.count).map fun n => deltaColumn env (columnDeltas es n)
    (.seeded (.ofNat 32 (sourceNat t p q 0 4)) coefs p.count [] (if p.delta then some (ds.map (·.1)) else none),
      if p.delta then orFlags (ds.map (·.2)) else 0)
  else
    let b := denseBlocks t p q env
    if !p.roleB then (.a (nth ⟨0, 8, [], false⟩ b.1 0).w b.1, b.2)
    else
      let ds := (b.1.zip (List.range p.count)).map fun x => deltaBlock env.bz x.1 (columnDeltas es x.2)
      (.dense (ds.map (·.1)) [], b.2 ||| orFlags (ds.map (·.2)))

/-! ## A fill -/

def modFill (h : Side) (f : Fill → Fill) (c : Site) : Site :=
  modHalf h (fun v => { v with fills := match v.fills with
    | x :: xs => f x :: xs
    | [] => [] }) c

/-- The environment of a fill: FCTL as its word sampled it. -/
def fillEnv (f : Fill) : NumEnv := numEnv f.fctl 0

/-- The row groups of a span of TM, whose addresses wrap. -/
def spanDeep (x : Nat × Nat) : List Nat :=
  if x.2 = 0 then [] else (List.range (ceilDiv (x.1 % 4096 + x.2) 4096)).map fun i => tmMod (((x.1 / 4096 + i) * 4096 : Nat) : Int) / 4096

/-- The reason of a TM fault at an address (10 R278). -/
def regionReason (addr : Nat) : Nat := if 0xBFFFFF < addr then 5 else 1

/-- The first group of some spans that meets a condition, with the address at which the span reaches it. -/
def groupWhere (bad : Nat → Bool) (l : List (Nat × Nat)) : Option Nat :=
  l.findSome? fun x => ((spanDeep x).find? bad).map fun g => if g = x.1 / 4096 then x.1 else g * 4096

/-- Every byte lies in a region of the rink (R199). -/
def spansHit (c : Site) (r : Nat) (l : List (Nat × Nat)) : Option Hit :=
  (groupWhere (fun g => (regionAt c r (g * 4096)).isNone) l).map fun a => .tmTrap 0x17 0 (regionReason a) a

/-- A piece of a plain source in a compressed region: only ZRC code is read there (10 R261; notes/assumptions/38.md). -/
def codedHit (c : Site) (r : Nat) (l : List (Nat × Nat)) : Option Hit :=
  (groupWhere (fun g => ((regionAt c r (g * 4096)).filter (·.compressed)).isSome) l).map fun a => .tmTrap 0x18 0 2 a

/-- A row group found invalid, or an error that cannot be corrected (R199, 10 R263, 18 R420). -/
def unsoundHit (c : Site) (l : List (Nat × Nat)) : Option Hit :=
  match groupWhere (fun g => !(groupOf c g).valid) l with
  | some a => some (.tmTrap 0x19 0 3 a)
  | none => (l.findSome? fun x => spoiled c.tm x.1 x.2).map (Hit.softTrap none)

/-- The plain bytes of a compressed source (R198): enough words for its furthest byte. -/
def plainSource (c : Site) (g : Region) (p : Spec) (pieces : List (Int × Nat)) : List Byte × Nat :=
  let need := ceilDiv (pieces.foldl (fun m x => max m (x.1 + x.2).toNat) 0) 4
  let code := tmRead c.tm p.src (min (6 * need + 2) (g.base + g.size - p.src))
  let d := zrcDecode (need + 2) need code
  (d.1.flatMap (fun w => leBytes 4 w.toNat), min d.2.1 code.length)

/-- The bytes the fetcher reads from `addr` on, at most `n`: a compressed region is read as ZRC code (10 R261), of which it reads `used` bytes. -/
def fetchPlain (c : Site) (r addr n : Nat) : List Byte × Nat :=
  match regionAt c r addr with
  | some g =>
    if g.compressed then
      let need := ceilDiv n 4
      let code := tmRead c.tm addr (min (6 * need + 2) (g.base + g.size - addr))
      let d := zrcDecode (need + 2) need code
      ((d.1.flatMap fun w => leBytes 4 w.toNat).take n, min d.2.1 code.length)
    else (tmRead c.tm addr n, n)
  | none => (tmRead c.tm addr n, n)

/-- The checks of a fill's record and the spans it reads, in R199's order, with what it will build from. -/
structure FillPlan where
  hits : List (Option Hit)
  spec : Spec
  j : Nat
  source : Source
  delta : Source
  groups : List Nat
  granules : List Nat
  spans : List (Nat × Nat)
  deriving DecidableEq, Repr

def planFill (c : Site) (r : Nat) (f : Fill) (fresh : Nat) : FillPlan :=
  let rec' := f.record % 2 ^ 64
  let recd := fetchPlain c r rec' 32
  let p := parseSpec recd.1
  let zipped := (regionAt c r p.src).filter (·.compressed)
  let hdr := fetchPlain c r p.src 8
  let j := if p.enc = 11 then leAt hdr.1 4 1 else 0
  let pieces := sourcePieces p j
  let z := zipped.map fun g => plainSource c g p pieces
  let source := match z with
    | some (bs, _) => .plain bs fresh
    | none => .tm
  let srcSpans := match z with
    | some (_, used) => [(p.src, used)]
    | none => pieces.map fun x => (tmMod (p.src + x.1), x.2)
  let list := fetchPlain c r p.dlist (4 * p.dcount)
  let zippedList := ((regionAt c r p.dlist).filter (·.compressed)).isSome
  let dl := if p.delta then [(p.dlist, list.2)] else []
  let head := if p.enc = 11 then [(p.src, hdr.2)] else []
  let body := srcSpans ++ dl
  let all := (rec', recd.2) :: body
  { hits := [hitIf (rec' % 32 != 0) (.tmTrap 0x17 0 1 (rec' % 2 ^ 24)), hitIf (decide (0xC00000 < rec' + 32)) (.tmTrap 0x17 0 5 (rec' % 2 ^ 24)),
             spansHit c r [(rec', recd.2)], unsoundHit c [(rec', recd.2)], (specFails f.kind recd.1).map fun o => .trap 0x20 o,
             spansHit c r head, unsoundHit c head, if p.enc = 11 then (headerFails hdr.1).map fun o => Hit.trap 0x20 (4096 + o) else none,
             spansHit c r body, if z.isNone then codedHit c r srcSpans else none,
             hitIf (p.scale == 2 && !ownsFlag c r p.treg) (.trap 0x14 0), unsoundHit c body],
    spec := p, j := j, source := source, delta := if zippedList then .plain list.1 (fresh + 2 ^ 24) else .tm,
    groups := (all.flatMap spanDeep).dedup,
    granules := (all.flatMap fun x => spanGranules (x.1, x.2, false)).dedup,
    spans := all }

/-- A timetabled request of an earlier issue, or a fill of the other half, takes one of the fill's banks or granules (10 R258, R198). -/
def fillClash (c : Site) (h : Side) (plan : FillPlan) (last : Nat) : Option (Nat × Nat) :=
  let landed := c.landed.flatMap fun p => actSpans p.act
  let later := (c.pipe.filter fun p => decide (p.due ≤ last)).flatMap fun p => actSpans p.act
  if landed.any (fun sp => sp.2.2 && (spanGranules sp).any fun g => plan.granules.contains g) then some (8, 0)
  else
    let other := (halfOf c (!h)).fills.flatMap fun f => if f.started.isSome ∧ c.now ≤ f.ends then f.banks else []
    let taken := (landed ++ later).flatMap spanGroups ++ other
    match plan.groups.find? fun g => taken.any fun t => t % 16 == g % 16 with
    | some g => some (7, g % 16)
    | none => none

/-- How the record of a fill scales its columns: an A tile has no scales. -/
def scalingOf (p : Spec) : Scaling :=
  if p.roleB then ⟨p.scale, p.tscale, p.treg, p.trow, p.keep, p.count⟩ else Scaling.none

/-- The stream of a half, for a fault found in its fetcher or nest. -/
def halfStop (k : Nat) (h : Side) (hit : Hit) (s : State) : State :=
  engineStop (halfHead h) hit { s with cur := { s.cur with site := k, half := h, lift := false, coll := false } }

/-- A half's fills and nests run in the mode of its streams. -/
def halfTimed (c : Site) (h : Side) : Bool := (halfOf c h).ctl.timetabled

/-- A fault of a fill is reported with its word's bundle address (R199): it is fatal, and the half's stream goes no further. -/
def fillFault (k : Nat) (h : Side) (f : Fill) (hit : Hit) (s : State) : State :=
  halfStop k h hit (modSite k (modHalf h fun v => { v with pcBase := .ofNat 64 f.word, seq := { v.seq with pc := 0 } }) s)

/-- The fill at the head of a half's queue starts in this beat (R198, R199): the record is read and checked. A deviation leaves it to start
again; in free mode it waits. -/
def startFill (k : Nat) (h : Side) (s : State) : State :=
  let c := site k s
  let r := headRink c (halfHead h)
  match (halfOf c h).fills with
  | [] => s
  | f :: _ =>
    if f.started.isSome then s
    else
      let plan := planFill c r f s.fresh
      let p := plan.spec
      let env := fillEnv f
      let later (s : State) : State := modSite k (fun c => countEvent (liveJob s) r 0x08 1 (modFill h (fun f => { f with issued := c.now }) c)) s
      match firstHit plan.hits with
      | some hit => fillFault k h f hit s
      | none =>
        let last := c.now + fillBeats p plan.j - 1
        match fillClash c h plan last with
        | some e => if halfTimed c h then halfStop k h (.stall e.1 e.2 0 none) s else later s
        | none =>
          let t := buildTile c.tm h p plan.source plan.delta env
          let used (q : Source) : Bool := match q with
            | .tm => false
            | .plain _ _ => true
          let s0 := if used plan.source || used plan.delta then { s with fresh := s.fresh + 2 ^ 25 } else s
          let s1 := charge k (homeCtx c r) 9 (ceilDiv (sourceSize p plan.j) 512) s0
          modSite k (fun c => modFill h (fun f => { f with started := some c.now, ends := last, banks := plan.groups, scaling := scalingOf p,
                                                           tile := t.1, flags := t.2 })
            (plan.spans.foldl (fun c x => corrected x.1 x.2 c) c)) s1

/-- The scales are formed and the slot is Ready (R195, R198). -/
def readySlot (f : Fill) (fs : List Fill) (h : Side) (c : Site) : Site :=
  let g := scales c f.scaling (fillEnv f)
  let c1 := modHalf h (fun v => { v with
    fills := fs, slots := v.slots.put f.slot ⟨.ready, f.tile.withSigma g.1, f.flags ||| g.2⟩, slotErrs := v.slotErrs.setD 0 f.slot 0 }) c
  if f.scaling.mode = 2 ∧ !f.scaling.keep then clearFlag f.scaling.treg c1 else c1

/-- A fill completes D beats after its start. Its row scales are read then, and TREG must be full: in free mode the fill waits, in timetabled mode
it deviates (R195, R198; notes/assumptions/38.md). -/
def completeFill (k : Nat) (h : Side) (s : State) : State :=
  let c := site k s
  match (halfOf c h).fills with
  | f :: fs =>
    if f.started.isSome ∧ f.ends < c.now then
      if f.scaling.mode = 2 ∧ !flagReady c f.scaling.treg then
        (if halfTimed c h then halfStop k h (.stall 0 f.scaling.treg 0 (some f.scaling.treg)) s else s)
      else
        let fl := f.flags ||| (scales c f.scaling (fillEnv f)).2
        modSite k (fun c => countEvent (liveJob s) (headRink c (halfHead h)) 0x0D (b2n (fl.getLsbD 4)) (readySlot f fs h c)) s
    else s
  | [] => s

/-- FILL_START (R199). -/
def execFillStart (k : Nat) (h : Bool) (s : State) : Outcome State Fault Refusal :=
  let c := site k s
  match (halfOf c h).fills with
  | f :: _ => .next (if f.started.isNone ∧ f.issued < c.now then startFill k h s else s)
  | [] => .next s

/-- FILL_COMPLETE (R198). -/
def execFillComplete (k : Nat) (h : Bool) (s : State) : Outcome State Fault Refusal := .next (completeFill k h s)

/-! ## Slot words (R197) -/

def slotOf (c : Site) (n : BitVec 4) : Slot := (halfOf c (decide (8 ≤ n.toNat))).slots.get Slot.empty (n.toNat % 8)

def stateCode : SlotState → Nat
  | .free => 0
  | .claimed => 1
  | .filling => 2
  | .ready => 3

/-- A slot of the other half (03 R84). -/
def slotHalfHit (s : State) (n : BitVec 4) : Option Hit := hitIf (decide (8 ≤ n.toNat) != s.cur.half) (.trap 1 (2 * 4096 + 4 * 256))

def slotFault (n : BitVec 4) (v : Slot) : Hit := .trap 0x21 (stateCode v.st * 256 + n.toNat)

def putSlot (n : BitVec 4) (v : Slot) (s : State) : State := modMyHalf (fun h => { h with slots := h.slots.put (n.toNat % 8) v }) s

/-- The home context of a half takes flags at once (R200). -/
def halfFlags (k : Nat) (h : Side) (fl : Fl) (s : State) : State :=
  modSite k (fun c => modCtx (homeCtx c (headRink c (halfHead h))) (fun x => { x with fstat := x.fstat ||| fl }) c) s

/-- CLAIM (R197). -/
def execClaim (slot : BitVec 4) (s : State) : Outcome State Fault Refusal :=
  let v := slotOf (mySite s) slot
  .next (seqWord [slotHalfHit s slot, hitIf (v.st != .free) (slotFault slot v)] 1 1 (putSlot slot ⟨.claimed, .none, 0⟩) s)

/-- FILL, SFILL and DFILL: the slot is Filling and the fetch is queued, at most four waiting (R197, R198). Flags still held with the slot
merge into the home context (R200). -/
def fillWord (k : FillKind) (slot : BitVec 4) (s : State) : State :=
  let c := mySite s
  let v := slotOf c slot
  let q := mySeq s
  let x := ctxOf c (homeCtx c (headRink c (myHead s)))
  let h := myHalf s
  let waiting := (h.fills.filter (·.started.isNone)).length
  let f : Fill := { slot := slot.toNat % 8, record := (top q 0).toNat, kind := k, fctl := sampleFctl c.now x, issued := c.now,
                    word := h.pcBase.toNat + 2 * q.pc, started := none, ends := 0, banks := [], scaling := Scaling.none, tile := .none, flags := 0, gave := 0 }
  seqWord [slotHalfHit s slot, popHit 1 q, hitIf (v.st != .claimed) (slotFault slot v), hitIf (decide (4 ≤ waiting)) (.stall 2 3 0 none)] 1 1
    (fun s => modMyHalf (fun h => { h with fills := h.fills ++ [f], seq := { h.seq with stack := h.seq.stack.drop 1 } })
      (putSlot slot ⟨.filling, .none, 0⟩ (halfFlags s.cur.site s.cur.half v.flags s))) s

/-- FILL (R197). -/
def execFill (slot : BitVec 4) (s : State) : Outcome State Fault Refusal := .next (fillWord .fill slot s)

/-- SFILL (R197). -/
def execSfill (slot : BitVec 4) (s : State) : Outcome State Fault Refusal := .next (fillWord .sfill slot s)

/-- DFILL (R197). -/
def execDfill (slot : BitVec 4) (s : State) : Outcome State Fault Refusal := .next (fillWord .dfill slot s)

end Sys2Proof.Machine
end

