-- ==== Sys2Proof/Machine/Matrix.lean ====
section
/-!
DEFINITION. The loop-nest registers, MTX and MFX (07 R201, R202, 05 R134), the arming of a nest (07 R203, R204), and its run beat by beat
(07 R205 to R210).
-/

namespace Sys2Proof.Machine

open Host (Outcome)

/-! ## Loop-nest registers (R201) -/

/-- The bits of a register that hold a field; the others read zero. -/
def nestMask (g : Nat) : Nat :=
  match g with
  | 0x00 => 7 * 2 ^ 32 + 511 * 2 ^ 16 + 127 * 2 ^ 8 + 63
  | 0x01 => 1023
  | 0x02 => 7
  | 0x03 => 2 ^ 24 - 1
  | 0x04 => 127
  | 0x05 => 1
  | 0x07 => 0
  | _ => if g % 8 = 4 then 2 ^ 32 - 1 else if g % 8 = 5 then 63 * 256 + 15 else 65535

def bankRegs (h : Half) (b : Side) : Table Word := if b then h.regsB else h.regsA

def nestReg? (h : Half) (b : Side) (g : Nat) : Nat := ((bankRegs h b).get 0 g).toNat

def putNestReg (b : Side) (g : Nat) (v : Word) (h : Half) : Half :=
  let w : Word := v &&& .ofNat 64 (nestMask g)
  if b then { h with regsB := h.regsB.setD 0 g w } else { h with regsA := h.regsA.setD 0 g w }

/-! ## A nest's configuration -/

/-- One level: COUNT, the four strides, OSTR and ACT. -/
structure Level where
  count : Nat
  astr : Int
  sstr : Int
  rstr : Int
  ostr : Int
  act : Nat
  deriving DecidableEq, Repr

structure NestCfg where
  levels : List Level
  n : Nat
  m : Nat
  rbase : Nat
  abase : Nat
  sbase : Nat
  obase : Nat
  done : Nat
  bf16 : Bool
  nLevels : Nat
  deriving DecidableEq, Repr

def nestCfg (h : Half) (b : Side) : NestCfg :=
  let g := nestReg? h b
  let shape := g 0
  let k := field shape 34 32
  { levels := (List.range k).map fun l =>
      { count := g (0x08 + 8 * l), astr := sext 16 (g (0x09 + 8 * l)), sstr := sext 16 (g (0x0A + 8 * l)),
        rstr := sext 16 (g (0x0B + 8 * l)), ostr := sext 32 (g (0x0C + 8 * l)), act := g (0x0D + 8 * l) },
    n := field shape 24 16, m := field shape 14 8, rbase := field shape 5 0, abase := g 1, sbase := g 2, obase := g 3, done := g 4,
    bf16 := g 5 == 1, nLevels := k }

def nestEmpty (c : NestCfg) : Bool := c.m == 0 || c.n == 0 || c.levels.any (·.count == 0)

/-- Base + Σ i × stride over the index vector. -/
def affine (base : Nat) (strides : List Int) (idx : List Nat) : Int :=
  (idx.zip strides).foldl (fun a p => a + p.1 * p.2) base

/-- The extremes of an affine sequence over the nest. -/
def affineRange (base : Nat) (strides : List Int) (counts : List Nat) : Int × Int :=
  let e := extremes counts strides
  (base + e.1, base + e.2)

/-- The bytes of a row that OUT writes: the active columns. -/
def rowBytes (c : NestCfg) : Nat := c.n * if c.bf16 then 2 else 4

/-- The extreme OUT addresses of an active OUT at level `l`: the levels up to it stand at their last index (R209). -/
def outRange (c : NestCfg) (l : Nat) : Int × Int :=
  let inner := (c.levels.take (l + 1)).foldl (fun a v => a + ((v.count : Int) - 1) * v.ostr) (c.obase : Int)
  let e := extremes ((c.levels.drop (l + 1)).map (·.count)) ((c.levels.drop (l + 1)).map (·.ostr))
  (inner + e.1, inner + e.2)

def outAligned (c : NestCfg) (l : Nat) : Bool :=
  (outRange c l).1 % 4 == 0 && (c.levels.drop (l + 1)).all fun v => decide (v.count ≤ 1) || v.ostr % 4 == 0

/-- The flags a nest may signal. -/
def nestFlags (c : NestCfg) : List Nat :=
  (if bitOf c.done 6 then [c.done % 64] else []) ++ c.levels.filterMap fun v => if bitOf v.act 3 then some (field v.act 13 8) else none

/-- The OUT checks on one address. -/
def outHit (c : Site) (r : Nat) (a : Int) (n : Nat) : Option Hit := tmCheck c r (tmMod a) n false (fun _ => false) 0

/-- The checks of R204, in its order. -/
def nestHits (c : Site) (r : Nat) (cfg : NestCfg) (whole : Bool) : List (Option Hit) :=
  let counts := cfg.levels.map (·.count)
  let inside (p : Int × Int) (lo hi : Int) : Bool := decide (lo ≤ p.1 ∧ p.2 < hi)
  let outs := (List.range cfg.nLevels).filter fun l => match cfg.levels[l]? with
    | some v => bitOf v.act 2
    | none => false
  [hitIf (cfg.nLevels == 0 || decide (6 < cfg.nLevels) || decide ((if whole then 256 else 128) < cfg.n) || decide (64 < cfg.m)
      || decide (64 < cfg.rbase + cfg.m)) (.trap 0x22 0),
   hitIf ((nestFlags cfg).any (· < 16)) (.trap 0x22 0),
   hitIf ((nestFlags cfg).any fun f => !ownsFlag c r f) (.trap 0x14 0)]
  ++ if nestEmpty cfg then []
     else
      [hitIf (!(inside (affineRange cfg.rbase (cfg.levels.map (·.rstr)) counts) cfg.rbase (cfg.rbase + cfg.m)
          && inside (affineRange cfg.sbase (cfg.levels.map (·.sstr)) counts) 0 8
          && inside (affineRange cfg.abase (cfg.levels.map (·.astr)) counts) 0 1024)) (.trap 0x23 0)]
      ++ outs.flatMap fun l =>
          [hitIf (!outAligned cfg l) (.tmTrap 0x17 0 1 (tmMod (outRange cfg l).1)),
           outHit c r (outRange cfg l).1 (rowBytes cfg), outHit c r (outRange cfg l).2 (rowBytes cfg)]

/-! ## Armed banks (R190, R203, R210) -/

/-- A bank is armed: its nest has not completed. -/
def armed (c : Site) (h b : Side) : Bool := (halfOf c h).nests.any (·.bank == b)

/-- A whole-array operation of MS0 holds H1: a nest, or an aclr or aout with rows to come (R190). -/
def heldWhole (c : Site) : Bool :=
  c.half0.nests.any (·.whole) || c.pipe.any fun p => match p.act with
    | .aoutRow false _ true _ _ _ _ _ _ _ => true
    | .accClear false _ true => true
    | _ => false

/-- The accumulator bank of a half is in use by an armed nest. -/
def accBusy (c : Site) (h b : Side) : Bool := armed c h b || (h && c.half0.nests.any fun n => n.whole && n.bank == b)

/-- Whether an operation may hold the halves it needs: MS1 waits for a whole operation, and a whole operation for H1, which its own nests hold (R190, and
R249's kind 3; notes/assumptions/25.md). -/
def holdHit (c : Site) (h : Side) (whole : Bool) (b : Side) : Option Hit :=
  hitIf ((h && heldWhole c) || (whole && !c.half1.nests.isEmpty)) (.stall 3 (b2n b) 0 none)

/-- A whole-array word in MS1, or without H1 (R190). -/
def wholeHits (c : Site) (r : Nat) (h : Side) (whole : Bool) (family : Nat) : List (Option Hit) :=
  [hitIf (whole && h) (.trap 1 (family * 4096 + 4 * 256)), hitIf (whole && !owns c r 4) (.trap 0x12 4)]

/-- A nest as MGO arms it: it starts two beats later at the earliest (R203). -/
def newNest (c : Site) (b whole acc : Bool) (p : Nat) (issuer : Side) (levels : Nat) : Nest :=
  let x := ctxOf c issuer
  { bank := b, whole := whole, accumulate := acc, period := p, fctl := sampleFctl c.now x, srkey := sampleSrkey c.now x, issuer := issuer,
    issued := c.now, started := false, idx := List.replicate levels 0, busy := false, step := c.now + 2, pend := 0, prom := 0, last := none,
    read := [], flags := 0, taken := 0, outDue := 0, done := none }

def addNest (h : Side) (n : Nest) (c : Site) : Site := modHalf h (fun v => { v with nests := v.nests ++ [n] }) c

/-- The checks and the arming of an mgo of half `h`, by a word of `family` with `issuer` its issuing context. -/
def mgoHits (c : Site) (r : Nat) (h b whole : Bool) (family : Nat) : List (Option Hit) :=
  wholeHits c r h whole family ++ [holdHit c h whole b] ++ nestHits c r (nestCfg (halfOf c h) b) whole

/-- MGO (R203). -/
def execMgo (p : BitVec 4) (whole acc bank : Bool) (s : State) : Outcome State Fault Refusal :=
  let c := mySite s
  let h := s.cur.half
  let r := headRink c (myHead s)
  .next (seqWord (wholeHits c r h whole 2 ++ [hitIf (armed c h bank) (.stall 3 (b2n bank) 0 none)] ++ mgoHits c r h bank whole 2) 1 1
    (modMySite (addNest h (newNest c bank whole acc (p.toNat + 1) (homeCtx c r) (nestCfg (halfOf c h) bank).nLevels))) s)

/-- The GO register's fields (R201). -/
def goNest (c : Site) (h b : Side) (v : Word) (issuer : Side) : Nest :=
  newNest c b (v.getLsbD 3) (v.getLsbD 2) (field v.toNat 7 4 + 1) issuer (nestCfg (halfOf c h) b).nLevels

/-- MTX (05 R134): in free mode a write of GO acts as an MGO issued by the context (R202). -/
def execMtx (half bank : Bool) (reg : BitVec 6) (a : BitVec 5) (s : State) : Outcome State Fault Refusal :=
  let c := mySite s
  let x := myCtx s
  let r := myRink s
  let v := getS x a
  let hits := [readS c.now x a, hitIf (!owns c r (halfHead half)) (.trap 0x12 (halfHead half)), hitIf (armed c half bank) (.trap 0x13 0)]
  if reg = 7 then
    .next (ccWord (hits ++ [needFree s] ++ mgoHits c r half bank (v.getLsbD 3) 0) 1
      (modMySite (addNest half (goNest c half bank v s.cur.ctx))) s)
  else .next (ccWord hits 1 (modMySite (modHalf half (putNestReg bank reg.toNat v))) s)

/-- MFX (05 R134). Beside the other context's mtx of the same register in one beat, context 1 reads what context 0 writes and context 0 the value before (DESIGN CHOICE,
notes/assumptions/6.md). -/
def execMfx (d : BitVec 5) (half bank : Bool) (reg : BitVec 6) (s : State) : Outcome State Fault Refusal :=
  let c := mySite s
  .next (ccWord [hitIf (!owns c (myRink s) (halfHead half)) (.trap 0x12 (halfHead half)), writeS c.now 1 (myCtx s) d] 1
    (modMyCtx (putS c.now 1 d ((bankRegs (halfOf c half) bank).get 0 reg.toNat))) s)

/-- MNEST (R202): it pops a value, then a register number. -/
def execMnest (bank : Bool) (s : State) : Outcome State Fault Refusal :=
  let c := mySite s
  let h := s.cur.half
  let r := headRink c (myHead s)
  let q := mySeq s
  let v := top q 0
  let g := (top q 1).toNat
  let pop (s : State) : State := modMySeq (fun q => { q with stack := q.stack.drop 2 }) s
  let hits := [popHit 2 q, hitIf (!nestReg g) (.trap 1 (2 * 4096 + 4 * 256)), hitIf (armed c h bank) (.trap 0x13 0)]
  if g = 7 then
    .next (seqWord (hits ++ [hitIf (halfTimed c h) (.trap 0x0D 0)] ++ mgoHits c r h bank (v.getLsbD 3) 2) 1 1
      (fun s => modMySite (addNest h (goNest c h bank v (homeCtx c r))) (pop s)) s)
  else .next (seqWord hits 1 1 (fun s => modMyHalf (putNestReg bank g v) (pop s)) s)

/-! ## The k-step (01 R35 to R38) -/

def nestEnv (n : Nest) : NumEnv := numEnv n.fctl n.srkey

def dot (a b : List Int) : Int := (a.zip b).foldl (fun s p => s + p.1 * p.2) 0

/-- 2^(E' − 127 − (w − 2)) as an exponent. -/
def blockExp (b : Block) : Int := expPrime b.e.toNat - 127 - ((b.w : Int) - 2)

/-- A term rounded to FP24: an integer times a power of two times factors (R35, R36). -/
def fpTerm (sint : Int) (e : Int) (factors : List Fp) : Nat × Fl :=
  let x := factors.foldl (fun (a : Fp × Fl) f =>
    let p := exactMul a.1 f
    (p.1, a.2 ||| p.2)) (ofScaled sint e false, 0)
  let r := roundFp24 x.1
  (r.1, x.2 ||| r.2)

/-- A block flushed by R22 counts as zeros. R22's decision on a block with deltas was taken before them (R22, R37). -/
def zeroed (bz : Bool) (b : Block) : Bool := bz && b.e == 0 && !b.decided

/-- The scale as an operand: IZ reads a subnormal one as zero (R18; notes/assumptions/37.md). -/
def sigmaFp (env : NumEnv) (sigma : Lane) : Fp := decodeIz env.iz 23 sigma.toNat

/-- The term of a dense block against the A block; `special` where a block of either operand of the k-step is special (R36). -/
def denseTerm (env : NumEnv) (a b : Block) (sigma : Lane) (special : Bool) : Nat × Fl :=
  if special then (encNan 15, flNV)
  else fpTerm (if zeroed env.bz a || zeroed env.bz b then 0 else dot a.m b.m) (blockExp a + blockExp b) [sigmaFp env sigma]

/-- The terms of basis j: `cs` are the coefficients still to come. -/
def seedTerms (env : NumEnv) (a : Block) (seed : Lane) (n : Nat) (sigma : Lane) (special : Bool) : List (BitVec 16) → Nat → List (Nat × Fl)
  | [], _ => []
  | cf :: cs, j =>
    let t := if special then (encNan 15, flNV)
      else
        let row := seedRow seed j n
        let sint := if zeroed env.bz a then 0 else dot a.m (row.map fun b => if b then (1 : Int) else -1)
        fpTerm sint (blockExp a) [decodeIz env.iz 7 cf.toNat, sigmaFp env sigma]
    t :: seedTerms env a seed n sigma special cs (j + 1)

/-- The dense blocks that a k-step reads of a tile: its own, or those of its delta tile (R35, R37). -/
def denseCols : Tile → List Block
  | .dense cols _ => cols
  | .seeded _ _ _ _ (some ds) => ds
  | _ => []

/-- A coefficient of a seeded tile is a NaN or an infinity (01 R36). -/
def specialCoefs (t : Tile) : Bool :=
  match t with
  | .seeded _ coefs _ _ _ => coefs.any fun w => !isFin (decodeFp 7 w.toNat)
  | _ => false

/-- A block of the active columns of a B operand is special (R36). -/
def specialCols (t : Tile) (cols : Nat) : Bool := ((denseCols t).take cols).any (·.e == 255)

/-- What makes every term of a k-step a NaN, in whichever half it stands (01 R36): for its dense pass a special block of either operand, for its seeded pass a
special block of A or a coefficient that is not finite. -/
structure Special where
  dense : Bool
  seeded : Bool

/-- The terms that column `c` of half `h` adds in a k-step, in order; none at or beyond COUNT (R191). -/
def columnTerms (env : NumEnv) (a : Block) (t : Tile) (h : Side) (sp : Special) (c : Nat) : List (Nat × Fl) :=
  match t with
  | .dense cols sigma => (match cols[c]? with
    | some b => [denseTerm env a b (nth one32 sigma c) sp.dense]
    | none => [])
  | .seeded seed coefs count sigma delta =>
    if count ≤ c then []
    else
      seedTerms env a seed (128 * b2n h + c) (nth one32 sigma c) sp.seeded coefs 0
        ++ (match delta with
            | some ds => (match ds[c]? with
              | some b => [denseTerm env a b (nth one32 sigma c) sp.dense]
              | none => [])
            | none => [])
  | _ => []

/-- Terms added into a narrow sum: each sum is rounded to FP24. -/
def addTerms (ts : List (Nat × Fl)) (n : Nat) : Nat × Fl :=
  ts.foldl (fun acc t =>
    let x := exactAdd 1 (decodeFp 15 acc.1) (decodeFp 15 t.1)
    let r := roundFp24 x.1
    (r.1, acc.2 ||| t.2 ||| x.2 ||| r.2)) (n, 0)

/-- The active columns of half `h`. -/
def activeCols (cfg : NestCfg) (whole : Bool) (h : Side) : Nat := if whole && h then min 128 (cfg.n - 128) else min 128 cfg.n

/-- The halves an operation of half `h` uses. -/
def halvesOf (h : Side) (whole : Bool) : List Side := if whole then [false, true] else [h]

/-- The passes of a tile: the beats of a k-step are wA times these (R208). -/
def tilePasses : Tile → Nat
  | .seeded _ coefs _ _ delta => (if 8 < coefs.length then 2 else 1) + b2n delta.isSome
  | _ => 1

def slotAt (c : Site) (h : Side) (i : Nat) : Slot := (halfOf c h).slots.get Slot.empty i

/-- The narrow sums of a half after a k-step, with its flags. -/
def stepNarrow (env : NumEnv) (a : Block) (t : Tile) (h : Side) (sp : Special) (cols : Nat) (w : Table (BitVec 24)) : Table (BitVec 24) × Fl :=
  (List.range cols).foldl (fun (p : Table (BitVec 24) × Fl) c =>
    let r := addTerms (columnTerms env a t h sp c) (p.1.get 0 c).toNat
    (p.1.setD 0 c (.ofNat 24 r.1), p.2 ||| r.2)) (w, 0)

/-- The row of an A tile. -/
def aRow (t : Tile) (row : Nat) : Option (Nat × Block) := match t with
  | .a w rows => rows[row]?.map fun b => (w, b)
  | _ => none

def isB : Tile → Bool
  | .dense _ _ => true
  | .seeded _ _ _ _ _ => true
  | _ => false

/-! ## Accumulators (R38, R212) -/

def accOf (h : Half) (b : Side) : Table Lane := if b then h.accB else h.accA

def setAcc (b : Side) (t : Table Lane) (h : Half) : Half := if b then { h with accB := t } else { h with accA := t }

/-! ### Errors in slots and sums (18 R420, R421) -/

/-- The errors of kind `e` in a range of a half's sums. -/
def sumErrors (e lo n : Nat) (v : Half) : List Nat := (v.sumErrs.cells.filter fun p => p.2 == e && decide (lo ≤ p.1 ∧ p.1 < lo + n)).map (·.1)

def dropSums (lo n : Nat) (v : Half) : Half := { v with sumErrs := dropRange lo (lo + n) v.sumErrs }

/-- Where the sums of a row stand: its accumulators, and the narrow sums of the half. -/
def rowSums (b : Side) (row : Nat) : Nat := 16384 * b2n b + 256 * row

def narrowSums : Nat := 32768

/-- The first uncorrectable error in the accumulators of a row, or in the narrow sums, of some halves: its SERRU index. -/
def sumSpoiled (c : Site) (hs : List Side) (b : Side) (row : Nat) (acc narrow : Bool) : Option Nat :=
  hs.findSome? fun hh =>
    let v := halfOf c hh
    ((if acc then sumErrors 2 (rowSums b row) 128 v else []) ++ (if narrow then sumErrors 2 narrowSums 128 v else [])).head?.map fun x =>
      256 * row + 128 * b2n hh + x % 256

/-- What is read is corrected, and the errors counted. -/
def sumCorrected (hs : List Side) (b : Side) (row : Nat) (acc narrow : Bool) (c : Site) : Site :=
  hs.foldl (fun c hh =>
    let v := halfOf c hh
    let n := (if acc then (sumErrors 1 (rowSums b row) 128 v).length else 0) + (if narrow then (sumErrors 1 narrowSums 128 v).length else 0)
    if n = 0 then c
    else countSerrc n (modHalf hh (fun v => (if narrow then dropSums narrowSums 128 else id) ((if acc then dropSums (rowSums b row) 128 else id) v)) c)) c

/-- A fault of the half's nest, or of its aout, at a sum that cannot be corrected. -/
def sumFault (k : Nat) (h : Side) (i : Nat) (s : State) : State := halfStop k h (.trap 0x2D 0) (modSite k (logSerru 2 i) s)

/-- A slot that cannot be corrected becomes Free. -/
def slotFailure (k : Nat) (h : Side) (p : Side × Nat) (s : State) : State :=
  halfStop k h (.trap 0x2D 0) (modSite k (fun c => logSerru 1 (8 * b2n p.1 + p.2)
    (modHalf p.1 (fun v => { v with slots := v.slots.put p.2 Slot.empty, slotErrs := v.slotErrs.setD 0 p.2 0 }) c)) s)

/-- A slot that is read is corrected. -/
def slotCorrected (p : Side × Nat) (c : Site) : Site :=
  if (halfOf c p.1).slotErrs.get 0 p.2 = 1 then countSerrc 1 (modHalf p.1 (fun v => { v with slotErrs := v.slotErrs.setD 0 p.2 0 }) c) else c

/-- Sums written into a row of a bank. -/
def putSums (b : Side) (row : Nat) (sums : List (Nat × Lane)) (v : Half) : Half :=
  setAcc b (sums.foldl (fun t x => t.setD 0 (128 * row + x.1) x.2) (accOf v b)) v

/-- A bank with the sums that are still to land in it (R205). -/
def accNow (c : Site) (hh b : Side) : Table Lane :=
  accOf (c.pipe.foldl (fun v p => match p.act with
    | .sumRow x y row sums => if x = hh ∧ y = b then putSums b row sums v else v
    | _ => v) (halfOf c hh)) b

/-- Promotion of one half's narrow sums `w` into row `r` of bank `t`, `prom` counting from 0: the new sums of its columns (R38). -/
def promoteSums (env : NumEnv) (cfg : NestCfg) (r prom cols : Nat) (hh : Side) (w : Table (BitVec 24)) (t : Table Lane) : List (Nat × Lane) × Fl :=
  let l := (List.range cols).map fun c =>
    let x := exactAdd env.rm (decodeFp 23 (t.get 0 (128 * r + c)).toNat) (decodeFp 15 (w.get 0 c).toNat)
    let y := roundFp 23 x.1 env.rm env.oz (srAt env (prom % 65536) (r - cfg.rbase) (128 * b2n hh + c))
    ((c, BitVec.ofNat 32 y.1), x.2 ||| y.2)
  (l.map (·.1), orFlags (l.map (·.2)))

/-- An accumulator row of the halves as bytes, with the flags of its conversion to BF16 under RNE (R209, R213). -/
def rowData (c : Site) (h whole b : Side) (cols : Side → Nat) (row : Nat) (bf : Bool) (env : NumEnv) : List Byte × Fl :=
  let one (hh : Side) (i : Nat) : List Byte × Fl :=
    let w := ((accNow c hh b).get 0 (128 * row + i)).toNat
    if bf then
      let r := convertElem env 0 1 1 0 w
      (leBytes 2 r.1, r.2)
    else (leBytes 4 w, 0)
  let l := (halvesOf h whole).flatMap fun hh => (List.range (cols hh)).map (one hh)
  (l.flatMap (·.1), orFlags (l.map (·.2)))

/-! ## The run of a nest (R205 to R210) -/

/-- The head nest of a half that is running: the first that has not reached its end. -/
def nestIndex (h : Half) : Option Nat := (List.range h.nests.length).find? fun i => match h.nests[i]? with
  | some n => n.done.isNone
  | none => false

def modNest (h : Side) (i : Nat) (f : Nest → Nest) (c : Site) : Site :=
  modHalf h (fun v => { v with nests := (v.nests.zip (List.range v.nests.length)).map fun p => if p.2 = i then f p.1 else p.1 }) c

/-- The next index vector in nest order, none after the last. -/
def nextIdx : List Nat → List Nat → Option (List Nat)
  | i :: is, n :: ns => if i + 1 < n then some ((i + 1) :: is) else (nextIdx is ns).map (0 :: ·)
  | _, _ => none

/-- The levels that end at an index vector: the run of innermost levels at their last index. -/
def endingLevels : List Nat → List Level → List Level
  | i :: is, v :: vs => if i + 1 = v.count then v :: endingLevels is vs else []
  | _, _ => []

/-- Promote the pending sums of a nest into a row, in all its halves: the new sums land 4 beats on, and the narrow sums begin again (R205). -/
def promoteNest (k : Nat) (h : Side) (i row : Nat) (s0 : State) : State :=
  let c := site k s0
  match (halfOf c h).nests[i]? with
  | none => s0
  | some n =>
    let cfg := nestCfg (halfOf c h) n.bank
    let hs := halvesOf h n.whole
    match sumSpoiled c hs n.bank row true true with
    | some e => sumFault k h e s0
    | none =>
    let s := modSite k (sumCorrected hs n.bank row true true) s0
    let s1 := hs.foldl (fun s hh =>
      let x := site k s
      let p := promoteSums (nestEnv n) cfg row n.prom (activeCols cfg n.whole hh) hh (halfOf x hh).narrow (accNow x hh n.bank)
      let land : Pend := ⟨x.now + 4, x.now, halfHead h, none, headRink c (halfHead h), false, .sumRow hh n.bank row p.1⟩
      modSite k (fun c => { modNest h i (fun n => { n with flags := n.flags ||| p.2 }) (modHalf hh (fun v => { v with narrow := Table.empty }) c) with
                            pipe := c.pipe ++ [land] }) s) s
    let r := headRink c (halfHead h)
    charge k n.issuer 11 hs.length (modSite k (fun c => countEvent (liveJob s) r 0x0C 1 (modNest h i (fun n => { n with pend := 0, prom := n.prom + 1 }) c)) s1)

/-- An OUT action: the row as it stands, written 4 beats after the k-step's end (R209). A conflict is a deviation, or delays it. In the order of 10 R258 its issue beat
is the one in which the k-step ends (DESIGN CHOICE, notes/assumptions/42.md). -/
def outAction (k : Nat) (h : Side) (n : Nest) (cfg : NestCfg) (row : Nat) (s0 : State) : State :=
  match sumSpoiled (site k s0) (halvesOf h n.whole) n.bank row true false with
  | some e => sumFault k h e s0
  | none =>
  let s := modSite k (sumCorrected (halvesOf h n.whole) n.bank row true false) s0
  let c := site k s
  let r := headRink c (halfHead h)
  let addr := tmMod (affine cfg.obase (cfg.levels.map (·.ostr)) n.idx)
  let d := rowData c h n.whole n.bank (activeCols cfg n.whole) row cfg.bf16 (nestEnv n)
  let act := Act.outRow addr d.1
  let i := (nestIndex (halfOf c h)).getD 0
  let flagged := modSite k (modNest h i fun n => { n with flags := n.flags ||| d.2 }) s
  let due := c.now + 4
  if halfTimed c h then
    match conflict c (halfHead h) due (actSpans act) with
    | some e => halfStop k h (.stall e.1 e.2 0 none) flagged
    | none => modSite k (fun c => { c with pipe := c.pipe ++ [⟨due, c.now, halfHead h, none, r, false, act⟩] }) flagged
  else
    let d := freeBeat c (halfHead h) (actSpans act) due
    modSite k (fun c => modNest h i (fun n => { n with outDue := max n.outDue d })
      { countEvent (liveJob s) r 0x08 (d - due) c with pipe := c.pipe ++ [⟨d, c.now, halfHead h, none, r, false, act⟩] }) flagged

/-- SWAP: every slot read since the last SWAP goes from Ready to Claimed (R209). -/
def swapSlots (h : Side) (i : Nat) (n : Nest) (c : Site) : Site :=
  modNest h i (fun n => { n with read := [] })
    (n.read.foldl (fun c p => modHalf p.1 (fun v =>
      let sl := v.slots.get Slot.empty p.2
      if sl.st = .ready then { v with slots := v.slots.put p.2 ⟨.claimed, .none, sl.flags⟩ } else v) c) c)

def addSignal (k : Nat) (h : Side) (flag due : Nat) (s : State) : State :=
  modSite k (fun c => { c with pipe := c.pipe ++ [⟨due, c.now, halfHead h, none, headRink c (halfHead h), false, .signal flag⟩] }) s

/-- The end-of-level actions of one level, in order (R209). A signal does not come before the OUT writes it releases, which a conflict puts off in free
mode (11 R285). -/
def levelActions (k : Nat) (h : Side) (i row : Nat) (cfg : NestCfg) (v : Level) (s : State) : State :=
  let nest (s : State) : Option Nest := (halfOf (site k s) h).nests[i]?
  let pending (s : State) : Bool := match nest s with
    | some n => decide (0 < n.pend)
    | none => false
  let s1 := if bitOf v.act 0 && pending s then promoteNest k h i row s else s
  let s2 := if bitOf v.act 2 then (match nest s1 with
    | some n => outAction k h n cfg row s1
    | none => s1) else s1
  let s3 := if bitOf v.act 1 then (match nest s2 with
    | some n => modSite k (swapSlots h i n) s2
    | none => s2) else s2
  let at' := match nest s3 with
    | some n => max ((site k s3).now + 4) n.outDue
    | none => (site k s3).now + 4
  if bitOf v.act 3 then addSignal k h (field v.act 13 8) at' s3 else s3

/-- A k-step ends in this beat: its row's promotion by the period or a PROMOTE word, the actions of the levels that end, and the next
index vector or the end of the nest (R205). -/
def endStep (k : Nat) (h : Side) (i : Nat) (s : State) : State :=
  let c := site k s
  match (halfOf c h).nests[i]? with
  | none => s
  | some n =>
    let cfg := nestCfg (halfOf c h) n.bank
    let row := (affine cfg.rbase (cfg.levels.map (·.rstr)) n.idx).toNat
    let s1 := modSite k (modNest h i fun n => { n with pend := n.pend + 1, last := some row, busy := false }) s
    let asked := match (halfOf c h).promoteAt with
      | some b => decide (b < c.now)
      | none => false
    let s2 := if n.pend + 1 = n.period || asked then promoteNest k h i row s1 else s1
    let s3 := if asked then modSite k (modHalf h fun v => { v with promoteAt := none }) s2 else s2
    let s4 := (endingLevels n.idx cfg.levels).foldl (fun s v => levelActions k h i row cfg v s) s3
    match nextIdx n.idx (cfg.levels.map (·.count)) with
    | some idx => modSite k (modNest h i fun n => { n with idx := idx, step := c.now }) s4
    | none =>
      let left := match (halfOf (site k s4) h).nests[i]? with
        | some n => decide (0 < n.pend)
        | none => false
      let s5 := if left then promoteNest k h i row s4 else s4
      modSite k (fun c => modHalf h (fun v => { v with promoteAt := none }) (modNest h i (fun n => { n with done := some (c.now + 4) }) c)) s5

/-- The slots a k-step reads: the A slot in the nest's own half, the B slot in each half it uses (R207). -/
def stepSlots (n : Nest) (cfg : NestCfg) : Nat × Nat × Nat :=
  let a := (affine cfg.abase (cfg.levels.map (·.astr)) n.idx).toNat
  (a / 128, a % 128, (affine cfg.sbase (cfg.levels.map (·.sstr)) n.idx).toNat)

def absSlot (h : Side) (i : Nat) : Nat := 8 * b2n h + i

/-- Reading a slot: its held flags go to the operation that reads it first (R200). -/
def takeSlot (h : Side) (j i : Nat) (hh : Side) (c : Site) : Site :=
  let v := slotAt c hh j
  modNest h i (fun n => { n with taken := n.taken ||| v.flags, read := (n.read.filter fun p => p != (hh, j)) ++ [(hh, j)] })
    (modHalf hh (fun w => { w with slots := w.slots.put j { v with flags := 0 } }) c)

/-- A signal of the half failed and is tried again: its nest pauses before its next k-step (R209). -/
def signalPending (c : Site) (h : Side) : Bool :=
  c.pipe.any fun p => p.stream == halfHead h && p.again && (match p.act with
    | .signal _ => true
    | _ => false)

/-- A k-step is due to start (R206, R207): the pending sums of another row are promoted first; the slots must be Ready and in their roles. -/
def beginStep (k : Nat) (h : Side) (i : Nat) (s : State) : State :=
  let c := site k s
  match (halfOf c h).nests[i]? with
  | none => s
  | some n0 =>
    let cfg := nestCfg (halfOf c h) n0.bank
    let row := (affine cfg.rbase (cfg.levels.map (·.rstr)) n0.idx).toNat
    let s1 := match n0.last with
      | some l => if l ≠ row ∧ 0 < n0.pend then promoteNest k h i l s else s
      | none => s
    let c1 := site k s1
    let n := ((halfOf c1 h).nests[i]?).getD n0
    let sl := stepSlots n cfg
    let hs := halvesOf h n.whole
    let slots := (h, sl.1) :: hs.map fun hh => (hh, sl.2.2)
    let wait (s : State) : State := modSite k (modNest h i fun n => { n with step := c.now + 1 }) s
    match slots.find? fun p => (slotAt c1 p.1 p.2).st != .ready with
    | some p => if halfTimed c h then halfStop k h (.stall 3 (absSlot p.1 p.2) 0 none) s1 else wait s1
    | none =>
      if signalPending c1 h && !halfTimed c h then wait s1
      else
        match aRow (slotAt c1 h sl.1).tile sl.2.1, hs.find? fun hh => !isB (slotAt c1 hh sl.2.2).tile with
        | some (wa, a), none =>
          match slots.find? fun p => (halfOf c1 p.1).slotErrs.get 0 p.2 == 2 with
          | some p => slotFailure k h p s1
          | none =>
          match sumSpoiled c1 hs n.bank row false true with
          | some e => sumFault k h e s1
          | none =>
          let env := nestEnv n
          let sp : Special := {
            dense := a.e == 255 || hs.any fun hh => specialCols (slotAt c1 hh sl.2.2).tile (activeCols cfg n.whole hh)
            seeded := a.e == 255 || hs.any fun hh => specialCoefs (slotAt c1 hh sl.2.2).tile }
          let s2 := hs.foldl (fun s hh =>
            let v := halfOf (site k s) hh
            let p := stepNarrow env a (slotAt (site k s) hh sl.2.2).tile hh sp (activeCols cfg n.whole hh) v.narrow
            modSite k (fun c => modNest h i (fun n => { n with flags := n.flags ||| p.2 }) (modHalf hh (fun v => { v with narrow := p.1 }) c)) s)
            (modSite k (fun c => slots.foldl (fun c p => slotCorrected p c) (sumCorrected hs n.bank row false true c)) s1)
          let s3 := slots.foldl (fun s p => modSite k (takeSlot h p.2 i p.1) s) s2
          let d := wa * (hs.map fun hh => tilePasses (slotAt c1 hh sl.2.2).tile).foldl max 1
          let r := headRink c (halfHead h)
          charge k n.issuer 10 (d * hs.length)
            (modSite k (fun c => countEvent (liveJob s) r 0x05 1 (modNest h i (fun n => { n with busy := true, step := c.now + d }) c)) s3)
        | none, _ => halfStop k h (.trap 0x24 (absSlot h sl.1)) s1
        | some _, some hh => halfStop k h (.trap 0x24 (absSlot hh sl.2.2)) s1

/-- The beat of a half's running nest: a k-step that ends in it, then one that starts in it. -/
def nestBeat (k : Nat) (h : Side) (s : State) : State :=
  match nestIndex (halfOf (site k s) h) with
  | none => s
  | some i =>
    let due (s : State) (busy : Bool) : Bool := match (halfOf (site k s) h).nests[i]? with
      | some n => n.started && n.done.isNone && n.busy == busy && decide (n.step ≤ (site k s).now)
      | none => false
    let s1 := if due s true then endStep k h i s else s
    if due s1 false then beginStep k h i s1 else s1

/-- Rows RBASE to RBASE + M − 1 of the active columns become +0.0 (R205). -/
def clearRows (cfg : NestCfg) (b : Side) (cols : Nat) (v : Half) : Half :=
  (List.range cfg.m).foldl (fun v i => dropSums (rowSums b (cfg.rbase + i)) 128 v) <| setAcc b ((List.range cfg.m).foldl (fun t i => (List.range cols).foldl (fun t c => t.setD 0 (128 * (cfg.rbase + i) + c) 0) t) (accOf v b)) v

/-- A queued nest starts (R203, R205): its rows are cleared in overwrite mode; with nothing to do it retires four beats on. -/
def startNest (k : Nat) (h : Side) (s : State) : State :=
  let c := site k s
  match nestIndex (halfOf c h) with
  | none => s
  | some i =>
    match (halfOf c h).nests[i]? with
    | none => s
    | some n =>
      if n.started ∨ c.now < n.issued + 2 then s
      else
        let cfg := nestCfg (halfOf c h) n.bank
        let none' := cfg.m == 0 || cfg.n == 0
        let s1 := if none' || n.accumulate then s
          else (halvesOf h n.whole).foldl (fun s hh => modSite k (modHalf hh (clearRows cfg n.bank (activeCols cfg n.whole hh))) s) s
        let s2 := modSite k (modNest h i fun n => { n with started := true, step := c.now,
                                                           done := if nestEmpty cfg then some (c.now + 4) else none }) s1
        if nestEmpty cfg then s2 else nestBeat k h s2

/-- NEST_START (R205). -/
def execNestStart (k : Nat) (h : Bool) (s : State) : Outcome State Fault Refusal := .next (startNest k h s)

/-- A nest retires (R205, R200): its flags merge into the issuing context, its bank is disarmed, DONE is signalled. -/
def retireNest (k : Nat) (h : Side) (s : State) : State :=
  let c := site k s
  match (halfOf c h).nests with
  | [] => s
  | n :: ns =>
    match n.done with
    | none => s
    | some d =>
      if c.now < max d n.outDue then s
      else
        let cfg := nestCfg (halfOf c h) n.bank
        let r := headRink c (halfHead h)
        let s1 := modSite k (fun c => modHalf h (fun v => { v with nests := ns }) (modCtx n.issuer (fun x => { x with fstat := x.fstat ||| n.flags ||| n.taken }) c)) s
        let s2 := if n.flags.getLsbD 4 then modSite k (countEvent (liveJob s) r 0x0D 1) s1 else s1
        if bitOf cfg.done 6 then addSignal k h (cfg.done % 64) c.now s2 else s2

/-- NEST_RETIRE (R205). -/
def execNestRetire (k : Nat) (h : Bool) (s : State) : Outcome State Fault Refusal := .next (retireNest k h s)

/-! ## Other matrix words (R197, R211 to R214) -/

/-- A nest at index vector `idx` will read a slot before a SWAP hands it back: a SWAP hands back the slots read since the one before, of which it is
one where `given` says so. -/
def willRead (h : Side) (n : Nest) (cfg : NestCfg) (slot : Side × Nat) (given : Bool) : Nat → List Nat → Bool
  | 0, _ => false
  | fuel + 1, idx =>
    let sl := stepSlots { n with idx := idx } cfg
    let swaps := (endingLevels idx cfg.levels).any fun v => bitOf v.act 1
    if slot == (h, sl.1) || (slot.2 == sl.2.2 && (halvesOf h n.whole).contains slot.1) then true
    else if swaps && given then false
    else match nextIdx idx (cfg.levels.map (·.count)) with
      | some j => willRead h n cfg slot (given && !swaps) fuel j
      | none => false

/-- A running or queued nest will still read a Ready slot (R197). -/
def slotInUse (c : Site) (slot : Side × Nat) : Bool :=
  [false, true].any fun h => (halfOf c h).nests.any fun n =>
    let cfg := nestCfg (halfOf c h) n.bank
    n.done.isNone && !nestEmpty cfg && willRead h n cfg slot (n.read.contains slot) ((cfg.levels.map (·.count)).prod) n.idx

/-- RELEASE (R197). -/
def execRelease (slot : BitVec 4) (s : State) : Outcome State Fault Refusal :=
  let c := mySite s
  let v := slotOf c slot
  .next (seqWord [slotHalfHit s slot, hitIf (v.st == .free) (slotFault slot v), hitIf (v.st == .filling) (.stall 3 slot.toNat 0 none),
      hitIf (v.st == .ready && slotInUse c (s.cur.half, slot.toNat % 8)) (.stall 3 slot.toNat 0 none)] 1 1
    (fun s => putSlot slot Slot.empty (halfFlags s.cur.site s.cur.half v.flags s)) s)

/-- PROMOTE (R211). -/
def execPromote (s : State) : Outcome State Fault Refusal :=
  let c := mySite s
  .next (seqWord [hitIf (s.cur.half && heldWhole c) (.stall 3 0 0 none)] 1 1
    (modMyHalf fun h => { h with promoteAt := if h.nests.any (fun n => n.started && n.done.isNone) then some c.now else none }) s)

/-- ACLR (R212): performed at b + 2. -/
def execAclr (whole bank : Bool) (s : State) : Outcome State Fault Refusal :=
  let c := mySite s
  let h := s.cur.half
  let r := headRink c (myHead s)
  let p : Pend := ⟨c.now + 2, c.now, myHead s, none, r, false, .accClear h bank whole⟩
  .next (seqWord (wholeHits c r h whole 2 ++ [hitIf (h && heldWhole c) (.stall 3 (b2n bank) 0 none),
      hitIf ((halvesOf h whole).any fun hh => accBusy c hh bank) (.stall 3 (b2n bank) 0 none)]) 1 1
    (modMySite fun c => { c with pipe := c.pipe ++ [p] }) s)

/-- The row actions of an aout: row i at b + 2 + i, later in free mode where it meets a conflict, with the beats so lost. -/
def aoutPends (c : Site) (r : Nat) (h bank whole : Bool) (row0 rows len : Nat) (bf clear : Bool) (fctl : BitVec 6) (tile : Option Nat)
    (d : Nat) : List Pend × Nat :=
  let mk (due i : Nat) : Pend :=
    ⟨due, c.now, halfHead h, none, r, false, .aoutRow h bank whole (row0 + i) bf clear fctl tile (if tile.isSome then len * i else d + len * i) (rows - i)⟩
  let ps := (List.range rows).map fun i => mk (c.now + 2 + i) i
  if halfTimed c h then (ps, 0) else placeFree c (halfHead h) 0 ps

/-- AOUT (R213): it pops a destination, then a format word. -/
def execAout (tile whole bank : Bool) (s : State) : Outcome State Fault Refusal :=
  let c := mySite s
  let h := s.cur.half
  let r := headRink c (myHead s)
  let q := mySeq s
  let d := (top q 0).toNat
  let f := (top q 1).toNat
  let rows := field f 6 0
  let row0 := field f 13 8
  let bf := bitOf f 16
  let len := (if bf then 256 else 512) * (1 + b2n whole)
  let x := ctxOf c (homeCtx c r)
  let t := d % 16
  let pends := aoutPends c r h bank whole row0 rows len bf (bitOf f 17) (sampleFctl c.now x) (if tile then some t else none) d
  let clash := if halfTimed c h then pends.1.findSome? (fun p => conflict c (halfHead h) p.due (actSpans p.act)) else none
  .next (seqWord (wholeHits c r h whole 2 ++ [popHit 2 q, hitIf (h && heldWhole c) (.stall 3 (b2n bank) 0 none),
      hitIf ((halvesOf h whole).any fun hh => accBusy c hh bank) (.stall 3 (b2n bank) 0 none),
      hitIf (f / 2 ^ 18 != 0 || field f 15 14 != 0 || bitOf f 7 || rows == 0 || decide (64 < row0 + rows)
        || (tile && (16 ≤ d || 8192 < rows * len))) (.trap 0x22 0)]
      ++ (if tile then [hitIf (!ownsFlag c r t) (.trap 0x14 0), hitIf (!tileEmpty c t) (.stall 1 t 0 (some t))]
          else hitIf (d % 4 != 0 || 2 ^ 24 ≤ d) (.tmTrap 0x17 0 (if 2 ^ 24 ≤ d then 5 else 1) (d % 2 ^ 24)) :: (List.range rows).map fun i => tmCheck c r (d + len * i) len false (fun _ => false) 0)
      ++ [clash.map fun e => .stall e.1 e.2 0 none]) 1 1
    (fun s => modMySite (addPends (liveJob s) r pends) (modMySeq (fun q => { q with stack := q.stack.drop 2 }) s)) s)

/-- MEND (R214): the half's stream ends; armed nests and queued fills go on. -/
def execMend (s : State) : Outcome State Fault Refusal :=
  .next (seqWord (endHits (mySeq s)) 1 1 (modMyHalf fun h => { h with ctl := { h.ctl with running := false } }) s)

end Sys2Proof.Machine
end

