-- ==== Sys2Proof/Machine/VectorMem.lean ====
section
/-!
DEFINITION. Vector engine words that reach tile memory, the tile registers and the index registers (06 R175 to R179).
-/

namespace Sys2Proof.Machine

open Host (Outcome)

/-! ## Tile memory (R175 to R177) -/

/-- The byte address of lane i (R175): `form` 0 is contiguous, 1 strided, 2 indexed. -/
def laneAddr (f : VFields) (v : Ve) (form i : Nat) : Nat :=
  let base := getX v f.va.toNat + .ofInt 32 (4 * f.aux.toInt)
  let d : BitVec 32 := match form with
    | 0 => .ofNat 32 (4 * i)
    | 1 => .ofNat 32 i * getX v f.vb.toNat
    | _ => nth 0 (srcVal v f 1) i
  (base + d).toNat

/-- The lanes and the beats of a form: how many lanes are performed in a beat. -/
def formWidth (form : Nat) : Nat := match form with
  | 0 => 64
  | 1 => 16
  | _ => 4

/-- The active lanes with their addresses. -/
def activeAddrs (f : VFields) (v : Ve) (form : Nat) : List (Nat × Nat) :=
  let act := activeLanes v f
  ((List.range 64).filter fun i => act.getLsbD i).map fun i => (i, laneAddr f v form i)

/-- The checks of R177 on a lane, which its access performs in beat `due`. -/
def laneHit (c : Site) (isRead : Bool) (due : Nat) (l : Nat × Nat) : Option Hit :=
  if l.2 % 4 ≠ 0 then some (.trap 7 l.1)
  else tmCheck c (veRink c) l.2 4 isRead (comingGroup c due) l.1

/-- Lanes that can be performed in one beat, from the front: none names a second row group of a bank (10 R258). -/
def splitLanes : Nat → List (Nat × Nat) → List (List (Nat × Nat))
  | 0, ls => [ls]
  | n + 1, ls =>
    let clash (a b : Nat × Nat) : Bool := a.2 / 4096 % 16 == b.2 / 4096 % 16 && a.2 / 4096 != b.2 / 4096
    let go := ls.foldl (fun (p : List (Nat × Nat) × List (Nat × Nat)) l =>
      if p.2.isEmpty && !p.1.any (clash l) then (p.1 ++ [l], p.2) else (p.1, p.2 ++ [l])) ([], [])
    if go.2.isEmpty then [go.1] else go.1 :: splitLanes n go.2

/-- The action of a lane group. -/
def groupAct (isRead : Bool) (phys : Nat) (data : List Lane) (ls : List (Nat × Nat)) : Act :=
  if isRead then .veLoad ls phys else .veStore (ls.map fun l => (l.2, nth 0 data l.1))

/-- The lane groups of an access by their beat. -/
def laneGroups (form : Nat) (ls : List (Nat × Nat)) : List (Nat × List (Nat × Nat)) :=
  let w := formWidth form
  ((List.range (64 / w)).map fun j => (j, ls.filter fun l => l.1 / w == j)).filter fun g => !g.2.isEmpty

/-- The stream's accesses are performed in program order: not before those that wait (R176). -/
def lastVeDue (c : Site) : Nat :=
  (c.pipe.filter fun p => p.stream == 2).foldl (fun m p => match p.act with
    | .veLoad _ _ | .veStore _ => max m p.due
    | _ => m) 0

/-- The actions of an access: at its fixed beats in timetabled mode; in free mode a group that meets a conflict waits whole beats, and
later ones keep their order (R176); with the beats so lost. -/
def accessPends (c : Site) (timetabled isRead : Bool) (form phys : Nat) (data : List Lane) (ls : List (Nat × Nat)) : List Pend × Nat :=
  let mk (due : Nat) (g : List (Nat × Nat)) : Pend := ⟨due, c.now, 2, none, veRink c, false, groupAct isRead phys data g⟩
  if timetabled then ((laneGroups form ls).map fun g => mk (c.now + 2 + g.1) g.2, 0)
  else
    let parts := (laneGroups form ls).map fun g => (splitLanes 64 g.2).map (mk (c.now + 2 + g.1))
    let p := placeFree c 2 (lastVeDue c) parts.flatten
    (p.1, p.2 + (parts.map fun q => q.length - 1).sum)

/-- The lane checks of an access, each lane in the beat that performs it. -/
def laneHits (c : Site) (isRead : Bool) (form : Nat) (pends : List Pend) (ls : List (Nat × Nat)) : List (Option Hit) :=
  let has (l : Nat × Nat) (p : Pend) : Bool := (actSpans p.act).any (·.1 == l.2)
  ls.map fun l => laneHit c isRead (((pends.find? (has l)).map (·.due)).getD (c.now + 2 + l.1 / formWidth form)) l

/-- The first conflict an access meets in timetabled mode. -/
def accessClash (c : Site) (pends : List Pend) : Option Hit :=
  (pends.findSome? fun p => conflict c 2 p.due (actSpans p.act)).map fun e => .stall e.1 e.2 0 none

/-- The beats a form occupies, and the latency of its load (R152). -/
def formOcc (form : Nat) : Nat := 64 / formWidth form

/-- A vector load (R175): 4 beats from the last group's performance to the result. -/
def vLoad (f : VFields) (form : Nat) (s : State) : State :=
  let c := mySite s
  let v := c.ve
  let ls := activeAddrs f v form
  let pends := accessPends c v.ctl.timetabled true form (physV v.loop f.vd.toNat) [] ls
  let ready := pends.1.foldl (fun m p => max m (p.due + 4)) (c.now + formOcc form + 5)
  veWord f (if form = 2 then [1] else [])
    ([readX c.now v f.va.toNat, if form = 1 then readX c.now v f.vb.toNat else none, governHit c.now v f, writeV c.now v f.vd.toNat]
      ++ laneHits c true form pends.1 ls ++ [if v.ctl.timetabled then accessClash c pends.1 else none]) (formOcc form) (fun s =>
    modMySite (addPends (liveJob s) (veRink c) pends)
      (modMyVe (fun v => putV c.now (ready - c.now) f.vd.toNat (activeLanes v f) f.pmode (List.replicate 64 0) v) s)) s

/-- A vector store (R175). -/
def vStore (f : VFields) (form : Nat) (s : State) : State :=
  let c := mySite s
  let v := c.ve
  let ls := activeAddrs f v form
  let pends := accessPends c v.ctl.timetabled false form 0 (srcVal v f 2) ls
  veWord f (if form = 2 then [1, 2] else [2])
    ([readX c.now v f.va.toNat, if form = 1 then readX c.now v f.vb.toNat else none, governHit c.now v f]
      ++ laneHits c false form pends.1 ls ++ [if v.ctl.timetabled then accessClash c pends.1 else none]) (formOcc form)
    (modMySite (addPends (liveJob s) (veRink c) pends)) s

/-- VLD (R175). -/
def execVld (f : VFields) (s : State) : Outcome State Fault Refusal := .next (vLoad f 0 s)

/-- VLDS (R175). -/
def execVlds (f : VFields) (s : State) : Outcome State Fault Refusal := .next (vLoad f 1 s)

/-- VLDG (R175). -/
def execVldg (f : VFields) (s : State) : Outcome State Fault Refusal := .next (vLoad f 2 s)

/-- VST (R175). -/
def execVst (f : VFields) (s : State) : Outcome State Fault Refusal := .next (vStore f 0 s)

/-- VSTS (R175). -/
def execVsts (f : VFields) (s : State) : Outcome State Fault Refusal := .next (vStore f 1 s)

/-- VSCAT (R175). -/
def execVscat (f : VFields) (s : State) : Outcome State Fault Refusal := .next (vStore f 2 s)

/-! ## Tile registers (R178) -/

/-- In free mode the flag is checked as the word issues; in timetabled mode the check falls in the check beat. -/
def tileHit (c : Site) (t : Nat) (full : Bool) : Option Hit :=
  hitIf (!c.ve.ctl.timetabled && c.flags.full.getLsbD t != full) (.stall (if full then 0 else 1) t 0 (some t))

/-- VLDT: row vb[4:0] of tile register va, read in beat b + 1; vb[6] consumes. -/
def execVldt (f : VFields) (s : State) : Outcome State Fault Refusal :=
  let c := mySite s
  let v := c.ve
  let t := f.va.toNat
  let act := activeLanes v f
  let p : Pend := ⟨c.now + 1, c.now, 2, none, veRink c, false,
    .tileLoad t (f.vb.toNat % 32) (physV v.loop f.vd.toNat) act false (f.vb.getLsbD 6)⟩
  .next (veWord f [] [flagHit c (veRink c) t, governHit c.now v f, writeV c.now v f.vd.toNat, tileHit c t true] 1 (fun s =>
    modMySite (fun c => { c with pipe := c.pipe ++ [p] })
      (modMyVe (putV c.now 4 f.vd.toNat act f.pmode (List.replicate 64 0)) s)) s)

/-- VSTT: row vb[4:0] of tile register va, written in beat b + 2; row 31 sets it full. -/
def execVstt (f : VFields) (s : State) : Outcome State Fault Refusal :=
  let c := mySite s
  let v := c.ve
  let t := f.va.toNat
  let act := activeLanes v f
  let data := srcVal v f 2
  let p : Pend := ⟨c.now + 2, c.now, 2, none, veRink c, false,
    .tileStore t (f.vb.toNat % 32) (((List.range 64).filter fun i => act.getLsbD i).map fun i => (i, nth 0 data i))⟩
  .next (veWord f [2] [flagHit c (veRink c) t, governHit c.now v f, tileHit c t false] 1
    (modMySite fun c => { c with pipe := c.pipe ++ [p] }) s)

/-! ## Index registers (R179) -/

def indexWord (f : VFields) (srcs : List Nat) (w : Ve → BitVec 32) (s : State) : State :=
  let c := mySite s
  let v := c.ve
  veWord f [] (srcs.map (readX c.now v) ++ [writeX c.now v f.vd.toNat]) 1 (modMyVe (putX c.now 1 f.vd.toNat (w v))) s

/-- VXADDI (R179). -/
def execVxaddi (f : VFields) (s : State) : Outcome State Fault Refusal :=
  .next (indexWord f [f.va.toNat] (fun v => getX v f.va.toNat + f.aux.signExtend 32) s)

/-- VXADD (R179). -/
def execVxadd (f : VFields) (s : State) : Outcome State Fault Refusal :=
  .next (indexWord f [f.va.toNat, f.vb.toNat] (fun v => getX v f.va.toNat + getX v f.vb.toNat) s)

/-- VXSET (R179). -/
def execVxset (f : VFields) (s : State) : Outcome State Fault Refusal :=
  .next (indexWord f [] (fun _ => f.aux.setWidth 32) s)

end Sys2Proof.Machine
end

