-- ==== Sys2Proof/Machine/Perform.lean ====
section
/-!
DEFINITION. What a core performs as a beat begins and as it ends: pipeline entries that come due (09 R247, R248), the flag block (02 R56),
checks that need the whole beat (09 R249), trace and fault frames.
-/

namespace Sys2Proof.Machine

/-! ## Whose beats run -/

/-- The unit of a rink on a core trapped in this beat: its other streams end the beat as any other (09 R251). -/
def trappedNow (k r : Nat) (s : State) : Bool :=
  match unitAt r k s with
  | some (l, u) => u.trapped == some l.time
  | none => false

/-- The streams of a rink on a core stand still in this beat (09 R251). -/
def stopped (k r : Nat) (s : State) : Bool := frozenFor (site k s) r && !trappedNow k r s

/-- A head is of the Rink Sequencer, which no launch owns: a freeze of its core does not hold it (09 R251, 18 R414). -/
def freeOfFreeze (k r h : Nat) (s : State) : Bool := decide (h < 2) && isSequencer r k (h == 1) s

/-- The launch of a packet, and its unit on the core the packet is bound for: of the launch whose unit sent it. -/
def packetUnit (k : Nat) (p : Pend) (s : State) : Option (Launch × UnitRun) :=
  p.via.bind fun v => (unitAt p.rink v.1 s).bind fun q => (q.1.units.find? (·.site == k)).map fun u => (q.1, u)

/-- An entry is of a frozen core or router (09 R251, steps 1 and 4). A refresh that the device places is nobody's stream, and no freeze holds it (10 R273). -/
def entryFrozen (k : Nat) (p : Pend) (s : State) : Bool :=
  p.stream != deviceStream && (match packetUnit k p s with
    | some q => q.2.frozenAt.isSome
    | none => frozenFor (site k s) p.rink)

/-- A frozen entry is held, but for one of the beat in which its unit trapped. -/
def entryHeld (k : Nat) (s : State) (p : Pend) : Bool :=
  entryFrozen k p s && !(match packetUnit k p s with
    | some q => q.2.trapped == some q.1.time
    | none => trappedNow k p.rink s)

/-- The entry waits for the end of its beat: a producer's check follows that beat's clears, a push its pops (02 R54, R56). -/
def atEnd : Act → Bool
  | .tileStore _ _ _ => true
  | .signal _ => true
  | _ => false

/-- The entry reads. Reads of a beat are taken before its writes. -/
def isRead : Act → Bool
  | .ccLoad _ _ _ _ _ _ _ => true
  | .veLoad _ _ => true
  | .tileLoad _ _ _ _ _ _ => true
  | .aoutRow _ _ _ _ _ _ _ _ _ _ => true
  | _ => false

/-- The entry is a timetabled stream's. Only timetabled contexts put accesses of their own into a pipeline. -/
def entryTimed (c : Site) (p : Pend) : Bool :=
  match p.act with
  | .ccLoad _ _ _ _ _ _ _ | .tmStore _ _ _ | .collision _ _ => true
  | _ => (ctlOf c p.stream).timetabled

/-- Run an action as the streams of a site. -/
def asSite (k : Nat) (f : State → State) (s : State) : State :=
  let old := s.cur
  let t := f { s with cur := { old with site := k, lift := false, coll := false } }
  { t with cur := old }

/-- The core whose stream an entry is of. -/
def entryHome (k : Nat) (p : Pend) : Nat :=
  match p.act, p.via with
  | .ccLoad src _ _ _ _ _ _, _ => src
  | _, some v => v.1
  | _, none => k

/-- TMFAULT takes a fault of an entry in the order of its request (10 R278). -/
def latchEntry (k : Nat) (p : Pend) (h : Hit) (s : State) : State :=
  match h with
  | .tmTrap _ _ reason addr =>
    let c := site k s
    modSite (entryHome k p) (latchTm (requestRank (entryTimed c p) (c.now - p.made) (precedence p)) reason addr) s
  | _ => s

/-- A pipeline entry that meets what it may not: its stream stops. -/
def entryStop (k : Nat) (p : Pend) (h : Hit) (s0 : State) : State :=
  let s := latchEntry k p h s0
  match p.act with
  | .ccLoad src x _ _ _ _ _ => asCtx src x (ccStop h) s
  | _ =>
    let src := match p.via with
      | some v => v.1
      | none => k
    if p.stream < 2 then asCtx src (p.stream == 1) (ccStop h) s else asSite k (engineStop p.stream h) s

/-- An entry goes back into the pipeline. -/
def putBack (k : Nat) (p : Pend) (s : State) : State := modSite k (fun c => { c with pipe := c.pipe ++ [p] }) s

def dropPend (p : Pend) : List Pend → List Pend
  | [] => []
  | q :: qs => if q = p then qs else q :: dropPend p qs

/-! ## Entries -/

/-- A load's value reaches its register, which may be read from the beat reserved for it (04 R95). -/
def landLoad (x : Ctx) (kind : LoadKind) (ldc : Bool) (dst : Nat) (bytes : List Byte) (tag : Bool) : Ctx :=
  let ready := match kind with
    | .capability => x.aReady.get 0 dst
    | _ => x.sReady.get 0 dst
  finishLoad ready 0 kind dst bytes (ldc && tag) x

/-- Lanes that a vector load brings; a lane of an invalid group traps (06 R177). -/
def putLanes (t : Tm) (lanes : List (Nat × Nat)) (old : List Lane) : List Lane :=
  (List.range 64).map fun i => match lanes.find? (·.1 == i) with
    | some l => .ofNat 32 (leNat (tmRead t l.2 4))
    | none => nth 0 old i

def putRow (row : List Byte) (mask : BitVec 64) (old : List Lane) : List Lane :=
  (List.range 64).map fun i => if mask.getLsbD i then .ofNat 32 (leAt row (4 * i) 4) else nth 0 old i

def modReg (phys : Nat) (f : List Lane → List Lane) (v : Ve) : Ve := { v with v := v.v.put phys (f (v.v.get [] phys)) }

/-- The flags of an aout's rows merge as one with its last row. -/
def aoutFlags (p : Pend) (left : Nat) (fl : BitVec 6) (c : Site) : Site :=
  let same (q : Pend) : Bool := q.stream == p.stream && q.made == p.made && (match q.act with
    | .mergeFlags _ _ => true
    | _ => false)
  if fl = 0 then c
  else if c.pipe.any same then
    { c with pipe := c.pipe.map fun q => match q.act with
      | .mergeFlags x g => if same q then { q with act := .mergeFlags x (g ||| fl) } else q
      | _ => q }
  else { c with pipe := c.pipe ++ [⟨c.now + left, p.made, p.stream, none, p.rink, false, .mergeFlags (homeCtx c p.rink) fl⟩] }

/-- A row of an aout (07 R213): the row as it stands is converted and written; under CLEAR it becomes zero; its flags merge, and its tile register
is full, with the last row. -/
def performAout (k : Nat) (p : Pend) (half bank whole : Bool) (row : Nat) (bf clear : Bool) (fctl : BitVec 6) (tile : Option Nat) (addr left : Nat)
    (s0 : State) : State :=
  match sumSpoiled (site k s0) (halvesOf half whole) bank row true false with
  | some e => sumFault k half e s0
  | none =>
  let s := modSite k (sumCorrected (halvesOf half whole) bank row true false) s0
  let c := site k s
  let d := rowData c half whole bank (fun _ => 128) row bf (numEnv fctl 0)
  let wipe (t : Table Lane) : Table Lane := (List.range 128).foldl (fun t i => t.setD 0 (128 * row + i) 0) t
  modSite k (fun c =>
    let c1 := match tile with
      | some t => { c with tiles := c.tiles.put t ((c.tiles.get Table.empty t).writeBytes addr d.1) }
      | none => modTm (tmWrite addr d.1 none) c
    let c2 := if clear then (halvesOf half whole).foldl (fun c hh => modHalf hh (fun v => dropSums (rowSums bank row) 128 (setAcc bank (wipe (accOf v bank)) v)) c) c1 else c1
    let c3 := match tile with
      | some t => if left = 1 then setFlag t c2 else c2
      | none => c2
    aoutFlags p left d.2 c3) s

/-- A free-mode entry is performed a beat later; what follows it in its stream comes no earlier: a later access of the same vector engine to TM, the signal
and the retirement of a nest after its OUT. An access to a tile register has its beat all the same (06 R178). -/
def delayEntry (p : Pend) (c : Site) : Site :=
  let moves (q : Pend) : Bool := match q.act with
    | .sumRow _ _ _ _ | .mergeFlags _ _ | .tileLoad _ _ _ _ _ _ | .tileStore _ _ _ => false
    | _ => true
  let later (q : Pend) : Bool := q == p || (q.stream == p.stream && decide (p.due ≤ q.due ∧ 2 ≤ p.stream) && moves q)
  let loads := ((c.pipe.filter later).filterMap fun q => match q.act with
    | .veLoad _ phys => some phys
    | _ => none).dedup
  let nests (v : Half) : Half := { v with nests := v.nests.map fun n => if p.due ≤ n.outDue then { n with outDue := n.outDue + 1 } else n }
  let c1 := modVe (fun v => { v with vReady := loads.foldl (fun t n => t.put n (t.get 0 n + 1)) v.vReady })
    { c with pipe := c.pipe.map fun q => if later q then { q with due := max (q.due + 1) (c.now + 1) } else q }
  if p.stream = 3 then modHalf false nests c1 else if p.stream = 4 then modHalf true nests c1 else c1

/-- The entries that ask for one of `banks` in this beat. -/
def askers (k : Nat) (banks : List Nat) (s : State) : List Pend :=
  let c := site k s
  c.pipe.filter fun p => p.due ≤ c.now && !entryHeld k s p && p.stream != deviceStream && ((actSpans p.act).flatMap spanGroups).any fun g => banks.contains (g % 16)

/-- A fill holds one of `banks` in this beat. -/
def fillAsks (k : Nat) (h : Side) (banks : List Nat) (s : State) : Option Fill :=
  let c := site k s
  match (halfOf c h).fills with
  | f :: _ => if f.started.isSome && c.now ≤ f.ends && f.gave != c.now + 1 && f.banks.any (fun g => banks.contains (g % 16)) && !stopped k (headRink c (halfHead h)) s
      then some f else none
  | [] => none

/-- Entry `p` does without `bank` in this beat: a timetabled one deviates, a free one is performed a beat later. -/
def loseEntry (k bank : Nat) (s : State) (p : Pend) : State :=
  if entryTimed (site k s) p then entryStop k p (.stall 7 bank 0 none) (modSite k (fun c => { c with pipe := dropPend p c.pipe }) s)
  else modSite k (delayEntry p) s

/-- The fill of a half does without `bank` in this beat: a timetabled half deviates, a free fill goes on for a beat more. -/
def loseFill (k bank : Nat) (h : Side) (s : State) : State :=
  let given := modSite k (modFill h fun f => { f with gave := (site k s).now + 1 }) s
  if halfTimed (site k s) h then halfStop k h (.stall 7 bank 0 none) given
  else modSite k (modFill h fun f => { f with ends := f.ends + 1 }) given

/-- The refresh the device has placed takes its beat, whoever uses it (10 R271). -/
def meetRefresh (k g : Nat) (s : State) : State :=
  let bank := g % 16
  [false, true].foldl (fun s h => if (fillAsks k h [bank] s).isSome then loseFill k bank h s else s)
    ((askers k [bank] s).foldl (loseEntry k bank) s)

/-! ## Accesses of buffers, in the order of precedence (10 R258) -/

/-- An access of a context's buffer to the TM of core `home`. -/
structure Ask where
  core : Nat
  ctx : Side
  store : Bool
  home : Nat
  banks : List Nat
  age : Nat
  place : Nat

/-- The next accesses of a core's buffers that go to TM. -/
def asksOf (k : Nat) (s : State) : List Ask :=
  let c := site k s
  let ask (x : Side) (w : Bool) (a : Option Access) : List Ask :=
    match a with
    | some a => (match a.target with
      | .tm j addr => [⟨k, x, w, j, (spanGroups (addr, a.len, w)).map (· % 16), c.now - a.made, arrivalPlace k j x s⟩]
      | _ => [])
    | none => []
  [false, true].flatMap fun x => ask x false (ctxOf c x).buf.loads.head? ++ ask x true (ctxOf c x).buf.stores.head?

/-- The earlier issue beat goes first, then the place within the beat. -/
def firstAsk (a b : Ask) : Bool := decide (b.age < a.age ∨ (b.age = a.age ∧ a.place ≤ b.place))

/-- A request of `age` and `place` goes before the ask. -/
def beforeAsk (age place : Nat) (q : Ask) : Bool := decide (q.age < age ∨ (q.age = age ∧ place ≤ q.place))

/-- What comes after an access gives its banks up to it, unless a request before it has one of them. -/
def clearWay (q : Ask) (s : State) : State :=
  let k := q.home
  let c := site k s
  let es := askers k q.banks s
  let first (p : Pend) : Bool := beforeAsk (c.now - p.made) (precedence p) q
  let fills := [false, true].filterMap fun h => (fillAsks k h q.banks s).map fun f => (h, beforeAsk (c.now - f.started.getD c.now) (halfHead h) q)
  if es.any first || fills.any (·.2) then s
  else
    let bank := q.banks.headD 0
    let lost (r : Nat) (s : State) : State := modSite k (countEvent (liveJob s) r 0x08 1) s
    fills.foldl (fun s h => lost (headRink c (halfHead h.1)) (loseFill k bank h.1 s)) (es.foldl (fun s p => lost p.rink (loseEntry k bank s p)) s)

/-- The context's next access of the buffer is ready for its turn. -/
def askReady (q : Ask) (s : State) : Bool :=
  let c := site q.core s
  let b := (ctxOf c q.ctx).buf
  (if q.store then mayStore c.now b else mayLoad c.now b).isSome

/-- An access that can be performed now takes its turn. -/
def performAsk (s : State) (q : Ask) : State :=
  if !askReady q s then s
  else if q.store then performTmStore q.core q.ctx (clearWay q s)
  else performTmLoad q.core q.ctx (clearWay q s)

/-- What the buffers of cores perform in TM in a beat. -/
def performTm (ks : List Nat) (s : State) : State := ((ks.flatMap fun k => asksOf k s).mergeSort firstAsk).foldl performAsk s

/-- The store of an entry is a write of its stream's launch (05 R140). -/
def noteEntry (k : Nat) (p : Pend) (addr : Nat) (s : State) : State :=
  noteWrite p.rink (match p.via with
    | some v => v.1
    | none => k) k (addr / 4096) s

/-- One entry as its beat begins. It has left the pipeline. -/
def performEntry (k : Nat) (p : Pend) (s : State) : State :=
  let c := site k s
  match p.act with
  | .ccLoad src x addr len kind ldc dst =>
    if (spanGroups (addr, len, false)).all fun g => (groupOf c g).valid then
      match spoiled c.tm addr len with
      | some e => entryStop k p (.softTrap (some k) e) s
      | none =>
        modSite src (modCtx x fun v => landLoad v kind ldc dst (tmRead c.tm addr len) (c.tm.tags.get false (addr / 16)))
          (modSite k (corrected addr len) s)
    else entryStop k p (.tmTrap 0x19 0 3 addr) s
  | .tmStore addr data tag => noteEntry k p addr (modSite k (modTm (tmWrite addr data tag)) s)
  | .veLoad lanes phys =>
    match lanes.find? fun l => !(groupOf c (l.2 / 4096)).valid with
    | some l => entryStop k p (.tmTrap 0x19 l.1 3 l.2) s
    | none =>
      match lanes.findSome? fun l => spoiled c.tm l.2 4 with
      | some e => entryStop k p (.softTrap (some k) e) s
      | none => modSite k (fun c => lanes.foldl (fun c l => corrected l.2 4 c) (modVe (modReg phys (putLanes c.tm lanes)) c)) s
  | .veStore lanes =>
    lanes.foldl (fun s l => noteEntry k p l.1 s) (modSite k (modTm fun t => lanes.foldl (fun t l => tmWrite l.1 (leBytes 4 l.2.toNat) none t) t) s)
  | .tileLoad tile row phys mask _ consume =>
    if entryTimed c p && !flagReady c tile then
      entryStop k p (.stall 0 tile 0 (some tile)) (putBack k { p with again := true } s)
    else
      let data := (c.tiles.get Table.empty tile).readBytes (256 * row) 256
      modSite k (fun c => (if consume then clearFlag tile else id) (modVe (modReg phys (putRow data mask)) c)) s
  | .outRow addr data => noteEntry k p addr (modSite k (modTm (tmWrite addr data none)) s)
  | .aoutRow half bank whole row bf clear fctl tile addr left =>
    let s1 := performAout k p half bank whole row bf clear fctl tile addr left s
    if tile.isSome then s1 else noteEntry k p addr s1
  | .accClear half bank whole =>
    modSite k (fun c => (halvesOf half whole).foldl (fun c hh => modHalf hh (fun v => dropSums (rowSums bank 0) 16384 (setAcc bank Table.empty v)) c) c) s
  | .sumRow half bank row sums => modSite k (modHalf half (putSums bank row sums)) s
  | .mergeFlags x fl =>
    let c1 := modCtx x (fun v => { v with fstat := v.fstat ||| fl }) c
    setSite k (if fl.getLsbD 4 then countEvent (liveJob s) p.rink 0x0D 1 c1 else c1) s
  | .refresh g =>
    if p.stream = deviceStream then doRefresh k g (meetRefresh k g s)
    else
      match groupRegion c g with
      | some q =>
        if (groupOf c g).valid then
          charge k q.owner 14 1 (modSite k (fun c => countEvent (liveJob s) p.rink 0x0B 1 (countTm p.rink 1 1 (refreshSite g c))) s)
        else s
      | none => s
  | .collision dir lane =>
    asSite k (engineTrap 8 3 (slipInfo 9 lane dir) true p.rink) (countShared (dieOfSite k) 5 3 (rinkFn p.rink s) 1 s)
  | .tileStore _ _ _ | .signal _ => putBack k p s

/-- An entry leaves the pipeline and is performed, if a rewind in this beat has not dropped it. -/
def takeEntry (k : Nat) (p : Pend) (s : State) : State :=
  let c := site k s
  if c.pipe.contains p then performEntry k p (setSite k { c with pipe := dropPend p c.pipe, landed := c.landed ++ [p] } s) else s

/-- The entries that come due as a beat begins: refreshes the device placed, then reads, then writes. -/
def dueEntries (k : Nat) (s : State) : List Pend :=
  let c := site k s
  let due := c.pipe.filter fun p => p.due ≤ c.now && !entryHeld k s p && !atEnd p.act
  let first := due.filter (·.stream == deviceStream)
  let rest := due.filter (·.stream != deviceStream)
  first ++ rest.filter (isRead ·.act) ++ rest.filter (!isRead ·.act)

def beginBeat (k : Nat) (s : State) : State := (dueEntries k s).foldl (fun s p => takeEntry k p s) s

/-! ## The end of a beat -/

/-- The rows of vstt: the check of this beat, after its clears (06 R178). -/
def storeTile (k : Nat) (p : Pend) (s : State) : State :=
  let c := site k s
  match p.act with
  | .tileStore tile row lanes =>
    if !c.pipe.contains p then s
    else if entryTimed c p && !tileEmpty c tile then
      entryStop k p (.stall 1 tile 0 (some tile)) (setSite k { c with pipe := dropPend p c.pipe ++ [{ p with again := true }] } s)
    else
      let old := c.tiles.get Table.empty tile
      let m := lanes.foldl (fun m l => m.writeBytes (256 * row + 4 * l.1) (leBytes 4 l.2.toNat)) old
      let c1 := { c with pipe := dropPend p c.pipe, landed := c.landed ++ [p], tiles := c.tiles.put tile m }
      setSite k (if row = 31 then setFlag tile c1 else c1) s
  | _ => s

/-- The flags that signals of a beat name. -/
def signalsDue (k : Nat) (s : State) : List (Pend × Nat) :=
  let c := site k s
  (c.pipe.filter fun p => p.due ≤ c.now && !entryHeld k s p).filterMap fun p => match p.act with
    | .signal f => some (p, f)
    | _ => none

/-- The signals of a beat on a flag are made, or for a FIFO that cannot hold them all fail as a whole (02 R56): a free nest tries again in the next
beat, a timetabled one deviates. -/
def pushSignal (k : Nat) (all : List (Pend × Nat)) (q : Pend × Nat) (s : State) : State :=
  let c := site k s
  let p := q.1
  let f := q.2
  let n := (all.filter (·.2 == f)).length
  let room := if 16 ≤ f ∧ f < 32 then
      decide (c.flags.tokens.get 0 (f - 16) + (c.flags.sets.filter (· == f)).length + n ≤ 8) && !c.flags.blocked.contains f
    else true
  if !c.pipe.contains p then s
  else if room then setSite k { c with pipe := dropPend p c.pipe, landed := c.landed ++ [p] } s
  else if entryTimed c p then
    entryStop k p (.stall 1 f 0 (some f)) (setSite k { c with pipe := dropPend p c.pipe ++ [{ p with again := true }] } s)
  else setSite k { c with pipe := dropPend p c.pipe ++ [{ p with again := true, due := c.now + 1 }] } s

/-- The signals that were made set their flags. -/
def applySignals (all : List (Pend × Nat)) (c : Site) : Site :=
  all.foldl (fun c q => if c.landed.contains q.1 then setFlag q.2 c else c) c

/-- What an entry asked for in this beat meets that another request of the beat, which goes before it in R258's order, has asked for since: an entry, an
access in a free context's buffer, or a fill that starts. -/
def lostTo (c : Site) (p : Pend) : Option (Nat × Nat) :=
  let me := precedence p
  let older := (c.pipe.filter fun q => q.due == p.due && q.made == c.now && decide (precedence q < me)).flatMap fun q => actSpans q.act
  let buffered (x : Ctx) (h : Nat) : List (Nat × Nat × Bool) := if h < me then bufferSpans x p.due else []
  let held (h : Side) : List Nat := match (halfOf c h).fills with
    | f :: _ => if f.started = some c.now ∧ p.due ≤ f.ends ∧ 3 + b2n h < me then f.banks else []
    | [] => []
  let spans := older ++ buffered c.ctx0 0 ++ buffered c.ctx1 1
  let groups := held false ++ held true
  if spans.isEmpty && groups.isEmpty then none else clashOf spans groups (actSpans p.act)

/-- An entry that loses a bank to a request of its beat (10 R258): a timetabled one deviates, and a word of the control core with it; a free one waits
whole beats. -/
def settleClash (k : Nat) : Nat → Pend → State → State
  | 0, _, s => s
  | n + 1, p, s =>
    let c := site k s
    match (if c.pipe.contains p then lostTo c p else none) with
    | none => s
    | some (kind, detail) =>
      if entryTimed c p then
        let s1 := modSite k (fun c => { c with pipe := dropPend p c.pipe }) s
        let src := match p.via with
          | some v => v.1
          | none => k
        let s2 := if p.stream < 2 then modSite src (modCtx (p.stream == 1) retractPc) s1 else s1
        entryStop k p (.stall kind detail 0 none) s2
      else settleClash k n { p with due := p.due + 1 } (modSite k (fun c => countEvent (liveJob s) p.rink 0x08 1 (delayEntry p c)) s)

/-- The requests of a beat, in the order of their places, against those that went before them. -/
def settleClashes (k : Nat) (s : State) : State :=
  let c := site k s
  let asked := c.pipe.filter fun p => p.made == c.now && decide (c.now < p.due) && p.stream != deviceStream && decide (0 < precedence p)
    && !(actSpans p.act).isEmpty
  (asked.mergeSort fun a b => decide (precedence a ≤ precedence b)).foldl (fun s p => settleClash k (horizon c + 64) p s) s

/-- The end of a free fill, from beat `b` on: each beat in which one of the requests it meets has its bank is one more for it. -/
def stretchFill (met : List Pend) : Nat → Nat → Nat → Nat
  | 0, _, ends => ends
  | n + 1, b, ends => if ends < b then ends else stretchFill met n (b + 1) (if met.any (·.due == b) then ends + 1 else ends)

/-- A fill that started in this beat meets a request that goes before it (10 R258). -/
def checkFill (k : Nat) (h : Side) (s : State) : State :=
  let c := site k s
  match (halfOf c h).fills with
  | f :: _ =>
    if f.started = some c.now then
      let uses (p : Pend) (g : Nat) : Bool := ((actSpans p.act).flatMap spanGroups).any fun m => m % 16 == g % 16
      let met := c.pipe.filter fun p => p.stream != deviceStream && decide (c.now < p.due) && decide (p.made < c.now ∨ precedence p ≤ 3 + b2n h) && f.banks.any (uses p)
      let ends := stretchFill met (f.ends + met.length) (c.now + 1) f.ends
      if ends = f.ends then s
      else if halfTimed c h then
        (match f.banks.find? fun g => met.any fun p => decide (p.due ≤ f.ends) && uses p g with
         | some g => halfStop k h (.stall 7 (g % 16) 0 none) s
         | none => s)
      else modSite k (fun c => countEvent (liveJob s) (headRink c (halfHead h)) 0x08 (ends - f.ends) (modFill h (fun f => { f with ends := ends }) c)) s
    else s
  | [] => s

/-- A timetabled rendez whose partner did not come in its beat (05 R128). -/
def checkRendez (k : Nat) (x : Side) (s : State) : State :=
  let c := site k s
  let v := ctxOf c x
  if v.ctl.timetabled && v.ctl.running && v.rendezBeat == some c.now && !stopped k (headRink c (ctxHead x)) s then
    asCtx k x (ccStop (.stall 4 0 0 none)) (modSite k (modCtx x fun v => { v with rendezBeat := none }) s)
  else s

/-- The frame of a unit that trapped holds what the beat left (18 R413). -/
def settleFrame (r : Nat) (c : Site) : Site :=
  if setOf c r then modObs (fun o => { o with frame1 := { frameOf c r o.frame1.stat with beat := o.frame1.beat } }) c
  else modObs (fun o => { o with frame0 := { frameOf c r o.frame0.stat with beat := o.frame0.beat } }) c

def settleFrames (k : Nat) (s : State) : State :=
  (ownersOf k s).foldl (fun s r => if trappedNow k r s then modSite k (settleFrame r) s else s) s

/-- The end of a core's beat. -/
def endBeat (k : Nat) (s : State) : State :=
  let c := site k s
  let tiles := c.pipe.filter fun p => p.due ≤ c.now && !entryHeld k s p && (match p.act with
    | .tileStore _ _ _ => true
    | _ => false)
  let s1 := tiles.foldl (fun s p => storeTile k p s) s
  let sigs := signalsDue k s1
  let s2 := modSite k (applySignals sigs) (sigs.foldl (fun s q => pushSignal k sigs q s) s1)
  let s3 := checkFill k true (checkFill k false (settleClashes k s2))
  let s4 := checkRendez k true (checkRendez k false s3)
  modSite k (modFlags settleFlags) (settleTicks k (modSite k writeTrace (moveImages k (settleFrames k s4))))

end Sys2Proof.Machine
end

