-- ==== Sys2Proof/Machine/Fetch.lean ====
section
/-!
DEFINITION. The stream whose word issues next: which heads are due, how a word is fetched and decoded (03 R68 to R86, 04 R107, 09 R254, R255), the
order of a beat (02 R56, 10 R258), breakpoints (15 R376) and the energy class of a word (15 R377).
-/

namespace Sys2Proof.Machine

/-! ## Heads: 0 and 1 CC, 2 VE, 3 and 4 matrix, 5 and 6 Lift engines, 7 a collective engine -/

/-- The executing stream of head `h` on a site. -/
def headCur (k h : Nat) : Cur :=
  { site := k, ctx := h == 1, half := h == 4, lift := h == 5 || h == 6, l1 := h == 6, coll := false, die := 0, ce := 0 }

def ceCur (k d e : Nat) : Cur := { headCur k 0 with coll := true, die := d, ce := e }

/-- A stream of a launch or graph program. -/
def onCore (h : Nat) : Bool := decide (h < 5)

/-- The Rink Sequencer waits while its rink's operating point is not reached (19 R430). -/
def belowPoint (k r h : Nat) (s : State) : Bool :=
  decide (h < 2) && decide (s.power.cur < (rink r s).voteEff.toNat) && isSequencer r k (h == 1) s

/-- A context that waits for the hypervisor or for an off-chip fetch. -/
def ctxWaits (c : Site) (h : Nat) : Bool :=
  decide (h < 2) && ((ctxOf c (h == 1)).trap.hcallWait || (ctxOf c (h == 1)).fetching)

/-- A word of a stream of the core may issue in this beat. -/
def coreDue (k h : Nat) (s : State) : Bool :=
  let c := site k s
  let t := ctlOf c h
  t.running && decide (t.next ≤ c.now) && !c.issued.contains h
    && (let r := headRink c h
        !(stopped k r s && !freeOfFreeze k r h s) && !(rink r s).suspd && !ctxWaits c h && !belowPoint k r h s)

/-- A word of a command may issue in a beat of its core. -/
def runDue (q : Option Run) (now : Nat) : Bool :=
  match q with
  | some v => v.fin == .running && v.ctl.running && decide (v.ctl.next ≤ now)
  | none => false

def headDue (k h : Nat) (s : State) : Bool :=
  if onCore h then coreDue k h s
  else
    let c := site k s
    runDue (runOf c.q (h == 6)) c.now && !c.issued.contains h

/-! ## Fetching a word -/

/-- What a fetch finds: a word and its decoding, a fault at that word, or that the word is to be fetched from off-chip memory. -/
inductive Fetched where
  | word (w : Nat) (d : Decoded)
  | hit (h : Hit)
  | away
  deriving DecidableEq, Repr

/-- `n` bytes of code in TM under a code capability (R254): outside its bounds a fetch-bounds fault, in a group that is invalid or a region that is
not plain a fetch fault (10 R263). -/
def codeAt (c : Site) (r : Nat) (code : Cap) (pc n : Nat) (decode : Nat → Decoded) : Fetched :=
  if !code.inBounds pc n then .hit (.trap 9 0)
  else
    match regionAt c r pc with
    | some g =>
      if g.compressed || !(groupOf c (pc / 4096)).valid then .hit (.trap 0x0A 0)
      else
        match spoiled c.tm pc n with
        | some e => .hit (.softTrap none e)
        | none =>
          let w := leNat (tmRead c.tm pc n)
          .word w (decode w)
    | none => .hit (.trap 0x0A 0)

/-- The word at an address that stands in the context's instruction buffer. -/
def bufferedWord (x : Ctx) : Option Nat :=
  let pc := x.pc.toNat
  x.ib.findSome? fun b => if b.space = x.code.space ∧ b.addr ≤ pc then (b.words[(pc - b.addr) / 4]?).map (·.toNat) else none

def fetchCC (c : Site) (x : Side) : Fetched :=
  let v := ctxOf c x
  if v.code.space = 2 then codeAt c (headRink c (ctxHead x)) v.code v.pc.toNat 4 decodeCC
  else if !v.code.inBounds v.pc.toNat 4 then .hit (.trap 9 0)
  else match bufferedWord v with
    | some w => .word w (decodeCC w)
    | none => .away

def fetchVE (c : Site) : Fetched := codeAt c (headRink c 2) c.ve.code c.ve.pc.toNat 8 decodeVE

def fetchMS (c : Site) (h : Side) : Fetched :=
  codeAt c (headRink c (halfHead h)) (halfOf c h).code (headPc c (halfHead h)) 2 (decodeSeq .matrix)

/-- The next word of a command; an image that is passed without lend is malformed (08 R218). -/
def fetchRun (fam : Family) (q : Option Run) : Fetched :=
  match q with
  | some v =>
    (match v.cmd.words[v.seq.pc]? with
     | some w => .word w.toNat (decodeSeq fam w.toNat)
     | none => .hit (.trap 0x15 0))
  | none => .away

/-- The word of a context; one that is to come from host space while the function may not master the bus is not sent for (14 R359). -/
def fetchCtx (c : Site) (x : Side) (s : State) : Fetched :=
  match fetchCC c x with
  | .away => if (ctxOf c x).code.space = 5 ∧ !(fnOf (rinkFn (headRink c (ctxHead x)) s) s).busMaster then .hit (.trap 0x2B 0) else .away
  | f => f

/-- The word at the head of a stream. -/
def fetchHead (h : Nat) (u : Cur) (s : State) : Fetched :=
  let c := site u.site s
  match h with
  | 0 => fetchCtx c false s
  | 1 => fetchCtx c true s
  | 2 => fetchVE c
  | 3 => fetchMS c false
  | 4 => fetchMS c true
  | 5 => fetchRun .lift c.q.run0
  | 6 => fetchRun .lift c.q.run1
  | _ => fetchRun .coll (collEngine u.die u.ce s).run

/-! ## The order of a beat -/

/-- Words that clear a flag, pop a token or arm a nest come before the others of their beat: the flag block applies clears and pops first, and a
bank is armed in its word's beat (02 R56, 07 R203). So of an mnest and a context's mtx of one register in one beat the mtx's value stays (DESIGN CHOICE,
notes/assumptions/6.md). -/
def comesFirst (i : Instr) : Bool :=
  match i with
  | .waitf _ _ => true
  | .tstf _ _ _ => true
  | .sigf _ v => !v
  | .vwaitf _ => true
  | .vsigf f => !f.aux.getLsbD 6
  | .seqWaitf _ _ => true
  | .seqSigf _ v => !v
  | .mgo _ _ _ _ => true
  | .mnest _ => true
  | .mtx _ _ reg _ => reg == 7
  | .copy tile _ _ => tile
  | .copyz tile _ _ => tile
  | _ => false

/-- The token FIFO a word pushes. -/
def pushes (i : Instr) : Option Nat :=
  let fifo (f : Nat) : Option Nat := if 16 ≤ f ∧ f < 32 then some f else none
  match i with
  | .sigf f v => if v then fifo f.toNat else none
  | .seqSigf f v => if v then fifo f.toNat else none
  | .vsigf f => if f.aux.getLsbD 6 then fifo (f.aux.toNat % 64) else none
  | _ => none

def decoded (f : Fetched) : Option Instr :=
  match f with
  | .word _ (.ok i) => some i
  | _ => none

/-- The heads of a site whose words may issue now, in the order of precedence (10 R258). -/
def dueHeads (k : Nat) (s : State) : List Nat := (List.range 7).filter fun h => headDue k h s

/-- The instruction at a head. -/
def instrAt (k h : Nat) (s : State) : Option Instr := decoded (fetchHead h (headCur k h) s)

def firstDue (k : Nat) (s : State) : Option Nat :=
  match dueHeads k s with
  | [] => none
  | [h] => some h
  | h :: hs =>
    match (h :: hs).find? fun g => (match instrAt k g s with
      | some i => comesFirst i
      | none => false) with
    | some g => some g
    | none => some h

/-- Nothing of the core runs a stream or a command. -/
def quietSite (c : Site) : Bool :=
  !c.ctx0.ctl.running && !c.ctx1.ctl.running && !c.ve.ctl.running && !c.half0.ctl.running && !c.half1.ctl.running
    && c.q.run0.isNone && c.q.run1.isNone

/-- A word of a collective command may issue. -/
def collDue (s : State) : Option (Nat × Cur) :=
  s.dies.cells.findSome? fun d => d.2.ce.cells.findSome? fun e => match e.2.run with
    | some v => if keeps v.site s && runDue e.2.run (site v.site s).now then some (7, ceCur v.site d.1 e.1) else none
    | none => none

/-- The stream whose word issues next in this master cycle. -/
def dueStream (s : State) : Option (Nat × Cur) :=
  match s.sites.cells.findSome? fun p =>
    if quietSite p.2 then none
    else if keeps p.1 s then (firstDue p.1 s).map fun h => (h, headCur p.1 h) else none with
  | some x => some x
  | none => collDue s

/-! ## The idle count and stall of a VE word (03 R79, R86, 02 R49) -/

/-- n and k of a VE word. -/
def veDelay (l : Loop) (i : Instr) : Nat × Nat :=
  match i.veParts with
  | some (op, f) =>
    (match veFormat op with
     | some r => (if r.aux == .idle then f.aux.toNat else 0, bankStall (fileReads l f (r.va == .src) (r.vb == .src) (r.vc == .src)))
     | none => (0, 0))
  | none => (0, 0)

/-- A VE word waits its idle count and stall once, before it issues. -/
def prepareVe (k : Nat) (i : Instr) (s : State) : Option State :=
  let v := (site k s).ve
  let d := veDelay v.loop i
  if v.ctl.prepared || d.1 + d.2 = 0 then none
  else some (modSite k (fun c => modVe (fun v =>
    { v with stall := d.2, ctl := { v.ctl with prepared := true, next := c.now + d.1 + d.2, cls := .issuing } }) c) s)

/-! ## Energy classes (15 R377) -/

/-- The class of a CC word; none for the words that end or switch a job, which charge themselves. -/
def ccClass (w : Nat) : Option Nat :=
  let major := field w 31 26
  let sub := field w 15 10
  if major = 0 then some (if 0x10 ≤ w % 64 ∧ w % 64 ≤ 0x16 then 1 else 0)
  else if major = 0x0D then some 1
  else if 0x20 ≤ major ∧ major ≤ 0x22 then some 2
  else if (major = 0x32 ∧ (sub = 5 ∨ sub = 6)) ∨ (major = 0x33 ∧ sub = 5) then none
  else if 0x30 ≤ major then some 3
  else some 0

def veClass (w : Nat) : Nat :=
  let op := field w 63 56
  let ty := field w 55 53
  if (0x10 ≤ op ∧ op ≤ 0x1A) ∨ op = 0x40 ∨ (0x50 ≤ op ∧ op ≤ 0x52) then (if ty = 0 then 4 else if ty = 1 then 5 else 8)
  else if 0x20 ≤ op ∧ op ≤ 0x23 then 6
  else if 0x70 ≤ op ∧ op ≤ 0x77 then 7
  else 8

/-- The charge and the count of a word of a core's stream that has issued (R374, R377); `live` says which rinks had a job running as it did. -/
def chargeWord (live : Nat → Bool) (h : Nat) (u : Cur) (r w : Nat) (s : State) : State :=
  if h < 2 then
    let s1 := modSite u.site (countEvent live r 2 1) s
    match ccClass w with
    | some k => charge u.site u.ctx k 1 s1
    | none => s1
  else if h = 2 then
    let s1 := modSite u.site (countEvent live r 3 1) s
    charge u.site (homeCtx (site u.site s1) r) (veClass w) 1 s1
  else s

/-! ## Breakpoints (15 R376) -/

/-- Breakpoint `n` matches the word at the head. -/
def bpMatches (c : Site) (h n : Nat) : Bool :=
  let a := (c.obs.bpA.get 0 n).toNat
  let b := (c.obs.bpB.get 0 n).toNat
  bitOf a 63 && field a 62 60 == h && field a 23 0 == headPc c h % 2 ^ 24 && traces c (headRink c h)
    && (!bitOf b 32 || c.ve.loop.pass.toNat == b % 2 ^ 32)

/-- The actions that match at a head. -/
def bpActions (c : Site) (h : Nat) : List Nat :=
  if h < 5 then ((List.range 4).filter (bpMatches c h)).map fun n => field (c.obs.bpA.get 0 n).toNat 59 58 else []

/-- Every match writes its record. -/
def addRecords (b : List Byte) (n : Nat) (c : Site) : Site :=
  modObs (fun o => { o with trQ := o.trQ ++ List.replicate n (c.now, b) }) c

/-- The rink whose blocks a breakpoint's snapshot latches: the holder's. -/
def bpRink (c : Site) (h : Nat) : Nat :=
  let k := c.obs.claims.get Claim.free 2
  if k.hv then headRink c h else k.rink

/-- The word stands in a loop's pass, or in the delay slots that end one. -/
def inLoop (v : Ve) : Bool := v.looping || v.slots != 0

/-- The records and the snapshot of the matches at a head; `b` is the record of its word. -/
def bpNotes (k h : Nat) (b : List Byte) (acts : List Nat) (s : State) : State :=
  if acts.isEmpty then s
  else
    let s1 := modSite k (addRecords b acts.length) s
    if acts.any fun a => bitOf a 1 then triggerRink k (bpRink (site k s) h) s1 else s1

/-- The breakpoint trap of an engine stream: resumable, and the launch freezes (R376, R411). -/
def breakEngine (k h r : Nat) (s : State) : State :=
  let c := site k s
  let timed := (ctlOf c h).timetabled
  let s1 := modSite k (fun c => trace h 3 (modCtx (homeCtx c r) (fun v => { v with trap := { v.trap with ecause := ecauseWord 0 0x29 h false timed } }) c)) s
  let s2 := modSite k (freezeSite r (frameStat 0 0x29 h false timed)) s1
  match unitAt r k s2 with
  | some (l, _) => freezeLaunch r k 255 0 false l s2
  | none => s2

/-- The code under which a core notes that a breakpoint trap of a rink has been raised in this beat. -/
def bpCode (r : Nat) : Nat := 40 + r

/-- The stop of a head, `raise` being its trap. -/
def stopOnce (k r : Nat) (raise : State → State) (s : State) : State :=
  modSite k (fun c => { c with issued := bpCode r :: c.issued }) (raise s)

/-- The stop of the matches at a head, if it comes before this word: at once for a context, a half, or a VE outside any loop; the VE inside a loop
stops once its pass is complete. Breakpoints of several streams that match in one beat raise one trap: a stream that matches after it goes on with its word
and writes its record with it. -/
def bpStop (k h : Nat) (acts : List Nat) (s : State) : Option State :=
  let c := site k s
  let r := headRink c h
  let stop := !c.issued.contains (bpCode r) && acts.any fun a => bitOf a 0
  let noted := bpNotes k h (traceRecord c h 2) acts s
  if h = 2 then
    (if c.ve.brk = 2 then some (stopOnce k r (breakEngine k 2 r) (modSite k (modVe fun v => { v with brk := 0 }) s))
     else if stop && !inLoop c.ve then some (stopOnce k r (breakEngine k 2 r) noted)
     else none)
  else if !stop then none
  else if h < 2 then some (stopOnce k r (asCtx k (h == 1) (takeTrap false 0x29 0 false)) noted)
  else some (stopOnce k r (breakEngine k h r) noted)

/-- After a VE word that issued: a stop asked for in a loop is armed, and comes with the end of the pass. -/
def bpAfter (k : Nat) (acts : List Nat) (old : Ve) (s : State) : State :=
  let c := site k s
  let armed := old.brk = 1 || (!c.issued.contains (bpCode (headRink c 2)) && acts.any fun a => bitOf a 0)
  if armed then modSite k (modVe fun v => { v with brk := if old.slots = 1 then 2 else 1 }) s else s

end Sys2Proof.Machine
end

