-- ==== Sys2Proof/Machine/Auto.lean ====
section
/-!
DEFINITION. What the device does by itself: the events that follow at once from the state, and the elastic ones, whose moment the spec leaves
open (notes/assumptions/6.md).
-/

namespace Sys2Proof.Machine

open Host (Outcome)

/-- What an event answers. -/
abbrev Answer := Outcome State Fault Refusal

/-- The first of a list that is there. -/
def orElse' (a : Option Answer) (b : Unit → Option Answer) : Option Answer :=
  match a with
  | some x => some x
  | none => b ()

def autoIf (b : Bool) (f : Unit → Answer) : Option Answer := if b then some (f ()) else none

/-- An action that a core takes once in a beat is marked as taken. -/
def markDone (k code : Nat) (s : State) : State := modSite k (fun c => { c with issued := code :: c.issued }) s

/-! ## Matrix halves -/

/-- The half's nest has a k-step that ends or starts in this beat (07 R205). -/
def nestDue (c : Site) (h : Side) : Bool :=
  match nestIndex (halfOf c h) with
  | some i => (match (halfOf c h).nests[i]? with
    | some n => n.started && decide (n.step ≤ c.now)
    | none => false)
  | none => false

/-- The half's next nest may start (07 R203). -/
def nestReady (c : Site) (h : Side) : Bool :=
  match nestIndex (halfOf c h) with
  | some i => (match (halfOf c h).nests[i]? with
    | some n => !n.started && decide (n.issued + 2 ≤ c.now)
    | none => false)
  | none => false

def retireDue (c : Site) (h : Side) : Bool :=
  match (halfOf c h).nests with
  | n :: _ => (match n.done with
    | some d => decide (max d n.outDue ≤ c.now)
    | none => false)
  | [] => false

def fillOver (c : Site) (h : Side) : Bool :=
  match (halfOf c h).fills with
  | f :: _ => f.started.isSome && decide (f.ends < c.now)
  | [] => false

def fillReady (c : Site) (h : Side) : Bool :=
  match (halfOf c h).fills with
  | f :: _ => f.started.isNone && decide (f.issued < c.now)
  | [] => false

/-- A half takes its events in this beat. -/
def halfRuns (k : Nat) (h : Side) (s : State) : Bool := !stopped k (headRink (site k s) (halfHead h)) s && keeps k s

/-- A fill completes in this beat, before anything else of either half (07 R210). -/
def autoFill (k : Nat) (h : Side) (s : State) : Option Answer :=
  let c := site k s
  autoIf (fillOver c h && !c.issued.contains (12 + b2n h) && halfRuns k h s) fun _ => execFillComplete k h (markDone k (12 + b2n h) s)

/-- The other events of a half in this beat: nests retire, k-steps end and start, nests and fills start. -/
def autoHalf (k : Nat) (h : Side) (s : State) : Option Answer :=
  let c := site k s
  let v := halfOf c h
  if (v.fills.isEmpty && v.nests.isEmpty) || !halfRuns k h s then none
  else
    let once (code : Nat) : Bool := !c.issued.contains (code + b2n h)
    orElse' (autoIf (retireDue c h) fun _ => execNestRetire k h s) fun _ =>
    orElse' (autoIf (nestDue c h && once 14) fun _ => .next (nestBeat k h (markDone k (14 + b2n h) s))) fun _ =>
    orElse' (autoIf (nestReady c h && once 16) fun _ => execNestStart k h (markDone k (16 + b2n h) s)) fun _ =>
    autoIf (fillReady c h && once 18) fun _ => execFillStart k h (markDone k (18 + b2n h) s)

/-! ## Lifetimes and trace -/

/-- The lowest row group that has expired, region by region in the order of their addresses (10 R265, R272). -/
def expiredGroup (c : Site) : Option Nat :=
  let first (best : Option (Nat × Nat)) (g : Region) : Option (Nat × Nat) :=
    match (regionGroups g).find? (expired c g), best with
    | some n, some b => if g.base < b.1 then some (g.base, n) else some b
    | some n, none => some (g.base, n)
    | none, b => b
  (c.tm.regions.foldl first none).map (·.2)

def overdueGroup (c : Site) : Option Nat := (c.tm.groups.cells.find? fun g => g.2.queued.isSome && mustRefresh c g.1).map (·.1)

/-- A sample of the traced heads is due (15 R375). -/
def sampleDue (c : Site) : Bool :=
  let p := field c.obs.trctl.toNat 47 40
  (c.obs.claims.get Claim.free 2).held && p != 0 && c.now % 2 ^ p == 0 && !c.issued.contains 20

def recordLost (c : Site) : Bool :=
  match c.obs.trQ with
  | q :: _ => decide (q.1 + 64 ≤ c.now) || (traceSlot c).isNone
  | [] => false

/-- Neither half has a fill or a nest. -/
def plainHalves (c : Site) : Bool := c.half0.fills.isEmpty && c.half0.nests.isEmpty && c.half1.fills.isEmpty && c.half1.nests.isEmpty

def autoSite (s : State) (p : Nat × Site) : Option Answer :=
  let k := p.1
  let c := p.2
  orElse' (if plainHalves c then none
    else orElse' (autoFill k false s) fun _ => orElse' (autoFill k true s) fun _ => orElse' (autoHalf k false s) fun _ => autoHalf k true s) fun _ =>
  orElse' (if c.tm.regions.isEmpty then none else (expiredGroup c).map fun g => execGroupExpiry k g s) fun _ =>
  orElse' ((overdueGroup c).map fun g => execForcedRefresh k g s) fun _ =>
  orElse' (autoIf (sampleDue c && keeps k s) fun _ => execTraceSample k (markDone k 20 s)) fun _ =>
  autoIf (recordLost c) fun _ => execTraceRecordDrop k s

/-! ## Rinks -/

/-- The launch's origin core. -/
def originSite (r : Nat) (l : Launch) (s : State) : Nat := (siteOfLogical r l.origin s).getD 0

/-- A launch's unit that may complete, or its start pulse. -/
def autoLaunch (r : Nat) (s : State) (l : Launch) : Option Answer :=
  match l.units.find? fun u => mayComplete r l u s with
  | some u => some (execUnitComplete r l.lctr u.entry.core s)
  | none => autoIf (mayStart l s && keeps (originSite r l s) s) fun _ => execStartPulse r l.lctr s

def autoRink (s : State) (p : Nat × Rink) : Option Answer :=
  let r := p.1
  let q := p.2
  orElse' (q.work.launches.findSome? (autoLaunch r s)) fun _ =>
  orElse' ((q.colls.cells.find? fun c => (timedOut q c.2).isSome).map fun c => execCollectiveTimeout r c.1 s) fun _ =>
  orElse' (autoIf (q.work.launches.any fun l => mayAutoResume r l s) fun _ => execAutoResume r s) fun _ =>
  orElse' (autoIf (q.work.launches.any fun l => mustNotify r l s) fun _ => execLaunchFrozenTrap r s) fun _ =>
  orElse' (autoIf (opPassed q.work) fun _ => execOperatorLengthExceeded r s) fun _ =>
  orElse' (autoIf (settles r s) fun _ => .next (scheduleNext r (settleJob r s))) fun _ =>
  autoIf (q.valid && mayGrant r s && (seqSite r s).isSome) fun _ => execJobStart r s

/-! ## Dies and power -/

def autoDie (s : State) (p : Nat × Die) : Option Answer :=
  orElse' (autoIf (p.2.falling && decide (1000 ≤ p.2.below)) fun _ => execBandFall p.1 s) fun _ =>
  (p.2.cpatHeld.cells.find? fun c => c.2.isSome && mayApply p.1 c.1 s).map fun c => execCpatApply p.1 c.1 s

def autoPower (s : State) : Option Answer :=
  orElse' (autoIf (s.power.st == .resuming) fun _ => execRetentionResume s) fun _ =>
  orElse' (autoIf (s.power.st == .run && restedLong s.power) fun _ => execHoldEntry s) fun _ =>
  orElse' (autoIf (pointMoves s) fun _ => execOperatingPointChange s) fun _ =>
  orElse' (autoIf (rampOver s.power) fun _ => execVoltageRampDone s) fun _ =>
  autoIf (maySwitch s) fun _ => execClockSwitch s

/-- The event that follows at once from the state, if there is one. -/
def autoEvent (s : State) : Option Answer :=
  orElse' (autoPower s) fun _ =>
  orElse' ((resumeRequest s).map .next) fun _ =>
  orElse' (s.sites.cells.findSome? (autoSite s)) fun _ =>
  orElse' (s.rinks.cells.findSome? (autoRink s)) fun _ =>
  s.dies.cells.findSome? (autoDie s)

/-! ## Elastic events -/

/-- An elastic event that may happen. -/
abbrev Choice := Unit → Answer

def choiceIf (b : Bool) (f : Choice) : List Choice := if b then [f] else []

/-- What a context's buffers and fetch may do. -/
def elasticCtx (k : Nat) (x : Side) (s : State) : List Choice :=
  choiceIf ((offLoad k x s).isSome || (fetchNext k x false s).isSome) (fun _ => execOffChipAccessPerformed k x true s)
    ++ choiceIf (offStore k x s).isSome fun _ => execOffChipAccessPerformed k x false s

def elasticEngine (k : Nat) (l1 : Side) (s : State) : List Choice :=
  let c := site k s
  match runOf c.q l1 with
  | none =>
    match nextCommand c l1 with
    | some m => choiceIf (commandVisible s k m) fun _ => execLiftCommandStart k l1 s
    | none => []
  | some v =>
    if canRetire v s then [fun _ => execCommandRetire (.lift k l1) s]
    else match v.token with
      | some f => choiceIf (v.flushes == 0 && tokensFit c f && (dueHeads k s).isEmpty) fun _ => execCopyTokenPush k l1 s
      | none => []

/-- The queued refreshes whose bank is free in this beat. -/
def elasticRefresh (k : Nat) (s : State) : List Choice :=
  let c := site k s
  (c.tm.groups.cells.filter fun g => g.2.queued.isSome && mayRefresh c (decide (s.power.st = .hold)) g.1).map fun g => (fun _ => execPolicyRefresh k g.1 s : Choice)

/-- Nothing of the core is elastic. -/
def plainSite (c : Site) : Bool :=
  c.ctx0.buf.loads.isEmpty && c.ctx0.buf.stores.isEmpty && !c.ctx0.fetching && c.ctx0.ahead.isEmpty && c.ctx1.buf.loads.isEmpty && c.ctx1.buf.stores.isEmpty
    && !c.ctx1.fetching && c.ctx1.ahead.isEmpty && c.q.lq.isEmpty && c.q.sq.isEmpty && c.q.run0.isNone && c.q.run1.isNone && c.tm.groups.cells.all fun g => g.2.queued.isNone

def elasticSite (s : State) (p : Nat × Site) : List Choice :=
  if plainSite p.2 then []
  else elasticCtx p.1 false s ++ elasticCtx p.1 true s ++ elasticEngine p.1 false s ++ elasticEngine p.1 true s ++ elasticRefresh p.1 s

def elasticRink (s : State) (p : Nat × Rink) : List Choice :=
  let r := p.1
  ((p.2.work.launches.filter fun l => canAllocate s r l).map fun l => (fun _ => execUnitAllocation r l.lctr s : Choice))
    ++ (p.2.colls.cells.filter fun c => collReady r c.1 s).map fun c => (fun _ => execCollectiveOpComplete r c.1 s : Choice)

def elasticColl (s : State) (d : Nat) (p : Nat × CollEngine) : List Choice :=
  match p.2.owner.rink?, p.2.run with
  | some r, none => choiceIf (nextCore r.toNat d p.1 s).isSome fun _ => execCollectiveCommandStart d p.1 s
  | _, some v => choiceIf (canRetire v s) fun _ => execCommandRetire (.coll d p.1) s
  | none, none => []

/-- The acceptance of a GO that waits (13 R327). -/
def acceptances (s : State) (fn : Nat) : List Choice :=
  choiceIf (mayAccept fn s).isSome fun _ => execJobAcceptance fn (((mayAccept fn s).map (·.slot)).getD 0) s

def elasticFn (s : State) (p : Nat × Fn) : List Choice :=
  let fn := p.1
  let f := p.2
  acceptances s fn
    ++ choiceIf (!f.tinv.isEmpty && tinvSettled fn s) (fun _ => execTinvDone fn s)
    ++ choiceIf f.attcmd fun _ => execAttestationComplete fn s

/-- The page moves that may begin: every leaf of them is free to move. -/
def movesReady (s : State) : List (Nat × Nat × Nat) :=
  s.migrations.filter fun m => match leafOf m.1 m.2.1 s with
    | some l => movable l s
    | none => false

def elasticMemory (s : State) : List Choice :=
  ((s.atomics.cells.filter fun b => (pickAtomic b.2).any fun a => !atomWaits a s).map fun b => (fun _ => execAtomicUnitServe b.1 s : Choice))
    ++ ((movesReady s).map fun m => (fun _ => execPageMigrationStart m.1 (.ofNat 64 m.2.1) m.2.2 s : Choice))
    ++ ((s.moves.filter fun m => moveSettled m s).map fun m => (fun _ => execPageMigrationComplete m.fn (.ofNat 64 m.ia) s : Choice))
    ++ ((s.windows.cells.filter fun w => w.2.closing && !windowPinned w.1 s).map fun w => (fun _ => execWindowDestroy w.1 s : Choice))
    ++ ((alivePorts s).map fun n => (fun _ => .next (sendAlive n s) : Choice))
    ++ choiceIf s.pcremap.going.isSome fun _ => execPcremapDone s

/-- The elastic events that could happen now. -/
def elasticEvents (s : State) : List Choice :=
  s.sites.cells.flatMap (elasticSite s) ++ s.rinks.cells.flatMap (elasticRink s)
    ++ s.dies.cells.flatMap (fun d => d.2.ce.cells.flatMap (elasticColl s d.1)) ++ s.fns.cells.flatMap (elasticFn s) ++ elasticMemory s

/-- What the always-on island does in Retention: a GO is accepted and its record journaled, and the ports that stay up keep alive (16 R384, 19 R439). -/
def islandEvents (s : State) : List Choice :=
  s.fns.cells.flatMap (fun p => acceptances s p.1) ++ (alivePorts s).map fun n => (fun _ => .next (sendAlive n s) : Choice)

/-- One of a list of events, or none for now: the choice is a free value. -/
def chooseEvent (events : State → List Choice) (s : State) : Option Answer × State :=
  let s' := (freshWord s).2
  match events s' with
  | [] => (none, s)
  | e :: es =>
    match (freshWord s).1.toNat % (es.length + 2) with
    | 0 => (none, s')
    | n + 1 => (some ((((e :: es)[n]?).getD e) ()), s')

def elasticEvent (s : State) : Option Answer × State := chooseEvent elasticEvents s

end Sys2Proof.Machine
end

