-- ==== Sys2Proof/Machine/Advance.lean ====
section
/-!
DEFINITION. The next cycle of the master clock: the end of the beats of this one, what each beat counts and charges, and the beats of the next with
what they begin with (02 R58, R60, 09 R238, R241, R251, 13 R321, R323, 15 R370 to R379, 16 R393, 19 R437).
-/

namespace Sys2Proof.Machine

/-! ## What a beat counts (15 R370, R374) -/

/-- The class of a head of the core in this beat. -/
def headClass (c : Site) (h : Nat) : Cls :=
  let t := ctlOf c h
  if !t.running then (if c.issued.contains h then .issuing else .empty)
  else if t.next ≤ c.now then .busy
  else if h = 2 ∧ t.prepared ∧ t.next - c.now ≤ c.ve.stall then .busy
  else t.cls

/-- The head is a VE whose word stalls on a bank. -/
def stalls (c : Site) (h : Nat) : Bool :=
  let t := ctlOf c h
  h == 2 && t.running && t.prepared && decide (c.now < t.next ∧ t.next - c.now ≤ c.ve.stall)

def clsCode : Cls → Nat
  | .issuing => 0
  | .flag => 1
  | .busy => 2
  | .empty => 3

def bumpQ (i : Nat) (c : Site) : Site := modObs (fun o => { o with qcnt := o.qcnt.put i (.ofNat 48 (satAdd 48 (o.qcnt.get 0 i).toNat 1)) }) c

/-- A head of a core counts its class for the rink that owns it, and its events. -/
def countHead (live : Nat → Bool) (c : Site) (h : Nat) : Site :=
  match ownField c.own h with
  | none => c
  | some o =>
    let r := o.toNat
    if frozenFor c r then c
    else
      let cls := headClass c h
      let c1 := bumpQ (28 * b2n (setOf c r) + 4 * h + clsCode cls) c
      let c2 := if stalls c h then countEvent live r 4 1 c1 else c1
      if cls = .flag then countEvent live r 9 1 c2 else c2

/-- The class of queue LQ (0) or SQ (1) for a rink. -/
def queueClass (c : Site) (r q : Nat) : Cls :=
  let runs (v : Option Run) : Bool := match v with
    | some x => x.cmd.rink == r && x.cmd.queue == q
    | none => false
  if runs c.q.run0 || runs c.q.run1 then .issuing
  else if (if q = 0 then c.q.lq else c.q.sq).any (·.rink == r) then .busy
  else .empty

/-- The rinks that own a Lift engine of the core, each once. -/
def liftOwners (c : Site) : List Nat := ([c.own.l0, c.own.l1].filterMap fun o => o.rink?.map (·.toNat)).dedup

def countQueues (c : Site) : Site :=
  (liftOwners c).foldl (fun c r =>
    if frozenFor c r then c
    else [0, 1].foldl (fun c q => bumpQ (28 * b2n (setOf c r) + 4 * (5 + q) + clsCode (queueClass c r q)) c) c) c

/-- A kept beat of the core: each running bank that selects it counts one. -/
def countKept (live : Nat → Bool) (c : Site) : Site :=
  let bump (b : Nat) (v : Bank) : Bank :=
    let k := c.obs.claims.get Claim.free b
    if v.run && k.held && !k.frozen && (k.hv || live k.rink) then
      { v with cnt := (List.range 8).foldl (fun t i =>
          if field v.sel.toNat (8 * i + 7) (8 * i) = 1 then t.put i (.ofNat 48 (satAdd 48 (t.get 0 i).toNat 1)) else t) v.cnt }
    else v
  modObs (fun o => { o with banks := o.banks.mapVals bump }) c

/-- The fills of a core that run in this beat. -/
def countFills (live : Nat → Bool) (c : Site) : Site :=
  [false, true].foldl (fun c h =>
    let r := headRink c (halfHead h)
    match (halfOf c h).fills with
    | f :: _ => if f.started.isSome && !frozenFor c r then countEvent live r 6 1 c else c
    | [] => c) c

/-- EWT15 of a kept beat (R378), to the home context of each rink of the core in whose job's span the beat lies (17 R401). The last beat of a span has been charged on the
Sequencer's core. -/
def chargeKept (k : Nat) (s : State) : State :=
  (spanRinks k s).foldl (fun s r => if (rink r s).work.span == .paid && (seqSite r s).any (·.1 == k) then s else chargeStatic r k s) s

/-- All that a core's beat counts. -/
def countBeat (k : Nat) (s : State) : State :=
  let live := liveJob s
  let c := (List.range 5).foldl (countHead live) (site k s)
  chargeKept k (setSite k (countFills live (countKept live (countQueues c))) s)

/-! ## What a beat counts for a rink -/

/-- A launch that waits for its entry counts every requirement that does not hold in the beat that ends (09 R245, 02 R58). -/
def countEntry (s : State) (l : Launch) : State :=
  if l.pulsed || !l.pinned then s
  else l.units.foldl (fun s u => u.entry.reqs.foldl (fun s q =>
    if keeps u.site s && !reqHolds (site u.site s) q then modSite u.site (countWait q.1) s else s) s) s

/-- The beat counts to the operator's length: some stream of the launch is still to end, and its origin is not frozen (13 R323). -/
def launchRuns (r : Nat) (l : Launch) (s : State) : Bool :=
  let k := originSite r l s
  l.left && keeps k s && !frozenFor (site k s) r
    && l.units.any fun u => !u.finished && (!u.begun || (List.range 5).any fun h => bitOf u.entry.eng h && (ctlOf (site u.site s) h).running)

/-- The beats of a rink (13 R321, R323, R328, 15 R371, 16 R393). -/
def countRink (r : Nat) (s : State) : State :=
  let q := rink r s
  let lead := siteOfLogical r q.lead.toNat s
  let leadKept := match lead with
    | some k => keeps k s
    | none => false
  let leadFrozen := match lead with
    | some k => frozenFor (site k s) r
    | none => false
  let runs := q.work.launches.filter fun l => launchRuns r l s
  let kept := ((sitesOf r s).filter fun k => keeps k s).length
  let later (o : CollOp) : CollOp := { o with timer := o.timer + 1 }
  modRink r (fun q =>
    let w : Work := q.work
    let w0 : Work := { w with span := if w.running.isNone ∨ w.span = .paid then .none else w.span }
    let w1 := match w.running with
      | some j =>
        let j' := if leadKept && w.span == Span.runs then { j with job := { j.job with beats := j.job.beats + 1 } } else j
        { w0 with running := some j', sliceCnt := if leadKept && !leadFrozen then w.sliceCnt + 1 else w.sliceCnt }
      | none => w0
    let n := w1.opLen + runs.length
    let w2 := { w1 with opLen := n,
                        opEvent := if w1.opLen ≤ 1000000 ∧ 1000000 < n then (runs.head?).map (·.lctr) else w1.opEvent }
    { q with
      work := w2,
      rtot := if w.running.isSome then addTot 9 kept q.rtot else q.rtot,
      colls := if leadKept then q.colls.mapVals fun _ c => { c with op := c.op.map later, others := c.others.map later } else q.colls }) s

/-- The rink has something that a beat counts. -/
def countsBeats (q : Rink) : Bool := q.work.running.isSome || q.work.span != .none || !q.work.launches.isEmpty || !q.colls.cells.isEmpty

/-! ## Time that a freeze holds back (09 R251, R253) -/

def later (t : Table Nat) : Table Nat := t.mapVals fun _ n => n + 1

def laterCtl (t : Ctl) : Ctl := { t with next := t.next + 1 }

def laterCtx (x : Ctx) : Ctx :=
  { x with sReady := later x.sReady, aReady := later x.aReady, divFree := x.divFree + 1, ctlAt := x.ctlAt + 1, ctl := laterCtl x.ctl }

def laterVe (v : Ve) : Ve :=
  { v with loopAt := v.loopAt + 1, vReady := later v.vReady, pReady := later v.pReady, xReady := later v.xReady, ctl := laterCtl v.ctl }

def laterHalf (h : Half) : Half :=
  { h with
    ctl := laterCtl h.ctl, promoteAt := h.promoteAt.map (· + 1),
    nests := h.nests.map fun n => { n with issued := n.issued + 1, step := n.step + 1, done := n.done.map (· + 1) },
    fills := h.fills.map fun f => { f with issued := f.issued + 1, started := f.started.map (· + 1), ends := f.ends + 1 } }

/-- The streams and the pipeline snapshot of a frozen rink on a core keep their remaining beats; the Rink Sequencer's go on. -/
def holdBack (s : State) (k : Nat) (c : Site) : Site :=
  let held (h : Nat) : Bool := match ownField c.own h with
    | some r => frozenFor c r.toNat && !freeOfFreeze k r.toNat h s
    | none => false
  let f {α : Type} (h : Nat) (g : α → α) (v : α) : α := if held h then g v else v
  { c with
    ctx0 := f 0 laterCtx c.ctx0, ctx1 := f 1 laterCtx c.ctx1, ve := f 2 laterVe c.ve, half0 := f 3 laterHalf c.half0, half1 := f 4 laterHalf c.half1 }

/-- What a freeze holds in a core's pipeline keeps its remaining beats, a packet of a launch those from the freeze of its unit here. -/
def holdPipe (s : State) (k : Nat) (c : Site) : Site := { c with pipe := c.pipe.map fun p => if entryFrozen k p s then { p with due := p.due + 1 } else p }

/-- The next beat of a core: BEAT stands while the core is frozen (02 R60). -/
def nextBeat (s : State) (k : Nat) (c : Site) : Site :=
  let c0 := holdPipe s k c
  let c1 := if c.frozen0 || c.frozen1 then holdBack s k c0 else { c0 with beat := c.beat + 1 }
  { c1 with now := c.now + 1, landed := [], issued := [], tm := { c1.tm with written := [] } }

/-! ## Snapshots (15 R379) -/

def ecntWord (x : Ctx) : Word := .ofNat 64 (b2n x.ecntSat * 2 ^ 63 + x.ecnt.toNat)

/-- The word address of queue LQ's (0) or SQ's (1) head: of the command of that queue that runs, on whichever engine. -/
def queueAddr (c : Site) (q : Nat) : Nat :=
  match ([c.q.run0, c.q.run1].filterMap id).find? (·.cmd.queue == q) with
  | some x => x.cmd.image + 2 * x.seq.pc
  | none => 0

/-- The values of a core block's set. -/
def coreSet (c : Site) : List Word :=
  [c.beat, ecntWord c.ctx0, ecntWord c.ctx1] ++ (List.range 5).map (fun h => .ofNat 64 (headPc c h))
    ++ [.ofNat 64 (queueAddr c 0), .ofNat 64 (queueAddr c 1)] ++ (List.range 56).map (fun i => (c.obs.qcnt.get 0 i).setWidth 64)
    ++ [0, 1].flatMap fun b => (List.range 8).map fun i => ((c.obs.banks.get Bank.reset b).cnt.get 0 i).setWidth 64

def dieSet (d : Die) : List Word := .ofNat 64 (tbandWord d) :: (List.range 60).map fun i => (d.shcnt.get 0 i).setWidth 64

/-- The trigger's beat has begun. -/
def latches (q : Option Nat) (s : State) : Bool := match q with
  | some k => decide (noSite ≤ k) || keeps k s
  | none => false

/-- A block latches its set; a traced core records it (R375). -/
def latchSite (s : State) (k : Nat) (c : Site) : Site :=
  if latches c.obs.snapReq s then
    let c1 := (List.range 5).foldl (fun c h => if keeps k s && (ctlOf c h).running then trace h 4 c else c) c
    modObs (fun o => { o with snapReq := none, snap := ⟨o.snap.seq + 1, coreSet c⟩ }) c1
  else c

def latchDie (s : State) (d : Die) : Die :=
  if latches d.snapReq s then { d with snapReq := none, snap := ⟨d.snap.seq + 1, dieSet d⟩ } else d

/-! ## Launches -/

/-- A beat of launch time: the pulse leaves in the beat after the requirements held (09 R241). -/
def nextTime (r : Nat) (s : State) (l : Launch) : Launch :=
  if !l.pulsed || !keeps (originSite r l s) s then l
  else if l.left then
    { l with time := l.time + 1,
             units := l.units.map fun u => if u.begun && u.frozenAt.isSome then { u with lost := u.lost + 1 } else u }
  else { l with left := true, time := 0 }

/-- The pulses of a rink's launches that arrive in this beat. -/
def arriveRink (r : Nat) (s : State) : State :=
  (rink r s).work.launches.foldl (fun s l => match launchAt s r l.lctr with
    | some v => arriveLaunch r v s
    | none => s) s

/-! ## Hold (19 R437) -/

/-- A stream of the core issues, or an engine operation of it is in progress. -/
def activeSite (c : Site) : Bool :=
  ((List.range 5).any fun h => headClass c h == .issuing)
    || !c.half0.nests.isEmpty || !c.half1.nests.isEmpty || !c.half0.fills.isEmpty || !c.half1.fills.isEmpty || !c.pipe.isEmpty
    || !c.q.lq.isEmpty || !c.q.sq.isEmpty || !c.q.ce.isEmpty || c.q.run0.isSome || c.q.run1.isSome || !c.tm.images.isEmpty
    || !drained c.ctx0.buf || !drained c.ctx1.buf

def deviceActive (s : State) : Bool :=
  s.sites.cells.any (fun p => activeSite p.2)
    || s.dies.cells.any (fun d => d.2.ce.cells.any fun e => e.2.run.isSome || d.2.ports.cells.any fun p => !p.2.waiting.isEmpty)
    || !s.moves.isEmpty || s.atomics.cells.any fun b => !b.2.q.isEmpty

/-! ## The next cycle -/

/-- The cores with a beat in this cycle. -/
def keptSites (s : State) : List Nat := (s.sites.cells.filter fun p => keeps p.1 s).map (·.1)

/-- What ends with this cycle. -/
def endCycle (s : State) : State :=
  let ks := keptSites s
  let s0 := s.rinks.cells.foldl (fun s q => q.2.work.launches.foldl countEntry s) s
  let s1 := ks.foldl (fun s k => endBeat k s) s0
  let s2 := ks.foldl (fun s k => countBeat k s) s1
  (s2.rinks.cells.filter fun q => countsBeats q.2).foldl (fun s q => countRink q.1 s) s2

/-- What begins with a cycle, `s` standing at it. -/
def beginCycle (s : State) : State :=
  let s1 := { s with rinks := s.rinks.mapVals fun r q =>
    if q.work.launches.isEmpty then q else { q with work := { q.work with launches := q.work.launches.map (nextTime r s) } } }
  let s2 := { s1 with sites := s1.sites.mapVals fun k c => latchSite s k (if keeps k s then nextBeat s k c else c),
                      dies := s1.dies.mapVals fun _ d => latchDie s d }
  let s3 := (s2.rinks.cells.filter fun q => !q.2.work.launches.isEmpty).foldl (fun s q => arriveRink q.1 s) s2
  let ks := (s3.sites.cells.filter fun p => keeps p.1 s && !(p.2.pipe.isEmpty && drained p.2.ctx0.buf && drained p.2.ctx1.buf)).map (·.1)
  let s4 := ks.foldl (fun s k => beginBeat k s) (performTm ks s3)
  (List.range 12).foldl (fun s p => pumpPort p s) s4

/-- The master clock's next cycle. In Hold the core clocks stand. -/
def advance (s : State) : State :=
  let s0 := modPower slewRails { arbitrateAll s with stored := [], synced := [] }
  if s.power.st = .hold then { s0 with cycle := s.cycle + 1 }
  else
    let s1 := endCycle s0
    let s2 := countIdle (deviceActive s1 || s1.power.st != .run) s1
    beginCycle { s2 with cycle := s1.cycle + 1 }

end Sys2Proof.Machine
end

