-- ==== Sys2Proof/Machine/Capability.lean ====
section
/-!
DEFINITION. The capability group (04 R121 to R123). No instruction of it traps on an untagged or malformed operand.
-/

namespace Sys2Proof.Machine

open Host (Outcome)

/-- A capability word that writes capability register `d` from `a` and perhaps a scalar register, with latency 1 (R95). -/
def capWord (d a : BitVec 4) (b : List (BitVec 5)) (v : Cap) (s : State) : Outcome State Fault Refusal :=
  let now := (mySite s).now
  let x := myCtx s
  .next (ccWord ([readA now x a] ++ b.map (readS now x) ++ [writeA now 1 x d]) 1 (modMyCtx (putA now 1 d v)) s)

/-- KMOV (R121). -/
def execKmov (d a : BitVec 4) (s : State) : Outcome State Fault Refusal :=
  capWord d a [] (getA (myCtx s) a) s

/-- KFLD (R121). -/
def execKfld (d : BitVec 5) (a : BitVec 4) (sel : BitVec 5) (s : State) : Outcome State Fault Refusal :=
  let now := (mySite s).now
  let x := myCtx s
  .next (ccWord [readA now x a, writeS now 1 x d] 1 (modMyCtx (putS now 1 d ((getA x a).fieldOf sel.toNat))) s)

/-- KSTEP (R121). -/
def execKstep (d a : BitVec 4) (b : BitVec 5) (s : State) : Outcome State Fault Refusal :=
  let x := myCtx s
  let c := getA x a
  capWord d a [b] (c.moveTo ((c.cursor + (getS x b).toNat) % 2 ^ 64)) s

/-- KSEEK (R121). -/
def execKseek (d a : BitVec 4) (b : BitVec 5) (s : State) : Outcome State Fault Refusal :=
  let x := myCtx s
  capWord d a [b] ((getA x a).moveTo (getS x b).toNat) s

/-- KCLIP (R122). -/
def execKclip (d a : BitVec 4) (b : BitVec 5) (s : State) : Outcome State Fault Refusal :=
  let x := myCtx s
  capWord d a [b] ((getA x a).clip (getS x b).toNat) s

/-- KMASK (R121). -/
def execKmask (d a : BitVec 4) (b : BitVec 5) (s : State) : Outcome State Fault Refusal :=
  let x := myCtx s
  capWord d a [b] ((getA x a).mask (getS x b).toNat) s

/-- KCOVER (R123): aa covers ab. -/
def execKcover (d : BitVec 5) (a b : BitVec 4) (s : State) : Outcome State Fault Refusal :=
  let now := (mySite s).now
  let x := myCtx s
  .next (ccWord [readA now x a, readA now x b, writeS now 1 x d] 1
    (modMyCtx (putS now 1 d (if (getA x a).covers (getA x b) then 1 else 0))) s)

/-- KDROP (R121). -/
def execKdrop (d a : BitVec 4) (s : State) : Outcome State Fault Refusal :=
  capWord d a [] ⟨(getA (myCtx s) a).bits, false⟩ s

end Sys2Proof.Machine
end

