-- ==== Sys2Proof/Machine/Release.lean ====
section
/-!
DEFINITION. RFREE: who still uses a region of tile memory, and its end (05 R136).
-/

namespace Sys2Proof.Machine

open Host (Outcome)

/-- TM ranges, each at a site. -/
abbrev TmRange := Nat × Int × Int

/-- Where a range of a base's addresses lies in TM. -/
def baseRange (s : State) (r home : Nat) (b : Base) (lo hi : Int) : Option TmRange :=
  if b.cap.space = 2 then some (home, lo, hi)
  else if b.cap.space = 3 then
    (siteOfLogical r (field b.cap.cursor 56 48) s).map fun k => (k, lo - (b.cap.cursor / 2 ^ 24 * 2 ^ 24 : Nat), hi - (b.cap.cursor / 2 ^ 24 * 2 ^ 24 : Nat))
  else none

/-- The TM ranges a copy names: its near side, in a compressed region with the worst case of its code, its far side, which is all of the base where an index or a ZRC stream gives its addresses, and its
index tensor. -/
def copyRanges (s : State) (home : Nat) (m : Command) (cp : Bool × Bool × Option (List Byte) × Option (List Byte)) : List TmRange :=
  match cp.2.2.1, cp.2.2.2 with
  | some b0, some b1 =>
    let r0 := parseRec0 b0
    let r1 := parseRec1 b1
    if copyCount r0 = 0 then []
    else
      let e := extremes (r0.counts.take r0.dims) r0.tstr
      let base (i : Nat) : Base := nth ⟨Cap.null, []⟩ m.bases i
      let far := base r1.base
      let fr := if cp.1 || r0.idx then far.cap.bounds else farRange m.bases r0 r1
      let bytes : Int := if (nearZip cp.2.1 r0 m.rink (site home s)).isSome then zrcWorst (ceilDiv (copyCount r0 * r0.esz) 4) else 0
      let near := if cp.2.1 then [] else [(home, (r0.tmaddr : Int) + e.1, (r0.tmaddr : Int) + max (e.2 + r0.esz) bytes)]
      near ++ (baseRange s m.rink home far fr.1 fr.2).toList
        ++ (if r0.idx then (baseRange s m.rink home (base r0.ibase) (indexRange m.bases r0).1 (indexRange m.bases r0).2).toList else [])
  | _, _ => []

/-- The TM ranges a Lift command names: those of its copies. -/
def commandRanges (s : State) (home : Nat) (m : Command) : List TmRange := (copiesOf m.words).flatMap (copyRanges s home m)

/-- The spans the OUT actions of a nest may write, at each level that has one (07 R209). -/
def outSpans (v : Half) (n : Nest) : List (Nat × Nat) :=
  let cfg := nestCfg v n.bank
  ((List.range cfg.nLevels).filter fun l => (cfg.levels[l]?).any fun w => bitOf w.act 2).map fun l =>
    let e := outRange cfg l
    (tmMod e.1, (e.2 - e.1).toNat + rowBytes cfg * (1 + b2n n.whole))

/-- A Lift command queued or running, or a matrix or VE operation of the rink, names a row group of the region (R136). -/
def regionInUse (k : Nat) (g : Region) (s : State) : Bool :=
  let c := site k s
  let lo := g.base
  let hi := g.base + g.size
  let meets (a n : Nat) : Bool := decide (a < hi ∧ lo < a + n)
  let runs (q : Option Run) : List Command := match q with
    | some x => [x.cmd]
    | none => []
  let cmds := s.sites.cells.flatMap fun p => (p.2.q.lq ++ p.2.q.sq ++ runs p.2.q.run0 ++ runs p.2.q.run1).map fun m => (p.1, m)
  cmds.any (fun p => p.2.rink == g.rink && (commandRanges s p.1 p.2).any fun t => t.1 == k && decide (t.2.1 < (hi : Int) ∧ (lo : Int) < t.2.2))
    || [false, true].any (fun h => owns c g.rink (halfHead h) && ((halfOf c h).fills.any (fun f =>
          (planFill c g.rink f 0).spans.any (fun a => meets a.1 a.2) || f.banks.any fun b => meets (4096 * b) 4096)
        || (halfOf c h).nests.any fun n => n.done.isNone
          && (outSpans (halfOf c h) n).any fun a => meets a.1 a.2 || meets 0 (a.1 + a.2 - 2 ^ 24)))
    || c.pipe.any fun p => p.rink == g.rink && decide (2 ≤ p.stream ∧ p.stream ≤ 4) && (actSpans p.act).any fun sp => meets sp.1 sp.2.1

/-- RFREE (R136): it waits for the users of the region, then frees it. -/
def execRfree (a : BitVec 5) (s : State) : Outcome State Fault Refusal :=
  let c := mySite s
  let x := myCtx s
  let base := (getS x a).toNat
  let g := c.tm.regions.find? fun q => q.rink == myRink s && q.base == base
  let hits := match g with
    | none => [some (Hit.tmTrap 0x17 0 (if base < 0xC00000 then 1 else 5) base)]
    | some q => [hitIf (regionInUse s.cur.site q s) (.stall 3 0 0 none)]
  .next (ccWord ([needFree s, readS c.now x a] ++ hits) 1 (modMySite (modTm (freeRegion (myRink s) base))) s)

end Sys2Proof.Machine
end

