-- ==== Sys2Proof/Machine/VectorData.lean ====
section
/-!
DEFINITION. Vector engine words that cross lanes or change format: reductions, permutes, conversions and the seed instructions
(06 R168 to R174, R187, R188).
-/

namespace Sys2Proof.Machine

open Host (Outcome)

/-! ## Reductions (R168, 01 R39, R40) -/

/-- An operation of the tree on two FP32 values: an addition, or the extreme of them. -/
def treeOp (kind : Nat) (env : NumEnv) (rm u a b : Nat) : Nat × Fl :=
  let x := decodeIz env.iz 23 a
  let y := decodeIz env.iz 23 b
  if kind = 0 then
    let e := exactAdd rm x y
    let r := roundFp 23 e.1 rm env.oz u
    (r.1, e.2 ||| r.2)
  else
    let e := fpExtreme (kind == 1) x y
    (encExact 23 e.1, e.2)

/-- One stage of the tree: lane i with lane i + n, for the first n. -/
def treeStage (kind : Nat) (env : NumEnv) (rm step n : Nat) (l : List Nat) (fl : Fl) : List Nat × Fl :=
  let r := (List.range n).map fun i => treeOp kind env rm (srAt env step 0 i) (nth 0 l i) (nth 0 l (i + n))
  (r.map (·.1), r.foldl (fun f p => f ||| p.2) fl)

/-- The six stages. -/
def treeAll (kind : Nat) (env : NumEnv) (rm : Nat) (l : List Nat) : Nat × Fl :=
  let r := (List.range 6).foldl (fun p k => treeStage kind env rm k (32 / 2 ^ k) p.1 p.2) (l, 0)
  (nth 0 r.1 0, r.2)

/-- The identity of an operation in FP32: −0.0, −infinity, +infinity. -/
def treeIdentity (kind : Nat) : Nat := if kind = 0 then 0x80000000 else if kind = 1 then 0xFF800000 else 0x7F800000

/-- A lane's pair of BF16 elements widened and combined (R40). -/
def pairOp (kind : Nat) (env : NumEnv) (rm i : Nat) (w : Lane) : Nat × Fl :=
  let lo := decodeIz env.iz 7 (w.toNat % 65536)
  let hi := decodeIz env.iz 7 (w.toNat / 65536)
  let r := treeOp kind env rm (srAt env 10 0 i) (encExact 23 lo) (encExact 23 hi)
  (r.1, r.2 ||| flIf (isSnan lo || isSnan hi) flNV)

/-- The value a reduction writes to every lane, with its flags. -/
def reduceLanes (kind : Nat) (f : VFields) (c : Site) (act : BitVec 64) (a : List Lane) : Lane × Fl :=
  let env := veEnv c
  let rm := if kind = 0 then resolveRm env f.rnd.toNat else 1
  let leaf (i : Nat) : Nat × Fl :=
    if !act.getLsbD i then (treeIdentity kind, 0)
    else if f.ty = 0 then ((nth 0 a i).toNat, 0) else pairOp kind env rm i (nth 0 a i)
  let leaves := (List.range 64).map leaf
  let r := treeAll kind env rm (leaves.map (·.1))
  let fl := (leaves.map (·.2)).foldl (· ||| ·) r.2
  if f.ty = 0 then (.ofNat 32 r.1, fl)
  else
    let x := decodeIz env.iz 23 r.1
    let b := roundFp 7 x rm env.oz (srAt env 11 0 0)
    (.ofNat 32 (b.1 + b.1 * 65536), fl ||| b.2)

def reduceWord (kind : Nat) (f : VFields) (s : State) : State :=
  let c := mySite s
  let v := c.ve
  let r := reduceLanes kind f c (activeLanes v f) (srcVal v f 0)
  veWord f [0] [governHit c.now v f, writeV c.now v f.vd.toNat] 1 (fun s =>
    modMySite (veFlags 9 r.2) (modMyVe (putV c.now 9 f.vd.toNat (BitVec.allOnes 64) false (List.replicate 64 r.1)) s)) s

/-- VRSUM (R168). -/
def execVrsum (f : VFields) (s : State) : Outcome State Fault Refusal := .next (reduceWord 0 f s)

/-- VRMAX (R168). -/
def execVrmax (f : VFields) (s : State) : Outcome State Fault Refusal := .next (reduceWord 1 f s)

/-- VRMIN (R168). -/
def execVrmin (f : VFields) (s : State) : Outcome State Fault Refusal := .next (reduceWord 2 f s)

/-! ## Permutes (R169) -/

/-- Element `e` of a register of 16-bit elements. -/
def elem16 (l : List Lane) (e : Nat) : Nat := if e % 2 = 0 then (nth 0 l (e / 2)).toNat % 65536 else (nth 0 l (e / 2)).toNat / 65536

def permute (f : VFields) (srcs : List Nat) (g : List Lane → List Lane → Nat → Lane) (s : State) : State :=
  vLanes f srcs 1 3 (fun _ vals i => (g (nth [] vals 0) (nth [] vals 1) i, 0)) s

/-- VPERM (R169). -/
def execVperm (f : VFields) (s : State) : Outcome State Fault Refusal :=
  .next (permute f [0, 1] (fun a b i => nth 0 a ((nth 0 b i).toNat % 64)) s)

/-- VBCAST (R169). -/
def execVbcast (f : VFields) (s : State) : Outcome State Fault Refusal :=
  .next (permute f [0] (fun a _ _ => nth 0 a (f.vb.toNat % 64)) s)

/-- VROT (R169). -/
def execVrot (f : VFields) (s : State) : Outcome State Fault Refusal :=
  .next (permute f [0] (fun a _ i => nth 0 a ((i + f.vb.toNat) % 64)) s)

/-- VZIP (R169). -/
def execVzip (f : VFields) (s : State) : Outcome State Fault Refusal :=
  .next (permute f [0, 1] (fun a b i => .ofNat 32 (elem16 a i + elem16 b i * 65536)) s)

/-- VUNZIP (R169): the even elements of va, then those of vb. -/
def execVunzip (f : VFields) (s : State) : Outcome State Fault Refusal :=
  .next (permute f [0, 1] (fun a b i =>
    let e (k : Nat) : Nat := if k < 64 then elem16 a (2 * k) else elem16 b (2 * (k - 64))
    .ofNat 32 (e (2 * i) + e (2 * i + 1) * 65536)) s)

/-! ## Conversions (R170 to R174) -/

/-- The conversion of a lane in the layout of its widths (R170): `draw` is the draw of an element, numbered in the word's type (R155;
notes/assumptions/10.md). -/
def convertLane (env : NumEnv) (src dst rm : Nat) (draw : Nat → Nat) (w : Lane) (i : Nat) : Lane × Fl :=
  let x := w.toNat
  if tyBits src = 32 then
    let r := convertElem env src dst rm (draw i) x
    (.ofNat 32 r.1, r.2)
  else if tyBits dst = 32 then
    let r := convertElem env src dst rm (draw (2 * i)) (x % 65536)
    (.ofNat 32 r.1, r.2)
  else
    let lo := convertElem env src dst rm (draw (2 * i)) (x % 65536)
    let hi := convertElem env src dst rm (draw (2 * i + 1)) (x / 65536)
    (.ofNat 32 (lo.1 + hi.1 * 65536), lo.2 ||| hi.2)

/-- VCVT (R170). -/
def execVcvt (f : VFields) (s : State) : Outcome State Fault Refusal :=
  .next (vLanes f [0] 1 3 (fun c vals i =>
    convertLane (veEnv c) f.ty.toNat f.vc.toNat (resolveRm (veEnv c) f.rnd.toNat) (vSite c 7) (nth 0 (nth [] vals 0) i) i) s)

/-- VSRND (R173): from FP32, always stochastic. -/
def execVsrnd (f : VFields) (s : State) : Outcome State Fault Refusal :=
  .next (vLanes f [0] 1 3 (fun c vals i =>
    convertLane (veEnv c) 0 f.vc.toNat 5 (vSite c 6) (nth 0 (nth [] vals 0) i) i) s)

/-- VRNG (R174). -/
def execVrng (f : VFields) (s : State) : Outcome State Fault Refusal :=
  .next (vLanes f [0, 1] 1 3 (fun c vals i =>
    (.ofNat 32 (srAt (veEnv c) 9 (nth 0 (nth [] vals 0) i).toNat (nth 0 (nth [] vals 1) i).toNat), 0)) s)

/-- The names `n` to `n + k - 1` are all vector registers, and all static or all rotating (R171). -/
def groupOk (l : Loop) (n k : Nat) : Bool :=
  let rot (m : Nat) : Bool := decide (48 ≤ m ∧ m < 48 + l.size.toNat)
  decide (n + k ≤ 96) && (List.range k).all fun i => rot (n + i) == rot n

def groupHit (l : Loop) (n k : Nat) : Option Hit := hitIf (!groupOk l n k) (.trap 1 (4096 + 4 * 256))

/-- A number whose fields of `w` bits are these values, the first lowest. -/
def packFields (w : Nat) (l : List Nat) : Nat := l.foldr (fun x n => x % 2 ^ w + n * 2 ^ w) 0

/-- The 64 lanes of a number of 2,048 bits. -/
def lanesOf (n : Nat) : List Lane := (List.range 64).map fun i => .ofNat 32 (n / 2 ^ (32 * i))

def numberOf (l : List Lane) : Nat := packFields 32 (l.map (·.toNat))

/-- VQBFP (R171): 256 elements to a block; mantissas in vd, the exponent in lane 0 of vd + 1. -/
def execVqbfp (f : VFields) (s : State) : Outcome State Fault Refusal :=
  let c := mySite s
  let v := c.ve
  let n := if f.ty = 0 then 4 else 2
  let env := veEnv c
  let w := f.vc.toNat
  let regs := (List.range n).map fun r => getV v (f.va.toNat + r)
  let words := if f.ty = 0 then regs.flatMap (·.map (·.toNat)) else regs.flatMap (·.flatMap fun x => [x.toNat % 65536, x.toNat / 65536])
  let q := quantiseBlock env.bz (words.map (decodeIz env.iz (fracBits f.ty))) w (resolveRm env f.rnd.toNat) (vSite c 8)
  let mant := lanesOf (packFields w (q.2.1.map (intMod w)))
  .next (veWord f [0] ([groupHit v.loop f.va.toNat n, groupHit v.loop f.vd.toNat 2]
      ++ (List.range (n - 1)).map (fun r => readV c.now v (f.va.toNat + r + 1))
      ++ [writeV c.now v f.vd.toNat, writeV c.now v (f.vd.toNat + 1)]) 4 (fun s =>
    modMySite (veFlags 8 q.2.2) (modMyVe (fun w =>
      putV c.now 8 (f.vd.toNat + 1) (BitVec.allOnes 64) false (.ofNat 32 q.1 :: List.replicate 63 0)
        (putV c.now 8 f.vd.toNat (BitVec.allOnes 64) false mant w)) s)) s)

/-- VDQBFP (R172): a block to 256 FP32 values. -/
def execVdqbfp (f : VFields) (s : State) : Outcome State Fault Refusal :=
  let c := mySite s
  let v := c.ve
  let env := veEnv c
  let w := f.vc.toNat
  let m := numberOf (getV v f.va.toNat)
  let e := (nth 0 (getV v (f.va.toNat + 1)) 0).toNat % 256
  let vals := (List.range 256).map fun k => dequantElem env.bz env.oz e w (sext w (m / 2 ^ (w * k)))
  let fl := (vals.map (·.2)).foldl (· ||| ·) 0
  .next (veWord f [0] ([groupHit v.loop f.va.toNat 2, groupHit v.loop f.vd.toNat 4, readV c.now v (f.va.toNat + 1)]
      ++ (List.range 4).map fun r => writeV c.now v (f.vd.toNat + r)) 4 (fun s =>
    modMySite (veFlags 6 fl) (modMyVe (fun w => (List.range 4).foldl (fun w r =>
      putV c.now 6 (f.vd.toNat + r) (BitVec.allOnes 64) false
        ((List.range 64).map fun i => .ofNat 32 (nth (0, 0) vals (64 * r + i)).1) w) w) s)) s)

/-! ## Seed instructions (R187, R188) -/

/-- The bits `32 q` to `32 q + 31` of a row, bit k at lane bit k mod 32. -/
def rowLane (row : List Bool) (q : Nat) : Lane :=
  .ofNat 32 (packFields 1 (((row.drop (32 * q)).take 32).map b2n))

/-- VSEEDGEN (R187). -/
def execVseedgen (f : VFields) (s : State) : Outcome State Fault Refusal :=
  .next (vLanes f [0, 1] 1 4 (fun _ vals i =>
    let b := (nth 0 (nth [] vals 1) (8 * (i / 8))).toNat
    (rowLane (seedRow (nth 0 (nth [] vals 0) (8 * (i / 8))) (field b 19 16) (field b 7 0)) (i % 8), 0)) s)

/-- The exact sum of terms, from the first on (01 R25). -/
def sumTerms : List Fp → Fp
  | [] => .fin false 0 0
  | t :: ts => ts.foldl (fun a t => (exactAdd 1 a t).1) t

/-- The score of a candidate: an exact sum of signed targets, rounded once (R188). -/
def seedScore (env : NumEnv) (targets : List Fp) (signs : List Bool) : Nat × Fl :=
  let terms := (targets.zip signs).map fun p => if p.2 then p.1 else negFp p.1
  let both := terms.contains (.inf true) && terms.contains (.inf false)
  if both || terms.any isNan then (encNan 23, flIf (both || terms.any isSnan) flNV)
  else roundFp 23 (sumTerms terms) 1 env.oz 0

/-- VSEEDSRCH (R188). -/
def execVseedsrch (f : VFields) (s : State) : Outcome State Fault Refusal :=
  .next (vLanes f [0, 1, 2] 8 12 (fun c vals i =>
    let env := veEnv c
    let k := (nth 0 (nth [] vals 2) 0).toNat
    let signs := ((seedRow (nth 0 (nth [] vals 1) i) (field k 19 16) (field k 7 0)).drop (64 * field k 25 24)).take 64
    let r := seedScore env ((nth [] vals 0).map fun w => decodeIz env.iz 23 w.toNat) signs
    (.ofNat 32 r.1, r.2)) s)

end Sys2Proof.Machine
end

