-- ==== Sys2Proof/Machine/Dispatch.lean ====
section
/-!
DEFINITION. The meaning of every constructor of `Instr`, one arm each.
-/

namespace Sys2Proof.Machine

/-- What an instruction word or an event does to the state. -/
def exec (i : Instr) (s : State) : Host.Outcome State Fault Refusal :=
  match i with
  | .add d a b => Sys2Proof.Machine.execAdd d a b s
  | .sub d a b => Sys2Proof.Machine.execSub d a b s
  | .andR d a b => Sys2Proof.Machine.execAnd d a b s
  | .orR d a b => Sys2Proof.Machine.execOr d a b s
  | .xorR d a b => Sys2Proof.Machine.execXor d a b s
  | .andn d a b => Sys2Proof.Machine.execAndn d a b s
  | .shl d a b => Sys2Proof.Machine.execShl d a b s
  | .shr d a b => Sys2Proof.Machine.execShr d a b s
  | .sra d a b => Sys2Proof.Machine.execSra d a b s
  | .slt d a b => Sys2Proof.Machine.execSlt d a b s
  | .sltn d a b => Sys2Proof.Machine.execSltn d a b s
  | .seq d a b => Sys2Proof.Machine.execSeq d a b s
  | .minR d a b => Sys2Proof.Machine.execMin d a b s
  | .maxR d a b => Sys2Proof.Machine.execMax d a b s
  | .minn d a b => Sys2Proof.Machine.execMinn d a b s
  | .maxn d a b => Sys2Proof.Machine.execMaxn d a b s
  | .mul d a b => Sys2Proof.Machine.execMul d a b s
  | .mulh d a b => Sys2Proof.Machine.execMulh d a b s
  | .mulhn d a b => Sys2Proof.Machine.execMulhn d a b s
  | .div d a b => Sys2Proof.Machine.execDiv d a b s
  | .divn d a b => Sys2Proof.Machine.execDivn d a b s
  | .rem d a b => Sys2Proof.Machine.execRem d a b s
  | .remn d a b => Sys2Proof.Machine.execRemn d a b s
  | .sel d a b c => Sys2Proof.Machine.execSel d a b c s
  | .clz d a => Sys2Proof.Machine.execClz d a s
  | .ctz d a => Sys2Proof.Machine.execCtz d a s
  | .popc d a => Sys2Proof.Machine.execPopc d a s
  | .addw d a b => Sys2Proof.Machine.execAddw d a b s
  | .subw d a b => Sys2Proof.Machine.execSubw d a b s
  | .addi d a imm => Sys2Proof.Machine.execAddi d a imm s
  | .andi d a imm => Sys2Proof.Machine.execAndi d a imm s
  | .ori d a imm => Sys2Proof.Machine.execOri d a imm s
  | .xori d a imm => Sys2Proof.Machine.execXori d a imm s
  | .shli d a imm => Sys2Proof.Machine.execShli d a imm s
  | .shri d a imm => Sys2Proof.Machine.execShri d a imm s
  | .srai d a imm => Sys2Proof.Machine.execSrai d a imm s
  | .slti d a imm => Sys2Proof.Machine.execSlti d a imm s
  | .sltni d a imm => Sys2Proof.Machine.execSltni d a imm s
  | .lui d imm => Sys2Proof.Machine.execLui d imm s
  | .orhi d a imm => Sys2Proof.Machine.execOrhi d a imm s
  | .orti d a imm => Sys2Proof.Machine.execOrti d a imm s
  | .muli d a imm => Sys2Proof.Machine.execMuli d a imm s
  | .beq a b disp => Sys2Proof.Machine.execBeq a b disp s
  | .bne a b disp => Sys2Proof.Machine.execBne a b disp s
  | .blt a b disp => Sys2Proof.Machine.execBlt a b disp s
  | .bge a b disp => Sys2Proof.Machine.execBge a b disp s
  | .bltn a b disp => Sys2Proof.Machine.execBltn a b disp s
  | .bgen a b disp => Sys2Proof.Machine.execBgen a b disp s
  | .loop a disp => Sys2Proof.Machine.execLoop a disp s
  | .jmp disp => Sys2Proof.Machine.execJmp disp s
  | .call disp => Sys2Proof.Machine.execCall disp s
  | .ret => Sys2Proof.Machine.execRet s
  | .jr a => Sys2Proof.Machine.execJr a s
  | .callr a => Sys2Proof.Machine.execCallr a s
  | .ldS8 d cap off => Sys2Proof.Machine.execLdS8 d cap off s
  | .ldZ8 d cap off => Sys2Proof.Machine.execLdZ8 d cap off s
  | .ldS16 d cap off => Sys2Proof.Machine.execLdS16 d cap off s
  | .ldZ16 d cap off => Sys2Proof.Machine.execLdZ16 d cap off s
  | .ldS32 d cap off => Sys2Proof.Machine.execLdS32 d cap off s
  | .ldZ32 d cap off => Sys2Proof.Machine.execLdZ32 d cap off s
  | .ldD d cap off => Sys2Proof.Machine.execLdD d cap off s
  | .ldC d cap off => Sys2Proof.Machine.execLdC d cap off s
  | .stB d cap off => Sys2Proof.Machine.execStB d cap off s
  | .stH d cap off => Sys2Proof.Machine.execStH d cap off s
  | .stW d cap off => Sys2Proof.Machine.execStW d cap off s
  | .stD d cap off => Sys2Proof.Machine.execStD d cap off s
  | .stC d cap off => Sys2Proof.Machine.execStC d cap off s
  | .amoadd dbl d a b => Sys2Proof.Machine.execAmoadd dbl d a b s
  | .amoand dbl d a b => Sys2Proof.Machine.execAmoand dbl d a b s
  | .amoor dbl d a b => Sys2Proof.Machine.execAmoor dbl d a b s
  | .amoxor dbl d a b => Sys2Proof.Machine.execAmoxor dbl d a b s
  | .amoswap dbl d a b => Sys2Proof.Machine.execAmoswap dbl d a b s
  | .amomin dbl d a b => Sys2Proof.Machine.execAmomin dbl d a b s
  | .amomax dbl d a b => Sys2Proof.Machine.execAmomax dbl d a b s
  | .amominn dbl d a b => Sys2Proof.Machine.execAmominn dbl d a b s
  | .amomaxn dbl d a b => Sys2Proof.Machine.execAmomaxn dbl d a b s
  | .cas dbl d a b c => Sys2Proof.Machine.execCas dbl d a b c s
  | .kmov d a => Sys2Proof.Machine.execKmov d a s
  | .kfld d a sel => Sys2Proof.Machine.execKfld d a sel s
  | .kstep d a b => Sys2Proof.Machine.execKstep d a b s
  | .kseek d a b => Sys2Proof.Machine.execKseek d a b s
  | .kclip d a b => Sys2Proof.Machine.execKclip d a b s
  | .kmask d a b => Sys2Proof.Machine.execKmask d a b s
  | .kcover d a b => Sys2Proof.Machine.execKcover d a b s
  | .kdrop d a => Sys2Proof.Machine.execKdrop d a s
  | .mark => Sys2Proof.Machine.execMark s
  | .fence scope => Sys2Proof.Machine.execFence scope s
  | .waitf f clr => Sys2Proof.Machine.execWaitf f clr s
  | .sigf f val => Sys2Proof.Machine.execSigf f val s
  | .tstf d f clr => Sys2Proof.Machine.execTstf d f clr s
  | .idle a n => Sys2Proof.Machine.execIdle a n s
  | .fork a => Sys2Proof.Machine.execFork a s
  | .rendez => Sys2Proof.Machine.execRendez s
  | .push q d a => Sys2Proof.Machine.execPush q d a s
  | .pushc q a => Sys2Proof.Machine.execPushc q a s
  | .pop d q => Sys2Proof.Machine.execPop d q s
  | .mtx half bank reg a => Sys2Proof.Machine.execMtx half bank reg a s
  | .mfx d half bank reg => Sys2Proof.Machine.execMfx d half bank reg s
  | .ralloc d a cls policy persistent compressed => Sys2Proof.Machine.execRalloc d a cls policy persistent compressed s
  | .rfree a => Sys2Proof.Machine.execRfree a s
  | .rwax a n => Sys2Proof.Machine.execRwax a n s
  | .launch d a => Sys2Proof.Machine.execLaunch d a s
  | .lwait d level => Sys2Proof.Machine.execLwait d level s
  | .cancel level => Sys2Proof.Machine.execCancel level s
  | .gate p => Sys2Proof.Machine.execGate p s
  | .evpop d => Sys2Proof.Machine.execEvpop d s
  | .wpub w => Sys2Proof.Machine.execWpub w s
  | .wsync w => Sys2Proof.Machine.execWsync w s
  | .trap n => Sys2Proof.Machine.execTrap n s
  | .eret => Sys2Proof.Machine.execEret s
  | .hcall n => Sys2Proof.Machine.execHcall n s
  | .mfs d reg => Sys2Proof.Machine.execMfs d reg s
  | .mts reg a => Sys2Proof.Machine.execMts reg a s
  | .halt => Sys2Proof.Machine.execHalt s
  | .snap => Sys2Proof.Machine.execSnap s
  | .vidle f => Sys2Proof.Machine.execVidle f s
  | .vwaitf f => Sys2Proof.Machine.execVwaitf f s
  | .vsigf f => Sys2Proof.Machine.execVsigf f s
  | .vend f => Sys2Proof.Machine.execVend f s
  | .vloop f => Sys2Proof.Machine.execVloop f s
  | .vsetlc f => Sys2Proof.Machine.execVsetlc f s
  | .vturn f => Sys2Proof.Machine.execVturn f s
  | .vadd f => Sys2Proof.Machine.execVadd f s
  | .vsub f => Sys2Proof.Machine.execVsub f s
  | .vmul f => Sys2Proof.Machine.execVmul f s
  | .vfma f => Sys2Proof.Machine.execVfma f s
  | .vfms f => Sys2Proof.Machine.execVfms f s
  | .vfnma f => Sys2Proof.Machine.execVfnma f s
  | .vmax f => Sys2Proof.Machine.execVmax f s
  | .vmin f => Sys2Proof.Machine.execVmin f s
  | .vabs f => Sys2Proof.Machine.execVabs f s
  | .vneg f => Sys2Proof.Machine.execVneg f s
  | .vcopysgn f => Sys2Proof.Machine.execVcopysgn f s
  | .vrcp f => Sys2Proof.Machine.execVrcp f s
  | .vrsq f => Sys2Proof.Machine.execVrsq f s
  | .vexp2 f => Sys2Proof.Machine.execVexp2 f s
  | .vlog2 f => Sys2Proof.Machine.execVlog2 f s
  | .vand f => Sys2Proof.Machine.execVand f s
  | .vor f => Sys2Proof.Machine.execVor f s
  | .vxor f => Sys2Proof.Machine.execVxor f s
  | .vnot f => Sys2Proof.Machine.execVnot f s
  | .vshl f => Sys2Proof.Machine.execVshl f s
  | .vshr f => Sys2Proof.Machine.execVshr f s
  | .vsra f => Sys2Proof.Machine.execVsra f s
  | .vmov f => Sys2Proof.Machine.execVmov f s
  | .vmovi f => Sys2Proof.Machine.execVmovi f s
  | .vmovhi f => Sys2Proof.Machine.execVmovhi f s
  | .vcmp f => Sys2Proof.Machine.execVcmp f s
  | .vsel f => Sys2Proof.Machine.execVsel f s
  | .vpand f => Sys2Proof.Machine.execVpand f s
  | .vpor f => Sys2Proof.Machine.execVpor f s
  | .vpxor f => Sys2Proof.Machine.execVpxor f s
  | .vpnot f => Sys2Proof.Machine.execVpnot f s
  | .vplen f => Sys2Proof.Machine.execVplen f s
  | .vrsum f => Sys2Proof.Machine.execVrsum f s
  | .vrmax f => Sys2Proof.Machine.execVrmax f s
  | .vrmin f => Sys2Proof.Machine.execVrmin f s
  | .vperm f => Sys2Proof.Machine.execVperm f s
  | .vbcast f => Sys2Proof.Machine.execVbcast f s
  | .vrot f => Sys2Proof.Machine.execVrot f s
  | .vzip f => Sys2Proof.Machine.execVzip f s
  | .vunzip f => Sys2Proof.Machine.execVunzip f s
  | .vcvt f => Sys2Proof.Machine.execVcvt f s
  | .vqbfp f => Sys2Proof.Machine.execVqbfp f s
  | .vdqbfp f => Sys2Proof.Machine.execVdqbfp f s
  | .vsrnd f => Sys2Proof.Machine.execVsrnd f s
  | .vrng f => Sys2Proof.Machine.execVrng f s
  | .vld f => Sys2Proof.Machine.execVld f s
  | .vlds f => Sys2Proof.Machine.execVlds f s
  | .vldg f => Sys2Proof.Machine.execVldg f s
  | .vst f => Sys2Proof.Machine.execVst f s
  | .vsts f => Sys2Proof.Machine.execVsts f s
  | .vscat f => Sys2Proof.Machine.execVscat f s
  | .vldt f => Sys2Proof.Machine.execVldt f s
  | .vstt f => Sys2Proof.Machine.execVstt f s
  | .vxaddi f => Sys2Proof.Machine.execVxaddi f s
  | .vxadd f => Sys2Proof.Machine.execVxadd f s
  | .vxset f => Sys2Proof.Machine.execVxset f s
  | .vseedgen f => Sys2Proof.Machine.execVseedgen f s
  | .vseedsrch f => Sys2Proof.Machine.execVseedsrch f s
  | .lit v => Sys2Proof.Machine.execLit v s
  | .seqIdle n => Sys2Proof.Machine.execSeqIdle n s
  | .idlew => Sys2Proof.Machine.execIdlew s
  | .cat => Sys2Proof.Machine.execCat s
  | .dup => Sys2Proof.Machine.execDup s
  | .drop => Sys2Proof.Machine.execDrop s
  | .swap => Sys2Proof.Machine.execSwap s
  | .sadd => Sys2Proof.Machine.execSadd s
  | .sneg => Sys2Proof.Machine.execSneg s
  | .sshl k => Sys2Proof.Machine.execSshl k s
  | .seqWaitf f clr => Sys2Proof.Machine.execSeqWaitf f clr s
  | .seqSigf f val => Sys2Proof.Machine.execSeqSigf f val s
  | .rep n => Sys2Proof.Machine.execRep n s
  | .endr => Sys2Proof.Machine.execEndr s
  | .claim slot => Sys2Proof.Machine.execClaim slot s
  | .release slot => Sys2Proof.Machine.execRelease slot s
  | .fill slot => Sys2Proof.Machine.execFill slot s
  | .sfill slot => Sys2Proof.Machine.execSfill slot s
  | .dfill slot => Sys2Proof.Machine.execDfill slot s
  | .mnest bank => Sys2Proof.Machine.execMnest bank s
  | .mgo p whole acc bank => Sys2Proof.Machine.execMgo p whole acc bank s
  | .promote => Sys2Proof.Machine.execPromote s
  | .aclr whole bank => Sys2Proof.Machine.execAclr whole bank s
  | .aout tile whole bank => Sys2Proof.Machine.execAout tile whole bank s
  | .mend => Sys2Proof.Machine.execMend s
  | .lrec n => Sys2Proof.Machine.execLrec n s
  | .copy tile tok fifo => Sys2Proof.Machine.execCopy tile tok fifo s
  | .copyz tile tok fifo => Sys2Proof.Machine.execCopyz tile tok fifo s
  | .chain => Sys2Proof.Machine.execChain s
  | .crcset => Sys2Proof.Machine.execCrcset s
  | .crcchk => Sys2Proof.Machine.execCrcchk s
  | .lfence => Sys2Proof.Machine.execLfence s
  | .lend => Sys2Proof.Machine.execLend s
  | .csend => Sys2Proof.Machine.execCsend s
  | .crecv => Sys2Proof.Machine.execCrecv s
  | .creduce op => Sys2Proof.Machine.execCreduce op s
  | .cgather => Sys2Proof.Machine.execCgather s
  | .cbar => Sys2Proof.Machine.execCbar s
  | .cwait => Sys2Proof.Machine.execCwait s
  | .freezePulseArrival rink lcore => Sys2Proof.Machine.execFreezePulseArrival rink lcore s
  | .hypervisorReturn site ctx regs => Sys2Proof.Machine.execHypervisorReturn site ctx regs s
  | .unitAllocation rink lctr => Sys2Proof.Machine.execUnitAllocation rink lctr s
  | .startPulse rink lctr => Sys2Proof.Machine.execStartPulse rink lctr s
  | .unitComplete rink lctr lcore => Sys2Proof.Machine.execUnitComplete rink lctr lcore s
  | .fillStart site half => Sys2Proof.Machine.execFillStart site half s
  | .fillComplete site half => Sys2Proof.Machine.execFillComplete site half s
  | .nestStart site half => Sys2Proof.Machine.execNestStart site half s
  | .nestRetire site half => Sys2Proof.Machine.execNestRetire site half s
  | .liftCommandStart site l1 => Sys2Proof.Machine.execLiftCommandStart site l1 s
  | .copyTokenPush site l1 => Sys2Proof.Machine.execCopyTokenPush site l1 s
  | .commandRetire u => Sys2Proof.Machine.execCommandRetire u s
  | .collectiveCommandStart die e => Sys2Proof.Machine.execCollectiveCommandStart die e s
  | .collectiveOpComplete rink cnum => Sys2Proof.Machine.execCollectiveOpComplete rink cnum s
  | .contributionArrival c => Sys2Proof.Machine.execContributionArrival c s
  | .collectiveTimeout rink cnum => Sys2Proof.Machine.execCollectiveTimeout rink cnum s
  | .dataFlit port flit => Sys2Proof.Machine.execDataFlit port flit s
  | .creditFlit arrival => Sys2Proof.Machine.execCreditFlit arrival s
  | .refusalFlit port flit => Sys2Proof.Machine.execRefusalFlit port flit s
  | .keepAliveFlit arrival => Sys2Proof.Machine.execKeepAliveFlit arrival s
  | .negativeAcknowledge port lastGood => Sys2Proof.Machine.execNegativeAcknowledge port lastGood s
  | .laneFailure port => Sys2Proof.Machine.execLaneFailure port s
  | .retrainComplete port => Sys2Proof.Machine.execRetrainComplete port s
  | .retrainTimeout port => Sys2Proof.Machine.execRetrainTimeout port s
  | .tick die => Sys2Proof.Machine.execTick die s
  | .groupExpiry site group => Sys2Proof.Machine.execGroupExpiry site group s
  | .policyRefresh site group => Sys2Proof.Machine.execPolicyRefresh site group s
  | .forcedRefresh site group => Sys2Proof.Machine.execForcedRefresh site group s
  | .temperatureSample die celsius => Sys2Proof.Machine.execTemperatureSample die celsius s
  | .bandFall die => Sys2Proof.Machine.execBandFall die s
  | .atomicUnitServe bank => Sys2Proof.Machine.execAtomicUnitServe bank s
  | .hostBarWrite fn addr data relaxed => Sys2Proof.Machine.execHostBarWrite fn addr data relaxed s
  | .hostBarRead fn addr len => Sys2Proof.Machine.execHostBarRead fn addr len s
  | .hostAtomicop fn op addr => Sys2Proof.Machine.execHostAtomicop fn op addr s
  | .jobGo fn slot jctl relaxed => Sys2Proof.Machine.execJobGo fn slot jctl relaxed s
  | .jobAcceptance fn slot => Sys2Proof.Machine.execJobAcceptance fn slot s
  | .jobCancel fn slot => Sys2Proof.Machine.execJobCancel fn slot s
  | .jobStart rink => Sys2Proof.Machine.execJobStart rink s
  | .operatorLengthExceeded rink => Sys2Proof.Machine.execOperatorLengthExceeded rink s
  | .tinvGuestPage fn page => Sys2Proof.Machine.execTinvGuestPage fn page s
  | .tinvIntermediatePage fn page => Sys2Proof.Machine.execTinvIntermediatePage fn page s
  | .tinvAll fn => Sys2Proof.Machine.execTinvAll fn s
  | .tinvDone fn => Sys2Proof.Machine.execTinvDone fn s
  | .stage2LeafWrite entry word0 create => Sys2Proof.Machine.execStage2LeafWrite entry word0 create s
  | .migreq fn val => Sys2Proof.Machine.execMigreq fn val s
  | .migrationEpoch fn => Sys2Proof.Machine.execMigrationEpoch fn s
  | .pageMigrationStart fn page target => Sys2Proof.Machine.execPageMigrationStart fn page target s
  | .pageMigrationComplete fn page => Sys2Proof.Machine.execPageMigrationComplete fn page s
  | .keyErase slot => Sys2Proof.Machine.execKeyErase slot s
  | .windowDestroy w => Sys2Proof.Machine.execWindowDestroy w s
  | .rinkCreate rink val => Sys2Proof.Machine.execRinkCreate rink val s
  | .rinkDestroy rink => Sys2Proof.Machine.execRinkDestroy rink s
  | .rinkSuspend rink => Sys2Proof.Machine.execRinkSuspend rink s
  | .rinkUnsuspend rink => Sys2Proof.Machine.execRinkUnsuspend rink s
  | .ownWrite site val => Sys2Proof.Machine.execOwnWrite site val s
  | .placeEntryWrite rink off val => Sys2Proof.Machine.execPlaceEntryWrite rink off val s
  | .tmshareWrite site val => Sys2Proof.Machine.execTmshareWrite site val s
  | .cpatWrite die c val => Sys2Proof.Machine.execCpatWrite die c val s
  | .cpatApply die c => Sys2Proof.Machine.execCpatApply die c s
  | .rfabWrite rink val => Sys2Proof.Machine.execRfabWrite rink val s
  | .rlandWrite rink val => Sys2Proof.Machine.execRlandWrite rink val s
  | .rvoteWrite who rink val => Sys2Proof.Machine.execRvoteWrite who rink val s
  | .optabWrite k val => Sys2Proof.Machine.execOptabWrite k val s
  | .perfClaim who site perf => Sys2Proof.Machine.execPerfClaim who site perf s
  | .perfRelease who site perf => Sys2Proof.Machine.execPerfRelease who site perf s
  | .perfRevoke site perf => Sys2Proof.Machine.execPerfRevoke site perf s
  | .traceSample site => Sys2Proof.Machine.execTraceSample site s
  | .traceRecordDrop site => Sys2Proof.Machine.execTraceRecordDrop site s
  | .snaptrigRink who rink => Sys2Proof.Machine.execSnaptrigRink who rink s
  | .snaptrigDie die => Sys2Proof.Machine.execSnaptrigDie die s
  | .rfrzResume rink => Sys2Proof.Machine.execRfrzResume rink s
  | .rfrzRewind rink => Sys2Proof.Machine.execRfrzRewind rink s
  | .autoResume rink => Sys2Proof.Machine.execAutoResume rink s
  | .launchFrozenTrap rink => Sys2Proof.Machine.execLaunchFrozenTrap rink s
  | .resumePulseArrival rink lcore => Sys2Proof.Machine.execResumePulseArrival rink lcore s
  | .coreCheck site fault => Sys2Proof.Machine.execCoreCheck site fault s
  | .pcremapGo val => Sys2Proof.Machine.execPcremapGo val s
  | .pcremapDone => Sys2Proof.Machine.execPcremapDone s
  | .warmReset => Sys2Proof.Machine.execWarmReset s
  | .operatingPointChange => Sys2Proof.Machine.execOperatingPointChange s
  | .clockSwitch => Sys2Proof.Machine.execClockSwitch s
  | .voltageRampDone => Sys2Proof.Machine.execVoltageRampDone s
  | .supplyMonitorSample draw capacity => Sys2Proof.Machine.execSupplyMonitorSample draw capacity s
  | .holdEntry => Sys2Proof.Machine.execHoldEntry s
  | .holdExit => Sys2Proof.Machine.execHoldExit s
  | .pgoodWarnNFall => Sys2Proof.Machine.execPgoodWarnNFall s
  | .retctlEnter => Sys2Proof.Machine.execRetctlEnter s
  | .retctlResume => Sys2Proof.Machine.execRetctlResume s
  | .retentionDeadline => Sys2Proof.Machine.execRetentionDeadline s
  | .retentionComplete us => Sys2Proof.Machine.execRetentionComplete us s
  | .pgoodStable => Sys2Proof.Machine.execPgoodStable s
  | .retentionResume => Sys2Proof.Machine.execRetentionResume s
  | .boot stage0 stage1 qual => Sys2Proof.Machine.execBoot stage0 stage1 qual s
  | .measurementExtend v => Sys2Proof.Machine.execMeasurementExtend v s
  | .attcmd fn => Sys2Proof.Machine.execAttcmd fn s
  | .attestationComplete fn => Sys2Proof.Machine.execAttestationComplete fn s
  | .readClearRegister who addr => Sys2Proof.Machine.execReadClearRegister who addr s
  | .registerWrite who addr val => Sys2Proof.Machine.execRegisterWrite who addr val s
  | .offChipAccessPerformed site ctx isLoad => Sys2Proof.Machine.execOffChipAccessPerformed site ctx isLoad s
  | .hostReadCompletion site ctx ok => Sys2Proof.Machine.execHostReadCompletion site ctx ok s
  | .functionReset fn => Sys2Proof.Machine.execFunctionReset fn s
  | .powerOff => Sys2Proof.Machine.execPowerOff s

end Sys2Proof.Machine
end

