-- ==== Sys2Proof/Machine/Issue.lean ====
section
/-!
DEFINITION. One step of the module: the next event of the agenda, what follows at once from the state, an elastic event, the next word that is due, or
the next cycle of the master clock.
-/

namespace Sys2Proof.Machine

open Host (Outcome)

/-! ## A word issues -/

/-- What stops a head. -/
def stopHead (h : Nat) (hit : Hit) (s : State) : State :=
  if h < 2 then ccStop hit s else if h = 2 then engineStop 2 hit s else seqStop hit s

/-- The class of a head before its word is tried: a word that proceeds makes it issuing. -/
def presetClass (h : Nat) (u : Cur) (s : State) : State :=
  if h < 5 then modSite u.site (modCtl h fun t => { t with cls := .busy }) s else s

/-- The control state of a head. -/
def headCtl (h : Nat) (u : Cur) (s : State) : Ctl :=
  let c := site u.site s
  let ofRun (q : Option Run) : Ctl := match q with
    | some v => v.ctl
    | none => Ctl.halted
  if h < 5 then ctlOf c h else if h = 5 then ofRun c.q.run0 else if h = 6 then ofRun c.q.run1 else ofRun (collEngine u.die u.ce s).run

/-- The trap word issues, and its trap is taken after it (05 R145). -/
def isTrapWord (w : Nat) : Bool := match decodeCC w with
  | .ok (.trap _) => true
  | _ => false

/-- The word proceeded: its head is issuing, or it ended its stream, or it is a trap word. -/
def proceeded (h : Nat) (u : Cur) (w : Nat) (s : State) : Bool :=
  let t := headCtl h u s
  t.cls == .issuing || (decide (h < 2) && ((ccClass w).isNone && !t.running || isTrapWord w))

/-- The head has had its word of this beat; a sequencer word that takes no beat leaves it free for the next (03 R83). -/
def markIssued (h : Nat) (u : Cur) (s : State) : State :=
  let t := headCtl h u s
  if 7 ≤ h ∨ (3 ≤ h ∧ t.running ∧ t.cls = .issuing ∧ t.next ≤ (site u.site s).now) then s else markDone u.site h s

/-- The target of a transfer that is known at decode (04 R104 to R106). -/
def decodedTarget (i : Instr) (pc : Word) : Option Word :=
  match i with
  | .beq _ _ d | .bne _ _ d | .blt _ _ d | .bge _ _ d | .bltn _ _ d | .bgen _ _ d => some (wordTarget pc d.toInt)
  | .loop _ d => some (wordTarget pc d.toInt)
  | .jmp d | .call d => some (wordTarget pc d.toInt)
  | _ => none

/-- The delay slots of the word at `pc`, as far as the buffer holds them. -/
def slotWords (pc : Word) (x : Ctx) : List (BitVec 32) :=
  let at' (n : Nat) : Option Nat := bufferedWord { x with pc := pc + .ofNat 64 n }
  match at' 4, at' 8 with
  | some a, some b => [.ofNat 32 a, .ofNat 32 b]
  | some a, none => [.ofNat 32 a]
  | _, _ => []

/-- What a CC word of off-chip code leaves of the instruction buffer (09 R255). After a transfer its delay slots stand, and one half is to take the 16 words after
them, the other those at the target. After the second slot the half of the path taken stands, and the other is refilled from what follows it; so it is when a path
without transfers enters a half, the one before it being done with (notes/assumptions/42.md). -/
def turnBuffer (i : Instr) (old x : Ctx) : Ctx :=
  if old.code.space = 2 ∨ x.code != old.code then x
  else if x.slots = 2 then
    let next := (old.pc + 12).toNat
    let target := ((decodedTarget i old.pc).getD x.npc).toNat
    { x with ib := [⟨x.code.space, (old.pc + 4).toNat, slotWords old.pc old⟩], ahead := if target = next then [next] else [next, target] }
  else if old.slots = 1 then
    let pc := x.pc.toNat
    { x with ib := (x.ib.filter fun b => decide (b.addr = pc)).take 1, ahead := (x.ahead.filter (· == pc)) ++ [pc + 64] }
  else if old.slots = 0 ∧ x.ib.any (·.addr == x.pc.toNat) then
    { x with ib := (x.ib.filter (·.addr == x.pc.toNat)).take 1, ahead := [(x.pc + 64).toNat] }
  else x

/-- A context waits for its word: one that has no half on its way takes the half after it too (09 R255). -/
def awaitWord (x : Ctx) : Ctx :=
  { x with fetching := true, ahead := if x.slots = 0 ∧ x.ahead.isEmpty then [(x.pc + 64).toNat] else x.ahead, ctl := { x.ctl with cls := .busy } }

/-- The bytes of a word fetched from TM are corrected (18 R420). -/
def correctFetch (h : Nat) (old c : Site) : Site :=
  match h with
  | 0 | 1 => let x := ctxOf old (h == 1); if x.code.space = 2 then corrected x.pc.toNat 4 c else c
  | 2 => corrected old.ve.pc.toNat 8 c
  | 3 | 4 => corrected (headPc old h) 2 c
  | _ => c

/-- What follows a word that issued: its charge and counts, the records of breakpoints, the stop of a loop. -/
def followWord (live : Nat → Bool) (h : Nat) (u : Cur) (w r : Nat) (old : Site) (acts : List Nat) (i : Instr) (s : State) : State :=
  let s0 := modSite u.site (correctFetch h old) s
  let s1 := if h < 2 then modSite u.site (modCtx u.ctx (turnBuffer i (ctxOf old u.ctx))) s0 else s0
  let s2 := bpNotes u.site h (traceRecord old h 2) acts (if h < 3 then chargeWord live h u r w s1 else s1)
  if h = 2 then bpAfter u.site acts old.ve s2 else s2

/-- The partner that waited at its rendez in this beat went on with this word, and its rendez issued too (05 R128). -/
def tookPartner (u : Cur) (old : Site) (i : Instr) (s : State) : Bool :=
  i == .rendez && (ctxOf old (!u.ctx)).rendezBeat == some old.now && (ctxOf (site u.site s) (!u.ctx)).rendezBeat.isNone

/-- What follows a word that was tried, if it issued, and the partner's of a rendez. -/
def afterWord (live : Nat → Bool) (h : Nat) (u : Cur) (w r : Nat) (old : Site) (acts : List Nat) (i : Instr) (s : State) : State :=
  if !proceeded h u w s then s
  else
    let s0 := followWord live h u w r old acts i s
    let s1 := if h < 2 then openSpan u.site u.ctx s0 else s0
    if tookPartner u old i s then
      let p := ctxHead (!u.ctx)
      followWord live p { u with ctx := !u.ctx } w r old (bpActions old p) i s1
    else s1

/-- A trap that the context takes before its next instruction (10 R272, 16 R393, 18 R416). -/
def pendingTrap (h : Nat) (u : Cur) (s : State) : Option (PendTrap × List PendTrap) :=
  let x := ctxOf (site u.site s) u.ctx
  if h < 2 ∧ !x.trap.handler then (match x.trap.pend with
    | p :: ps => some (p, ps)
    | [] => none)
  else none

/-- Nothing comes before the head's word in this beat: no trap, no breakpoint's stop, no idle count. -/
def wordNext (k h : Nat) (i : Instr) (s : State) : Bool :=
  (pendingTrap h (headCur k h) s).isNone && (bpStop k h (bpActions (site k s) h) s).isNone && (h != 2 || (prepareVe k i s).isNone)

/-- The word at a head would push FIFO `f` in this beat if there were room. -/
def wouldPush (k f h : Nat) (s : State) : Bool :=
  match instrAt k h s with
  | some i =>
    pushes i == some f && wordNext k h i s && (match exec i (modSite k (modFlags fun b =>
        { b with tokens := b.tokens.put (f - 16) 0, sets := [], blocked := [] }) { s with cur := headCur k h }) with
      | .next t => (site k t).flags.sets.contains f
      | _ => false)
  | none => false

/-- The pushes of FIFO `f` in this beat: those made, and those that words, signals of nests and tokens of copies would make. -/
def beatPushes (k f : Nat) (s : State) : Nat :=
  let c := site k s
  c.flags.sets.count f + ((dueHeads k s).filter fun h => wouldPush k f h s).length + ((signalsDue k s).filter (·.2 == f)).length + (tokensDue c f).length

/-- Pushes of one beat into a FIFO that cannot hold them all fail as a whole (02 R56). -/
def blockFifo (k f : Nat) (s : State) : State :=
  let b := (site k s).flags
  if !b.blocked.contains f ∧ 8 < b.tokens.get 0 (f - 16) + beatPushes k f s then modSite k (modFlags fun b => { b with blocked := f :: b.blocked }) s
  else s

/-- The pushes of a word's beat, as the word comes to issue. -/
def blockPushes (k : Nat) (i : Instr) (s : State) : State :=
  match pushes i with
  | none => s
  | some f => blockFifo k f s

/-- The tokens of copies that are due on the cores of `cs`, once no word of their core is to issue in this beat. -/
def blockTokens : List (Nat × Site) → State → State
  | [], s => s
  | (k, c) :: cs, s =>
    let fs := [c.q.run0, c.q.run1].filterMap fun q => q.bind (·.token)
    blockTokens cs (if fs.isEmpty || !(dueHeads k s).isEmpty then s else fs.foldl (fun s f => blockFifo k f s) s)

/-- The word of a head is executed. -/
def runWord (h : Nat) (u : Cur) (w : Nat) (i : Instr) (s : State) : Answer :=
  let old := site u.site s
  let acts := bpActions old h
  match exec i (presetClass h u (blockPushes u.site i s)) with
  | .next t => .next (markIssued h u (afterWord (liveJob s) h u w (headRink old h) old acts i t))
  | o => o

def takePending (u : Cur) (p : PendTrap × List PendTrap) (s : State) : State :=
  asCtx u.site u.ctx (takeTrap false p.1.code p.1.info p.1.fatal)
    (modSite u.site (modCtx u.ctx fun x => { x with trap := { x.trap with pend := p.2 } }) s)

/-- The word of a head that is decoded: a breakpoint's stop, a VE word's idle count and stall, or the word itself. -/
def issueDecoded (h : Nat) (u : Cur) (w : Nat) (i : Instr) (s : State) : Answer :=
  match bpStop u.site h (bpActions (site u.site s) h) s with
  | some t => .next (markDone u.site h t)
  | none =>
    match if h = 2 then prepareVe u.site i s else none with
    | some t => .next t
    | none => runWord h u w i s

/-- The head that is due: a trap that waits, its fetch, its decoding, its word (03 R69, 04 R97). -/
def issueHead (h : Nat) (u : Cur) (s0 : State) : Answer :=
  let s := { s0 with cur := u }
  match pendingTrap h u s with
  | some p => .next (markDone u.site h (takePending u p s))
  | none =>
    match fetchHead h u s with
    | .word w (.ok i) => issueDecoded h u w i s
    | .word _ (.illegal f r) => .next (markIssued h u (stopHead h (.trap 1 (f * 4096 + r * 256)) s))
    | .hit hit => .next (markIssued h u (stopHead h hit s))
    | .away =>
      .next (markDone u.site h (modSite u.site (modCtx u.ctx awaitWord) s))

/-! ## One step -/

/-- The compute dies have no power (00 R6, 19 R438). -/
def noPower (s : State) : Bool := s.power.st == .retention || s.power.st == .off

/-- What the streams and the clock do. -/
def runOrAdvance (s : State) : Answer :=
  match dueStream s with
  | some (h, u) => issueHead h u s
  | none => .next (advance s)

/-- Without power only the island does something, in Retention; else the module stands as it is until an event comes (00 R6, 19 R439). -/
def stepDark (s : State) : Answer :=
  if s.power.st = .off then .next s
  else
    match resumeRequest s, chooseEvent islandEvents s with
    | some t, _ => .next t
    | none, (some a, _) => a
    | none, (none, t) => .next t

/-- What the module does with no event in its agenda. -/
def stepSelf (s : State) : Answer :=
  if noPower s then stepDark s
  else
    match autoEvent s with
    | some a => a
    | none =>
      match elasticEvent (blockTokens s.sites.cells s) with
      | (some a, _) => a
      | (none, t) => runOrAdvance t

/-- An event that returns the device from Hold to Run: a write of a PF register, or an arrival at a Lift or collective engine (19 R437). The meanings of
REGISTER_WRITE, HOST_BAR_WRITE, JOB_GO and TEMPERATURE_SAMPLE see to it themselves. While the device is in Hold no stream writes a register. -/
def wakes (i : Instr) : Bool :=
  match i with
  | .dataFlit _ _ | .contributionArrival _ | .refusalFlit _ _ | .hostReadCompletion _ _ _ => true
  | .perfClaim who _ _ | .perfRelease who _ _ | .snaptrigRink who _ | .rvoteWrite who _ _ => who == .pf
  | .tinvGuestPage _ _ | .tinvIntermediatePage _ _ | .tinvAll _ | .migreq _ _ | .keyErase _ => true
  | .rinkCreate _ _ | .rinkDestroy _ | .rinkSuspend _ | .rinkUnsuspend _ | .ownWrite _ _ | .placeEntryWrite _ _ _ | .tmshareWrite _ _ => true
  | .cpatWrite _ _ _ | .rfabWrite _ _ | .rlandWrite _ _ | .optabWrite _ _ | .perfRevoke _ _ | .snaptrigDie _ | .rfrzResume _ | .rfrzRewind _ => true
  | .pcremapGo _ | .retctlEnter | .retctlResume | .measurementExtend _ => true
  | .attcmd fn | .jobCancel fn _ => fn == 0
  | _ => false

/-- The oldest event of the agenda. -/
def stepEvent (e : Instr) (s : State) : Answer := exec e (if wakes e then wake s else s)

/-! ## A word placed for execution (notes/assumptions/1.md) -/

/-- A region of rink 0 with a valid first group that holds `n` bytes of `w` at address 0. -/
def placeCode (n w : Nat) (c : Site) : Site :=
  let g : Region := { rink := 0, base := 0, size := 4096, cls := 3, policy := .refresh, persistent := false, compressed := false, owner := false,
                      launch := none }
  { c with tm := { c.tm with
      regions := [g], groups := c.tm.groups.put 0 { Group.empty with valid := true }, bytes := c.tm.bytes.writeBytes 0 (leBytes n w) },
           issued := [], frozen0 := false, frozen1 := false }

def placeCap : Cap := Cap.grant 2 0x011 0 4096

/-- A stream that runs and whose next word is due. -/
def dueCtl (now : Nat) : Ctl := { running := true, timetabled := false, next := now, prepared := true, cls := .issuing }

def placeCC (w : Nat) (s : State) : State :=
  modSite 0 (fun c =>
    let x := c.ctx0
    { placeCode 4 w c with
      own := { c.own with ctx0 := ⟨true, 0⟩ },
      ctx0 := { x with pc := 0, slots := 0, code := placeCap, ctl := dueCtl c.now, ahead := [], fetching := false,
                       trap := { x.trap with pend := [], hcallWait := false } } }) s

def placeVE (w : Nat) (s : State) : State :=
  modSite 0 (fun c =>
    { placeCode 8 w c with
      own := { c.own with ve := ⟨true, 0⟩ }, ve := { c.ve with pc := 0, slots := 0, code := placeCap, ctl := dueCtl c.now } }) s

def placeMS (w : Nat) (s : State) : State :=
  modSite 0 (fun c =>
    { placeCode 2 w c with
      own := { c.own with h0 := ⟨true, 0⟩ },
      half0 := { c.half0 with pcBase := 0, seq := Seq.fresh, code := placeCap, ctl := dueCtl c.now } }) s

/-- A command whose image is the word, then halfwords of zeros. -/
def placeCommand (queue w : Nat) : Command :=
  { words := .ofNat 16 w :: List.replicate 16 0, bases := [], rink := 0, ctx := false, queue := queue, num := 0, seen := 0, order := 0, image := 0 }

def placedRun (queue now w : Nat) : Run := { startRun 0 now ⟨0, false⟩ (placeCommand queue w) with ctl := dueCtl now }

def placeLift (w : Nat) (s : State) : State :=
  modSite 0 (fun c => { c with own := { c.own with l0 := ⟨true, 0⟩ }, q := { c.q with run0 := some (placedRun 0 c.now w) }, issued := [] }) s

def placeColl (w : Nat) (s : State) : State :=
  modCollEngine 0 0 (fun e => { e with owner := ⟨true, 0⟩, run := some (placedRun 2 (site 0 s).now w) }) s

/-- A sequencer word goes to a stream of its family, a shared one to a matrix stream. -/
def placeSeq (w : Nat) (s : State) : State :=
  let op := field w 14 8
  if 32768 ≤ w ∧ 0x40 ≤ op ∧ op ≤ 0x47 then placeLift w s
  else if 32768 ≤ w ∧ 0x60 ≤ op then placeColl w s
  else placeMS w s

/-- The module with a word where its stream fetches next. -/
def placeTableWord (s : State) (nbits w : Nat) : State :=
  let s1 := { s with agenda := [], power := { s.power with st := .run } }
  match nbits with
  | 32 => placeCC w s1
  | 64 => placeVE w s1
  | 16 => placeSeq w s1
  | _ => s1

end Sys2Proof.Machine
end

