-- ==== Sys2Proof/Machine/Step.lean ====
section
/-!
DEFINITION. The step of the machine, and the placing of a word where it fetches next.
-/

namespace Sys2Proof.Machine

open Host (Outcome)

/-- One step: the oldest event of the agenda, else what the module does by itself. -/
def step (s : State) : Outcome State Fault Refusal :=
  match s.agenda with
  | e :: es => stepEvent e { s with agenda := es }
  | [] => stepSelf s

/-- `s` with an instruction stored where the next step fetches (notes/assumptions/1.md). -/
def State.withFetchWord (s : State) (nbits w : Nat) : State := placeTableWord s nbits w

end Sys2Proof.Machine
end

