-- ==== Sys2Proof/Safety.lean ====
section
/-!
DEFINITION. The terms in which claims are stated: registers that may be read or written, what a word leaves alone, and the canonical form of
the memories.
-/

namespace Sys2Proof.Machine

/-! ## Registers that a word may read or write -/

/-- s0, or no earlier result to the register is still to be written (02 R43, 04 R96). -/
def settledS (s : State) (r : BitVec 5) : Prop :=
  r = 0 ∨ ((myCtx s).sElastic.getLsbD r.toNat = false ∧ (myCtx s).sReady.get 0 r.toNat ≤ (mySite s).now)

/-- s0, or a settled register that holds a value (02 R43, R50, R51, 04 R96). -/
def readableS (s : State) (r : BitVec 5) : Prop :=
  r = 0 ∨ ((myCtx s).sValid.getLsbD r.toNat = true ∧ (myCtx s).sElastic.getLsbD r.toNat = false
    ∧ (myCtx s).sReady.get 0 r.toNat ≤ (mySite s).now)

def settledA (s : State) (r : BitVec 4) : Prop :=
  (myCtx s).aElastic.getLsbD r.toNat = false ∧ (myCtx s).aReady.get 0 r.toNat ≤ (mySite s).now

def readableA (s : State) (r : BitVec 4) : Prop := (myCtx s).aValid.getLsbD r.toNat = true ∧ settledA s r

def freeMode (s : State) : Prop := (myCtx s).ctl.timetabled = false

/-- The word does not stand in a delay slot (04 R103). -/
def outsideSlots (s : State) : Prop := (myCtx s).slots = 0

/-- The executing context is its rink's Rink Sequencer (15 R362). -/
def atSequencer (s : State) : Prop := isSequencer (myRink s) s.cur.site s.cur.ctx s = true

/-- The four bytes at a target lie within the code capability (04 R107). -/
def targetInside (s : State) (target : Word) : Prop := (myCtx s).code.inBounds target.toNat 4 = true

/-- A capability that jr, callr and fork accept (04 R107, 05 R127). -/
def jumpable (c : Cap) : Prop := c.tag = true ∧ c.hasX = true ∧ c.inBounds c.cursor 4 = true ∧ c.cursor % 4 = 0

/-! ## Memory accesses -/

/-- Steps 1 to 5 of R111 pass for an access of `n` bytes at `va` (04 R111, R112). -/
def accessAllowed (s : State) (c : Cap) (va n : Nat) (ld st : Bool) : Prop :=
  c.tag = true ∧ (freeMode s ∨ c.space = 2 ∨ c.space = 3) ∧ (ld = true → c.hasLD = true) ∧ (st = true → c.hasST = true) ∧
    (c.space = 6 → c.hasSYS = true ∧ n = 8) ∧ c.inBounds va n = true ∧ va % n = 0

/-- The access has the bytes and the effect that its word gives it, in program order behind the ones before it (04 R114). -/
def entersAs (s : State) (a : Access) (c : Cap) (va n : Nat) (t : Target) (kind : LoadKind) : Prop :=
  a.space = c.space ∧ a.va = va ∧ a.target = t ∧ a.len = n ∧ a.kind = kind ∧ a.epoch = (myCtx s).buf.epoch ∧ a.order = (myCtx s).buf.count

/-! ## Off-chip granules -/

/-- An access of `n` bytes at a machine address, under a key or as the PF's plaintext, meets nothing that changes its bytes: its checks pass, a keyed frame has
been written under its slot or not at all since it was granted, and a plaintext access meets no ciphertext, no node of a counter tree and no pinned leaf (14
R339, R353 to R355). -/
def ordinaryGranule (s : State) (key : Option Nat) (ma ia n : Nat) : Prop :=
  sealPasses s key ma ia = true ∧ memErrors 2 ma s = [] ∧
    match key with
    | none => (∀ q e g, sealOf s ma ≠ some (.keyed q e g)) ∧ metLeaves ma n s = [] ∧ ∀ i < n, treeLine s (ma + i) = none
    | some q => freshFrame s q ma = false ∨ ∀ c ∈ s.seals.cells, c.1 / 256 ≠ ma / 65536

/-! ## A word that issues -/

/-- A word of one beat issues: its effect on the context, then the next word in the next beat (03 R86). -/
def wordDone (f : Ctx → Ctx) (s : State) : State :=
  modMyCtx (fun x => ccIssue (mySite s).now 1 (advancePc (f x))) s

/-- A word of one beat issues whose effect reaches beyond its context. -/
def wordAfter (now : Nat) (t : State) : State := modMyCtx (fun x => ccIssue now 1 (advancePc x)) t

/-- A control transfer issues: two delay slots, then the target or the word after them (04 R103). -/
def transferDone (taken : Bool) (target : Word) (f : Ctx → Ctx) (s : State) : State :=
  modMyCtx (fun x => ccIssue (mySite s).now 1 (transferPc taken target (f x))) s

/-! ## Vector words -/

/-- The sources that a vector word reads are there, each from its register or its latch (02 R51 to R53). -/
def sourcesReady (s : State) (f : VFields) (srcs : List Nat) : Prop :=
  ∀ i ∈ srcs, srcHit (mySite s).now (myVe s) f i = none

/-- The governing predicate may be read, and the destination register has no result on its way (02 R51, 06 R153, R154). -/
def lanesReady (s : State) (f : VFields) : Prop :=
  governHit (mySite s).now (myVe s) f = none ∧ writeV (mySite s).now (myVe s) f.vd.toNat = none

/-- A vector word of `occ` beats issues: its effect on the module, the latches of its sources, then the next word. -/
def vectorDone (f : VFields) (srcs : List Nat) (occ : Nat) (effect : State → State) (s : State) : State :=
  modMyVe (fun v => veIssue (mySite s).now occ (advanceVe ((mySite s).now + occ) (loadLatches f srcs (myVe s) v))) (effect s)

/-- The effect of a word on lanes: vd takes the results of the active lanes `lat` beats on, and their flags merge then. -/
def lanesWritten (f : VFields) (lat : Nat) (g : Nat → Lane × Fl) (s : State) : State :=
  let act := activeLanes (myVe s) f
  let res := laneMap act g
  modMySite (veFlags lat (allFlags res)) (modMyVe (putV (mySite s).now lat f.vd.toNat act f.pmode (res.map (·.1))) s)

/-! ## Sequencer words -/

/-- A sequencer word of `occ` beats issues. -/
def seqDone (occ adv : Nat) (effect : State → State) (s : State) : State :=
  seqWord [] occ adv effect s

/-! ## What a word leaves alone -/

/-- Only the executing context differs. -/
structure OnlyMyCtx (s t : State) : Prop where
  rest : t = { s with sites := t.sites }
  others : ∀ k, k ≠ s.cur.site → site k t = site k s
  core : mySite t = setCtx s.cur.ctx (myCtx t) (mySite s)

/-- Every byte of every memory reads as before: off-chip memory, host memory, tile memory and the tile registers. -/
structure MemoryKept (s t : State) : Prop where
  mem : ∀ a, t.mem.read a = s.mem.read a
  host : ∀ a, t.host.read a = s.host.read a
  tm : ∀ k a, (site k t).tm.bytes.read a = (site k s).tm.bytes.read a
  tiles : ∀ k n a, ((site k t).tiles.get Table.empty n).read a = ((site k s).tiles.get Table.empty n).read a

/-- Every scalar register but `d` keeps its value and its valid bit. -/
def ScalarsKept (d : BitVec 5) (x y : Ctx) : Prop :=
  ∀ r : BitVec 5, r ≠ d → getS y r = getS x r ∧ y.sValid.getLsbD r.toNat = x.sValid.getLsbD r.toNat

def CapsKept (x y : Ctx) : Prop := ∀ r : BitVec 4, getA y r = getA x r ∧ y.aValid.getLsbD r.toNat = x.aValid.getLsbD r.toNat

/-- The status, control, trap and energy registers and the return-address store of a context are unchanged. -/
structure SpecialsKept (x y : Ctx) : Prop where
  fstat : y.fstat = x.fstat
  fctl : y.fctl = x.fctl
  srkey : y.srkey = x.srkey
  trap : y.trap = x.trap
  ecnt : y.ecnt = x.ecnt
  ids : y.ctxid = x.ctxid ∧ y.vfid = x.vfid
  code : y.code = x.code
  staged : y.staged = x.staged
  buf : y.buf = x.buf

/-! ## The memories' canonical form -/

/-- Off-chip memory and host memory are in canonical form: addresses strictly rising, no listed byte zero. -/
def Canonical (s : State) : Prop := s.mem.wf = true ∧ s.host.wf = true

end Sys2Proof.Machine
end

