-- ==== Sys2Proof/Certificates/Slice0/Obligations.lean ====
section
/-!
DEFINITION. The statements about the model, for the provers.
-/

open Sys2Proof Sys2Proof.Machine
open Host (Outcome)

/-! ## Encodings and the step -/

/-- Words written out in the spec's own examples decode to their instructions (03 R82, R83, 04 R101 to R106, R115 to R121, 05 R125). -/
def Obligations.SpecWordsDecode : Prop :=
  decodeTableWord 32 0x00A63810 = some (.mul 5 6 7) ∧
  decodeTableWord 32 0x010110D7 = some (.sel 8 1 2 3) ∧
  decodeTableWord 32 0x2441FFFF = some (.sltni 2 1 0xFFFF) ∧
  decodeTableWord 32 0x40220005 = some (.beq 1 2 5) ∧
  decodeTableWord 32 0x5920FFFF = some (.loop 9 0xFFFF) ∧
  decodeTableWord 32 0x60000040 = some (.call 0x40) ∧
  decodeTableWord 32 0x64000000 = some .ret ∧
  decodeTableWord 32 0x64030001 = some (.jr 3) ∧
  decodeTableWord 32 0x84658002 = some (.stD 3 2 2) ∧
  decodeTableWord 32 0x888229B0 = some (.cas true 4 2 5 6) ∧
  decodeTableWord 32 0xC0000403 = some (.fence 3) ∧
  decodeTableWord 32 0xC0000861 = some (.waitf 33 true) ∧
  decodeTableWord 32 0xC0A01028 = some (.tstf 5 40 false) ∧
  decodeTableWord 16 0x880F = some (.sshl 15) ∧
  decodeTableWord 16 0x0080 = some (.lit 0x80) ∧
  decodeTableWord 16 0x8200 = some .cat

/-- Every well-formed instruction that has a word decodes from it, with every operand at every value its fields admit (03 R70 to R84). -/
def Obligations.EncodeThenDecode : Prop :=
  ∀ (i : Instr) (n w : Nat), i.wf = true → encode i = some (n, w) → w < 2 ^ n ∧ decodeTableWord n w = some i

/-- Every word the decoder accepts is the encoding of the well-formed instruction it gives: no reserved field is let pass (03 R69, R70). -/
def Obligations.DecodeThenEncode : Prop :=
  ∀ (n w : Nat) (i : Instr), n = 16 ∨ n = 32 ∨ n = 64 → w < 2 ^ n → decodeTableWord n w = some i → i.wf = true ∧ encode i = some (n, w)

/-- A context whose code capability covers its word, in a valid group of a plain region of TM, where no storage error stands, fetches the four bytes at its program counter and decodes
them as a control core word (03 R68, 04 R107, 09 R254). -/
def Obligations.FetchReadsCode : Prop :=
  ∀ (s : State) (k : Nat) (x : Side) (g : Region),
    let c := site k s
    let v := ctxOf c x
    v.code.space = 2 → v.code.inBounds v.pc.toNat 4 = true → regionAt c (headRink c (ctxHead x)) v.pc.toNat = some g →
    g.compressed = false → (groupOf c (v.pc.toNat / 4096)).valid = true → spoiled c.tm v.pc.toNat 4 = none →
    fetchHead (ctxHead x) (headCur k (ctxHead x)) s =
      .word (leNat (c.tm.bytes.readBytes v.pc.toNat 4)) (decodeCC (leNat (c.tm.bytes.readBytes v.pc.toNat 4)))

/-- When the word at the head that is due decodes to an instruction, the step is `exec` of that instruction, then the charge, counts and records of a word
that issued and the mark that the head has had its word of this beat (00 R5, 03 R86, 15 R370). An event of the agenda is the next step, and it is `exec`
of it, from Run where the event returns the device from Hold (19 R437). -/
def Obligations.StepRunsDecodedWord : Prop :=
  (∀ (s t v : State) (h w : Nat) (u : Cur) (i : Instr),
    let a : State := { t with cur := u }
    s.agenda = [] → noPower s = false → autoEvent s = none → elasticEvent (blockTokens s.sites.cells s) = (none, t) →
    dueStream t = some (h, u) →
    pendingTrap h u a = none → fetchHead h u a = .word w (.ok i) → bpStop u.site h (bpActions (site u.site a) h) a = none →
    (h = 2 → prepareVe u.site i a = none) →
    exec i (presetClass h u (blockPushes u.site i a)) = .next v →
    step s = .next (markIssued h u
      (afterWord (liveJob a) h u w (headRink (site u.site a) h) (site u.site a) (bpActions (site u.site a) h) i v))) ∧
  (∀ (s : State) (e : Instr) (es : List Instr), s.agenda = e :: es →
    let s' : State := { s with agenda := es }
    (wakes e = false → step s = exec e s') ∧ (wakes e = true → step s = exec e (wake s')))

/-- No step stops the model: every step, and every instruction and event in every state, answers a next state; none is refused and none ends in a fault. Without
power and with no event, the module stands as it is: in Off always, in Retention unless its island has something to do (00 R6, 16 R384, 19 R438, R439). -/
def Obligations.StopsOnlyUnpowered : Prop :=
  (∀ s : State, ∃ t, step s = .next t) ∧
  (∀ (i : Instr) (s : State), ∃ t, exec i s = .next t) ∧
  (∀ s : State, s.agenda = [] →
    (s.power.st = .off → step s = .next s) ∧
    (s.power.st = .retention → resumeRequest s = none → islandEvents (freshWord s).2 = [] → step s = .next s))

/-! ## Integer words of the control core -/

/-- The register words of the ALU group but the divides, with their latencies (04 R95, R99, R102). clz, ctz and popc: the counts of leading zeros,
trailing zeros and ones, each 0 to 64 (04 R99). -/
def Obligations.AluWordResults : Prop :=
  (∀ (s : State) (d a b : BitVec 5), readableS s a → readableS s b → settledS s d →
    let x := getS (myCtx s) a
    let y := getS (myCtx s) b
    let gives (i : Instr) (lat : Nat) (v : Word) : Prop := exec i s = .next (wordDone (putS (mySite s).now lat d v) s)
    gives (.add d a b) 1 (x + y) ∧ gives (.sub d a b) 1 (x - y) ∧
    gives (.andR d a b) 1 (x &&& y) ∧ gives (.orR d a b) 1 (x ||| y) ∧ gives (.xorR d a b) 1 (x ^^^ y) ∧ gives (.andn d a b) 1 (x &&& ~~~y) ∧
    gives (.shl d a b) 1 (BitVec.ofNat 64 (x.toNat * 2 ^ (y.toNat % 64))) ∧
    gives (.shr d a b) 1 (BitVec.ofNat 64 (x.toNat / 2 ^ (y.toNat % 64))) ∧
    gives (.sra d a b) 1 (BitVec.ofInt 64 (x.toInt / 2 ^ (y.toNat % 64))) ∧
    gives (.slt d a b) 1 (if x.toInt < y.toInt then 1 else 0) ∧ gives (.sltn d a b) 1 (if x.toNat < y.toNat then 1 else 0) ∧
    gives (.seq d a b) 1 (if x = y then 1 else 0) ∧
    gives (.minR d a b) 1 (if x.toInt ≤ y.toInt then x else y) ∧ gives (.maxR d a b) 1 (if x.toInt ≤ y.toInt then y else x) ∧
    gives (.minn d a b) 1 (if x.toNat ≤ y.toNat then x else y) ∧ gives (.maxn d a b) 1 (if x.toNat ≤ y.toNat then y else x) ∧
    gives (.mul d a b) 3 (BitVec.ofInt 64 (x.toInt * y.toInt)) ∧
    gives (.mulh d a b) 4 (BitVec.ofInt 64 (x.toInt * y.toInt / 2 ^ 64)) ∧
    gives (.mulhn d a b) 4 (BitVec.ofNat 64 (x.toNat * y.toNat / 2 ^ 64)) ∧
    gives (.addw d a b) 1 (((x + y).setWidth 32).signExtend 64) ∧ gives (.subw d a b) 1 (((x - y).setWidth 32).signExtend 64) ∧
    ∀ c : BitVec 5, readableS s c → gives (.sel d a b c) 1 (if getS (myCtx s) c ≠ 0 then x else y)) ∧
  (∀ (s : State) (d a : BitVec 5), readableS s a → settledS s d →
    let x := getS (myCtx s) a
    let done (n : Nat) : Outcome State Fault Refusal := .next (wordDone (putS (mySite s).now 1 d (BitVec.ofNat 64 n)) s)
    (∃ n ≤ 64, exec (.clz d a) s = done n ∧ x.toNat < 2 ^ (64 - n) ∧ (n < 64 → 2 ^ (63 - n) ≤ x.toNat)) ∧
    (∃ n ≤ 64, exec (.ctz d a) s = done n ∧ (∀ i < n, x.getLsbD i = false) ∧ (n < 64 → x.getLsbD n = true)) ∧
    exec (.popc d a) s = done ((List.range 64).countP fun i => x.getLsbD i))

/-- div, divn, rem and remn are total; they take 34 beats and hold the context's divider for them (04 R95, R100). -/
def Obligations.DivideResults : Prop :=
  ∀ (s : State) (d a b : BitVec 5), readableS s a → readableS s b → settledS s d → (myCtx s).divFree ≤ (mySite s).now →
    let x := getS (myCtx s) a
    let y := getS (myCtx s) b
    let now := (mySite s).now
    let gives (i : Instr) (v : Word) : Prop := exec i s = .next (wordDone (fun c => { putS now 34 d v c with divFree := now + 34 }) s)
    let overflows : Prop := x.toInt = -2 ^ 63 ∧ y.toInt = -1
    (y = 0 → gives (.div d a b) (-1) ∧ gives (.divn d a b) (-1) ∧ gives (.rem d a b) x ∧ gives (.remn d a b) x) ∧
    (y ≠ 0 → overflows → gives (.div d a b) (BitVec.ofInt 64 (-2 ^ 63)) ∧ gives (.rem d a b) 0) ∧
    (y ≠ 0 → ¬overflows → gives (.div d a b) (BitVec.ofInt 64 (x.toInt.tdiv y.toInt)) ∧
      gives (.rem d a b) (BitVec.ofInt 64 (x.toInt - x.toInt.tdiv y.toInt * y.toInt))) ∧
    (y ≠ 0 → gives (.divn d a b) (BitVec.ofNat 64 (x.toNat / y.toNat)) ∧
      gives (.remn d a b) (BitVec.ofNat 64 (x.toNat - x.toNat / y.toNat * y.toNat)))

/-- The immediate words (04 R95, R101). -/
def Obligations.ImmediateWordResults : Prop :=
  ∀ (s : State) (d a : BitVec 5) (imm : BitVec 16) (k : BitVec 6), settledS s d →
    let gives (i : Instr) (lat : Nat) (v : Word) : Prop := exec i s = .next (wordDone (putS (mySite s).now lat d v) s)
    let sx : Word := imm.signExtend 64
    let zx : Word := imm.setWidth 64
    gives (.lui d imm) 1 (BitVec.ofNat 64 (imm.toNat * 2 ^ 16)) ∧
    (readableS s a →
      let x := getS (myCtx s) a
      gives (.addi d a imm) 1 (x + sx) ∧ gives (.andi d a imm) 1 (x &&& zx) ∧ gives (.ori d a imm) 1 (x ||| zx) ∧
      gives (.xori d a imm) 1 (x ^^^ zx) ∧
      gives (.shli d a k) 1 (BitVec.ofNat 64 (x.toNat * 2 ^ k.toNat)) ∧ gives (.shri d a k) 1 (BitVec.ofNat 64 (x.toNat / 2 ^ k.toNat)) ∧
      gives (.srai d a k) 1 (BitVec.ofInt 64 (x.toInt / 2 ^ k.toNat)) ∧
      gives (.slti d a imm) 1 (if x.toInt < imm.toInt then 1 else 0) ∧ gives (.sltni d a imm) 1 (if x.toNat < sx.toNat then 1 else 0) ∧
      gives (.orhi d a imm) 1 (x ||| BitVec.ofNat 64 (imm.toNat * 2 ^ 32)) ∧
      gives (.orti d a imm) 1 (x ||| BitVec.ofNat 64 (imm.toNat * 2 ^ 48)) ∧
      gives (.muli d a imm) 3 (BitVec.ofInt 64 (x.toInt * imm.toInt)))

/-! ## Control transfers -/

/-- The conditional branches: taken by the comparison of their registers, two delay slots either way (04 R103, R104, R110). -/
def Obligations.BranchResults : Prop :=
  ∀ (s : State) (a b : BitVec 5) (disp : BitVec 16), freeMode s → outsideSlots s → readableS s a → readableS s b →
    let x := getS (myCtx s) a
    let y := getS (myCtx s) b
    let target : Word := (myCtx s).pc + BitVec.ofInt 64 (4 * disp.toInt)
    let goes (i : Instr) (taken : Prop) [Decidable taken] : Prop :=
      (taken → targetInside s target) → exec i s = .next (transferDone (decide taken) target id s)
    goes (.beq a b disp) (x = y) ∧ goes (.bne a b disp) (x ≠ y) ∧ goes (.blt a b disp) (x.toInt < y.toInt) ∧
    goes (.bge a b disp) (x.toInt ≥ y.toInt) ∧ goes (.bltn a b disp) (x.toNat < y.toNat) ∧ goes (.bgen a b disp) (x.toNat ≥ y.toNat)

/-- The counted loop: a counter that reads 0 stays 0 and is not taken; any other counts down and is taken while the result is not 0. The write has latency
1, and loop s0 is never taken (04 R105). It runs in both modes. Its word has major 0x16 and a b field of zero. -/
def Obligations.LoopResult : Prop :=
  ∀ (s : State) (a : BitVec 5) (disp : BitVec 16), outsideSlots s → readableS s a →
    let v := getS (myCtx s) a
    let target : Word := (myCtx s).pc + BitVec.ofInt 64 (4 * disp.toInt)
    (v = 0 → exec (.loop a disp) s = .next (transferDone false target id s)) ∧
    (v ≠ 0 → (v - 1 ≠ 0 → targetInside s target) →
      exec (.loop a disp) s = .next (transferDone (decide (v - 1 ≠ 0)) target (putS (mySite s).now 1 a (v - 1)) s)) ∧
    (a = 0 → v = 0 ∧ exec (.loop a disp) s = .next (transferDone false target id s)) ∧
    encode (.loop a disp) = some (32, 0x16 * 2 ^ 26 + a.toNat * 2 ^ 21 + disp.toNat)

/-- jmp, call, ret, jr and callr, with the return-address store (02 R64, 04 R103, R106, R107). A full or an empty return-address store traps at the call
or ret, which then has no effect (04 R97, R106). -/
def Obligations.JumpResults : Prop :=
  (∀ (s : State) (disp : BitVec 26) (a : BitVec 4), outsideSlots s →
    let x := myCtx s
    let rel : Word := x.pc + BitVec.ofInt 64 (4 * disp.toInt)
    let depth := x.trap.rscnt
    let push (y : Ctx) : Ctx := { y with trap := { y.trap with rse := y.trap.rse.put depth.toNat (y.pc + 12), rscnt := depth + 1 } }
    let pop (y : Ctx) : Ctx := { y with trap := { y.trap with rscnt := depth - 1 } }
    let via : Word := BitVec.ofNat 64 (getA x a).cursor
    (targetInside s rel → exec (.jmp disp) s = .next (transferDone true rel id s)) ∧
    (targetInside s rel → depth.toNat < 16 → exec (.call disp) s = .next (transferDone true rel push s)) ∧
    (0 < depth.toNat → targetInside s (x.trap.rse.get 0 (depth.toNat - 1)) →
      exec .ret s = .next (transferDone true (x.trap.rse.get 0 (depth.toNat - 1)) pop s)) ∧
    (freeMode s → readableA s a → jumpable (getA x a) → targetInside s via → exec (.jr a) s = .next (transferDone true via id s)) ∧
    (freeMode s → readableA s a → jumpable (getA x a) → targetInside s via → depth.toNat < 16 →
      exec (.callr a) s = .next (transferDone true via push s))) ∧
  (∀ (s : State) (disp : BitVec 26), outsideSlots s →
    ((myCtx s).trap.rscnt = 16 → exec (.call disp) s = .next (takeTrap false 0x0B 0 false s)) ∧
    ((myCtx s).trap.rscnt = 0 → exec .ret s = .next (takeTrap false 0x0C 0 false s)))

/-- After a transfer two words follow in memory, and then its target, or the next word when it was not taken (04 R103). A transfer, gate or eret in a
delay slot traps as an illegal instruction with reason 7, in either mode (03 R69, 04 R108). -/
def Obligations.DelaySlotRules : Prop :=
  (∀ (s : State) (taken : Bool) (target : Word) (f g h : Ctx → Ctx),
    (∀ x, (f x).pc = x.pc ∧ (g x).pc = x.pc ∧ (g x).npc = x.npc ∧ (g x).slots = x.slots ∧
      (h x).pc = x.pc ∧ (h x).npc = x.npc ∧ (h x).slots = x.slots) →
    let t := transferDone taken target f s
    let t1 := wordDone g t
    let t2 := wordDone h t1
    (myCtx t).pc = (myCtx s).pc + 4 ∧ (myCtx t1).pc = (myCtx s).pc + 8 ∧
      (myCtx t2).pc = (if taken then target else (myCtx s).pc + 12) ∧ (myCtx t2).slots = 0) ∧
  (∀ (s : State) (a b : BitVec 5) (c : BitVec 4) (disp : BitVec 16) (far : BitVec 26) (p : Bool), (myCtx s).slots ≠ 0 →
    let traps (i : Instr) : Prop := exec i s = .next (takeTrap false 1 0x0700 false s)
    traps (.beq a b disp) ∧ traps (.bne a b disp) ∧ traps (.blt a b disp) ∧ traps (.bge a b disp) ∧ traps (.bltn a b disp) ∧
    traps (.bgen a b disp) ∧ traps (.loop a disp) ∧ traps (.jmp far) ∧ traps (.call far) ∧ traps .ret ∧ traps (.jr c) ∧ traps (.callr c) ∧
    traps (.gate p) ∧ traps .eret)

/-! ## Taking a trap and returning from it -/

/-- A precise trap with FATAL clear and handlers enabled enters the handler: the restart registers and ECAUSE are written, the code capability is held
aside, issue continues at HVEC.ADDR in the next beat, and nothing else of the context changes (02 R61, R62, 18 R411, R412). -/
def Obligations.PreciseTrapEntersHandler : Prop :=
  ∀ (s : State) (code info : Nat), freeMode s → (myCtx s).trap.handler = false →
    code ∉ [0x1A, 0x1B, 0x2D, 0x2E, 0x2F] → bitOf (rink (myRink s) s).recov.hvec.toNat 0 = true →
    let x := myCtx s
    let t := takeTrap false code info false s
    let y := myCtx t
    let hvec := (rink (myRink s) s).recov.hvec.toNat
    let addr := field hvec 47 2 * 4
    y.trap.epc = x.pc ∧ y.trap.enpc = (if x.slots = 0 then x.pc + 4 else x.npc) ∧ y.trap.eds = x.slots ∧
      y.trap.ecause = BitVec.ofNat 64 (info % 65536 * 2 ^ 32 + ctxHead s.cur.ctx * 2 ^ 24 + code % 65536) ∧
      y.trap.handler = true ∧ y.trap.heldCode = x.code ∧
      y.code = Cap.grant 0 0x011 addr (rink (myRink s) s).recov.hlim.toNat ∧ y.pc = BitVec.ofNat 64 addr ∧ y.slots = 0 ∧
      y.ctl.next = (mySite s).now + 1 ∧ y.ctl.running = x.ctl.running ∧ y.ctl.timetabled = false ∧
      y.s = x.s ∧ y.sValid = x.sValid ∧ y.a = x.a ∧ y.aValid = x.aValid ∧ y.fstat = x.fstat ∧ y.fctl = x.fctl ∧ y.srkey = x.srkey ∧
      y.trap.rscnt = x.trap.rscnt ∧ y.trap.rse = x.trap.rse ∧ y.buf = x.buf ∧ y.staged = x.staged

/-- A trap of a timetabled context that is not fatal is recorded: the restart registers and ECAUSE with RECORDED set are written, the context keeps its
registers and stands at the word, and the core's streams of the rink freeze. A timetabled context is one of a unit of a running launch. Its first trap freezes
the launch: the freeze pulse reaches every other unit after the latency between the cores, and RFRZ shows the launch's slip kind, or 255, and the trapping
core, where no other launch of the rink is frozen (09 R251, 18 R411, R413, R414). -/
def Obligations.TimetabledTrapIsRecorded : Prop :=
  ∀ (s : State) (code info : Nat) (l : Launch) (u : UnitRun),
    (myCtx s).ctl.timetabled = true → (code = 0x03 ∧ info / 4096 ≤ 4 ∨ code = 0x1C ∨ code = 0x29) →
    unitAt (myRink s) s.cur.site s = some (l, u) →
    let x := myCtx s
    let t := takeTrap false code info false s
    let y := myCtx t
    let r := myRink s
    let logical (k : Nat) : Nat := (logicalOfSite r k s).getD 0
    let kind := if code = 3 then info / 4096 else 255
    y.trap.epc = x.pc ∧ y.trap.enpc = (if x.slots = 0 then x.pc + 4 else x.npc) ∧ y.trap.eds = x.slots ∧
      y.trap.ecause = BitVec.ofNat 64 (info % 65536 * 2 ^ 32 + 2 ^ 30 + ctxHead s.cur.ctx * 2 ^ 24 + code % 65536) ∧
      y.pc = x.pc ∧ y.npc = x.npc ∧ y.slots = x.slots ∧ y.code = x.code ∧ y.trap.handler = x.trap.handler ∧
      y.s = x.s ∧ y.sValid = x.sValid ∧ y.a = x.a ∧ y.aValid = x.aValid ∧ y.fstat = x.fstat ∧
      frozenFor (mySite t) r = true ∧
      (l.froze = none → (∀ v ∈ l.units, v.freezeAt = none ∧ v.later = [] ∧ v.frozenAt = none ∧ v.devs = []) →
        ∃ m ∈ (rink r t).work.launches, m.lctr = l.lctr ∧ m.units.length = l.units.length ∧
          (∀ v ∈ l.units, ∃ w ∈ m.units, w.site = v.site ∧
            w.freezeAt = some (if v.site = s.cur.site then l.time else l.time + latency r (logical s.cur.site) (logical v.site) s) ∧
            (v.site = s.cur.site → w.frozenAt = some l.time ∧ w.devs = [(kind, info % 256)]) ∧ (v.site ≠ s.cur.site → w.frozenAt = none)) ∧
          ((∀ q ∈ (rink r s).work.launches, q.froze = none) → (rink r t).recov.frozen = true ∧ (rink r t).recov.kind = .ofNat 8 kind ∧
            (rink r t).recov.core = .ofNat 9 (logical s.cur.site)))

/-- trap raises a software trap whose restart point is after it; eret leaves the handler and resumes; hcall posts its request and waits for the
hypervisor's return, which gives the results (05 R145 to R147). -/
def Obligations.TrapReturnAndCall : Prop :=
  ∀ (s : State) (n : BitVec 10),
    exec (.trap n) s = .next (takeTrap true 0x1C n.toNat false s) ∧
    (freeMode s → outsideSlots s → (myCtx s).trap.handler = true →
      ∃ t, exec .eret s = .next t ∧ (myCtx t).pc = (myCtx s).trap.epc ∧ (myCtx t).npc = (myCtx s).trap.enpc ∧
        (myCtx t).slots = (myCtx s).trap.eds ∧ (myCtx t).code = (myCtx s).trap.heldCode ∧ (myCtx t).trap.handler = false ∧
        (myCtx t).s = (myCtx s).s ∧ (myCtx t).a = (myCtx s).a ∧ (myCtx t).ctl.next = (mySite s).now + 1) ∧
    (freeMode s →
      ∃ t, exec (.hcall n) s = .next t ∧
        t.sent = s.sent ++ [.hcall (myCtx s).ctxid (myCtx s).vfid n.toNat ((List.range 8).map fun i => (myCtx s).s.get 0 (i + 1))] ∧
        (myCtx t).trap.hcallWait = true ∧
        (myCtx t).trap.ecause = BitVec.ofNat 64 (n.toNat * 2 ^ 32 + ctxHead s.cur.ctx * 2 ^ 24 + 0x1E) ∧
        (outsideSlots s → (myCtx t).pc = (myCtx s).pc + 4 ∧ (myCtx t).trap.epc = (myCtx s).pc + 4) ∧
        (myCtx t).s = (myCtx s).s ∧ (myCtx t).trap.handler = (myCtx s).trap.handler) ∧
    ∀ (k : Nat) (x : Bool) (regs : List Word),
      let y := ctxOf (site k s) x
      (y.trap.hcallWait = false → exec (.hypervisorReturn k x regs) s = .next s) ∧
      (y.trap.hcallWait = true → ∃ t, exec (.hypervisorReturn k x regs) s = .next t ∧ (ctxOf (site k t) x).trap.hcallWait = false ∧
        (∀ i < 8, i < regs.length → (ctxOf (site k t) x).s.get 0 (i + 1) = nth 0 regs i) ∧ (ctxOf (site k t) x).pc = y.pc ∧
        (ctxOf (site k t) x).trap.handler = y.trap.handler ∧ t.mem = s.mem)

/-! ## Loads, stores and atomics -/

/-- In free mode a load that passes its checks enters the load buffer at issue, and its register is pending (04 R111, R113, R114). -/
def Obligations.LoadsEnterBuffer : Prop :=
  ∀ (s s' : State) (d : BitVec 5) (e cap : BitVec 4) (off : BitVec 14) (t : Target),
    freeMode s → readableA s cap → (myCtx s).buf.loads.length < 8 →
    let x := myCtx s
    let c := getA x cap
    let enters (i : Instr) (n : Nat) (kind : LoadKind) (dst : Nat) (pending : Ctx → Prop) : Prop :=
      let va := memAddr c off n
      accessAllowed s c va n true false → resolve (myRink s) c.space va n true false s = (.ok t, s') →
      ∃ u a, exec i s = .next u ∧ (myCtx u).buf.loads = x.buf.loads ++ [a] ∧ entersAs s a c va n t kind ∧ a.dst = dst ∧
        (myCtx u).buf.stores = x.buf.stores ∧ pending (myCtx u) ∧ (myCtx u).s = x.s ∧ (myCtx u).a = x.a ∧
        (outsideSlots s → (myCtx u).pc = x.pc + 4) ∧ MemoryKept s u
    let scalar (y : Ctx) : Prop := d ≠ 0 → y.sElastic.getLsbD d.toNat = true
    (settledS s d → enters (.ldS8 d cap off) 1 .signed d.toNat scalar ∧ enters (.ldZ8 d cap off) 1 .unsigned d.toNat scalar ∧
      enters (.ldS16 d cap off) 2 .signed d.toNat scalar ∧ enters (.ldZ16 d cap off) 2 .unsigned d.toNat scalar ∧
      enters (.ldS32 d cap off) 4 .signed d.toNat scalar ∧ enters (.ldZ32 d cap off) 4 .unsigned d.toNat scalar ∧
      enters (.ldD d cap off) 8 .unsigned d.toNat scalar) ∧
    (settledA s e → enters (.ldC e cap off) 16 .capability e.toNat fun y => y.aElastic.getLsbD e.toNat = true)

/-- In free mode a store that passes its checks enters the store buffer at issue; every byte of memory reads as before until it is performed (04 R111,
R113, R114). -/
def Obligations.StoresEnterBuffer : Prop :=
  ∀ (s s' : State) (d : BitVec 5) (e cap : BitVec 4) (off : BitVec 14) (t : Target),
    freeMode s → readableA s cap → (myCtx s).buf.stores.length < 16 →
    let x := myCtx s
    let c := getA x cap
    let enters (i : Instr) (n : Nat) (kind : LoadKind) (data : List Byte) (tag : Bool) : Prop :=
      let va := memAddr c off n
      accessAllowed s c va n false true → resolve (myRink s) c.space va n false true s = (.ok t, s') →
      ∃ u a, exec i s = .next u ∧ (myCtx u).buf.stores = x.buf.stores ++ [a] ∧ entersAs s a c va n t kind ∧ a.data = data ∧ a.tag = tag ∧
        (myCtx u).buf.loads = x.buf.loads ∧ (myCtx u).s = x.s ∧ (myCtx u).a = x.a ∧ (myCtx u).sElastic = x.sElastic ∧
        (myCtx u).aElastic = x.aElastic ∧ (outsideSlots s → (myCtx u).pc = x.pc + 4) ∧ MemoryKept s u
    let v := (getS x d).toNat
    let k := getA x e
    (readableS s d → enters (.stB d cap off) 1 .unsigned (leBytes 1 v) false ∧ enters (.stH d cap off) 2 .unsigned (leBytes 2 v) false ∧
      enters (.stW d cap off) 4 .unsigned (leBytes 4 v) false ∧ enters (.stD d cap off) 8 .unsigned (leBytes 8 v) false) ∧
    (readableA s e → (k.tag = true → c.hasSTC = true) → enters (.stC e cap off) 16 .capability (leBytes 16 k.bits.toNat) k.tag)

/-- In timetabled mode a load or store of the core's own TM issued at beat b is performed at b + 2, a load's result is there at b + 4, and a request for a
bank that is taken then is a deviation at the word (04 R95, R115, 09 R249). -/
def Obligations.TimetabledTmAccesses : Prop :=
  ∀ (s : State) (d : BitVec 5) (cap : BitVec 4) (off : BitVec 14) (a : Nat),
    (myCtx s).ctl.timetabled = true → readableA s cap →
    let x := myCtx s
    let c := getA x cap
    let now := (mySite s).now
    let issues (i : Instr) (n : Nat) (ld : Bool) (act : Act) (slot : Ctx → Prop) : Prop :=
      accessAllowed s c (memAddr c off n) n ld (!ld) →
      resolve (myRink s) c.space (memAddr c off n) n ld (!ld) s = (.ok (.tm s.cur.site a), s) →
      (conflict (mySite s) (ctxHead s.cur.ctx) (now + 2) (actSpans act) = none →
        ∃ u, exec i s = .next u ∧ (mySite u).pipe = (mySite s).pipe ++ [⟨now + 2, now, ctxHead s.cur.ctx, none, myRink s, false, act⟩] ∧
          slot (myCtx u) ∧ (myCtx u).s = x.s ∧ (myCtx u).buf = x.buf ∧ (outsideSlots s → (myCtx u).pc = x.pc + 4) ∧ MemoryKept s u) ∧
      (∀ kind info, conflict (mySite s) (ctxHead s.cur.ctx) (now + 2) (actSpans act) = some (kind, info) →
        exec i s = .next (ccStop (.stall kind info 0 none) s))
    let load (i : Instr) (n : Nat) (kind : LoadKind) : Prop :=
      settledS s d → issues i n true (.ccLoad s.cur.site s.cur.ctx a n kind false d.toNat) fun y => d ≠ 0 → y.sReady.get 0 d.toNat = now + 4
    let store (i : Instr) (n : Nat) : Prop :=
      readableS s d → issues i n false (.tmStore a (leBytes n (getS x d).toNat) none) fun y => y.sReady = x.sReady
    load (.ldS8 d cap off) 1 .signed ∧ load (.ldZ8 d cap off) 1 .unsigned ∧ load (.ldS16 d cap off) 2 .signed ∧
    load (.ldZ16 d cap off) 2 .unsigned ∧ load (.ldS32 d cap off) 4 .signed ∧ load (.ldZ32 d cap off) 4 .unsigned ∧
    load (.ldD d cap off) 8 .unsigned ∧
    store (.stB d cap off) 1 ∧ store (.stH d cap off) 2 ∧ store (.stW d cap off) 4 ∧ store (.stD d cap off) 8

/-- The checks of a load or store and the trap of the first that fails: tag, space in timetabled mode, permission, bounds, alignment (04 R111, R112). -/
def Obligations.AccessChecksInOrder : Prop :=
  ∀ (s : State) (d : BitVec 5) (cap : BitVec 4) (off : BitVec 14), readableA s cap → readableS s d →
    let c := getA (myCtx s) cap
    let timed := (myCtx s).ctl.timetabled = true
    let traps (i : Instr) (code : Nat) : Prop := exec i s = .next (takeTrap false code 0 false s)
    ∀ p ∈ [(Instr.ldS8 d cap off, 1, true), (.ldZ8 d cap off, 1, true), (.ldS16 d cap off, 2, true), (.ldZ16 d cap off, 2, true),
        (.ldS32 d cap off, 4, true), (.ldZ32 d cap off, 4, true), (.ldD d cap off, 8, true), (.stB d cap off, 1, false),
        (.stH d cap off, 2, false), (.stW d cap off, 4, false), (.stD d cap off, 8, false)],
      let n := p.2.1
      let va := memAddr c off n
      let spaceOk := ¬(timed ∧ c.space ≠ 2 ∧ c.space ≠ 3)
      let permitted := (if p.2.2 then c.hasLD else c.hasST) = true ∧ (c.space = 6 → c.hasSYS = true ∧ n = 8)
      (c.tag = false → traps p.1 0x04) ∧
      (c.tag = true → ¬spaceOk → traps p.1 0x0E) ∧
      (c.tag = true → spaceOk → ¬permitted → traps p.1 0x06) ∧
      (c.tag = true → spaceOk → permitted → c.inBounds va n = false → traps p.1 0x05) ∧
      (c.tag = true → spaceOk → permitted → c.inBounds va n = true → va % n ≠ 0 → traps p.1 0x07)

/-- A buffered off-chip store is performed by writing its bytes and no other; a load by its register taking the bytes, extended as its word says (04 R111,
R114). The first use of a frame under a key slot finds the whole frame zero; that the first use after a grant stands for the grant is the model's choice
(14 R353; notes/assumptions/40.md). A buffered TM store is performed by writing its bytes and no other byte of a valid group; a load takes each byte from the youngest
older store of the same bytes, else from TM (04 R114). -/
def Obligations.BufferedAccessesPerformed : Prop :=
  (∀ (s : State) (k : Nat) (x : Side) (a : Access) (ma ia : Nat) (key : Option Nat),
    a.target = .machine ma ia key →
    (offStore k x s = some a → ordinaryGranule s key ma ia a.data.length →
      ∃ t, exec (.offChipAccessPerformed k x false) s = .next t ∧
        (∀ b, t.mem.read b = if ma ≤ b ∧ b < ma + a.data.length then nth 0 a.data (b - ma) else s.mem.read b) ∧
        (ctxOf (site k t) x).buf.stores = (ctxOf (site k s) x).buf.stores.drop 1 ∧ t.host = s.host) ∧
    (offLoad k x s = some a → ordinaryGranule s key ma ia a.len → bitOf ia 47 = false → olderStores (ctxOf (site k s) x).buf a = [] → 0 < a.len → 0 < a.dst → a.dst < 32 →
      ∃ t, exec (.offChipAccessPerformed k x true) s = .next t ∧
        (ctxOf (site k t) x).buf.loads = (ctxOf (site k s) x).buf.loads.drop 1 ∧
        (a.kind = .unsigned → (ctxOf (site k t) x).s.get 0 a.dst = BitVec.ofNat 64 (leNat (s.mem.readBytes ma a.len))) ∧
        (a.kind = .signed → (ctxOf (site k t) x).s.get 0 a.dst = BitVec.ofInt 64 (sext (8 * a.len) (leNat (s.mem.readBytes ma a.len)))) ∧
        ∀ b, t.mem.read b = s.mem.read b) ∧
    (∀ q, key = some q → offLoad k x s = some a → sealPasses s key ma ia = true → memErrors 2 ma s = [] → granted s q ma ia = true →
      bitOf ia 47 = false → olderStores (ctxOf (site k s) x).buf a = [] → 0 < a.len → ma % 65536 + a.len ≤ 65536 → 0 < a.dst → a.dst < 32 →
      a.kind ≠ .capability →
      ∃ t, exec (.offChipAccessPerformed k x true) s = .next t ∧ (ctxOf (site k t) x).s.get 0 a.dst = 0 ∧
        ∀ b, t.mem.read b = if b / 65536 = ma / 65536 then 0 else s.mem.read b)) ∧
  (∀ (s : State) (k j : Nat) (x : Side) (a : Access) (addr : Nat), a.target = .tm j addr → 0 < a.len →
    spanFree (site j s) addr a.len true = true →
    (mayStore (site k s).now (ctxOf (site k s) x).buf = some a → a.data.length = a.len →
      let t := performTmStore k x s
      (∀ b, (groupOf (site j s) (b / 4096)).valid = true →
        (site j t).tm.bytes.read b = if addr ≤ b ∧ b < addr + a.len then nth 0 a.data (b - addr) else (site j s).tm.bytes.read b) ∧
      (ctxOf (site k t) x).buf.stores = (ctxOf (site k s) x).buf.stores.drop 1) ∧
    (mayLoad (site k s).now (ctxOf (site k s) x).buf = some a → (∀ g ∈ spanGroups (addr, a.len, false), (groupOf (site j s) g).valid = true) →
      spoiled (site j s).tm addr a.len = none →
      a.kind = .unsigned → 0 < a.dst → a.dst < 32 →
      let t := performTmLoad k x s
      (ctxOf (site k t) x).s.get 0 a.dst =
        BitVec.ofNat 64 (leNat ((List.range a.len).map fun i =>
          (forwarded (ctxOf (site k s) x).buf a i).getD ((site j s).tm.bytes.read (addr + i)))) ∧
      (ctxOf (site k t) x).buf.loads = (ctxOf (site k s) x).buf.loads.drop 1))

/-- An atomic that passes its checks joins the queue of its location's unit once every older access is performed, and its register is pending; in
timetabled mode it is an elastic-access fault (04 R112, R118 to R120). The atomic unit serves one request, read and write together: the register takes
the old value, unless its context no longer waits for it, and the location the new one; a request for a location that a plain write of this cycle has written waits (04 R118 to R120, 11 R294, R295).
-/
def Obligations.AtomicOperations : Prop :=
  (∀ (s s' : State) (dbl : Bool) (d b e : BitVec 5) (a : BitVec 4) (ma ia : Nat) (key : Option Nat),
    readableA s a → readableS s b → readableS s e → settledS s d →
    let x := myCtx s
    let c := getA x a
    let n := if dbl then 8 else 4
    let bank := Config.bankOf (ma / 256)
    let queue := (s'.atomics.get AtomBank.reset bank).q
    ∀ p ∈ [(Instr.amoadd dbl d a b, AtomicOp.add, (0 : Word)), (.amoand dbl d a b, .and, 0), (.amoor dbl d a b, .or, 0),
        (.amoxor dbl d a b, .xor, 0), (.amoswap dbl d a b, .swap, 0), (.amomin dbl d a b, .min, 0), (.amomax dbl d a b, .max, 0),
        (.amominn dbl d a b, .minn, 0), (.amomaxn dbl d a b, .maxn, 0), (.cas dbl d a b e, .cas, getS x e)],
      (c.tag = true → x.ctl.timetabled = true → exec p.1 s = .next (takeTrap false 0x0E 0 false s)) ∧
      (c.tag = true → freeMode s → c.space = 0 ∨ c.space = 1 ∨ c.space = 4 → c.hasLD = true → c.hasST = true →
        c.inBounds c.cursor n = true → c.cursor % n = 0 →
        resolve (myRink s) c.space c.cursor n true true s = (.ok (.machine ma ia key), s') → drained x.buf = true → queue.length < 64 →
        ∃ u r, exec p.1 s = .next u ∧ (u.atomics.get AtomBank.reset bank).q = queue ++ [r] ∧
          r.op = p.2.1 ∧ r.dbl = dbl ∧ r.ma = ma ∧ r.ia = ia ∧ r.key = key ∧ r.operand = getS x b ∧ r.expected = p.2.2 ∧ r.dst = d.toNat ∧
          r.site = s.cur.site ∧ r.ctx = s.cur.ctx ∧ (myCtx u).buf.atomicOut = true ∧ (d ≠ 0 → (myCtx u).sElastic.getLsbD d.toNat = true) ∧
          (myCtx u).s = x.s ∧ (outsideSlots s → (myCtx u).pc = x.pc + 4) ∧ MemoryKept s u)) ∧
  (∀ (s : State) (bank : Nat) (r : AtomReq), pickAtomic (s.atomics.get AtomBank.reset bank) = some r →
    let n := if r.dbl then 8 else 4
    r.requester < 1024 → ordinaryGranule s r.key r.ma r.ia n → atomWaits r s = false → 0 < r.dst → r.dst < 32 →
    let m := leNat (s.mem.readBytes r.ma n)
    let v := r.operand.toNat % 2 ^ (8 * n)
    let signed (z : Nat) : Int := if z < 2 ^ (8 * n - 1) then z else z - 2 ^ (8 * n)
    let new : Nat := match r.op with
      | .add => (m + v) % 2 ^ (8 * n)
      | .and => m &&& v
      | .or => m ||| v
      | .xor => m ^^^ v
      | .swap => v
      | .min => if signed m ≤ signed v then m else v
      | .max => if signed v ≤ signed m then m else v
      | .minn => if m ≤ v then m else v
      | .maxn => if v ≤ m then m else v
      | .cas => if m = r.expected.toNat % 2 ^ (8 * n) then v else m
    ∃ t, exec (.atomicUnitServe bank) s = .next t ∧ leNat (t.mem.readBytes r.ma n) = new ∧
      (∀ b, b < r.ma ∨ r.ma + n ≤ b → t.mem.read b = s.mem.read b) ∧
      (r.wanted = true → (ctxOf (site r.site t) r.ctx).s.get 0 r.dst = (if r.dbl then BitVec.ofNat 64 m else BitVec.ofInt 64 (signed m)) ∧
        (ctxOf (site r.site t) r.ctx).buf.atomicOut = false) ∧
      (r.wanted = false → ctxOf (site r.site t) r.ctx = ctxOf (site r.site s) r.ctx)) ∧
  (∀ (s : State) (bank : Nat) (r : AtomReq), pickAtomic (s.atomics.get AtomBank.reset bank) = some r → atomWaits r s = true →
    exec (.atomicUnitServe bank) s = .next s)

/-! ## Capability words -/

/-- The capability group: the derived capabilities, each tagged only where the derivation keeps the bounds and the tag rule (02 R44 to R46, 04 R121 to
R123). -/
def Obligations.CapabilityWordResults : Prop :=
  ∀ (s : State) (d a b : BitVec 4) (r v : BitVec 5) (sel : BitVec 5), readableA s a → readableA s b → settledA s d → settledS s r → readableS s v →
    let x := myCtx s
    let c := getA x a
    let y := (getS x v).toNat
    let now := (mySite s).now
    let gives (i : Instr) (k : Cap) : Prop := exec i s = .next (wordDone (putA now 1 d k) s)
    let writes (i : Instr) (w : Word) : Prop := exec i s = .next (wordDone (putS now 1 r w) s)
    let moved (i : Instr) (cur : Nat) : Prop :=
      let bk : Int := (c.back : Int) + (cur / 2 ^ c.gran : Nat) - (c.cursor / 2 ^ c.gran : Nat)
      ∃ k : Cap, gives i k ∧ k.cursor = cur ∧ k.back = (bk % 2 ^ 15).toNat ∧ k.gran = c.gran ∧ k.extent = c.extent ∧ k.perms = c.perms ∧
        k.space = c.space ∧ (k.tag = true ↔ c.tag = true ∧ 0 ≤ bk ∧ bk ≤ 32767 ∧ Cap.bitsOk k.bits = true)
    gives (.kmov d a) c ∧ gives (.kdrop d a) ⟨c.bits, false⟩ ∧
    moved (.kstep d a v) ((c.cursor + y) % 2 ^ 64) ∧ moved (.kseek d a v) y ∧
    (∃ k : Cap, gives (.kmask d a v) k ∧ k.perms = c.perms &&& y % 4096 ∧ k.cursor = c.cursor ∧ k.bounds = c.bounds ∧ k.space = c.space ∧
      (k.tag = true ↔ c.tag = true ∧ Cap.bitsOk k.bits = true)) ∧
    (let top := c.cursor + y
     let lo (g : Nat) : Nat := c.cursor / 2 ^ g
     let hi (g : Nat) : Nat := (top + 2 ^ g - 1) / 2 ^ g
     ∃ k : Cap, gives (.kclip d a v) k ∧ k.cursor = c.cursor ∧ k.perms = c.perms ∧ k.space = c.space ∧
      ((∀ g ≤ 49, 32767 < hi g - lo g) → k.tag = false) ∧
      ∀ g ≤ 49, hi g - lo g ≤ 32767 → (∀ h < g, 32767 < hi h - lo h) →
        k.bounds = (((lo g * 2 ^ g : Nat) : Int), ((hi g * 2 ^ g : Nat) : Int)) ∧
        (k.tag = true ↔ c.tag = true ∧ c.bounds.1 ≤ k.bounds.1 ∧ k.bounds.2 ≤ c.bounds.2 ∧ k.bounds.2 ≤ 2 ^ 64 ∧ Cap.bitsOk k.bits = true)) ∧
    (∃ w : Word, writes (.kcover r a b) w ∧ (w = 0 ∨ w = 1) ∧ (w = 1 ↔ (getA x b).tag = true ∧ (getA x b).space = c.space ∧
      c.bounds.1 ≤ (getA x b).bounds.1 ∧ (getA x b).bounds.2 ≤ c.bounds.2 ∧
      ∀ i < 12, (getA x b).perms.testBit i = true → c.perms.testBit i = true)) ∧
    (sel.toNat < 8 → writes (.kfld r a sel) (match sel.toNat with
      | 0 => BitVec.ofInt 64 c.bounds.1
      | 1 => BitVec.ofInt 64 (c.bounds.2 - c.bounds.1)
      | 2 => BitVec.ofNat 64 c.cursor
      | 3 => BitVec.ofNat 64 c.perms
      | 4 => BitVec.ofNat 64 c.space
      | 5 => if c.tag then 1 else 0
      | 6 => BitVec.ofInt 64 c.bounds.2
      | _ => BitVec.ofNat 64 c.gran))

/-! ## Ordering, flags and the second context -/

/-- mark opens an epoch in one beat; fence does too in timetabled mode, and in free mode once every older access is performed and no host write is
outstanding; before that it holds its context at the word, and at system scope it sends a zero-length read to each function whose host space was written
(04 R116, R117, 11 R283). waitf, sigf and tstf on a flag of the rink: each kind of flag is sampled as
the beat began, a wait or a test clears or pops, and what cannot proceed waits in free mode; so does a set or push behind stores or an atomic that are not performed (02 R54 to
R57, 05 R125, 11 R286). At the end of a beat a set flag
is full or set and a pushed FIFO holds one token more, to 8; a cleared flag reads empty and a popped FIFO one token less; no other flag differs (02
R54 to R56). -/
def Obligations.OrderingAndFlagWords : Prop :=
  (∀ (s : State) (scope : BitVec 3),
    let x := myCtx s
    let done := wordDone (fun y => { y with buf := { y.buf with epoch := y.buf.epoch + 1 } }) s
    exec .mark s = .next done ∧
    (x.ctl.timetabled = true → exec (.fence scope) s = .next done) ∧
    (freeMode s → drained x.buf = true → x.buf.hostReads = 0 → (scope = 4 → x.buf.hostDirty = []) → exec (.fence scope) s = .next done) ∧
    (freeMode s → drained x.buf = false ∨ x.buf.hostReads ≠ 0 → ∃ t, exec (.fence scope) s = .next t ∧ (myCtx t).pc = x.pc ∧ (myCtx t).buf = x.buf ∧
      (myCtx t).ctl.next = (mySite s).now + 1 ∧ (myCtx t).s = x.s ∧ MemoryKept s t) ∧
    (freeMode s → drained x.buf = true → x.buf.hostReads = 0 → scope = 4 → x.buf.hostDirty ≠ [] → ∃ t, exec (.fence scope) s = .next t ∧
      (myCtx t).pc = x.pc ∧ (myCtx t).buf = { x.buf with hostReads := x.buf.hostDirty.length, hostDirty := [] } ∧
      t.sent = s.sent ++ x.buf.hostDirty.map .zeroRead ∧ (myCtx t).ctl.next = (mySite s).now + 1 ∧ (myCtx t).s = x.s ∧ MemoryKept s t)) ∧
  (∀ (s : State) (d : BitVec 5) (f : BitVec 6), ownsFlag (mySite s) (myRink s) f.toNat = true →
    let c := mySite s
    let n := f.toNat
    let token : Prop := 16 ≤ n ∧ n < 32
    let ready : Prop := if n < 16 then c.flags.fullBefore.getLsbD n = true else if n < 32 then 0 < c.flags.tokens.get 0 (n - 16)
      else c.flags.eventsBefore.getLsbD (n - 32) = true
    let sampled : Prop := if n < 16 then c.flags.fullBefore.getLsbD n = true else if n < 32 then 0 < c.flags.tokensBefore.get 0 (n - 16)
      else c.flags.eventsBefore.getLsbD (n - 32) = true
    let cleared := wordAfter c.now (modMySite (clearFlag n) s)
    let full : Prop := 16 ≤ n ∧ n < 32 ∧ (8 ≤ c.flags.tokens.get 0 (n - 16) + c.flags.sets.count n ∨ c.flags.blocked.contains n = true)
    let released : Prop := (myCtx s).buf.stores = [] ∧ (myCtx s).buf.atomicOut = false
    let wait (i : Instr) : Prop := freeMode s → ∃ t, exec i s = .next t ∧ (myCtx t).pc = (myCtx s).pc ∧ (myCtx t).s = (myCtx s).s ∧
      (mySite t).flags = c.flags ∧ (myCtx t).ctl.next = c.now + 1
    (ready → ¬token → exec (.waitf f false) s = .next (wordDone id s)) ∧
    (ready → token → exec (.waitf f false) s = .next cleared) ∧ (ready → ¬token → exec (.waitf f true) s = .next cleared) ∧
    (¬ready → wait (.waitf f false) ∧ (¬token → wait (.waitf f true))) ∧
    ((token → ready) → exec (.sigf f false) s = .next cleared) ∧ (token → ¬ready → wait (.sigf f false)) ∧
    (16 ≤ n → (freeMode s → released) → ¬full → exec (.sigf f true) s = .next (wordAfter c.now (modMySite (setFlag n) s))) ∧
    (16 ≤ n → ¬released ∨ full → wait (.sigf f true)) ∧
    (settledS s d →
      (sampled → exec (.tstf d f false) s = .next (wordDone (putS c.now 1 d 1) s)) ∧
      (¬sampled → exec (.tstf d f false) s = .next (wordDone (putS c.now 1 d 0) s)) ∧
      (¬sampled → ¬token → exec (.tstf d f true) s = .next (wordDone (putS c.now 1 d 0) s)) ∧
      (sampled → ¬token → exec (.tstf d f true) s = .next (wordAfter c.now (modMySite (clearFlag n) (modMyCtx (putS c.now 1 d 1) s)))))) ∧
  (∀ (c : Site) (n : Nat), n < 64 → c.flags.sets = [] →
    let value (b : Flags) (m : Nat) : Nat :=
      if m < 16 then b2n (b.full.getLsbD m) else if m < 32 then b.tokens.get 0 (m - 16) else b2n (b.events.getLsbD (m - 32))
    let old := value c.flags
    let pushed := value (settleFlags (setFlag n c).flags)
    let popped := value (settleFlags (clearFlag n c).flags)
    pushed n = (if 16 ≤ n ∧ n < 32 then min 8 (old n + 1) else 1) ∧ popped n = (if 16 ≤ n ∧ n < 32 then old n - 1 else 0) ∧
    ∀ m < 64, m ≠ n → pushed m = old m ∧ popped m = old m)

/-- idle holds its context for 1 + s[a] + n beats and does nothing else; fork starts the halted other context with copies of the registers; rendez lets both
contexts go on when they meet, or one that has nobody to meet (05 R126 to R128). -/
def Obligations.IdleForkRendez : Prop :=
  ∀ (s : State) (a : BitVec 5) (n : BitVec 10) (k : BitVec 4),
    let c := mySite s
    let x := myCtx s
    let o := !s.cur.ctx
    let pass (y : Ctx) : Ctx := ccIssue c.now 1 (advancePc { y with rendezBeat := none })
    (readableS s a → exec (.idle a n) s =
      .next (modMyCtx (fun y => ccIssue c.now (1 + (getS x a + n.setWidth 64).toNat) (advancePc y)) s)) ∧
    (freeMode s → owns c (myRink s) (ctxHead o) = true → (ctxOf c o).ctl.running = false → readableA s k → allWritten c.now x = true →
      jumpable (getA x k) →
      ∃ t, exec (.fork k) s = .next t ∧ (outsideSlots s → (myCtx t).pc = x.pc + 4) ∧ (myCtx t).s = x.s ∧
        let y := ctxOf (mySite t) o
        y.s = x.s ∧ y.sValid = x.sValid ∧ y.a = x.a ∧ y.aValid = x.aValid ∧ y.code = getA x k ∧ y.pc = BitVec.ofNat 64 (getA x k).cursor ∧
        y.slots = 0 ∧ y.fctl = x.fctl ∧ y.srkey = x.srkey ∧ y.fstat = 0 ∧ y.trap.rscnt = 0 ∧ y.trap.epc = 0 ∧ y.trap.enpc = 0 ∧
        y.trap.eds = 0 ∧ y.trap.ecause = 0 ∧ y.ctl.running = true ∧ y.ctl.timetabled = false ∧ y.ctl.next = c.now + 2) ∧
    ((ctxOf c o).ctl.running = false ∨ owns c (myRink s) (ctxHead o) = false → exec .rendez s = .next (modMyCtx pass s)) ∧
    ((ctxOf c o).ctl.running = true → owns c (myRink s) (ctxHead o) = true → (ctxOf c o).rendezBeat = some c.now →
      exec .rendez s = .next (modMySite (fun c => modCtx o pass (modCtx s.cur.ctx pass c)) s)) ∧
    ((ctxOf c o).ctl.running = true → owns c (myRink s) (ctxHead o) = true → (ctxOf c o).rendezBeat ≠ some c.now →
      ∃ t, exec .rendez s = .next t ∧ (myCtx t).rendezBeat = some c.now ∧ (myCtx t).pc = x.pc ∧ (myCtx t).ctl.next = c.now + 1 ∧
        ctxOf (mySite t) o = ctxOf c o)

/-! ## Queues, result FIFOs and loop-nest registers -/

/-- pushc stages a capability with EN; pop takes the oldest element of a result FIFO, and waits in free mode for one (05 R129, R133). A push that has room
and passes every check copies the image and the translated bases into its queue, empties the staging entries and takes 2 beats and one for each page
(05 R130, R131). mtx writes a loop-nest register of an owned half whose bank is not armed, and in free mode a write of GO queues the nest; mfx reads
one. A bank that is armed, or a half of another rink, is a fault (05 R134, 07 R201, R202). -/
def Obligations.QueueWords : Prop :=
  ((∀ (s : State) (q a : BitVec 4) (d : BitVec 5), q.toNat ≤ 2 →
    let c := mySite s
    let x := myCtx s
    let cap := getA x a
    let staged := x.staged.get [] q.toNat
    let fifo := if q = 0 then c.q.collFifo else c.q.liftFifo
    (readableA s a → cap.tag = true → cap.hasEN = true → cap.space ≠ 6 → staged.length < 4 →
      exec (.pushc q a) s = .next (wordDone (fun y => { y with staged := y.staged.put q.toNat (staged ++ [⟨cap, []⟩]) }) s)) ∧
    (readableA s a → cap.tag = false → exec (.pushc q a) s = .next (takeTrap false 0x04 0 false s)) ∧
    (readableA s a → cap.tag = true → cap.hasEN = false ∨ cap.space = 6 → exec (.pushc q a) s = .next (takeTrap false 0x06 0 false s)) ∧
    (readableA s a → cap.tag = true → cap.hasEN = true → cap.space ≠ 6 → 4 ≤ staged.length →
      exec (.pushc q a) s = .next (takeTrap false 0x15 0 false s)) ∧
    (∀ e rest, q ≠ 2 → fifo = e :: rest → settledS s d →
      ∃ t, exec (.pop d q) s = .next t ∧ (d ≠ 0 → getS (myCtx t) d = e) ∧ (if q = 0 then (mySite t).q.collFifo else (mySite t).q.liftFifo) = rest ∧
        (outsideSlots s → (myCtx t).pc = x.pc + 4) ∧ ScalarsKept d x (myCtx t) ∧
        (myCtx t).fstat = (if q = 0 ∧ e.getLsbD 55 = true ∧ e.getLsbD 54 = s.cur.ctx then x.fstat ||| BitVec.ofNat 6 (field e.toNat 53 48)
          else x.fstat)) ∧
    (q ≠ 2 → fifo = [] → settledS s d → freeMode s →
      ∃ t, exec (.pop d q) s = .next t ∧ (myCtx t).pc = x.pc ∧ (myCtx t).s = x.s ∧ (myCtx t).ctl.next = c.now + 1)) ∧
  (∀ (s : State) (q : BitVec 4) (d : BitVec 5) (a : BitVec 4) (bs : List Base), q.toNat ≤ 2 → readableA s a → readableS s d →
    let c := mySite s
    let x := myCtx s
    let cap := getA x a
    let n := (getS x d).toNat
    let ws := leHalves (imageBytes x s.cur.site cap.cursor (2 * n) s)
    let lift := decide (q ≠ 2)
    let bases := x.staged.get [] q.toNat
    (queueOf c q.toNat).length < 32 → servesQueue s (myRink s) q.toNat = true →
    cap.tag = true → cap.space = 2 → cap.hasLD = true → cap.inBounds cap.cursor (2 * n) = true → cap.cursor % 2 = 0 → 1 ≤ n → n ≤ 128 →
    tmCheck c (myRink s) cap.cursor (2 * n) true (ownStored x s.cur.site c) 0 = none →
    imageIllegal (if lift then .lift else .coll) ws = none → grammarOk lift ws = true →
    (∀ f ∈ imageFlags lift ws, ownsFlag c (myRink s) f = true) →
    (∀ h ∈ recordHits lift ws bases.length, h = none) → (lift = true → ∀ cp ∈ copiesOf ws, ∀ h ∈ copyHits (decide (q = 1)) bases cp, h = none) →
    translateBases s (myRink s) q.toNat ws bases (pushPins s (myRink s)) bases.length [] = .ok bs →
    ∃ t cmd, exec (.push q d a) s = .next t ∧ queueOf (mySite t) q.toNat = queueOf c q.toNat ++ [cmd] ∧ cmd.words = ws ∧ cmd.bases = bs ∧
      cmd.rink = myRink s ∧ cmd.ctx = s.cur.ctx ∧ cmd.seen = c.now + 4 + (pagesOf bs).length ∧
      (myCtx t).staged.get [] q.toNat = [] ∧ (myCtx t).ctl.next = c.now + 2 + (pagesOf bs).length ∧ (outsideSlots s → (myCtx t).pc = x.pc + 4) ∧
      (myCtx t).s = x.s ∧ (myCtx t).a = x.a)) ∧
  (∀ (s : State) (half bank : Bool) (reg : BitVec 6) (a d : BitVec 5),
    let c := mySite s
    let x := myCtx s
    let regs (c : Site) : Table Word := if bank then (halfOf c half).regsB else (halfOf c half).regsA
    let mine := owns c (myRink s) (halfHead half) = true
    (readableS s a → ¬mine → exec (.mtx half bank reg a) s = .next (takeTrap false 0x12 (halfHead half) false s)) ∧
    (readableS s a → mine → armed c half bank = true → exec (.mtx half bank reg a) s = .next (takeTrap false 0x13 0 false s)) ∧
    (readableS s a → mine → armed c half bank = false → reg ≠ 7 →
      ∃ t, exec (.mtx half bank reg a) s = .next t ∧ (regs (mySite t)).get 0 reg.toNat = getS x a &&& BitVec.ofNat 64 (nestMask reg.toNat) ∧
        (∀ g, g ≠ reg.toNat → (regs (mySite t)).get 0 g = (regs c).get 0 g) ∧ halfOf (mySite t) (!half) = halfOf c (!half) ∧
        (outsideSlots s → (myCtx t).pc = x.pc + 4) ∧ (myCtx t).s = x.s) ∧
    (readableS s a → mine → armed c half bank = false → reg = 7 → freeMode s →
      firstHit (mgoHits c (myRink s) half bank ((getS x a).getLsbD 3) 0) = none →
      exec (.mtx half bank reg a) s = .next (wordAfter c.now (modMySite (addNest half (goNest c half bank (getS x a) s.cur.ctx)) s))) ∧
    (settledS s d → mine → exec (.mfx d half bank reg) s = .next (wordDone (putS c.now 1 d ((regs c).get 0 reg.toNat)) s)) ∧
    (¬mine → exec (.mfx d half bank reg) s = .next (takeTrap false 0x12 (halfHead half) false s)))

/-! ## Regions -/

/-- ralloc takes the lowest run of allocatable row groups of the rink's share, which start invalid, or writes an error code; that 256 regions give code 3 also where
no run fits is the model's choice (05 R135, 10 R445; notes/assumptions/41.md). rfree
frees the region that starts at s[a] once nothing uses it, and is a region fault where none of the rink starts there, whose reason above tile memory is 5;
rwax refreshes the groups of a
run, the i-th at b + 2 + 8i (05 R136, R137). -/
def Obligations.RegionWords : Prop :=
  (∀ (s : State) (d a : BitVec 5) (cls policy : BitVec 2) (persistent compressed : Bool), freeMode s → readableS s a → settledS s d →
    let c := mySite s
    let size := (getS (myCtx s) a).toNat
    let n := size / 4096
    let good : Prop := size ≠ 0 ∧ size ≤ 0xC00000 ∧ size % 4096 = 0
    let fits (g : Nat) : Prop := (shareOf c (myRink s)).1 ≤ g ∧ g + n ≤ (shareOf c (myRink s)).2 ∧ ∀ i < n, groupFree c.tm (g + i) = true
    let answers (w : Nat) : Prop :=
      exec (.ralloc d a cls policy persistent compressed) s = .next (wordDone (putS c.now 1 d (BitVec.ofNat 64 w)) s)
    (¬good → answers 0x8000000000000001) ∧
    (good → 256 ≤ c.tm.regions.length → answers 0x8000000000000003) ∧
    (good → c.tm.regions.length < 256 → (∀ g, ¬fits g) → answers 0x8000000000000002) ∧
    (∀ g, good → c.tm.regions.length < 256 → fits g → (∀ h < g, ¬fits h) →
      ∃ t r, exec (.ralloc d a cls policy persistent compressed) s = .next t ∧ r ∈ (mySite t).tm.regions ∧ r.rink = myRink s ∧
        r.base = 4096 * g ∧ r.size = size ∧ r.cls = cls.toNat ∧ r.persistent = persistent ∧ r.compressed = compressed ∧
        (∀ q ∈ c.tm.regions, q ∈ (mySite t).tm.regions) ∧ (mySite t).tm.regions.length = c.tm.regions.length + 1 ∧
        (∀ i < n, (groupOf (mySite t) (g + i)).valid = false ∧ (groupOf (mySite t) (g + i)).age = 0) ∧
        (d ≠ 0 → getS (myCtx t) d = BitVec.ofNat 64 (4096 * g)) ∧ ScalarsKept d (myCtx s) (myCtx t) ∧
        (outsideSlots s → (myCtx t).pc = (myCtx s).pc + 4))) ∧
  (∀ (s : State) (a : BitVec 5) (n : BitVec 10), readableS s a →
    let c := mySite s
    let base := (getS (myCtx s) a).toNat
    let own := c.tm.regions.find? fun q => q.rink == myRink s && q.base == base
    (freeMode s → own = none → exec (.rfree a) s = .next (ccStop (.tmTrap 0x17 0 (if base < 0xC00000 then 1 else 5) base) s)) ∧
    (∀ g, freeMode s → own = some g → regionInUse s.cur.site g s = false →
      ∃ t, exec (.rfree a) s = .next t ∧ (∀ q ∈ (mySite t).tm.regions, ¬(q.rink = myRink s ∧ q.base = base)) ∧
        (∀ i < g.size / 4096, (groupOf (mySite t) (base / 4096 + i)).valid = false) ∧
        (outsideSlots s → (myCtx t).pc = (myCtx s).pc + 4) ∧ (myCtx t).s = (myCtx s).s) ∧
    (∀ g, freeMode s → own = some g → regionInUse s.cur.site g s = true →
      ∃ t, exec (.rfree a) s = .next t ∧ (mySite t).tm = c.tm ∧ (myCtx t).pc = (myCtx s).pc ∧ (myCtx t).ctl.next = c.now + 1) ∧
    (waxRegion c (myRink s) base (n.toNat + 1) = false → exec (.rwax a n) s =
      .next (waxStop (.tmTrap 0x17 0 (if 0xC00000 < base + 4096 * (n.toNat + 1) then 5 else 1) base) s)) ∧
    (waxRegion c (myRink s) base (n.toNat + 1) = true → (myCtx s).ctl.timetabled = true →
      (∀ i ≤ n.toNat, conflict c 10 (c.now + 2 + 8 * i) [((base / 4096 + i) * 4096, 0, false)] = none) →
      ∃ t, exec (.rwax a n) s = .next t ∧ (mySite t).tm = c.tm ∧
        (∀ i ≤ n.toNat, ⟨c.now + 2 + 8 * i, c.now, ctxHead s.cur.ctx, none, myRink s, false, Act.refresh (base / 4096 + i)⟩ ∈ (mySite t).pipe) ∧
        (outsideSlots s → (myCtx t).pc = (myCtx s).pc + 4)) ∧
    (waxRegion c (myRink s) base (n.toNat + 1) = true → freeMode s →
      ∃ t, exec (.rwax a n) s = .next t ∧ (mySite t).tm = c.tm ∧ (mySite t).pipe.length = c.pipe.length + n.toNat + 1 ∧
        (outsideSlots s → (myCtx t).pc = (myCtx s).pc + 4)))

/-! ## The words of the Rink Sequencer -/

/-- launch reads its record and writes its status: an accepted launch is in the rink's list and allocates its units, a rejected one allocates nothing and posts
its record, which a queue without room for it drops; a record that names a flag of the other rink is a flag-ownership fault (02 R57, 05 R138, 13 R313, R332, R333).
That a record its capability does not cover has status 0x01, and which status a record gets that fails several checks, are the model's choices
(notes/assumptions/8.md, notes/assumptions/41.md). A record that is malformed, a third open launch, a unit of an absent core and a page list that fails each have
their status (05 R138, 13 R314, R317, 18 R427). lwait waits for a level and then writes its first nonzero status; cancel of a level with nothing to end has no
effect beyond its own charge, and levels 1 and 3 also end the graph program (05 R139, R140). -/
def Obligations.LaunchWords : Prop :=
  (∀ (s s2 : State) (d : BitVec 5) (a : BitVec 4) (b : List Byte) (covers : Bool),
    freeMode s → atSequencer s → readableA s a → settledS s d → drained (myCtx s).buf = true → s.power.st = .run →
    let c := getA (myCtx s) a
    let x := myCtx s2
    let r := myRink s2
    let regs (i : Nat) : Option Cap := if x.aValid.getLsbD i then some (x.a.get Cap.null i) else none
    let w := (rink r s2).work
    c.tag = true → c.space = 0 ∨ c.space = 1 ∨ c.space = 2 → c.hasLD = true →
    (c.inBounds c.cursor 64 = false ∧ covers = false ∧ b = [] ∧ s2 = s ∨
      c.inBounds c.cursor 64 = true ∧ ∃ s1 hd, recordRead (myRink s) c c.cursor 64 s = .ok (hd, s1) ∧
        (c.inBounds c.cursor (recTotal hd) = false ∧ covers = false ∧ b = hd ∧ s2 = s1 ∨
          c.inBounds c.cursor (recTotal hd) = true ∧ covers = true ∧
            ∃ e, recordRead (myRink s) c (c.cursor + 64) (recTotal hd - 64) s1 = .ok (e, s2) ∧ b = hd ++ e)) →
    let n := takeCtr w
    let st := launchStatus r n covers b regs s2
    let room := 256 - w.evq.length - (if w.evDrop = none then 1 else 0)
    (st = 0 → reqsForeign r b s2 = true → exec (.launch d a) s = .next (takeTrap false 0x14 0 false s2)) ∧
    ((st = 0x0A → ∀ h, pinFault r b regs s2 = some h → waits h = false) → (st = 0 → reqsForeign r b s2 = false) →
      ∃ t, exec (.launch d a) s = .next t ∧ (d ≠ 0 → getS (myCtx t) d = BitVec.ofNat 64 st) ∧ (x.slots = 0 → (myCtx t).pc = x.pc + 4) ∧
        (myCtx t).lastLaunch = some n ∧
        (st = 0 → ∃ l, (rink r t).work.launches = w.launches ++ [l] ∧ l.lctr = n ∧ l.bytes = b ∧ l.regsA = x.a ∧ l.pulsed = false ∧
          l.pinned = false ∧ l.units.length = recUnits b ∧ (∀ u ∈ l.units, u.allocated = false) ∧
          ((rink r t).work.lctr.get Ctr.idle n).state = .allocating ∧ (rink r t).work.evq = w.evq) ∧
        (st ≠ 0 → (rink r t).work.launches = w.launches ∧ (rink r t).work.lctr.get Ctr.idle n = ⟨st, .rejected, 0⟩ ∧
          (∀ k, (site k t).tm = (site k s2).tm) ∧
          (2 ≤ room → (rink r t).work.evq = w.evq ++ [BitVec.ofNat 64 (0x01 * 2 ^ 56 + 2 * 2 ^ 52 + st % 65536 * 2 ^ 32 + (w.evNum.toNat + 1) % 2 ^ 32),
            BitVec.ofNat 64 (c.cursor / 4 * 4 + n)]) ∧
          (room < 2 → (rink r t).work.evq.length = w.evq.length + (if w.evDrop = none then 1 else 0))))) ∧
  (∀ (s : State) (r n : Nat) (b : List Byte) (regs : Nat → Option Cap) (covers : Bool),
    let st := launchStatus r n covers b regs s
    let w := (rink r s).work
    let formed : Prop := w.placed = true ∧ covers = true ∧ recordOk b = true
    (w.placed = false → st = 9) ∧
    (w.placed = true → covers = false ∨ recUnits b = 0 ∨ 272 < recUnits b ∨ le8 b 3 ≠ 0 ∨ 64 < le16 b 6 ∨ recTotal b < 64 ∨ le32 b 12 % 8 ≠ 0 ∨
      le32 b 16 % 8 ≠ 0 ∨ recTotal b < le32 b 12 + 64 * recUnits b ∨ recTotal b < le32 b 16 + 16 * le16 b 6 → st = 1) ∧
    (formed → 2 ≤ w.launches.length → st = 8) ∧
    (formed → w.launches.length < 2 → (∃ u ∈ parseUnits b, siteOfLogical r u.core s = none) → st = 2) ∧
    (st = 0 → formed ∧ w.launches.length < 2 ∧ (∀ u ∈ parseUnits b, siteOfLogical r u.core s ≠ none) ∧
      ((parsePins b).map (·.2.1)).sum ≤ 64)) ∧
  (∀ (s : State) (d : BitVec 5) (level : BitVec 2), freeMode s → atSequencer s →
    let x := myCtx s
    let r := myRink s
    let v := levelState s r level.toNat x
    let charged := charge s.cur.site s.cur.ctx 3 1 s
    (settledS s d → v.1 = false → exec (.lwait d level) s = .next (wordDone (putS (mySite s).now 1 d (BitVec.ofNat 64 v.2)) s)) ∧
    (settledS s d → v.1 = true → ∃ t, exec (.lwait d level) s = .next t ∧ (myCtx t).pc = x.pc ∧ (myCtx t).s = x.s ∧
      (myCtx t).ctl.next = (mySite s).now + 1) ∧
    (level = 0 ∨ level = 2 → exec (.cancel level) s = .next (wordAfter (mySite s).now (cancelWork r level.toNat x charged))) ∧
    (level = 0 ∨ level = 2 → levelLaunches charged r level.toNat x = [] →
      ∃ t, exec (.cancel level) s = .next t ∧ (outsideSlots s → (myCtx t).pc = x.pc + 4) ∧ (myCtx t).s = x.s ∧ (myCtx t).a = x.a ∧
        (rink r t).work.launches = (rink r s).work.launches ∧ MemoryKept s t) ∧
    (level = 1 → exec (.cancel level) s = .next (endGraph r 1 (modMyCtx haltCtx (cancelWork r 1 x charged)))) ∧
    (level = 3 → exec (.cancel level) s = .next (endGraph r 2 (modMyCtx haltCtx (cancelWork r 3 x charged)))))

/-- gate waits for the rink's engine operations, and for the operating point that its vote asks for; at the gate the operand latches, the matrix streams' stacks and
the staging entries of the rink are empty, the gate record names it, the phase advances at a phase Gate, and the checkpoint holds the context's registers and the
position after it; where the scheduler keeps the job, execution goes on after the gate (02 R53, 05 R141, 13 R319, R322, 18 R417, 19 R429). That the gate waits for
live registers on their way, and where the job leaves for the context's own accesses, is the model's choice (notes/assumptions/21.md). evpop takes the oldest word
of the event queue, or 0; wpub advances the window's publication number once the context's older stores and the rink's commands that write it are performed;
wsync is the window's acquire. Without the rights both are window-rights faults (05 R142 to R144). -/
def Obligations.GateEventAndWindowWords : Prop :=
  (∀ (s : State) (p : Bool) (g : GateEntry), freeMode s → atSequencer s → outsideSlots s →
    let x := myCtx s
    let r := myRink s
    let holds : Prop := ∃ t, exec (.gate p) s = .next t ∧ (myCtx t).pc = x.pc ∧ (myCtx t).s = x.s ∧ (myCtx t).ctl.next = (mySite s).now + 1
    let ready : Prop := rinkRetired r s = true ∧ livePending g x = false ∧ (gateStays r s = true ∨ drained x.buf = true)
    let eff := (rink r (modRink r (applyVote p) s)).voteEff.toNat
    (gateEntry s r x.pc = none → exec (.gate p) s = .next (takeTrap false 0x28 0 false s)) ∧
    (gateEntry s r x.pc = some g → ¬ready → holds) ∧ (gateEntry s r x.pc = some g → ready → s.power.cur < eff → holds) ∧
    (gateEntry s r x.pc = some g → ready → eff ≤ s.power.cur →
      let u := modMyCtx (fun y => ccIssue (mySite s).now 1 (advancePc y))
        (gateStep r p g (x.pc + 4) x (charge s.cur.site s.cur.ctx 3 1 (modRink r (applyVote p) s)))
      let v := if gateStays r u = true then u else closeSpan r u
      (∀ t, gateDecision r g (x.pc + 4) v = some t → exec (.gate p) s = .next t) ∧ (gateDecision r g (x.pc + 4) v = none → holds) ∧
      (myCtx u).pc = x.pc + 4 ∧ (myCtx u).s = x.s ∧ (myCtx u).a = x.a ∧
      (∀ k, (owns (site k s) r 2 = true → (site k u).ve.latchA = none ∧ (site k u).ve.latchB = none ∧ (site k u).ve.latchC = none) ∧
        (∀ h, owns (site k s) r (halfHead h) = true → (halfOf (site k u) h).seq.stack = []) ∧
        ∀ y, owns (site k s) r (ctxHead y) = true → ∀ q < 3, (ctxOf (site k u) y).staged.get [] q = []) ∧
      (rink r u).work.gateAddr = x.pc ∧ (rink r u).work.gateName = g.name ∧ (rink r u).work.phase = (rink r s).work.phase + (if p then 1 else 0) ∧
      (rink r u).recov.count = 0 ∧
      (∃ k, (rink r u).recov.checkpoint = some k ∧ k.pos = x.pc + 4 ∧ k.code = x.code ∧ k.s = x.s ∧ k.sLive = .ofNat 32 g.slive ∧ k.a = x.a ∧
        k.aLive = .ofNat 16 g.alive ∧ k.fstat = x.fstat ∧ k.fctl = x.fctl ∧ k.srkey = x.srkey ∧ k.rscnt = x.trap.rscnt ∧ k.rse = x.trap.rse) ∧
      (jobCancelled u r = false → s.power.st ≠ .entering → (rink r u).susp = false ∨ (rink r u).suspd = true → mustChoose u r = false →
        exec (.gate p) s = .next u))) ∧
  (∀ (s : State) (d : BitVec 5) (w : BitVec 6), freeMode s →
    let x := myCtx s
    let r := myRink s
    let v := windowOf w.toNat s
    let q := (rink r s).work.evq
    let own := v.valid = true ∧ v.owner.toNat = r ∧ v.wwr.getLsbD r = true
    let may := v.valid = true ∧ v.wrd.getLsbD r = true
    (atSequencer s → settledS s d → ∃ t, exec (.evpop d) s = .next t ∧ (d ≠ 0 → getS (myCtx t) d = q.headD 0) ∧ (rink r t).work.evq = q.drop 1 ∧
      (outsideSlots s → (myCtx t).pc = x.pc + 4) ∧ ScalarsKept d x (myCtx t)) ∧
    (¬atSequencer s → exec (.evpop d) s = .next (takeTrap false 0x10 0 false s)) ∧
    (¬own → exec (.wpub w) s = .next (takeTrap false 0x27 w.toNat false s)) ∧
    (own → x.buf.stores = [] → x.buf.atomicOut = false → writesWindow r w.toNat s = false →
      ∃ t, exec (.wpub w) s = .next t ∧ (windowOf w.toNat t).pub = v.pub + 1 ∧ (outsideSlots s → (myCtx t).pc = x.pc + 4) ∧ (myCtx t).s = x.s ∧
        MemoryKept s t) ∧
    (own → x.buf.stores ≠ [] ∨ x.buf.atomicOut = true ∨ writesWindow r w.toNat s = true →
      ∃ t, exec (.wpub w) s = .next t ∧ (windowOf w.toNat t).pub = v.pub ∧ (myCtx t).pc = x.pc ∧ (myCtx t).ctl.next = (mySite s).now + 1) ∧
    (¬may → exec (.wsync w) s = .next (takeTrap false 0x27 w.toNat false s)) ∧
    (may → exec (.wsync w) s =
      .next (wordAfter (mySite s).now { viewSync r w.toNat s with synced := (r, w.toNat) :: s.synced })))

/-! ## System registers, halt and snap -/

/-- mfs reads a system register; mts writes one, its fields by their access codes, clamped as their maps say; a VE register needs the VE, and one in use
may not be written; an mts takes effect for words of later beats; that a VE register is in use while the VE's stream runs is the model's choice (01 R24, 02 R59 to R65,
05 R148; notes/assumptions/42.md). halt ends its stream where it stands; a halt of the Rink Sequencer ends the graph program. snap
asks for the common trigger of the rink's blocks in the next beat (05 R149, R150). -/
def Obligations.SystemWords : Prop :=
  (∀ (s : State) (d a : BitVec 5),
    let c := mySite s
    let x := myCtx s
    let v := getS x a
    let reads (n : BitVec 10) (w : Word) : Prop := settledS s d → exec (.mfs d n) s = .next (wordDone (putS c.now 1 d w) s)
    let writes (n : BitVec 10) (f : Ctx → Ctx) : Prop := readableS s a → exec (.mts n a) s = .next (wordDone f s)
    let addr := BitVec.ofNat 64 (v.toNat / 4 * 4)
    let trap (f : TrapRegs → TrapRegs) (y : Ctx) : Ctx := { y with trap := f y.trap }
    reads 0x000 c.beat ∧ reads 0x001 x.trap.epc ∧ reads 0x002 x.trap.enpc ∧ reads 0x003 (x.trap.eds.setWidth 64) ∧ reads 0x004 x.trap.ecause ∧
    reads 0x008 (x.fstat.setWidth 64) ∧ reads 0x009 (x.fctl.setWidth 64) ∧ reads 0x00A x.srkey ∧ reads 0x010 (x.trap.rscnt.setWidth 64) ∧
    reads 0x018 x.ctxid ∧ reads 0x019 x.vfid ∧ (∀ i : BitVec 4, reads (0x20 + i.setWidth 10) (x.trap.rse.get 0 i.toNat)) ∧
    writes 0x001 (trap fun t => { t with epc := addr }) ∧ writes 0x002 (trap fun t => { t with enpc := addr }) ∧
    writes 0x003 (trap fun t => { t with eds := BitVec.ofNat 2 (min (v.toNat % 4) 2) }) ∧
    writes 0x008 (fun y => { y with fstat := v.setWidth 6 }) ∧
    writes 0x010 (trap fun t => { t with rscnt := BitVec.ofNat 5 (min (v.toNat % 32) 16) }) ∧
    (∀ i : BitVec 4, writes (0x20 + i.setWidth 10) (trap fun t => { t with rse := t.rse.put i.toNat addr })) ∧
    writes 0x000 id ∧ writes 0x018 id ∧ writes 0x019 id ∧
    (readableS s a → ∃ t, exec (.mts 0x009 a) s = .next t ∧
      (myCtx t).fctl.toNat = v.toNat / 8 % 8 * 8 + (if 1 ≤ v.toNat % 8 ∧ v.toNat % 8 ≤ 5 then v.toNat % 8 else 1) ∧
      sampleFctl c.now (myCtx t) = sampleFctl c.now x ∧ (myCtx t).s = x.s ∧ (outsideSlots s → (myCtx t).pc = x.pc + 4)) ∧
    (readableS s a → ∃ t, exec (.mts 0x00A a) s = .next t ∧ (myCtx t).srkey = BitVec.ofNat 64 (v.toNat % 2 ^ 48) ∧
      sampleSrkey c.now (myCtx t) = sampleSrkey c.now x ∧ (myCtx t).s = x.s) ∧
    (∀ n ∈ [(0x011 : BitVec 10), 0x012, 0x014],
      (owns c (myRink s) 2 = false → exec (.mfs d n) s = .next (takeTrap false 0x12 2 false s)) ∧
      (readableS s a → owns c (myRink s) 2 = false → exec (.mts n a) s = .next (takeTrap false 0x12 2 false s)) ∧
      (readableS s a → owns c (myRink s) 2 = true → c.ve.ctl.running = true → exec (.mts n a) s = .next (takeTrap false 0x13 0 false s)) ∧
      (readableS s a → owns c (myRink s) 2 = true → c.ve.ctl.running = false →
        ∃ t, exec (.mts n a) s = .next t ∧ (mySite t).ve.loop = writeLoop n.toNat v c.ve.loop ∧
          (sampleVe c.now (mySite t).ve).loop = (sampleVe c.now c.ve).loop ∧ (mySite t).ve.loopAt = c.now + 1 ∧
          (mySite t).ve.v = c.ve.v ∧ (mySite t).ve.ctl = c.ve.ctl ∧ (outsideSlots s → (myCtx t).pc = x.pc + 4) ∧ (myCtx t).s = x.s) ∧
      (settledS s d → owns c (myRink s) 2 = true → c.ve.loopAt ≠ c.now + 1 →
        exec (.mfs d n) s = .next (wordDone (putS c.now 1 d (if n = 0x011 then ringWord c.ve.loop else if n = 0x012 then lcntWord c.ve.loop
          else lpassWord c.ve.loop)) s)))) ∧
  (∀ (s : State),
    let x := myCtx s
    let halted := modMyCtx haltCtx (charge s.cur.site s.cur.ctx 3 1 s)
    (¬atSequencer s → exec .halt s = .next halted) ∧ (atSequencer s → exec .halt s = .next (endGraph (myRink s) 0 halted)) ∧
    (myCtx halted).ctl.running = false ∧ (myCtx halted).slots = 0 ∧ (myCtx halted).pc = x.pc ∧ (myCtx halted).s = x.s ∧
    (∃ t, exec .snap s = .next t ∧ (∀ k ∈ sitesOf (myRink s) s, (site k t).obs.snapReq = some ((site k s).obs.snapReq.getD s.cur.site)) ∧
      (∀ k, k ∉ sitesOf (myRink s) s → (site k t).obs.snapReq = (site k s).obs.snapReq) ∧ (die 0 t).snapReq.isSome = true ∧
      (die 1 t).snapReq.isSome = true ∧ (outsideSlots s → (myCtx t).pc = x.pc + 4) ∧ (myCtx t).s = x.s ∧ MemoryKept s t))

/-! ## Vector engine words -/

/-- The elementwise integer and bitwise words on every lane: modulo the width, signed where the type is, both elements of a 16-bit type; the result goes to the
active lanes of vd and the sources to their latches (02 R52, R53, 06 R152 to R155, R157 to R163). -/
def Obligations.VectorIntegerResults : Prop :=
  ∀ (s : State) (f : VFields), lanesReady s f →
    let src (k : Nat) : List Lane := srcVal (myVe s) f k
    let at' (k i : Nat) : Lane := nth 0 (src k) i
    let gives (i : Instr) (srcs : List Nat) (lat : Nat) (g : Nat → Lane) : Prop :=
      sourcesReady s f srcs → exec i s = .next (vectorDone f srcs 1 (lanesWritten f lat fun n => (g n, 0)) s)
    let w := elemBits f.ty
    let num (a : Nat) : Int := if f.ty = 2 ∨ f.ty = 4 then sext w a else a
    let pair (g : Nat → Nat → Nat) (i : Nat) : Lane :=
      let a := (at' 0 i).toNat
      let b := (at' 1 i).toNat
      if w = 16 then BitVec.ofNat 32 (g (a % 65536) (b % 65536) + g (a / 65536) (b / 65536) * 65536) else BitVec.ofNat 32 (g a b)
    let wrap (v : Int) : Nat := (v % 2 ^ w).toNat
    (2 ≤ f.ty.toNat → f.ty.toNat ≤ 5 →
      gives (.vadd f) [0, 1] 2 (pair fun a b => (a + b) % 2 ^ w) ∧ gives (.vsub f) [0, 1] 2 (pair fun a b => wrap (num a - num b)) ∧
      gives (.vmul f) [0, 1] 4 (pair fun a b => wrap (num a * num b)) ∧
      gives (.vmax f) [0, 1] 2 (pair fun a b => if num a < num b then b else a) ∧
      gives (.vmin f) [0, 1] 2 (pair fun a b => if num b ≤ num a then b else a) ∧
      gives (.vabs f) [0] 2 (pair fun a _ => wrap (num a).natAbs) ∧ gives (.vneg f) [0] 2 (pair fun a _ => wrap (-num a)) ∧
      gives (.vshl f) [0, 1] 2 (pair fun a b => a * 2 ^ (b % w) % 2 ^ w) ∧ gives (.vshr f) [0, 1] 2 (pair fun a b => a / 2 ^ (b % w)) ∧
      gives (.vsra f) [0, 1] 2 (pair fun a b => wrap (num a / 2 ^ (b % w)))) ∧
    gives (.vand f) [0, 1] 2 (fun i => at' 0 i &&& at' 1 i) ∧ gives (.vor f) [0, 1] 2 (fun i => at' 0 i ||| at' 1 i) ∧
    gives (.vxor f) [0, 1] 2 (fun i => at' 0 i ^^^ at' 1 i) ∧ gives (.vnot f) [0] 2 (fun i => ~~~at' 0 i) ∧
    gives (.vmov f) [0] 2 (at' 0) ∧ gives (.vmovi f) [] 2 (fun _ => f.aux.signExtend 32) ∧
    gives (.vmovhi f) [] 2 (fun _ => BitVec.ofNat 32 (f.aux.toNat * 2 ^ 18))

/-- The elementwise floating-point words: each element is the exact result rounded once in the word's mode, its flags merged with those of its special
cases (01 R18, R24 to R28, 06 R155, R156, R158 to R160). The special cases of numbers: the canonical NaN, overflow and zero results by rounding mode,
and the poles and domains of the special functions (01 R16, R25, R26, R41). -/
def Obligations.VectorFloatResults : Prop :=
  (∀ (s : State) (f : VFields), lanesReady s f → f.ty = 0 ∨ f.ty = 1 →
    let c := mySite s
    let env := veEnv c
    let fw := if f.ty = 0 then 23 else 7
    let rm := if f.rnd = 0 then env.rm else f.rnd.toNat
    let val (w : Nat) : Fp := decodeIz env.iz fw w
    let round (x : Fp × Fl) (e : Nat) : Nat × Fl :=
      ((roundFp fw x.1 rm env.oz (srAt env 7 (myVe s).loop.pass.toNat e)).1, x.2 ||| (roundFp fw x.1 rm env.oz (srAt env 7 (myVe s).loop.pass.toNat e)).2)
    let kept (x : Fp) : Nat := (roundFp fw x 1 false 0).1
    let signed (x : Fp) (neg : Bool → Bool) : Nat × Fl := match x with
      | .nan q => (255 * 2 ^ fw + 2 ^ (fw - 1), if q then flNV else 0)
      | .inf n => (encInf fw (neg n), 0)
      | .fin n m e => (kept (.fin (neg n) m e), 0)
    let gives (i : Instr) (srcs : List Nat) (lat : Nat) (g : Nat → (Nat → Nat) → Nat × Fl) : Prop :=
      sourcesReady s f srcs → exec i s = .next (vectorDone f srcs 1 (lanesWritten f lat fun n =>
        elemLane (f.ty == 1) (fun e a => g e fun k => nth 0 a k) (srcs.map (srcVal (myVe s) f)) n) s)
    gives (.vadd f) [0, 1] 4 (fun e a => round (exactAdd rm (val (a 0)) (val (a 1))) e) ∧
    gives (.vsub f) [0, 1] 4 (fun e a => round (exactAdd rm (val (a 0)) (negFp (val (a 1)))) e) ∧
    gives (.vmul f) [0, 1] 4 (fun e a => round (exactMul (val (a 0)) (val (a 1))) e) ∧
    gives (.vfma f) [0, 1, 2] 4 (fun e a => round (exactFma rm (val (a 0)) (val (a 1)) (val (a 2))) e) ∧
    gives (.vfms f) [0, 1, 2] 4 (fun e a => round (exactFma rm (val (a 0)) (val (a 1)) (negFp (val (a 2)))) e) ∧
    gives (.vfnma f) [0, 1, 2] 4 (fun e a => round (exactFma rm (negFp (val (a 0))) (val (a 1)) (val (a 2))) e) ∧
    gives (.vmax f) [0, 1] 4 (fun _ a => (kept (fpExtreme true (val (a 0)) (val (a 1))).1, (fpExtreme true (val (a 0)) (val (a 1))).2)) ∧
    gives (.vmin f) [0, 1] 4 (fun _ a => (kept (fpExtreme false (val (a 0)) (val (a 1))).1, (fpExtreme false (val (a 0)) (val (a 1))).2)) ∧
    gives (.vabs f) [0] 2 (fun _ a => signed (val (a 0)) fun _ => false) ∧ gives (.vneg f) [0] 2 (fun _ a => signed (val (a 0)) fun n => !n) ∧
    gives (.vcopysgn f) [0, 1] 2 (fun _ a => signed (val (a 0)) fun _ => bitOf (a 1) (fw + 8)) ∧
    (f.ty = 0 → gives (.vrcp f) [0] 8 (fun _ a => specialFn 0 env (a 0)) ∧ gives (.vrsq f) [0] 8 (fun _ a => specialFn 1 env (a 0)) ∧
      gives (.vexp2 f) [0] 8 (fun _ a => specialFn 2 env (a 0)) ∧ gives (.vlog2 f) [0] 8 (fun _ a => specialFn 3 env (a 0)))) ∧
  ((∀ neg m e oz u rm, 0 < m → (128 : Int) ≤ e → 1 ≤ rm → rm ≤ 4 →
    roundFp 23 (.fin neg m e) rm oz u =
      (if rm = 1 ∨ (rm = 3 ∧ neg = false) ∨ (rm = 4 ∧ neg = true) then encInf 23 neg else encInf 23 neg - 1, flOF ||| flNX)) ∧
  (∀ rm q b, exactAdd rm (.nan q) b = (.nan false, if q || isSnan b then flNV else 0)) ∧
  (∀ rm x m e, exactAdd rm (.inf x) (.fin (!x) m e) = (.inf x, 0)) ∧ (∀ rm x, exactAdd rm (.inf x) (.inf (!x)) = (.nan false, flNV)) ∧
  (∀ rm m e, exactAdd rm (.fin false m e) (.fin true m e) = (.fin (rm == 4) 0 0, 0)) ∧
  (∀ x y m e f, 0 < m → exactMul (.inf x) (.fin y m e) = (.inf (x != y), 0) ∧ exactMul (.inf x) (.fin y 0 f) = (.nan false, flNV)) ∧
  (∀ env : NumEnv,
    specialFn 0 env 0x00000000 = (0x7F800000, flDZ) ∧ specialFn 0 env 0x80000000 = (0xFF800000, flDZ) ∧
    specialFn 0 env 0x7F800000 = (0x00000000, 0) ∧ specialFn 1 env 0x00000000 = (0x7F800000, flDZ) ∧
    specialFn 1 env 0xBF800000 = (0x7FC00000, flNV) ∧ specialFn 2 env 0x80000000 = (0x3F800000, 0) ∧
    specialFn 2 env 0xFF800000 = (0x00000000, 0) ∧ specialFn 3 env 0x00000000 = (0xFF800000, flDZ) ∧
    specialFn 3 env 0x3F800000 = (0x00000000, 0) ∧ specialFn 3 env 0xBF800000 = (0x7FC00000, flNV) ∧
    ∀ sel ≤ 3, specialFn sel env 0x7FC00000 = (0x7FC00000, 0) ∧ specialFn sel env 0x7F800001 = (0x7FC00000, flNV)))

/-- Compare, select and predicate words (06 R164 to R167). -/
def Obligations.VectorPredicateResults : Prop :=
  ∀ (s : State) (f : VFields),
    let c := mySite s
    let v := myVe s
    let now := c.now
    let all : BitVec 64 := BitVec.allOnes 64
    let pd : Prop := writeP now v f.vd.toNat = none
    let done (i : Instr) (p : BitVec 64) : Prop :=
      exec i s = .next (vectorDone f [] 1 (modMyVe (putP now 2 f.vd.toNat all false p)) s)
    let num (a : Nat) : Int := if f.ty = 2 ∨ f.ty = 4 then sext (elemBits f.ty) a else a
    let holds (a b : Nat) : Prop := match f.vc.toNat with
      | 0 => num a = num b
      | 1 => num a ≠ num b
      | 2 => num a < num b
      | _ => num a ≤ num b
    let lane (i : Nat) : Prop :=
      let a := (nth 0 (srcVal v f 0) i).toNat
      let b := (nth 0 (srcVal v f 1) i).toNat
      if f.ty = 4 ∨ f.ty = 5 then holds (a % 65536) (b % 65536) ∧ holds (a / 65536) (b / 65536) else holds a b
    (sourcesReady s f [0, 1] → governHit now v f = none → pd → 2 ≤ f.ty.toNat → f.ty.toNat ≤ 5 → f.vc.toNat ≤ 3 →
      ∃ bits : BitVec 64, (∀ i < 64, bits.getLsbD i = true ↔ (activeLanes v f).getLsbD i = true ∧ lane i) ∧
        exec (.vcmp f) s = .next (vectorDone f [0, 1] 1 (modMyVe (putP now 2 f.vd.toNat (activeLanes v f) f.pmode bits)) s)) ∧
    (sourcesReady s f [0, 1] → governHit now v f = none → pd → f.ty = 0 →
      ∃ bits fl, (∀ i < 64, (activeLanes v f).getLsbD i = true →
          bits.getLsbD i = (compareElem f c (nth 0 (srcVal v f 0) i).toNat (nth 0 (srcVal v f 1) i).toNat).1) ∧
        exec (.vcmp f) s = .next (vectorDone f [0, 1] 1
          (fun t => modMySite (veFlags 2 fl) (modMyVe (putP now 2 f.vd.toNat (activeLanes v f) f.pmode bits) t)) s)) ∧
    (sourcesReady s f [0, 1] → lanesReady s f →
      exec (.vsel f) s = .next (vectorDone f [0, 1] 1 (modMyVe (putV now 2 f.vd.toNat all false
        ((List.range 64).map fun i => if (getP v f.pred.toNat).getLsbD i then nth 0 (srcVal v f 0) i else nth 0 (srcVal v f 1) i))) s)) ∧
    (readP now v f.va.toNat = none → pd → done (.vpnot f) (~~~getP v f.va.toNat) ∧
      (readP now v f.vb.toNat = none → done (.vpand f) (getP v f.va.toNat &&& getP v f.vb.toNat) ∧
        done (.vpor f) (getP v f.va.toNat ||| getP v f.vb.toNat) ∧ done (.vpxor f) (getP v f.va.toNat ^^^ getP v f.vb.toNat))) ∧
    (readX now v f.va.toNat = none → pd →
      ∃ p : BitVec 64, (∀ i < 64, p.getLsbD i = true ↔ i < ((getX v f.va.toNat).toNat + f.aux.toNat) % 2 ^ 32) ∧ done (.vplen f) p)

/-- Permutes, conversions, random values and the seed words: their lanes, latencies and flags; a reduction writes one value to every lane (01 R28, R33,
R39, 06 R168 to R170, R173, R174, R187, R188). vqbfp quantises its 256 elements to one block: the mantissas in vd and the exponent in lane 0 of vd +
1; vdqbfp writes the 256 values of a block to vd to vd + 3. Each takes 4 beats (01 R31, R32, 06 R171, R172). -/
def Obligations.VectorCrossLaneResults : Prop :=
  (∀ (s : State) (f : VFields), lanesReady s f →
    let c := mySite s
    let v := myVe s
    let env := veEnv c
    let at' (k i : Nat) : Lane := nth 0 (srcVal v f k) i
    let half (k e : Nat) : Nat := if e % 2 = 0 then (at' k (e / 2)).toNat % 65536 else (at' k (e / 2)).toNat / 65536
    let gives (i : Instr) (srcs : List Nat) (occ lat : Nat) (g : Nat → Lane × Fl) : Prop :=
      sourcesReady s f srcs → exec i s = .next (vectorDone f srcs occ (lanesWritten f lat g) s)
    let moves (i : Instr) (srcs : List Nat) (g : Nat → Lane) : Prop := gives i srcs 1 3 fun n => (g n, 0)
    let odd (n : Nat) : Nat := if n < 64 then half 0 (2 * n) else half 1 (2 * (n - 64))
    let reduces (i : Instr) (kind : Nat) : Prop := sourcesReady s f [0] →
      exec i s = .next (vectorDone f [0] 1 (fun t => modMySite (veFlags 9 (reduceLanes kind f c (activeLanes v f) (srcVal v f 0)).2)
        (modMyVe (putV c.now 9 f.vd.toNat (BitVec.allOnes 64) false
          (List.replicate 64 (reduceLanes kind f c (activeLanes v f) (srcVal v f 0)).1)) t)) s)
    moves (.vperm f) [0, 1] (fun i => at' 0 ((at' 1 i).toNat % 64)) ∧ moves (.vbcast f) [0] (fun _ => at' 0 (f.vb.toNat % 64)) ∧
    moves (.vrot f) [0] (fun i => at' 0 ((i + f.vb.toNat) % 64)) ∧
    moves (.vzip f) [0, 1] (fun i => BitVec.ofNat 32 (half 0 i + half 1 i * 65536)) ∧
    moves (.vunzip f) [0, 1] (fun i => BitVec.ofNat 32 (odd (2 * i) + odd (2 * i + 1) * 65536)) ∧
    moves (.vrng f) [0, 1] (fun i => BitVec.ofNat 32 (srAt env 9 (at' 0 i).toNat (at' 1 i).toNat)) ∧
    gives (.vcvt f) [0] 1 3 (fun i => convertLane env f.ty.toNat f.vc.toNat (if f.rnd = 0 then env.rm else f.rnd.toNat)
      (srAt env 7 v.loop.pass.toNat) (at' 0 i) i) ∧
    gives (.vsrnd f) [0] 1 3 (fun i => convertLane env 0 f.vc.toNat 5 (srAt env 6 v.loop.pass.toNat) (at' 0 i) i) ∧
    reduces (.vrsum f) 0 ∧ reduces (.vrmax f) 1 ∧ reduces (.vrmin f) 2 ∧
    gives (.vseedgen f) [0, 1] 1 4 (fun i => (rowLane (seedRow (at' 0 (8 * (i / 8))) (field (at' 1 (8 * (i / 8))).toNat 19 16)
      (field (at' 1 (8 * (i / 8))).toNat 7 0)) (i % 8), 0)) ∧
    gives (.vseedsrch f) [0, 1, 2] 8 12 (fun i =>
      let k := (at' 2 0).toNat
      let r := seedScore env ((srcVal v f 0).map fun w => decodeIz env.iz 23 w.toNat)
        (((seedRow (at' 1 i) (field k 19 16) (field k 7 0)).drop (64 * field k 25 24)).take 64)
      (BitVec.ofNat 32 r.1, r.2))) ∧
  (∀ (s : State) (f : VFields), sourcesReady s f [0] → 2 ≤ f.vc.toNat → f.vc.toNat ≤ 8 →
    let c := mySite s
    let v := myVe s
    let w := f.vc.toNat
    let env := veEnv c
    let a := f.va.toNat
    let d := f.vd.toNat
    let n := if f.ty = 0 then 4 else 2
    let element (e : Nat) : Nat :=
      if f.ty = 0 then (nth 0 (getV v (a + e / 64)) (e % 64)).toNat
      else (nth 0 (getV v (a + e / 128)) (e % 128 / 2)).toNat / 65536 ^ (e % 2) % 65536
    let rm := if f.rnd = 0 then env.rm else f.rnd.toNat
    let block := quantiseBlock env.bz ((List.range 256).map fun e => decodeIz env.iz (if f.ty = 0 then 23 else 7) (element e)) w rm
      (srAt env 8 v.loop.pass.toNat)
    (f.ty = 0 ∨ f.ty = 1 → groupOk v.loop a n = true → groupOk v.loop d 2 = true → (∀ r < n, 0 < r → readV c.now v (a + r) = none) →
      (∀ r < n, (getV v (a + r)).length = 64) → writeV c.now v d = none → writeV c.now v (d + 1) = none →
      ∃ mant : List Lane, (∀ e < 256, ∀ b < w, (nth 0 mant ((w * e + b) / 32)).getLsbD ((w * e + b) % 32) = (intMod w (nth 0 block.2.1 e)).testBit b) ∧
        exec (.vqbfp f) s = .next (vectorDone f [0] 4 (fun t => modMySite (veFlags 8 block.2.2) (modMyVe (fun y =>
          putV c.now 8 (d + 1) (BitVec.allOnes 64) false (BitVec.ofNat 32 block.1 :: List.replicate 63 0)
            (putV c.now 8 d (BitVec.allOnes 64) false mant y)) t)) s)) ∧
    (groupOk v.loop a 2 = true → groupOk v.loop d 4 = true → readV c.now v (a + 1) = none → (∀ r < 4, writeV c.now v (d + r) = none) →
      ∃ t, exec (.vdqbfp f) s = .next t ∧ (myVe t).ctl.next = c.now + 4 ∧ (v.slots = 0 → (myVe t).pc = v.pc + 8) ∧
        ∀ r < 4, (myVe t).vReady.get 0 (physV v.loop (d + r)) = c.now + 6 ∧
          (∀ k < 4, k ≠ r → physV v.loop (d + k) ≠ physV v.loop (d + r)) →
          ∀ i < 64, ∀ m : Int, -(2 ^ (w - 1) : Nat) ≤ m → m < (2 ^ (w - 1) : Nat) →
            (∀ b < w, (nth 0 (getV v a) ((w * (64 * r + i) + b) / 32)).getLsbD ((w * (64 * r + i) + b) % 32) = (intMod w m).testBit b) →
            nth 0 ((myVe t).v.get [] (physV v.loop (d + r))) i =
              BitVec.ofNat 32 (dequantElem env.bz env.oz ((nth 0 (getV v (a + 1)) 0).toNat % 256) w m).1))

/-- The vector loads and stores: lane addresses modulo 2^32, each lane performed in its fixed beat in timetabled mode and no earlier in free mode, and the
first failing lane stops the word with the fault of its first failing check (06 R175 to R177, 10 R258). vldt and vstt reach one row of a tile register of the rink;
in free mode a tile register that is not full holds vldt, and one that is full holds vstt. The index words (06 R178, R179). -/
def Obligations.VectorMemoryWords : Prop :=
  (∀ (s : State) (f : VFields), governHit (mySite s).now (myVe s) f = none →
    let c := mySite s
    let v := myVe s
    let act := activeLanes v f
    let base := getX v f.va.toNat + BitVec.ofInt 32 (4 * f.aux.toInt)
    let addr (form i : Nat) : Nat := match form with
      | 0 => (base + BitVec.ofNat 32 (4 * i)).toNat
      | 1 => (base + BitVec.ofNat 32 i * getX v f.vb.toNat).toNat
      | _ => (base + nth 0 (srcVal v f 1) i).toNat
    let width (form : Nat) : Nat := match form with
      | 0 => 64
      | 1 => 16
      | _ => 4
    let pends (ld : Bool) (form : Nat) : List Pend :=
      (accessPends c v.ctl.timetabled ld form (if ld then physV v.loop f.vd.toNat else 0) (if ld then [] else srcVal v f 2) (activeAddrs f v form)).1
    let passes (form : Nat) (ld : Bool) : Prop := readX c.now v f.va.toNat = none ∧ (form = 1 → readX c.now v f.vb.toNat = none) ∧
      ∀ h ∈ laneHits c ld form (pends ld form) (activeAddrs f v form), h = none
    let inTime (form i due : Nat) : Prop :=
      if v.ctl.timetabled then due = c.now + 2 + i / width form else c.now + 2 + i / width form ≤ due
    let free (ld : Bool) (form : Nat) : Prop := v.ctl.timetabled = true → accessClash c (pends ld form) = none
    let runs (t : State) (form : Nat) : Prop :=
      (mySite t).tm = c.tm ∧ (myVe t).ctl.next = c.now + 64 / width form ∧ (myVe t).x = v.x ∧ (v.slots = 0 → (myVe t).pc = v.pc + 8 ∧ (myVe t).p = v.p)
    let loads (i : Instr) (form : Nat) (srcs : List Nat) : Prop :=
      sourcesReady s f srcs → writeV c.now v f.vd.toNat = none → passes form true → free true form →
      ∃ t, exec i s = .next t ∧ runs t form ∧ (myVe t).vValid.getLsbD (physV v.loop f.vd.toNat) = true ∧
        ∀ n < 64, act.getLsbD n = true → ∃ due ls, inTime form n due ∧ (n, addr form n) ∈ ls ∧
          due + 4 ≤ (myVe t).vReady.get 0 (physV v.loop f.vd.toNat) ∧
          (⟨due, c.now, 2, none, veRink c, false, .veLoad ls (physV v.loop f.vd.toNat)⟩ : Pend) ∈ (mySite t).pipe
    let stores (i : Instr) (form : Nat) (srcs : List Nat) : Prop :=
      sourcesReady s f srcs → passes form false → free false form →
      ∃ t, exec i s = .next t ∧ runs t form ∧ (myVe t).v = v.v ∧
        ∀ n < 64, act.getLsbD n = true → ∃ due ls, inTime form n due ∧ (addr form n, nth 0 (srcVal v f 2) n) ∈ ls ∧
          (⟨due, c.now, 2, none, veRink c, false, .veStore ls⟩ : Pend) ∈ (mySite t).pipe
    let fails (i : Instr) (ld : Bool) (form : Nat) (srcs : List Nat) : Prop :=
      sourcesReady s f srcs → (ld = true → writeV c.now v f.vd.toNat = none) → readX c.now v f.va.toNat = none →
      (form = 1 → readX c.now v f.vb.toNat = none) →
      ∀ n < 64, act.getLsbD n = true →
        (∀ h ∈ laneHits c ld form (pends ld form) ((activeAddrs f v form).filter fun l => decide (l.1 < n)), h = none) →
        let a := addr form n
        let stops (h : Hit) : Prop := exec i s = .next (engineStop 2 h s)
        (a % 4 ≠ 0 → stops (.trap 0x07 n)) ∧
        (a % 4 = 0 → 0xC00000 ≤ a → stops (.tmTrap 0x17 n 5 a)) ∧
        (a % 4 = 0 → a < 0xC00000 → regionAt c (veRink c) a = none → stops (.tmTrap 0x17 n 1 a)) ∧
        ∀ g, a % 4 = 0 → a < 0xC00000 → regionAt c (veRink c) a = some g →
          (g.compressed = true → stops (.tmTrap 0x18 n 2 a)) ∧
          (g.compressed = false → ld = true → (groupOf c (a / 4096)).valid = false → (∀ due, comingGroup c due (a / 4096) = false) →
            stops (.tmTrap 0x19 n 3 a))
    f.vd.toNat < 96 → v.loop.size.toNat ≤ 48 →
    loads (.vld f) 0 [] ∧ loads (.vlds f) 1 [] ∧ loads (.vldg f) 2 [1] ∧
    stores (.vst f) 0 [2] ∧ stores (.vsts f) 1 [2] ∧ stores (.vscat f) 2 [1, 2] ∧
    fails (.vld f) true 0 [] ∧ fails (.vlds f) true 1 [] ∧ fails (.vldg f) true 2 [1] ∧
    fails (.vst f) false 0 [2] ∧ fails (.vsts f) false 1 [2] ∧ fails (.vscat f) false 2 [1, 2]) ∧
  (∀ (s : State) (f : VFields),
    let c := mySite s
    let v := myVe s
    let tile := f.va.toNat
    let row := f.vb.toNat % 32
    let act := activeLanes v f
    let full := c.flags.full.getLsbD tile
    let index (i : Instr) (w : BitVec 32) : Prop :=
      exec i s = .next (vectorDone f [] 1 (modMyVe (putX c.now 1 f.vd.toNat w)) s)
    (ownsFlag c (veRink c) tile = true → lanesReady s f → (v.ctl.timetabled = false → full = true) →
      exec (.vldt f) s = .next (vectorDone f [] 1 (fun t => modMySite (fun y => { y with pipe := y.pipe ++
        [⟨c.now + 1, c.now, 2, none, veRink c, false, .tileLoad tile row (physV v.loop f.vd.toNat) act false (f.vb.getLsbD 6)⟩] })
        (modMyVe (putV c.now 4 f.vd.toNat act f.pmode (List.replicate 64 0)) t)) s)) ∧
    (ownsFlag c (veRink c) tile = true → governHit c.now v f = none → sourcesReady s f [2] → (v.ctl.timetabled = false → full = false) →
      ∃ lanes, (∀ i x, (i, x) ∈ lanes ↔ i < 64 ∧ act.getLsbD i = true ∧ x = nth 0 (srcVal v f 2) i) ∧
        exec (.vstt f) s = .next (vectorDone f [2] 1 (modMySite fun y => { y with pipe := y.pipe ++
          [⟨c.now + 2, c.now, 2, none, veRink c, false, .tileStore tile row lanes⟩] }) s)) ∧
    (ownsFlag c (veRink c) tile = true → lanesReady s f → v.ctl.timetabled = false → full = false →
      ∃ t, exec (.vldt f) s = .next t ∧ (myVe t).pc = v.pc ∧ (myVe t).ctl.next = c.now + 1 ∧ (mySite t).pipe = c.pipe) ∧
    (ownsFlag c (veRink c) tile = true → governHit c.now v f = none → sourcesReady s f [2] → v.ctl.timetabled = false → full = true →
      ∃ t, exec (.vstt f) s = .next t ∧ (myVe t).pc = v.pc ∧ (myVe t).ctl.next = c.now + 1 ∧ (mySite t).pipe = c.pipe) ∧
    (writeX c.now v f.vd.toNat = none → index (.vxset f) (f.aux.setWidth 32) ∧
      (readX c.now v f.va.toNat = none → index (.vxaddi f) (getX v f.va.toNat + f.aux.signExtend 32) ∧
        (readX c.now v f.vb.toNat = none → index (.vxadd f) (getX v f.va.toNat + getX v f.vb.toNat)))))

/-- The control words of the vector engine: idle, flags, the loop's set-up, its passes and turns, and the stream's end (06 R180 to R186). -/
def Obligations.VectorControlWords : Prop :=
  ∀ (s : State) (f : VFields),
    let c := mySite s
    let v := myVe s
    let n := f.aux.toNat % 64
    let token : Prop := 16 ≤ n ∧ n < 32
    let done (i : Instr) (effect : State → State) : Prop := exec i s = .next (vectorDone f [] 1 effect s)
    let mine : Prop := ownsFlag c (veRink c) n = true
    let pass := v.loop.pass + 1
    let taken : Prop := pass.toNat + 1 < v.loop.count.toNat + v.loop.depth.toNat
    exec (.vidle f) s = .next (vectorDone f [] (1 + f.aux.toNat) id s) ∧
    (mine → flagReady c n = true → ¬token → f.aux.getLsbD 6 = false → done (.vwaitf f) (modMySite id)) ∧
    (mine → flagReady c n = true → token ∨ f.aux.getLsbD 6 = true → done (.vwaitf f) (modMySite (clearFlag n))) ∧
    (mine → flagReady c n = false → v.ctl.timetabled = false →
      ∃ t, exec (.vwaitf f) s = .next t ∧ (myVe t).pc = v.pc ∧ (myVe t).ctl.next = c.now + 1 ∧ (mySite t).flags = c.flags) ∧
    (mine → f.aux.getLsbD 6 = true → (v.ctl.timetabled = false → veStoring c = false) → pushRoom c n = true → done (.vsigf f) (modMySite (setFlag n))) ∧
    (mine → f.aux.getLsbD 6 = false → (token → flagReady c n = true) → done (.vsigf f) (modMySite (clearFlag n))) ∧
    (v.slots = 0 → done (.vend f) (modMyVe fun y => { y with ctl := { y.ctl with running := false } })) ∧
    (v.slots = 0 → n < v.loop.size.toNat → done (.vturn f) (modMyVe fun y =>
      { y with loop := { y.loop with turn := BitVec.ofNat 6 n, pturn := BitVec.ofNat 3 n } })) ∧
    (v.slots ≠ 0 → ∀ i ∈ [Instr.vend f, .vturn f, .vloop f], exec i s = .next (engineStop 2 (.trap 1 0x1700) s)) ∧
    (v.slots = 0 → readX c.now v f.va.toNat = none → (∀ i < 8, writeP c.now v (8 + i) = none) →
      ∃ t, exec (.vsetlc f) s = .next t ∧ (myVe t).pc = v.pc + 8 ∧
        let l := (myVe t).loop
        l.count = getX v f.va.toNat + f.aux.setWidth 32 ∧ l.depth = BitVec.ofNat 8 (f.vc.toNat + 1) ∧ l.loopno = v.loop.loopno + 1 ∧ l.pass = 0 ∧
        (f.vd.toNat ≤ 8 → l.size.toNat = (if f.vd = 0 then 48 else 6 * f.vd.toNat)) ∧ l.pturn = v.loop.pturn ∧
        getP (myVe t) 8 = (if l.count = 0 then 0 else BitVec.allOnes 64) ∧ (∀ i, 9 ≤ i → i < 16 → getP (myVe t) i = 0) ∧
        ∀ i, 8 ≤ i → i < 16 → (myVe t).pValid.getLsbD i = true) ∧
    (v.slots = 0 → (taken → v.pReady.get 0 (8 + (8 - (v.loop.pturn + 1).toNat) % 8) ≤ c.now) →
      ∃ t, exec (.vloop f) s = .next t ∧ (myVe t).loop.pass = pass ∧ (myVe t).pc = v.pc + 8 ∧ (myVe t).slots = 2 ∧
        ((myVe t).taken = true ↔ taken) ∧ (taken → (myVe t).npc = v.pc + BitVec.ofInt 64 (8 * f.aux.toInt)) ∧
        (¬taken → (myVe t).npc = v.pc + 24) ∧ (myVe t).v = v.v ∧ (myVe t).p = v.p ∧ MemoryKept s t)

/-! ## Sequencer words -/

/-- The words on the operand stack, in matrix, Lift and collective streams: with the entries they pop and room for those they push; too few or too many is
a sequencer-stack fault (03 R82, R83, 07 R446). Idle words, flags and repeated bodies of a sequencer stream: rep with 0 pops its count, a count of 0
skips the body, endr goes round until the passes are done, and a later pass of it takes no beat (03 R83, R86). In free mode a matrix stream's set or push waits for
the rows of its older aouts (11 R286). -/
def Obligations.SequencerWords : Prop :=
  (∀ (s : State) (v : BitVec 15) (k : BitVec 6),
    let st := (mySeq s).stack
    let a := nth 0 st 0
    let b := nth 0 st 1
    let leaves (i : Instr) (pops : Nat) (push : List Word) : Prop :=
      (pops ≤ st.length → st.length + (push.length - pops) ≤ 16 →
        exec i s = .next (seqDone 1 1 (modMySeq fun q => { q with stack := push ++ q.stack.drop pops }) s)) ∧
      (st.length < pops → exec i s = .next (seqStop (.trap 0x1F (0x100 + st.length)) s)) ∧
      (pops ≤ st.length → 16 < st.length + (push.length - pops) → exec i s = .next (seqStop (.trap 0x1F st.length) s))
    leaves (.lit v) 0 [BitVec.ofNat 64 v.toNat] ∧ leaves .cat 2 [BitVec.ofNat 64 (b.toNat * 2 ^ 15 + a.toNat % 2 ^ 15)] ∧
    leaves .dup 1 [a, a] ∧ leaves .drop 1 [] ∧ leaves .swap 2 [b, a] ∧ leaves .sadd 2 [b + a] ∧ leaves .sneg 1 [0 - a] ∧
    leaves (.sshl k) 1 [BitVec.ofNat 64 (a.toNat * 2 ^ k.toNat)]) ∧
  (∀ (s : State) (n : BitVec 8) (f : BitVec 6),
    let q := mySeq s
    let c := site (streamSite s) s
    let m := f.toNat
    let token : Prop := 16 ≤ m ∧ m < 32
    let mine : Prop := ownsFlag c (streamRink s) m = true
    let onSite (g : Site → Site) : Outcome State Fault Refusal := .next (seqDone 1 1 (modSite (streamSite s) g) s)
    let popped (q : Seq) : List Word := if n = 0 then q.stack.drop 1 else q.stack
    let count : Nat := if n = 0 then (nth 0 q.stack 0).toNat else n.toNat
    let skip := matchEndr (if s.cur.lift || s.cur.coll then 0xC700 else 0xAA00) 0 ((myWords s).drop (q.pc + 1)) 0
    exec (.seqIdle n) s = .next (seqDone (1 + n.toNat) 1 id s) ∧
    (q.stack ≠ [] → exec .idlew s = .next (seqDone (1 + (nth 0 q.stack 0).toNat) 1 (modMySeq fun q => { q with stack := q.stack.drop 1 }) s)) ∧
    (mine → flagReady c m = true → exec (.seqWaitf f false) s = onSite (consumeFlag m false)) ∧
    (mine → flagReady c m = true → ¬token → exec (.seqWaitf f true) s = onSite (clearFlag m)) ∧
    (mine → seqSigHit s m false = none → (token → flagReady c m = true) → exec (.seqSigf f false) s = onSite (clearFlag m)) ∧
    (mine → seqSigHit s m true = none → 16 ≤ m → pushRoom c m = true → exec (.seqSigf f true) s = onSite (setFlag m)) ∧
    (s.cur.coll = false → s.cur.lift = true → seqSigHit s m false = none ∧ seqSigHit s m true = none) ∧
    (inMatrix s = true → mine → (ctlOf c (myHead s)).timetabled = false →
      (∃ p ∈ c.pipe, p.stream = myHead s ∧ ∃ h b w r f16 clr fc t a l, p.act = .aoutRow h b w r f16 clr fc t a l) →
      exec (.seqSigf f true) s = .next (seqStop (.stall 1 m 0 (some m)) s)) ∧
    ((n = 0 → q.stack ≠ []) → count < 2 ^ 32 → q.reps.length < 4 →
      (0 < count → exec (.rep n) s = .next (seqDone 1 0 (modMySeq fun q =>
        { q with stack := popped q, pc := q.pc + 1, reps := ⟨q.pc + 1, count - 1, false⟩ :: q.reps }) s)) ∧
      (∀ k, count = 0 → skip = some k → exec (.rep n) s = .next (seqDone 1 0 (modMySeq fun q => { q with stack := popped q, pc := q.pc + 1 + k }) s))) ∧
    ((n = 0 → q.stack ≠ []) → count < 2 ^ 32 → 4 ≤ q.reps.length → exec (.rep n) s = .next (seqStop (.trap 0x1F (0x300 + q.stack.length)) s)) ∧
    (q.reps = [] → exec .endr s = .next (seqStop (.trap 0x1F (0x400 + q.stack.length)) s)) ∧
    (∀ r rs, q.reps = r :: rs → 0 < r.left → exec .endr s = .next (seqDone (if r.later then 0 else 1) 0 (modMySeq fun q =>
      { q with pc := r.start, reps := ⟨r.start, r.left - 1, true⟩ :: rs }) s)) ∧
    (∀ r rs, q.reps = r :: rs → r.left = 0 → exec .endr s = .next (seqDone (if r.later then 0 else 1) 0 (modMySeq fun q =>
      { q with pc := q.pc + 1, reps := rs }) s)))

/-- claim, release and the fill words move an operand slot of their own half between its states; a word on a slot in the wrong state is a fault (07 R197,
R198, R200). -/
def Obligations.SlotWordResults : Prop :=
  ∀ (s : State) (slot : BitVec 4), inMatrix s = true →
    let c := mySite s
    let q := mySeq s
    let here : Prop := decide (8 ≤ slot.toNat) = s.cur.half
    let n := slot.toNat % 8
    let v := slotOf c slot
    let x := homeCtx c (headRink c (halfHead s.cur.half))
    let flags (s : State) : State := modSite s.cur.site (modCtx x fun y => { y with fstat := y.fstat ||| v.flags }) s
    let wrong (i : Instr) : Prop := exec i s = .next (seqStop (.trap 0x21 (stateCode v.st * 256 + slot.toNat)) s)
    let fills (i : Instr) (kind : FillKind) : Prop :=
      (here → q.stack ≠ [] → v.st = .claimed → (((myHalf s).fills.filter fun f => f.started.isNone).length < 4) →
        ∃ t f, exec i s = .next t ∧ (myHalf t).fills = (myHalf s).fills ++ [f] ∧ f.kind = kind ∧ f.slot = n ∧ f.record = (nth 0 q.stack 0).toNat ∧
          f.issued = c.now ∧ f.started = none ∧ ((myHalf t).slots.get Slot.empty n).st = .filling ∧ (myHalf t).seq.stack = q.stack.drop 1 ∧
          (myHalf t).seq.pc = q.pc + 1 ∧ (ctxOf (mySite t) x).fstat = (ctxOf c x).fstat ||| v.flags) ∧
      (here → q.stack ≠ [] → v.st ≠ .claimed → wrong i)
    (here → v.st = .free → exec (.claim slot) s = .next (seqDone 1 1 (putSlot slot ⟨.claimed, .none, 0⟩) s)) ∧
    (here → v.st ≠ .free → wrong (.claim slot)) ∧
    (here → v.st = .claimed ∨ (v.st = .ready ∧ slotInUse c (s.cur.half, n) = false) →
      exec (.release slot) s = .next (seqDone 1 1 (fun s => putSlot slot Slot.empty (flags s)) s)) ∧
    (here → v.st = .free → wrong (.release slot)) ∧
    fills (.fill slot) .fill ∧ fills (.sfill slot) .sfill ∧ fills (.dfill slot) .dfill

/-- The matrix words: mnest writes a loop-nest register of the half, mgo arms a bank two beats ahead, promote and aclr act on its sums and accumulators,
aout queues its rows, and mend ends the stream (07 R202 to R204, R211 to R214). -/
def Obligations.MatrixWordResults : Prop :=
  ∀ (s : State) (p : BitVec 4) (whole acc tile bank : Bool), inMatrix s = true →
    let c := mySite s
    let h := s.cur.half
    let q := mySeq s
    let r := headRink c (halfHead h)
    let regs (v : Half) : Table Word := if bank then v.regsB else v.regsA
    let reg := (nth 0 q.stack 1).toNat
    let val := nth 0 q.stack 0
    let cfg := nestCfg (myHalf s) bank
    let goes (n : Nest) (w a : Bool) (period : Nat) : Prop := n.bank = bank ∧ n.whole = w ∧ n.accumulate = a ∧ n.period = period ∧ n.issued = c.now ∧
      n.started = false ∧ n.step = c.now + 2 ∧ n.idx = List.replicate cfg.nLevels 0 ∧ n.done = none
    (2 ≤ q.stack.length → nestReg reg = true → armed c h bank = false → reg ≠ 7 →
      ∃ t, exec (.mnest bank) s = .next t ∧ (regs (myHalf t)).get 0 reg = val &&& BitVec.ofNat 64 (nestMask reg) ∧
        (∀ g, g ≠ reg → (regs (myHalf t)).get 0 g = (regs (myHalf s)).get 0 g) ∧ (myHalf t).seq.stack = q.stack.drop 2 ∧
        (myHalf t).seq.pc = q.pc + 1) ∧
    (2 ≤ q.stack.length → reg = 7 → armed c h bank = false → halfTimed c h = false →
      firstHit (mgoHits c r h bank (val.getLsbD 3) 2) = none →
      ∃ t n, exec (.mnest bank) s = .next t ∧ (myHalf t).nests = (myHalf s).nests ++ [n] ∧
        goes n (val.getLsbD 3) (val.getLsbD 2) (field val.toNat 7 4 + 1)) ∧
    (2 ≤ q.stack.length → nestReg reg = false → exec (.mnest bank) s = .next (seqStop (.trap 1 0x2400) s)) ∧
    (armed c h bank = false → firstHit (mgoHits c r h bank whole 2) = none →
      ∃ t n, exec (.mgo p whole acc bank) s = .next t ∧ (myHalf t).nests = (myHalf s).nests ++ [n] ∧ goes n whole acc (p.toNat + 1) ∧
        (myHalf t).seq.pc = q.pc + 1 ∧ (myHalf t).ctl.next = c.now + 1) ∧
    (¬(h = true ∧ heldWhole c = true) →
      let running (v : Half) : Bool := v.nests.any fun n => n.started && n.done.isNone
      exec .promote s = .next (seqDone 1 1 (modMyHalf fun v => { v with promoteAt := if running v then some c.now else none }) s)) ∧
    (¬(h = true ∧ heldWhole c = true) → (∀ e ∈ wholeHits c r h whole 2, e = none) → (∀ hh ∈ halvesOf h whole, accBusy c hh bank = false) →
      exec (.aclr whole bank) s = .next (seqDone 1 1 (modMySite fun y => { y with pipe := y.pipe ++
        [⟨c.now + 2, c.now, halfHead h, none, r, false, .accClear h bank whole⟩] }) s)) ∧
    (¬(h = true ∧ heldWhole c = true) → (∀ e ∈ wholeHits c r h whole 2, e = none) → (∀ hh ∈ halvesOf h whole, accBusy c hh bank = false) →
      2 ≤ q.stack.length →
      let d := val.toNat
      let rows := reg % 128
      let row0 := field reg 13 8
      let len := (if bitOf reg 16 then 256 else 512) * (1 + b2n whole)
      reg < 2 ^ 18 → field reg 15 14 = 0 → bitOf reg 7 = false → 0 < rows → row0 + rows ≤ 64 → halfTimed c h = true →
      (tile = false → d % 4 = 0 → d < 2 ^ 24 → (∀ i < rows, tmCheck c r (d + len * i) len false (fun _ => false) 0 = none ∧
          conflict c (halfHead h) (c.now + 2 + i) [(d + len * i, len, true)] = none) →
        ∃ t, exec (.aout tile whole bank) s = .next t ∧ (myHalf t).seq.stack = q.stack.drop 2 ∧ (mySite t).pipe.length = c.pipe.length + rows ∧
          ∀ i < rows, ∃ e ∈ (mySite t).pipe, e.due = c.now + 2 + i ∧ actSpans e.act = [(d + len * i, len, true)]) ∧
      (tile = true → d < 16 → rows * len ≤ 8192 → ownsFlag c r d = true → tileEmpty c d = true →
        ∃ t, exec (.aout tile whole bank) s = .next t ∧ (myHalf t).seq.stack = q.stack.drop 2 ∧ (mySite t).pipe.length = c.pipe.length + rows ∧
          ∀ i < rows, ∃ e ∈ (mySite t).pipe, e.due = c.now + 2 + i)) ∧
    (q.stack = [] → q.reps = [] →
      exec .mend s = .next (seqDone 1 1 (modMyHalf fun v => { v with ctl := { v.ctl with running := false } }) s)) ∧
    (q.stack ≠ [] → exec .mend s = .next (seqStop (.trap 0x1F (0x200 + q.stack.length)) s)) ∧
    (q.stack = [] → q.reps ≠ [] → exec .mend s = .next (seqStop (.trap 0x1F (0x600 + q.stack.length)) s))

/-- The Lift words: lrec loads a record from the 16 halfwords that follow, the CRC words set and check the register, chain and lfence mark and order, and
lend ends the command (08 R218, R221, R229 to R231). copy and copyz: a copy of no elements moves nothing; once the near side is ready a copy goes on in
every beat with what it can move, and completes, or stands at its word until the next beat; an unready tile register holds the word (08 R222 to R228).
An element of a plain LQ copy is read from the far side and then written to its near address (08 R224, R225). That a beat moves at most 256 bytes, and that a copy of
no elements completes with its tile flag and token, are the model's choices (notes/assumptions/20.md). -/
def Obligations.LiftWords : Prop :=
  (∀ (s : State) (v : Run), s.cur.lift = true → s.cur.coll = false → myRun s = some v →
    let q := mySeq s
    let body := (((v.cmd.words).drop (v.seq.pc + 1)).take 16).flatMap halfBytes
    let a := nth 0 q.stack 0
    let pop (s : State) : State := modMySeq (fun q => { q with stack := q.stack.drop 1 }) s
    exec (.lrec false) s = .next (seqDone 1 17 (modMyRun fun y => { y with rec0 := some body }) s) ∧
    exec (.lrec true) s = .next (seqDone 1 17 (modMyRun fun y => { y with rec1 := some body }) s) ∧
    exec .chain s = .next (seqDone 1 1 (modMyRun fun y => { y with chained := true }) s) ∧
    exec .lfence s = .next (seqDone 1 1 id s) ∧
    (q.stack ≠ [] → exec .crcset s = .next (seqDone 1 1 (fun s => modMyRun (fun y => { y with crc := ⟨BitVec.ofNat 32 a.toNat, true⟩ }) (pop s)) s)) ∧
    (q.stack ≠ [] → v.crc.r = BitVec.ofNat 32 a.toNat → exec .crcchk s = .next (seqDone 1 1 pop s)) ∧
    (q.stack ≠ [] → v.crc.r ≠ BitVec.ofNat 32 a.toNat →
      ∃ t u, exec .crcchk s = .next t ∧ myRun t = some u ∧ u.fin = .dataError ∧ u.seq.pc = v.seq.pc) ∧
    (q.stack = [] → q.reps = [] → exec .lend s = .next (seqDone 1 1 endCommand s) ∧
      ∃ t u, exec .lend s = .next t ∧ myRun t = some u ∧ u.fin = .ended)) ∧
  (∀ (s : State) (v : Run) (c : Copy) (z tile tok : Bool) (fifo : BitVec 4), s.cur.lift = true → s.cur.coll = false → myRun s = some v →
    copyOf z tile v (mySite s) = some c →
    let arm := armLinj v.cmd.queue c.bytes (mySite s).obs
    let i : Instr := if z then .copyz tile tok fifo else .copy tile tok fifo
    let ready : Prop := (∀ h ∈ copyWaits tile tok c.r0 v s, h = none) ∧ ∀ h ∈ nearHits c s, h = none
    let first : Progress := ⟨0, 0, v.crc.r, arm.1, none, ⟨0, 0, 0, none⟩, [], [], none, 0⟩
    let armed := modMySite (modObs fun _ => arm.2) s
    (v.copy = none → ready → c.count = 0 → exec i s = .next (seqDone 1 1 (copyDone c tok fifo first) armed)) ∧
    (∀ p u, v.copy = none ∧ ready ∧ p = first ∧ u = armed ∨ v.copy = some p ∧ u = s → readsHost c = false ∨ v.host = .granted →
      (∀ q t, moveBeat (b2n s.cur.l1) c p 600 [] p u = .done q t → exec i s = .next (seqDone 1 1 (copyDone c tok fifo q) (countMoved c p q t))) ∧
      (∀ q t, moveBeat (b2n s.cur.l1) c p 600 [] p u = .wait q t →
        exec i s = .next (stayCopy (decide (q.off ≠ p.off ∨ q.put ≠ p.put)) q (modMyRun (fun v => { v with host := .none }) (countMoved c p q t))))) ∧
    (tile = true → v.copy = none → v.cmd.queue = 1 → flagReady (mySite s) (c.r0.tmaddr % 16) = false →
      exec i s = .next (seqStop (.stall 0 (c.r0.tmaddr % 16) 0 (some (c.r0.tmaddr % 16))) s)) ∧
    ∀ start p taken far taken' t1 t2 d, c.sq = false → c.tile = false → c.fromCode = false → c.toCode = false → 0 < c.r0.esz →
      let n := c.r0.esz
      let near := (nearAddr c.r0 (c.vector p.put)).toNat
      (p.got = [] → p.n < c.count → p.off < start.off + 256 → p.inj = none → c.run.crc.on = false → c.r0.idx = false → elementFar c (c.vector p.n) p = .ok far →
        askPorts (b2n s.cur.l1) (baseGroups c.rk c.far far n s) taken s = .ok (taken', t1) → baseRead c.rk c.far far n t1 = .ok (d, t2) →
        moveOnce (b2n s.cur.l1) c start taken p s = .on { p with n := p.n + 1, entry := none, got := d, off := p.off + d.length } taken' t2) ∧
      (n ≤ p.got.length → p.put < c.count → askPorts (b2n s.cur.l1) (byteGroups s.cur.site near n) taken s = .ok (taken', t1) →
        tmCheck (mySite t1) c.rk near n false (fun _ => false) 0 = none → t1.cur = s.cur →
        ∃ u, moveOnce (b2n s.cur.l1) c start taken p s = .on { p with entry := none, got := p.got.drop n, put := p.put + 1 } taken' u ∧
          (mySite u).tm = tmWrite near (p.got.take n) none (mySite t1).tm))

/-- The collective words: a descriptor that passes its checks starts its operation with its own data, one that fails ends at once with STATUS 0x01, and cwait
waits for the operations its command started (08 R232 to R236). -/
def Obligations.CollectiveWordResults : Prop :=
  ∀ (s : State) (v : Run) (opc : BitVec 3), s.cur.coll = true → myRun s = some v → (mySeq s).stack ≠ [] →
    let d := parseDesc (nth 0 (mySeq s).stack 0)
    let r := v.cmd.rink
    let pop (s : State) : State := modMySeq (fun q => { q with stack := q.stack.drop 1 }) s
    ∀ p ∈ [(Instr.csend, 0, 0), (.crecv, 1, 0), (.creduce opc, 2, opc.toNat), (.cgather, 3, 0), (.cbar, 4, 0)],
      let word := p.2.1
      let group := if 2 ≤ word then groupEntry r d.peer s else none
      let members := match group with
        | some (_, g, a) => memberList s a g
        | none => []
      let rank := match group with
        | some (k, _, _) => k
        | none => 0
      let targets := targetsOf word d rank members
      let copying : Prop := ∃ g k, group = some g ∧ k < g.2.1 ∧ remapping s (g.2.2 + 2 * k) = true
      let matches' (o : CollOp) (own : List Byte) : Prop := o.word = word ∧ o.op = p.2.2 ∧ o.peer = d.peer ∧ o.bytes = d.bytes ∧ o.members = members ∧
        o.rank = rank ∧ o.own = own ∧ o.site = v.site ∧ o.ctx = v.cmd.ctx ∧ o.status = none
      (copying → exec p.1 s = .next (seqStop (.stall 2 0 0 none) s)) ∧
      (¬copying → descOk word p.2.2 d v.cmd.bases r group targets s = false →
        ∃ o, matches' o [] ∧ exec p.1 s = .next (seqDone 1 1 (fun t => endOp r d.cnum 1 0 o (pop t)) s)) ∧
      (¬copying → descOk word p.2.2 d v.cmd.bases r group targets s = true → word = 1 ∨ word = 4 →
        ∃ o, matches' o [] ∧ exec p.1 s = .next (seqDone 1 1 (fun t => startOp r o d.cnum targets (pop t)) s)) ∧
      (∀ b own s1, ¬copying → descOk word p.2.2 d v.cmd.bases r group targets s = true → word ≠ 1 → word ≠ 4 → v.cmd.bases[d.src]? = some b →
        baseRead r b b.cap.cursor d.bytes { s with cur := { s.cur with site := v.site } } = .ok (own, s1) →
        ∃ o, matches' o own ∧ exec p.1 s = .next (seqDone 1 1 (fun t => startOp r o d.cnum targets (pop t)) { s1 with cur := s.cur })) ∧
      (openOps v s = false → exec .cwait s = .next (seqDone 1 1 id s)) ∧
      (openOps v s = true → exec .cwait s = .next (seqStop (.stall 0 0 0 none) s))

/-! ## Events of the hypervisor: rinks, ownership and claims -/

/-- The hypervisor's writes that create, end, suspend and resume a rink: a creation that fails its conditions, or an end before the rink is suspended, is
ignored and sets BAD; a created rink's flags, tile registers, accumulators, loop-nest registers, slots and tile-memory counters are cleared on its engines; an
ended rink owns nothing (15 R362, R364, R365). -/
def Obligations.RinkLifeEvents : Prop :=
  ∀ (s : State) (r : Nat) (val : Word),
    let q := rink r s
    let v := val.toNat
    let refused (i : Instr) : Prop := exec i s = .next (modRink r (fun q => { q with bad := true }) s)
    (q.valid = true → exec (.rinkCreate r val) s = .next s) ∧
    (q.valid = false → createOk r v s = false → refused (.rinkCreate r val)) ∧
    (q.valid = false → createOk r v s = true →
      ∃ t, exec (.rinkCreate r val) s = .next t ∧ (rink r t).valid = true ∧ (rink r t).vf.toNat = field v 46 40 ∧
        (rink r t).lead.toNat = field v 24 16 ∧ (rink r t).leadCtx = bitOf v 2 ∧ (rink r t).lane = bitOf v 3 ∧
        (∀ i, (rink r t).rtot.get 0 i = 0) ∧ t.mem = s.mem ∧ t.host = s.host ∧
        ∀ k ∈ sitesOf r s,
          (∀ f < 16, ownsFlag (site k s) r f = true → (site k t).flags.full.getLsbD f = false ∧ (site k t).tiles.get Table.empty f = Table.empty) ∧
          (∀ f < 16, ownsFlag (site k s) r (16 + f) = true → (site k t).flags.tokens.get 0 f = 0) ∧
          (∀ f < 32, ownsFlag (site k s) r (32 + f) = true → (site k t).flags.events.getLsbD f = false) ∧
          (∀ i < 5, (site k t).obs.tmCnt.get 0 (5 * b2n (setOf (site k s) r) + i) = 0) ∧
          ∀ h, owns (site k s) r (halfHead h) = true →
            let w := halfOf (site k t) h
            w.accA = Table.empty ∧ w.accB = Table.empty ∧ (∀ i, w.regsA.get 0 i = 0 ∧ w.regsB.get 0 i = 0) ∧
              ∀ i < 8, w.slots.get Slot.empty i = Slot.empty) ∧
    (q.valid = true → q.suspd = false → refused (.rinkDestroy r)) ∧
    (q.valid = true → q.suspd = true →
      ∃ t, exec (.rinkDestroy r) s = .next t ∧ (rink r t).valid = false ∧ (rink r t).susp = false ∧ (rink r t).suspd = false ∧
        (∀ k h, owns (site k t) r h = false) ∧ ∀ d e, (collEngine d e t).owner.rink?.map (·.toNat) ≠ some r) ∧
    (∃ t, exec (.rinkSuspend r) s = .next t ∧ (rink r t).susp = true ∧ (q.work.running = none → (rink r t).suspd = true) ∧
      (q.work.running ≠ none → (rink r t).suspd = q.suspd) ∧ (rink r t).work = q.work ∧ t.sites = s.sites ∧ t.mem = s.mem) ∧
    (∃ u, exec (.rinkUnsuspend r) s = .next (scheduleNext r u) ∧ (rink r u).susp = false ∧ (rink r u).suspd = false ∧ (rink r u).work = q.work)

/-- OWN, TMSHARE, the place and link tables, the patterns, RFAB and RLAND: what a write of the hypervisor changes when its conditions hold, and that it is
ignored, setting BAD, when they do not; a field keeps its number where it is written with V clear (00 R11, 10 R445, 15 R363, R367, R369, 16 R387, R389). That RLAND
holds LSLOT to 12 to 30 is the model's choice: the rule gives the range alone (notes/assumptions/36.md). -/
def Obligations.HypervisorTableEvents : Prop :=
  ∀ (s : State) (r k d c n : Nat) (val : Word),
    let q := rink r s
    let v := val.toNat
    let old := (site k s).own
    let named (h : Nat) : Option (BitVec 6) := if bitOf v (8 * h + 7) then some (BitVec.ofNat 6 (field v (8 * h + 5) (8 * h))) else none
    let stopped (p : BitVec 6) : Prop := (rink p.toNat s).valid = false ∨ (rink p.toNat s).suspd = true
    let ownAllowed : Prop := (∀ h < 7, ∀ p, named h = some p → named 0 = some p ∨ named 1 = some p) ∧
      (∀ h < 7, ownField old h ≠ named h → ∀ p, ownField old h = some p ∨ named h = some p → stopped p) ∧
      ∀ a b, named 0 = some a → named 1 = some b → a ≠ b → (rink a.toNat s).lane ≠ (rink b.toNat s).lane
    let split := min (v % 4096) 3072
    let splitAllowed : Prop := (∀ h < 7, ∀ p, ownField old h = some p → stopped p) ∧
      ∀ a b, old.ctx0.rink? = some a → old.ctx1.rink? = some b → a ≠ b → ∀ g ∈ (site k s).tm.regions,
        (g.rink = a.toNat → g.base + g.size ≤ 4096 * split) ∧ (g.rink = b.toNat → 4096 * split ≤ g.base)
    let mayConf : Prop := q.valid = false ∨ q.suspd = true
    let entry : Place :=
      { v := bitOf v 63, skew := field v 55 48, ltrim := field v 47 40, row := field v 31 24, col := field v 23 16, site := field v 8 0 }
    let refused (i : Instr) : Prop := exec i s = .next (modRink r (fun q => { q with bad := true }) s)
    let pattern : BitVec 16 := if BitVec.ofNat 16 v = 0 then 1 else BitVec.ofNat 16 v
    (ownAllowed → ∃ t, exec (.ownWrite k val) s = .next t ∧ (∀ h < 7, ownField (site k t).own h = named h) ∧
      (site k t).own.ve = ⟨bitOf v 23, BitVec.ofNat 6 (field v 21 16)⟩ ∧ (site k t).tm = (site k s).tm ∧
      (site k t).flags = (site k s).flags ∧ t.rinks = s.rinks) ∧
    (¬ownAllowed → ∃ t, exec (.ownWrite k val) s = .next t ∧ (site k t).own = { old with bad := true } ∧ t.rinks = s.rinks) ∧
    (splitAllowed → ∃ t, exec (.tmshareWrite k val) s = .next t ∧ (site k t).tm.split.toNat = split ∧ (site k t).own = old) ∧
    (¬splitAllowed → ∃ t, exec (.tmshareWrite k val) s = .next t ∧ (site k t).tm = (site k s).tm ∧ (site k t).own = { old with bad := true }) ∧
    (n < 272 →
      (mayConf → entry.v = true → siteFailed entry.site s = true → refused (.placeEntryWrite r (0x400 + 8 * n) val)) ∧
      (mayConf → (entry.v = true → siteFailed entry.site s = false) →
        ∃ t, exec (.placeEntryWrite r (0x400 + 8 * n) val) s = .next t ∧ (rink r t).place.get Place.reset n = entry ∧
          (∀ m, m ≠ n → (rink r t).place.get Place.reset m = q.place.get Place.reset m) ∧ (rink r t).bad = q.bad) ∧
      (¬mayConf → refused (.placeEntryWrite r (0x400 + 8 * n) val))) ∧
    (n < 12 → mayConf → ∃ t, exec (.placeEntryWrite r (0xD00 + 8 * n) val) s = .next t ∧
      (rink r t).link.get PortEntry.none n = ⟨bitOf v 7, BitVec.ofNat 4 v⟩ ∧ (rink r t).bad = q.bad) ∧
    (∃ t, exec (.cpatWrite d c val) s = .next t ∧
      (clusterBusy d c s = false → (die d t).cpat.get 0xFFFF c = pattern ∧ (die d t).cpatLock.get false c = bitOf v 16) ∧
      (clusterBusy d c s = true → (die d t).cpat = (die d s).cpat ∧ (die d t).cpatHeld.get none c = some (pattern, bitOf v 16))) ∧
    (∀ p, (die d s).cpatHeld.get none c = some p →
      (clusterBusy d c s = true → exec (.cpatApply d c) s = .next s) ∧
      (clusterBusy d c s = false → p.1 ≠ 0 → ∃ t, exec (.cpatApply d c) s = .next t ∧ (die d t).cpat.get 0xFFFF c = p.1 ∧
        (die d t).cpatLock.get false c = p.2 ∧ (die d t).cpatHeld.get none c = none)) ∧
    (q.valid = true → (∃ e ∈ s.rinks.cells, e.1 ≠ r ∧ e.2.valid = true ∧ e.2.rfab = some (BitVec.ofNat 16 v)) → bitOf v 16 = true → refused (.rfabWrite r val)) ∧
    ((q.valid = true → bitOf v 16 = true → ∀ e ∈ s.rinks.cells, e.1 ≠ r → e.2.valid = true → e.2.rfab ≠ some (BitVec.ofNat 16 v)) →
      ∃ t, exec (.rfabWrite r val) s = .next t ∧ (rink r t).rfab = (if bitOf v 16 then some (BitVec.ofNat 16 v) else none) ∧
        (rink r t).rfabFid = BitVec.ofNat 16 v ∧ (rink r t).bad = q.bad) ∧
    (let w := windowOf (field v 21 16) s
     (w.valid = true → w.owner.toNat = r →
      ∃ t, exec (.rlandWrite r val) s = .next t ∧ bitOf (rink r t).rland.toNat 63 = bitOf v 63 ∧ field (rink r t).rland.toNat 21 16 = field v 21 16 ∧
        field (rink r t).rland.toNat 4 0 = max 12 (min 30 (field v 4 0))) ∧
     (¬(w.valid = true ∧ w.owner.toNat = r) → refused (.rlandWrite r val)))

/-- The claims on counter banks and trace units: a request waits for the decision of the core's arbiter in its cycle, a claim by a rink that owns no
engine of the core is ignored, and of one cycle a revoke comes first, then a release by the holder, then the PF's claim, then the claim of the lowest-numbered
requester; the snapshot triggers and the trace unit's own events (15 R373, R375, R379). That a release and a claim of one cycle leave the claim free is the model's
choice (notes/assumptions/39.md). -/
def Obligations.ObservationEvents : Prop :=
  ∀ (s : State) (who : Requester) (r k n d : Nat),
    let claim (t : State) : Claim := (site k t).obs.claims.get Claim.free n
    let old := claim s
    let owner : Prop := match who with
      | .pf => True
      | .rink p => ∃ h < 7, owns (site k s) p h = true
    let latches (t : State) (k : Nat) : Prop := (site k t).obs.snapReq.isSome = true
    let records := (site k s).obs.trQ
    let asks (i : Instr) (op : Nat) (w : Requester) : Prop := ∃ t q, exec i s = .next t ∧ (site k t).obs.asked = (site k s).obs.asked ++ [q] ∧
      q.claim = n ∧ q.op = op ∧ (match w with
        | .pf => q.hv = true
        | .rink p => q.hv = false ∧ q.rink = p ∧ q.num = 2 * k + b2n (setOf (site k s) p)) ∧ claim t = old
    let qs := (site k s).obs.asked.filter (·.claim == n)
    let revoked : Prop := ∃ q ∈ qs, q.op = 3
    let released : Prop := ∃ q ∈ qs, q.op = 2 ∧ q.hv = old.hv ∧ (q.hv = true ∨ q.rink = old.rink)
    let u := arbitrate k n s
    (n < 3 → owner → asks (.perfClaim who k n) 1 who) ∧ (¬owner → exec (.perfClaim who k n) s = .next s) ∧
    (n < 3 → asks (.perfRelease who k n) 2 who) ∧ (n < 3 → asks (.perfRevoke k n) 3 .pf) ∧
    ((site k u).obs.banks = (site k s).obs.banks ∧ (qs = [] → u = s) ∧
      (revoked → (claim u).held = true ∧ (claim u).hv = true ∧ (claim u).frozen = true ∧
        (old.held = true → old.hv = false → (rink old.rink u).revoked = true)) ∧
      (¬revoked → old.held = true → (released → claim u = Claim.free) ∧ (¬released → claim u = old)) ∧
      (¬revoked → old.held = false → (∃ q ∈ qs, q.op = 1 ∧ q.hv = true) → claim u = ⟨true, true, false, 0⟩) ∧
      (∀ q ∈ qs, ¬revoked → old.held = false → (∀ p ∈ qs, p.op = 1 → p.hv = false ∧ (p = q ∨ q.num < p.num)) → q.op = 1 → claim u = ⟨true, false, false, q.rink⟩)) ∧
    (who = .pf ∨ who = .rink r → ∃ t, exec (.snaptrigRink who r) s = .next t ∧ (∀ j ∈ sitesOf r s, latches t j) ∧
      (∀ j, j ∉ sitesOf r s → (site j t).obs = (site j s).obs) ∧ (die 0 t).snapReq.isSome = true ∧ (die 1 t).snapReq.isSome = true) ∧
    (∃ t, exec (.snaptrigDie d) s = .next t ∧ (∀ j < 288, latches t j) ∧ (die 0 t).snapReq.isSome = true ∧ (die 1 t).snapReq.isSome = true) ∧
    (∃ t, exec (.traceSample k) s = .next t ∧ ∃ l, (site k t).obs.trQ = records ++ l ∧
      ∀ h < 5, (ctlOf (site k s) h).running = true → traces (site k s) (headRink (site k s) h) = true →
        (site k s).obs.trctl.getLsbD (32 + h) = true → ((site k s).now, traceRecord (site k s) h 1) ∈ l) ∧
    (∀ e es, records = e :: es → e.1 + 64 ≤ (site k s).now ∨ traceSlot (site k s) = none →
      ∃ t, exec (.traceRecordDrop k) s = .next t ∧ (site k t).obs.trQ = es ∧ (site k t).obs.trDrop = (site k s).obs.trDrop + 1) ∧
    (∀ e es, records = e :: es → (site k s).now < e.1 + 64 → traceSlot (site k s) ≠ none →
      ∃ t, exec (.traceRecordDrop k) s = .next t ∧ (site k t).obs.trQ = records)

/-! ## Lifetimes, power and retention -/

/-- Ticks, band changes, expiry by policy, and the refreshes the device places (10 R262, R264 to R266, R269, R271 to R274): a forced one in the next beat in which no
refresh of its bank is placed yet. That a group expiry handles every expired group of its region at once, that a held refresh is counted when it is performed, and
that a refresh in Hold needs no bank, are the model's choices (notes/assumptions/33.md). -/
def Obligations.LifetimeEvents : Prop :=
  ∀ (s : State) (k d g : Nat),
    let c := site k s
    (∃ t, exec (.tick d) s = .next t ∧ ((∀ j, 144 * d ≤ j → j < 144 * d + 144 → keeps j s = true) →
      ∀ j, 144 * d ≤ j → j < 144 * d + 144 → site j t = { site j s with tm := { (site j s).tm with ticks := (site j s).tm.ticks + 1 } })) ∧
    (let start := { c.tm with ticks := 0 }
     c.tm.ticks = 1 → (∀ q ∈ c.tm.regions, ∀ m ∈ regionGroups q, expired { c with tm := tickTm c.tm.written start } q m = false) →
      let t := settleTicks k s
      (site k t).tm.bytes = c.tm.bytes ∧ (site k t).tm.ticks = 0 ∧ ∀ m,
        let v := groupOf c m
        let older := if m ∈ c.tm.written then v.age else min 2047 (v.age + 1)
        let waits := if v.soft then v.queued else v.queued.map (· + 1)
        groupOf (site k t) m = (if v.valid then { v with age := older, queued := waits } else v)) ∧
    ((die d s).falling = true → 1000 ≤ (die d s).below → ∃ t, exec (.bandFall d) s = .next t ∧ (die d t).band = (die d s).target ∧
      (die d t).falling = false) ∧
    (¬((die d s).falling = true ∧ 1000 ≤ (die d s).below) → ∃ t, exec (.bandFall d) s = .next t ∧ die d t = die d s) ∧
    (∀ q, groupRegion c g = some q →
      let gone := (regionGroups q).filter (expired c q)
      let x := ctxOf c q.owner
      let count (t : State) (i : Nat) : BitVec 48 := (site k t).obs.tmCnt.get 0 (5 * b2n (setOf c q.rink) + i)
      let queued (frz : Bool) : Prop := ∃ t, exec (.groupExpiry k g) s = .next t ∧ (site k t).tm.bytes = c.tm.bytes ∧ ∀ m,
        groupOf (site k t) m = (if m ∈ gone then { groupOf c m with queued := some 0, hold := frz, soft := false } else groupOf c m)
      let dropped (t : State) : Prop := (∀ m ∈ gone, (groupOf (site k t) m).valid = false ∧ (groupOf (site k t) m).age = 0) ∧
        (∀ m, m ∉ gone → groupOf (site k t) m = groupOf c m)
      (expired c q g = false → exec (.groupExpiry k g) s = .next s) ∧
      (expired c q g = true → expirySuspended s c q.rink = true → queued true) ∧
      (expired c q g = true → expirySuspended s c q.rink = false → q.policy = .refresh → queued false) ∧
      (expired c q g = true → expirySuspended s c q.rink = false → q.policy = .drop → ∃ t, exec (.groupExpiry k g) s = .next t ∧ dropped t ∧
        count t 3 = BitVec.ofNat 48 (satAdd 48 (count s 3).toNat gone.length)) ∧
      (expired c q g = true → expirySuspended s c q.rink = false → q.policy = .trap → x.ctl.running = true → x.trap.handler = false →
        x.ctl.timetabled = false → ∃ t, exec (.groupExpiry k g) s = .next t ∧ dropped t ∧
          count t 4 = BitVec.ofNat 48 (satAdd 48 (count s 4).toNat gone.length) ∧
          (ctxOf (site k t) q.owner).trap.pend =
            x.trap.pend ++ [⟨0x1A, min gone.length 15 * 4096 + gone.foldl min (gone.headD 0), true⟩]) ∧
      ((groupOf c g).queued.isSome = true → (groupOf c g).valid = true → refreshPlaced c g = false → bankFree c g = true ∨ s.power.st = .hold →
        spoiled c.tm (4096 * g) 4096 = none → ∃ t, exec (.policyRefresh k g) s = .next t ∧
          groupOf (site k t) g = { groupOf c g with age := 0, queued := none, hold := false, soft := false } ∧
          (site k t).tm.bytes = c.tm.bytes ∧ g ∈ (site k t).tm.written ∧
          let i := if (groupOf c g).hold then 2 else 0
          count t i = BitVec.ofNat 48 (satAdd 48 (count s i).toNat 1)) ∧
      (mustRefresh c g = true → s.power.st ≠ .hold → ∃ t, exec (.forcedRefresh k g) s = .next t ∧ (site k t).tm = c.tm ∧
        let placed := c.pipe.filter fun p => p.stream == 9 && (match p.act with
          | .refresh m => m % 16 == g % 16
          | _ => false)
        (site k t).pipe = c.pipe ++ [⟨c.now + 1 + placed.length, c.now, 9, none, q.rink, false, .refresh g⟩])) ∧
    ((groupOf c g).queued = none ∨ refreshPlaced c g = true ∨ bankFree c g = false ∧ s.power.st ≠ .hold → exec (.policyRefresh k g) s = .next s)

/-- What the storage errors that lie in a core and in off-chip memory do (10 R262, 14 R354, 18 R410, R420, R421): a read of TM that meets an uncorrectable one
is a fatal soft-error trap, invalidates the group and logs the first of them; a correctable one is counted, and its group asks for a refresh; a refresh
corrects a group, or invalidates it; a granule with an uncorrectable error cannot be read; a slot becomes Free. How errors come is not the model's
(notes/assumptions/32.md). -/
def Obligations.StorageErrors : Prop :=
  ∀ (s : State) (k a n : Nat) (h x : Bool),
    let c := site k s
    let spoils (t : State) (place index : Nat) : Prop :=
      (site k t).obs.serru = (if c.obs.serru.getLsbD 63 then c.obs.serru else BitVec.ofNat 64 (2 ^ 63 + place * 2 ^ 60 + index % 2 ^ 24))
    let t := softError k a s
    (∀ r g e, a + n ≤ 0xC00000 → 0 < n → (∀ x, a ≤ x → x < a + n → regionAt c r x = some g ∧ (groupOf c (x / 4096)).valid = true) → g.compressed = false →
      spoiled c.tm a n = some e →
      tmCheck c r a n true (fun _ => false) 0 = some (.softTrap none e) ∧ tmCheck c r a n false (fun _ => false) 0 = none) ∧
    ccStop (.softTrap (some k) a) s = takeTrap false 0x2D 0 false t ∧ classFatal true 0x2D 0 = true ∧ classFatal false 0x2D 0 = true ∧
    (groupOf (site k t) (a / 4096)).valid = false ∧ (∀ g, g ≠ a / 4096 → groupOf (site k t) g = groupOf c g) ∧ spoils t 0 a ∧
    (∀ b, b / 4096 ≠ a / 4096 → (site k t).tm.bytes.read b = c.tm.bytes.read b) ∧
    (let u := corrected a n c
     let es := errorsIn 1 a n c.tm.errs
     u.tm.bytes = c.tm.bytes ∧ u.tm.errs = c.tm.errs ∧ u.obs.serrc = (if es = [] then c.obs.serrc else BitVec.ofNat 48 (satAdd 48 c.obs.serrc.toNat es.length)) ∧
       ∀ e ∈ es, (groupOf c (e / 512)).valid = true → (groupOf u (e / 512)).queued.isSome = true) ∧
    (∀ q, groupRegion c a = some q → (groupOf c a).queued.isSome = true → (groupOf c a).valid = true → refreshPlaced c a = false → bankFree c a = true →
      ∃ t, exec (.policyRefresh k a) s = .next t ∧
        (∀ e, spoiled c.tm (4096 * a) 4096 = some e → (groupOf (site k t) a).valid = false ∧ spoils t 0 e) ∧
        (spoiled c.tm (4096 * a) 4096 = none → (groupOf (site k t) a).valid = true ∧ errorsIn 1 (4096 * a) 4096 (site k t).tm.errs = [])) ∧
    (∀ key ia, memErrors 2 a s ≠ [] → offRead s key a ia n = none) ∧
    (n < 8 → ∃ u, slotFailure k h (x, n) s = halfStop k h (.trap 0x2D 0) u ∧ (slotAt (site k u) x n).st = .free ∧ spoils u 1 (8 * b2n x + n))

/-- The operating-point table, the votes, the target and the switch of the clock, the voltage ramp and the supply monitor (19 R428 to R434). That the rails move a
millivolt at a time, and for a changed VOLT of the point in force only with the target, are the model's choices (notes/assumptions/35.md). -/
def Obligations.OperatingPointEvents : Prop :=
  ∀ (s : State) (r k draw capacity : Nat) (val : Word),
    let p := s.power
    let q := rink r s
    let v := val.toNat
    let f := field v 31 16
    let u := field v 15 0
    let allowed : Prop := k < 8 ∧ 2000 ≤ f ∧ f ≤ 4000 ∧ 550 ≤ u ∧ u ≤ 850 ∧ (k ≠ 0 → p.freq.get 0 (k - 1) ≤ f ∧ p.volt.get 0 (k - 1) ≤ u) ∧
      (k ≠ 7 → f ≤ p.freq.get 0 (k + 1) ∧ u ≤ p.volt.get 0 (k + 1))
    let switches : Prop := s.cycle % 16 = 0 ∧
      (p.target < p.cur ∨ (p.cur < p.target ∧ p.ramping = false ∧ p.vnow = p.volt.get 0 p.target))
    let sampled (b : Nat) : Prop := ∃ t, exec (.supplyMonitorSample draw capacity) s = .next t ∧
      t.power.trackMilli = max (1000 * draw) (p.trackMilli - p.ramp) ∧ t.power.burnMilli = b ∧
      t.power.ballast = min b (1000 * capacity) / 1000 ∧ t.power.draw = draw + t.power.ballast ∧ t.power.cur = p.cur
    (allowed → ∃ t, exec (.optabWrite k val) s = .next t ∧ t.power.freq.get 0 k = f ∧ t.power.volt.get 0 k = u ∧
      ∀ j, j ≠ k → t.power.freq.get 0 j = p.freq.get 0 j ∧ t.power.volt.get 0 j = p.volt.get 0 j) ∧
    (¬allowed → exec (.optabWrite k val) s = .next s) ∧
    (k ≠ r → exec (.rvoteWrite (.rink k) r val) s = .next s) ∧
    (∃ t, exec (.rvoteWrite (.rink r) r val) s = .next t ∧ (rink r t).voteOp.toNat = min (v % 8) q.voteCap.toNat ∧ (rink r t).votePend = true ∧
      (rink r t).voteEff = q.voteEff ∧ (rink r t).voteCap = q.voteCap) ∧
    (∃ t, exec (.rvoteWrite .pf r val) s = .next t ∧ (rink r t).voteCap.toNat = field v 10 8 ∧ (rink r t).voteOp = q.voteOp ∧
      (rink r t).votePend = q.votePend ∧ (rinkRuns q = true → (rink r t).voteEff = q.voteEff) ∧
      (rinkRuns q = false → (rink r t).voteEff.toNat = min q.voteEff.toNat (field v 10 8))) ∧
    (∃ t, exec .operatingPointChange s = .next t ∧ t.power.cur = p.cur ∧ t.power.fnow = p.fnow ∧ t.power.vnow = p.vnow ∧
      ((∀ e ∈ s.rinks.cells, rinkRuns e.2 = false) → t.power.target = p.idle) ∧
      ((∃ e ∈ s.rinks.cells, rinkRuns e.2 = true) →
        (∀ e ∈ s.rinks.cells, rinkRuns e.2 = true → e.2.voteEff.toNat ≤ t.power.target) ∧
        ∃ e ∈ s.rinks.cells, rinkRuns e.2 = true ∧ e.2.voteEff.toNat = t.power.target) ∧
      (t.power.ramping = true ↔ p.cur ≤ t.power.target ∧ p.vnow ≠ p.volt.get 0 t.power.target ∧
        (p.ramping = true ∨ t.power.target ≠ p.target ∨ p.cur < t.power.target))) ∧
    (switches → ∃ t, exec .clockSwitch s = .next t ∧ t.power.cur = p.target ∧ t.power.fnow = p.freq.get 0 p.target ∧ t.power.vnow = p.vnow ∧
      (p.vnow ≠ p.volt.get 0 p.target → t.power.ramping = true)) ∧
    (¬switches → exec .clockSwitch s = .next s) ∧
    (let reached : Prop := p.ramping = true ∧ p.cur ≤ p.target ∧ p.vnow = p.volt.get 0 p.target
     (reached → ∃ t, exec .voltageRampDone s = .next t ∧ t.power.vnow = p.vnow ∧ t.power.ramping = false ∧ t.power.cur = p.cur) ∧
     (¬reached → exec .voltageRampDone s = .next s)) ∧
    (let moved := slewRails p
     let goal := p.volt.get 0 p.target
     moved.cur = p.cur ∧ moved.target = p.target ∧ (p.ramping = false ∨ p.target < p.cur → moved = p) ∧
     (p.ramping = true → p.cur ≤ p.target →
       (p.vnow < goal → p.fnow * moved.vnow + moved.slew = p.fnow * p.vnow + p.slew + 5) ∧
       (goal < p.vnow → p.fnow * moved.vnow + p.slew + 5 = p.fnow * p.vnow + moved.slew))) ∧
    (p.ballastEn = true ∧ someRinkRuns s = true → sampled (max (1000 * p.floor) (max (1000 * draw) (p.trackMilli - p.ramp)) - 1000 * draw)) ∧
    (¬(p.ballastEn = true ∧ someRinkRuns s = true) → sampled (p.burnMilli - p.ramp))

/-- Temperature samples with their alarm and trip, Hold, Retention entry, its completion and resumption, warm reset and Off (00 R6, 10 R267, R269, 18 R426,
19 R435 to R440). That Hold comes once every cluster has had 4,096 kept beats with nothing active, that Off keeps the remaps made and the spares left, and what a warm
reset keeps, are the model's choices (notes/assumptions/35.md). -/
def Obligations.PowerStateEvents : Prop :=
  ∀ (s : State) (d us : Nat) (celsius : Int),
    let p := s.power
    let band := (die d s).band.toNat
    let rested : Prop := ∀ e ∈ p.idleBeats.cells, 4096 ≤ e.2
    let sampled := if celsius ≤ 25 then 0 else min 15 ((celsius - 21) / 5).toNat
    let enters (i : Instr) (cause : Nat) : Prop :=
      (p.st = .run ∨ p.st = .hold ∨ p.st = .resuming →
        ∃ t, exec i s = .next t ∧ t.power.st = .entering ∧ t.power.cause = cause ∧ t.power.resumeAsked = false) ∧
      (p.st = .entering ∨ p.st = .retention ∨ p.st = .off → exec i s = .next s)
    let resumes (i : Instr) : Prop :=
      (p.st = .retention → ∃ t, exec i s = .next t ∧ t.power.st = .resuming ∧ t.mem = s.mem ∧ t.rinks = s.rinks) ∧
      (p.st = .entering → ∃ t, exec i s = .next t ∧ t.power.st = .entering ∧ t.power.resumeAsked = true) ∧
      (p.st ≠ .retention → p.st ≠ .entering → exec i s = .next s)
    (∃ t, exec (.temperatureSample d celsius) s = .next t ∧
      (band ≤ sampled → (die d t).band.toNat = sampled ∧ (die d t).falling = false ∧ (die d t).below = 0) ∧
      (sampled < band → (die d t).band = (die d s).band ∧ (die d t).falling = true ∧ (die d t).below = (die d s).below + 1 ∧
        (die d t).target.toNat = (if (die d s).falling then max (die d s).target.toNat sampled else sampled)) ∧
      (band < 15 → sampled = 15 → t.power.hot = true) ∧
      (105 ≤ celsius → p.st = .run ∨ p.st = .hold ∨ p.st = .resuming → t.power.st = .entering ∧ t.power.cause = 3) ∧ (celsius < 105 → t.power.st = p.st)) ∧
    (p.st = .run → rested → ∃ t, exec .holdEntry s = .next t ∧ t.power.st = .hold ∧ t.sites = s.sites ∧ t.rinks = s.rinks) ∧
    (¬(p.st = .run ∧ rested) → exec .holdEntry s = .next s) ∧
    (p.st = .hold → ∃ t, exec .holdExit s = .next t ∧ t.power.st = .run ∧ t.sites = s.sites ∧ t.rinks = s.rinks) ∧
    (p.st ≠ .hold → exec .holdExit s = .next s) ∧
    enters .pgoodWarnNFall 1 ∧ enters .retctlEnter 2 ∧
    (p.st ≠ .entering → exec .retentionDeadline s = .next s) ∧
    (∀ r q, p.st = .entering → s.rinks.cells.filter (·.2.valid) = [(r, q)] → rink r s = q → q.colls.cells = [] →
      (q.work.running = none → exec .retentionDeadline s = .next (worldSwitch r s)) ∧
      (∀ c k x, q.work.running ≠ none → q.recov.checkpoint = some c → seqSite r s = some (k, x) → stoppedAtGate r s = true →
        ∀ t, saveJob r c.sLive.toNat c.aLive.toNat c.pos.toNat (loadCheckpoint (site k s).now c (ctxOf (site k s) x)) s = some t →
          exec .retentionDeadline s = .next t)) ∧
    (p.st = .entering → (∀ e ∈ s.rinks.cells, e.2.work.running = none) → ∃ t, exec (.retentionComplete us) s = .next t ∧
      t.power.st = (if p.resumeAsked then .resuming else .retention) ∧ t.power.entryUs = us ∧ t.power.ballast = p.ballast ∧
      t.power.burnMilli = p.burnMilli ∧ t.mem = s.mem ∧ t.host = s.host ∧
      (∀ r, { rink r t with colls := (rink r s).colls } = rink r s) ∧ t.keys = s.keys ∧ t.counters = s.counters ∧ ∀ k, (site k t).own = (site k s).own ∧
        (site k t).tm.retired = (site k s).tm.retired ∧ (site k t).tm.bytes = Table.empty ∧ (∀ h, (ctlOf (site k t) h).running = false)) ∧
    (p.st ≠ .entering ∨ (∃ e ∈ s.rinks.cells, e.2.work.running ≠ none) → exec (.retentionComplete us) s = .next s) ∧
    resumes .retctlResume ∧ (p.autoResume = true → resumes .pgoodStable) ∧ (p.autoResume = false → exec .pgoodStable s = .next s) ∧
    (p.st = .resuming → ∃ t, exec .retentionResume s = .next t ∧ t.power.st = .run ∧ t.power.cur = p.idle ∧ t.power.target = p.idle ∧
      t.power.fnow = p.freq.get 0 p.idle ∧ t.power.vnow = p.volt.get 0 p.idle ∧ (∀ d, (die d t).band = 15) ∧ t.rinks = s.rinks ∧ t.mem = s.mem) ∧
    (∃ t, exec .warmReset s = .next t ∧ t.rinks = State.reset.rinks ∧ t.windows = State.reset.windows ∧ t.power = State.reset.power ∧
      t.keys = s.keys ∧ t.mem = s.mem ∧ t.counters = s.counters ∧ ∀ k, (site k t).own = Site.reset.own ∧
        (site k t).tm.retired = (site k s).tm.retired ∧ (site k t).tm.bytes = Table.empty ∧ (∀ h, (ctlOf (site k t) h).running = false)) ∧
    (∃ t, exec .powerOff s = .next t ∧ t.power.st = .off ∧ t.mem = State.reset.mem ∧ t.rinks = State.reset.rinks ∧
      t.pcremap.left = s.pcremap.left ∧ t.pcremap.made = s.pcremap.made ∧ t.pcremap.going = none ∧ t.pcremap.stack = 0 ∧ t.pcremap.pc = 0 ∧
      ∀ k, (site k t).tm.retired = (site k s).tm.retired ∧ (∀ h, (ctlOf (site k t) h).running = false))

/-! ## Jobs, the host and the hypervisor -/

/-- A job's path: GO with its checks, acceptance with its record, cancellation, the start of a granted job on the Rink Sequencer, the reset of a function, and the
operator's length (13 R320 to R323, R326 to R330). That a function reset
also empties the slots' queues and the waiting GO writes, and that a graph at an address that is no word's starts at the word below, are the model's choices
(notes/assumptions/30.md, notes/assumptions/42.md). A GO write with relaxed ordering clear passes no earlier write of its function that waits (13 R329). -/
def Obligations.JobEvents : Prop :=
  ∀ (s : State) (fn slot r : Nat) (jctl : Word) (relaxed : Bool),
    let f := fnOf fn s
    let sl := f.slots.get JobSlot.reset slot
    let slotIn (t : State) : JobSlot := (fnOf fn t).slots.get JobSlot.reset slot
    let cancels := bitOf jctl.toNat 3
    let go := exec (.jobGo fn slot jctl relaxed) s
    let passes : Prop := relaxed = true ∨ ∀ q ∈ s.held, q.fn ≠ fn
    (¬passes → ∃ q : HostRequest, go = .next { s with held := s.held ++ [q] } ∧ q.fn = fn ∧ q.relaxed = false) ∧
    (passes → cancels = false → f.en = false → ∃ t, go = .next t ∧ (fnOf fn t).refcnt.toNat = satAdd 32 f.refcnt.toNat 1 ∧ (fnOf fn t).goWait = f.goWait ∧
      (slotIn t).queue = sl.queue) ∧
    (passes → cancels = false → f.en = true → f.goWait = [] → ¬(relaxed = true ∧ f.rostrict = true) → sl.queue.length < 4 →
      ∃ t g, go = .next t ∧ (fnOf fn t).goWait = [g] ∧ g.slot = slot ∧ g.checked = true ∧ g.jgraph = sl.jgraph ∧ g.jarg = sl.jarg ∧
        g.arglen.toNat = field jctl.toNat 47 32 ∧ g.prio.toNat = jctl.toNat % 4 ∧
        (fnOf fn t).rocnt.toNat = (if relaxed then satAdd 32 f.rocnt.toNat 1 else f.rocnt.toNat) ∧ (slotIn t).queue = sl.queue) ∧
    (passes → cancels = false → f.en = true → f.goWait = [] → (relaxed = true ∧ f.rostrict = true) ∨ 4 ≤ sl.queue.length →
      ∃ t, go = .next t ∧ (fnOf fn t).goWait = [] ∧ (slotIn t).queue = sl.queue ∧
        (openJobs f + 1 ≤ journalFree f → (fnOf fn t).jhead = f.jhead + 1 ∧ (fnOf fn t).refcnt = f.refcnt) ∧
        (journalFree f < openJobs f + 1 → (fnOf fn t).jhead = f.jhead ∧ (fnOf fn t).refcnt.toNat = satAdd 32 f.refcnt.toNat 1)) ∧
    (∀ g, f.goWait = [g] → g.checked = true → g.slot = slot → slot < 8 → openJobs f + 2 ≤ journalFree f →
      ∃ t j, exec (.jobAcceptance fn slot) s = .next t ∧ (slotIn t).queue = sl.queue ++ [j] ∧
        (slotIn t).seq = (if sl.seq = 0xFFFFFFFF then 1 else sl.seq + 1) ∧ j.seq = (slotIn t).seq.toNat ∧ j.prio = g.prio.toNat ∧
        j.jgraph = g.jgraph.toNat ∧ j.jarg = g.jarg.toNat ∧ j.arglen = g.arglen.toNat ∧ j.image = false ∧ (fnOf fn t).goWait = [] ∧
        (fnOf fn t).jhead = f.jhead + 1 ∧ t.sent = s.sent ++ (if f.aint then [.msix fn f.vec.toNat] else []) ∧
        (f.busMaster = true →
          let at' := f.jbase.toNat + 32 * (f.jhead.toNat % 2 ^ f.jlog.toNat)
          leNat (t.host.readBytes at' 8) = 2 ^ 56 + slot * 2 ^ 48 + g.prio.toNat * 2 ^ 32 + j.seq ∧
          leNat (t.host.readBytes (at' + 8) 8) = g.jgraph.toNat ∧ leNat (t.host.readBytes (at' + 16) 8) = g.jarg.toNat ∧
          ∀ b, b < at' ∨ at' + 32 ≤ b → t.host.read b = s.host.read b)) ∧
    (headStarted fn slot s = false → ∃ t, exec (.jobCancel fn slot) s = .next t ∧ (slotIn t).queue = [] ∧ (slotIn t).cancel = false ∧
      (fnOf fn t).jhead = f.jhead + BitVec.ofNat 32 sl.queue.length) ∧
    (headStarted fn slot s = true → ∃ t, exec (.jobCancel fn slot) s = .next t ∧ (slotIn t).queue = sl.queue.take 1 ∧ (slotIn t).cancel = true ∧
      (fnOf fn t).jhead = f.jhead + BitVec.ofNat 32 (sl.queue.length - 1)) ∧
    (mayGrant r s = false → exec (.jobStart r) s = .next s) ∧
    (∀ k x n w j js h gt g s1 s2, mayGrant r s = true → seqSite r s = some (k, x) → choose s r = some (n, w) →
      ((fnOf (rinkFn r s) s).slots.get JobSlot.reset n).queue = j :: js → ((fnOf (rinkFn r s) s).slots.get JobSlot.reset n).cancel = false →
      j.image = false → guestRead r 0 j.jgraph 64 (modWork r (fun _ => w) s) = .ok (h, s1) → parseGraph j.jgraph h = some g →
      guestRead r 0 g.gtoff (16 * g.ngate) s1 = .ok (gt, s2) →
      ∃ t, exec (.jobStart r) s = .next t ∧
        let y := ctxOf (site k t) x
        y.pc = BitVec.ofNat 64 (g.base / 4 * 4) ∧ y.slots = 0 ∧ y.code = Cap.grant 0 0x011 g.base g.len ∧ y.sValid = 0xE ∧
        y.s.get 0 1 = BitVec.ofNat 64 j.jarg ∧ y.s.get 0 2 = BitVec.ofNat 64 n ∧ y.s.get 0 3 = BitVec.ofNat 64 j.seq ∧ y.aValid = 2 ∧
        y.a.get Cap.null 1 = Cap.grant 0 0x023 j.jarg j.arglen ∧ y.fctl = 1 ∧ y.fstat = 0 ∧ y.srkey = 0 ∧ y.trap.rscnt = 0 ∧ y.ecnt = 0 ∧
        y.ctl.running = true ∧ y.ctl.timetabled = false ∧ (rink r t).recov.count = 0 ∧ (rink r t).recov.checkpoint.isSome = true ∧
        ∃ u, (rink r t).work.running = some u ∧ u.slot = n ∧ u.job = j) ∧
    (∃ t, exec (.functionReset fn) s = .next t ∧ (fnOf fn t).en = false ∧ (fnOf fn t).rostrict = false ∧ (fnOf fn t).aint = false ∧
      (fnOf fn t).jbase = 0 ∧ (fnOf fn t).jlog = 6 ∧ (fnOf fn t).jhead = 0 ∧ (fnOf fn t).jtail = 0 ∧ (fnOf fn t).goWait = [] ∧
      ∀ n, (fnOf fn t).slots.get JobSlot.reset n = JobSlot.reset) ∧
    (1000000 < (rink r s).work.opLen → (rink r s).work.opPosted = false →
      ∃ t, exec (.operatorLengthExceeded r) s = .next t ∧ (rink r t).work.opPosted = true ∧
        (rink r t).work.launches = (rink r s).work.launches ∧ t.sites = s.sites ∧
        ((rink r s).work.evq.length + b2n (rink r s).work.evDrop.isNone < 256 → ∃ e, (rink r t).work.evq = (rink r s).work.evq ++ [e])) ∧
    (¬(1000000 < (rink r s).work.opLen ∧ (rink r s).work.opPosted = false) → exec (.operatorLengthExceeded r) s = .next s)

/-- Translation and protection as the hypervisor works them: invalidation, leaves and their pins, migration, keys and windows (14 R339, R345 to R348, R355,
R356). That a write of a pinned or moving leaf sets BUSY in the PF's TFAULT, how a page's home is known, which page an epoch moves, and that a move within a tier
leaves its frame unused, are the model's choices (notes/assumptions/36.md); so is that a frame a page has left reads as zeros (notes/assumptions/40.md). -/
def Obligations.TranslationEvents : Prop :=
  ∀ (s : State) (fn n : Nat) (page val : Word),
    let f := fnOf fn s
    let asks (i : Instr) (kind p : Nat) : Prop := ∃ t, exec i s = .next t ∧ (fnOf fn t).tinv = f.tinv ++ [(kind, p)] ∧ t.sites = s.sites
    let pageBase := page.toNat / 65536 * 65536
    let entry := n / 16 * 16
    let named (e : Tlb) : Bool := f.tinv.any fun q => tinvNames fn q e
    asks (.tinvGuestPage fn page) 0 pageBase ∧ (fn ≠ 0 → asks (.tinvIntermediatePage fn page) 1 pageBase) ∧
    exec (.tinvIntermediatePage 0 page) s = .next s ∧ asks (.tinvAll fn) 2 0 ∧
    (f.tinv ≠ [] → tinvSettled fn s = true → ∃ t, exec (.tinvDone fn) s = .next t ∧ (fnOf fn t).tinv = [] ∧
      ∀ k e, e ∈ (site k t).tlb ↔ e ∈ (site k s).tlb ∧ named e = false) ∧
    (f.tinv = [] ∨ tinvSettled fn s = false → exec (.tinvDone fn) s = .next s) ∧
    (leafPin s.mem entry ≠ 0 ∨ leafMov s.mem entry = true →
      ∀ create, ∃ t, exec (.stage2LeafWrite n val create) s = .next t ∧ (fnOf 0 t).tbusy = true ∧ t.mem = s.mem) ∧
    (leafPin s.mem entry = 0 → leafMov s.mem entry = false → ordinaryGranule s none entry entry 8 →
      ∃ t, exec (.stage2LeafWrite n val false) s = .next t ∧ leNat (t.mem.readBytes entry 8) = val.toNat ∧ (fnOf 0 t).tbusy = (fnOf 0 s).tbusy ∧
        ∀ b, b < entry ∨ entry + 8 ≤ b → t.mem.read b = s.mem.read b) ∧
    (leafPin s.mem entry = 0 → leafMov s.mem entry = false → ordinaryGranule s none entry entry 16 →
      ∃ t, exec (.stage2LeafWrite n val true) s = .next t ∧ leNat (t.mem.readBytes entry 8) = val.toNat ∧ leNat (t.mem.readBytes (entry + 8) 8) = 0 ∧
        (fnOf 0 t).tbusy = (fnOf 0 s).tbusy ∧ ∀ b, b < entry ∨ entry + 16 ≤ b → t.mem.read b = s.mem.read b) ∧
    (let ia := field val.toNat 63 16 * 65536
     ∀ l, leafOf fn ia s = some l →
      (∀ fr, freeFrame fn l.size (bitOf val.toNat 0) s = some fr →
        ∃ t, exec (.migreq fn val) s = .next t ∧ t.migrations = s.migrations ++ [(fn, ia / l.size * l.size, fr)] ∧
          (fr, l.size) ∉ (fnOf fn t).frames ∧ t.mem = s.mem ∧
          (bitOf ia 47 = false → bitOf val.toNat 0 = true → ∀ p ∈ (fnOf fn t).promoted, p.1 ≠ ia / l.size * l.size) ∧
          (bitOf ia 47 = false → bitOf val.toNat 0 = false →
            let home : Prop := ∃ i < l.size / 65536, f.homes.get 0 (ia / l.size * l.size / 65536 + i) = 1
            (inLPDDR l.out = true → home → (ia / l.size * l.size, l.size) ∈ (fnOf fn t).promoted) ∧
            (inLPDDR l.out = false ∨ ¬home → (fnOf fn t).promoted = f.promoted))) ∧
      (freeFrame fn l.size (bitOf val.toNat 0) s = none →
        ∃ t, exec (.migreq fn val) s = .next t ∧ (fnOf fn t).migDrop = f.migDrop + 1 ∧ t.migrations = s.migrations)) ∧
    (fn = 0 ∨ bitOf f.migctl.toNat 0 = false → exec (.migrationEpoch fn) s = .next s) ∧
    (∀ p c l fr, fn ≠ 0 → bitOf f.migctl.toNat 0 = true → bitOf f.migctl.toNat 1 = false → f.promoted = [] → f.epochHits.cells = [(p, c)] →
      leafOf fn (p * 65536) s = some l → l.size = 65536 → inLPDDR l.out = true → movable l s = true → freeFrame fn 65536 false s = some fr →
      ∃ t, exec (.migrationEpoch fn) s = .next t ∧ (fnOf fn t).epochHits.cells = [] ∧
        t.migrations = (if field f.migctl.toNat 31 16 ≤ c ∧ 1 ≤ field f.migctl.toNat 63 32 then s.migrations ++ [(fn, p * 65536, fr)]
          else s.migrations)) ∧
    (∀ l, leafOf fn pageBase s = some l →
      let ia := pageBase / l.size * l.size
      (movable l s = true → n % l.size = 0 → inHBM n = true ∨ inLPDDR n = true →
        ∃ t, exec (.pageMigrationStart fn page n) s = .next t ∧ leafMov t.mem l.entry = true ∧ t.moves = s.moves ++ [⟨fn, ia, l.size, l.entry, l.out, n⟩] ∧
          (∀ k, ∀ e ∈ (site k t).tlb, ¬(e.fn = fn ∧ e.page.ia < ia + l.size ∧ ia < e.page.ia + e.page.size)) ∧
          ∀ b, b ≠ l.entry + 10 → t.mem.read b = s.mem.read b) ∧
      (movable l s = false → exec (.pageMigrationStart fn page n) s = .next s)) ∧
    (∀ m, moveOf fn page.toNat s = some m →
      (moveSettled m s = false → exec (.pageMigrationComplete fn page) s = .next s) ∧
      (moveSettled m s = true → m.src + m.size ≤ m.dst ∨ m.dst + m.size ≤ m.src →
        m.leaf + 16 ≤ m.dst ∨ m.dst + m.size ≤ m.leaf → m.leaf + 16 ≤ m.src ∨ m.src + m.size ≤ m.leaf →
        ∃ t, exec (.pageMigrationComplete fn page) s = .next t ∧ m ∉ t.moves ∧ (∀ b < m.size, t.mem.read (m.dst + b) = s.mem.read (m.src + b)) ∧
          leafMov t.mem m.leaf = false ∧ field (leNat (t.mem.readBytes m.leaf 8)) 41 16 = m.dst / 65536 % 2 ^ 26 ∧
          (inHBM m.src ≠ inHBM m.dst → (fnOf m.fn t).frames = (fnOf m.fn s).frames ++ [(m.src, m.size)] ∧
            ∀ b < m.size, t.mem.read (m.src + b) = 0) ∧
          (inHBM m.src = inHBM m.dst → (fnOf m.fn t).frames = (fnOf m.fn s).frames))) ∧
    (moveOf fn page.toNat s = none → exec (.pageMigrationComplete fn page) s = .next s) ∧
    (∃ t, exec (.keyErase n) s = .next t ∧ (keyOf n t).key = 0 ∧ (keyOf n t).valid = false ∧ (keyOf n t).written = false ∧
      (keyOf n t).epoch = (keyOf n s).epoch + 1 ∧
      (∀ m, m ≠ n → keyOf m t = keyOf m s) ∧ t.mem = s.mem) ∧
    ((windowOf n s).closing = true → windowPinned n s = false →
      ∃ t, exec (.windowDestroy n) s = .next t ∧ (windowOf n t).valid = false ∧ ∀ m, m ≠ n → windowOf m t = windowOf m s) ∧
    ((windowOf n s).closing = false ∨ windowPinned n s = true → exec (.windowDestroy n) s = .next s)

/-! ## The life of a launch and recovery -/

/-- A launch from allocation through its start pulse to its completion: fresh registers, the streams' code capabilities, the entry requirements, and what completion
releases (02 R67, 09 R239, R241, R245, 13 R313, R316, 15 R378). -/
def Obligations.LaunchLifeEvents : Prop :=
  ∀ (s : State) (r n core : Nat) (l : Launch), launchAt s r n = some l →
    let ctr (t : State) : Ctr := (rink r t).work.lctr.get Ctr.idle n
    let ready : Prop := l.pulsed = false ∧ l.pinned = true ∧ s.power.st = .run ∧
      (∀ u ∈ l.units, ∀ q ∈ u.entry.reqs, reqHolds (site u.site s) q = true) ∧ patternsAgree l s = true
    (∀ u c, l.units = [u] → u.allocated = false → l.pinned = false → l.pulsed = false → coreHeld s r n u.site = false →
      allocSite r l u.entry (site u.site s) = some c →
      ∃ t v, exec (.unitAllocation r n) s = .next t ∧ site u.site t = c ∧ launchAt t r n = some v ∧ (∀ w ∈ v.units, w.allocated = true) ∧
        (let pages := launchPages r l (allocUnits r l l.units s)
         (∀ ps, pages = some ps → v.pinned = true ∧ v.pins = distinctPages ps ∧ (ctr t).state = .waiting) ∧
         (pages = none → v.pinned = false ∧ ctr t = ctr s ∧ t.mem = s.mem)) ∧
        (∀ x, bitOf u.entry.eng (b2n x) = true → (u.entry.loads.filter (·.ctx == x)) = [] →
          let y := ctxOf c x
          y.sValid = 0 ∧ y.aValid = 0 ∧ y.slots = 0 ∧ (∀ q, y.staged.get [] q = []) ∧ y.isUnit = true ∧ y.ctl.running = false ∧ y.ctl.timetabled = !l.free ∧
            ∃ code, y.code = streamCap u.entry code (b2n x) ∧ y.pc = BitVec.ofNat 64 y.code.cursor) ∧
        (∀ h i, bitOf u.entry.eng (halfHead h) = true → i < 8 → (halfOf c h).slots.get Slot.empty i = Slot.empty) ∧
        (bitOf u.entry.eng 2 = true → c.ve.vValid = 0 ∧ c.ve.pValid = 0 ∧ c.ve.xValid = 0 ∧ c.ve.loop.size = 48)) ∧
    (∀ u, l.units = [u] → u.allocated = false → coreHeld s r n u.site = true →
      ∃ t, exec (.unitAllocation r n) s = .next t ∧ t.sites = s.sites ∧ launchAt t r n = some l) ∧
    (ready → ∃ t, exec (.startPulse r n) s = .next t ∧ launchAt t r n = some { l with pulsed := true } ∧ (ctr t).state = .running ∧
      t.sites = s.sites ∧ t.mem = s.mem) ∧
    (¬ready → exec (.startPulse r n) s = .next s) ∧
    (∀ u, l.units.find? (·.entry.core == core) = some u →
      (mayComplete r l u s = false → exec (.unitComplete r n core) s = .next s) ∧
      (mayComplete r l u s = true → (∃ v ∈ l.units, v.finished = false ∧ v.site ≠ u.site) →
        ∃ t, exec (.unitComplete r n core) s = .next t ∧ (ctr t).pending = (ctr s).pending - 1 ∧ (ctr t).state = (ctr s).state ∧
          (∃ v, launchAt t r n = some v ∧ ∀ w ∈ v.units, w.site = u.site → w.finished = true) ∧
          ((∀ k x, seqSite r s = some (k, x) → k ≠ u.site) → ∀ x, bitOf u.entry.eng (b2n x) = true → (ctxOf (site u.site t) x).ecnt = 0) ∧
          t.mem = s.mem) ∧
      (mayComplete r l u s = true → (∀ v ∈ l.units, v.finished = true ∨ v.site = u.site) →
        ∃ v, exec (.unitComplete r n core) s = .next (scheduleNext r (settleJob r (recount r v))) ∧ (ctr v).state = .complete ∧ (ctr v).pending = 0 ∧
          ∀ q ∈ (rink r v).work.launches, q.lctr ≠ n))

/-- Freeze and resume pulses, the recovery registers, the launch-frozen trap, core checks and remaps (09 R251 to R253, 18 R413 to R418, R421 to R423). That a core
keeps the cause it stopped for, that RESUME performed at a beat has W of the next, the INFO of the launch-frozen trap, STREAM 63 of a core check and its place 6 for
the router, and that GO starts no remap beside another, are the model's choices (notes/assumptions/14.md, 34.md, 39.md). -/
def Obligations.RecoveryEvents : Prop :=
  ∀ (s : State) (r core k : Nat) (val : Word) (fault : Option (Nat × Nat)),
    let frame (t : State) (j : Nat) : Frame := if setOf (site j t) r then (site j t).obs.frame1 else (site j t).obs.frame0
    let rewound (i : Instr) : Prop := exec i s = .next (rewind r s)
    let p := s.pcremap
    let left := p.left.get 0 (field val.toNat 10 8)
    let unitFroze (t : State) (l : Launch) (k : Nat) : Option Nat → Prop := fun at_ =>
      ∀ q ∈ (rink r t).work.launches, q.lctr = l.lctr → ∀ w ∈ q.units, w.site = k → w.frozenAt = at_
    (∀ l u, launchWith r core freezeDue s = some (l, u) → ∃ t, exec (.freezePulseArrival r core) s = .next t ∧
      unitFroze t l u.site (some l.time) ∧ t.mem = s.mem ∧ (u.finished = true → t.sites = s.sites) ∧
      (u.finished = false → frozenFor (site u.site t) r = true ∧
        (frozenFor (site u.site s) r = true → frame t u.site = frame s u.site) ∧
        (frozenFor (site u.site s) r = false → (frame t u.site).stat = frameStat 0 0 63 false false ∧
          (frame t u.site).beat = (site u.site s).beat ∧ bitOf (frame t u.site).stat.toNat 63 = true))) ∧
    (launchWith r core freezeDue s = none → exec (.freezePulseArrival r core) s = .next s) ∧
    (∀ l u, launchWith r core resumeDue s = some (l, u) → ∃ t, exec (.resumePulseArrival r core) s = .next t ∧
      unitFroze t l u.site none ∧ t.mem = s.mem ∧ (u.finished = true → t.sites = s.sites) ∧
      (u.finished = false → frozenFor (site u.site t) r = false ∧ bitOf (frame t u.site).stat.toNat 63 = false ∧
        (site u.site t).pipe = (site u.site s).pipe)) ∧
    (launchWith r core resumeDue s = none → exec (.resumePulseArrival r core) s = .next s) ∧
    let resumes (l : Launch) (i : Instr) : Prop :=
      let t0 := (trapTimes l).foldl min (l.time + 1)
      ∃ t, exec i s = .next t ∧ t.sites = s.sites ∧
        (∀ q f, frozenLaunch r t = some q → q.froze = some f → (rink r t).recov.frozen = true ∧ (rink r t).recov.kind = .ofNat 8 f.2.1 ∧
          (rink r t).recov.core = .ofNat 9 f.2.2) ∧
        ((∀ q ∈ (rink r s).work.launches, q.lctr ≠ l.lctr → q.froze = none) → (rink r t).recov.frozen = false ∧ (rink r t).recov.kind = 0 ∧
          (rink r t).recov.core = 0) ∧
        ((rink r s).work.launches = [l] → ∃ v, (rink r t).work.launches = [v] ∧ v.frozenSince = none ∧ v.froze = none ∧ v.notified = false ∧
          v.units.map stopsOf = l.units.map fun u => (stopsOf u).map fun e => (e.1, some (e.2.getD (l.time + 1 - t0 + e.1))))
    let queue := (rink r s).work.launches
    (frozenLaunch r s = none → exec (.rfrzResume r) s = .next s) ∧
    (∀ l, frozenLaunch r s = some l → (∀ q ∈ queue, ∀ f, q.froze = some f → ∃ g, l.froze = some g ∧ g.1 ≤ f.1) ∧
      (l.units.any (·.fatal) = false → resumes l (.rfrzResume r)) ∧ (l.units.any (·.fatal) = true → rewound (.rfrzResume r))) ∧
    (∀ l, queue.find? (mayAutoResume r · s) = some l → resumes l (.autoResume r)) ∧
    ((∀ q ∈ queue, mayAutoResume r q s = false) → exec (.autoResume r) s = .next s) ∧
    ((∀ q ∈ queue, mustNotify r q s = false) → exec (.launchFrozenTrap r) s = .next s) ∧
    (∀ l j x, queue.find? (mustNotify r · s) = some l → seqSite r s = some (j, x) →
      ((ctxOf (site j s) x).ctl.running = true → ∃ t, exec (.launchFrozenTrap r) s = .next t ∧
        ∀ time kind lead, l.froze = some (time, kind, lead) → lead < 512 →
          (ctxOf (site j t) x).trap.pend = (ctxOf (site j s) x).trap.pend ++ [⟨0x30, lead, false⟩]) ∧
      ((ctxOf (site j s) x).ctl.running = false → ∃ u, exec (.launchFrozenTrap r) s = .next (rewind r u) ∧ u.sites = s.sites ∧
        (rink r u).recov = (rink r s).recov)) ∧
    (∀ c j x, (rink r s).recov.checkpoint = some c → (rink r s).recov.count.toNat + 1 ≤ (rink r s).recov.limit.toNat → seqSite r s = some (j, x) →
      ∃ t, exec (.rfrzRewind r) s = .next t ∧ (rink r t).recov.count = (rink r s).recov.count + 1 ∧ (rink r t).recov.frozen = false ∧
        (rink r t).work.launches = [] ∧ t.host = s.host ∧ (∀ i, ((rink r t).colls.get Coll.closed i).isOpen = false) ∧
        let y := ctxOf (site j t) x
        y.pc = c.pos ∧ y.code = c.code ∧ y.s = c.s ∧ y.sValid = c.sLive ∧ y.a = c.a ∧ y.aValid = c.aLive ∧ y.fstat = c.fstat ∧ y.fctl = c.fctl ∧
          y.srkey = c.srkey ∧ y.trap.rscnt = c.rscnt ∧ y.trap.rse = c.rse ∧ y.trap.handler = false ∧ y.slots = 0 ∧ y.ctl.running = true) ∧
    (ownersOf k s = [r] → ∃ t, exec (.coreCheck k fault) s = .next t ∧ (rink r t).susp = true ∧ (rink r t).suspd = true ∧
      t.sent.getLast? = some (.msix 0 (fnOf 0 s).vec.toNat) ∧
      ((rink r s).work.running = none → (die (dieOfSite k) t).siteFail = setBit (die (dieOfSite k) s).siteFail (64 * (k % 144 / 64) + k % 64) true ∧
        (die (dieOfSite k) t).routerFail = (if fault.map (·.1) = some 6 then setBit (die (dieOfSite k) s).routerFail (64 * (k % 144 / 64) + k % 64) true
          else (die (dieOfSite k) s).routerFail) ∧
        (∀ j, j ≠ k → site j t = site j s) ∧
        (ctxOf (site k t) (homeCtx (site k s) r)).trap.ecause = ecauseWord 0 0x2E 63 true false ∧
        (frozenFor (site k s) r = false → (frame t k).stat = frameStat 0 0x2E 63 true false) ∧
        (∀ a i, fault = some (a, i) → 3 ≤ a → a ≤ 5 → (site k t).obs.serru = if (site k s).obs.serru.getLsbD 63 then (site k s).obs.serru
          else .ofNat 64 (2 ^ 63 + a * 2 ^ 60 + i % 2 ^ 24)))) ∧
    (∃ t, exec (.pcremapGo val) s = .next t ∧ t.pcremap.stack = field val.toNat 10 8 ∧ t.pcremap.pc = field val.toNat 7 0 ∧
      t.pcremap.shown = left ∧ t.mem = s.mem ∧ (p.going.isSome = true → t.pcremap.going = p.going) ∧
      (p.going = none → ∀ e, t.pcremap.going = some e ↔
        bitOf val.toNat 63 = true ∧ 0 < left ∧ field val.toNat 7 0 < 160 ∧ e = (field val.toNat 10 8, field val.toNat 7 0))) ∧
    (∀ stack pc, p.going = some (stack, pc) → ∃ t, exec .pcremapDone s = .next t ∧ t.pcremap.going = none ∧
      t.pcremap.left.get 0 stack = p.left.get 0 stack - 1 ∧ t.pcremap.made = p.made ++ [(stack, pc)] ∧
      t.mem = s.mem ∧ t.seals = s.seals ∧ t.counters = s.counters) ∧
    (p.going = none → exec .pcremapDone s = .next s)

/-! ## Registers, the host and boot -/

/-- What the host and the PF do through the bus, and boot with its measurements and reports: completions, BAR reads and writes, atomics, registers that a read
clears, register writes, BOOTSTAT and the report (00 R11, 11 R294, R298, 13 R326, 14 R342, R360, 18 R412, 19 R441 to R443). The BAR layout, and block 0 as BAR0, are
the model's choice (notes/assumptions/31.md). -/
def Obligations.HostAndRegisterEvents : Prop :=
  ∀ (s : State) (k fn n : Nat) (x relaxed : Bool) (val : Word),
    let v := ctxOf (site k s) x
    let barMem (ia : Nat) : Word := BitVec.ofNat 64 (2 ^ 63 + ia)
    let reg (block inst off : Nat) : Word := BitVec.ofNat 64 (block * 2 ^ 32 + inst * 2 ^ 16 + off)
    let clears (addr : Word) (old : Word) (now : State → Word) : Prop :=
      ∃ t, exec (.readClearRegister .pf addr) s = .next t ∧ t.sent = s.sent ++ [.regRead old] ∧ now t = 0 ∧ t.mem = s.mem
    let plainAt (ia len : Nat) : Prop := inHBM ia = true ∧ 0 < len ∧ ia % 256 + len ≤ 256 ∧ ordinaryGranule s none ia ia len
    let goes (q : HostRequest) : Prop := q.waits s.held s = false
    let holds (i : Instr) (q : HostRequest) : Prop := q.waits s.held s = true → exec i s = .next { s with held := s.held ++ [q] }
    (v.buf.hostReads ≠ 0 →
      (∃ t, exec (.hostReadCompletion k x true) s = .next t ∧ (ctxOf (site k t) x).buf.hostReads = v.buf.hostReads - 1 ∧
        (ctxOf (site k t) x).s = v.s ∧ t.host = s.host) ∧
      ∃ u, exec (.hostReadCompletion k x false) s = .next (asCtx k x (takeTrap false 0x1B 0 true) u) ∧
        (ctxOf (site k u) x).buf.hostReads = v.buf.hostReads - 1) ∧
    (∀ a, v.buf.hostReads = 0 → fetchNext k x true s = some a →
      (0 < fetchLength v a → ∃ t, exec (.hostReadCompletion k x true) s = .next t ∧
        ctxOf (site k t) x = putHalf a (s.host.readBytes a (fetchLength v a)) v ∧ t.host = s.host) ∧
      (v.fetching = true → a = v.pc.toNat → ∃ u, exec (.hostReadCompletion k x false) s = .next (asCtx k x (takeTrap false 0x0A 0 false) u) ∧
        (ctxOf (site k u) x).fetching = false ∧ u.mem = s.mem)) ∧
    (∀ a f addr, v.buf.hostReads = 0 → fetchNext k x true s = none → hostLoad k x s = some a → a.target = .hostBus f addr → a.kind = .unsigned →
      olderStores v.buf a = [] → 0 < a.dst → a.dst < 32 →
      ∃ t, exec (.hostReadCompletion k x true) s = .next t ∧
        (ctxOf (site k t) x).s.get 0 a.dst = BitVec.ofNat 64 (leNat (s.host.readBytes addr a.len)) ∧
        (ctxOf (site k t) x).buf.loads = v.buf.loads.drop 1) ∧
    (∀ addr data, holds (.hostBarWrite fn addr data relaxed) (.write fn addr data relaxed)) ∧
    (∀ addr len, holds (.hostBarRead fn addr len) (.read fn addr len)) ∧
    (∀ op addr, holds (.hostAtomicop fn op addr) (.atomic fn op addr)) ∧
    (∀ ia data, plainAt ia data.length → goes (.write 0 (barMem ia) data relaxed) → ∃ t, exec (.hostBarWrite 0 (barMem ia) data relaxed) s = .next t ∧
      ∀ b, t.mem.read b = if ia ≤ b ∧ b < ia + data.length then nth 0 data (b - ia) else s.mem.read b) ∧
    (∀ ia len, plainAt ia len → goes (.read 0 (barMem ia) len) → ∃ t, exec (.hostBarRead 0 (barMem ia) len) s = .next t ∧
      t.sent = s.sent ++ [.hostRead 0 (s.mem.readBytes ia len)] ∧ t.mem = s.mem) ∧
    (fn ≤ 64 → n < 8 → s.held = [] →
      (∃ t, exec (.hostBarWrite fn 0x008 (leBytes 8 val.toNat) relaxed) s = .next t ∧
        (fnOf fn t).jbase = BitVec.ofNat 64 (val.toNat / 256 * 256)) ∧
      (∃ t, exec (.hostBarWrite fn (BitVec.ofNat 64 (0x200 + 0x40 * n)) (leBytes 8 val.toNat) relaxed) s = .next t ∧
        ((fnOf fn t).slots.get JobSlot.reset n).jgraph = val) ∧
      (∃ t, exec (.hostBarRead fn 0x030 8) s = .next t ∧ t.sent = s.sent ++ [.hostRead fn (leBytes 8 (fnOf fn s).refcnt.toNat)] ∧
        (fnOf fn t).refcnt = 0) ∧
      (∃ t, exec (.registerWrite .pf (reg 0 fn (0x218 + 0x40 * n)) val) s = .next t ∧
        ((fnOf fn t).slots.get JobSlot.reset n).jsave = BitVec.ofNat 64 (val.toNat / 256 * 256))) ∧
    (∀ ia dbl add ma key, ia < 2 ^ 48 → goes (.atomic fn (.fetchAdd dbl add) (barMem ia)) → barTarget fn ia true s = some (ma, key) → ia % (if dbl then 8 else 4) = 0 →
      let queue (t : State) : List AtomReq := (t.atomics.get AtomBank.reset (Config.bankOf (ma / 256))).q
      ∃ t r, exec (.hostAtomicop fn (.fetchAdd dbl add) (barMem ia)) s = .next t ∧ queue t = queue s ++ [r] ∧ r.op = .add ∧ r.dbl = dbl ∧
        r.ma = ma ∧ r.ia = ia ∧ r.key = key ∧ r.operand = add ∧ r.requester = 1024 + fn ∧ t.mem = s.mem) ∧
    (goes (.atomic fn .cas128 val) → exec (.hostAtomicop fn .cas128 val) s = .next (send (.hostAtomic fn none) s)) ∧
    (k < 288 → clears (reg 1 (0x8000 + k) 0x400) (site k s).obs.tmFault (fun t => (site k t).obs.tmFault) ∧
      clears (reg 1 (0x8000 + k) 0x710) ((site k s).obs.serrc.setWidth 64) (fun t => (site k t).obs.serrc.setWidth 64) ∧
      clears (reg 1 (0x8000 + k) 0x718) (site k s).obs.serru (fun t => (site k t).obs.serru)) ∧
    (fn ≤ 64 → ∃ t, exec (.readClearRegister .pf (reg 4 fn 0x18)) s = .next t ∧
      t.sent = s.sent ++ [.regRead (BitVec.ofNat 64 (b2n (fnOf fn s).tbusy * 2 ^ 63 + (fnOf fn s).tfault.toNat))] ∧
      (fnOf fn t).tfault = 0 ∧ (fnOf fn t).tbusy = (fnOf fn s).tbusy) ∧
    (n < 64 → ∀ who ∈ [Requester.pf, .rink n], ∃ t, exec (.registerWrite who (reg 2 n 0x238) val) s = .next t ∧
      (rink n t).recov.hvec = BitVec.ofNat 64 (field val.toNat 47 2 * 4 + val.toNat % 2) ∧ t.sites = s.sites) ∧
    (∀ q addr, configReach s (.rink q) addr.toNat = false → exec (.registerWrite (.rink q) addr val) s = .next s) ∧
    (∃ t, exec (.attcmd fn) s = .next t ∧ (fnOf fn t).attcmd = true ∧ (fnOf fn t).nonce = (fnOf fn s).nonce ∧
      (fnOf fn t).report = (fnOf fn s).report) ∧
    ((fnOf fn s).attcmd = true → ∃ t body bits, exec (.attestationComplete fn) s = .next t ∧ (fnOf fn t).attcmd = false ∧
      (fnOf fn t).report = body ++ edSign (aliasSeed s.boot) body ∧ (∀ i < 128, bits.testBit i = (keyOf i s).valid) ∧
      body = leBytes 4 1 ++ leBytes 2 (if s.devid.v then s.devid.id.toNat else 0xFFFF) ++ leBytes 2 fn ++ (fnOf fn s).nonce ++ s.boot.meas0 ++ s.boot.meas1 ++ s.boot.meas2 ++ s.boot.meas3 ++ leBytes 16 bits) ∧
    ((fnOf fn s).attcmd = false → exec (.attestationComplete fn) s = .next s) ∧
    (∀ w : List Byte, (w.length = 64 → ∃ t, exec (.measurementExtend w) s = .next t ∧ t.boot.meas3 = sha512 (s.boot.meas3 ++ w) ∧
        t.boot.meas0 = s.boot.meas0 ∧ t.mem = s.mem) ∧ (w.length ≠ 64 → exec (.measurementExtend w) s = .next s)) ∧
    ∀ i0 i1 qual : List Byte,
      (stageStatus 0 i0 ≠ 0 → ∃ t, exec (.boot i0 i1 qual) s = .next t ∧ t.boot.stat = stageStatus 0 i0 ∧ t.power.st = .off) ∧
      (stageStatus 0 i0 = 0 → stageStatus 1 i1 ≠ 0 → ∃ t, exec (.boot i0 i1 qual) s = .next t ∧ t.boot.stat = stageStatus 1 i1 ∧
        t.power.st = .off) ∧
      (stageStatus 0 i0 = 0 → stageStatus 1 i1 = 0 → ∃ t, exec (.boot i0 i1 qual) s = .next t ∧ t.boot.stat = 0 ∧ t.power.st = .run ∧
        t.boot.meas0 = sha512 i0 ∧ t.boot.meas1 = sha512 i1 ∧ t.boot.meas2 = sha512 qual ∧ t.boot.meas3 = List.replicate 64 0 ∧
        t.mem = State.reset.mem ∧
        (∀ r, { rink r t with place := Rink.reset.place } = Rink.reset ∧ ∀ i, ((rink r t).place.get Place.reset i).v = false) ∧
        (∀ i < 8, 2000 ≤ t.power.freq.get 0 i ∧ t.power.freq.get 0 i ≤ 4000 ∧ 550 ≤ t.power.volt.get 0 i ∧ t.power.volt.get 0 i ≤ 850) ∧
        ∀ i < 7, t.power.freq.get 0 i ≤ t.power.freq.get 0 (i + 1) ∧ t.power.volt.get 0 i ≤ t.power.volt.get 0 (i + 1))

/-! ## Engines and Bromen Link -/

/-- Fills and nests start and end in their beats, and the Lift and collective engines take, end and retire commands (07 R197 to R200, R203, R205, 08 R215 to R217,
R225, R229). That TREG of a fill is read as the fill completes, when a copy's token is first due, and that the tokens of two copies wait together,
are the model's choices (notes/assumptions/38.md, 26.md, 39.md). -/
def Obligations.EngineEvents : Prop :=
  ∀ (s : State) (k d e : Nat) (h l1 : Bool),
    let c := site k s
    let w := halfOf c h
    let half (t : State) : Half := halfOf (site k t) h
    (∀ f fs, w.fills = f :: fs → f.started = none → f.issued < c.now →
      let plan := planFill c (headRink c (halfHead h)) f s.fresh
      let p := plan.spec
      let last := c.now + fillBeats p plan.j - 1
      firstHit plan.hits = none → fillClash c h plan last = none →
      ∃ t g, exec (.fillStart k h) s = .next t ∧ (half t).fills = g :: fs ∧ g.started = some c.now ∧ g.ends = last ∧ g.slot = f.slot ∧
        g.banks = plan.groups ∧ g.scaling = scalingOf p ∧ (g.tile, g.flags) = buildTile c.tm h p plan.source plan.delta (fillEnv f) ∧
        (site k t).tm.bytes = c.tm.bytes ∧ (c.tm.errs.cells = [] → (site k t).tm = c.tm) ∧ (half t).slots = w.slots ∧ (site k t).flags = c.flags) ∧
    (∀ f fs, w.fills = f :: fs → f.started ≠ none ∨ c.now ≤ f.issued → exec (.fillStart k h) s = .next s) ∧
    (∀ f fs, w.fills = f :: fs →
      (let z := f.scaling
       let sigma := scales c z (fillEnv f)
       f.started ≠ none → f.ends < c.now →
        ((z.mode = 2 → flagReady c z.treg = true) → ∃ t, exec (.fillComplete k h) s = .next t ∧ (half t).fills = fs ∧
          (half t).slots.get Slot.empty f.slot = ⟨.ready, f.tile.withSigma sigma.1, f.flags ||| sigma.2⟩ ∧
          (site k t).flags = (if z.mode = 2 ∧ z.keep = false then (clearFlag z.treg c).flags else c.flags) ∧
          ∀ i, i ≠ f.slot → (half t).slots.get Slot.empty i = w.slots.get Slot.empty i) ∧
        (z.mode = 2 → flagReady c z.treg = false → halfTimed c h = false →
          ∃ t, exec (.fillComplete k h) s = .next t ∧ (half t).fills = w.fills ∧ (half t).slots = w.slots)) ∧
      (f.started = none ∨ c.now ≤ f.ends → ∃ t, exec (.fillComplete k h) s = .next t ∧ (half t).fills = w.fills ∧ (half t).slots = w.slots)) ∧
    (∀ i n, nestIndex w = some i → w.nests[i]? = some n → n.started = false → n.issued + 2 ≤ c.now →
      let cfg := nestCfg w n.bank
      ∃ u, exec (.nestStart k h) s = .next (if nestEmpty cfg then u else nestBeat k h u) ∧
        (half u).nests[i]? = some { n with started := true, step := c.now, done := if nestEmpty cfg then some (c.now + 4) else none } ∧
        (n.accumulate = true → ∀ hh, (halfOf (site k u) hh).accA = (halfOf c hh).accA ∧ (halfOf (site k u) hh).accB = (halfOf c hh).accB) ∧
        (n.accumulate = false → 0 < cfg.n → ∀ hh ∈ halvesOf h n.whole, ∀ j < cfg.m, ∀ col < activeCols cfg n.whole hh,
          (accOf (halfOf (site k u) hh) n.bank).get 0 (128 * (cfg.rbase + j) + col) = 0)) ∧
    (∀ i n, nestIndex w = some i → w.nests[i]? = some n → n.started = true ∨ c.now < n.issued + 2 → exec (.nestStart k h) s = .next s) ∧
    (∀ n ns due, w.nests = n :: ns → n.done = some due →
      let done := (nestCfg w n.bank).done
      (c.now < max due n.outDue → exec (.nestRetire k h) s = .next s) ∧
      (max due n.outDue ≤ c.now → ∃ t, exec (.nestRetire k h) s = .next t ∧ (half t).nests = ns ∧
        (ctxOf (site k t) n.issuer).fstat = (ctxOf c n.issuer).fstat ||| n.flags ||| n.taken ∧ (site k t).pipe = c.pipe ++
          (if bitOf done 6 then [⟨c.now, c.now, halfHead h, none, headRink c (halfHead h), false, .signal (done % 64)⟩] else []))) ∧
    (c.q.skips.cells = [] →
      (∀ m, nextCommand c l1 = some m → runOf c.q l1 = none → commandVisible s k m = true →
        ∃ t v, exec (.liftCommandStart k l1) s = .next t ∧ runOf (site k t).q l1 = some v ∧ v.cmd = m ∧ v.ctl.running = true ∧ v.ctl.next = c.now ∧
          v.seq = Seq.fresh ∧ v.fin = .running ∧ (∀ x ∈ (site k t).q.lq ++ (site k t).q.sq, x.num ≠ m.num) ∧ t.mem = s.mem) ∧
      (∀ m, nextCommand c l1 = some m → runOf c.q l1 = none → commandVisible s k m = false → exec (.liftCommandStart k l1) s = .next s) ∧
      (nextCommand c l1 = none ∨ runOf c.q l1 ≠ none → exec (.liftCommandStart k l1) s = .next s)) ∧
    (∀ v f, runOf c.q l1 = some v → v.token = some f →
      (v.flushes = 0 → tokensFit c f = true → ∃ t, exec (.copyTokenPush k l1) s = .next t ∧
        (site k t).flags.sets = c.flags.sets ++ List.replicate (tokensDue c f).length f ∧
        ∀ x ∈ tokensDue c f, ∃ u, runOf (site k t).q x = some u ∧ u.token = none) ∧
      (v.flushes ≠ 0 ∨ tokensFit c f = false → exec (.copyTokenPush k l1) s = .next s)) ∧
    (∀ v, runOf c.q l1 = some v → v.site = k →
      (canRetire v s = false → exec (.commandRetire (.lift k l1)) s = .next s) ∧
      (canRetire v s = true → v.fin ≠ .dataError ∨ chains v.cmd = false →
        ∃ t, exec (.commandRetire (.lift k l1)) s = .next t ∧ runOf (site k t).q l1 = none ∧
          (ctxOf (site k t) v.cmd.ctx).fstat = (ctxOf c v.cmd.ctx).fstat ||| v.flags ∧ t.mem = (releaseCommand v.cmd s).mem ∧
          (v.status = none → (site k t).q.liftFifo = c.q.liftFifo) ∧
          (∀ status detail, v.status = some (status, detail) → c.q.liftFifo.length < 16 → (site k t).q.liftFifo =
            c.q.liftFifo ++ [liftElement status c.q.liftLost v.cmd.queue v.cmd.ctx v.seq.pc 0 detail]))) ∧
    (∀ v, (collEngine d e s).run = some v → canRetire v s = true → v.fin ≠ .dataError →
      ∃ t, exec (.commandRetire (.coll d e)) s = .next t ∧ (collEngine d e t).run = none ∧
        (ctxOf (site v.site t) v.cmd.ctx).fstat = (ctxOf (site v.site s) v.cmd.ctx).fstat ||| v.flags) ∧
    (∀ r l j m, (collEngine d e s).owner.rink? = some r → (collEngine d e s).run = none → nextCore r.toNat d e s = some (l, j, m) →
      ∃ t v, exec (.collectiveCommandStart d e) s = .next t ∧ (collEngine d e t).run = some v ∧ v.cmd = m ∧ v.site = j ∧ v.ctl.running = true ∧
        (collEngine d e t).lastCore = l ∧ ∀ x ∈ (site j t).q.ce, x.num ≠ m.num) ∧
    ((collEngine d e s).owner.rink? = none ∨ (collEngine d e s).run ≠ none → exec (.collectiveCommandStart d e) s = .next s)

/-- A collective number's contributions land, wait for a page that is being moved or are refused, its operation completes with the result of its word or times out
(08 R234, R235, R237, 11 R297, 14 R340, 16 R389, R390, R393). That a csend completes once its last flit has been acknowledged by the next port is the model's choice
(notes/assumptions/27.md). -/
def Obligations.CollectiveEvents : Prop :=
  ∀ (s : State) (r cnum : Nat) (x : Contribution),
    let c := collAt r cnum s
    let closed := modColl r cnum (closeColl false) s
    let ends (i : Instr) (status detail : Nat) (o : CollOp) (t : State) : Prop := exec i s = .next (endOp r cnum status detail o t)
    let done := Instr.collectiveOpComplete r cnum
    let q := rink x.rink s
    let land := q.rland.toNat
    let slot := 2 ^ field land 4 0
    let at' := collAt x.rink x.cnum s
    let off := x.cnum * slot + x.rank * x.data.length
    let va := field land 21 16 * 2 ^ 40 + off
    let fits : Prop := bitOf land 63 = true ∧ x.rank * x.data.length + x.data.length ≤ slot ∧ off + x.data.length ≤ 2 ^ 40
    let waits : Prop := fits ∧ (at'.stalled ≠ [] ∨ landingMoves x.rink va x.data.length s = true)
    let refused (status : Nat) : Prop := exec (.contributionArrival x) s = .next (sendToward (refusalOf (headFlit x s) status s) s)
    (waits → ∃ t, exec (.contributionArrival x) s = .next t ∧ t.mem = s.mem ∧ t.sites = s.sites ∧ (collAt x.rink x.cnum t).landed = at'.landed ∧
      (collAt x.rink x.cnum t).stalled = at'.stalled ++ [⟨none, some x, va, x.data.length⟩]) ∧
    (¬waits → at'.refuse = true → refused 4) ∧ (at'.refuse = false → ¬fits → refused 1) ∧
    (¬waits → at'.refuse = false → fits → (∃ l ∈ at'.landed, l.rank = x.rank) → refused 2) ∧
    (∀ s1, ¬waits → at'.refuse = false → fits → (∀ l ∈ at'.landed, l.rank ≠ x.rank) →
      guestWrite x.rink 4 va x.data s = .ok s1 →
      collAt x.rink x.cnum s1 = at' →
      ∃ t, exec (.contributionArrival x) s = .next t ∧ t.mem = s1.mem ∧ (collAt x.rink x.cnum t).isOpen = true ∧
        (collAt x.rink x.cnum t).landed = at'.landed ++ [⟨x.rank, x.src, x.word, x.data.length, x.op, x.size⟩]) ∧
    (∀ w ws y, c.stalled = w :: ws → landingMoves r w.va w.len s = false → w.port = none → w.whole = some y → y.src ≠ s.devid.id.toNat →
      ∃ u, exec done s = .next (settleArrival y u) ∧ (collAt r cnum u).stalled = ws ∧ (collAt r cnum u).landed = c.landed ∧ u.mem = s.mem) ∧
    (∀ o, landReady r cnum s = none → postReady r cnum s = some o →
      exec done s = .next (endOp r cnum (o.status.getD 0) o.detail o (modColl r cnum (fun v => { v with others := v.others.erase o }) s))) ∧
    (∀ o, landReady r cnum s = none → c.others = [] → c.op = some o →
      let ready : Prop := haveAll c o = true ∧ (o.word = 1 ∨ allSent r cnum o s = true)
      let ks := if o.word = 1 then [0] else List.range o.members.length
      (¬ready → exec done s = .next s) ∧
      (∀ k, ready → mismatched c o = some k → ends done 2 k o closed) ∧
      (ready → mismatched c o = none → o.word = 4 → ends done 0 0 o closed) ∧
      (ready → mismatched c o = none → o.word ≠ 4 → (∃ why at1 at2 flag, allData r cnum c o ks s = .error (.stall why at1 at2 flag)) →
        exec done s = .next s) ∧
      (∀ parts s1 s2 b, ready → mismatched c o = none → o.word ≠ 4 → allData r cnum c o ks s = .ok (parts, s1) → o.dst = some b →
        let res := if o.word = 2 then reduceAll o.op (if o.op = 1 then 2 else 4) parts (o.bytes / (if o.op = 1 then 2 else 4))
          else (parts.flatMap id, 0)
        baseWrite r b b.cap.cursor res.1 { s1 with cur := { s1.cur with site := o.site } } = .ok s2 →
        ends done 0 0 { o with flags := res.2 } (modColl r cnum (closeColl false) { s2 with cur := s.cur }))) ∧
    (∀ o, landReady r cnum s = none → c.others = [o] → c.op = none → o.status = none →
      (o.word = 0 → allSent r cnum o s = true → ends done 0 0 o (modColl r cnum (fun c => { c with others := [] }) s)) ∧
      (o.word ≠ 0 ∨ allSent r cnum o s = false → exec done s = .next s)) ∧
    (let late (o : CollOp) : Prop := field (rink r s).collto.toNat 47 0 ≠ 0 ∧ field (rink r s).collto.toNat 47 0 ≤ o.timer
     let mainLate (o : CollOp) : Prop := late o ∧ (haveAll c o = false ∨ o.lost = true)
     let sendLate (o : CollOp) : Prop := late o ∧ o.status = none ∧ (o.word ≠ 0 ∨ o.lost = true)
     let timesOut (o : CollOp) (u : State) : Prop := u.sites = s.sites ∧ exec (.collectiveTimeout r cnum) s =
      .next (timeoutTrap r cnum (countShared o.die (7 + o.ce) 3 (rinkFn r s) 1 (endOp r cnum 4 0 o u)))
     ((∀ o, c.op = some o → ¬mainLate o) → (∀ o ∈ c.others, ¬sendLate o) → exec (.collectiveTimeout r cnum) s = .next s) ∧
     (∀ o, c.op = some o → mainLate o → ∃ u, timesOut o u ∧ (collAt r cnum u).op = none ∧ (collAt r cnum u).refuse = true ∧
      (collAt r cnum u).isOpen = false ∧ (collAt r cnum u).others = c.others) ∧
     (∀ o, c.op = none → c.others = [o] → sendLate o → ∃ u, timesOut o u ∧ (collAt r cnum u).others = [] ∧
      (collAt r cnum u).refuse = c.refuse)) ∧
    (∀ o status detail, (site o.site s).q.collFifo.length < 16 → o.detached = true ∨ status ≠ 0 →
      (site o.site (endOp r cnum status detail o s)).q.collFifo = (site o.site s).q.collFifo ++ [collElement o cnum status detail])

/-- The flits of a port: those that pass the CRC and come in order are acknowledged and go on, the others are answered with a negative
acknowledgement; credits, keep-alive flits, replays, lane failures and retraining (16 R381 to R385, R387, R390, R392). The CRC's initial value, a
refusal's FID, the one credit of a training, and the op and size of a landed group word, which no flit carries, are the model's choice
(notes/assumptions/27.md). -/
def Obligations.LinkEvents : Prop :=
  ∀ (s : State) (n : Nat) (f : Flit) (good : BitVec 16),
    let p := portOf n s
    let up : Prop := if f.kind = 3 then aliveOn p = true else p.st = 2
    let inOrder : Prop := f.crc = crc64 (flitBytes f) ∧ f.seq = p.lastGood + 1
    let mine : Prop := s.devid.v = true ∧ s.devid.id.toNat = f.dst
    let taken (u : State) : Prop := (portOf n u).lastGood = f.seq ∧ u.mem = s.mem ∧ u.rinks = s.rinks ∧ u.sites = s.sites
    let credited (u : State) : Prop := taken u ∧ ∃ v, taken v ∧ u = queueFlit n (creditOf v) v
    let arrives (i : Instr) : Prop :=
      (¬up → exec i s = .next s) ∧
      (up → ¬inOrder → ∃ t, exec i s = .next t ∧ t.sent = s.sent ++ [.nak n p.lastGood] ∧ (portOf n t).lastGood = p.lastGood ∧
        (portOf n t).crcBad.toNat = satAdd 48 p.crcBad.toNat 1 ∧ t.mem = s.mem ∧ t.rinks = s.rinks)
    let reserved (i : Instr) : Prop := up → inOrder → 4 ≤ f.kind →
      ∃ t, exec i s = .next t ∧ taken t ∧ (portOf n t).badKind.toNat = satAdd 48 p.badKind.toNat 1
    let isNext (z : Flit) : Prop := z.seq = p.nextSeq ∧ z.crc = crc64 (flitBytes z)
    let lanes := if p.lanes = 0 then 8 else p.lanes
    let down (t : State) : Prop := (portOf n t).st = 0 ∧ (portOf n t).lanes = 0 ∧ (portOf n t).buf = [] ∧ (portOf n t).waiting = [] ∧
      (portOf n t).nextSeq = 1 ∧ (portOf n t).lastGood = 0 ∧ (portOf n t).credit = 0 ∧
      ∀ r c o, (collAt r c s).op = some o → (∃ g ∈ p.waiting ++ p.buf, flitOf r c o s g = true) →
        ∃ v, (collAt r c t).op = some v ∧ v.lost = true
    let again (q : Port) (fs : List Flit) : List Flit := fs.filter fun z => if z.kind = 3 then aliveOn q else q.st == 2
    let counted (q : Port) (fs : List Flit) : Nat := if again q fs = [] then p.retry.toNat else satAdd 48 p.retry.toNat 1
    let replays (fs : List Flit) : Prop := ∃ t, exec (.negativeAcknowledge n good) s = .next t ∧
      t.sent = s.sent ++ (again p fs).map (Out.flit n) ∧ (portOf n t).buf = p.buf ∧ (portOf n t).retry.toNat = counted p fs ∧ t.mem = s.mem
    (∀ (x : Contribution) (a : Nat), landingVa x 0 x.data.length s = some a →
      let waits : Prop := (collAt x.rink x.cnum s).stalled ≠ [] ∨ landingMoves x.rink a x.data.length s = true
      (waits → (comeWhole (some n) x s).sent = s.sent ∧ (comeWhole (some n) x s).mem = s.mem ∧
        (collAt x.rink x.cnum (comeWhole (some n) x s)).stalled = (collAt x.rink x.cnum s).stalled ++ [⟨some n, some x, a, x.data.length⟩]) ∧
      (¬waits → comeWhole (some n) x s = settleArrival x (queueFlit n (creditOf s) s))) ∧
    arrives (.dataFlit n f) ∧ arrives (.refusalFlit n f) ∧ arrives (.creditFlit ⟨n, f⟩) ∧ arrives (.keepAliveFlit ⟨n, f⟩) ∧
    reserved (.dataFlit n f) ∧ reserved (.refusalFlit n f) ∧
    (p.st = 2 → inOrder → f.kind < 4 →
      (mine → rinkOfFid f.fid s = none → ∃ u, exec (.dataFlit n f) s = .next (sendToward (refusalOf f 4 u) u) ∧ credited u) ∧
      (∀ r, mine → rinkOfFid f.fid s = some r → f.offset = 0 → f.word ≠ 4 → f.payload.length = f.bytes + 1 →
        ∃ u op size, taken { u with rinks := s.rinks } ∧ (f.word < 2 → op = 0 ∧ size = 0) ∧
          exec (.dataFlit n f) s = .next (comeWhole (some n) ⟨r, f.src, f.cnum, f.word, f.rank, op, size, f.payload⟩ u)) ∧
      (∀ o, ¬mine → routeTo f.dst s = some o → ∃ u, exec (.dataFlit n f) s = .next (queueFlit o f u) ∧ credited u) ∧
      (¬mine → routeTo f.dst s = none → ∃ u, exec (.dataFlit n f) s = .next (sendToward (refusalOf f 1 u) u) ∧ credited u) ∧
      (∀ o, ¬mine → routeTo f.dst s = some o → ∃ u, exec (.refusalFlit n f) s = .next (queueFlit o f u) ∧ taken u) ∧
      (∀ r, mine → rinkOfFid f.fid s = some r → ∃ u, exec (.refusalFlit n f) s = .next (refusedOp r f u) ∧ taken u)) ∧
    (p.st = 2 → inOrder → ∃ t, exec (.creditFlit ⟨n, f⟩) s = .next t ∧
      (p.waiting = [] → (portOf n t).credit = p.credit + 1 ∧ t.sent = s.sent ∧ taken t ∧
        ((∀ z ∈ p.buf, z.seq ≠ f.ack) → (portOf n t).buf = p.buf) ∧
        ∀ pre g rest, p.buf = pre ++ g :: rest → g.seq = f.ack → (∀ z ∈ pre, z.seq ≠ f.ack) → (portOf n t).buf = rest) ∧
      (∀ g, p.waiting = [g] → g.kind = 0 → p.buf.length < 128 → p.credit = 0 → (∀ z ∈ p.buf, z.seq ≠ f.ack) →
        ∃ z, t.sent = s.sent ++ [.flit n z] ∧ (portOf n t).waiting = [] ∧ (portOf n t).buf = p.buf ++ [z] ∧ (portOf n t).credit = 0 ∧
          isNext z ∧ z.ack = f.seq ∧ z.payload = g.payload)) ∧
    (up → inOrder → p.waiting = [] → p.buf = [] → ∃ t z, exec (.keepAliveFlit ⟨n, f⟩) s = .next t ∧ taken t ∧ t.sent = s.sent ++ [.flit n z] ∧
      z.kind = 3 ∧ isNext z ∧ z.ack = f.seq ∧ (portOf n t).buf = [z] ∧ (portOf n t).credit = p.credit) ∧
    (∀ pre g rest, p.buf = pre ++ g :: rest → g.seq = good → (∀ z ∈ pre, z.seq ≠ good) → replays rest) ∧
    ((∀ z ∈ p.buf, z.seq ≠ good) → replays p.buf) ∧
    (p.st = 0 → exec (.laneFailure n) s = .next s) ∧
    (p.st ≠ 0 → ∃ t, exec (.laneFailure n) s = .next t ∧ (p.lanes = 7 → down t) ∧
      (p.lanes ≠ 7 → portOf n t = { p with st := 1, lanes := 7 } ∧ t.rinks = s.rinks)) ∧
    (p.st = 1 → ∃ t, exec (.retrainComplete n) s = .next t ∧ (portOf n t).st = (if s.power.st = .retention then 3 else 2) ∧
      (portOf n t).lanes = lanes ∧ (p.waiting = [] → p.buf.length < 128 →
        (s.power.st ≠ .retention → (portOf n t).retry.toNat = counted { p with st := 2 } p.buf ∧
          let sent := s.sent ++ (again { p with st := 2 } p.buf).map (Out.flit n)
          (p.granted = true → t.sent = sent ∧ (portOf n t).buf = p.buf) ∧
          (p.granted = false → ∃ z, t.sent = sent ++ [.flit n z] ∧ z.kind = 1 ∧ isNext z ∧
            (portOf n t).buf = p.buf ++ [z] ∧ (portOf n t).granted = true)) ∧
        (s.power.st = .retention → p.keep = true → ∃ z, t.sent = s.sent ++ [.flit n z] ∧ z.kind = 3 ∧ isNext z ∧ (portOf n t).buf = p.buf ++ [z]) ∧
        (s.power.st = .retention → p.keep = false → t.sent = s.sent ∧ (portOf n t).buf = p.buf))) ∧
    (p.st ≠ 1 → exec (.retrainComplete n) s = .next s ∧ exec (.retrainTimeout n) s = .next s) ∧
    (p.st = 1 → ∃ t, exec (.retrainTimeout n) s = .next t ∧ down t)

/-! ## Frames, reset and the memories' form -/

/-- What the register words leave alone: a word of the ALU or immediate group changes its destination register and the program counter only, and a destination
of s0 nothing but the program counter; a capability word its capability register; a transfer no register. All of memory, every special register and every other
context read as before (02 R43, R44, 03 R86, 04 R95, R99 to R103, R121). -/
def Obligations.RegisterWordFrames : Prop :=
  ∀ (s : State) (d a b c : BitVec 5) (k l e : BitVec 4) (imm : BitVec 16) (sh : BitVec 6) (far : BitVec 26),
    readableS s a → readableS s b → readableS s c → settledS s d → readableA s k → readableA s l → settledA s e →
    (myCtx s).divFree ≤ (mySite s).now →
    let frame (i : Instr) (kept : Ctx → Ctx → Prop) : Prop :=
      ∃ t, exec i s = .next t ∧ OnlyMyCtx s t ∧ MemoryKept s t ∧ kept (myCtx s) (myCtx t) ∧ SpecialsKept (myCtx s) (myCtx t)
    let scalars (x y : Ctx) : Prop := ∀ r, getS y r = getS x r
    (∀ i ∈ [Instr.add d a b, .sub d a b, .andR d a b, .orR d a b, .xorR d a b, .andn d a b, .shl d a b, .shr d a b, .sra d a b, .slt d a b,
        .sltn d a b, .seq d a b, .minR d a b, .maxR d a b, .minn d a b, .maxn d a b, .mul d a b, .mulh d a b, .mulhn d a b, .addw d a b,
        .subw d a b, .sel d a b c, .clz d a, .ctz d a, .popc d a, .div d a b, .divn d a b, .rem d a b, .remn d a b, .lui d imm, .addi d a imm,
        .andi d a imm, .ori d a imm, .xori d a imm, .shli d a sh, .shri d a sh, .srai d a sh, .slti d a imm, .sltni d a imm, .orhi d a imm,
        .orti d a imm, .muli d a imm, .kcover d k l, .kfld d k 2, .mfs d 0x000, .mfs d 0x008, .mfs d 0x018],
      frame i fun x y => ScalarsKept d x y ∧ CapsKept x y ∧ (d = 0 → y.s = x.s)) ∧
    (∀ i ∈ [Instr.kmov e k, .kdrop e k, .kstep e k a, .kseek e k a, .kmask e k a, .kclip e k a],
      frame i fun x y => scalars x y ∧ ∀ r, r ≠ e → getA y r = getA x r) ∧
    (freeMode s → outsideSlots s → targetInside s ((myCtx s).pc + BitVec.ofInt 64 (4 * imm.toInt)) →
      targetInside s ((myCtx s).pc + BitVec.ofInt 64 (4 * far.toInt)) →
      ∀ i ∈ [Instr.beq a b imm, .bne a b imm, .blt a b imm, .bge a b imm, .bltn a b imm, .bgen a b imm, .jmp far],
        frame i fun x y => scalars x y ∧ CapsKept x y)

/-- The values the spec gives for reset (02 R61 to R66, 10 R268, R269, R445, 13 R321, 14 R348, 15 R362, R363, R367, R369, 18 R414, R418, 19 R428, R429), and
that memory then lists nothing, its canonical form. That a byte of memory nothing has written reads as 0 is the model's choice (notes/assumptions/4.md). -/
def Obligations.ResetState : Prop :=
  let s := State.reset
  Canonical s ∧ (∀ a, s.mem.read a = 0) ∧ noPower s = false ∧
  (∀ k, (∀ h, ownField (site k s).own h = none) ∧ (site k s).own.bad = false ∧ (site k s).tm.split = 0x600 ∧ (site k s).tm.regions = [] ∧
    (let l := (site k s).ve.loop
     l.pturn = 0 ∧ l.size = 48 ∧ l.turn = 0 ∧ l.loopno = 0 ∧ l.depth = 1 ∧ l.count = 0 ∧ l.pass = 0) ∧
    (∀ x,
      let y := ctxOf (site k s) x
      y.fstat = 0 ∧ y.fctl = 1 ∧ y.trap.ecause = 0 ∧ y.trap.epc = 0 ∧ y.trap.enpc = 0 ∧ y.trap.eds = 0 ∧ y.trap.rscnt = 0 ∧
        (∀ n, y.trap.rse.get 0 n = 0) ∧ y.ecnt = 0 ∧ y.ecntSat = false)) ∧
  (∀ r, (rink r s).valid = false ∧ (rink r s).susp = false ∧ (rink r s).suspd = false ∧ (rink r s).bad = false ∧
    (∀ n, ((rink r s).place.get Place.reset n).v = false) ∧ (rink r s).rpat = 0xFFFF ∧ (rink r s).rpatPend = false ∧ (rink r s).voteCap = 7 ∧
    (rink r s).voteEff = 0 ∧ (rink r s).work.slice = 8000000 ∧ (rink r s).recov.limit = 3 ∧ (rink r s).recov.auto = true) ∧
  (∀ d, (die d s).band = 15 ∧ (die d s).falling = false ∧ (∀ b < 16, (die d s).ttab.get 0 b = 0x3C) ∧
    (∀ c < 36, (die d s).cpat.get 0 c = 0xFFFF ∧ (die d s).cpatLock.get true c = false)) ∧
  (∀ v, (fnOf v s).migctl = 0x400002 ∧ (fnOf v s).en = false) ∧
  (∀ p ∈ [(0, 2000, 550), (1, 2400, 600), (2, 2800, 650), (3, 3200, 700), (4, 3400, 730), (5, 3600, 770), (6, 3800, 810), (7, 4000, 850)],
    s.power.freq.get 0 p.1 = p.2.1 ∧ s.power.volt.get 0 p.1 = p.2.2)

/-- Every step keeps off-chip memory and host memory in canonical form: addresses strictly rising, and no listed byte that reads as an unlisted one
(11 R281). -/
def Obligations.StepKeepsCanonical : Prop :=
  ∀ (s t : State), Canonical s → step s = .next t → Canonical t
end

