-- ==== Sys2Proof/Laws/Table.lean ====
section
/-!
SUPPORT. Tables and memories: a read after a write, and the canonical form that every write keeps.
-/

namespace Sys2Proof.Machine

/-! ## Reads after writes -/

theorem lookupKey_insertKey_same {α : Type} (d v : α) (k : Nat) (l : List (Nat × α)) : lookupKey d k (insertKey k v l) = v := by
  induction l with
  | nil => simp [insertKey, lookupKey]
  | cons c cs ih =>
    simp only [insertKey]
    split
    · simp [lookupKey]
    · split <;> simp_all [lookupKey]

theorem lookupKey_insertKey_ne {α : Type} (d v : α) {k j : Nat} (h : j ≠ k) (l : List (Nat × α)) :
    lookupKey d j (insertKey k v l) = lookupKey d j l := by
  induction l with
  | nil => simp [insertKey, lookupKey, Ne.symm h]
  | cons c cs ih =>
    simp only [insertKey]
    split
    · next e => subst e; simp [lookupKey, Ne.symm h]
    · split <;> simp [lookupKey, Ne.symm h, ih]

theorem lookupKey_eraseKey_same {α : Type} (d : α) (k : Nat) (l : List (Nat × α)) : lookupKey d k (eraseKey k l) = d := by
  induction l with
  | nil => rfl
  | cons c cs ih =>
    simp only [eraseKey]
    split
    · exact ih
    · next e => simp [lookupKey, e, ih]

theorem lookupKey_eraseKey_ne {α : Type} (d : α) {k j : Nat} (h : j ≠ k) (l : List (Nat × α)) :
    lookupKey d j (eraseKey k l) = lookupKey d j l := by
  induction l with
  | nil => rfl
  | cons c cs ih =>
    simp only [eraseKey]
    split
    · next e => simp [lookupKey, e, Ne.symm h, ih]
    · simp [lookupKey, ih]

@[simp] theorem Table.get_put_same {α : Type} (t : Table α) (d v : α) (k : Nat) : (t.put k v).get d k = v :=
  lookupKey_insertKey_same d v k t.cells

theorem Table.get_put_ne {α : Type} (t : Table α) (d v : α) {k j : Nat} (h : j ≠ k) : (t.put k v).get d j = t.get d j :=
  lookupKey_insertKey_ne d v h t.cells

theorem Table.get_put {α : Type} (t : Table α) (d v : α) (k j : Nat) :
    (t.put k v).get d j = if j = k then v else t.get d j := by
  split
  · next h => subst h; exact t.get_put_same d v j
  · next h => exact t.get_put_ne d v h

@[simp] theorem Table.get_setD_same {α : Type} [DecidableEq α] (t : Table α) (d v : α) (k : Nat) : (t.setD d k v).get d k = v := by
  unfold Table.setD Table.get
  split
  · next h => rw [h]; exact lookupKey_eraseKey_same d k t.cells
  · exact lookupKey_insertKey_same d v k t.cells

theorem Table.get_setD_ne {α : Type} [DecidableEq α] (t : Table α) (d v : α) {k j : Nat} (h : j ≠ k) :
    (t.setD d k v).get d j = t.get d j := by
  unfold Table.setD Table.get
  split
  · exact lookupKey_eraseKey_ne d h t.cells
  · exact lookupKey_insertKey_ne d v h t.cells

/-- A put of a key is not changed by an earlier put of the same key. -/
theorem insertKey_insertKey {α : Type} (k : Nat) (v w : α) (l : List (Nat × α)) : insertKey k w (insertKey k v l) = insertKey k w l := by
  induction l with
  | nil => simp [insertKey]
  | cons c cs ih =>
    simp only [insertKey]
    split
    · next e => simp [insertKey]
    · split
      · simp [insertKey]
      · next h1 h2 => simp [insertKey, h1, h2, ih]

@[simp] theorem Table.put_put {α : Type} (t : Table α) (k : Nat) (v w : α) : (t.put k v).put k w = t.put k w := by
  simp [Table.put, insertKey_insertKey]

/-! ## Memories -/

@[simp] theorem Mem.read_write_same (m : Mem) (a : Nat) (v : Byte) : (m.write a v).read a = v := Table.get_setD_same m 0 v a

theorem Mem.read_write_ne (m : Mem) {a b : Nat} (v : Byte) (h : b ≠ a) : (m.write a v).read b = m.read b :=
  Table.get_setD_ne m 0 v h

theorem Mem.read_write (m : Mem) (a b : Nat) (v : Byte) : (m.write a v).read b = if b = a then v else m.read b := by
  split
  · next h => subst h; exact m.read_write_same b v
  · next h => exact m.read_write_ne v h

/-- A write of bytes leaves every other address alone. -/
theorem Mem.read_writeBytes_out (m : Mem) (a b : Nat) (l : List Byte) (h : b < a ∨ a + l.length ≤ b) :
    (m.writeBytes a l).read b = m.read b := by
  induction l generalizing m a with
  | nil => rfl
  | cons x xs ih =>
    simp only [List.length_cons] at h
    rw [Mem.writeBytes, ih _ _ (by omega), Mem.read_write_ne _ _ (by omega)]

/-- A written byte reads back. -/
theorem Mem.read_writeBytes_in (m : Mem) (a i : Nat) (l : List Byte) (h : i < l.length) :
    (m.writeBytes a l).read (a + i) = l[i] := by
  induction l generalizing m a i with
  | nil => simp at h
  | cons x xs ih =>
    cases i with
    | zero => rw [Mem.writeBytes, Mem.read_writeBytes_out _ _ _ _ (by omega)]; simp
    | succ i =>
      have := ih (m.write a x) (a + 1) i (by simpa using h)
      simpa [Mem.writeBytes, Nat.add_assoc, Nat.add_comm 1] using this

theorem Mem.length_readBytes (m : Mem) (a n : Nat) : (m.readBytes a n).length = n := by
  induction n generalizing a with
  | zero => rfl
  | succ n ih => simp [Mem.readBytes, ih]

/-- The bytes just written read back. -/
theorem Mem.readBytes_writeBytes (m : Mem) (a : Nat) (l : List Byte) : (m.writeBytes a l).readBytes a l.length = l := by
  induction l generalizing m a with
  | nil => rfl
  | cons x xs ih =>
    simp only [Mem.writeBytes, List.length_cons, Mem.readBytes]
    rw [ih, Mem.read_writeBytes_out _ _ _ _ (by omega), Mem.read_write_same]

/-! ## The canonical form -/

theorem risingFrom_mono {α : Type} {lo hi : Nat} (h : lo ≤ hi) {l : List (Nat × α)} (w : risingFrom hi l = true) : risingFrom lo l = true := by
  cases l with
  | nil => rfl
  | cons c cs => simp only [risingFrom, Bool.and_eq_true, decide_eq_true_eq] at *; exact ⟨by omega, w.2⟩

theorem risingFrom_insertKey {α : Type} {lo k : Nat} (v : α) (h : lo ≤ k) {l : List (Nat × α)} (w : risingFrom lo l = true) :
    risingFrom lo (insertKey k v l) = true := by
  induction l generalizing lo with
  | nil => simp [insertKey, risingFrom, h]
  | cons c cs ih =>
    simp only [risingFrom, Bool.and_eq_true, decide_eq_true_eq] at w
    simp only [insertKey]
    split
    · next e => subst e; simp [risingFrom, w.1, w.2]
    · split
      · next h1 h2 => simp [risingFrom, h, w.2]; omega
      · next h1 h2 => simp only [risingFrom, Bool.and_eq_true, decide_eq_true_eq]; exact ⟨w.1, ih (by omega) w.2⟩

theorem risingFrom_eraseKey {α : Type} {lo k : Nat} {l : List (Nat × α)} (w : risingFrom lo l = true) :
    risingFrom lo (eraseKey k l) = true := by
  induction l generalizing lo with
  | nil => rfl
  | cons c cs ih =>
    simp only [risingFrom, Bool.and_eq_true, decide_eq_true_eq] at w
    simp only [eraseKey]
    split
    · exact risingFrom_mono (by omega) (ih w.2)
    · simp only [risingFrom, Bool.and_eq_true, decide_eq_true_eq]; exact ⟨w.1, ih w.2⟩

theorem noDefault_insertKey {α : Type} [DecidableEq α] {d v : α} (h : v ≠ d) {k : Nat} {l : List (Nat × α)} (w : noDefault d l = true) :
    noDefault d (insertKey k v l) = true := by
  induction l with
  | nil => simp [insertKey, noDefault, h]
  | cons c cs ih =>
    simp only [noDefault, Bool.and_eq_true, decide_eq_true_eq] at w
    simp only [insertKey]
    split
    · simp [noDefault, h, w.2]
    · split
      · simp [noDefault, h, w.1, w.2]
      · simp [noDefault, w.1, ih w.2]

theorem noDefault_eraseKey {α : Type} [DecidableEq α] {d : α} {k : Nat} {l : List (Nat × α)} (w : noDefault d l = true) :
    noDefault d (eraseKey k l) = true := by
  induction l with
  | nil => rfl
  | cons c cs ih =>
    simp only [noDefault, Bool.and_eq_true, decide_eq_true_eq] at w
    simp only [eraseKey]
    split
    · exact ih w.2
    · simp [noDefault, w.1, ih w.2]

theorem Table.wf_setD {α : Type} [DecidableEq α] {t : Table α} {d : α} (k : Nat) (v : α) (w : t.wf d = true) : (t.setD d k v).wf d = true := by
  simp only [Table.wf, Bool.and_eq_true] at *
  unfold Table.setD
  split
  · exact ⟨risingFrom_eraseKey w.1, noDefault_eraseKey w.2⟩
  · next h => exact ⟨risingFrom_insertKey v (Nat.zero_le k) w.1, noDefault_insertKey h w.2⟩

theorem Mem.wf_empty : Mem.wf Table.empty = true := rfl

theorem Mem.wf_write {m : Mem} (a : Nat) (v : Byte) (w : m.wf = true) : (m.write a v).wf = true := Table.wf_setD a v w

theorem Mem.wf_writeBytes {m : Mem} (a : Nat) (l : List Byte) (w : m.wf = true) : (m.writeBytes a l).wf = true := by
  induction l generalizing m a with
  | nil => exact w
  | cons x xs ih => exact ih (a + 1) (Mem.wf_write a x w)

/-- A key below a rising list reads the default. -/
theorem lookupKey_lt {α : Type} (d : α) {lo k : Nat} (h : k < lo) {l : List (Nat × α)} (w : risingFrom lo l = true) : lookupKey d k l = d := by
  induction l generalizing lo with
  | nil => rfl
  | cons c cs ih =>
    simp only [risingFrom, Bool.and_eq_true, decide_eq_true_eq] at w
    simp only [lookupKey]
    rw [if_neg (by omega)]
    exact ih (by omega) w.2

end Sys2Proof.Machine
end

