-- ==== Sys2Proof/Laws/Cells.lean ====
section
/-!
SUPPORT. The operations that drop or copy a range of a table keep its canonical form.
-/

namespace Sys2Proof.Machine

theorem risingFrom_filter {α : Type} (f : Nat × α → Bool) {lo : Nat} {l : List (Nat × α)} (w : risingFrom lo l = true) :
    risingFrom lo (l.filter f) = true := by
  induction l generalizing lo with
  | nil => rfl
  | cons c cs ih =>
    simp only [risingFrom, Bool.and_eq_true, decide_eq_true_eq] at w
    cases h : f c with
    | true => simp only [List.filter_cons_of_pos h, risingFrom, Bool.and_eq_true, decide_eq_true_eq]; exact ⟨w.1, ih w.2⟩
    | false => rw [List.filter_cons_of_neg (by simp [h])]; exact risingFrom_mono (by omega) (ih w.2)

theorem noDefault_filter {α : Type} [DecidableEq α] {d : α} (f : Nat × α → Bool) {l : List (Nat × α)} (w : noDefault d l = true) :
    noDefault d (l.filter f) = true := by
  induction l with
  | nil => rfl
  | cons c cs ih =>
    simp only [noDefault, Bool.and_eq_true, decide_eq_true_eq] at w
    cases h : f c with
    | true => simp [List.filter_cons_of_pos h, noDefault, w.1, ih w.2]
    | false => rw [List.filter_cons_of_neg (by simp [h])]; exact ih w.2

/-- A range of addresses that is dropped reads as the default. -/
theorem Table.wf_dropRange {α : Type} [DecidableEq α] {t : Table α} {d : α} (lo hi : Nat) (w : t.wf d = true) : (dropRange lo hi t).wf d = true := by
  simp only [Table.wf, Bool.and_eq_true] at *
  exact ⟨risingFrom_filter _ w.1, noDefault_filter _ w.2⟩

theorem risingFrom_append {α : Type} {lo mid : Nat} {l m : List (Nat × α)} (h : lo ≤ mid) (wl : risingFrom lo l = true)
    (hl : ∀ c ∈ l, c.1 < mid) (wm : risingFrom mid m = true) : risingFrom lo (l ++ m) = true := by
  induction l generalizing lo with
  | nil => exact risingFrom_mono h wm
  | cons c cs ih =>
    simp only [risingFrom, Bool.and_eq_true, decide_eq_true_eq] at wl
    have hc := hl c (by simp)
    simp only [List.cons_append, risingFrom, Bool.and_eq_true, decide_eq_true_eq]
    exact ⟨wl.1, ih (by omega) wl.2 fun d hd => hl d (by simp [hd])⟩

theorem noDefault_append {α : Type} [DecidableEq α] {d : α} {l m : List (Nat × α)} (wl : noDefault d l = true) (wm : noDefault d m = true) :
    noDefault d (l ++ m) = true := by
  induction l with
  | nil => exact wm
  | cons c cs ih =>
    simp only [noDefault, Bool.and_eq_true, decide_eq_true_eq] at wl
    simp [noDefault, wl.1, ih wl.2]

/-- Cells from `src` on that move to `dst` still rise. -/
theorem risingFrom_shift {α : Type} {src dst lo : Nat} {l : List (Nat × α)} (w : risingFrom lo l = true) (h : src ≤ lo) :
    risingFrom (lo - src + dst) (l.map fun c => (c.1 - src + dst, c.2)) = true := by
  induction l generalizing lo with
  | nil => rfl
  | cons c cs ih =>
    simp only [risingFrom, Bool.and_eq_true, decide_eq_true_eq] at w
    simp only [List.map_cons, risingFrom, Bool.and_eq_true, decide_eq_true_eq]
    exact ⟨by omega, risingFrom_mono (by omega) (ih w.2 (by omega))⟩

theorem risingFrom_of_ge {α : Type} {lo mid : Nat} {l : List (Nat × α)} (w : risingFrom lo l = true) (h : ∀ c ∈ l, mid ≤ c.1) :
    risingFrom mid l = true := by
  cases l with
  | nil => rfl
  | cons c cs =>
    simp only [risingFrom, Bool.and_eq_true, decide_eq_true_eq] at *
    exact ⟨h c (by simp), w.2⟩

theorem noDefault_shift {α : Type} [DecidableEq α] {d : α} (f : Nat → Nat) {l : List (Nat × α)} (w : noDefault d l = true) :
    noDefault d (l.map fun c => (f c.1, c.2)) = true := by
  induction l with
  | nil => rfl
  | cons c cs ih =>
    simp only [noDefault, Bool.and_eq_true, decide_eq_true_eq] at w
    simp [noDefault, w.1, ih w.2]

/-- A page move keeps the canonical form (14 R347). -/
theorem Table.wf_copyCells {α : Type} [DecidableEq α] {t : Table α} {d : α} (src dst n : Nat) (w : t.wf d = true) :
    (copyCells src dst n t).wf d = true := by
  simp only [Table.wf, Bool.and_eq_true] at *
  have mid : risingFrom dst ((t.cells.filter fun c => src ≤ c.1 && c.1 < src + n).map fun c => (c.1 - src + dst, c.2)) = true := by
    have := risingFrom_shift (dst := dst) (risingFrom_of_ge (mid := src) (risingFrom_filter (fun c => src ≤ c.1 && c.1 < src + n) w.1) (by simp_all))
      (Nat.le_refl src)
    simpa using this
  refine ⟨risingFrom_append (mid := dst + n) (Nat.zero_le _) (risingFrom_append (Nat.zero_le dst) (risingFrom_filter _ w.1) (by simp) mid) ?_
    (risingFrom_of_ge (risingFrom_filter _ w.1) (by simp)),
    noDefault_append (noDefault_append (noDefault_filter _ w.2) (noDefault_shift (fun k => k - src + dst) (noDefault_filter _ w.2))) (noDefault_filter _ w.2)⟩
  intro c hc
  simp only [List.mem_append, List.mem_filter, List.mem_map, Bool.and_eq_true, decide_eq_true_eq] at hc
  rcases hc with ⟨_, h⟩ | ⟨b, ⟨_, h⟩, rfl⟩
  · omega
  · simp only; omega

end Sys2Proof.Machine
end

