-- ==== Sys2Proof/Laws/State.lean ====
section
/-!
SUPPORT. What each update of the state leaves alone, one lemma a field, and the accessors after the updates.
-/

namespace Sys2Proof.Machine

/-! ## Fields an update does not touch -/

@[simp] theorem setSite_cycle (k : Nat) (c : Site) (s : State) : (setSite k c s).cycle = s.cycle := rfl
@[simp] theorem setSite_rinks (k : Nat) (c : Site) (s : State) : (setSite k c s).rinks = s.rinks := rfl
@[simp] theorem setSite_fns (k : Nat) (c : Site) (s : State) : (setSite k c s).fns = s.fns := rfl
@[simp] theorem setSite_dies (k : Nat) (c : Site) (s : State) : (setSite k c s).dies = s.dies := rfl
@[simp] theorem setSite_windows (k : Nat) (c : Site) (s : State) : (setSite k c s).windows = s.windows := rfl
@[simp] theorem setSite_keys (k : Nat) (c : Site) (s : State) : (setSite k c s).keys = s.keys := rfl
@[simp] theorem setSite_mem (k : Nat) (c : Site) (s : State) : (setSite k c s).mem = s.mem := rfl
@[simp] theorem setSite_memErrs (k : Nat) (c : Site) (s : State) : (setSite k c s).memErrs = s.memErrs := rfl
@[simp] theorem setSite_metaErrs (k : Nat) (c : Site) (s : State) : (setSite k c s).metaErrs = s.metaErrs := rfl
@[simp] theorem setSite_grants (k : Nat) (c : Site) (s : State) : (setSite k c s).grants = s.grants := rfl
@[simp] theorem setSite_seals (k : Nat) (c : Site) (s : State) : (setSite k c s).seals = s.seals := rfl
@[simp] theorem setSite_counters (k : Nat) (c : Site) (s : State) : (setSite k c s).counters = s.counters := rfl
@[simp] theorem setSite_views (k : Nat) (c : Site) (s : State) : (setSite k c s).views = s.views := rfl
@[simp] theorem setSite_host (k : Nat) (c : Site) (s : State) : (setSite k c s).host = s.host := rfl
@[simp] theorem setSite_atomics (k : Nat) (c : Site) (s : State) : (setSite k c s).atomics = s.atomics := rfl
@[simp] theorem setSite_moves (k : Nat) (c : Site) (s : State) : (setSite k c s).moves = s.moves := rfl
@[simp] theorem setSite_migrations (k : Nat) (c : Site) (s : State) : (setSite k c s).migrations = s.migrations := rfl
@[simp] theorem setSite_power (k : Nat) (c : Site) (s : State) : (setSite k c s).power = s.power := rfl
@[simp] theorem setSite_boot (k : Nat) (c : Site) (s : State) : (setSite k c s).boot = s.boot := rfl
@[simp] theorem setSite_devid (k : Nat) (c : Site) (s : State) : (setSite k c s).devid = s.devid := rfl
@[simp] theorem setSite_rtab (k : Nat) (c : Site) (s : State) : (setSite k c s).rtab = s.rtab := rfl
@[simp] theorem setSite_pcremap (k : Nat) (c : Site) (s : State) : (setSite k c s).pcremap = s.pcremap := rfl
@[simp] theorem setSite_sent (k : Nat) (c : Site) (s : State) : (setSite k c s).sent = s.sent := rfl
@[simp] theorem setSite_agenda (k : Nat) (c : Site) (s : State) : (setSite k c s).agenda = s.agenda := rfl
@[simp] theorem setSite_cur (k : Nat) (c : Site) (s : State) : (setSite k c s).cur = s.cur := rfl
@[simp] theorem setSite_fresh (k : Nat) (c : Site) (s : State) : (setSite k c s).fresh = s.fresh := rfl
@[simp] theorem setSite_stored (k : Nat) (c : Site) (s : State) : (setSite k c s).stored = s.stored := rfl
@[simp] theorem setSite_synced (k : Nat) (c : Site) (s : State) : (setSite k c s).synced = s.synced := rfl
@[simp] theorem setSite_held (k : Nat) (c : Site) (s : State) : (setSite k c s).held = s.held := rfl

@[simp] theorem modSite_cycle (k : Nat) (f : Site → Site) (s : State) : (modSite k f s).cycle = s.cycle := rfl
@[simp] theorem modSite_rinks (k : Nat) (f : Site → Site) (s : State) : (modSite k f s).rinks = s.rinks := rfl
@[simp] theorem modSite_fns (k : Nat) (f : Site → Site) (s : State) : (modSite k f s).fns = s.fns := rfl
@[simp] theorem modSite_dies (k : Nat) (f : Site → Site) (s : State) : (modSite k f s).dies = s.dies := rfl
@[simp] theorem modSite_windows (k : Nat) (f : Site → Site) (s : State) : (modSite k f s).windows = s.windows := rfl
@[simp] theorem modSite_keys (k : Nat) (f : Site → Site) (s : State) : (modSite k f s).keys = s.keys := rfl
@[simp] theorem modSite_mem (k : Nat) (f : Site → Site) (s : State) : (modSite k f s).mem = s.mem := rfl
@[simp] theorem modSite_memErrs (k : Nat) (f : Site → Site) (s : State) : (modSite k f s).memErrs = s.memErrs := rfl
@[simp] theorem modSite_metaErrs (k : Nat) (f : Site → Site) (s : State) : (modSite k f s).metaErrs = s.metaErrs := rfl
@[simp] theorem modSite_grants (k : Nat) (f : Site → Site) (s : State) : (modSite k f s).grants = s.grants := rfl
@[simp] theorem modSite_seals (k : Nat) (f : Site → Site) (s : State) : (modSite k f s).seals = s.seals := rfl
@[simp] theorem modSite_counters (k : Nat) (f : Site → Site) (s : State) : (modSite k f s).counters = s.counters := rfl
@[simp] theorem modSite_views (k : Nat) (f : Site → Site) (s : State) : (modSite k f s).views = s.views := rfl
@[simp] theorem modSite_host (k : Nat) (f : Site → Site) (s : State) : (modSite k f s).host = s.host := rfl
@[simp] theorem modSite_atomics (k : Nat) (f : Site → Site) (s : State) : (modSite k f s).atomics = s.atomics := rfl
@[simp] theorem modSite_moves (k : Nat) (f : Site → Site) (s : State) : (modSite k f s).moves = s.moves := rfl
@[simp] theorem modSite_migrations (k : Nat) (f : Site → Site) (s : State) : (modSite k f s).migrations = s.migrations := rfl
@[simp] theorem modSite_power (k : Nat) (f : Site → Site) (s : State) : (modSite k f s).power = s.power := rfl
@[simp] theorem modSite_boot (k : Nat) (f : Site → Site) (s : State) : (modSite k f s).boot = s.boot := rfl
@[simp] theorem modSite_devid (k : Nat) (f : Site → Site) (s : State) : (modSite k f s).devid = s.devid := rfl
@[simp] theorem modSite_rtab (k : Nat) (f : Site → Site) (s : State) : (modSite k f s).rtab = s.rtab := rfl
@[simp] theorem modSite_pcremap (k : Nat) (f : Site → Site) (s : State) : (modSite k f s).pcremap = s.pcremap := rfl
@[simp] theorem modSite_sent (k : Nat) (f : Site → Site) (s : State) : (modSite k f s).sent = s.sent := rfl
@[simp] theorem modSite_agenda (k : Nat) (f : Site → Site) (s : State) : (modSite k f s).agenda = s.agenda := rfl
@[simp] theorem modSite_cur (k : Nat) (f : Site → Site) (s : State) : (modSite k f s).cur = s.cur := rfl
@[simp] theorem modSite_fresh (k : Nat) (f : Site → Site) (s : State) : (modSite k f s).fresh = s.fresh := rfl
@[simp] theorem modSite_stored (k : Nat) (f : Site → Site) (s : State) : (modSite k f s).stored = s.stored := rfl
@[simp] theorem modSite_synced (k : Nat) (f : Site → Site) (s : State) : (modSite k f s).synced = s.synced := rfl
@[simp] theorem modSite_held (k : Nat) (f : Site → Site) (s : State) : (modSite k f s).held = s.held := rfl

@[simp] theorem modRink_cycle (r : Nat) (f : Rink → Rink) (s : State) : (modRink r f s).cycle = s.cycle := rfl
@[simp] theorem modRink_sites (r : Nat) (f : Rink → Rink) (s : State) : (modRink r f s).sites = s.sites := rfl
@[simp] theorem modRink_fns (r : Nat) (f : Rink → Rink) (s : State) : (modRink r f s).fns = s.fns := rfl
@[simp] theorem modRink_dies (r : Nat) (f : Rink → Rink) (s : State) : (modRink r f s).dies = s.dies := rfl
@[simp] theorem modRink_windows (r : Nat) (f : Rink → Rink) (s : State) : (modRink r f s).windows = s.windows := rfl
@[simp] theorem modRink_keys (r : Nat) (f : Rink → Rink) (s : State) : (modRink r f s).keys = s.keys := rfl
@[simp] theorem modRink_mem (r : Nat) (f : Rink → Rink) (s : State) : (modRink r f s).mem = s.mem := rfl
@[simp] theorem modRink_seals (r : Nat) (f : Rink → Rink) (s : State) : (modRink r f s).seals = s.seals := rfl
@[simp] theorem modRink_counters (r : Nat) (f : Rink → Rink) (s : State) : (modRink r f s).counters = s.counters := rfl
@[simp] theorem modRink_views (r : Nat) (f : Rink → Rink) (s : State) : (modRink r f s).views = s.views := rfl
@[simp] theorem modRink_host (r : Nat) (f : Rink → Rink) (s : State) : (modRink r f s).host = s.host := rfl
@[simp] theorem modRink_atomics (r : Nat) (f : Rink → Rink) (s : State) : (modRink r f s).atomics = s.atomics := rfl
@[simp] theorem modRink_moves (r : Nat) (f : Rink → Rink) (s : State) : (modRink r f s).moves = s.moves := rfl
@[simp] theorem modRink_migrations (r : Nat) (f : Rink → Rink) (s : State) : (modRink r f s).migrations = s.migrations := rfl
@[simp] theorem modRink_power (r : Nat) (f : Rink → Rink) (s : State) : (modRink r f s).power = s.power := rfl
@[simp] theorem modRink_boot (r : Nat) (f : Rink → Rink) (s : State) : (modRink r f s).boot = s.boot := rfl
@[simp] theorem modRink_devid (r : Nat) (f : Rink → Rink) (s : State) : (modRink r f s).devid = s.devid := rfl
@[simp] theorem modRink_rtab (r : Nat) (f : Rink → Rink) (s : State) : (modRink r f s).rtab = s.rtab := rfl
@[simp] theorem modRink_pcremap (r : Nat) (f : Rink → Rink) (s : State) : (modRink r f s).pcremap = s.pcremap := rfl
@[simp] theorem modRink_sent (r : Nat) (f : Rink → Rink) (s : State) : (modRink r f s).sent = s.sent := rfl
@[simp] theorem modRink_agenda (r : Nat) (f : Rink → Rink) (s : State) : (modRink r f s).agenda = s.agenda := rfl
@[simp] theorem modRink_cur (r : Nat) (f : Rink → Rink) (s : State) : (modRink r f s).cur = s.cur := rfl
@[simp] theorem modRink_fresh (r : Nat) (f : Rink → Rink) (s : State) : (modRink r f s).fresh = s.fresh := rfl
@[simp] theorem modRink_stored (r : Nat) (f : Rink → Rink) (s : State) : (modRink r f s).stored = s.stored := rfl
@[simp] theorem modRink_synced (r : Nat) (f : Rink → Rink) (s : State) : (modRink r f s).synced = s.synced := rfl
@[simp] theorem modRink_held (r : Nat) (f : Rink → Rink) (s : State) : (modRink r f s).held = s.held := rfl
@[simp] theorem modRink_memErrs (r : Nat) (f : Rink → Rink) (s : State) : (modRink r f s).memErrs = s.memErrs := rfl
@[simp] theorem modRink_metaErrs (r : Nat) (f : Rink → Rink) (s : State) : (modRink r f s).metaErrs = s.metaErrs := rfl
@[simp] theorem modRink_grants (r : Nat) (f : Rink → Rink) (s : State) : (modRink r f s).grants = s.grants := rfl

@[simp] theorem modWork_cycle (r : Nat) (f : Work → Work) (s : State) : (modWork r f s).cycle = s.cycle := rfl
@[simp] theorem modWork_sites (r : Nat) (f : Work → Work) (s : State) : (modWork r f s).sites = s.sites := rfl
@[simp] theorem modWork_fns (r : Nat) (f : Work → Work) (s : State) : (modWork r f s).fns = s.fns := rfl
@[simp] theorem modWork_dies (r : Nat) (f : Work → Work) (s : State) : (modWork r f s).dies = s.dies := rfl
@[simp] theorem modWork_windows (r : Nat) (f : Work → Work) (s : State) : (modWork r f s).windows = s.windows := rfl
@[simp] theorem modWork_keys (r : Nat) (f : Work → Work) (s : State) : (modWork r f s).keys = s.keys := rfl
@[simp] theorem modWork_mem (r : Nat) (f : Work → Work) (s : State) : (modWork r f s).mem = s.mem := rfl
@[simp] theorem modWork_seals (r : Nat) (f : Work → Work) (s : State) : (modWork r f s).seals = s.seals := rfl
@[simp] theorem modWork_counters (r : Nat) (f : Work → Work) (s : State) : (modWork r f s).counters = s.counters := rfl
@[simp] theorem modWork_views (r : Nat) (f : Work → Work) (s : State) : (modWork r f s).views = s.views := rfl
@[simp] theorem modWork_host (r : Nat) (f : Work → Work) (s : State) : (modWork r f s).host = s.host := rfl
@[simp] theorem modWork_atomics (r : Nat) (f : Work → Work) (s : State) : (modWork r f s).atomics = s.atomics := rfl
@[simp] theorem modWork_moves (r : Nat) (f : Work → Work) (s : State) : (modWork r f s).moves = s.moves := rfl
@[simp] theorem modWork_migrations (r : Nat) (f : Work → Work) (s : State) : (modWork r f s).migrations = s.migrations := rfl
@[simp] theorem modWork_power (r : Nat) (f : Work → Work) (s : State) : (modWork r f s).power = s.power := rfl
@[simp] theorem modWork_boot (r : Nat) (f : Work → Work) (s : State) : (modWork r f s).boot = s.boot := rfl
@[simp] theorem modWork_devid (r : Nat) (f : Work → Work) (s : State) : (modWork r f s).devid = s.devid := rfl
@[simp] theorem modWork_rtab (r : Nat) (f : Work → Work) (s : State) : (modWork r f s).rtab = s.rtab := rfl
@[simp] theorem modWork_pcremap (r : Nat) (f : Work → Work) (s : State) : (modWork r f s).pcremap = s.pcremap := rfl
@[simp] theorem modWork_sent (r : Nat) (f : Work → Work) (s : State) : (modWork r f s).sent = s.sent := rfl
@[simp] theorem modWork_agenda (r : Nat) (f : Work → Work) (s : State) : (modWork r f s).agenda = s.agenda := rfl
@[simp] theorem modWork_cur (r : Nat) (f : Work → Work) (s : State) : (modWork r f s).cur = s.cur := rfl
@[simp] theorem modWork_fresh (r : Nat) (f : Work → Work) (s : State) : (modWork r f s).fresh = s.fresh := rfl
@[simp] theorem modWork_stored (r : Nat) (f : Work → Work) (s : State) : (modWork r f s).stored = s.stored := rfl
@[simp] theorem modWork_synced (r : Nat) (f : Work → Work) (s : State) : (modWork r f s).synced = s.synced := rfl
@[simp] theorem modWork_held (r : Nat) (f : Work → Work) (s : State) : (modWork r f s).held = s.held := rfl
@[simp] theorem modWork_memErrs (r : Nat) (f : Work → Work) (s : State) : (modWork r f s).memErrs = s.memErrs := rfl
@[simp] theorem modWork_metaErrs (r : Nat) (f : Work → Work) (s : State) : (modWork r f s).metaErrs = s.metaErrs := rfl
@[simp] theorem modWork_grants (r : Nat) (f : Work → Work) (s : State) : (modWork r f s).grants = s.grants := rfl

@[simp] theorem modRecov_cycle (r : Nat) (f : Recovery → Recovery) (s : State) : (modRecov r f s).cycle = s.cycle := rfl
@[simp] theorem modRecov_sites (r : Nat) (f : Recovery → Recovery) (s : State) : (modRecov r f s).sites = s.sites := rfl
@[simp] theorem modRecov_fns (r : Nat) (f : Recovery → Recovery) (s : State) : (modRecov r f s).fns = s.fns := rfl
@[simp] theorem modRecov_dies (r : Nat) (f : Recovery → Recovery) (s : State) : (modRecov r f s).dies = s.dies := rfl
@[simp] theorem modRecov_windows (r : Nat) (f : Recovery → Recovery) (s : State) : (modRecov r f s).windows = s.windows := rfl
@[simp] theorem modRecov_keys (r : Nat) (f : Recovery → Recovery) (s : State) : (modRecov r f s).keys = s.keys := rfl
@[simp] theorem modRecov_mem (r : Nat) (f : Recovery → Recovery) (s : State) : (modRecov r f s).mem = s.mem := rfl
@[simp] theorem modRecov_seals (r : Nat) (f : Recovery → Recovery) (s : State) : (modRecov r f s).seals = s.seals := rfl
@[simp] theorem modRecov_counters (r : Nat) (f : Recovery → Recovery) (s : State) : (modRecov r f s).counters = s.counters := rfl
@[simp] theorem modRecov_views (r : Nat) (f : Recovery → Recovery) (s : State) : (modRecov r f s).views = s.views := rfl
@[simp] theorem modRecov_host (r : Nat) (f : Recovery → Recovery) (s : State) : (modRecov r f s).host = s.host := rfl
@[simp] theorem modRecov_atomics (r : Nat) (f : Recovery → Recovery) (s : State) : (modRecov r f s).atomics = s.atomics := rfl
@[simp] theorem modRecov_moves (r : Nat) (f : Recovery → Recovery) (s : State) : (modRecov r f s).moves = s.moves := rfl
@[simp] theorem modRecov_migrations (r : Nat) (f : Recovery → Recovery) (s : State) : (modRecov r f s).migrations = s.migrations := rfl
@[simp] theorem modRecov_power (r : Nat) (f : Recovery → Recovery) (s : State) : (modRecov r f s).power = s.power := rfl
@[simp] theorem modRecov_boot (r : Nat) (f : Recovery → Recovery) (s : State) : (modRecov r f s).boot = s.boot := rfl
@[simp] theorem modRecov_devid (r : Nat) (f : Recovery → Recovery) (s : State) : (modRecov r f s).devid = s.devid := rfl
@[simp] theorem modRecov_rtab (r : Nat) (f : Recovery → Recovery) (s : State) : (modRecov r f s).rtab = s.rtab := rfl
@[simp] theorem modRecov_pcremap (r : Nat) (f : Recovery → Recovery) (s : State) : (modRecov r f s).pcremap = s.pcremap := rfl
@[simp] theorem modRecov_sent (r : Nat) (f : Recovery → Recovery) (s : State) : (modRecov r f s).sent = s.sent := rfl
@[simp] theorem modRecov_agenda (r : Nat) (f : Recovery → Recovery) (s : State) : (modRecov r f s).agenda = s.agenda := rfl
@[simp] theorem modRecov_cur (r : Nat) (f : Recovery → Recovery) (s : State) : (modRecov r f s).cur = s.cur := rfl
@[simp] theorem modRecov_fresh (r : Nat) (f : Recovery → Recovery) (s : State) : (modRecov r f s).fresh = s.fresh := rfl
@[simp] theorem modRecov_stored (r : Nat) (f : Recovery → Recovery) (s : State) : (modRecov r f s).stored = s.stored := rfl
@[simp] theorem modRecov_synced (r : Nat) (f : Recovery → Recovery) (s : State) : (modRecov r f s).synced = s.synced := rfl
@[simp] theorem modRecov_held (r : Nat) (f : Recovery → Recovery) (s : State) : (modRecov r f s).held = s.held := rfl
@[simp] theorem modRecov_memErrs (r : Nat) (f : Recovery → Recovery) (s : State) : (modRecov r f s).memErrs = s.memErrs := rfl
@[simp] theorem modRecov_metaErrs (r : Nat) (f : Recovery → Recovery) (s : State) : (modRecov r f s).metaErrs = s.metaErrs := rfl
@[simp] theorem modRecov_grants (r : Nat) (f : Recovery → Recovery) (s : State) : (modRecov r f s).grants = s.grants := rfl

@[simp] theorem modFn_cycle (v : Nat) (f : Fn → Fn) (s : State) : (modFn v f s).cycle = s.cycle := rfl
@[simp] theorem modFn_sites (v : Nat) (f : Fn → Fn) (s : State) : (modFn v f s).sites = s.sites := rfl
@[simp] theorem modFn_rinks (v : Nat) (f : Fn → Fn) (s : State) : (modFn v f s).rinks = s.rinks := rfl
@[simp] theorem modFn_dies (v : Nat) (f : Fn → Fn) (s : State) : (modFn v f s).dies = s.dies := rfl
@[simp] theorem modFn_windows (v : Nat) (f : Fn → Fn) (s : State) : (modFn v f s).windows = s.windows := rfl
@[simp] theorem modFn_keys (v : Nat) (f : Fn → Fn) (s : State) : (modFn v f s).keys = s.keys := rfl
@[simp] theorem modFn_mem (v : Nat) (f : Fn → Fn) (s : State) : (modFn v f s).mem = s.mem := rfl
@[simp] theorem modFn_seals (v : Nat) (f : Fn → Fn) (s : State) : (modFn v f s).seals = s.seals := rfl
@[simp] theorem modFn_counters (v : Nat) (f : Fn → Fn) (s : State) : (modFn v f s).counters = s.counters := rfl
@[simp] theorem modFn_views (v : Nat) (f : Fn → Fn) (s : State) : (modFn v f s).views = s.views := rfl
@[simp] theorem modFn_host (v : Nat) (f : Fn → Fn) (s : State) : (modFn v f s).host = s.host := rfl
@[simp] theorem modFn_atomics (v : Nat) (f : Fn → Fn) (s : State) : (modFn v f s).atomics = s.atomics := rfl
@[simp] theorem modFn_moves (v : Nat) (f : Fn → Fn) (s : State) : (modFn v f s).moves = s.moves := rfl
@[simp] theorem modFn_migrations (v : Nat) (f : Fn → Fn) (s : State) : (modFn v f s).migrations = s.migrations := rfl
@[simp] theorem modFn_power (v : Nat) (f : Fn → Fn) (s : State) : (modFn v f s).power = s.power := rfl
@[simp] theorem modFn_boot (v : Nat) (f : Fn → Fn) (s : State) : (modFn v f s).boot = s.boot := rfl
@[simp] theorem modFn_devid (v : Nat) (f : Fn → Fn) (s : State) : (modFn v f s).devid = s.devid := rfl
@[simp] theorem modFn_rtab (v : Nat) (f : Fn → Fn) (s : State) : (modFn v f s).rtab = s.rtab := rfl
@[simp] theorem modFn_pcremap (v : Nat) (f : Fn → Fn) (s : State) : (modFn v f s).pcremap = s.pcremap := rfl
@[simp] theorem modFn_sent (v : Nat) (f : Fn → Fn) (s : State) : (modFn v f s).sent = s.sent := rfl
@[simp] theorem modFn_agenda (v : Nat) (f : Fn → Fn) (s : State) : (modFn v f s).agenda = s.agenda := rfl
@[simp] theorem modFn_cur (v : Nat) (f : Fn → Fn) (s : State) : (modFn v f s).cur = s.cur := rfl
@[simp] theorem modFn_fresh (v : Nat) (f : Fn → Fn) (s : State) : (modFn v f s).fresh = s.fresh := rfl
@[simp] theorem modFn_stored (v : Nat) (f : Fn → Fn) (s : State) : (modFn v f s).stored = s.stored := rfl
@[simp] theorem modFn_synced (v : Nat) (f : Fn → Fn) (s : State) : (modFn v f s).synced = s.synced := rfl
@[simp] theorem modFn_held (v : Nat) (f : Fn → Fn) (s : State) : (modFn v f s).held = s.held := rfl
@[simp] theorem modFn_memErrs (v : Nat) (f : Fn → Fn) (s : State) : (modFn v f s).memErrs = s.memErrs := rfl
@[simp] theorem modFn_metaErrs (v : Nat) (f : Fn → Fn) (s : State) : (modFn v f s).metaErrs = s.metaErrs := rfl
@[simp] theorem modFn_grants (v : Nat) (f : Fn → Fn) (s : State) : (modFn v f s).grants = s.grants := rfl

@[simp] theorem modDie_cycle (d : Nat) (f : Die → Die) (s : State) : (modDie d f s).cycle = s.cycle := rfl
@[simp] theorem modDie_sites (d : Nat) (f : Die → Die) (s : State) : (modDie d f s).sites = s.sites := rfl
@[simp] theorem modDie_rinks (d : Nat) (f : Die → Die) (s : State) : (modDie d f s).rinks = s.rinks := rfl
@[simp] theorem modDie_fns (d : Nat) (f : Die → Die) (s : State) : (modDie d f s).fns = s.fns := rfl
@[simp] theorem modDie_windows (d : Nat) (f : Die → Die) (s : State) : (modDie d f s).windows = s.windows := rfl
@[simp] theorem modDie_keys (d : Nat) (f : Die → Die) (s : State) : (modDie d f s).keys = s.keys := rfl
@[simp] theorem modDie_mem (d : Nat) (f : Die → Die) (s : State) : (modDie d f s).mem = s.mem := rfl
@[simp] theorem modDie_seals (d : Nat) (f : Die → Die) (s : State) : (modDie d f s).seals = s.seals := rfl
@[simp] theorem modDie_counters (d : Nat) (f : Die → Die) (s : State) : (modDie d f s).counters = s.counters := rfl
@[simp] theorem modDie_views (d : Nat) (f : Die → Die) (s : State) : (modDie d f s).views = s.views := rfl
@[simp] theorem modDie_host (d : Nat) (f : Die → Die) (s : State) : (modDie d f s).host = s.host := rfl
@[simp] theorem modDie_atomics (d : Nat) (f : Die → Die) (s : State) : (modDie d f s).atomics = s.atomics := rfl
@[simp] theorem modDie_moves (d : Nat) (f : Die → Die) (s : State) : (modDie d f s).moves = s.moves := rfl
@[simp] theorem modDie_migrations (d : Nat) (f : Die → Die) (s : State) : (modDie d f s).migrations = s.migrations := rfl
@[simp] theorem modDie_power (d : Nat) (f : Die → Die) (s : State) : (modDie d f s).power = s.power := rfl
@[simp] theorem modDie_boot (d : Nat) (f : Die → Die) (s : State) : (modDie d f s).boot = s.boot := rfl
@[simp] theorem modDie_devid (d : Nat) (f : Die → Die) (s : State) : (modDie d f s).devid = s.devid := rfl
@[simp] theorem modDie_rtab (d : Nat) (f : Die → Die) (s : State) : (modDie d f s).rtab = s.rtab := rfl
@[simp] theorem modDie_pcremap (d : Nat) (f : Die → Die) (s : State) : (modDie d f s).pcremap = s.pcremap := rfl
@[simp] theorem modDie_sent (d : Nat) (f : Die → Die) (s : State) : (modDie d f s).sent = s.sent := rfl
@[simp] theorem modDie_agenda (d : Nat) (f : Die → Die) (s : State) : (modDie d f s).agenda = s.agenda := rfl
@[simp] theorem modDie_cur (d : Nat) (f : Die → Die) (s : State) : (modDie d f s).cur = s.cur := rfl
@[simp] theorem modDie_fresh (d : Nat) (f : Die → Die) (s : State) : (modDie d f s).fresh = s.fresh := rfl
@[simp] theorem modDie_stored (d : Nat) (f : Die → Die) (s : State) : (modDie d f s).stored = s.stored := rfl
@[simp] theorem modDie_synced (d : Nat) (f : Die → Die) (s : State) : (modDie d f s).synced = s.synced := rfl
@[simp] theorem modDie_held (d : Nat) (f : Die → Die) (s : State) : (modDie d f s).held = s.held := rfl
@[simp] theorem modDie_memErrs (d : Nat) (f : Die → Die) (s : State) : (modDie d f s).memErrs = s.memErrs := rfl
@[simp] theorem modDie_metaErrs (d : Nat) (f : Die → Die) (s : State) : (modDie d f s).metaErrs = s.metaErrs := rfl
@[simp] theorem modDie_grants (d : Nat) (f : Die → Die) (s : State) : (modDie d f s).grants = s.grants := rfl

@[simp] theorem modWindow_cycle (w : Nat) (f : Window → Window) (s : State) : (modWindow w f s).cycle = s.cycle := rfl
@[simp] theorem modWindow_sites (w : Nat) (f : Window → Window) (s : State) : (modWindow w f s).sites = s.sites := rfl
@[simp] theorem modWindow_rinks (w : Nat) (f : Window → Window) (s : State) : (modWindow w f s).rinks = s.rinks := rfl
@[simp] theorem modWindow_fns (w : Nat) (f : Window → Window) (s : State) : (modWindow w f s).fns = s.fns := rfl
@[simp] theorem modWindow_dies (w : Nat) (f : Window → Window) (s : State) : (modWindow w f s).dies = s.dies := rfl
@[simp] theorem modWindow_keys (w : Nat) (f : Window → Window) (s : State) : (modWindow w f s).keys = s.keys := rfl
@[simp] theorem modWindow_mem (w : Nat) (f : Window → Window) (s : State) : (modWindow w f s).mem = s.mem := rfl
@[simp] theorem modWindow_seals (w : Nat) (f : Window → Window) (s : State) : (modWindow w f s).seals = s.seals := rfl
@[simp] theorem modWindow_counters (w : Nat) (f : Window → Window) (s : State) : (modWindow w f s).counters = s.counters := rfl
@[simp] theorem modWindow_views (w : Nat) (f : Window → Window) (s : State) : (modWindow w f s).views = s.views := rfl
@[simp] theorem modWindow_host (w : Nat) (f : Window → Window) (s : State) : (modWindow w f s).host = s.host := rfl
@[simp] theorem modWindow_atomics (w : Nat) (f : Window → Window) (s : State) : (modWindow w f s).atomics = s.atomics := rfl
@[simp] theorem modWindow_moves (w : Nat) (f : Window → Window) (s : State) : (modWindow w f s).moves = s.moves := rfl
@[simp] theorem modWindow_migrations (w : Nat) (f : Window → Window) (s : State) : (modWindow w f s).migrations = s.migrations := rfl
@[simp] theorem modWindow_power (w : Nat) (f : Window → Window) (s : State) : (modWindow w f s).power = s.power := rfl
@[simp] theorem modWindow_boot (w : Nat) (f : Window → Window) (s : State) : (modWindow w f s).boot = s.boot := rfl
@[simp] theorem modWindow_devid (w : Nat) (f : Window → Window) (s : State) : (modWindow w f s).devid = s.devid := rfl
@[simp] theorem modWindow_rtab (w : Nat) (f : Window → Window) (s : State) : (modWindow w f s).rtab = s.rtab := rfl
@[simp] theorem modWindow_pcremap (w : Nat) (f : Window → Window) (s : State) : (modWindow w f s).pcremap = s.pcremap := rfl
@[simp] theorem modWindow_sent (w : Nat) (f : Window → Window) (s : State) : (modWindow w f s).sent = s.sent := rfl
@[simp] theorem modWindow_agenda (w : Nat) (f : Window → Window) (s : State) : (modWindow w f s).agenda = s.agenda := rfl
@[simp] theorem modWindow_cur (w : Nat) (f : Window → Window) (s : State) : (modWindow w f s).cur = s.cur := rfl
@[simp] theorem modWindow_fresh (w : Nat) (f : Window → Window) (s : State) : (modWindow w f s).fresh = s.fresh := rfl
@[simp] theorem modWindow_stored (w : Nat) (f : Window → Window) (s : State) : (modWindow w f s).stored = s.stored := rfl
@[simp] theorem modWindow_synced (w : Nat) (f : Window → Window) (s : State) : (modWindow w f s).synced = s.synced := rfl
@[simp] theorem modWindow_held (w : Nat) (f : Window → Window) (s : State) : (modWindow w f s).held = s.held := rfl
@[simp] theorem modWindow_memErrs (w : Nat) (f : Window → Window) (s : State) : (modWindow w f s).memErrs = s.memErrs := rfl
@[simp] theorem modWindow_metaErrs (w : Nat) (f : Window → Window) (s : State) : (modWindow w f s).metaErrs = s.metaErrs := rfl
@[simp] theorem modWindow_grants (w : Nat) (f : Window → Window) (s : State) : (modWindow w f s).grants = s.grants := rfl

@[simp] theorem modMySite_cycle (f : Site → Site) (s : State) : (modMySite f s).cycle = s.cycle := rfl
@[simp] theorem modMySite_rinks (f : Site → Site) (s : State) : (modMySite f s).rinks = s.rinks := rfl
@[simp] theorem modMySite_fns (f : Site → Site) (s : State) : (modMySite f s).fns = s.fns := rfl
@[simp] theorem modMySite_dies (f : Site → Site) (s : State) : (modMySite f s).dies = s.dies := rfl
@[simp] theorem modMySite_windows (f : Site → Site) (s : State) : (modMySite f s).windows = s.windows := rfl
@[simp] theorem modMySite_keys (f : Site → Site) (s : State) : (modMySite f s).keys = s.keys := rfl
@[simp] theorem modMySite_mem (f : Site → Site) (s : State) : (modMySite f s).mem = s.mem := rfl
@[simp] theorem modMySite_seals (f : Site → Site) (s : State) : (modMySite f s).seals = s.seals := rfl
@[simp] theorem modMySite_counters (f : Site → Site) (s : State) : (modMySite f s).counters = s.counters := rfl
@[simp] theorem modMySite_views (f : Site → Site) (s : State) : (modMySite f s).views = s.views := rfl
@[simp] theorem modMySite_host (f : Site → Site) (s : State) : (modMySite f s).host = s.host := rfl
@[simp] theorem modMySite_atomics (f : Site → Site) (s : State) : (modMySite f s).atomics = s.atomics := rfl
@[simp] theorem modMySite_moves (f : Site → Site) (s : State) : (modMySite f s).moves = s.moves := rfl
@[simp] theorem modMySite_migrations (f : Site → Site) (s : State) : (modMySite f s).migrations = s.migrations := rfl
@[simp] theorem modMySite_power (f : Site → Site) (s : State) : (modMySite f s).power = s.power := rfl
@[simp] theorem modMySite_boot (f : Site → Site) (s : State) : (modMySite f s).boot = s.boot := rfl
@[simp] theorem modMySite_devid (f : Site → Site) (s : State) : (modMySite f s).devid = s.devid := rfl
@[simp] theorem modMySite_rtab (f : Site → Site) (s : State) : (modMySite f s).rtab = s.rtab := rfl
@[simp] theorem modMySite_pcremap (f : Site → Site) (s : State) : (modMySite f s).pcremap = s.pcremap := rfl
@[simp] theorem modMySite_sent (f : Site → Site) (s : State) : (modMySite f s).sent = s.sent := rfl
@[simp] theorem modMySite_agenda (f : Site → Site) (s : State) : (modMySite f s).agenda = s.agenda := rfl
@[simp] theorem modMySite_cur (f : Site → Site) (s : State) : (modMySite f s).cur = s.cur := rfl
@[simp] theorem modMySite_fresh (f : Site → Site) (s : State) : (modMySite f s).fresh = s.fresh := rfl
@[simp] theorem modMySite_stored (f : Site → Site) (s : State) : (modMySite f s).stored = s.stored := rfl
@[simp] theorem modMySite_synced (f : Site → Site) (s : State) : (modMySite f s).synced = s.synced := rfl
@[simp] theorem modMySite_held (f : Site → Site) (s : State) : (modMySite f s).held = s.held := rfl
@[simp] theorem modMySite_memErrs (f : Site → Site) (s : State) : (modMySite f s).memErrs = s.memErrs := rfl
@[simp] theorem modMySite_metaErrs (f : Site → Site) (s : State) : (modMySite f s).metaErrs = s.metaErrs := rfl
@[simp] theorem modMySite_grants (f : Site → Site) (s : State) : (modMySite f s).grants = s.grants := rfl

@[simp] theorem modMyCtx_cycle (f : Ctx → Ctx) (s : State) : (modMyCtx f s).cycle = s.cycle := rfl
@[simp] theorem modMyCtx_rinks (f : Ctx → Ctx) (s : State) : (modMyCtx f s).rinks = s.rinks := rfl
@[simp] theorem modMyCtx_fns (f : Ctx → Ctx) (s : State) : (modMyCtx f s).fns = s.fns := rfl
@[simp] theorem modMyCtx_dies (f : Ctx → Ctx) (s : State) : (modMyCtx f s).dies = s.dies := rfl
@[simp] theorem modMyCtx_windows (f : Ctx → Ctx) (s : State) : (modMyCtx f s).windows = s.windows := rfl
@[simp] theorem modMyCtx_keys (f : Ctx → Ctx) (s : State) : (modMyCtx f s).keys = s.keys := rfl
@[simp] theorem modMyCtx_mem (f : Ctx → Ctx) (s : State) : (modMyCtx f s).mem = s.mem := rfl
@[simp] theorem modMyCtx_seals (f : Ctx → Ctx) (s : State) : (modMyCtx f s).seals = s.seals := rfl
@[simp] theorem modMyCtx_counters (f : Ctx → Ctx) (s : State) : (modMyCtx f s).counters = s.counters := rfl
@[simp] theorem modMyCtx_views (f : Ctx → Ctx) (s : State) : (modMyCtx f s).views = s.views := rfl
@[simp] theorem modMyCtx_host (f : Ctx → Ctx) (s : State) : (modMyCtx f s).host = s.host := rfl
@[simp] theorem modMyCtx_atomics (f : Ctx → Ctx) (s : State) : (modMyCtx f s).atomics = s.atomics := rfl
@[simp] theorem modMyCtx_moves (f : Ctx → Ctx) (s : State) : (modMyCtx f s).moves = s.moves := rfl
@[simp] theorem modMyCtx_migrations (f : Ctx → Ctx) (s : State) : (modMyCtx f s).migrations = s.migrations := rfl
@[simp] theorem modMyCtx_power (f : Ctx → Ctx) (s : State) : (modMyCtx f s).power = s.power := rfl
@[simp] theorem modMyCtx_boot (f : Ctx → Ctx) (s : State) : (modMyCtx f s).boot = s.boot := rfl
@[simp] theorem modMyCtx_devid (f : Ctx → Ctx) (s : State) : (modMyCtx f s).devid = s.devid := rfl
@[simp] theorem modMyCtx_rtab (f : Ctx → Ctx) (s : State) : (modMyCtx f s).rtab = s.rtab := rfl
@[simp] theorem modMyCtx_pcremap (f : Ctx → Ctx) (s : State) : (modMyCtx f s).pcremap = s.pcremap := rfl
@[simp] theorem modMyCtx_sent (f : Ctx → Ctx) (s : State) : (modMyCtx f s).sent = s.sent := rfl
@[simp] theorem modMyCtx_agenda (f : Ctx → Ctx) (s : State) : (modMyCtx f s).agenda = s.agenda := rfl
@[simp] theorem modMyCtx_cur (f : Ctx → Ctx) (s : State) : (modMyCtx f s).cur = s.cur := rfl
@[simp] theorem modMyCtx_fresh (f : Ctx → Ctx) (s : State) : (modMyCtx f s).fresh = s.fresh := rfl
@[simp] theorem modMyCtx_stored (f : Ctx → Ctx) (s : State) : (modMyCtx f s).stored = s.stored := rfl
@[simp] theorem modMyCtx_synced (f : Ctx → Ctx) (s : State) : (modMyCtx f s).synced = s.synced := rfl
@[simp] theorem modMyCtx_held (f : Ctx → Ctx) (s : State) : (modMyCtx f s).held = s.held := rfl
@[simp] theorem modMyCtx_memErrs (f : Ctx → Ctx) (s : State) : (modMyCtx f s).memErrs = s.memErrs := rfl
@[simp] theorem modMyCtx_metaErrs (f : Ctx → Ctx) (s : State) : (modMyCtx f s).metaErrs = s.metaErrs := rfl
@[simp] theorem modMyCtx_grants (f : Ctx → Ctx) (s : State) : (modMyCtx f s).grants = s.grants := rfl

@[simp] theorem modMyVe_cycle (f : Ve → Ve) (s : State) : (modMyVe f s).cycle = s.cycle := rfl
@[simp] theorem modMyVe_rinks (f : Ve → Ve) (s : State) : (modMyVe f s).rinks = s.rinks := rfl
@[simp] theorem modMyVe_fns (f : Ve → Ve) (s : State) : (modMyVe f s).fns = s.fns := rfl
@[simp] theorem modMyVe_dies (f : Ve → Ve) (s : State) : (modMyVe f s).dies = s.dies := rfl
@[simp] theorem modMyVe_windows (f : Ve → Ve) (s : State) : (modMyVe f s).windows = s.windows := rfl
@[simp] theorem modMyVe_keys (f : Ve → Ve) (s : State) : (modMyVe f s).keys = s.keys := rfl
@[simp] theorem modMyVe_mem (f : Ve → Ve) (s : State) : (modMyVe f s).mem = s.mem := rfl
@[simp] theorem modMyVe_seals (f : Ve → Ve) (s : State) : (modMyVe f s).seals = s.seals := rfl
@[simp] theorem modMyVe_counters (f : Ve → Ve) (s : State) : (modMyVe f s).counters = s.counters := rfl
@[simp] theorem modMyVe_views (f : Ve → Ve) (s : State) : (modMyVe f s).views = s.views := rfl
@[simp] theorem modMyVe_host (f : Ve → Ve) (s : State) : (modMyVe f s).host = s.host := rfl
@[simp] theorem modMyVe_atomics (f : Ve → Ve) (s : State) : (modMyVe f s).atomics = s.atomics := rfl
@[simp] theorem modMyVe_moves (f : Ve → Ve) (s : State) : (modMyVe f s).moves = s.moves := rfl
@[simp] theorem modMyVe_migrations (f : Ve → Ve) (s : State) : (modMyVe f s).migrations = s.migrations := rfl
@[simp] theorem modMyVe_power (f : Ve → Ve) (s : State) : (modMyVe f s).power = s.power := rfl
@[simp] theorem modMyVe_boot (f : Ve → Ve) (s : State) : (modMyVe f s).boot = s.boot := rfl
@[simp] theorem modMyVe_devid (f : Ve → Ve) (s : State) : (modMyVe f s).devid = s.devid := rfl
@[simp] theorem modMyVe_rtab (f : Ve → Ve) (s : State) : (modMyVe f s).rtab = s.rtab := rfl
@[simp] theorem modMyVe_pcremap (f : Ve → Ve) (s : State) : (modMyVe f s).pcremap = s.pcremap := rfl
@[simp] theorem modMyVe_sent (f : Ve → Ve) (s : State) : (modMyVe f s).sent = s.sent := rfl
@[simp] theorem modMyVe_agenda (f : Ve → Ve) (s : State) : (modMyVe f s).agenda = s.agenda := rfl
@[simp] theorem modMyVe_cur (f : Ve → Ve) (s : State) : (modMyVe f s).cur = s.cur := rfl
@[simp] theorem modMyVe_fresh (f : Ve → Ve) (s : State) : (modMyVe f s).fresh = s.fresh := rfl
@[simp] theorem modMyVe_stored (f : Ve → Ve) (s : State) : (modMyVe f s).stored = s.stored := rfl
@[simp] theorem modMyVe_synced (f : Ve → Ve) (s : State) : (modMyVe f s).synced = s.synced := rfl
@[simp] theorem modMyVe_held (f : Ve → Ve) (s : State) : (modMyVe f s).held = s.held := rfl
@[simp] theorem modMyVe_memErrs (f : Ve → Ve) (s : State) : (modMyVe f s).memErrs = s.memErrs := rfl
@[simp] theorem modMyVe_metaErrs (f : Ve → Ve) (s : State) : (modMyVe f s).metaErrs = s.metaErrs := rfl
@[simp] theorem modMyVe_grants (f : Ve → Ve) (s : State) : (modMyVe f s).grants = s.grants := rfl

@[simp] theorem modMyHalf_cycle (f : Half → Half) (s : State) : (modMyHalf f s).cycle = s.cycle := rfl
@[simp] theorem modMyHalf_rinks (f : Half → Half) (s : State) : (modMyHalf f s).rinks = s.rinks := rfl
@[simp] theorem modMyHalf_fns (f : Half → Half) (s : State) : (modMyHalf f s).fns = s.fns := rfl
@[simp] theorem modMyHalf_dies (f : Half → Half) (s : State) : (modMyHalf f s).dies = s.dies := rfl
@[simp] theorem modMyHalf_windows (f : Half → Half) (s : State) : (modMyHalf f s).windows = s.windows := rfl
@[simp] theorem modMyHalf_keys (f : Half → Half) (s : State) : (modMyHalf f s).keys = s.keys := rfl
@[simp] theorem modMyHalf_mem (f : Half → Half) (s : State) : (modMyHalf f s).mem = s.mem := rfl
@[simp] theorem modMyHalf_seals (f : Half → Half) (s : State) : (modMyHalf f s).seals = s.seals := rfl
@[simp] theorem modMyHalf_counters (f : Half → Half) (s : State) : (modMyHalf f s).counters = s.counters := rfl
@[simp] theorem modMyHalf_views (f : Half → Half) (s : State) : (modMyHalf f s).views = s.views := rfl
@[simp] theorem modMyHalf_host (f : Half → Half) (s : State) : (modMyHalf f s).host = s.host := rfl
@[simp] theorem modMyHalf_atomics (f : Half → Half) (s : State) : (modMyHalf f s).atomics = s.atomics := rfl
@[simp] theorem modMyHalf_moves (f : Half → Half) (s : State) : (modMyHalf f s).moves = s.moves := rfl
@[simp] theorem modMyHalf_migrations (f : Half → Half) (s : State) : (modMyHalf f s).migrations = s.migrations := rfl
@[simp] theorem modMyHalf_power (f : Half → Half) (s : State) : (modMyHalf f s).power = s.power := rfl
@[simp] theorem modMyHalf_boot (f : Half → Half) (s : State) : (modMyHalf f s).boot = s.boot := rfl
@[simp] theorem modMyHalf_devid (f : Half → Half) (s : State) : (modMyHalf f s).devid = s.devid := rfl
@[simp] theorem modMyHalf_rtab (f : Half → Half) (s : State) : (modMyHalf f s).rtab = s.rtab := rfl
@[simp] theorem modMyHalf_pcremap (f : Half → Half) (s : State) : (modMyHalf f s).pcremap = s.pcremap := rfl
@[simp] theorem modMyHalf_sent (f : Half → Half) (s : State) : (modMyHalf f s).sent = s.sent := rfl
@[simp] theorem modMyHalf_agenda (f : Half → Half) (s : State) : (modMyHalf f s).agenda = s.agenda := rfl
@[simp] theorem modMyHalf_cur (f : Half → Half) (s : State) : (modMyHalf f s).cur = s.cur := rfl
@[simp] theorem modMyHalf_fresh (f : Half → Half) (s : State) : (modMyHalf f s).fresh = s.fresh := rfl
@[simp] theorem modMyHalf_stored (f : Half → Half) (s : State) : (modMyHalf f s).stored = s.stored := rfl
@[simp] theorem modMyHalf_synced (f : Half → Half) (s : State) : (modMyHalf f s).synced = s.synced := rfl
@[simp] theorem modMyHalf_held (f : Half → Half) (s : State) : (modMyHalf f s).held = s.held := rfl
@[simp] theorem modMyHalf_memErrs (f : Half → Half) (s : State) : (modMyHalf f s).memErrs = s.memErrs := rfl
@[simp] theorem modMyHalf_metaErrs (f : Half → Half) (s : State) : (modMyHalf f s).metaErrs = s.metaErrs := rfl
@[simp] theorem modMyHalf_grants (f : Half → Half) (s : State) : (modMyHalf f s).grants = s.grants := rfl

@[simp] theorem send_cycle (o : Out) (s : State) : (send o s).cycle = s.cycle := rfl
@[simp] theorem send_sites (o : Out) (s : State) : (send o s).sites = s.sites := rfl
@[simp] theorem send_rinks (o : Out) (s : State) : (send o s).rinks = s.rinks := rfl
@[simp] theorem send_fns (o : Out) (s : State) : (send o s).fns = s.fns := rfl
@[simp] theorem send_dies (o : Out) (s : State) : (send o s).dies = s.dies := rfl
@[simp] theorem send_windows (o : Out) (s : State) : (send o s).windows = s.windows := rfl
@[simp] theorem send_keys (o : Out) (s : State) : (send o s).keys = s.keys := rfl
@[simp] theorem send_mem (o : Out) (s : State) : (send o s).mem = s.mem := rfl
@[simp] theorem send_seals (o : Out) (s : State) : (send o s).seals = s.seals := rfl
@[simp] theorem send_counters (o : Out) (s : State) : (send o s).counters = s.counters := rfl
@[simp] theorem send_views (o : Out) (s : State) : (send o s).views = s.views := rfl
@[simp] theorem send_host (o : Out) (s : State) : (send o s).host = s.host := rfl
@[simp] theorem send_atomics (o : Out) (s : State) : (send o s).atomics = s.atomics := rfl
@[simp] theorem send_moves (o : Out) (s : State) : (send o s).moves = s.moves := rfl
@[simp] theorem send_migrations (o : Out) (s : State) : (send o s).migrations = s.migrations := rfl
@[simp] theorem send_power (o : Out) (s : State) : (send o s).power = s.power := rfl
@[simp] theorem send_boot (o : Out) (s : State) : (send o s).boot = s.boot := rfl
@[simp] theorem send_devid (o : Out) (s : State) : (send o s).devid = s.devid := rfl
@[simp] theorem send_rtab (o : Out) (s : State) : (send o s).rtab = s.rtab := rfl
@[simp] theorem send_pcremap (o : Out) (s : State) : (send o s).pcremap = s.pcremap := rfl
@[simp] theorem send_agenda (o : Out) (s : State) : (send o s).agenda = s.agenda := rfl
@[simp] theorem send_cur (o : Out) (s : State) : (send o s).cur = s.cur := rfl
@[simp] theorem send_fresh (o : Out) (s : State) : (send o s).fresh = s.fresh := rfl
@[simp] theorem send_stored (o : Out) (s : State) : (send o s).stored = s.stored := rfl
@[simp] theorem send_synced (o : Out) (s : State) : (send o s).synced = s.synced := rfl
@[simp] theorem send_held (o : Out) (s : State) : (send o s).held = s.held := rfl
@[simp] theorem send_memErrs (o : Out) (s : State) : (send o s).memErrs = s.memErrs := rfl
@[simp] theorem send_metaErrs (o : Out) (s : State) : (send o s).metaErrs = s.metaErrs := rfl
@[simp] theorem send_grants (o : Out) (s : State) : (send o s).grants = s.grants := rfl

@[simp] theorem freshWord_mem (s : State) : (freshWord s).2.mem = s.mem := rfl
@[simp] theorem freshWord_host (s : State) : (freshWord s).2.host = s.host := rfl
@[simp] theorem freshBool_mem (s : State) : (freshBool s).2.mem = s.mem := rfl
@[simp] theorem freshBool_host (s : State) : (freshBool s).2.host = s.host := rfl

/-! ## Accessors after updates -/

@[simp] theorem site_setSite_same (k : Nat) (c : Site) (s : State) : site k (setSite k c s) = c := by simp [site, setSite]

theorem site_setSite_ne {k j : Nat} (h : j ≠ k) (c : Site) (s : State) : site j (setSite k c s) = site j s := by
  simp [site, setSite, Table.get_put_ne, h]

@[simp] theorem site_modSite_same (k : Nat) (f : Site → Site) (s : State) : site k (modSite k f s) = f (site k s) := by simp [modSite]

theorem site_modSite_ne {k j : Nat} (h : j ≠ k) (f : Site → Site) (s : State) : site j (modSite k f s) = site j s := by
  simp [modSite, site_setSite_ne h]

@[simp] theorem mySite_modMySite (f : Site → Site) (s : State) : mySite (modMySite f s) = f (mySite s) := by
  simp [mySite, modMySite]

@[simp] theorem ctxOf_setCtx (x : Side) (v : Ctx) (c : Site) : ctxOf (setCtx x v c) x = v := by cases x <;> rfl

@[simp] theorem ctxOf_modCtx (x : Side) (f : Ctx → Ctx) (c : Site) : ctxOf (modCtx x f c) x = f (ctxOf c x) := by simp [modCtx]

theorem ctxOf_setCtx_other (x : Side) (v : Ctx) (c : Site) : ctxOf (setCtx (!x) v c) x = ctxOf c x := by cases x <;> rfl

@[simp] theorem halfOf_setHalf (h : Side) (v : Half) (c : Site) : halfOf (setHalf h v c) h = v := by cases h <;> rfl

@[simp] theorem halfOf_modHalf (h : Side) (f : Half → Half) (c : Site) : halfOf (modHalf h f c) h = f (halfOf c h) := by simp [modHalf]

theorem mySite_modMyCtx (f : Ctx → Ctx) (s : State) : mySite (modMyCtx f s) = modCtx s.cur.ctx f (mySite s) := by simp [modMyCtx]

@[simp] theorem myCtx_modMyCtx (f : Ctx → Ctx) (s : State) : myCtx (modMyCtx f s) = f (myCtx s) := by
  simp [myCtx, mySite_modMyCtx]

theorem mySite_modMyVe (f : Ve → Ve) (s : State) : mySite (modMyVe f s) = modVe f (mySite s) := by simp [modMyVe]

@[simp] theorem myVe_modMyVe (f : Ve → Ve) (s : State) : myVe (modMyVe f s) = f (myVe s) := by
  simp [myVe, mySite_modMyVe, modVe]

@[simp] theorem myHalf_modMyHalf (f : Half → Half) (s : State) : myHalf (modMyHalf f s) = f (myHalf s) := by
  simp [myHalf, modMyHalf]

@[simp] theorem rink_modRink_same (r : Nat) (f : Rink → Rink) (s : State) : rink r (modRink r f s) = f (rink r s) := by
  simp [rink, modRink]

theorem rink_modRink_ne {r q : Nat} (h : q ≠ r) (f : Rink → Rink) (s : State) : rink q (modRink r f s) = rink q s := by
  simp [rink, modRink, Table.get_put_ne, h]

@[simp] theorem fnOf_modFn_same (v : Nat) (f : Fn → Fn) (s : State) : fnOf v (modFn v f s) = f (fnOf v s) := by simp [fnOf, modFn]

theorem fnOf_modFn_ne {v w : Nat} (h : w ≠ v) (f : Fn → Fn) (s : State) : fnOf w (modFn v f s) = fnOf w s := by
  simp [fnOf, modFn, Table.get_put_ne, h]

@[simp] theorem die_modDie_same (d : Nat) (f : Die → Die) (s : State) : die d (modDie d f s) = f (die d s) := by simp [die, modDie]

theorem die_modDie_ne {d e : Nat} (h : e ≠ d) (f : Die → Die) (s : State) : die e (modDie d f s) = die e s := by
  simp [die, modDie, Table.get_put_ne, h]

@[simp] theorem windowOf_modWindow_same (w : Nat) (f : Window → Window) (s : State) : windowOf w (modWindow w f s) = f (windowOf w s) := by
  simp [windowOf, modWindow]

/-- A second change of one site replaces the first. -/
theorem modSite_modSite (k : Nat) (f g : Site → Site) (s : State) : modSite k g (modSite k f s) = modSite k (fun c => g (f c)) s := by
  simp [modSite, setSite, site]

theorem modMySite_modMySite (f g : Site → Site) (s : State) : modMySite g (modMySite f s) = modMySite (fun c => g (f c)) s := by
  simp only [modMySite, modSite_cur]; exact modSite_modSite _ _ _ _

@[simp] theorem modCtx_now (x : Side) (f : Ctx → Ctx) (c : Site) : (modCtx x f c).now = c.now := by cases x <;> rfl
@[simp] theorem modCtx_ve (x : Side) (f : Ctx → Ctx) (c : Site) : (modCtx x f c).ve = c.ve := by cases x <;> rfl
@[simp] theorem modCtx_own (x : Side) (f : Ctx → Ctx) (c : Site) : (modCtx x f c).own = c.own := by cases x <;> rfl
@[simp] theorem modCtx_tm (x : Side) (f : Ctx → Ctx) (c : Site) : (modCtx x f c).tm = c.tm := by cases x <;> rfl
@[simp] theorem modCtx_flags (x : Side) (f : Ctx → Ctx) (c : Site) : (modCtx x f c).flags = c.flags := by cases x <;> rfl
@[simp] theorem modCtx_pipe (x : Side) (f : Ctx → Ctx) (c : Site) : (modCtx x f c).pipe = c.pipe := by cases x <;> rfl
@[simp] theorem modCtx_q (x : Side) (f : Ctx → Ctx) (c : Site) : (modCtx x f c).q = c.q := by cases x <;> rfl
@[simp] theorem modCtx_obs (x : Side) (f : Ctx → Ctx) (c : Site) : (modCtx x f c).obs = c.obs := by cases x <;> rfl
@[simp] theorem modCtx_tiles (x : Side) (f : Ctx → Ctx) (c : Site) : (modCtx x f c).tiles = c.tiles := by cases x <;> rfl

/-! ## The executing context -/

@[simp] theorem ccIssue_s (now occ : Nat) (x : Ctx) : (ccIssue now occ x).s = x.s := rfl
@[simp] theorem ccIssue_sValid (now occ : Nat) (x : Ctx) : (ccIssue now occ x).sValid = x.sValid := rfl
@[simp] theorem ccIssue_sReady (now occ : Nat) (x : Ctx) : (ccIssue now occ x).sReady = x.sReady := rfl
@[simp] theorem ccIssue_sElastic (now occ : Nat) (x : Ctx) : (ccIssue now occ x).sElastic = x.sElastic := rfl
@[simp] theorem ccIssue_a (now occ : Nat) (x : Ctx) : (ccIssue now occ x).a = x.a := rfl
@[simp] theorem ccIssue_aValid (now occ : Nat) (x : Ctx) : (ccIssue now occ x).aValid = x.aValid := rfl
@[simp] theorem ccIssue_aReady (now occ : Nat) (x : Ctx) : (ccIssue now occ x).aReady = x.aReady := rfl
@[simp] theorem ccIssue_aElastic (now occ : Nat) (x : Ctx) : (ccIssue now occ x).aElastic = x.aElastic := rfl
@[simp] theorem ccIssue_divFree (now occ : Nat) (x : Ctx) : (ccIssue now occ x).divFree = x.divFree := rfl
@[simp] theorem ccIssue_pc (now occ : Nat) (x : Ctx) : (ccIssue now occ x).pc = x.pc := rfl
@[simp] theorem ccIssue_npc (now occ : Nat) (x : Ctx) : (ccIssue now occ x).npc = x.npc := rfl
@[simp] theorem ccIssue_slots (now occ : Nat) (x : Ctx) : (ccIssue now occ x).slots = x.slots := rfl
@[simp] theorem ccIssue_code (now occ : Nat) (x : Ctx) : (ccIssue now occ x).code = x.code := rfl
@[simp] theorem ccIssue_trap (now occ : Nat) (x : Ctx) : (ccIssue now occ x).trap = x.trap := rfl
@[simp] theorem ccIssue_fstat (now occ : Nat) (x : Ctx) : (ccIssue now occ x).fstat = x.fstat := rfl
@[simp] theorem ccIssue_fctl (now occ : Nat) (x : Ctx) : (ccIssue now occ x).fctl = x.fctl := rfl
@[simp] theorem ccIssue_srkey (now occ : Nat) (x : Ctx) : (ccIssue now occ x).srkey = x.srkey := rfl
@[simp] theorem ccIssue_prevFctl (now occ : Nat) (x : Ctx) : (ccIssue now occ x).prevFctl = x.prevFctl := rfl
@[simp] theorem ccIssue_prevSrkey (now occ : Nat) (x : Ctx) : (ccIssue now occ x).prevSrkey = x.prevSrkey := rfl
@[simp] theorem ccIssue_ctlAt (now occ : Nat) (x : Ctx) : (ccIssue now occ x).ctlAt = x.ctlAt := rfl
@[simp] theorem ccIssue_ecnt (now occ : Nat) (x : Ctx) : (ccIssue now occ x).ecnt = x.ecnt := rfl
@[simp] theorem ccIssue_ecntSat (now occ : Nat) (x : Ctx) : (ccIssue now occ x).ecntSat = x.ecntSat := rfl
@[simp] theorem ccIssue_ctxid (now occ : Nat) (x : Ctx) : (ccIssue now occ x).ctxid = x.ctxid := rfl
@[simp] theorem ccIssue_vfid (now occ : Nat) (x : Ctx) : (ccIssue now occ x).vfid = x.vfid := rfl
@[simp] theorem ccIssue_staged (now occ : Nat) (x : Ctx) : (ccIssue now occ x).staged = x.staged := rfl
@[simp] theorem ccIssue_buf (now occ : Nat) (x : Ctx) : (ccIssue now occ x).buf = x.buf := rfl
@[simp] theorem ccIssue_ib (now occ : Nat) (x : Ctx) : (ccIssue now occ x).ib = x.ib := rfl
@[simp] theorem ccIssue_fetching (now occ : Nat) (x : Ctx) : (ccIssue now occ x).fetching = x.fetching := rfl
@[simp] theorem ccIssue_rendezBeat (now occ : Nat) (x : Ctx) : (ccIssue now occ x).rendezBeat = x.rendezBeat := rfl
@[simp] theorem ccIssue_lastLaunch (now occ : Nat) (x : Ctx) : (ccIssue now occ x).lastLaunch = x.lastLaunch := rfl
@[simp] theorem ccIssue_isUnit (now occ : Nat) (x : Ctx) : (ccIssue now occ x).isUnit = x.isUnit := rfl
@[simp] theorem ccIssue_was (now occ : Nat) (x : Ctx) : (ccIssue now occ x).was = x.was := rfl
@[simp] theorem ccIssue_ahead (now occ : Nat) (x : Ctx) : (ccIssue now occ x).ahead = x.ahead := rfl

@[simp] theorem transferPc_s (taken : Bool) (target : Word) (x : Ctx) : (transferPc taken target x).s = x.s := rfl
@[simp] theorem transferPc_sValid (taken : Bool) (target : Word) (x : Ctx) : (transferPc taken target x).sValid = x.sValid := rfl
@[simp] theorem transferPc_sReady (taken : Bool) (target : Word) (x : Ctx) : (transferPc taken target x).sReady = x.sReady := rfl
@[simp] theorem transferPc_sElastic (taken : Bool) (target : Word) (x : Ctx) : (transferPc taken target x).sElastic = x.sElastic := rfl
@[simp] theorem transferPc_a (taken : Bool) (target : Word) (x : Ctx) : (transferPc taken target x).a = x.a := rfl
@[simp] theorem transferPc_aValid (taken : Bool) (target : Word) (x : Ctx) : (transferPc taken target x).aValid = x.aValid := rfl
@[simp] theorem transferPc_aReady (taken : Bool) (target : Word) (x : Ctx) : (transferPc taken target x).aReady = x.aReady := rfl
@[simp] theorem transferPc_aElastic (taken : Bool) (target : Word) (x : Ctx) : (transferPc taken target x).aElastic = x.aElastic := rfl
@[simp] theorem transferPc_divFree (taken : Bool) (target : Word) (x : Ctx) : (transferPc taken target x).divFree = x.divFree := rfl
@[simp] theorem transferPc_code (taken : Bool) (target : Word) (x : Ctx) : (transferPc taken target x).code = x.code := rfl
@[simp] theorem transferPc_ctl (taken : Bool) (target : Word) (x : Ctx) : (transferPc taken target x).ctl = x.ctl := rfl
@[simp] theorem transferPc_trap (taken : Bool) (target : Word) (x : Ctx) : (transferPc taken target x).trap = x.trap := rfl
@[simp] theorem transferPc_fstat (taken : Bool) (target : Word) (x : Ctx) : (transferPc taken target x).fstat = x.fstat := rfl
@[simp] theorem transferPc_fctl (taken : Bool) (target : Word) (x : Ctx) : (transferPc taken target x).fctl = x.fctl := rfl
@[simp] theorem transferPc_srkey (taken : Bool) (target : Word) (x : Ctx) : (transferPc taken target x).srkey = x.srkey := rfl
@[simp] theorem transferPc_prevFctl (taken : Bool) (target : Word) (x : Ctx) : (transferPc taken target x).prevFctl = x.prevFctl := rfl
@[simp] theorem transferPc_prevSrkey (taken : Bool) (target : Word) (x : Ctx) : (transferPc taken target x).prevSrkey = x.prevSrkey := rfl
@[simp] theorem transferPc_ctlAt (taken : Bool) (target : Word) (x : Ctx) : (transferPc taken target x).ctlAt = x.ctlAt := rfl
@[simp] theorem transferPc_ecnt (taken : Bool) (target : Word) (x : Ctx) : (transferPc taken target x).ecnt = x.ecnt := rfl
@[simp] theorem transferPc_ecntSat (taken : Bool) (target : Word) (x : Ctx) : (transferPc taken target x).ecntSat = x.ecntSat := rfl
@[simp] theorem transferPc_ctxid (taken : Bool) (target : Word) (x : Ctx) : (transferPc taken target x).ctxid = x.ctxid := rfl
@[simp] theorem transferPc_vfid (taken : Bool) (target : Word) (x : Ctx) : (transferPc taken target x).vfid = x.vfid := rfl
@[simp] theorem transferPc_staged (taken : Bool) (target : Word) (x : Ctx) : (transferPc taken target x).staged = x.staged := rfl
@[simp] theorem transferPc_buf (taken : Bool) (target : Word) (x : Ctx) : (transferPc taken target x).buf = x.buf := rfl
@[simp] theorem transferPc_ib (taken : Bool) (target : Word) (x : Ctx) : (transferPc taken target x).ib = x.ib := rfl
@[simp] theorem transferPc_fetching (taken : Bool) (target : Word) (x : Ctx) : (transferPc taken target x).fetching = x.fetching := rfl
@[simp] theorem transferPc_rendezBeat (taken : Bool) (target : Word) (x : Ctx) : (transferPc taken target x).rendezBeat = x.rendezBeat := rfl
@[simp] theorem transferPc_lastLaunch (taken : Bool) (target : Word) (x : Ctx) : (transferPc taken target x).lastLaunch = x.lastLaunch := rfl
@[simp] theorem transferPc_isUnit (taken : Bool) (target : Word) (x : Ctx) : (transferPc taken target x).isUnit = x.isUnit := rfl
@[simp] theorem transferPc_ahead (taken : Bool) (target : Word) (x : Ctx) : (transferPc taken target x).ahead = x.ahead := rfl

@[simp] theorem putA_s (now lat : Nat) (r : BitVec 4) (v : Cap) (x : Ctx) : (putA now lat r v x).s = x.s := rfl
@[simp] theorem putA_sValid (now lat : Nat) (r : BitVec 4) (v : Cap) (x : Ctx) : (putA now lat r v x).sValid = x.sValid := rfl
@[simp] theorem putA_sReady (now lat : Nat) (r : BitVec 4) (v : Cap) (x : Ctx) : (putA now lat r v x).sReady = x.sReady := rfl
@[simp] theorem putA_sElastic (now lat : Nat) (r : BitVec 4) (v : Cap) (x : Ctx) : (putA now lat r v x).sElastic = x.sElastic := rfl
@[simp] theorem putA_aElastic (now lat : Nat) (r : BitVec 4) (v : Cap) (x : Ctx) : (putA now lat r v x).aElastic = x.aElastic := rfl
@[simp] theorem putA_divFree (now lat : Nat) (r : BitVec 4) (v : Cap) (x : Ctx) : (putA now lat r v x).divFree = x.divFree := rfl
@[simp] theorem putA_pc (now lat : Nat) (r : BitVec 4) (v : Cap) (x : Ctx) : (putA now lat r v x).pc = x.pc := rfl
@[simp] theorem putA_npc (now lat : Nat) (r : BitVec 4) (v : Cap) (x : Ctx) : (putA now lat r v x).npc = x.npc := rfl
@[simp] theorem putA_slots (now lat : Nat) (r : BitVec 4) (v : Cap) (x : Ctx) : (putA now lat r v x).slots = x.slots := rfl
@[simp] theorem putA_code (now lat : Nat) (r : BitVec 4) (v : Cap) (x : Ctx) : (putA now lat r v x).code = x.code := rfl
@[simp] theorem putA_ctl (now lat : Nat) (r : BitVec 4) (v : Cap) (x : Ctx) : (putA now lat r v x).ctl = x.ctl := rfl
@[simp] theorem putA_trap (now lat : Nat) (r : BitVec 4) (v : Cap) (x : Ctx) : (putA now lat r v x).trap = x.trap := rfl
@[simp] theorem putA_fstat (now lat : Nat) (r : BitVec 4) (v : Cap) (x : Ctx) : (putA now lat r v x).fstat = x.fstat := rfl
@[simp] theorem putA_fctl (now lat : Nat) (r : BitVec 4) (v : Cap) (x : Ctx) : (putA now lat r v x).fctl = x.fctl := rfl
@[simp] theorem putA_srkey (now lat : Nat) (r : BitVec 4) (v : Cap) (x : Ctx) : (putA now lat r v x).srkey = x.srkey := rfl
@[simp] theorem putA_prevFctl (now lat : Nat) (r : BitVec 4) (v : Cap) (x : Ctx) : (putA now lat r v x).prevFctl = x.prevFctl := rfl
@[simp] theorem putA_prevSrkey (now lat : Nat) (r : BitVec 4) (v : Cap) (x : Ctx) : (putA now lat r v x).prevSrkey = x.prevSrkey := rfl
@[simp] theorem putA_ctlAt (now lat : Nat) (r : BitVec 4) (v : Cap) (x : Ctx) : (putA now lat r v x).ctlAt = x.ctlAt := rfl
@[simp] theorem putA_ecnt (now lat : Nat) (r : BitVec 4) (v : Cap) (x : Ctx) : (putA now lat r v x).ecnt = x.ecnt := rfl
@[simp] theorem putA_ecntSat (now lat : Nat) (r : BitVec 4) (v : Cap) (x : Ctx) : (putA now lat r v x).ecntSat = x.ecntSat := rfl
@[simp] theorem putA_ctxid (now lat : Nat) (r : BitVec 4) (v : Cap) (x : Ctx) : (putA now lat r v x).ctxid = x.ctxid := rfl
@[simp] theorem putA_vfid (now lat : Nat) (r : BitVec 4) (v : Cap) (x : Ctx) : (putA now lat r v x).vfid = x.vfid := rfl
@[simp] theorem putA_staged (now lat : Nat) (r : BitVec 4) (v : Cap) (x : Ctx) : (putA now lat r v x).staged = x.staged := rfl
@[simp] theorem putA_buf (now lat : Nat) (r : BitVec 4) (v : Cap) (x : Ctx) : (putA now lat r v x).buf = x.buf := rfl
@[simp] theorem putA_ib (now lat : Nat) (r : BitVec 4) (v : Cap) (x : Ctx) : (putA now lat r v x).ib = x.ib := rfl
@[simp] theorem putA_fetching (now lat : Nat) (r : BitVec 4) (v : Cap) (x : Ctx) : (putA now lat r v x).fetching = x.fetching := rfl
@[simp] theorem putA_rendezBeat (now lat : Nat) (r : BitVec 4) (v : Cap) (x : Ctx) : (putA now lat r v x).rendezBeat = x.rendezBeat := rfl
@[simp] theorem putA_lastLaunch (now lat : Nat) (r : BitVec 4) (v : Cap) (x : Ctx) : (putA now lat r v x).lastLaunch = x.lastLaunch := rfl
@[simp] theorem putA_isUnit (now lat : Nat) (r : BitVec 4) (v : Cap) (x : Ctx) : (putA now lat r v x).isUnit = x.isUnit := rfl
@[simp] theorem putA_was (now lat : Nat) (r : BitVec 4) (v : Cap) (x : Ctx) : (putA now lat r v x).was = x.was := rfl
@[simp] theorem putA_ahead (now lat : Nat) (r : BitVec 4) (v : Cap) (x : Ctx) : (putA now lat r v x).ahead = x.ahead := rfl

@[simp] theorem putS_sElastic (now lat : Nat) (r : BitVec 5) (v : Word) (x : Ctx) : (putS now lat r v x).sElastic = x.sElastic := by unfold putS; split <;> rfl
@[simp] theorem putS_a (now lat : Nat) (r : BitVec 5) (v : Word) (x : Ctx) : (putS now lat r v x).a = x.a := by unfold putS; split <;> rfl
@[simp] theorem putS_aValid (now lat : Nat) (r : BitVec 5) (v : Word) (x : Ctx) : (putS now lat r v x).aValid = x.aValid := by unfold putS; split <;> rfl
@[simp] theorem putS_aReady (now lat : Nat) (r : BitVec 5) (v : Word) (x : Ctx) : (putS now lat r v x).aReady = x.aReady := by unfold putS; split <;> rfl
@[simp] theorem putS_aElastic (now lat : Nat) (r : BitVec 5) (v : Word) (x : Ctx) : (putS now lat r v x).aElastic = x.aElastic := by unfold putS; split <;> rfl
@[simp] theorem putS_divFree (now lat : Nat) (r : BitVec 5) (v : Word) (x : Ctx) : (putS now lat r v x).divFree = x.divFree := by unfold putS; split <;> rfl
@[simp] theorem putS_pc (now lat : Nat) (r : BitVec 5) (v : Word) (x : Ctx) : (putS now lat r v x).pc = x.pc := by unfold putS; split <;> rfl
@[simp] theorem putS_npc (now lat : Nat) (r : BitVec 5) (v : Word) (x : Ctx) : (putS now lat r v x).npc = x.npc := by unfold putS; split <;> rfl
@[simp] theorem putS_slots (now lat : Nat) (r : BitVec 5) (v : Word) (x : Ctx) : (putS now lat r v x).slots = x.slots := by unfold putS; split <;> rfl
@[simp] theorem putS_code (now lat : Nat) (r : BitVec 5) (v : Word) (x : Ctx) : (putS now lat r v x).code = x.code := by unfold putS; split <;> rfl
@[simp] theorem putS_ctl (now lat : Nat) (r : BitVec 5) (v : Word) (x : Ctx) : (putS now lat r v x).ctl = x.ctl := by unfold putS; split <;> rfl
@[simp] theorem putS_trap (now lat : Nat) (r : BitVec 5) (v : Word) (x : Ctx) : (putS now lat r v x).trap = x.trap := by unfold putS; split <;> rfl
@[simp] theorem putS_fstat (now lat : Nat) (r : BitVec 5) (v : Word) (x : Ctx) : (putS now lat r v x).fstat = x.fstat := by unfold putS; split <;> rfl
@[simp] theorem putS_fctl (now lat : Nat) (r : BitVec 5) (v : Word) (x : Ctx) : (putS now lat r v x).fctl = x.fctl := by unfold putS; split <;> rfl
@[simp] theorem putS_srkey (now lat : Nat) (r : BitVec 5) (v : Word) (x : Ctx) : (putS now lat r v x).srkey = x.srkey := by unfold putS; split <;> rfl
@[simp] theorem putS_prevFctl (now lat : Nat) (r : BitVec 5) (v : Word) (x : Ctx) : (putS now lat r v x).prevFctl = x.prevFctl := by unfold putS; split <;> rfl
@[simp] theorem putS_prevSrkey (now lat : Nat) (r : BitVec 5) (v : Word) (x : Ctx) : (putS now lat r v x).prevSrkey = x.prevSrkey := by unfold putS; split <;> rfl
@[simp] theorem putS_ctlAt (now lat : Nat) (r : BitVec 5) (v : Word) (x : Ctx) : (putS now lat r v x).ctlAt = x.ctlAt := by unfold putS; split <;> rfl
@[simp] theorem putS_ecnt (now lat : Nat) (r : BitVec 5) (v : Word) (x : Ctx) : (putS now lat r v x).ecnt = x.ecnt := by unfold putS; split <;> rfl
@[simp] theorem putS_ecntSat (now lat : Nat) (r : BitVec 5) (v : Word) (x : Ctx) : (putS now lat r v x).ecntSat = x.ecntSat := by unfold putS; split <;> rfl
@[simp] theorem putS_ctxid (now lat : Nat) (r : BitVec 5) (v : Word) (x : Ctx) : (putS now lat r v x).ctxid = x.ctxid := by unfold putS; split <;> rfl
@[simp] theorem putS_vfid (now lat : Nat) (r : BitVec 5) (v : Word) (x : Ctx) : (putS now lat r v x).vfid = x.vfid := by unfold putS; split <;> rfl
@[simp] theorem putS_staged (now lat : Nat) (r : BitVec 5) (v : Word) (x : Ctx) : (putS now lat r v x).staged = x.staged := by unfold putS; split <;> rfl
@[simp] theorem putS_buf (now lat : Nat) (r : BitVec 5) (v : Word) (x : Ctx) : (putS now lat r v x).buf = x.buf := by unfold putS; split <;> rfl
@[simp] theorem putS_ib (now lat : Nat) (r : BitVec 5) (v : Word) (x : Ctx) : (putS now lat r v x).ib = x.ib := by unfold putS; split <;> rfl
@[simp] theorem putS_fetching (now lat : Nat) (r : BitVec 5) (v : Word) (x : Ctx) : (putS now lat r v x).fetching = x.fetching := by unfold putS; split <;> rfl
@[simp] theorem putS_rendezBeat (now lat : Nat) (r : BitVec 5) (v : Word) (x : Ctx) : (putS now lat r v x).rendezBeat = x.rendezBeat := by unfold putS; split <;> rfl
@[simp] theorem putS_lastLaunch (now lat : Nat) (r : BitVec 5) (v : Word) (x : Ctx) : (putS now lat r v x).lastLaunch = x.lastLaunch := by unfold putS; split <;> rfl
@[simp] theorem putS_isUnit (now lat : Nat) (r : BitVec 5) (v : Word) (x : Ctx) : (putS now lat r v x).isUnit = x.isUnit := by unfold putS; split <;> rfl
@[simp] theorem putS_was (now lat : Nat) (r : BitVec 5) (v : Word) (x : Ctx) : (putS now lat r v x).was = x.was := by unfold putS; split <;> rfl
@[simp] theorem putS_ahead (now lat : Nat) (r : BitVec 5) (v : Word) (x : Ctx) : (putS now lat r v x).ahead = x.ahead := by unfold putS; split <;> rfl

@[simp] theorem advancePc_s (x : Ctx) : (advancePc x).s = x.s := by
  unfold advancePc; dsimp only; split
  · rfl
  · split <;> rfl
@[simp] theorem advancePc_sValid (x : Ctx) : (advancePc x).sValid = x.sValid := by
  unfold advancePc; dsimp only; split
  · rfl
  · split <;> rfl
@[simp] theorem advancePc_sReady (x : Ctx) : (advancePc x).sReady = x.sReady := by
  unfold advancePc; dsimp only; split
  · rfl
  · split <;> rfl
@[simp] theorem advancePc_sElastic (x : Ctx) : (advancePc x).sElastic = x.sElastic := by
  unfold advancePc; dsimp only; split
  · rfl
  · split <;> rfl
@[simp] theorem advancePc_a (x : Ctx) : (advancePc x).a = x.a := by
  unfold advancePc; dsimp only; split
  · rfl
  · split <;> rfl
@[simp] theorem advancePc_aValid (x : Ctx) : (advancePc x).aValid = x.aValid := by
  unfold advancePc; dsimp only; split
  · rfl
  · split <;> rfl
@[simp] theorem advancePc_aReady (x : Ctx) : (advancePc x).aReady = x.aReady := by
  unfold advancePc; dsimp only; split
  · rfl
  · split <;> rfl
@[simp] theorem advancePc_aElastic (x : Ctx) : (advancePc x).aElastic = x.aElastic := by
  unfold advancePc; dsimp only; split
  · rfl
  · split <;> rfl
@[simp] theorem advancePc_divFree (x : Ctx) : (advancePc x).divFree = x.divFree := by
  unfold advancePc; dsimp only; split
  · rfl
  · split <;> rfl
@[simp] theorem advancePc_npc (x : Ctx) : (advancePc x).npc = x.npc := by
  unfold advancePc; dsimp only; split
  · rfl
  · split <;> rfl
@[simp] theorem advancePc_code (x : Ctx) : (advancePc x).code = x.code := by
  unfold advancePc; dsimp only; split
  · rfl
  · split <;> rfl
@[simp] theorem advancePc_ctl (x : Ctx) : (advancePc x).ctl = x.ctl := by
  unfold advancePc; dsimp only; split
  · rfl
  · split <;> rfl
@[simp] theorem advancePc_trap (x : Ctx) : (advancePc x).trap = x.trap := by
  unfold advancePc; dsimp only; split
  · rfl
  · split <;> rfl
@[simp] theorem advancePc_fstat (x : Ctx) : (advancePc x).fstat = x.fstat := by
  unfold advancePc; dsimp only; split
  · rfl
  · split <;> rfl
@[simp] theorem advancePc_fctl (x : Ctx) : (advancePc x).fctl = x.fctl := by
  unfold advancePc; dsimp only; split
  · rfl
  · split <;> rfl
@[simp] theorem advancePc_srkey (x : Ctx) : (advancePc x).srkey = x.srkey := by
  unfold advancePc; dsimp only; split
  · rfl
  · split <;> rfl
@[simp] theorem advancePc_prevFctl (x : Ctx) : (advancePc x).prevFctl = x.prevFctl := by
  unfold advancePc; dsimp only; split
  · rfl
  · split <;> rfl
@[simp] theorem advancePc_prevSrkey (x : Ctx) : (advancePc x).prevSrkey = x.prevSrkey := by
  unfold advancePc; dsimp only; split
  · rfl
  · split <;> rfl
@[simp] theorem advancePc_ctlAt (x : Ctx) : (advancePc x).ctlAt = x.ctlAt := by
  unfold advancePc; dsimp only; split
  · rfl
  · split <;> rfl
@[simp] theorem advancePc_ecnt (x : Ctx) : (advancePc x).ecnt = x.ecnt := by
  unfold advancePc; dsimp only; split
  · rfl
  · split <;> rfl
@[simp] theorem advancePc_ecntSat (x : Ctx) : (advancePc x).ecntSat = x.ecntSat := by
  unfold advancePc; dsimp only; split
  · rfl
  · split <;> rfl
@[simp] theorem advancePc_ctxid (x : Ctx) : (advancePc x).ctxid = x.ctxid := by
  unfold advancePc; dsimp only; split
  · rfl
  · split <;> rfl
@[simp] theorem advancePc_vfid (x : Ctx) : (advancePc x).vfid = x.vfid := by
  unfold advancePc; dsimp only; split
  · rfl
  · split <;> rfl
@[simp] theorem advancePc_staged (x : Ctx) : (advancePc x).staged = x.staged := by
  unfold advancePc; dsimp only; split
  · rfl
  · split <;> rfl
@[simp] theorem advancePc_buf (x : Ctx) : (advancePc x).buf = x.buf := by
  unfold advancePc; dsimp only; split
  · rfl
  · split <;> rfl
@[simp] theorem advancePc_ib (x : Ctx) : (advancePc x).ib = x.ib := by
  unfold advancePc; dsimp only; split
  · rfl
  · split <;> rfl
@[simp] theorem advancePc_fetching (x : Ctx) : (advancePc x).fetching = x.fetching := by
  unfold advancePc; dsimp only; split
  · rfl
  · split <;> rfl
@[simp] theorem advancePc_rendezBeat (x : Ctx) : (advancePc x).rendezBeat = x.rendezBeat := by
  unfold advancePc; dsimp only; split
  · rfl
  · split <;> rfl
@[simp] theorem advancePc_lastLaunch (x : Ctx) : (advancePc x).lastLaunch = x.lastLaunch := by
  unfold advancePc; dsimp only; split
  · rfl
  · split <;> rfl
@[simp] theorem advancePc_isUnit (x : Ctx) : (advancePc x).isUnit = x.isUnit := by
  unfold advancePc; dsimp only; split
  · rfl
  · split <;> rfl
@[simp] theorem advancePc_ahead (x : Ctx) : (advancePc x).ahead = x.ahead := by
  unfold advancePc; dsimp only; split
  · rfl
  · split <;> rfl

theorem getS_zero (x : Ctx) : getS x 0 = 0 := rfl

/-- s0 discards a write (02 R43). -/
theorem putS_zero (now lat : Nat) (v : Word) (x : Ctx) : putS now lat 0 v x = x := rfl

/-- A written register reads back. -/
theorem getS_putS_same {r : BitVec 5} (h : r ≠ 0) (now lat : Nat) (v : Word) (x : Ctx) : getS (putS now lat r v x) r = v := by
  unfold getS putS
  rw [if_neg h, if_neg h]
  exact Table.get_put_same _ _ _ _

/-- The other registers keep their values. -/
theorem getS_putS_ne {r q : BitVec 5} (h : q ≠ r) (now lat : Nat) (v : Word) (x : Ctx) : getS (putS now lat r v x) q = getS x q := by
  unfold getS putS
  split
  · rfl
  · split
    · rfl
    · exact Table.get_put_ne _ _ _ fun e => h (BitVec.eq_of_toNat_eq e)

theorem getA_putA_same (now lat : Nat) (r : BitVec 4) (v : Cap) (x : Ctx) : getA (putA now lat r v x) r = v :=
  Table.get_put_same _ _ _ _

theorem getA_putA_ne {r q : BitVec 4} (h : q ≠ r) (now lat : Nat) (v : Cap) (x : Ctx) : getA (putA now lat r v x) q = getA x q :=
  Table.get_put_ne _ _ _ fun e => h (BitVec.eq_of_toNat_eq e)

@[simp] theorem getS_ccIssue (now occ : Nat) (x : Ctx) (r : BitVec 5) : getS (ccIssue now occ x) r = getS x r := rfl
@[simp] theorem getA_ccIssue (now occ : Nat) (x : Ctx) (r : BitVec 4) : getA (ccIssue now occ x) r = getA x r := rfl
@[simp] theorem getS_advancePc (x : Ctx) (r : BitVec 5) : getS (advancePc x) r = getS x r := by simp [getS]
@[simp] theorem getA_advancePc (x : Ctx) (r : BitVec 4) : getA (advancePc x) r = getA x r := by simp [getA]
@[simp] theorem getS_transferPc (b : Bool) (w : Word) (x : Ctx) (r : BitVec 5) : getS (transferPc b w x) r = getS x r := rfl
@[simp] theorem getA_transferPc (b : Bool) (w : Word) (x : Ctx) (r : BitVec 4) : getA (transferPc b w x) r = getA x r := rfl

/-- Outside delay slots the program counter moves on by one word (04 R103). -/
theorem advancePc_pc (x : Ctx) (h : x.slots = 0) : (advancePc x).pc = x.pc + 4 := by simp [advancePc, h]

/-! ## Reads of TM where no error stands (18 R420) -/

/-- A read of bytes without a correctable error changes nothing. -/
theorem corrected_sound (addr n : Nat) (c : Site) (h : errorsIn 1 addr n c.tm.errs = []) : corrected addr n c = c := by
  simp [corrected, h]

/-- Nothing stands in a tile memory that lists no error. -/
theorem errorsIn_nil (e addr n : Nat) (t : Table Nat) (h : t.cells = []) : errorsIn e addr n t = [] := by simp [errorsIn, h]

theorem spoiled_nil (t : Tm) (addr n : Nat) (h : t.errs.cells = []) : spoiled t addr n = none := by
  simp [spoiled, errorsIn_nil 2 addr n t.errs h]

end Sys2Proof.Machine
end

