-- ==== Sys2Proof/Laws/Shared.lean ====
section
/-!
SUPPORT. What the operations that several events share can do: the registers of a freeze, the first use of a frame, a landing that waits, a retry buffer's replay,
and the return from Hold.
-/

namespace Sys2Proof.Machine

/-! ## RFRZ (18 R414) -/

/-- RFRZ is a register of the rink: showing a freeze in it moves no core and no byte. -/
theorem showFreeze_frame (r : Nat) (s : State) : (showFreeze r s).sites = s.sites ∧ (showFreeze r s).mem = s.mem ∧ (showFreeze r s).host = s.host ∧
    (showFreeze r s).fns = s.fns := by
  unfold showFreeze; split <;> exact ⟨rfl, rfl, rfl, rfl⟩

/-- Where no launch of the rink is frozen RFRZ shows none. -/
theorem showFreeze_none {r : Nat} {s : State} (h : frozenLaunch r s = none) :
    showFreeze r s = modRecov r (fun v => { v with frozen := false, kind := 0, core := 0 }) s := by simp [showFreeze, h]

/-! ## The first use of a frame (14 R353) -/

@[simp] theorem useFrame_none (ma : Nat) (s : State) : useFrame none ma s = s := rfl

/-- A frame that its slot has used before is as it was. -/
theorem grantFrame_used {slot ma : Nat} {s : State} (h : freshFrame s slot ma = false) : grantFrame slot ma s = s := by simp [grantFrame, h]

/-- What a grant clears keeps the memory's form. -/
theorem clearFrame64_wf {f : Nat} {s : State} (h : s.mem.wf = true) : (clearFrame64 f s).mem.wf = true := by
  unfold clearFrame64
  split
  · exact Table.wf_dropRange _ _ h
  · exact h

theorem useFrame_wf {key : Option Nat} {ma : Nat} {s : State} (h : s.mem.wf = true) : (useFrame key ma s).mem.wf = true := by
  cases key with
  | none => exact h
  | some k =>
    show (grantFrame k ma s).mem.wf = true
    unfold grantFrame
    dsimp only
    split
    · exact clearFrame64_wf h
    · exact h

/-! ## A landing whose page is being moved (11 R297) -/

/-- A contribution that waits changes nothing but its number's list. -/
theorem stall_frame (r cnum : Nat) (w : Stalled) (s : State) : (stall r cnum w s).sites = s.sites ∧ (stall r cnum w s).mem = s.mem ∧
    (stall r cnum w s).dies = s.dies ∧ (stall r cnum w s).sent = s.sent := ⟨rfl, rfl, rfl, rfl⟩

/-- No port, no credit. -/
@[simp] theorem grantCredit_none (s : State) : grantCredit none s = s := rfl

/-- A contribution to a window that does not take it is refused at once: none of it waits. -/
theorem comeWhole_unplaced {port : Option Nat} {c : Contribution} {s : State} (h : landingVa c 0 c.data.length s = none) :
    comeWhole port c s = settleArrival c (grantCredit port s) := by simp [comeWhole, h]

/-! ## The retry buffer and Hold -/

/-- Nothing to send again is no replay (16 R382). -/
theorem replay_nil (n : Nat) (s : State) : replay n [] s = s := by simp [replay]

/-- The return from Hold is an event of its own; here it only comes to stand on the agenda (19 R437). -/
theorem wake_frame (s : State) : (wake s).sites = s.sites ∧ (wake s).rinks = s.rinks ∧ (wake s).mem = s.mem ∧ (wake s).power = s.power := by
  unfold wake; split <;> exact ⟨rfl, rfl, rfl, rfl⟩

/-- Where a launch's list does not translate, the launch waits as it is (05 R138). -/
theorem pinLaunch_waits {r : Nat} {l : Launch} {s : State} (h : launchPages r l s = none) : pinLaunch r l s = s := by simp [pinLaunch, h]

end Sys2Proof.Machine
end

