-- ==== Sys2Proof/Laws/Words.lean ====
section
/-!
SUPPORT. What the shared forms of a word do: the checks of its registers, and its next state when every check passes.
-/

namespace Sys2Proof.Machine

theorem firstHit_eq_none {l : List (Option Hit)} : firstHit l = none ↔ ∀ h ∈ l, h = none := by
  induction l with
  | nil => simp [firstHit]
  | cons a l ih => cases a <;> simp [firstHit, ih]

/-- The first check that stops a word. -/
theorem firstHit_append {l m : List (Option Hit)} (h : firstHit l = none) : firstHit (l ++ m) = firstHit m := by
  induction l with
  | nil => rfl
  | cons a l ih => cases a <;> simp_all [firstHit]

@[simp] theorem hitIf_false (h : Hit) : hitIf false h = none := rfl
@[simp] theorem hitIf_true (h : Hit) : hitIf true h = some h := rfl

/-! ## Registers -/

theorem pendingS_of_settled {s : State} {r : BitVec 5} (h : settledS s r) : pendingS (mySite s).now (myCtx s) r = false := by
  unfold settledS at h
  unfold pendingS
  rcases h with rfl | ⟨h1, h2⟩
  · rfl
  · simp [h1]; intro _; omega

theorem settledS_of_readable {s : State} {r : BitVec 5} (h : readableS s r) : settledS s r := by
  rcases h with h | h
  · exact .inl h
  · exact .inr h.2

theorem readS_none {s : State} {r : BitVec 5} (h : readableS s r) : readS (mySite s).now (myCtx s) r = none := by
  unfold readS
  rw [pendingS_of_settled (settledS_of_readable h)]
  rcases h with rfl | h
  · rfl
  · rw [h.1, if_neg (by decide)]; simp

theorem writesAhead_settled {now lat ready : Nat} {x : Ctx} (h : ready ≤ now) : writesAhead now lat ready x = false := by
  simp [writesAhead, Nat.not_lt.mpr h]

theorem writeS_none {s : State} {r : BitVec 5} {lat : Nat} (h : settledS s r) : writeS (mySite s).now lat (myCtx s) r = none := by
  unfold writeS
  rcases h with rfl | ⟨h1, h2⟩
  · rfl
  · simp [h1, writesAhead_settled h2]

theorem pendingA_of_settled {s : State} {r : BitVec 4} (h : settledA s r) : pendingA (mySite s).now (myCtx s) r = false := by
  unfold pendingA; rw [h.1]; have := h.2; simp; omega

theorem readA_none {s : State} {r : BitVec 4} (h : readableA s r) : readA (mySite s).now (myCtx s) r = none := by
  unfold readA; rw [pendingA_of_settled h.2, if_neg (by decide)]; rw [h.1]; rfl

theorem writeA_none {s : State} {r : BitVec 4} {lat : Nat} (h : settledA s r) : writeA (mySite s).now lat (myCtx s) r = none := by
  unfold writeA; simp [h.1, writesAhead_settled h.2]

/-- An invalid register traps its reader (02 R51). -/
theorem readS_invalid {s : State} {r : BitVec 5} (h0 : r ≠ 0) (h : settledS s r) (hv : (myCtx s).sValid.getLsbD r.toNat = false) :
    readS (mySite s).now (myCtx s) r = some (.trap 2 r.toNat) := by
  unfold readS; rw [pendingS_of_settled h, if_neg (by decide), hv]; simpa [hitIf] using h0

/-! ## Control core words -/

theorem modMyCtx_modMyCtx (f g : Ctx → Ctx) (s : State) : modMyCtx g (modMyCtx f s) = modMyCtx (fun x => g (f x)) s := by
  have : ∀ c : Site, modCtx s.cur.ctx g (modCtx s.cur.ctx f c) = modCtx s.cur.ctx (fun x => g (f x)) c := by
    intro c; cases s.cur.ctx <;> rfl
  simp only [modMyCtx, modMySite_cur, modMySite_modMySite, this]

theorem ccWord_next {hits : List (Option Hit)} {occ : Nat} {effect : State → State} {s : State} (h : firstHit hits = none) :
    ccWord hits occ effect s = modMyCtx (fun x => ccIssue (mySite s).now occ (advancePc x)) (effect s) := by
  unfold ccWord; rw [h]

theorem ccWord_stop {hits : List (Option Hit)} {occ : Nat} {effect : State → State} {s : State} {e : Hit} (h : firstHit hits = some e) :
    ccWord hits occ effect s = ccStop e s := by
  unfold ccWord; rw [h]

/-- A word of one beat that changes its own context. -/
theorem ccWord_wordDone {hits : List (Option Hit)} {f : Ctx → Ctx} {s : State} (h : firstHit hits = none) :
    ccWord hits 1 (modMyCtx f) s = wordDone f s := by
  rw [ccWord_next h, modMyCtx_modMyCtx]; rfl

/-- A word of one beat whose effect reaches beyond its context. -/
theorem ccWord_wordAfter {hits : List (Option Hit)} {effect : State → State} {s : State} (h : firstHit hits = none) :
    ccWord hits 1 effect s = wordAfter (mySite s).now (effect s) := ccWord_next h

theorem scalarWord_next {srcs : List (BitVec 5)} {d : BitVec 5} {lat : Nat} {v : Word} {s : State}
    (hs : ∀ a ∈ srcs, readableS s a) (hd : settledS s d) :
    scalarWord srcs d lat v s = wordDone (putS (mySite s).now lat d v) s := by
  refine ccWord_wordDone (firstHit_eq_none.2 fun h hh => ?_)
  simp only [List.mem_append, List.mem_map, List.mem_singleton] at hh
  rcases hh with ⟨a, ha, rfl⟩ | rfl
  · exact readS_none (hs a ha)
  · exact writeS_none hd

/-- A control transfer whose checks pass. -/
theorem transfer_next {hits : List (Option Hit)} {taken : Bool} {target : Word} {f : Ctx → Ctx} {s : State}
    (h : firstHit hits = none) (ht : taken = true → (myCtx s).code.inBounds target.toNat 4 = true) :
    transfer hits taken target f s = transferDone taken target f s := by
  have h2 : targetHit (myCtx s) taken target = none := by
    unfold targetHit; cases taken with
    | false => rfl
    | true => simp [ht rfl]
  have h3 : firstHit (hits ++ [targetHit (myCtx s) taken target]) = none := by rw [firstHit_append h, h2]; rfl
  simp only [transfer, h3, transferDone]

/-! ## Vector and sequencer words -/

theorem veWord_next {f : VFields} {srcs : List Nat} {extra : List (Option Hit)} {occ : Nat} {effect : State → State} {s : State}
    (hs : sourcesReady s f srcs) (he : firstHit extra = none) :
    veWord f srcs extra occ effect s = vectorDone f srcs occ effect s := by
  have : firstHit (srcs.map (srcHit (mySite s).now (mySite s).ve f) ++ extra) = none := by
    rw [firstHit_append, he]
    refine firstHit_eq_none.2 fun h hh => ?_
    obtain ⟨i, hi, rfl⟩ := List.mem_map.1 hh
    exact hs i hi
  simp only [veWord, this]
  rfl

theorem seqWord_next {hits : List (Option Hit)} {occ skip : Nat} {effect : State → State} {s : State} (h : firstHit hits = none) :
    seqWord hits occ skip effect s = seqDone occ skip effect s := by
  simp only [seqDone, seqWord, h, firstHit]

theorem seqWord_stop {hits : List (Option Hit)} {occ skip : Nat} {effect : State → State} {s : State} {e : Hit} (h : firstHit hits = some e) :
    seqWord hits occ skip effect s = seqStop e s := by
  simp only [seqWord, h]

end Sys2Proof.Machine
end

