-- ==== Sys2Proof/Tests/Slice0.lean ====
section
/-!
SUPPORT. Small tests: the spec's encodings decode to their instructions, ill-formed terms are refused, the spec's worked examples, and for
every statement with hypotheses a state that meets them.
-/

namespace Sys2Proof.Tests

set_option Elab.async false

open Sys2Proof.Machine
open Host (Outcome)

/-! ## Words of the spec's encodings -/

/-- Words of the ALU group (03 R70, R73), each field with its bits placed as the spec's table of the form places them. -/
theorem test_decode_alu_1 : ∀ p ∈ ([
    (0x02AE4800, .add 0x15 0xE 9), (0x02AE4801, .sub 0x15 0xE 9), (0x02AE4802, .andR 0x15 0xE 9), (0x02AE4803, .orR 0x15 0xE 9),
    (0x02AE4804, .xorR 0x15 0xE 9), (0x02AE4805, .andn 0x15 0xE 9), (0x02AE4806, .shl 0x15 0xE 9), (0x02AE4807, .shr 0x15 0xE 9),
    (0x02AE4808, .sra 0x15 0xE 9), (0x02AE4809, .slt 0x15 0xE 9), (0x02AE480A, .sltn 0x15 0xE 9), (0x02AE480B, .seq 0x15 0xE 9),
    (0x02AE480C, .minR 0x15 0xE 9), (0x02AE480D, .maxR 0x15 0xE 9), (0x02AE480E, .minn 0x15 0xE 9), (0x02AE480F, .maxn 0x15 0xE 9),
    (0x02AE4810, .mul 0x15 0xE 9), (0x02AE4811, .mulh 0x15 0xE 9), (0x02AE4812, .mulhn 0x15 0xE 9), (0x02AE4813, .div 0x15 0xE 9),
    (0x02AE4814, .divn 0x15 0xE 9), (0x02AE4815, .rem 0x15 0xE 9)] : List (Nat × Instr)),
    decodeTableWord 32 p.1 = some p.2 := by decide +kernel

/-- Words of the ALU group (03 R70, R73), each field with its bits placed as the spec's table of the form places them. -/
theorem test_decode_alu_2 : ∀ p ∈ ([
    (0x02AE4816, .remn 0x15 0xE 9), (0x02AE4ED7, .sel 0x15 0xE 9 0x1B), (0x02AE0018, .clz 0x15 0xE), (0x02AE0019, .ctz 0x15 0xE),
    (0x02AE001A, .popc 0x15 0xE), (0x02AE481B, .addw 0x15 0xE 9), (0x02AE481C, .subw 0x15 0xE 9)] : List (Nat × Instr)),
    decodeTableWord 32 p.1 = some p.2 := by decide +kernel

/-- Words of the RI form (03 R70, R72), each field with its bits placed as the spec's table of the form places them. -/
theorem test_decode_imm : ∀ p ∈ ([
    (0x06AEBEEF, .addi 0x15 0xE 0xBEEF), (0x0AAEBEEF, .andi 0x15 0xE 0xBEEF), (0x0EAEBEEF, .ori 0x15 0xE 0xBEEF),
    (0x12AEBEEF, .xori 0x15 0xE 0xBEEF), (0x16AE002F, .shli 0x15 0xE 0x2F), (0x1AAE002F, .shri 0x15 0xE 0x2F),
    (0x1EAE002F, .srai 0x15 0xE 0x2F), (0x22AEBEEF, .slti 0x15 0xE 0xBEEF), (0x26AEBEEF, .sltni 0x15 0xE 0xBEEF),
    (0x2AA0BEEF, .lui 0x15 0xBEEF), (0x2EAEBEEF, .orhi 0x15 0xE 0xBEEF), (0x32AEBEEF, .orti 0x15 0xE 0xBEEF),
    (0x36AEBEEF, .muli 0x15 0xE 0xBEEF)] : List (Nat × Instr)),
    decodeTableWord 32 p.1 = some p.2 := by decide +kernel

/-- Words of branches and jumps (03 R70 to R73), each field with its bits placed as the spec's table of the form places them. -/
theorem test_decode_transfer : ∀ p ∈ ([
    (0x41C9BEEF, .beq 0xE 9 0xBEEF), (0x45C9BEEF, .bne 0xE 9 0xBEEF), (0x49C9BEEF, .blt 0xE 9 0xBEEF), (0x4DC9BEEF, .bge 0xE 9 0xBEEF),
    (0x51C9BEEF, .bltn 0xE 9 0xBEEF), (0x55C9BEEF, .bgen 0xE 9 0xBEEF), (0x59C0BEEF, .loop 0xE 0xBEEF), (0x5C00BEEF, .jmp 0xBEEF),
    (0x6000BEEF, .call 0xBEEF), (0x64000000, .ret), (0x640E0001, .jr 0xE), (0x640E0002, .callr 0xE)] : List (Nat × Instr)),
    decodeTableWord 32 p.1 = some p.2 := by decide +kernel

/-- Words of loads and stores (03 R70, R74), each field with its bits placed as the spec's table of the form places them. -/
theorem test_decode_access : ∀ p ∈ ([
    (0x82B62A5C, .ldS8 0x15 0xB 0x2A5C), (0x82B66A5C, .ldZ8 0x15 0xB 0x2A5C), (0x82B6AA5C, .ldS16 0x15 0xB 0x2A5C),
    (0x82B6EA5C, .ldZ16 0x15 0xB 0x2A5C), (0x82B72A5C, .ldS32 0x15 0xB 0x2A5C), (0x82B76A5C, .ldZ32 0x15 0xB 0x2A5C),
    (0x82B7AA5C, .ldD 0x15 0xB 0x2A5C), (0x80B7EA5C, .ldC 5 0xB 0x2A5C), (0x86B62A5C, .stB 0x15 0xB 0x2A5C),
    (0x86B6AA5C, .stH 0x15 0xB 0x2A5C), (0x86B72A5C, .stW 0x15 0xB 0x2A5C), (0x86B7AA5C, .stD 0x15 0xB 0x2A5C),
    (0x84B7EA5C, .stC 5 0xB 0x2A5C)] : List (Nat × Instr)),
    decodeTableWord 32 p.1 = some p.2 := by decide +kernel

/-- Words of atomics (03 R73), each field with its bits placed as the spec's table of the form places them. -/
theorem test_decode_atomic : ∀ p ∈ ([
    (0x8AAE4820, .amoadd true 0x15 0xE 9), (0x8AAE4821, .amoand true 0x15 0xE 9), (0x8AAE4822, .amoor true 0x15 0xE 9),
    (0x8AAE4823, .amoxor true 0x15 0xE 9), (0x8AAE4824, .amoswap true 0x15 0xE 9), (0x8AAE4825, .amomin true 0x15 0xE 9),
    (0x8AAE4826, .amomax true 0x15 0xE 9), (0x8AAE4827, .amominn true 0x15 0xE 9), (0x8AAE4828, .amomaxn true 0x15 0xE 9),
    (0x8AAE4EF0, .cas true 0x15 0xE 9 0x1B)] : List (Nat × Instr)),
    decodeTableWord 32 p.1 = some p.2 := by decide +kernel

/-- Words of the capability group (03 R73), each field with its bits placed as the spec's table of the form places them. -/
theorem test_decode_capability : ∀ p ∈ ([
    (0x8CAE0000, .kmov 5 0xE), (0x8EAE3001, .kfld 0x15 0xE 6), (0x8CAE4802, .kstep 5 0xE 9), (0x8CAE4803, .kseek 5 0xE 9),
    (0x8CAE4804, .kclip 5 0xE 9), (0x8CAE4805, .kmask 5 0xE 9), (0x8EAE4806, .kcover 0x15 0xE 9), (0x8CAE0007, .kdrop 5 0xE)] : List (Nat × Instr)),
    decodeTableWord 32 p.1 = some p.2 := by decide +kernel

/-- Words of the SYS groups (03 R75), each field with its bits placed as the spec's table of the form places them. -/
theorem test_decode_system_1 : ∀ p ∈ ([
    (0xC0000000, .mark), (0xC0000404, .fence 4), (0xC0000815, .waitf 0x15 false), (0xC0000C55, .sigf 0x15 true),
    (0xC2A01068, .tstf 0x15 0x28 true), (0xC00E14A7, .idle 0xE 0xA7), (0xC40E0000, .fork 0xE), (0xC4000400, .rendez),
    (0xC6AE0801, .push 1 0x15 0xE), (0xC40E0C02, .pushc 2 0xE), (0xC6A01001, .pop 0x15 1), (0xC40E170B, .mtx true true 0xB 0xE),
    (0xC6A01B07, .mfx 0x15 true true 7), (0xCAAE003B, .ralloc 0x15 0xE 3 2 true true), (0xC80E0400, .rfree 0xE),
    (0xC80E08A7, .rwax 0xE 0xA7), (0xCAAE0C00, .launch 0x15 0xE), (0xCAA01003, .lwait 0x15 3), (0xC8001403, .cancel 3),
    (0xC8001801, .gate true), (0xCAA01C00, .evpop 0x15), (0xC8002001, .wpub 1)] : List (Nat × Instr)),
    decodeTableWord 32 p.1 = some p.2 := by decide +kernel

/-- Words of the SYS groups (03 R75), each field with its bits placed as the spec's table of the form places them. -/
theorem test_decode_system_2 : ∀ p ∈ ([
    (0xC8002401, .wsync 1), (0xCC0000A7, .trap 0xA7), (0xCC000400, .eret), (0xCC0008A7, .hcall 0xA7), (0xCEA00C2F, .mfs 0x15 0x2F),
    (0xCC0E1012, .mts 0x12 0xE), (0xCC001400, .halt), (0xCC001800, .snap)] : List (Nat × Instr)),
    decodeTableWord 32 p.1 = some p.2 := by decide +kernel

/-- Words of the shared sequencer words (03 R82, R83), each field with its bits placed as the spec's table of the form places them. -/
theorem test_decode_stack : ∀ p ∈ ([
    (0x0001, .lit 1), (0x80A7, .seqIdle 0xA7), (0x8100, .idlew), (0x8200, .cat), (0x8300, .dup), (0x8400, .drop), (0x8500, .swap),
    (0x8600, .sadd), (0x8700, .sneg), (0x883F, .sshl 0x3F), (0x8949, .seqWaitf 9 true), (0x8A7C, .seqSigf 0x3C true), (0x8BA7, .rep 0xA7),
    (0x8C00, .endr)] : List (Nat × Instr)),
    decodeTableWord 16 p.1 = some p.2 := by decide +kernel

/-- Words of matrix words (03 R84), each field with its bits placed as the spec's table of the form places them. -/
theorem test_decode_matrix : ∀ p ∈ ([
    (0xA005, .claim 5), (0xA105, .release 5), (0xA205, .fill 5), (0xA305, .sfill 5), (0xA405, .dfill 5), (0xA501, .mnest true),
    (0xA61D, .mgo 1 true true true), (0xA700, .promote), (0xA803, .aclr true true), (0xA907, .aout true true true), (0xAA00, .mend)] : List (Nat × Instr)),
    decodeTableWord 16 p.1 = some p.2 := by decide +kernel

/-- Words of Lift words (03 R84), each field with its bits placed as the spec's table of the form places them. -/
theorem test_decode_lift : ∀ p ∈ ([
    (0xC001, .lrec true), (0xC136, .copy true true 6), (0xC236, .copyz true true 6), (0xC300, .chain), (0xC400, .crcset),
    (0xC500, .crcchk), (0xC600, .lfence), (0xC700, .lend)] : List (Nat × Instr)),
    decodeTableWord 16 p.1 = some p.2 := by decide +kernel

/-- Words of collective words (03 R84), each field with its bits placed as the spec's table of the form places them. -/
theorem test_decode_collective : ∀ p ∈ ([
    (0xE000, .csend), (0xE100, .crecv), (0xE204, .creduce 4), (0xE300, .cgather), (0xE400, .cbar), (0xE500, .cwait)] : List (Nat × Instr)),
    decodeTableWord 16 p.1 = some p.2 := by decide +kernel

/-- Words of the vector engine (03 R77 to R81), each field with its bits placed as the spec's table of the form places them. -/
theorem test_decode_vector_1 : ∀ p ∈ ([
    (0x0000000000003FFF, .vidle ⟨0, 0, 0, 0, 0, 0, false, 0, false, false, false, 16383⟩),
    (0x0100000000000049, .vwaitf ⟨0, 0, 0, 0, 0, 0, false, 0, false, false, false, 73⟩),
    (0x0200000000000055, .vsigf ⟨0, 0, 0, 0, 0, 0, false, 0, false, false, false, 85⟩),
    (0x0300000000000005, .vend ⟨0, 0, 0, 0, 0, 0, false, 0, false, false, false, 5⟩),
    (0x0400000000003FFD, .vloop ⟨0, 0, 0, 0, 0, 0, false, 0, false, false, false, 16381⟩),
    (0x05020680FE002328, .vsetlc ⟨0, 8, 13, 0, 127, 0, false, 0, false, false, false, 9000⟩),
    (0x060000000000002F, .vturn ⟨0, 0, 0, 0, 0, 0, false, 0, false, false, false, 47⟩),
    (0x1037C08201F90007, .vadd ⟨1, 95, 1, 2, 0, 15, true, 4, true, false, false, 7⟩),
    (0x11A0EF8400408000, .vsub ⟨5, 3, 95, 4, 0, 2, false, 0, false, true, false, 0⟩),
    (0x124102DF00000001, .vmul ⟨2, 4, 5, 95, 0, 0, false, 0, false, false, false, 1⟩),
    (0x130281B512004002, .vfma ⟨0, 10, 3, 53, 9, 0, false, 0, false, false, true, 2⟩),
    (0x1422C60D1C0BC000, .vfms ⟨1, 11, 12, 13, 14, 0, false, 5, true, true, true, 0⟩),
    (0x1503C811BE340000, .vfnma ⟨0, 15, 16, 17, 95, 1, true, 2, false, false, false, 0⟩),
    (0x16650A9600000000, .vmax ⟨3, 20, 21, 22, 0, 0, false, 0, false, false, false, 0⟩),
    (0x1785CC1900000000, .vmin ⟨4, 23, 24, 25, 0, 0, false, 0, false, false, false, 0⟩),
    (0x18068D8000000000, .vabs ⟨0, 26, 27, 0, 0, 0, false, 0, false, false, false, 0⟩),
    (0x19870E8000000000, .vneg ⟨4, 28, 29, 0, 0, 0, false, 0, false, false, false, 0⟩),
    (0x1A278FA000000000, .vcopysgn ⟨1, 30, 31, 32, 0, 0, false, 0, false, false, false, 0⟩),
    (0x2008510000000000, .vrcp ⟨0, 33, 34, 0, 0, 0, false, 0, false, false, false, 0⟩),
    (0x2108D20000000009, .vrsq ⟨0, 35, 36, 0, 0, 0, false, 0, false, false, false, 9⟩),
    (0x2209530000000000, .vexp2 ⟨0, 37, 38, 0, 0, 0, false, 0, false, false, false, 0⟩),
    (0x2309D40000000000, .vlog2 ⟨0, 39, 40, 0, 0, 0, false, 0, false, false, false, 0⟩)] : List (Nat × Instr)),
    decodeTableWord 64 p.1 = some p.2 := by decide +kernel

/-- Words of the vector engine (03 R77 to R81), each field with its bits placed as the spec's table of the form places them. -/
theorem test_decode_vector_2 : ∀ p ∈ ([
    (0x300A552B00000000, .vand ⟨0, 41, 42, 43, 0, 0, false, 0, false, false, false, 0⟩),
    (0x310B16AE00000000, .vor ⟨0, 44, 45, 46, 0, 0, false, 0, false, false, false, 0⟩),
    (0x320BD83100000000, .vxor ⟨0, 47, 48, 49, 0, 0, false, 0, false, false, false, 0⟩),
    (0x330C998000000000, .vnot ⟨0, 50, 51, 0, 0, 0, false, 0, false, false, false, 0⟩),
    (0x344D1AB600000000, .vshl ⟨2, 52, 53, 54, 0, 0, false, 0, false, false, false, 0⟩),
    (0x356DDC3900000000, .vshr ⟨3, 55, 56, 57, 0, 0, false, 0, false, false, false, 0⟩),
    (0x368E9DBC00000000, .vsra ⟨4, 58, 59, 60, 0, 0, false, 0, false, false, false, 0⟩),
    (0x370F5F0000010000, .vmov ⟨0, 61, 62, 0, 0, 0, false, 0, true, false, false, 0⟩),
    (0x380FC00000003FFE, .vmovi ⟨0, 63, 0, 0, 0, 0, false, 0, false, false, false, 16382⟩),
    (0x3910000000002FE0, .vmovhi ⟨0, 64, 0, 0, 0, 0, false, 0, false, false, false, 12256⟩),
    (0x4003E0C208600000, .vcmp ⟨0, 15, 65, 66, 4, 3, false, 0, false, false, false, 0⟩),
    (0x4110E24500800000, .vsel ⟨0, 67, 68, 69, 0, 4, false, 0, false, false, false, 0⟩),
    (0x4200410300000000, .vpand ⟨0, 1, 2, 3, 0, 0, false, 0, false, false, false, 0⟩),
    (0x4301028600000000, .vpor ⟨0, 4, 5, 6, 0, 0, false, 0, false, false, false, 0⟩),
    (0x4401C40900000000, .vpxor ⟨0, 7, 8, 9, 0, 0, false, 0, false, false, false, 0⟩),
    (0x4502858000000000, .vpnot ⟨0, 10, 11, 0, 0, 0, false, 0, false, false, false, 0⟩),
    (0x4603068000000040, .vplen ⟨0, 12, 13, 0, 0, 0, false, 0, false, false, false, 64⟩),
    (0x5011A38000A00000, .vrsum ⟨0, 70, 71, 0, 0, 5, false, 0, false, false, false, 0⟩),
    (0x5132248000000000, .vrmax ⟨1, 72, 73, 0, 0, 0, false, 0, false, false, false, 0⟩),
    (0x5212A58000000000, .vrmin ⟨0, 74, 75, 0, 0, 0, false, 0, false, false, false, 0⟩),
    (0x581326CE00000000, .vperm ⟨0, 76, 77, 78, 0, 0, false, 0, false, false, false, 0⟩),
    (0x5913E83F00000000, .vbcast ⟨0, 79, 80, 63, 0, 0, false, 0, false, false, false, 0⟩)] : List (Nat × Instr)),
    decodeTableWord 64 p.1 = some p.2 := by decide +kernel

/-- Words of the vector engine (03 R77 to R81), each field with its bits placed as the spec's table of the form places them. -/
theorem test_decode_vector_3 : ∀ p ∈ ([
    (0x5A14690100000000, .vrot ⟨0, 81, 82, 1, 0, 0, false, 0, false, false, false, 0⟩),
    (0x5B34EA5500000000, .vzip ⟨1, 83, 84, 85, 0, 0, false, 0, false, false, false, 0⟩),
    (0x5CB5ABD800000000, .vunzip ⟨5, 86, 87, 88, 0, 0, false, 0, false, false, false, 0⟩),
    (0x60166D0002020000, .vcvt ⟨0, 89, 90, 0, 1, 0, false, 1, false, false, false, 0⟩),
    (0x6136EE0010020000, .vqbfp ⟨1, 91, 92, 0, 8, 0, false, 1, false, false, false, 0⟩),
    (0x62176F0004000000, .vdqbfp ⟨0, 93, 94, 0, 2, 0, false, 0, false, false, false, 0⟩),
    (0x6300410002000000, .vsrnd ⟨0, 1, 2, 0, 1, 0, false, 0, false, false, false, 0⟩),
    (0x6400C20500000000, .vrng ⟨0, 3, 4, 5, 0, 0, false, 0, false, false, false, 0⟩),
    (0x7001878001303FFF, .vld ⟨0, 6, 15, 0, 0, 9, true, 0, false, false, false, 16383⟩),
    (0x7101C70D00000064, .vlds ⟨0, 7, 14, 13, 0, 0, false, 0, false, false, false, 100⟩),
    (0x7202065F00002000, .vldg ⟨0, 8, 12, 95, 0, 0, false, 0, false, false, false, 8192⟩),
    (0x73000580BC001FFF, .vst ⟨0, 0, 11, 0, 94, 0, false, 0, false, false, false, 8191⟩),
    (0x74000509BA000001, .vsts ⟨0, 0, 10, 9, 93, 0, false, 0, false, false, false, 1⟩),
    (0x7500045CB6C0C000, .vscat ⟨0, 0, 8, 92, 91, 6, false, 0, false, true, true, 0⟩),
    (0x761687DF00000000, .vldt ⟨0, 90, 15, 95, 0, 0, false, 0, false, false, false, 0⟩),
    (0x7700071FB2000000, .vstt ⟨0, 0, 14, 31, 89, 0, false, 0, false, false, false, 0⟩),
    (0x7803C70000003FFC, .vxaddi ⟨0, 15, 14, 0, 0, 0, false, 0, false, false, false, 16380⟩),
    (0x7903460B00000000, .vxadd ⟨0, 13, 12, 11, 0, 0, false, 0, false, false, false, 0⟩),
    (0x7A02800000003FFF, .vxset ⟨0, 10, 0, 0, 0, 0, false, 0, false, false, false, 16383⟩),
    (0x8000410300000000, .vseedgen ⟨0, 1, 2, 3, 0, 0, false, 0, false, false, false, 0⟩),
    (0x810102860E000000, .vseedsrch ⟨0, 4, 5, 6, 7, 0, false, 0, false, false, false, 0⟩)] : List (Nat × Instr)),
    decodeTableWord 64 p.1 = some p.2 := by decide +kernel

/-! ## Small states -/

/-- The module after reset with one core as given. -/
def oneCore (f : Site → Site) : State := { State.reset with sites := ⟨[(0, f Site.reset)]⟩ }

/-- The core's first context as given. -/
def oneCtx (f : Ctx → Ctx) : State := oneCore (modCtx false f)

/-- A capability of the 64 KiB of TM from `base`, with every permission. -/
def tmCap (base : Nat) : Cap := Cap.grant 2 0xFF base 65536

/-- A context in free mode with every register valid, at word 8 of its code in TM. -/
def aliveCtx (x : Ctx) : Ctx :=
  { x with
    s := Table.ofList [0, 7, 0, 0x8000000000000000, 0xFFFFFFFFFFFFFFFF, 1, 64], sValid := 0xFFFFFFFF
    a := Table.ofList [tmCap 0, tmCap 0x1000], aValid := 0xFFFF, pc := 32, code := tmCap 0, ctl := { x.ctl with running := true } }

/-- The same in timetabled mode. -/
def timedCtx (x : Ctx) : Ctx := { aliveCtx x with ctl := { (aliveCtx x).ctl with timetabled := true } }

def alive : State := oneCtx aliveCtx

def timed : State := oneCtx timedCtx

/-- A valid region of two row groups at 0x1000, of rink 0. -/
def twoGroups (c : Site) : Site :=
  let g : Group := ⟨true, 0, false, none, false, false⟩
  { c with tm := { c.tm with regions := [⟨0, 0x1000, 0x2000, 0, .refresh, false, false, false, none⟩], groups := ⟨[(1, g), (2, g)]⟩ } }

/-! ## The statements' hypotheses are met -/

theorem test_witness_EncodeThenDecode : (Instr.sshl 63).wf = true ∧ encode (.sshl 63) = some (16, 0x883F) := by decide +kernel

theorem test_witness_DecodeThenEncode : (16 = 16 ∨ 16 = 32 ∨ 16 = 64) ∧ 0x883F < 2 ^ 16 ∧ decodeTableWord 16 0x883F = some (.sshl 63) := by
  decide +kernel

/-- A word of free mode in a valid row group. -/
theorem test_witness_FetchReadsCode :
    let s := oneCore fun c => { twoGroups (modCtx false aliveCtx c) with ctx0 := { aliveCtx c.ctx0 with pc := 0x2FFC }, own := { c.own with ctx0 := ⟨true, 0⟩ } }
    let c := site 0 s
    ∃ g, (ctxOf c false).code.space = 2 ∧ (ctxOf c false).code.inBounds (ctxOf c false).pc.toNat 4 = true ∧
      regionAt c (headRink c (ctxHead false)) (ctxOf c false).pc.toNat = some g ∧ g.compressed = false ∧
      (groupOf c ((ctxOf c false).pc.toNat / 4096)).valid = true ∧ spoiled c.tm (ctxOf c false).pc.toNat 4 = none :=
  ⟨⟨0, 0x1000, 0x2000, 0, .refresh, false, false, false, none⟩, by decide +kernel⟩

/-- The step's reading of a multiply placed where the reset state fetches next. -/
theorem test_witness_StepRunsDecodedWord :
    let s := State.reset.withFetchWord 32 0x00A63810
    let t := (elasticEvent s).2
    let u := headCur 0 0
    let a : State := { t with cur := u }
    (s.agenda = [] ∧ noPower s = false ∧ autoEvent s = none ∧ (elasticEvent s).1 = none ∧ dueStream t = some (0, u) ∧ pendingTrap 0 u a = none ∧
      fetchHead 0 u a = .word 0x00A63810 (.ok (.mul 5 6 7)) ∧ bpStop u.site 0 (bpActions (site u.site a) 0) a = none) ∧
    ∃ v, exec (.mul 5 6 7) (presetClass 0 u (blockPushes u.site (.mul 5 6 7) a)) = .next v :=
  ⟨by decide +kernel, _, rfl⟩

theorem test_witness_StopsOnlyUnpowered :
    let s := { State.reset with power := { Power.reset with st := .off } }
    (s.agenda = [] ∧ (s.power.st = .retention ∨ s.power.st = .off)) ∧
      ¬(State.reset.agenda = [] ∧ (State.reset.power.st = .retention ∨ State.reset.power.st = .off)) := by decide +kernel

/-- Distinct registers, s0 and s31 among them. -/
theorem test_witness_AluWordResults :
    readableS alive 0 ∧ readableS alive 31 ∧ settledS alive 0 ∧ settledS alive 31 := by
  unfold readableS settledS; decide +kernel

/-- A divisor of 0, the signed overflow, and an ordinary pair. -/
theorem test_witness_DivideResults :
    (readableS alive 2 ∧ readableS alive 3 ∧ readableS alive 4 ∧ settledS alive 31 ∧ (myCtx alive).divFree ≤ (mySite alive).now) ∧
    getS (myCtx alive) 2 = 0 ∧ (getS (myCtx alive) 3).toInt = -2 ^ 63 ∧ (getS (myCtx alive) 4).toInt = -1 ∧ getS (myCtx alive) 1 = 7 := by
  unfold readableS settledS; decide +kernel

theorem test_witness_ImmediateWordResults : settledS alive 0 ∧ settledS alive 31 ∧ readableS alive 31 := by
  unfold readableS settledS; decide +kernel

/-- A taken branch to the lowest word, and one not taken. -/
theorem test_witness_BranchResults :
    freeMode alive ∧ outsideSlots alive ∧ readableS alive 1 ∧ readableS alive 2 ∧ getS (myCtx alive) 1 ≠ getS (myCtx alive) 2 ∧
      targetInside alive ((myCtx alive).pc + BitVec.ofInt 64 (4 * (-8))) := by
  unfold freeMode outsideSlots readableS targetInside; decide +kernel

/-- Counters of 0, 1 and 64, in both modes. -/
theorem test_witness_LoopResult :
    outsideSlots alive ∧ readableS alive 0 ∧ readableS alive 5 ∧ readableS alive 6 ∧ getS (myCtx alive) 5 - 1 = 0 ∧
      getS (myCtx alive) 6 - 1 ≠ 0 ∧ targetInside alive ((myCtx alive).pc + 4) ∧ outsideSlots timed ∧ readableS timed 6 := by
  unfold outsideSlots readableS targetInside; decide +kernel

/-- A return-address store of depth 15, 16 and 0. -/
theorem test_witness_JumpResults :
    let deep (n : BitVec 5) : State := oneCtx fun x => { aliveCtx x with trap := { x.trap with rscnt := n, rse := Table.fill 16 64 } }
    (outsideSlots (deep 15) ∧ freeMode (deep 15) ∧ targetInside (deep 15) 32 ∧ (myCtx (deep 15)).trap.rscnt.toNat < 16 ∧
      targetInside (deep 16) ((myCtx (deep 16)).trap.rse.get 0 15) ∧ readableA alive 1 ∧ jumpable (getA (myCtx alive) 1) ∧
      targetInside alive (BitVec.ofNat 64 (getA (myCtx alive) 1).cursor)) ∧
    outsideSlots (deep 16) ∧ (myCtx (deep 16)).trap.rscnt = 16 ∧ (myCtx (deep 0)).trap.rscnt = 0 := by
  unfold outsideSlots freeMode targetInside readableA settledA jumpable; decide +kernel

/-- The effects `id` and a register's write keep the program counter; a context in a delay slot. -/
theorem test_witness_DelaySlotRules :
    (∀ x : Ctx, (putS 0 1 1 5 x).pc = x.pc ∧ (putS 0 1 1 5 x).npc = x.npc ∧ (putS 0 1 1 5 x).slots = x.slots) ∧
      (myCtx (oneCtx fun x => { aliveCtx x with slots := 1 })).slots ≠ 0 :=
  ⟨fun _ => ⟨rfl, rfl, rfl⟩, by decide +kernel⟩

theorem test_witness_PreciseTrapEntersHandler :
    let s := modRecov 0 (fun r => { r with hvec := 0x101 }) (oneCore fun c => { modCtx false aliveCtx c with own := { c.own with ctx0 := ⟨true, 0⟩ } })
    freeMode s ∧ (myCtx s).trap.handler = false ∧ 1 ∉ [0x1A, 0x1B, 0x2D, 0x2E, 0x2F] ∧ bitOf (rink (myRink s) s).recov.hvec.toNat 0 = true := by
  unfold freeMode; decide +kernel

theorem test_witness_TrapReturnAndCall :
    let s := oneCtx fun x => { aliveCtx x with trap := { x.trap with handler := true, hcallWait := true } }
    freeMode s ∧ outsideSlots s ∧ (myCtx s).trap.handler = true ∧ (ctxOf (site 0 s) false).trap.hcallWait = true ∧
      (ctxOf (site 0 s) true).trap.hcallWait = false := by
  unfold freeMode outsideSlots; decide +kernel

/-- Rink 0's core: its first context alive, every engine its own, and two row groups at 0x1000. -/
def rinkCore (f : Ctx → Ctx) (c : Site) : Site :=
  { twoGroups (modCtx false f c) with own := ⟨⟨true, 0⟩, ⟨true, 0⟩, ⟨true, 0⟩, ⟨true, 0⟩, ⟨true, 0⟩, ⟨true, 0⟩, ⟨true, 0⟩, false⟩ }

def inTm : State := oneCore (rinkCore aliveCtx)

def timedTm : State := oneCore (rinkCore timedCtx)

/-- An offset that keeps the access inside the region of a1, at its first and last bytes, and full buffers but for one place. -/
theorem test_witness_LoadsEnterBuffer :
    freeMode inTm ∧ readableA inTm 1 ∧ (myCtx inTm).buf.loads.length < 8 ∧ settledS inTm 31 ∧ settledA inTm 15 ∧
    (∀ p ∈ [((0 : BitVec 14), 1), (0x1FFF, 1), (0x3FF, 8), (0x1FF, 16)],
      let c := getA (myCtx inTm) 1
      let va := memAddr c p.1 p.2
      (c.tag = true ∧ c.hasLD = true ∧ c.space ≠ 6 ∧ c.inBounds va p.2 = true ∧ va % p.2 = 0) ∧
        (resolve (myRink inTm) c.space va p.2 true false inTm).1 = .ok (.tm 0 va)) := by
  unfold freeMode readableA settledS settledA; decide +kernel

theorem test_witness_StoresEnterBuffer :
    freeMode inTm ∧ readableA inTm 1 ∧ (myCtx inTm).buf.stores.length < 16 ∧ readableS inTm 31 ∧ (getA (myCtx inTm) 1).hasSTC = true ∧
    (∀ p ∈ [((0 : BitVec 14), 1), (0x1FFF, 1), (0x3FF, 8), (0x1FF, 16)],
      let c := getA (myCtx inTm) 1
      let va := memAddr c p.1 p.2
      (c.tag = true ∧ c.hasST = true ∧ c.space ≠ 6 ∧ c.inBounds va p.2 = true ∧ va % p.2 = 0) ∧
        (resolve (myRink inTm) c.space va p.2 false true inTm).1 = .ok (.tm 0 va)) := by
  unfold freeMode readableA settledA readableS; decide +kernel

/-- A bank that is free two beats on, and one that an access in flight takes. -/
theorem test_witness_TimetabledTmAccesses :
    let c := getA (myCtx timedTm) 1
    let va := memAddr c 0 8
    let act := Act.ccLoad 0 false 0x1000 8 .unsigned false 5
    (myCtx timedTm).ctl.timetabled = true ∧ readableA timedTm 1 ∧ readableS timedTm 5 ∧ va = 0x1000 ∧ c.inBounds va 8 = true ∧ c.tag = true ∧
      c.space = 2 ∧ (resolve 0 2 va 8 true false timedTm).1 = .ok (.tm 0 0x1000) ∧
      conflict (mySite timedTm) (ctxHead timedTm.cur.ctx) ((mySite timedTm).now + 2) (actSpans act) = none ∧
      (conflict { mySite timedTm with pipe := [⟨2, 0, 0, none, 0, false, .tmStore 0x1008 [1] none⟩] } (ctxHead timedTm.cur.ctx) 2 (actSpans act)).isSome =
        true := by
  unfold readableA settledA readableS; decide +kernel

/-- A capability for each failing check, and one that fails none but alignment. -/
theorem test_witness_AccessChecksInOrder :
    readableA alive 0 ∧ readableS alive 1 ∧
    (⟨(tmCap 0).bits, false⟩ : Cap).tag = false ∧
    (let c := Cap.grant 0 0xFF 0 64; c.tag = true ∧ c.space ≠ 2 ∧ c.space ≠ 3) ∧
    (let c := Cap.grant 2 0x002 0 64; c.tag = true ∧ c.space = 2 ∧ c.hasLD = false) ∧
    (let c := Cap.grant 2 0xFF 0 64; c.hasLD = true ∧ c.space ≠ 6 ∧ c.inBounds (memAddr c 8 8) 8 = false ∧ c.inBounds (memAddr c 7 8) 8 = true) ∧
    (let c := Cap.grant 2 0xFF 1 64; c.inBounds (memAddr c 0 8) 8 = true ∧ memAddr c 0 8 % 8 ≠ 0) := by
  unfold readableA settledA readableS; decide +kernel

/-- A store and a load of eight bytes that wait: off-chip at the foot of a granule, and in TM at the end of the region. -/
def waiting (t : Target) : Access := ⟨0, 0x1FF8, t, 8, leBytes 8 5, false, .unsigned, false, 31, 0, 0, 0, 0, 4⟩

/-- A granule that no key seals, without errors, pinned leaves or tree nodes. -/
theorem plain_is_ordinary {s : State} {ma ia n : Nat} (h : memErrors 2 ma s = [] ∧ sealOf s ma = none ∧ metLeaves ma n s = [])
    (h' : ∀ i < n, treeLine s (ma + i) = none) : ordinaryGranule s none ma ia n :=
  ⟨rfl, h.1, by simp [h.2.1], h.2.2, h'⟩

/-- A frame of key slot 0 that nothing has been written to, and one that still holds the plaintext of the time before its grant. -/
theorem test_witness_BufferedAccessesPerformed :
    let off := waiting (.machine 0xF8 0xF8 none)
    let s := oneCtx fun x => { aliveCtx x with buf := { x.buf with stores := [off] } }
    let l := oneCtx fun x => { aliveCtx x with buf := { x.buf with loads := [off] } }
    let tm := waiting (.tm 0 0x1FF8)
    let ts := oneCore (rinkCore fun x => { aliveCtx x with buf := { x.buf with stores := [{ tm with space := 2 }] } })
    let tl := oneCore (rinkCore fun x => { aliveCtx x with buf := { x.buf with loads := [{ tm with space := 2 }] } })
    let keyed := waiting (.machine 0xF8 0xF8 (some 0))
    let k := { oneCtx fun x => { aliveCtx x with buf := { x.buf with loads := [keyed] } } with keys := ⟨[(0, { Key.reset with valid := true })]⟩ }
    let old := { k with seals := ⟨[(0, .plain)]⟩ }
    (ordinaryGranule s none 0xF8 0xF8 8 ∧ ordinaryGranule k (some 0) 0xF8 0xF8 8) ∧
      (offLoad 0 false old = some keyed ∧ sealPasses old (some 0) 0xF8 0xF8 = true ∧ memErrors 2 0xF8 old = [] ∧ granted old 0 0xF8 0xF8 = true) ∧
      offStore 0 false s = some off ∧ offLoad 0 false l = some off ∧
      bitOf 0xF8 47 = false ∧ olderStores (ctxOf (site 0 l) false).buf off = [] ∧
      spanFree (site 0 ts) 0x1FF8 8 true = true ∧ (mayStore (site 0 ts).now (ctxOf (site 0 ts) false).buf).isSome = true ∧
      (mayLoad (site 0 tl).now (ctxOf (site 0 tl) false).buf).isSome = true ∧ spoiled (site 0 tl).tm 0x1FF8 8 = none ∧
      ∀ g ∈ spanGroups (0x1FF8, 8, false), (groupOf (site 0 tl) g).valid = true := by
  refine ⟨⟨plain_is_ordinary (by decide +kernel) (by decide +kernel), by decide +kernel, by decide +kernel, .inr (by decide +kernel)⟩, by decide +kernel⟩

/-- Memory with a stage-1 table at 0x10000 that maps the first GiB of space 0 to the PF's own pages. -/
def mapped (s : State) : State :=
  { s with mem := ⟨[(0x10000, 1), (0x10002, 2), (0x20000, 0xF)]⟩, fns := ⟨[(0, { Fn.reset with s1root := 0x10001 })]⟩ }

/-- A word at the foot of a granule, with its request alone in the queue of its bank. -/
theorem test_witness_AtomicOperations :
    let cap := Cap.grant 0 0xFF 0xF8 8
    let s := mapped (oneCtx fun x => { aliveCtx x with a := Table.ofList [cap] })
    let t := oneCtx fun x => { timedCtx x with a := Table.ofList [cap] }
    let c := getA (myCtx s) 0
    let r : AtomReq := ⟨0, .min, false, 0, 0xF8, 0xF8, none, 0xFFFFFFFF, 0, 0, false, 31, true⟩
    let q : State := { s with atomics := ⟨[(3, ⟨2047, [r]⟩)]⟩ }
    ordinaryGranule q none r.ma r.ia 4 ∧ (readableA s 0 ∧ readableS s 1 ∧ readableS s 6 ∧ settledS s 31) ∧ (freeMode s ∧ (myCtx t).ctl.timetabled = true) ∧
      (c.tag = true ∧ c.space = 0 ∧ c.hasLD = true ∧ c.hasST = true ∧ c.inBounds c.cursor 8 = true ∧ c.cursor % 8 = 0) ∧
      (resolve (myRink s) c.space c.cursor 8 true true s).1 = .ok (.machine 0xF8 0xF8 none) ∧ drained (myCtx s).buf = true ∧
      s.atomics.cells = [] ∧ pickAtomic (q.atomics.get AtomBank.reset 3) = some r ∧ r.requester < 1024 ∧ atomWaits r q = false ∧
      atomWaits r { q with stored := [(0xFB, 8)] } = true := by
  unfold readableA settledA readableS settledS freeMode
  exact ⟨plain_is_ordinary (by decide +kernel) (by decide +kernel), by decide +kernel⟩

/-- Lengths at the edge of a granule exponent, the whole space, and selectors 0 and 7. -/
theorem test_witness_CapabilityWordResults :
    (readableA alive 0 ∧ readableA alive 1 ∧ settledA alive 15 ∧ settledS alive 31 ∧ readableS alive 6 ∧ (7 : BitVec 5).toNat < 8) ∧
    (let lo (g : Nat) : Nat := 0x1000 / 2 ^ g
     let hi (n g : Nat) : Nat := (0x1000 + n + 2 ^ g - 1) / 2 ^ g
     hi 32767 0 - lo 0 = 32767 ∧ 32767 < hi 32768 0 - lo 0 ∧ hi 32768 1 - lo 1 ≤ 32767) ∧
    ∀ g ≤ 49, 32767 < (2 ^ 64 - 1 + 2 ^ g - 1) / 2 ^ g - 0 / 2 ^ g := by
  unfold readableA settledA settledS readableS; decide +kernel

/-- Flags 15, 16, 31, 32 and 63: full, with a token, set, and empty; a FIFO with no room. -/
theorem test_witness_OrderingAndFlagWords :
    let s := oneCore fun c => { rinkCore aliveCtx c with flags := { c.flags with full := 0x8000, fullBefore := 0x8000, tokens := ⟨[(0, 1), (15, 8)]⟩
                                                                                 tokensBefore := ⟨[(0, 1), (15, 8)]⟩, events := 1, eventsBefore := 1 } }
    let b := oneCore (rinkCore fun x => { aliveCtx x with buf := { x.buf with stores := [waiting (.tm 0 0x1FF8)] } })
    let read (n : Nat) (fns : List Nat) : State := oneCtx fun x => { aliveCtx x with buf := { x.buf with hostReads := n, hostDirty := fns } }
    let popping := oneCore fun k => { rinkCore aliveCtx k with flags := { k.flags with blocked := [63, 16] } }
    let c := mySite s
    (freeMode s ∧ drained (myCtx s).buf = true ∧ (myCtx s).buf.hostReads = 0 ∧ (myCtx s).buf.hostDirty = [] ∧ (myCtx timed).ctl.timetabled = true ∧
      freeMode b ∧ drained (myCtx b).buf = false ∧ (myCtx b).buf.stores ≠ []) ∧
    (freeMode (read 1 []) ∧ (myCtx (read 1 [])).buf.hostReads ≠ 0 ∧ freeMode (read 0 [0]) ∧ drained (myCtx (read 0 [0])).buf = true ∧
      (myCtx (read 0 [0])).buf.hostReads = 0 ∧ (myCtx (read 0 [0])).buf.hostDirty ≠ [] ∧ (mySite popping).flags.blocked.contains 16 = true ∧
      8 ≤ c.flags.tokens.get 0 15 + c.flags.sets.count 31) ∧
    (∀ n ∈ [0, 15, 16, 31, 32, 63], ownsFlag c (myRink s) n = true) ∧
    (c.flags.fullBefore.getLsbD 15 = true ∧ c.flags.fullBefore.getLsbD 0 = false) ∧
    (0 < c.flags.tokens.get 0 0 ∧ ¬0 < c.flags.tokens.get 0 1 ∧ pushRoom c 16 = true ∧ pushRoom c 31 = false) ∧
    (c.flags.eventsBefore.getLsbD 0 = true ∧ c.flags.eventsBefore.getLsbD 31 = false ∧ pushRoom c 63 = true) ∧
    (settledS s 31 ∧ (myCtx s).buf.stores = [] ∧ (myCtx s).buf.atomicOut = false ∧ c.flags.sets = []) := by
  unfold freeMode settledS; decide +kernel

/-- The other context halted, running and not there, running and there. -/
theorem test_witness_IdleForkRendez :
    let two (b : Option Nat) : State :=
      oneCore fun c => { rinkCore aliveCtx c with ctx1 := { c.ctx1 with rendezBeat := b, ctl := { c.ctx1.ctl with running := true } } }
    let c := mySite inTm
    (readableS inTm 6 ∧ freeMode inTm ∧ owns c (myRink inTm) (ctxHead true) = true ∧ (ctxOf c true).ctl.running = false ∧ readableA inTm 1 ∧
      allWritten c.now (myCtx inTm) = true ∧ jumpable (getA (myCtx inTm) 1)) ∧
    ∀ b ∈ [none, some 0], let s := two b
      (ctxOf (mySite s) true).ctl.running = true ∧ owns (mySite s) (myRink s) (ctxHead true) = true ∧ (ctxOf (mySite s) true).rendezBeat = b ∧
      (mySite s).now = 0 := by
  unfold readableS freeMode readableA settledA jumpable; decide +kernel

/-- The first half's bank A set up for a nest of one k-step over one row and one column. -/
def nested (c : Site) : Site := modHalf false (fun h => { h with regsA := ⟨[(0, 0x100010100), (8, 1)]⟩ }) c

/-- Capabilities for each check of pushc, a full set of staging entries, FIFOs with and without an element; an image of one word that ends it; loop-nest
registers 0, 7 and 31. -/
theorem test_witness_QueueWords :
    let c := tmCap 0x1000
    let staged (n : Nat) : State := oneCtx fun x => { aliveCtx x with staged := ⟨[(0, List.replicate n ⟨c, []⟩)]⟩ }
    let fifo := oneCore fun k => { rinkCore aliveCtx k with q := { k.q with collFifo := [1], liftFifo := [2] } }
    let s := oneCore fun k => let k := rinkCore aliveCtx k; { k with tm := { k.tm with bytes := ⟨[(0x1001, 0xC7)]⟩ } }
    let ws : List (BitVec 16) := [0xC700]
    (readableA alive 1 ∧ c.tag = true ∧ c.hasEN = true ∧ c.space ≠ 6 ∧ (Cap.grant 6 0xFF 0 64).space = 6 ∧ (Cap.grant 0 0 0 64).hasEN = false ∧
      ((myCtx (staged 3)).staged.get [] 0).length < 4 ∧ 4 ≤ ((myCtx (staged 4)).staged.get [] 0).length) ∧
    ((mySite fifo).q.collFifo = 1 :: [] ∧ (mySite fifo).q.liftFifo = 2 :: [] ∧ (mySite inTm).q.liftFifo = [] ∧ settledS fifo 31 ∧ freeMode inTm) ∧
    (readableA s 1 ∧ readableS s 5 ∧ getS (myCtx s) 5 = 1 ∧ leHalves (imageBytes (myCtx s) 0 c.cursor 2 s) = ws ∧ servesQueue s (myRink s) 0 = true ∧
      c.space = 2 ∧ c.hasLD = true ∧ c.inBounds c.cursor 2 = true ∧ c.cursor = 0x1000 ∧ tmCheck (mySite s) (myRink s) 0x1000 2 true (ownStored (myCtx s) 0 (mySite s)) 0 = none ∧
      imageIllegal .lift ws = none ∧ grammarOk true ws = true ∧ imageFlags true ws = [] ∧ copiesOf ws = [] ∧
      (∀ h ∈ recordHits true ws 0, h = none) ∧ translateBases s (myRink s) 0 ws [] (pushPins s (myRink s)) 0 [] = .ok []) ∧
    (owns (mySite inTm) (myRink inTm) (halfHead true) = true ∧ armed (mySite inTm) true true = false ∧
      firstHit (mgoHits (nested (mySite inTm)) (myRink inTm) false false false 0) = none ∧ owns (mySite alive) (myRink alive) (halfHead true) = false) := by
  unfold readableA settledA settledS freeMode readableS; decide +kernel

/-- Sizes of a group, of the whole of TM, of one byte more and of none; 255 and 256 regions; a region in use and one that is not. -/
theorem test_witness_RegionWords :
    let full := oneCore fun c => { rinkCore aliveCtx c with tm := { c.tm with regions := List.replicate 256 ⟨0, 0x1000, 0x1000, 0, .drop, false,
    false, false, none⟩ } }
    let used := oneCore fun c => { rinkCore aliveCtx c with pipe := [⟨2, 0, 2, none, 0, false, .veStore [(0x2FFC, 1)]⟩] }
    let c := mySite inTm
    let g : Region := ⟨0, 0x1000, 0x2000, 0, .refresh, false, false, false, none⟩
    (freeMode inTm ∧ readableS inTm 1 ∧ settledS inTm 31 ∧ 256 ≤ (mySite full).tm.regions.length ∧ c.tm.regions.length < 256) ∧
    (shareOf c 0 = (0, 3072) ∧ groupFree c.tm 0 = true ∧ groupFree c.tm 1 = false ∧ groupFree c.tm 3071 = true) ∧
    ((c.tm.regions.find? fun q => q.rink == 0 && q.base == 0x1000) = some g ∧ regionInUse 0 g inTm = false ∧ regionInUse 0 g used = true ∧
      (c.tm.regions.find? fun q => q.rink == 0 && q.base == 7) = none) ∧
    (waxRegion c 0 7 1 = false ∧ waxRegion c 0 0x1000 2 = true ∧ waxRegion c 0 0x1000 3 = false ∧ waxRegion (mySite timedTm) 0 0x1000 2 = true) ∧
    ∀ i ≤ 1, conflict (mySite timedTm) 10 (2 + 8 * i) [((1 + i) * 4096, 0, false)] = none := by
  unfold freeMode readableS settledS; decide +kernel

/-- Rink 0, valid, with its Rink Sequencer in the first context of logical core 0. -/
def rinkZero : Rink := { Rink.reset with valid := true, place := ⟨[(0, ⟨true, 0, 0, 0, 0, 0⟩)]⟩ }

/-- The same machine with the rink's entry. -/
def ofRink (q : Rink) (s : State) : State := { s with rinks := ⟨[(0, q)]⟩ }

/-- A launch of no unit. -/
def noLaunch : Launch := ⟨0, 0, [], false, 0, Table.empty, false, [], [], false, 0, false, none, none, false, [], []⟩

/-- A record of one unit on core 0 with the vector engine, one of no unit, one longer than its capability, one after two launches, one of an absent core, and one
that names a flag of the other rink; an event queue with room and without; a level that still runs and one that does not. -/
theorem test_witness_LaunchWords :
    let s := ofRink rinkZero (oneCore fun k => let k := rinkCore aliveCtx k; { k with tm := { k.tm with bytes := ⟨[(0x1000, 1), (0x1008, 128),
    (0x100C, 64), (0x1044, 4)]⟩ } })
    let n := ofRink rinkZero inTm
    let busy := ofRink { rinkZero with work := { Work.reset with issuedG := [(0, 4)] } } inTm
    let entry : List (Nat × Byte) := [(0x1000, 1), (0x1008, 136), (0x100C, 64), (0x1044, 4), (0x1047, 1), (0x1070, 128), (0x1080, 8)]
    let shared := ofRink rinkZero (oneCore fun k => let k := rinkCore aliveCtx k; { k with own := { k.own with ctx1 := ⟨true, 1⟩ }, tm := { k.tm with bytes := ⟨entry⟩ } })
    let c := getA (myCtx s) 1
    let unit (b : List Byte) (t : State) (st : Nat) : Bool := launchStatus 0 0 true b (fun _ => none) t == st && !reqsForeign 0 b t
    (freeMode s ∧ atSequencer s ∧ readableA s 1 ∧ settledS s 31 ∧ drained (myCtx s).buf = true ∧ s.power.st = .run ∧ c.tag = true ∧ c.space = 2 ∧
      c.hasLD = true ∧ c.inBounds c.cursor 128 = true) ∧
    (match recordRead (myRink s) c c.cursor 64 s with
      | .ok (hd, t) => recTotal hd == 128 && c.inBounds c.cursor 128 && !(Cap.grant 2 0xFF 0x1000 64).inBounds c.cursor 128 &&
        (match recordRead (myRink s) c (c.cursor + 64) 64 t with
          | .ok (b, u) => unit (hd ++ b) u 0 && unit (hd ++ b) (modWork 0 (fun w => { w with launches := [noLaunch, noLaunch] }) u) 8 &&
              unit (hd ++ b) (ofRink { rinkZero with place := Table.empty } u) 2 && unit (hd ++ b) (modWork 0 (fun w => { w with placed := false }) u) 9
          | .error _ => false)
      | .error _ => false) = true ∧
    (match recordRead (myRink n) c c.cursor 64 n with
      | .ok (hd, t) => recTotal hd == 0 && c.inBounds c.cursor 0 && (match recordRead (myRink n) c (c.cursor + 64) 0 t with
          | .ok (b, u) => unit (hd ++ b) u 1 && launchStatus 0 0 false [] (fun _ => none) u == 1
          | .error _ => false)
      | .error _ => false) = true ∧
    (match recordRead 0 c c.cursor 136 shared with
      | .ok (b, u) => launchStatus 0 0 true b (fun _ => none) u == 0 && reqsForeign 0 b u
      | .error _ => false) = true ∧
    256 - Work.reset.evq.length - 1 ≥ 2 ∧ 256 - (List.replicate 255 (0 : Word)).length - 1 < 2 ∧
    (levelState busy 0 1 (myCtx busy)).1 = true ∧ (levelState s 0 1 (myCtx s)).1 = false ∧ levelLaunches s 0 0 (myCtx s) = [] ∧
    levelLaunches s 0 2 (myCtx s) = [] := by
  unfold freeMode atSequencer readableA settledA settledS; decide +kernel

/-- At a listed gate with the rink's work retired and with a launch still open; a window that the rink owns and may read, and one that it may not. -/
theorem test_witness_GateEventAndWindowWords :
    let g : GateEntry := ⟨32, 0, 0, 7⟩
    let w : Work := { Work.reset with running := some ⟨0, ⟨1, 0, 0, 0, 0, false, 0⟩, 0, 64, [g]⟩, evq := [5] }
    let s := { ofRink { rinkZero with work := w } inTm with windows := ⟨[(63, { Window.reset with valid := true, wrd := 1, wwr := 1 })]⟩ }
    let b := ofRink { rinkZero with work := { w with launches := [noLaunch] } } inTm
    let writing := { s with sites := (oneCore (rinkCore fun x => { aliveCtx x with buf := { x.buf with atomicOut := true } })).sites }
    (freeMode s ∧ atSequencer s ∧ outsideSlots s ∧ gateEntry s 0 (myCtx s).pc = some g ∧ rinkRetired 0 s = true ∧ drained (myCtx s).buf = true ∧
      (rink 0 (modRink 0 (applyVote true) s)).voteEff.toNat ≤ s.power.cur ∧ jobCancelled s 0 = false ∧ s.power.st ≠ .entering ∧ (rink 0 s).susp = false ∧
      mustChoose s 0 = false) ∧
    livePending g (myCtx s) = false ∧ (let v := ofRink { rinkZero with work := w, voteOp := 7, votePend := true } inTm
      rinkRetired 0 v = true ∧ gateEntry v 0 (myCtx v).pc = some g ∧ v.power.cur < (rink 0 (modRink 0 (applyVote true) v)).voteEff.toNat) ∧
    (gateEntry b 0 (myCtx b).pc = some g ∧ rinkRetired 0 b = false ∧ gateEntry (ofRink rinkZero inTm) 0 32 = none) ∧
    (settledS s 31 ∧ (rink 0 s).work.evq = [5] ∧ isSequencer 0 0 true s = false) ∧
    ((windowOf 63 s).valid = true ∧ (windowOf 63 s).owner.toNat = 0 ∧ (windowOf 63 s).wwr.getLsbD 0 = true ∧ (windowOf 63 s).wrd.getLsbD 0 = true ∧
      (myCtx s).buf.stores = [] ∧ (myCtx s).buf.atomicOut = false ∧ writesWindow 0 63 s = false ∧ (myCtx writing).buf.atomicOut = true ∧
      (windowOf 0 s).valid = false) := by
  unfold freeMode atSequencer outsideSlots settledS; decide +kernel

/-- The vector engine in use and idle, owned and not. -/
theorem test_witness_SystemWords :
    let s := ofRink rinkZero inTm
    let runs := oneCore fun c => let c := rinkCore aliveCtx c; { c with ve := { c.ve with ctl := { c.ve.ctl with running := true } } }
    settledS s 31 ∧ readableS s 4 ∧ owns (mySite alive) (myRink alive) 2 = false ∧ owns (mySite s) (myRink s) 2 = true ∧
      (mySite s).ve.ctl.running = false ∧ (mySite runs).ve.ctl.running = true ∧ atSequencer s ∧ isSequencer 0 0 true s = false ∧ outsideSlots s ∧
      0 ∈ sitesOf 0 s ∧ 1 ∉ sitesOf 0 s ∧ (mySite s).ve.loopAt ≠ (mySite s).now + 1 := by
  unfold settledS readableS atSequencer outsideSlots; decide +kernel

/-- The first core of rink 0 with every vector, predicate and index register valid: lanes of zeros, and index register 1 at the region's foot. -/
def vecState (ctl : Ctl) : State := oneCore fun c =>
  { rinkCore aliveCtx c with
    ve := { c.ve with x := ⟨[(1, 0x1000)]⟩, vValid := BitVec.allOnes 96, pValid := BitVec.allOnes 16, xValid := BitVec.allOnes 16, ctl := ctl } }

def vecFree : State := vecState { Ctl.halted with running := true }

def vecTimed : State := vecState { Ctl.halted with running := true, timetabled := true }

/-- A vector word's fields, by type, destination and sources. -/
def fields (ty : BitVec 3) (vd va vb vc : BitVec 7) (aux : BitVec 14) : VFields := ⟨ty, vd, va, vb, vc, 0, false, 0, false, false, false, aux⟩

/-- The first and the last register, in every integer type. -/
theorem test_witness_VectorIntegerResults : ∀ ty ∈ [(2 : BitVec 3), 3, 4, 5],
    lanesReady vecFree (fields ty 95 0 95 0 0) ∧ sourcesReady vecFree (fields ty 95 0 95 0 0) [0, 1] := by
  unfold lanesReady sourcesReady; decide +kernel

/-- Both formats, and the overflow at the foot of its range in each rounding mode. -/
theorem test_witness_VectorFloatResults :
    (∀ ty ∈ [(0 : BitVec 3), 1], lanesReady vecFree (fields ty 0 95 1 2 0) ∧ sourcesReady vecFree (fields ty 0 95 1 2 0) [0, 1, 2]) ∧
      (0 < 1 ∧ (128 : Int) ≤ 128) ∧ ∀ rm ∈ [1, 2, 3, 4], 1 ≤ rm ∧ rm ≤ 4 := by
  unfold lanesReady sourcesReady; decide +kernel

theorem test_witness_VectorPredicateResults :
    let v := myVe vecFree
    (∀ ty ∈ [(0 : BitVec 3), 2, 5], sourcesReady vecFree (fields ty 15 0 95 3 0) [0, 1]) ∧ governHit 0 v (fields 2 15 0 95 3 0) = none ∧
      writeP 0 v 15 = none ∧ readP 0 v 0 = none ∧ readP 0 v 15 = none ∧ readX 0 v 15 = none ∧ lanesReady vecFree (fields 0 95 0 1 0 0) := by
  unfold sourcesReady lanesReady; decide +kernel

/-- Widths 2 and 8, in both formats, with the last group of registers that fits; in a block of zeros every mantissa is 0. -/
theorem test_witness_VectorCrossLaneResults :
    let v := myVe vecFree
    (lanesReady vecFree (fields 0 0 1 63 2 0) ∧ sourcesReady vecFree (fields 0 0 1 63 2 0) [0, 1, 2]) ∧
    (∀ w ∈ [(2 : BitVec 7), 8], 2 ≤ w.toNat ∧ w.toNat ≤ 8 ∧ sourcesReady vecFree (fields 0 92 0 0 w 0) [0]) ∧
    (groupOk v.loop 0 4 = true ∧ groupOk v.loop 92 4 = true ∧ groupOk v.loop 94 2 = true ∧ groupOk v.loop 0 2 = true ∧ readV 0 v 1 = none) ∧
    (∀ r < 4, readV 0 v r = none ∧ (getV v r).length = 64 ∧ writeV 0 v (92 + r) = none ∧
      ∀ k < 4, k ≠ r → physV v.loop (92 + k) ≠ physV v.loop (92 + r)) ∧
    -(2 ^ 7 : Int) ≤ 0 ∧ ∀ b < 8, (nth 0 (getV v 0) ((8 * 255 + b) / 32)).getLsbD ((8 * 255 + b) % 32) = (intMod 8 0).testBit b := by
  unfold lanesReady sourcesReady; decide +kernel

/-- Lanes from the foot of the region on and up to its end, in both modes; tile register 15, full and empty. -/
theorem test_witness_VectorMemoryWords :
    let full := { vecFree with sites := ⟨[(0, { mySite vecFree with flags := { Flags.reset with full := 0x8000 } })]⟩ }
    (∀ s ∈ [vecFree, vecTimed], ∀ aux ∈ [(0 : BitVec 14), 0x7C0],
      let c := mySite s
      let f := fields 0 95 1 2 3 aux
      governHit c.now (myVe s) f = none ∧ readX c.now (myVe s) 1 = none ∧ sourcesReady s f [1, 2] ∧ writeV c.now (myVe s) 95 = none ∧
        let ls := activeAddrs f (myVe s) 0
        let pends (ld : Bool) : List Pend := (accessPends c (myVe s).ctl.timetabled ld 0 (if ld then physV (myVe s).loop 95 else 0)
          (if ld then [] else srcVal (myVe s) f 2) ls).1
        (∀ ld ∈ [true, false], ∀ h ∈ laneHits c ld 0 (pends ld) ls, h = none) ∧ ((myVe s).ctl.timetabled = true → accessClash c (pends true) = none) ∧
          ls.length = 64) ∧
    (let f := fields 0 95 15 31 3 0
     ownsFlag (mySite full) (veRink (mySite full)) 15 = true ∧ lanesReady full f ∧ sourcesReady full f [2] ∧ (mySite full).flags.full.getLsbD 15 = true ∧
       (mySite vecFree).flags.full.getLsbD 15 = false ∧ lanesReady vecFree f ∧ sourcesReady vecFree f [2]) ∧
    writeX 0 (myVe vecFree) 15 = none ∧ readX 0 (myVe vecFree) 0 = none := by
  unfold sourcesReady lanesReady; decide +kernel

/-- A first lane at each failing address: a byte off, at the end of tile memory, in no region, in a compressed one, and in a group that is not valid. -/
theorem test_witness_failing_lanes :
    let at' (b : BitVec 32) (g : Site → Site) : State :=
      let s := vecState { Ctl.halted with running := true }
      { s with sites := ⟨[(0, g { mySite s with ve := { (mySite s).ve with x := ⟨[(1, b)]⟩ } })]⟩ }
    let f := fields 0 95 1 2 3 0
    let packed (c : Site) : Site := { c with tm := { c.tm with regions := c.tm.regions.map fun g => { g with compressed := true } } }
    let lost (c : Site) : Site := { c with tm := { c.tm with groups := ⟨[]⟩ } }
    let region (s : State) : Option Region := regionAt (mySite s) (veRink (mySite s)) (getX (myVe s) 1).toNat
    (∀ s ∈ [at' 0x1001 id, at' 0xC00000 id, at' 0x8000 id, at' 0x1000 packed, at' 0x1000 lost],
      governHit (mySite s).now (myVe s) f = none ∧ readX (mySite s).now (myVe s) 1 = none ∧ readX (mySite s).now (myVe s) 2 = none ∧
        sourcesReady s f [1, 2] ∧ writeV (mySite s).now (myVe s) 95 = none ∧ (activeLanes (myVe s) f).getLsbD 0 = true ∧
        (activeAddrs f (myVe s) 0).filter (fun l => decide (l.1 < 0)) = []) ∧
    region (at' 0x8000 id) = none ∧ ((region (at' 0x1000 packed)).map (·.compressed)) = some true ∧
      ((region (at' 0x1000 lost)).map (·.compressed)) = some false ∧ (groupOf (mySite (at' 0x1000 lost)) 1).valid = false ∧
      ∀ due, comingGroup (mySite (at' 0x1000 lost)) due 1 = false := by
  refine ⟨by unfold sourcesReady; decide +kernel, by decide +kernel, by decide +kernel, by decide +kernel, by decide +kernel, fun _ => rfl⟩

/-- Flags of each kind that are ready and that are not, a turn of one less than the ring, and the last pass of a loop and one before it. -/
theorem test_witness_VectorControlWords :
    let s := { vecFree with sites := ⟨[(0, { mySite vecFree with flags :=
      { Flags.reset with full := 0x8000, fullBefore := 0x8000, tokens := ⟨[(15, 1)]⟩, tokensBefore := ⟨[(15, 1)]⟩, events := 1, eventsBefore := 1 } })]⟩ }
    let c := mySite s
    let v := c.ve
    (∀ n ∈ [15, 16, 31, 32, 63], ownsFlag c (veRink c) n = true ∧ pushRoom c n = true) ∧ flagReady c 15 = true ∧ flagReady c 16 = false ∧
      flagReady c 31 = true ∧ flagReady c 32 = true ∧ flagReady c 63 = false ∧ veStoring c = false ∧ v.slots = 0 ∧ 47 < v.loop.size.toNat ∧
      readX 0 v 15 = none ∧ (∀ i < 8, writeP 0 v (8 + i) = none) ∧ (8 : BitVec 7).toNat ≤ 8 ∧
      ¬(v.loop.pass + 1).toNat + 1 < v.loop.count.toNat + v.loop.depth.toNat ∧
      (let l := { v.loop with count := 2 }; (l.pass + 1).toNat + 1 < l.count.toNat + l.depth.toNat) ∧
      v.pReady.get 0 (8 + (8 - (v.loop.pturn + 1).toNat) % 8) ≤ c.now := by
  decide +kernel

/-- A matrix stream of the first half with this stack and these open bodies. -/
def streamed (st : List Word) (reps : List Rep) : State := oneCore fun c =>
  modHalf false (fun h => { h with seq := ⟨st, reps, 0⟩, ctl := { Ctl.halted with running := true } }) (rinkCore aliveCtx c)

/-- Stacks of 0, 2, 15 and 16 entries; 0, 3 and 4 open bodies; passes left and none; each kind of flag. -/
theorem test_witness_SequencerWords :
    let sixteen := (mySeq (streamed (List.replicate 16 1) [])).stack
    let two := mySeq (streamed [3, 0] [])
    let s := streamed [0] [⟨1, 0, false⟩]
    (16 ≤ sixteen.length ∧ 16 < sixteen.length + 1 ∧ (mySeq (streamed [] [])).stack.length < 1 ∧ 2 ≤ two.stack.length ∧ two.stack.length + 0 ≤ 16) ∧
    (two.reps.length < 4 ∧ (nth 0 two.stack 0).toNat < 2 ^ 32 ∧ 0 < (nth 0 two.stack 0).toNat ∧ (nth 0 (mySeq s).stack 0).toNat = 0 ∧
      matchEndr 0xAA00 0 [0x8C00] 0 = some 1 ∧ 4 ≤ (mySeq (streamed [] (List.replicate 4 ⟨1, 0, true⟩))).reps.length) ∧
    (∃ r rs, (mySeq s).reps = r :: rs ∧ r.left = 0) ∧ (∃ r rs, (mySeq (streamed [] [⟨1, 1, true⟩])).reps = r :: rs ∧ 0 < r.left) ∧
    (∀ m ∈ [0, 16, 63], ownsFlag (site (streamSite s) s) (streamRink s) m = true ∧ pushRoom (site (streamSite s) s) m = true) ∧ seqSigHit s 63 true = none ∧
      flagReady (site (streamSite s) s) 63 = false ∧ inMatrix s = true ∧
      (ctlOf (site (streamSite s) s) (myHead s)).timetabled = false ∧ rowsComing { site 0 s with pipe := [⟨2, 0, 3, none, 0, false, .aoutRow false false false 1 false false 0 none 0x1000 1⟩] } 3 = true := by
  refine ⟨by decide +kernel, by decide +kernel, ⟨_, _, rfl, rfl⟩, ⟨_, _, rfl, by decide⟩, by decide +kernel⟩

/-- Slots 0, 7 and 8 from each half, in each state. -/
theorem test_witness_SlotWordResults :
    let slots (h : Side) : State := { oneCore (fun c => modHalf h (fun v =>
      { v with slots := ⟨[(0, ⟨.claimed, .none, 0⟩), (1, ⟨.ready, .none, 1⟩), (2, ⟨.filling, .none, 0⟩)]⟩, seq := ⟨[0x1000], [], 0⟩ }) (rinkCore aliveCtx c))
      with cur := { Cur.reset with half := h } }
    ∀ h ∈ [false, true], let s := slots h
      let off : Nat := if h then 8 else 0
      inMatrix s = true ∧ (∀ n ∈ [0, 1, 2, 7], decide (8 ≤ off + n) = s.cur.half) ∧ (mySeq s).stack ≠ [] ∧
        (slotOf (mySite s) (BitVec.ofNat 4 off)).st = .claimed ∧ (slotOf (mySite s) (BitVec.ofNat 4 (off + 1))).st = .ready ∧
        (slotOf (mySite s) (BitVec.ofNat 4 (off + 2))).st = .filling ∧ (slotOf (mySite s) (BitVec.ofNat 4 (off + 7))).st = .free ∧
        slotInUse (mySite s) (s.cur.half, 1) = false ∧ ((myHalf s).fills.filter fun f => f.started.isNone).length < 4 := by
  decide +kernel

/-- Loop-nest register 13, GO and one that does not exist; a nest of one k-step; the last accumulator row, to TM and to tile register 15; the stream's end. -/
theorem test_witness_MatrixWordResults :
    let s (st : List Word) : State := { streamed st [] with sites := ⟨[(0, nested (mySite (streamed st [])))]⟩ }
    let t := oneCore fun c => modHalf false (fun h => { h with ctl := { Ctl.halted with running := true, timetabled := true } }) (rinkCore timedCtx c)
    let c := mySite (s [])
    (inMatrix (s []) = true ∧ nestReg 13 = true ∧ nestReg 7 = true ∧ nestReg 6 = false ∧ armed c false false = false ∧ halfTimed c false = false ∧
      firstHit (mgoHits c (headRink c (halfHead false)) false false false 2) = none) ∧
    (¬(false = true ∧ heldWhole c = true) ∧ (∀ e ∈ wholeHits c 0 false true 2, e = none) ∧ (∀ hh ∈ halvesOf false true, accBusy c hh true = false)) ∧
    (let reg := 1 + 63 * 256
     reg < 2 ^ 18 ∧ field reg 15 14 = 0 ∧ bitOf reg 7 = false ∧ reg % 128 = 1 ∧ field reg 13 8 = 63 ∧ halfTimed (mySite t) false = true ∧
      tmCheck (mySite t) 0 0x1E00 512 false (fun _ => false) 0 = none ∧ conflict (mySite t) (halfHead false) 2 [(0x1E00, 512, true)] = none ∧
      ownsFlag (mySite t) 0 15 = true ∧ tileEmpty (mySite t) 15 = true) ∧
    (mySeq (s [])).stack = [] ∧ (mySeq (s [])).reps = [] ∧ (mySeq (s [1])).stack ≠ [] ∧ (mySeq (streamed [] [⟨1, 0, false⟩])).reps ≠ [] := by
  decide +kernel

/-- A command of queue `q` with one base in host memory, its records naming one byte at 0x1000, and `st` on its stack. -/
def liftRun (q : Nat) (st : List Word) : Run :=
  { startRun 0 0 ⟨0, false⟩ ⟨[0xC700], [⟨Cap.grant 5 0xFF 0 4096, []⟩], 0, false, q, 0, 0, 0, 0⟩ with
    seq := ⟨st, [], 0⟩, rec0 := some ([0, 0x10, 0, 0, 4, 0, 0, 0, 1] ++ List.replicate 23 0), rec1 := some (List.replicate 32 0) }

def lifted (f : Site → Site) (v : Run) : State :=
  { oneCore (fun c => let c := f (rinkCore aliveCtx c); { c with q := { c.q with run0 := some v } }) with cur := { Cur.reset with lift := true } }

/-- A copy of one byte to plain memory that completes, one that meets a taken bank, one of no elements and one that codes; an element that is read and one
that is written; an unready tile register. -/
theorem test_witness_LiftWords :
    let packed (c : Site) : Site := { c with tm := { c.tm with regions := c.tm.regions.map fun g => { g with compressed := true } } }
    let taken (c : Site) : Site := { c with pipe := [⟨0, 0, 0, none, 0, false, .tmStore 0x1FF8 [1] none⟩] }
    let run (q : Nat) : Run := { liftRun q [0] with host := .granted }
    let none0 : Run := { run 0 with rec0 := some ([0, 0x10, 0, 0, 4] ++ List.replicate 27 0) }
    let copy (v : Run) (z : Bool) (s : State) : Copy := (copyOf z false v (mySite s)).getD ⟨v, z, false, parseRec0 [], parseRec1 [], none⟩
    let first : Progress := ⟨0, 0, 0, none, none, ⟨0, 0, 0, none⟩, [], [], none, 0⟩
    let ready (k : Copy) (t : State) : Prop := (∀ h ∈ copyWaits false false k.r0 k.run t, h = none) ∧ ∀ h ∈ nearHits k t, h = none
    let ends (m : Moved) : Bool := match m with
      | .done p _ => p.off == 1
      | _ => false
    let waits (m : Moved) : Bool := match m with
      | .wait p _ => p.got == [0]
      | _ => false
    let s := lifted id (run 0)
    let k := copy (run 0) false s
    (s.cur.lift = true ∧ s.cur.coll = false ∧ myRun s = some (run 0) ∧ (mySeq s).stack ≠ [] ∧ (mySeq s).reps = [] ∧
      (run 0).crc.r = BitVec.ofNat 32 0 ∧ (run 0).crc.r ≠ BitVec.ofNat 32 1 ∧ (mySeq (lifted id (liftRun 0 []))).stack = []) ∧
    (copyOf false false (run 0) (mySite s) = some k ∧ (run 0).copy = none ∧ ready k s ∧ k.count = 1 ∧ readsHost k = true ∧ (run 0).host = .granted ∧
      ends (moveBeat 0 k first 600 [] first s) = true ∧ waits (moveBeat 0 k first 600 [] first (lifted taken (run 0))) = true) ∧
    (let z := lifted id none0; ready (copy none0 false z) z ∧ (copy none0 false z).count = 0) ∧
    (let p := lifted packed (run 0); ready (copy (run 0) false p) p ∧ (copy (run 0) false p).toCode = true ∧
      ends (moveBeat 0 (copy (run 0) false p) first 600 [] first p) = true) ∧
    (let z := lifted id (run 1); ready (copy (run 1) true z) z ∧ ends (moveBeat 0 (copy (run 1) true z) first 600 [] first z) = true) ∧
    (k.sq = false ∧ k.tile = false ∧ k.fromCode = false ∧ k.toCode = false ∧ 0 < k.r0.esz ∧ (run 0).crc.on = false ∧ k.r0.idx = false ∧
      (match elementFar k (k.vector 0) first with
        | .ok far => baseGroups k.rk k.far far 1 s == [] && (match baseRead k.rk k.far far 1 s with
            | .ok (d, _) => d == [0]
            | .error _ => false)
        | .error _ => false) = true ∧
      (nearAddr k.r0 (k.vector 0)).toNat = 0x1000 ∧ (match askPorts 0 (byteGroups s.cur.site 0x1000 1) [] s with
        | .ok (_, t) => tmCheck (mySite t) k.rk 0x1000 1 false (fun _ => false) 0 == none && t.cur == s.cur
        | .error _ => false) = true) ∧
    (armLinj 0 1 Obs.reset).1 = none ∧ flagReady (mySite s) (0x1000 % 16) = false := by
  decide +kernel

/-- A stream of the first collective engine of die 0 that runs a command with base 0 in host memory. -/
def collected (st : List Word) : State :=
  { ofRink { rinkZero with peers := ⟨[(5, true)]⟩, rfab := some 1, gtabV := ⟨[(0, 2 ^ 63 + 1)]⟩ } inTm with
    devid := ⟨true, 5⟩, dies := ⟨[(0, { Die.reset with ce := ⟨[(0, ⟨⟨true, 0⟩, some (liftRun 2 st), 0⟩)]⟩ })]⟩, cur := { Cur.reset with coll := true } }

/-- Descriptors of one byte and of a barrier that pass, and one of no byte that fails; operations open and none. -/
theorem test_witness_CollectiveWordResults :
    let one : Word := 2 ^ 32 + 5 * 2 ^ 12
    let s := collected [one]
    let ok (word : Nat) (w : Word) (g : Option (Nat × Nat × Nat)) : Bool := descOk word 0 (parseDesc w) (liftRun 2 []).cmd.bases 0 g [] s
    s.cur.coll = true ∧ myRun s = some (liftRun 2 [one]) ∧ (mySeq s).stack ≠ [] ∧ ok 1 one none = true ∧ ok 0 one none = true ∧ ok 1 0 none = false ∧
      ok 4 0 (groupEntry 0 0 s) = true ∧ (liftRun 2 []).cmd.bases[0]? = some ⟨Cap.grant 5 0xFF 0 4096, []⟩ ∧
      (match baseRead 0 ⟨Cap.grant 5 0xFF 0 4096, []⟩ 0 1 s with
        | .ok (own, _) => own == [0]
        | .error _ => false) = true ∧ openOps (liftRun 2 []) s = false := by
  decide +kernel

theorem test_witness_RinkLifeEvents :
    let s := ofRink rinkZero inTm
    let n := ofRink { rinkZero with valid := false } inTm
    let d := ofRink { rinkZero with susp := true, suspd := true } inTm
    (rink 0 s).valid = true ∧ (rink 0 s).suspd = false ∧ (rink 0 s).work.running = none ∧ (rink 0 n).valid = false ∧ createOk 0 0 n = true ∧
      createOk 0 (272 * 2 ^ 16) n = false ∧ (rink 0 d).valid = true ∧ (rink 0 d).suspd = true ∧ 0 ∈ sitesOf 0 n ∧
      (∀ f ∈ [0, 15, 16, 31, 32, 63], ownsFlag (site 0 n) 0 f = true) ∧ owns (site 0 n) 0 (halfHead true) = true := by
  decide +kernel

/-- Each condition met and not: a suspended owner, a running one, a failed row, a rink's FID taken, a window of the rink's and one of none. -/
theorem test_witness_HypervisorTableEvents :
    let s := ofRink rinkZero inTm
    let d := ofRink { rinkZero with susp := true, suspd := true } { inTm with windows := ⟨[(63, { Window.reset with valid := true })]⟩ }
    let held := { s with dies := ⟨[(0, { Die.reset with cpatHeld := ⟨[(35, some (5, true))]⟩ })]⟩ }
    let two := { s with rinks := ⟨[(0, rinkZero), (1, { rinkZero with rfab := some 0xFFFF })]⟩ }
    (∀ h < 7, ownField (site 0 d).own h = some 0) ∧ (rink 0 d).suspd = true ∧ (rink 0 s).valid = true ∧ (rink 0 s).suspd = false ∧
      siteFailed 287 d = false ∧ (rink 0 State.reset).valid = false ∧ clusterBusy 0 35 held = false ∧ (die 0 held).cpatHeld.get none 35 = some (5, true) ∧
      (∃ e ∈ two.rinks.cells, e.1 ≠ 0 ∧ e.2.valid = true ∧ e.2.rfab = some 0xFFFF) ∧ (∀ e ∈ two.rinks.cells, e.1 ≠ 0 → e.2.valid = true → e.2.rfab ≠ some 0) ∧
      (windowOf 63 d).valid = true ∧ (windowOf 63 d).owner.toNat = 0 ∧ (windowOf 0 d).valid = false := by
  decide +kernel

/-- A launch of rink 0 with one unit, the vector engine of core 0. -/
def veUnit : UnitRun :=
  { entry := ⟨0, 0, 0, 4, 0, 0, 0, List.replicate 5 (0, 0), [], [], [], []⟩, site := 0, offset := 0, allocated := true, begun := true, finished := false,
    freezeAt := none, frozenAt := none, resumeAt := none, later := [], trapped := none, devs := [], fatal := false, lost := 0 }

def veLaunch : Launch := ⟨0, 0, [], false, 0, Table.empty, true, [], [veUnit], true, 9, true, none, none, false, [], []⟩

def launched (l : Launch) (f : Site → Site) : State := ofRink { rinkZero with work := { Work.reset with launches := [l] } } (oneCore fun c => f (rinkCore aliveCtx c))

/-- A timetabled context of a running launch that no unit has stopped. -/
theorem test_witness_TimetabledTrapIsRecorded :
    let s := ofRink { rinkZero with work := { Work.reset with launches := [veLaunch] } } (oneCore (rinkCore timedCtx))
    (myCtx s).ctl.timetabled = true ∧ (0x03 = 0x03 ∧ 0x4FFF / 4096 ≤ 4 ∨ 0x03 = 0x1C ∨ 0x03 = 0x29) ∧
      unitAt (myRink s) s.cur.site s = some (veLaunch, veUnit) ∧ veLaunch.froze = none ∧
      (∀ v ∈ veLaunch.units, v.freezeAt = none ∧ v.later = [] ∧ v.frozenAt = none ∧ v.devs = []) ∧
      ∀ q ∈ (rink 0 s).work.launches, q.froze = none := by
  decide +kernel

/-- A bank held, free and frozen; a trace record just due, one too late, and a trace unit with room and without. -/
theorem test_witness_ObservationEvents :
    let hold (b : Claim) : State := ofRink rinkZero (oneCore fun c => modObs (fun o => { o with claims := ⟨[(2, b)]⟩ }) (rinkCore aliveCtx c))
    let traced (now : Nat) (ctl : Word) : State := oneCore fun c => modObs (fun o =>
      { o with claims := ⟨[(2, ⟨true, false, false, 0⟩)]⟩, trctl := ctl, trQ := [(0, List.replicate 16 0)] }) { rinkCore aliveCtx c with now := now }
    let on : Word := 0x100001000
    ((site 0 (hold Claim.free)).obs.claims.get Claim.free 2).held = false ∧ (∃ h < 7, owns (site 0 (hold Claim.free)) 0 h = true) ∧
      ((site 0 (hold ⟨true, false, false, 5⟩)).obs.claims.get Claim.free 2).held = true ∧ ((site 0 (hold ⟨true, true, false,
      0⟩)).obs.claims.get Claim.free 2).hv = true ∧
      0 ∈ sitesOf 0 (hold Claim.free) ∧ 287 ∉ sitesOf 0 (hold Claim.free) ∧
      (ctlOf (site 0 (traced 63 on)) 0).running = true ∧ traces (site 0 (traced 63 on)) (headRink (site 0 (traced 63 on)) 0) = true ∧
      (site 0 (traced 63 on)).obs.trctl.getLsbD 32 = true ∧ (site 0 (traced 63 on)).now < 0 + 64 ∧ traceSlot (site 0 (traced 63 on)) ≠ none ∧
      0 + 64 ≤ (site 0 (traced 64 on)).now ∧ traceSlot (site 0 (traced 63 0)) = none ∧
      (let qs : List ClaimReq := [⟨2, 2, false, 5, 10⟩, ⟨2, 3, true, 0, 0⟩, ⟨2, 1, true, 0, 0⟩, ⟨2, 1, false, 7, 1⟩, ⟨2, 1, false, 6, 2⟩]
       let asked := modSite 0 (modObs fun o => { o with asked := qs }) (hold ⟨true, false, false, 5⟩)
       (site 0 asked).obs.asked.filter (·.claim == 2) = qs ∧ (∃ q ∈ qs, q.op = 3) ∧ (∃ q ∈ qs, q.op = 2 ∧ q.hv = false ∧ (q.hv = true ∨ q.rink = 5)) ∧
         (∃ q ∈ qs, q.op = 1 ∧ q.hv = true) ∧ (∀ p ∈ qs.drop 3, p.op = 1 → p.hv = false ∧ (p = ⟨2, 1, false, 7, 1⟩ ∨ 1 < p.num))) := by
  decide +kernel

/-- A group of each policy one tick past its class, in free mode,
in Hold and at the class limit; a group whose refresh is queued and one that must be placed. -/
theorem test_witness_LifetimeEvents :
    let q (p : Policy) : Region := ⟨0, 0x1000, 0x1000, 0, p, false, false, false, none⟩
    let aged (p : Policy) (g : Group) : Site := { rinkCore aliveCtx Site.reset with tm := { Tm.reset with regions := [q p], groups := ⟨[(1, g)]⟩ } }
    let old : Group := ⟨true, classLimit 0 + 1, false, none, false, false⟩
    let waits (n : Nat) : Group := ⟨true, 9, false, some n, false, false⟩
    (∀ p ∈ [Policy.refresh, .trap, .drop], groupRegion (aged p old) 1 = some (q p) ∧ expired (aged p old) (q p) 1 = true ∧
      expirySuspended State.reset (aged p old) 0 = false ∧
      expirySuspended { State.reset with power := { Power.reset with st := .hold } } (aged p old) 0 = true ∧
      expired (aged p { old with age := classLimit 0 }) (q p) 1 = false) ∧
    (let x := ctxOf (aged .trap old) false; x.ctl.running = true ∧ x.trap.handler = false ∧ x.ctl.timetabled = false) ∧
    (let c := aged .refresh (waits 31)
     (groupOf c 1).queued.isSome = true ∧ (groupOf c 1).valid = true ∧ refreshPlaced c 1 = false ∧ bankFree c 1 = true ∧ spoiled c.tm 4096 4096 = none ∧ mustRefresh c 1 = false ∧
     mustRefresh (aged .refresh (waits 32)) 1 = true) ∧
    (∀ j < 144, keeps j State.reset = true) ∧
    (let c := aged .drop { old with age := 8 }
     ∀ q ∈ c.tm.regions, ∀ m ∈ regionGroups q, expired { c with tm := tickTm c.tm.written { c.tm with ticks := 0 } } q m = false) ∧
    (let d : Die := { Die.reset with falling := true, below := 1000 }; d.falling = true ∧ 1000 ≤ d.below) ∧ ¬(Die.reset.falling = true ∧
    1000 ≤ Die.reset.below) := by
  decide +kernel

/-- A doubleword at the head of a group with either kind of error, read and refreshed; the last slot of a half; a granule with an error in its last unit. -/
theorem test_witness_StorageErrors :
    let g : Group := ⟨true, 9, false, some 1, false, false⟩
    let c (e : Nat) : Site := { rinkCore aliveCtx Site.reset with
      tm := { Tm.reset with regions := [⟨0, 0x1000, 0x1000, 0, .refresh, false, false, false, none⟩], groups := ⟨[(1, g)]⟩, errs := ⟨[(0x200, e)]⟩ } }
    let s : State := { State.reset with memErrs := ⟨[(7, 2)]⟩ }
    (regionAt (c 2) 0 0x1004).isSome = true ∧ regionAt (c 2) 0 0x1004 = regionAt (c 2) 0 0x1007 ∧ (groupOf (c 2) 1).valid = true ∧
      spoiled (c 2).tm 0x1004 4 = some 0x1000 ∧ spoiled (c 2).tm 0x1008 8 = none ∧ errorsIn 1 0x1004 4 (c 1).tm.errs = [0x200] ∧
      groupRegion (c 2) 1 = regionAt (c 2) 0 0x1004 ∧ bankFree (c 2) 1 = true ∧ memErrors 2 0xFF s ≠ [] ∧ memErrors 2 0x100 s = [] ∧ 7 < 8 := by
  decide +kernel

/-- Rows at the limits of the table, a vote, a lower target, a higher one whose voltage stands, a ramp, and the ballast on and off. -/
theorem test_witness_OperatingPointEvents :
    let p := Power.reset
    let runs : State := ofRink { rinkZero with work := { Work.reset with running := some ⟨0, ⟨1, 0, 0, 0, 0, false, 0⟩, 0, 64, []⟩ } } inTm
    (0 < 8 ∧ 2000 ≤ 2000 ∧ 550 ≤ 550 ∧ 2000 ≤ p.freq.get 0 1 ∧ 550 ≤ p.volt.get 0 1) ∧ (7 < 8 ∧ 4000 ≤ 4000 ∧ 850 ≤ 850 ∧ p.freq.get 0 6 ≤ 4000 ∧
    p.volt.get 0 6 ≤ 850) ∧
      (∀ e ∈ inTm.rinks.cells, rinkRuns e.2 = false) ∧ (∃ e ∈ runs.rinks.cells, rinkRuns e.2 = true) ∧ rinkRuns (rink 0 runs) = true ∧
      (State.reset.cycle % 16 = 0 ∧ { p with cur := 1 }.target < { p with cur := 1 }.cur ∧ p.vnow = p.volt.get 0 0 ∧ p.ramping = false) ∧
      ({ p with ramping := true }.ramping = true ∧ p.cur ≤ p.target ∧ p.vnow = p.volt.get 0 p.target) ∧
      (let up := { p with ramping := true, target := 1 }; up.cur ≤ up.target ∧ up.vnow < up.volt.get 0 1 ∧ (slewRails up).slew = 5) ∧
      (let down := { p with ramping := true, vnow := 600 }; down.volt.get 0 0 < down.vnow) ∧ someRinkRuns runs = true ∧ p.ballastEn = false := by
  decide +kernel

/-- Every state of the power unit that a clause names; samples at the trip and at a band's edge; a job at a gate with its checkpoint. -/
theorem test_witness_PowerStateEvents :
    let x : Checkpoint := ⟨Table.empty, 0, Table.empty, 0, 0, 1, 0, 0, Table.empty, 0, Cap.null, 0, 0, 0⟩
    let q := { rinkZero with recov := { Recovery.reset with checkpoint := some x }, work := { Work.reset with running := some ⟨0, ⟨1, 0, 0, 0, 0,
    false, 0⟩, 0, 64, []⟩ } }
    let s := { ofRink q (oneCore (rinkCore id)) with power := { Power.reset with st := .entering } }
    (∀ st ∈ [PowerState.run, .hold, .entering, .retention, .resuming, .off], { Power.reset with st := st }.st = st) ∧
    (∀ e ∈ (Table.fill 72 4096 : Table Nat).cells, 4096 ≤ e.2) ∧ ¬(∀ e ∈ Power.reset.idleBeats.cells, 4096 ≤ e.2) ∧
      (s.power.st = .entering ∧ s.rinks.cells.filter (·.2.valid) = [(0, q)] ∧ rink 0 s = q ∧ q.colls.cells = [] ∧ q.work.running ≠ none ∧
        q.recov.checkpoint = some x ∧ seqSite 0 s = some (0, false) ∧ stoppedAtGate 0 s = true ∧
        (saveJob 0 x.sLive.toNat x.aLive.toNat x.pos.toNat (loadCheckpoint (site 0 s).now x (ctxOf (site 0 s) false)) s).isSome = true) ∧
      (∀ e ∈ inTm.rinks.cells, e.2.work.running = none) ∧ (105 : Int) ≤ 105 ∧ (104 : Int) < 105 := by
  decide +kernel

/-- A job of slot 7 with its graph program at 0x40: a header that names one word of code and no gate. -/
def jobbed (f : Fn → Fn) : State :=
  { ofRink rinkZero inTm with
    mem := ⟨[(0x44, 4), (0x10000, 1), (0x10002, 2), (0x20000, 0xF)]⟩
    fns := ⟨[(0, f { Fn.reset with s1root := 0x10001, slots := ⟨[(7, { JobSlot.reset with queue := [⟨1, 0, 0x40, 0, 0, false, 0⟩] })]⟩ })]⟩ }

/-- GO on a disabled function, on one with room, refused for its order, and accepted; cancels of a waiting and a started job; the start itself; an operator just
too long. -/
theorem test_witness_JobEvents :
    let s := jobbed id
    let en := jobbed fun f => { f with en := true }
    let go := jobbed fun f => { f with en := true, goWait := [⟨7, false, true, 0, 0, 0, 3⟩] }
    let runs := ofRink { rinkZero with work := { Work.reset with running := some ⟨7, ⟨1, 0, 0, 0, 0, false, 0⟩, 0, 64, []⟩, opLen := 1000001 } } s
    (bitOf 0 3 = false ∧ (fnOf 0 s).en = false ∧ (fnOf 0 en).en = true ∧ (fnOf 0 en).goWait = [] ∧ ((fnOf 0 en).slots.get JobSlot.reset 7).queue.length < 4 ∧
      (let f := { fnOf 0 en with rostrict := true }; true = true ∧ f.rostrict = true) ∧ openJobs (fnOf 0 en) + 1 ≤ journalFree (fnOf 0 en) ∧
      journalFree { fnOf 0 en with jhead := 64 } < openJobs (fnOf 0 en) + 1) ∧
    (∃ g, (fnOf 0 go).goWait = [g] ∧ g.checked = true ∧ g.slot = 7) ∧ (openJobs (fnOf 0 go) + 2 ≤ journalFree (fnOf 0 go) ∧ (fnOf 0 go).busMaster = true) ∧
    (headStarted 0 7 s = false ∧ headStarted 0 7 runs = true ∧ mayGrant 0 runs = false ∧ mayGrant 0 s = true ∧ seqSite 0 s = some (0, false)) ∧
    (match choose s 0 with
      | some (n, w) => n == 7 && (match guestRead 0 0 0x40 64 (modWork 0 (fun _ => w) s) with
        | .ok (h, t) => (match parseGraph 0x40 h with
          | some g => g.ngate == 0 && (match guestRead 0 0 g.gtoff 0 t with
            | .ok _ => true
            | .error _ => false)
          | none => false)
        | .error _ => false)
      | none => false) = true ∧
    (∃ q ∈ [HostRequest.read 0 0 8], q.fn = 0) ∧ s.held = [] ∧ 1000000 < (rink 0 runs).work.opLen ∧ (rink 0 runs).work.opPosted = false := by
  refine ⟨by decide +kernel, ⟨_, rfl, rfl, rfl⟩, by decide +kernel, by decide +kernel, by decide +kernel, by decide +kernel⟩

/-- Function 1 with its stage-2 tables at 0x30000, a leaf of 64 KiB for intermediate page 0 in LPDDR, and a free frame of its own in HBM. -/
def staged2 (f : Fn → Fn) : State :=
  { ofRink { rinkZero with vf := 1 } inTm with
    mem := ⟨[(0x30000, 1), (0x30002, 4), (0x40000, 1), (0x40002, 5), (0x50000, 1), (0x50002, 6), (0x60000, 0xF), (0x60005, 1)]⟩
    fns := ⟨[(1, f { Fn.reset with s2root := 0x30000, frames := [(0x200000, 65536)] })]⟩ }

theorem test_witness_TranslationEvents :
    let s := staged2 fun f => { f with tinv := [(2, 0)], migctl := 0x100000001, epochHits := ⟨[(0, 1)]⟩ }
    let pinned := { s with mem := s.mem.write 0x60008 1 }
    let l : Leaf := ⟨0x10000000000, 65536, true, true, false, 0, 0x60000⟩
    let m : Move := ⟨1, 0, 65536, 0x60000, 0x10000000000, 0x200000⟩
    let moves := { s with moves := [m] }
    let w := { s with windows := ⟨[(63, { Window.reset with closing := true })]⟩ }
    ((fnOf 1 s).tinv ≠ [] ∧ tinvSettled 1 s = true ∧ (fnOf 0 s).tinv = [] ∧ (1 : Nat) ≠ 0) ∧
    (leafPin pinned.mem 0x60000 ≠ 0 ∧ leafPin s.mem 0x60000 = 0 ∧ leafMov s.mem 0x60000 = false ∧ (0x6000F : Nat) / 16 * 16 = 0x60000 ∧
    ordinaryGranule s none 0x60000 0x60000 8 ∧ ordinaryGranule s none 0x60000 0x60000 16) ∧
    (leafOf 1 0 s = some l ∧ l.size = 65536 ∧ inLPDDR l.out = true ∧ movable l s = true ∧ movable l pinned = false ∧ inHBM 0x200000 = true ∧
    0x200000 % l.size = 0) ∧
    (freeFrame 1 l.size false s = some 0x200000 ∧ freeFrame 1 l.size true s = none ∧ bitOf (fnOf 1 s).migctl.toNat 0 = true ∧
      bitOf (fnOf 1 s).migctl.toNat 1 = false ∧ (fnOf 1 s).promoted = [] ∧ (fnOf 1 s).epochHits.cells = [(0, 1)] ∧ bitOf (fnOf 0 s).migctl.toNat 0 = false) ∧
    (moveOf 1 0xFFFF moves = some m ∧ moveSettled m moves = true ∧ m.leaf + 16 ≤ m.dst ∧ m.dst + m.size ≤ m.src ∧ m.leaf + 16 ≤ m.src ∧
      inHBM m.src ≠ inHBM m.dst ∧ inHBM { m with src := 0x300000 }.src = inHBM m.dst ∧ moveOf 1 0x10000 moves = none) ∧
    (fnOf 1 (staged2 fun f => { f with homes := ⟨[(0, 1)]⟩ })).homes.get 0 (0 / 65536 + 0) = 1 ∧ ¬(∃ i < 1, (fnOf 1 s).homes.get 0 (0 + i) = 1) ∧
    (windowOf 63 w).closing = true ∧ windowPinned 63 w = false ∧ (windowOf 0 w).closing = false := by
  refine ⟨by decide +kernel, ⟨by decide +kernel, by decide +kernel, by decide +kernel, by decide +kernel,
    plain_is_ordinary (by decide +kernel) (by decide +kernel), plain_is_ordinary (by decide +kernel) (by decide +kernel)⟩, by decide +kernel⟩

/-- A unit to be placed, one that waits for its core, a launch that is ready, and units that may and may not complete, the last and one before it. -/
theorem test_witness_LaunchLifeEvents :
    let u : UnitRun := { veUnit with allocated := false, begun := false }
    let v : Launch := { veLaunch with units := [u], pulsed := false, pinned := false }
    let a := launched v id
    let b := launched { v with bytes := [0, 0, 0, 0, 0, 0, 1, 0] } id
    let r := launched { veLaunch with pulsed := false } id
    let d := launched veLaunch fun c => { c with ctx0 := { c.ctx0 with isUnit := false } }
    (launchAt a 0 0 = some v ∧ u.allocated = false ∧ coreHeld a 0 0 u.site = false ∧ (allocSite 0 v u.entry (site u.site a)).isSome = true ∧
      bitOf u.entry.eng 2 = true ∧ launchPages 0 v (allocUnits 0 v v.units a) = some [] ∧
      launchPages 0 { v with bytes := [0, 0, 0, 0, 0, 0, 1, 0] } (allocUnits 0 v v.units b) = none) ∧
    (launchAt r 0 0 = some { veLaunch with pulsed := false } ∧ veLaunch.pinned = true ∧ (∀ v ∈ [veUnit], v.entry.reqs = []) ∧ r.power.st = .run ∧
      patternsAgree veLaunch r = true) ∧
    (launchAt d 0 0 = some veLaunch ∧ mayComplete 0 veLaunch veUnit d = true ∧ veLaunch.units.find? (·.entry.core == 0) = some veUnit ∧
      mayComplete 0 veLaunch { veUnit with begun := false } d = false) ∧
    ∃ v ∈ [veUnit, { veUnit with site := 1 }], v.finished = false ∧ v.site ≠ veUnit.site := by
  decide +kernel

/-- Pulses on their way and none; a freeze that may go on by itself, one that must be told, and one that is fatal; a rewind at its limit; a remap. -/
theorem test_witness_RecoveryEvents :
    let l (u : UnitRun) (t : Nat) : Launch := { veLaunch with units := [u], frozenSince := some t, froze := some (t, 0, 0), time := 10 }
    let gone := launched { veLaunch with units := [{ veUnit with freezeAt := some 9, finished := true }] } id
    let back := launched { veLaunch with units := [{ veUnit with freezeAt := some 5, frozenAt := some 5, resumeAt := some 9 }] } fun c => { c with frozen0 := true }
    let fr := launched { veLaunch with units := [{ veUnit with freezeAt := some 9 }] } id
    let s := launched (l veUnit 9) id
    let tell := launched (l { veUnit with devs := [(255, 0)] } 9) id
    let x : Checkpoint := ⟨Table.empty, 0, Table.empty, 0, 0, 1, 0, 0, Table.empty, 0, Cap.null, 0, 0, 0⟩
    let c := ofRink { rinkZero with recov := { Recovery.reset with checkpoint := some x, count := 2 } } inTm
    ((launchWith 0 0 freezeDue fr).isSome = true ∧ launchWith 0 0 freezeDue s = none ∧ (launchWith 0 0 resumeDue back).isSome = true ∧ (launchWith 0 0 freezeDue gone).isSome = true ∧ frozenFor (site 0 fr) 0 = false ∧ frozenFor (site 0 back) 0 = true ∧
    launchWith 0 0 resumeDue s = none) ∧
    (frozenLaunch 0 inTm = none ∧ frozenLaunch 0 s = some (l veUnit 9) ∧ (l veUnit 9).units.any (·.fatal) = false ∧
    (l { veUnit with fatal := true } 9).units.any (·.fatal) = true) ∧
    ((rink 0 s).work.launches.find? (mayAutoResume 0 · s) = some (l veUnit 9) ∧ mustNotify 0 (l veUnit 9) s = false ∧
      (rink 0 tell).work.launches.find? (mustNotify 0 · tell) = some (l { veUnit with devs := [(255, 0)] } 9) ∧
      mayAutoResume 0 (l { veUnit with devs := [(255, 0)] } 9) tell = false ∧ seqSite 0 tell = some (0, false) ∧
      (ctxOf (site 0 tell) false).ctl.running = true) ∧
    ((rink 0 c).recov.checkpoint = some x ∧ (rink 0 c).recov.count.toNat + 1 ≤ (rink 0 c).recov.limit.toNat ∧ seqSite 0 c = some (0, false)) ∧
    ownersOf 0 c = [0] ∧ frozenFor (site 0 c) 0 = false ∧ (rink 0 c).work.running = none ∧ (site 0 c).obs.serru.getLsbD 63 = false ∧ State.reset.pcremap.going = none ∧ { PcRemap.reset with going := some (3, 7) }.going = some (3, 7) := by
  decide +kernel

/-- Host reads outstanding and none with a load at the front; a granule of plain memory to its end; an atomic's place; a report asked for; an image too short
to be one. An image that passes the checks of boot rests on the module's fused root hash, which is open. -/
theorem test_witness_HostAndRegisterEvents :
    let out := oneCtx fun x => { aliveCtx x with buf := { x.buf with hostReads := 1 } }
    let a := { waiting (.hostBus 0 0x1FF8) with space := 5 }
    let ld := oneCtx fun x => { aliveCtx x with buf := { x.buf with loads := [a] } }
    let ask := { State.reset with fns := ⟨[(64, { Fn.reset with attcmd := true })]⟩ }
    let fetch := oneCtx fun x => { aliveCtx x with code := Cap.grant 5 0xFF 0 4096, fetching := true }
    let addr : Word := BitVec.ofNat 64 (2 ^ 63 + 0xF8)
    let moves := staged2 id
    let moving := { moves with mem := moves.mem.write 0x6000A 0x80 }
    ordinaryGranule ld none 0xF8 0xF8 8 ∧ (ctxOf (site 0 out) false).buf.hostReads ≠ 0 ∧ (ctxOf (site 0 ld) false).buf.hostReads = 0 ∧ fetchNext 0 false true ld = none ∧
    hostLoad 0 false ld = some a ∧ fetchNext 0 false true fetch = some 32 ∧ 0 < fetchLength (ctxOf (site 0 fetch) false) 32 ∧
    (ctxOf (site 0 fetch) false).fetching = true ∧ (ctxOf (site 0 fetch) false).pc.toNat = 32 ∧
      olderStores (ctxOf (site 0 ld) false).buf a = [] ∧ inHBM 0xF8 = true ∧ 0xF8 % 256 + 8 ≤ 256 ∧
      (∀ q ∈ [HostRequest.write 0 addr (List.replicate 8 1) false, .read 0 addr 8, .atomic 0 (.fetchAdd true 1) addr, .atomic 0 .cas128 addr],
        q.waits ld.held ld = false) ∧ ld.held = [] ∧
      (HostRequest.read 1 (BitVec.ofNat 64 (2 ^ 63)) 8).waits moving.held moving = true ∧
      (HostRequest.write 1 0x008 [1] false).waits [.read 1 0 8] moves = true ∧
      barTarget 0 0xF8 true ld = some (0xF8, none) ∧ (fnOf 64 ask).attcmd = true ∧ (fnOf 0 ask).attcmd = false ∧
      configReach ld (.rink 0) (6 * 2 ^ 32) = false ∧ (List.replicate 64 (0 : Byte)).length = 64 ∧ stageStatus 0 [] ≠ 0 := by
  exact ⟨plain_is_ordinary (by decide +kernel) (by decide +kernel), by decide +kernel⟩

/-- A fill of one row of bytes that may start, one that runs and one that is done; a nest in its start beat and one retired; a command that may start, one that
waits, a token, and commands that may and may not retire. -/
theorem test_witness_EngineEvents :
    let f : Fill := ⟨7, 0x1000, .fill, 1, 0, 0, none, 0, [], Scaling.none, .none, 0, 0⟩
    let n : Nest := ⟨false, false, false, 1, 1, 0, false, 0, false, [0], false, 2, 0, 0, none, [], 0, 0, 0, none⟩
    let record (c : Site) : Site := { c with tm := { c.tm with bytes := ⟨[(0x1001, 0x20), (0x1004, 10), (0x1006, 1)]⟩ } }
    let s := oneCore fun c => record { modHalf false (fun h => { h with fills := [f], nests := [n] }) (nested (rinkCore aliveCtx c)) with now := 2 }
    let c := site 0 s
    let plan := planFill c (headRink c (halfHead false)) f s.fresh
    let m := (liftRun 0 []).cmd
    let q (k : Queues → Queues) : State := { ofRink rinkZero (oneCore fun c => modQ k (rinkCore aliveCtx c)) with
      dies := ⟨[(0, { Die.reset with ce := ⟨[(0, ⟨⟨true, 0⟩, none, 271⟩)]⟩ })]⟩ }
    let done : Run := { liftRun 0 [] with fin := .ended }
    (f.started = none ∧ f.issued < c.now ∧ firstHit plan.hits = none ∧
    fillClash c false plan (c.now + fillBeats plan.spec plan.j - 1) = none ∧
      nestIndex (halfOf c false) = some 0 ∧ n.issued + 2 ≤ c.now ∧ 0 < (nestCfg (halfOf c false) false).n) ∧
    (let z := { Scaling.none with mode := 2, treg := 15 }
     flagReady c z.treg = false ∧ halfTimed c false = false ∧
       flagReady { c with flags := { c.flags with full := 0x8000, fullBefore := 0x8000 } } z.treg = true) ∧
    ({ f with started := some 0, ends := 1 }.ends < c.now ∧ ¬{ f with started := some 0, ends := 2 }.ends < c.now ∧
    { n with done := some 2 }.done = some 2 ∧ max 2 n.outDue ≤ c.now ∧ c.now < max 2 { n with outDue := 3 }.outDue) ∧
    ((site 0 (q id)).q.skips.cells = [] ∧ nextCommand (site 0 (q fun k => { k with lq := [m] })) false = some m ∧
      commandVisible (q fun k => { k with lq := [m] }) 0 m = true ∧ commandVisible (q id) 0 { m with seen := 1 } = false ∧
      nextCommand (site 0 (q id)) false = none) ∧
    (let t := { liftRun 0 [] with token := some 31 }
     let both := { c with q := { c.q with run0 := some t, run1 := some t }, flags := { c.flags with tokens := ⟨[(15, 7)]⟩ } }
     tokensFit { c with q := { c.q with run0 := some t } } 31 = true ∧ tokensDue both 31 = [false, true] ∧
       tokensFit both 31 = false ∧ canRetire t s = false ∧ t.flushes = 0 ∧ { t with flushes := 1 }.flushes ≠ 0) ∧
    (canRetire done (q id) = true ∧ done.fin ≠ .dataError ∧ chains done.cmd = false ∧ done.status = none ∧
      canRetire { done with fin := .dataError, status := some (3, 1) } (q id) = true ∧ (site 0 (q id)).q.liftFifo.length < 16) ∧
    nextCore 0 0 0 (q fun k => { k with ce := [m] }) = some (0, 0, m) := by
  decide +kernel

/-- A contribution that is refused in each way, one that lands in window 0, and one that waits there, through a port too; operations that lack one, whose lengths differ, and that are complete. -/
theorem test_witness_CollectiveEvents :
    let o : CollOp := ⟨1, 0, 5, 1, none, [], 0, [], 0, false, 0, 0, 0, 1, none, false, false, none, 0, 0⟩
    let land : Word := 2 ^ 63 + 12
    let s (c : Coll) : State :=
      { staged2 (fun f => { f with s1root := 1 }) with
        rinks := ⟨[(0, { rinkZero with vf := 1, rland := land, collto := 1, colls := ⟨[(4095, c)]⟩ })]⟩, keys := ⟨[(64, { Key.reset with valid := true, tree := 0xFFFFFFFF })]⟩
        windows := ⟨[(0, { Window.reset with pages := 0x1000, valid := true, s2root := 0x30000, wrd := 1, wwr := 1 })]⟩
        mem := ⟨[(0x31000, 1), (0x31002, 4), (0x40000, 1), (0x40002, 5), (0x50070, 1), (0x50072, 6), (0x601F0, 0xF), (0x601F5, 1)]⟩ }
    let c (l : List Landing) (op : Option CollOp) : Coll := ⟨true, false, l, [], [], op, []⟩
    let x : Contribution := ⟨0, 5, 4095, 1, 0, 0, 0, [1]⟩
    let w : Stalled := ⟨none, some { x with src := 6 }, 4095 * 4096, 1⟩
    let moving (c : Coll) : State := { s c with mem := (s c).mem.write 0x601FA 0x80 }
    (match guestWrite 0 4 (4095 * 4096) [1] (s (c [] none)) with
      | .ok t => collAt 0 4095 t == c [] none
      | .error _ => false) = true ∧
    (landingVa x 0 1 (s (c [] none)) = some (4095 * 4096) ∧ landingMoves 0 (4095 * 4096) 1 (s (c [] none)) = false ∧
      landingMoves 0 (4095 * 4096) 1 (moving (c [] none)) = true ∧ landReady 0 4095 (s (c [] none)) = none ∧
      (collAt 0 4095 (s { c [] none with stalled := [w] })).stalled = [w] ∧ w.port = none ∧ (s (c [] none)).devid.id.toNat ≠ 6 ∧
      (match allData 0 4095 (c [⟨0, 5, 1, 1, 0, 0⟩] (some o)) o [0] (moving (c [⟨0, 5, 1, 1, 0, 0⟩] (some o))) with
        | .error (.stall _ _ _ _) => true
        | _ => false) = true) ∧
    field land.toNat 4 0 = 12 ∧ bitOf land.toNat 63 = true ∧ 0 * 1 + 1 ≤ 2 ^ 12 ∧ ¬(1 * 4096 + 4096 ≤ 2 ^ 12) ∧
    (collAt 0 4095 (s { c [] none with refuse := true })).refuse = true ∧
      (∃ l ∈ (collAt 0 4095 (s (c [⟨0, 5, 1, 1, 0, 0⟩] none))).landed, l.rank = 0) ∧ allSent 0 4095 o (s (c [] none)) = true ∧
      allSent 0 4095 { o with lost := true } (s (c [] none)) = false ∧
      postReady 0 4095 (s { c [] none with others := [{ o with status := some 4 }] }) = some { o with status := some 4 } ∧
      haveAll (c [⟨0, 5, 1, 1, 0, 0⟩] (some o)) o = true ∧ mismatched (c [⟨0, 5, 1, 1, 0, 0⟩] (some o)) o = none ∧
      mismatched (c [⟨0, 5, 1, 2, 0, 0⟩] (some o)) o = some 0 ∧
      haveAll (c [] (some o)) o = false ∧ field (1 : Word).toNat 47 0 ≤ o.timer ∧ (site 0 (s (c [] none))).q.collFifo.length < 16 := by
  decide +kernel

theorem test_sealed_flit_passes (seq ack : BitVec 16) (f : Flit) : (sealFlit seq ack f).crc = crc64 (flitBytes (sealFlit seq ack f)) := by
  simp only [sealFlit, flitBytes]

/-- A flit that comes in order and one that does not, for this device, for a routed one and for none; a port in each state,
with and without a flit that waits. -/
theorem test_witness_LinkEvents :
    let f (dst : Nat) : Flit := sealFlit 1 0 ⟨0, 7, 1, 9, dst, 0, 0, 0, 0, [1], 0, 0, 0⟩
    let port (p : Port) : State :=
      { ofRink { rinkZero with rfab := some 1, rfabFid := 1 } inTm with devid := ⟨true, 5⟩, rtab := ⟨[(6, ⟨true, 3⟩)]⟩, dies := ⟨[(1,
      { Die.reset with ports := ⟨[(5, p)]⟩ })]⟩ }
    let up : Port := { Port.reset with st := 2, lanes := 8 }
    let s := port up
    let again : Port := { up with buf := [{ f 6 with kind := 3 }, f 6] }
    ((f 5).crc = crc64 (flitBytes (f 5)) ∧ again.buf = [{ f 6 with kind := 3 }] ++ f 6 :: [] ∧ { up with waiting := [f 6] }.waiting = f 6 :: []) ∧
    ((f 5).seq = (portOf 11 s).lastGood + 1 ∧ (portOf 11 s).st = 2 ∧
    ¬(f 5).seq = (portOf 11 (port { up with lastGood := 1 })).lastGood + 1) ∧
    (s.devid.v = true ∧ s.devid.id.toNat = 5 ∧ rinkOfFid 1 s = some 0 ∧ rinkOfFid 2 s = none ∧ routeTo 6 s = some 3 ∧ routeTo 7 s = none ∧
    (f 5).payload.length = (f 5).bytes + 1 ∧ (f 5).offset = 0) ∧
    (up.waiting = [] ∧ up.buf.length < 128 ∧ up.credit = 0 ∧ up.granted = false ∧ (f 6).seq = 1 ∧ up.lanes ≠ 7 ∧ { up with lanes := 7 }.lanes = 7 ∧
      (∀ z ∈ up.buf, z.seq ≠ (f 6).ack) ∧ aliveOn up = true ∧ aliveOn { up with st := 3 } = true ∧ aliveOn { up with st := 3, keep := false } = false) ∧
    ((∀ z ∈ again.buf, z.seq ≠ 2) ∧ (f 6).kind ≠ 3) ∧
    ((f 5).kind < 4 ∧ (let g := sealFlit 1 0 { f 5 with kind := 4 }; 4 ≤ g.kind ∧ g.seq = 1) ∧ (let g := sealFlit 1 0 { f 5 with kind := 3 }; g.kind = 3)) ∧
    (∀ st ∈ [(0 : BitVec 4), 1, 2, 3], (portOf 11 (port { up with st := st })).st = st) := by
  exact ⟨⟨test_sealed_flit_passes _ _ _, rfl, rfl⟩, by decide +kernel⟩

/-- Registers 0 and 31, and branches to the first word. -/
theorem test_witness_RegisterWordFrames :
    readableS alive 0 ∧ readableS alive 31 ∧ settledS alive 31 ∧ readableA alive 0 ∧ readableA alive 15 ∧ settledA alive 15 ∧
    (myCtx alive).divFree ≤ (mySite alive).now ∧
      freeMode alive ∧ outsideSlots alive ∧ targetInside alive ((myCtx alive).pc + BitVec.ofInt 64 (4 * (-8))) := by
  unfold readableS settledS readableA settledA freeMode outsideSlots targetInside; decide +kernel

/-- A memory of a first and a last byte, and a step from it. -/
theorem test_witness_StepKeepsCanonical :
    let s : State := { State.reset with mem := ⟨[(0, 1), (0x2FFFFFFFFFF, 0xFF)]⟩, agenda := [.holdExit] }
    Canonical s ∧ ∃ t, step s = .next t := by
  refine ⟨by unfold Canonical; decide +kernel, ?_⟩
  exact ⟨_, rfl⟩

/-! ## Ill-formed terms are refused (03 R69) -/

/-- A VE word with every field zero. -/
def zeroFields : VFields := ⟨0, 0, 0, 0, 0, 0, false, 0, false, false, false, 0⟩

/-- A value beyond what the field admits, one term per check of the control core's words. -/
theorem test_ill_formed_control :
    [Instr.kfld 1 1 8, .fence 5, .waitf 16 true, .sigf 15 true, .tstf 1 31 true, .push 3 1 1, .pushc 3 1, .pop 1 2, .mtx false false 6 1,
      .mfx 1 true true 6, .ralloc 1 1 1 3 false false, .mfs 1 5, .mts 0x80 1].map Instr.wf = List.replicate 13 false := by decide +kernel

/-- The same for the Rink Sequencer's, the matrix, the Lift and the collective words. -/
theorem test_ill_formed_engines :
    [Instr.seqWaitf 16 true, .seqSigf 15 true, .sshl 0, .copy false false 1, .copyz 0 false 2, .creduce 5].map Instr.wf =
      List.replicate 6 false := by decide +kernel

/-- 03 R78's codes: addition takes 0 to 5, and no word takes 6 or 7; a word without a suffix takes 0 alone (reason 5). -/
theorem test_type_codes :
    (∀ ty < 6, decodeVE (0x10 * 2 ^ 56 + ty * 2 ^ 53) = .ok (.vadd { zeroFields with ty := BitVec.ofNat 3 ty })) ∧
    (∀ op ∈ [0x10, 0x30, 0x37], ∀ ty ∈ [6, 7], decodeVE (op * 2 ^ 56 + ty * 2 ^ 53) = .illegal 1 5) ∧
    decodeVE (0x37 * 2 ^ 56) = .ok (.vmov zeroFields) ∧ decodeVE (0x37 * 2 ^ 56 + 2 ^ 53) = .illegal 1 5 := by decide +kernel

/-- And for the VE's: a predicate mode without a predicate, a hold on a field not read, v96, a type the opcode does not take, a rounding code
on an integer type, a field that must be zero, a code beyond its limits, an unsigned-integer comparison un, a row to keep. -/
theorem test_ill_formed_vector :
    [Instr.vadd { zeroFields with pmode := true }, .vneg { zeroFields with holdB := true }, .vadd { zeroFields with vd := 96 },
      .vrcp { zeroFields with ty := 6 }, .vadd { zeroFields with ty := 2, rnd := 1 }, .vmov { zeroFields with vb := 1 },
      .vbcast { zeroFields with vb := 64 }, .vcmp { zeroFields with ty := 2, vc := 4 }, .vsel zeroFields, .vturn { zeroFields with aux := 64 },
      .vwaitf { zeroFields with aux := 128 }, .vsigf { zeroFields with aux := 64 }, .vldt { zeroFields with vb := 32 }].map Instr.wf =
      List.replicate 13 false := by decide +kernel

/-! ## The spec's worked examples -/

/-- 02 R45's example: granules of 16 bytes. -/
def exampleCap : Cap := ⟨Cap.pack 2 0xFF 4 8 0x40 0x100180, true⟩

theorem test_bounds_example : exampleCap.bounds = (0x100100, 0x100500) ∧ exampleCap.inBounds 0x100180 16 = true := by decide +kernel

/-- 04 R121's example. -/
theorem test_kstep_example :
    let c := exampleCap.moveTo 0x100580
    let d := exampleCap.moveTo 0xFFF80
    c.tag = true ∧ c.back = 0x48 ∧ c.bounds = (0x100100, 0x100500) ∧ d.tag = false := by decide +kernel

/-- 04 R122's example. -/
theorem test_kclip_example :
    let c := (Cap.mk (Cap.pack 2 0xFF 8 1 0x1000 0x100100) true).clip 0x12345
    c.gran = 2 ∧ c.back = 0 ∧ c.extent = 0x48D2 ∧ c.bounds = (0x100100, 0x112448) ∧ c.tag = true := by decide +kernel

/-- 02 R49's example: TURN 43, then hold-c, then TURN 47. -/
theorem test_bank_stall_example :
    let l : Loop := { Ve.reset.loop with size := 48, turn := 43 }
    let f : VFields := { zeroFields with va := 3, vb := 53, vc := 9 }
    physV l 53 = 58 ∧ bankStall (fileReads l f true true true) = 1 ∧ bankStall (fileReads l { f with holdC := true } true true true) = 0 ∧
      physV { l with turn := 47 } 53 = 54 ∧ bankStall (fileReads { l with turn := 47 } f true true true) = 1 := by decide +kernel

/-- 05 R148's example. -/
theorem test_mts_fctl_example : fctlOf 0x3E = 0x39 := by decide +kernel

/-- 08 R229's example. -/
theorem test_crc_example : crcByte 0 0x01 = 0xF26B8303#32 := by decide +kernel

/-- 08 R228's example. -/
theorem test_zrc_example :
    zrcEncode [0, 0, 0, 0, 7, 7, 7, 3, 9, 0, 0, 5] =
      [0x03, 0x00, 0x02, 0x40, 0x07, 0x00, 0x00, 0x00, 0x01, 0x80, 0x03, 0x00, 0x00, 0x00, 0x09, 0x00, 0x00, 0x00, 0x01, 0x00, 0x00, 0x80, 0x05,
        0x00, 0x00, 0x00, 0x00, 0xC0] := by decide +kernel

/-- 01 R33's example. -/
theorem test_seed_row_example :
    (seedRow 0x1BDCB3D2 0 0).take 16 =
      [true, true, false, true, true, false, true, true, false, true, true, false, true, true, false, true] := by decide +kernel

/-- 01 R31's example: 3.9, −0.7, 0.26 and 1.9 in FP32. -/
theorem test_quantise_example :
    let q := quantiseBlock false ([0x4079999A, 0xBF333333, 0x3E851EB8, 0x3FF33333, 0].map (decodeFp 23)) 4 1 fun _ => 0
    q.1 = 128 ∧ q.2.1 = [7, -1, 1, 4, 0] ∧ q.2.2 = flSAT ||| flNX := by decide +kernel

/-- 01 R28's example: 1 + 2^−25 under SR draws up at u = 0 and down from u = 2^30 on. -/
theorem test_stochastic_example :
    (roundFp 23 (.fin false (2 ^ 25 + 1) (-25)) 5 false 0).1 = 0x3F800001 ∧
      (roundFp 23 (.fin false (2 ^ 25 + 1) (-25)) 5 false 0x40000000).1 = 0x3F800000 := by decide +kernel

/-- 07 R198's examples. -/
theorem test_fill_beats_example :
    let p : Spec := ⟨0, false, false, true, 2, 0, 9, 128, 512, 0, 0, 0, 0, 0⟩
    sourceSize p 0 = 65536 ∧ fillBeats p 0 = 134 ∧
      (let q : Spec := { p with enc := 11, scale := 0, delta := true, dcount := 12 }
       sourceSize q 10 = 28 ∧ fillBeats q 10 = 81) := by decide +kernel

/-- The header of a record of three words (13 R331): kind 1, INFO 8, NUM 42. -/
theorem test_event_word : eventWord 1 2 8 42 = 0x0120000800000000 + 42 := by decide +kernel

/-- A charge stops at the greatest value of ECNT (02 R66). -/
theorem test_energy_saturates :
    let x := addEnergy 8 { (aliveCtx Ctx.reset) with ecnt := 0xFFFFFFFFFFFB }
    x.ecnt = 0xFFFFFFFFFFFF ∧ x.ecntSat = true := by decide +kernel

/-- A load of a doubleword with an uncorrectable error: its group is lost and the error logged (18 R420, R421). -/
theorem test_soft_error :
    let t := softError 0 0x1FF8 (oneCore twoGroups)
    (groupOf (site 0 t) 1).valid = false ∧ (groupOf (site 0 t) 2).valid = true ∧ (site 0 t).obs.serru = 0x8000000000001FF8 := by decide +kernel

/-- The sum in rank order (08 R235): 2^−24 twice is lost, one after the other. -/
theorem test_reduce_order : reduceElement 0 [0x3F800000, 0x33800000, 0x33800000] = (0x3F800000, flNX) := by decide +kernel

end Sys2Proof.Tests
end

/-! # Every step answers a next state (00 R6) -/

namespace Sys2Proof.Machine

open Host (Outcome)

/-! ## What the step does, by its first test that applies -/

section StepCases

variable {s t v : State} {e : Instr} {es : List Instr}

theorem step_event (h : s.agenda = e :: es) : step s = stepEvent e { s with agenda := es } := by simp only [step, h]

theorem step_self (h : s.agenda = []) : step s = stepSelf s := by simp only [step, h]

theorem stepSelf_dark (h : noPower s = true) : stepSelf s = stepDark s := if_pos h

/-- With power, nothing that follows at once and no elastic event taken, the streams and the clock have the step. -/
theorem stepSelf_runs (hp : noPower s = false) (ha : autoEvent s = none) (he : elasticEvent (blockTokens s.sites.cells s) = (none, t)) :
    stepSelf s = runOrAdvance t := by
  simp only [stepSelf, hp, ha, he, Bool.false_eq_true, if_false]

theorem runOrAdvance_due {h : Nat} {u : Cur} (hd : dueStream s = some (h, u)) : runOrAdvance s = issueHead h u s := by
  simp only [runOrAdvance, hd]

theorem issueHead_word {h w : Nat} {u : Cur} {i : Instr} (hp : pendingTrap h u { s with cur := u } = none)
    (hf : fetchHead h u { s with cur := u } = .word w (.ok i)) : issueHead h u s = issueDecoded h u w i { s with cur := u } := by
  simp only [issueHead, hp, hf]

theorem issueDecoded_runs {h w : Nat} {u : Cur} {i : Instr} (hb : bpStop u.site h (bpActions (site u.site s) h) s = none)
    (hv : h = 2 → prepareVe u.site i s = none) : issueDecoded h u w i s = runWord h u w i s := by
  have hv' : (if h = 2 then prepareVe u.site i s else none) = none := by
    split
    · next h2 => exact hv h2
    · rfl
  simp only [issueDecoded, hb, hv']

theorem runWord_next {h w : Nat} {u : Cur} {i : Instr} (hx : exec i (presetClass h u (blockPushes u.site i s)) = .next v) :
    runWord h u w i s = .next (markIssued h u
      (afterWord (liveJob s) h u w (headRink (site u.site s) h) (site u.site s) (bpActions (site u.site s) h) i v)) := by
  simp only [runWord, hx]

end StepCases

/-- Settles O5: the tests of a step, each in the case in which it passes. -/
theorem stepRunsDecodedWord : Obligations.StepRunsDecodedWord := by
  unfold Obligations.StepRunsDecodedWord
  refine ⟨fun s t v h w u i => ?_, fun s e es hs => ⟨fun hw => ?_, fun hw => ?_⟩⟩
  · intro a hs hp ha he hd ht hf hb hv hx
    rw [step_self hs, stepSelf_runs hp ha he, runOrAdvance_due hd, issueHead_word ht hf, issueDecoded_runs hb hv, runWord_next hx]
  · rw [step_event hs, stepEvent, hw]; rfl
  · rw [step_event hs, stepEvent, hw]; rfl

end Sys2Proof.Machine

/-! # Every instruction and every step answers a next state (00 R6) -/

namespace Sys2Proof.Machine

open Host (Outcome)

/-- The outcome is a next state: no fault and no refusal. -/
def Answers (o : Outcome State Fault Refusal) : Prop := ∃ t, o = .next t

theorem answers_next (t : State) : Answers (.next t) := ⟨t, rfl⟩

/-! ## Instructions and events -/

theorem atomicWord_answers (op : AtomicOp) (dbl : Bool) (d : BitVec 5) (a : BitVec 4) (b : BitVec 5) (e : Option (BitVec 5)) (s : State) :
    Answers (atomicWord op dbl d a b e s) := by
  dsimp only [atomicWord]
  repeat' split
  all_goals exact answers_next _

/-- Most meanings are a next state as they stand. Those of the first two cases choose among next states by a test or a match. -/
theorem exec_answers (i : Instr) (s : State) : Answers (exec i s) := by
  cases i with
  | amoadd | amoand | amoor | amoxor | amoswap | amomin | amomax | amominn | amomaxn | cas =>
    unfold exec
    dsimp only [execAmoadd, execAmoand, execAmoor, execAmoxor, execAmoswap, execAmomin, execAmomax, execAmominn, execAmomaxn, execCas]
    exact atomicWord_answers ..
  | fence | sigf | rendez | push | pop | mtx | launch | cancel | gate | eret | vsigf | vloop | seqSigf | endr | mnest | crcchk | unitAllocation |
      startPulse | unitComplete | fillStart | liftCommandStart | copyTokenPush | commandRetire | collectiveCommandStart | dataFlit | creditFlit |
      refusalFlit | keepAliveFlit | retrainComplete | groupExpiry | forcedRefresh | migrationEpoch | launchFrozenTrap | retentionComplete |
      retentionResume | boot | hostReadCompletion =>
    unfold exec
    dsimp only [execFence, execSigf, execRendez, execPush, execPop, execMtx, execLaunch, execCancel, execGate, execEret, execVsigf, execVloop,
      execSeqSigf, execEndr, execMnest, execCrcchk, execUnitAllocation, execStartPulse, execUnitComplete, execFillStart, execLiftCommandStart,
      execCopyTokenPush, execCommandRetire, execCollectiveCommandStart, execDataFlit, execCreditFlit, execRefusalFlit, execKeepAliveFlit,
      execRetrainComplete, execGroupExpiry, execForcedRefresh, execMigrationEpoch, execLaunchFrozenTrap, execRetentionComplete, execRetentionResume,
      execBoot, execHostReadCompletion]
    repeat' split
    all_goals exact answers_next _
  | _ => exact answers_next _

/-! ## What the module does by itself -/

/-- An event that may follow: where there is one, it answers a next state. -/
def MayAnswer (o : Option Answer) : Prop := ∀ a, o = some a → Answers a

theorem mayAnswer_orElse {a : Option Answer} {b : Unit → Option Answer} (ha : MayAnswer a) (hb : MayAnswer (b ())) : MayAnswer (orElse' a b) := by
  cases a with
  | some x => exact ha
  | none => exact hb

theorem mayAnswer_none : MayAnswer none := fun _ h => nomatch h

theorem mayAnswer_some {a : Answer} (h : Answers a) : MayAnswer (some a) := by rintro _ ⟨⟩; exact h

theorem mayAnswer_ite {c : Prop} [Decidable c] {a b : Option Answer} (ha : MayAnswer a) (hb : MayAnswer b) : MayAnswer (if c then a else b) := by
  split
  · exact ha
  · exact hb

theorem mayAnswer_autoIf {b : Bool} {f : Unit → Answer} (h : Answers (f ())) : MayAnswer (autoIf b f) :=
  mayAnswer_ite (mayAnswer_some h) mayAnswer_none

theorem mayAnswer_map {α : Type} {f : α → Answer} (o : Option α) (h : ∀ x, Answers (f x)) : MayAnswer (o.map f) := by
  intro a ha
  obtain ⟨x, -, rfl⟩ := Option.map_eq_some_iff.1 ha
  exact h x

theorem mayAnswer_findSome {α : Type} {f : α → Option Answer} (l : List α) (h : ∀ x, MayAnswer (f x)) : MayAnswer (l.findSome? f) := by
  intro a ha
  obtain ⟨x, -, hx⟩ := List.exists_of_findSome?_eq_some ha
  exact h x a hx

theorem autoFill_answers (k : Nat) (h : Side) (s : State) : MayAnswer (autoFill k h s) := by
  unfold autoFill
  exact mayAnswer_autoIf (exec_answers (.fillComplete k h) _)

theorem autoHalf_answers (k : Nat) (h : Side) (s : State) : MayAnswer (autoHalf k h s) :=
  mayAnswer_ite mayAnswer_none <|
    mayAnswer_orElse (mayAnswer_autoIf (exec_answers (.nestRetire k h) _)) <|
    mayAnswer_orElse (mayAnswer_autoIf (answers_next _)) <|
    mayAnswer_orElse (mayAnswer_autoIf (exec_answers (.nestStart k h) _)) <|
    mayAnswer_autoIf (exec_answers (.fillStart k h) _)

theorem autoSite_answers (s : State) (p : Nat × Site) : MayAnswer (autoSite s p) := by
  unfold autoSite
  refine mayAnswer_orElse (mayAnswer_ite mayAnswer_none <|
      mayAnswer_orElse (autoFill_answers _ _ _) <| mayAnswer_orElse (autoFill_answers _ _ _) <|
      mayAnswer_orElse (autoHalf_answers _ _ _) (autoHalf_answers _ _ _)) <|
    mayAnswer_orElse (mayAnswer_ite mayAnswer_none (mayAnswer_map _ fun g => ?expiry)) <|
    mayAnswer_orElse (mayAnswer_map _ fun g => ?refresh) <|
    mayAnswer_orElse (mayAnswer_autoIf ?sample) <|
    mayAnswer_autoIf ?drop
  case expiry => exact exec_answers (.groupExpiry p.1 g) s
  case refresh => exact exec_answers (.forcedRefresh p.1 g) s
  case sample => exact exec_answers (.traceSample p.1) _
  case drop => exact exec_answers (.traceRecordDrop p.1) s

theorem autoLaunch_answers (r : Nat) (s : State) (l : Launch) : MayAnswer (autoLaunch r s l) := by
  unfold autoLaunch
  split
  · next u _ => exact mayAnswer_some (exec_answers (.unitComplete r l.lctr u.entry.core) s)
  · exact mayAnswer_autoIf (exec_answers (.startPulse r l.lctr) s)

theorem autoRink_answers (s : State) (p : Nat × Rink) : MayAnswer (autoRink s p) := by
  unfold autoRink
  refine mayAnswer_orElse (mayAnswer_findSome _ (autoLaunch_answers p.1 s)) <|
    mayAnswer_orElse (mayAnswer_map _ fun c => ?timeout) <|
    mayAnswer_orElse (mayAnswer_autoIf ?resume) <|
    mayAnswer_orElse (mayAnswer_autoIf ?notify) <|
    mayAnswer_orElse (mayAnswer_autoIf ?length) <|
    mayAnswer_orElse (mayAnswer_autoIf (answers_next _)) <|
    mayAnswer_autoIf ?start
  case timeout => exact exec_answers (.collectiveTimeout p.1 c.1) s
  case resume => exact exec_answers (.autoResume p.1) s
  case notify => exact exec_answers (.launchFrozenTrap p.1) s
  case length => exact exec_answers (.operatorLengthExceeded p.1) s
  case start => exact exec_answers (.jobStart p.1) s

theorem autoDie_answers (s : State) (p : Nat × Die) : MayAnswer (autoDie s p) :=
  mayAnswer_orElse (mayAnswer_autoIf (exec_answers (.bandFall p.1) s)) <|
  mayAnswer_map _ fun c => exec_answers (.cpatApply p.1 c.1) s

theorem autoPower_answers (s : State) : MayAnswer (autoPower s) :=
  mayAnswer_orElse (mayAnswer_autoIf (exec_answers .retentionResume s)) <|
  mayAnswer_orElse (mayAnswer_autoIf (exec_answers .holdEntry s)) <|
  mayAnswer_orElse (mayAnswer_autoIf (exec_answers .operatingPointChange s)) <|
  mayAnswer_orElse (mayAnswer_autoIf (exec_answers .voltageRampDone s)) <|
  mayAnswer_autoIf (exec_answers .clockSwitch s)

theorem autoEvent_answers (s : State) : MayAnswer (autoEvent s) :=
  mayAnswer_orElse (autoPower_answers s) <|
  mayAnswer_orElse (mayAnswer_map _ answers_next) <|
  mayAnswer_orElse (mayAnswer_findSome _ (autoSite_answers s)) <|
  mayAnswer_orElse (mayAnswer_findSome _ (autoRink_answers s)) <|
  mayAnswer_findSome _ (autoDie_answers s)

/-! ## Elastic events and the island -/

/-- Every choice of the list answers a next state. -/
def AllAnswer (l : List Choice) : Prop := ∀ f ∈ l, Answers (f ())

theorem allAnswer_nil : AllAnswer [] := fun _ h => nomatch h

theorem allAnswer_append {l m : List Choice} (hl : AllAnswer l) (hm : AllAnswer m) : AllAnswer (l ++ m) :=
  fun f hf => (List.mem_append.1 hf).elim (hl f) (hm f)

theorem allAnswer_choiceIf {b : Bool} {f : Choice} (h : Answers (f ())) : AllAnswer (choiceIf b f) := by
  cases b with
  | false => exact allAnswer_nil
  | true => rintro _ (_ | ⟨_, ⟨⟩⟩); exact h

theorem allAnswer_map {α : Type} {f : α → Choice} (l : List α) (h : ∀ x, Answers (f x ())) : AllAnswer (l.map f) := by
  intro g hg
  obtain ⟨x, -, rfl⟩ := List.mem_map.1 hg
  exact h x

theorem allAnswer_flatMap {α : Type} {f : α → List Choice} (l : List α) (h : ∀ x, AllAnswer (f x)) : AllAnswer (l.flatMap f) := by
  intro g hg
  obtain ⟨x, -, hx⟩ := List.mem_flatMap.1 hg
  exact h x g hx

theorem elasticCtx_answers (k : Nat) (x : Side) (s : State) : AllAnswer (elasticCtx k x s) :=
  allAnswer_append (allAnswer_choiceIf (exec_answers (.offChipAccessPerformed k x true) s))
    (allAnswer_choiceIf (exec_answers (.offChipAccessPerformed k x false) s))

theorem elasticEngine_answers (k : Nat) (l1 : Side) (s : State) : AllAnswer (elasticEngine k l1 s) := by
  unfold elasticEngine
  dsimp only
  split
  · split
    · exact allAnswer_choiceIf (exec_answers (.liftCommandStart k l1) s)
    · exact allAnswer_nil
  · split
    · rintro _ (_ | ⟨_, ⟨⟩⟩)
      exact exec_answers (.commandRetire (.lift k l1)) s
    · split
      · exact allAnswer_choiceIf (exec_answers (.copyTokenPush k l1) s)
      · exact allAnswer_nil

theorem elasticSite_answers (s : State) (p : Nat × Site) : AllAnswer (elasticSite s p) := by
  unfold elasticSite
  split
  · exact allAnswer_nil
  · exact allAnswer_append (allAnswer_append (allAnswer_append (allAnswer_append (elasticCtx_answers _ _ _) (elasticCtx_answers _ _ _))
      (elasticEngine_answers _ _ _)) (elasticEngine_answers _ _ _)) (allAnswer_map _ fun g => exec_answers (.policyRefresh p.1 g.1) s)

theorem elasticRink_answers (s : State) (p : Nat × Rink) : AllAnswer (elasticRink s p) :=
  allAnswer_append (allAnswer_map _ fun l => exec_answers (.unitAllocation p.1 l.lctr) s)
    (allAnswer_map _ fun c => exec_answers (.collectiveOpComplete p.1 c.1) s)

theorem elasticColl_answers (s : State) (d : Nat) (p : Nat × CollEngine) : AllAnswer (elasticColl s d p) := by
  unfold elasticColl
  split
  · exact allAnswer_choiceIf (exec_answers (.collectiveCommandStart d p.1) s)
  · exact allAnswer_choiceIf (exec_answers (.commandRetire (.coll d p.1)) s)
  · exact allAnswer_nil

theorem acceptances_answers (s : State) (fn : Nat) : AllAnswer (acceptances s fn) :=
  allAnswer_choiceIf (exec_answers (.jobAcceptance fn _) s)

theorem elasticFn_answers (s : State) (p : Nat × Fn) : AllAnswer (elasticFn s p) :=
  allAnswer_append (allAnswer_append (acceptances_answers s p.1) (allAnswer_choiceIf (exec_answers (.tinvDone p.1) s)))
    (allAnswer_choiceIf (exec_answers (.attestationComplete p.1) s))

theorem elasticMemory_answers (s : State) : AllAnswer (elasticMemory s) :=
  allAnswer_append (allAnswer_append (allAnswer_append (allAnswer_append (allAnswer_append
    (allAnswer_map _ fun b => exec_answers (.atomicUnitServe b.1) s)
    (allAnswer_map _ fun m => exec_answers (.pageMigrationStart m.1 (.ofNat 64 m.2.1) m.2.2) s))
    (allAnswer_map _ fun m => exec_answers (.pageMigrationComplete m.fn (.ofNat 64 m.ia)) s))
    (allAnswer_map _ fun w => exec_answers (.windowDestroy w.1) s))
    (allAnswer_map _ fun _ => answers_next _))
    (allAnswer_choiceIf (exec_answers .pcremapDone s))

theorem elasticEvents_answers (s : State) : AllAnswer (elasticEvents s) :=
  allAnswer_append (allAnswer_append (allAnswer_append (allAnswer_append
    (allAnswer_flatMap _ (elasticSite_answers s)) (allAnswer_flatMap _ (elasticRink_answers s)))
    (allAnswer_flatMap _ fun d => allAnswer_flatMap _ (elasticColl_answers s d.1))) (allAnswer_flatMap _ (elasticFn_answers s)))
    (elasticMemory_answers s)

theorem islandEvents_answers (s : State) : AllAnswer (islandEvents s) :=
  allAnswer_append (allAnswer_flatMap _ fun p => acceptances_answers s p.1) (allAnswer_map _ fun _ => answers_next _)

/-- The event that is chosen is one of those that may happen. -/
theorem chooseEvent_answers {events : State → List Choice} (h : ∀ s, AllAnswer (events s)) (s : State) : MayAnswer (chooseEvent events s).1 := by
  unfold chooseEvent
  dsimp only
  split
  · exact mayAnswer_none
  · next e es he =>
    have hl : AllAnswer (e :: es) := he ▸ h _
    split
    · exact mayAnswer_none
    · next n _ =>
      refine mayAnswer_some (hl _ ?_)
      cases hn : (e :: es)[n]? with
      | none => exact List.mem_cons_self
      | some f => exact List.mem_of_getElem? hn

/-- Where nothing may happen the state stands as it is, the counter of free values with it. -/
theorem chooseEvent_nil {events : State → List Choice} {s : State} (h : events (freshWord s).2 = []) : chooseEvent events s = (none, s) := by
  simp only [chooseEvent, h]

/-! ## The step -/

theorem runWord_answers (h : Nat) (u : Cur) (w : Nat) (i : Instr) (s : State) : Answers (runWord h u w i s) := by
  obtain ⟨v, hv⟩ := exec_answers i (presetClass h u (blockPushes u.site i s))
  exact ⟨_, runWord_next hv⟩

theorem issueDecoded_answers (h : Nat) (u : Cur) (w : Nat) (i : Instr) (s : State) : Answers (issueDecoded h u w i s) := by
  unfold issueDecoded
  split
  · exact answers_next _
  · split
    · exact answers_next _
    · exact runWord_answers ..

theorem issueHead_answers (h : Nat) (u : Cur) (s : State) : Answers (issueHead h u s) := by
  unfold issueHead
  dsimp only
  split
  · exact answers_next _
  · split
    · exact issueDecoded_answers ..
    all_goals exact answers_next _

theorem runOrAdvance_answers (s : State) : Answers (runOrAdvance s) := by
  unfold runOrAdvance
  split
  · exact issueHead_answers ..
  · exact answers_next _

theorem stepDark_answers (s : State) : Answers (stepDark s) := by
  have hc := chooseEvent_answers islandEvents_answers s
  unfold stepDark
  split
  · exact answers_next _
  · split
    · exact answers_next _
    · next a _ _ he => exact hc a (by rw [he])
    · exact answers_next _

theorem stepSelf_answers (s : State) : Answers (stepSelf s) := by
  have hc := chooseEvent_answers elasticEvents_answers (blockTokens s.sites.cells s)
  unfold stepSelf
  split
  · exact stepDark_answers s
  · split
    · next a ha => exact autoEvent_answers s a ha
    · split
      · next a _ he => exact hc a (by rw [← elasticEvent, he])
      · exact runOrAdvance_answers _

theorem step_answers (s : State) : Answers (step s) := by
  unfold step
  split
  · exact exec_answers ..
  · exact stepSelf_answers s

/-! ## Without power -/

theorem stepDark_off {s : State} (h : s.power.st = .off) : stepDark s = .next s := if_pos h

/-- In Retention an island that has nothing to do leaves the module as it is (19 R439). -/
theorem stepDark_retention {s : State} (h : s.power.st = .retention) (hr : resumeRequest s = none)
    (hi : islandEvents (freshWord s).2 = []) : stepDark s = .next s := by
  have hoff : s.power.st ≠ .off := by rw [h]; decide
  simp only [stepDark, if_neg hoff, hr, chooseEvent_nil hi]

/-- Settles O6: every meaning is a next state, so every event that may follow is one, and every step. -/
theorem stopsOnlyUnpowered : Obligations.StopsOnlyUnpowered := by
  unfold Obligations.StopsOnlyUnpowered
  refine ⟨step_answers, exec_answers, fun s hs => ⟨fun h => ?_, fun h hr hi => ?_⟩⟩
  · rw [step_self hs, stepSelf_dark (by simp [noPower, h]), stepDark_off h]
  · rw [step_self hs, stepSelf_dark (by simp [noPower, h]), stepDark_retention h hr hi]

end Sys2Proof.Machine

/-! # The hypervisor's tables (10 R445, 15 R363 to R369, 16 R387, R389) -/

namespace Sys2Proof.Machine

open Host (Outcome)

theorem mayConfigure_iff {s : State} {r : Nat} : mayConfigure s r = true ↔ (rink r s).valid = false ∨ (rink r s).suspd = true := by
  simp [mayConfigure]

/-! ## OWN (15 R363) -/

/-- A field of a written OWN is the byte of its number. -/
theorem ownField_ownOf (v : Nat) (b : Bool) {h : Nat} (hh : h < 7) : ownField (ownOf v b) h = (ownByte v h).rink? := by
  match h, hh with
  | 0, _ | 1, _ | 2, _ | 3, _ | 4, _ | 5, _ | 6, _ => rfl

/-- The conditions of a write of OWN in words: an engine goes to an owner of a context, a field changes between rinks that may be reconfigured, and two
rinks of a core lie in two lanes. -/
theorem ownOk_iff {old new : Own} {s : State} : ownOk old new s = true ↔
    (∀ h < 7, ∀ p, ownField new h = some p → ownField new 0 = some p ∨ ownField new 1 = some p) ∧
    (∀ h < 7, ownField old h ≠ ownField new h → ∀ p, ownField old h = some p ∨ ownField new h = some p → mayConfigure s p.toNat = true) ∧
    ∀ a b, ownField new 0 = some a → ownField new 1 = some b → a ≠ b → (rink a.toNat s).lane ≠ (rink b.toNat s).lane := by
  unfold ownOk
  simp only [Bool.and_eq_true, List.all_eq_true, List.mem_range, and_assoc]
  refine and_congr (forall₂_congr fun h _ => ?_) (and_congr (forall₂_congr fun h _ => ?_) ?_)
  · cases ownField new h <;> simp [ownField]
  · generalize ownField old h = o
    generalize ownField new h = n
    by_cases e : o = n
    · simp [e]
    · cases o <;> cases n <;> simp_all [or_imp, forall_and]
  · show _ ↔ ∀ a b, new.ctx0.rink? = some a → new.ctx1.rink? = some b → _
    cases new.ctx0.rink? <;> cases new.ctx1.rink? <;> simp [or_iff_not_imp_left]

theorem nameOwner_keeps (x : Side) (s : State) (c : Site) :
    (nameOwner x s c).own = c.own ∧ (nameOwner x s c).tm = c.tm ∧ (nameOwner x s c).flags = c.flags := by
  unfold nameOwner
  split
  · exact ⟨modCtx_own .., modCtx_tm .., modCtx_flags ..⟩
  · exact ⟨rfl, rfl, rfl⟩

/-- An OWN that is written takes its fields; the contexts take the identity of their owners, and nothing else of the core changes that is not a context's. -/
theorem writeOwn_of_ok {k v : Nat} {s : State} (h : ∀ b, ownOk (site k s).own (ownOf v b) s = true) :
    (∃ b, (site k (writeOwn k v s)).own = ownOf v b) ∧ (site k (writeOwn k v s)).tm = (site k s).tm ∧
      (site k (writeOwn k v s)).flags = (site k s).flags ∧ (writeOwn k v s).rinks = s.rinks := by
  unfold writeOwn
  rw [if_pos (h _)]
  simp only [site_modSite_same, modSite_rinks, nameOwner_keeps, and_self, and_true]
  exact ⟨_, rfl⟩

/-- A write of OWN that is not allowed shows in BAD alone. -/
theorem writeOwn_of_not_ok {k v : Nat} {s : State} (h : ∀ b, ¬ownOk (site k s).own (ownOf v b) s = true) :
    writeOwn k v s = modSite k (fun c => { c with own := { (site k s).own with bad := true } }) s := if_neg (h _)

/-! ## TMSHARE (10 R445) -/

theorem splitOk_iff {c : Site} {n : Nat} {s : State} : splitOk c n s = true ↔
    (∀ h < 7, ∀ p, ownField c.own h = some p → mayConfigure s p.toNat = true) ∧
    ∀ a b, c.own.ctx0.rink? = some a → c.own.ctx1.rink? = some b → a ≠ b → ∀ g ∈ c.tm.regions,
      (g.rink = a.toNat → g.base + g.size ≤ 4096 * n) ∧ (g.rink = b.toNat → 4096 * n ≤ g.base) := by
  unfold splitOk
  rw [Bool.and_eq_true]
  refine and_congr ?_ ?_
  · simp only [List.all_eq_true, List.mem_filterMap, List.mem_range, Option.map_eq_some_iff]
    constructor
    · exact fun all h hh p hp => all _ ⟨h, hh, p, hp, rfl⟩
    · rintro all _ ⟨h, hh, p, hp, rfl⟩
      exact all h hh p hp
  · cases c.own.ctx0.rink? <;> cases c.own.ctx1.rink? <;> simp [or_iff_not_imp_left]

theorem writeSplit_of_ok {k v : Nat} {s : State} (h : splitOk (site k s) (min (v % 4096) 3072) s = true) :
    writeSplit k v s = modSite k (modTm fun t => { t with split := .ofNat 12 (min (v % 4096) 3072) }) s := if_pos h

theorem writeSplit_of_not_ok {k v : Nat} {s : State} (h : ¬splitOk (site k s) (min (v % 4096) 3072) s = true) :
    writeSplit k v s = modSite k (fun c => { c with own := { c.own with bad := true } }) s := if_neg h

/-! ## Place and link tables (15 R367) -/

theorem writePlace_locked {r off v : Nat} {s : State} (h : ¬mayConfigure s r = true) : writePlace r off v s = setBad r s := by
  simp [writePlace, h]

theorem writePlace_entry {r n v : Nat} {s : State} (h : mayConfigure s r = true) (hn : n < 272) : writePlace r (0x400 + 8 * n) v s =
    if placeOk s (placeOf v) then modRink r (fun q => { q with place := q.place.put n (placeOf v) }) s else setBad r s := by
  have hin : 0x400 ≤ 0x400 + 8 * n ∧ 0x400 + 8 * n < 0x400 + 8 * 272 ∧ (0x400 + 8 * n) % 8 = 0 := by omega
  have hix : (0x400 + 8 * n - 0x400) / 8 = n := by omega
  unfold writePlace
  rw [if_neg (by simp [h]), if_pos hin, hix]

theorem writePlace_link {r n v : Nat} {s : State} (h : mayConfigure s r = true) (hn : n < 12) : writePlace r (0xD00 + 8 * n) v s =
    modRink r (fun q => { q with link := q.link.put n (portEntry v) }) s := by
  have hout : ¬(0x400 ≤ 0xD00 + 8 * n ∧ 0xD00 + 8 * n < 0x400 + 8 * 272 ∧ (0xD00 + 8 * n) % 8 = 0) := by omega
  have hin : 0xD00 ≤ 0xD00 + 8 * n ∧ 0xD00 + 8 * n < 0xD60 ∧ (0xD00 + 8 * n) % 8 = 0 := by omega
  have hix : (0xD00 + 8 * n - 0xD00) / 8 = n := by omega
  unfold writePlace
  rw [if_neg (by simp [h]), if_neg hout, if_pos hin, hix]

theorem placeOk_iff {s : State} {e : Place} : placeOk s e = true ↔ (e.v = true → siteFailed e.site s = false) := by
  unfold placeOk
  cases e.v <;> simp

/-! ## Patterns (15 R369, 09 R239) -/

/-- A pattern of no row is taken as that of row 0 alone. -/
def takenPattern (pat : BitVec 16) : BitVec 16 := if pat = 0 then 1 else pat

theorem setPattern_busy {d c : Nat} {pat : BitVec 16} {lock : Bool} {s : State} (h : clusterBusy d c s = true) : setPattern d c pat lock s =
    modDie d (fun v => { v with cpatHeld := v.cpatHeld.put c (some (takenPattern pat, lock)) }) s := if_pos h

theorem setPattern_free {d c : Nat} {pat : BitVec 16} {lock : Bool} {s : State} (h : clusterBusy d c s = false) : setPattern d c pat lock s =
    modDie d (fun v => { v with cpat := v.cpat.put c (takenPattern pat), cpatLock := v.cpatLock.put c lock, cpatHeld := v.cpatHeld.put c none }) s :=
  if_neg (by simp [h])

/-- A written pattern takes effect at once on a cluster with nothing in flight, and is held on the others. -/
theorem writeCpat_result (d c v : Nat) (s : State) :
    (clusterBusy d c s = false → (die d (writeCpat d c v s)).cpat.get 0xFFFF c = takenPattern (.ofNat 16 v) ∧
      (die d (writeCpat d c v s)).cpatLock.get false c = bitOf v 16) ∧
    (clusterBusy d c s = true → (die d (writeCpat d c v s)).cpat = (die d s).cpat ∧
      (die d (writeCpat d c v s)).cpatHeld.get none c = some (takenPattern (.ofNat 16 v), bitOf v 16)) := by
  constructor
  · intro h
    simp [writeCpat, setPattern_free h]
  · intro h
    simp [writeCpat, setPattern_busy h]

theorem cpatApply_waits {d c : Nat} {s : State} (h : clusterBusy d c s = true) : execCpatApply d c s = .next s := by
  unfold execCpatApply
  split
  · simp [mayApply, h]
  · rfl

theorem cpatApply_held {d c : Nat} {p : BitVec 16 × Bool} {s : State} (hp : (die d s).cpatHeld.get none c = some p)
    (h : clusterBusy d c s = false) : execCpatApply d c s = .next (setPattern d c p.1 p.2 s) := by
  simp [execCpatApply, hp, mayApply, h]

/-! ## Fabric identity and landing window (16 R387, R389) -/

/-- Another valid rink holds the identity. -/
def heldByOther (s : State) (r : Nat) (fid : BitVec 16) : Prop := ∃ e ∈ s.rinks.cells, e.1 ≠ r ∧ e.2.valid = true ∧ e.2.rfab = some fid

theorem writeRfab_clash {r v : Nat} {s : State} (hv : (rink r s).valid = true) (hb : bitOf v 16 = true)
    (h : heldByOther s r (.ofNat 16 v)) : writeRfab r v s = setBad r s := by
  obtain ⟨e, he, hr, hval, hf⟩ := h
  have any : (s.rinks.cells.any fun q => q.1 != r && q.2.valid && q.2.rfab == some (BitVec.ofNat 16 v)) = true :=
    List.any_eq_true.2 ⟨e, he, by simp [hr, hval, hf]⟩
  simp only [writeRfab, hb, hv, any, Bool.and_self, if_true]

theorem writeRfab_sets {r v : Nat} {s : State} (h : (rink r s).valid = true → bitOf v 16 = true → ¬heldByOther s r (.ofNat 16 v)) :
    writeRfab r v s = modRink r (fun q =>
      { q with rfab := if bitOf v 16 then some (.ofNat 16 v) else none, rfabFid := .ofNat 16 v }) s := by
  refine if_neg fun clash => ?_
  obtain ⟨⟨hb, hv⟩, any⟩ : (bitOf v 16 = true ∧ (rink r s).valid = true) ∧ _ := by simpa only [Bool.and_eq_true] using clash
  obtain ⟨e, he, hcond⟩ := List.any_eq_true.1 any
  refine h hv hb ⟨e, he, ?_⟩
  simpa [and_assoc] using hcond

/-- The parts of RLAND do not overlap: V, the window and LSLOT read back. -/
theorem rlandWord_fields (v : Nat) : bitOf (rlandWord v).toNat 63 = bitOf v 63 ∧ field (rlandWord v).toNat 21 16 = field v 21 16 ∧
    field (rlandWord v).toNat 4 0 = max 12 (min 30 (field v 4 0)) := by
  have hw : field v 21 16 < 64 := Nat.mod_lt _ (by decide)
  have hb : b2n (bitOf v 63) < 2 := by unfold b2n; split <;> decide
  have hbit : (b2n (bitOf v 63) == 1) = bitOf v 63 := by cases bitOf v 63 <;> rfl
  have hl : max 12 (min 30 (field v 4 0)) < 32 := by omega
  have hn : (rlandWord v).toNat = b2n (bitOf v 63) * 2 ^ 63 + field v 21 16 * 2 ^ 16 + max 12 (min 30 (field v 4 0)) := by
    rw [rlandWord, BitVec.toNat_ofNat]
    exact Nat.mod_eq_of_lt (by omega)
  rw [hn]
  generalize b2n (bitOf v 63) = b at *
  generalize field v 21 16 = w at *
  generalize max 12 (min 30 (field v 4 0)) = l at *
  refine ⟨?_, ?_, ?_⟩
  · rw [← hbit, bitOf]
    congr 1
    omega
  · unfold field
    omega
  · unfold field
    omega

theorem writeRland_owner {r v : Nat} {s : State}
    (h : (windowOf (field v 21 16) s).valid = true ∧ (windowOf (field v 21 16) s).owner.toNat = r) :
    writeRland r v s = modRink r (fun q => { q with rland := rlandWord v }) s := if_pos h

theorem writeRland_other {r v : Nat} {s : State}
    (h : ¬((windowOf (field v 21 16) s).valid = true ∧ (windowOf (field v 21 16) s).owner.toNat = r)) :
    writeRland r v s = setBad r s := if_neg h

/-- Settles O43: each write by the conditions under which it is taken, ignored or held. -/
theorem hypervisorTableEvents : Obligations.HypervisorTableEvents := by
  unfold Obligations.HypervisorTableEvents
  intro s r k d c n val q v old named stopped ownAllowed split splitAllowed mayConf entry refused pattern
  have hstop (p : BitVec 6) : mayConfigure s p.toNat = true ↔ stopped p := mayConfigure_iff
  have hconf : mayConfigure s r = true ↔ mayConf := mayConfigure_iff
  have hnamed (b : Bool) : ∀ h < 7, ownField (ownOf v b) h = named h := fun h hh => ownField_ownOf v b hh
  have hown (b : Bool) : ownOk old (ownOf v b) s = true ↔ ownAllowed := by
    have h0 := hnamed b 0 (by decide)
    have h1 := hnamed b 1 (by decide)
    refine ownOk_iff.trans (and_congr (forall₂_congr fun h hh => ?_) (and_congr (forall₂_congr fun h hh => ?_) ?_))
    · rw [hnamed b h hh, h0, h1]
    · simp only [hnamed b h hh, hstop]
    · rw [h0, h1]
  have hsplit : splitOk (site k s) split s = true ↔ splitAllowed := splitOk_iff.trans (by simp only [hstop]; rfl)
  refine ⟨fun h => ?_, fun h => ?_, fun h => ?_, fun h => ?_, fun hn => ⟨fun hm hv hf => ?_, fun hm he => ?_, fun hm => ?_⟩, fun hn hm => ?_,
    ⟨_, rfl, writeCpat_result d c v s⟩, fun p hp => ⟨fun hb => cpatApply_waits hb, fun hb hp0 => ?_⟩, fun hv he hb => ?_, fun h => ?_,
    fun hw ho => ?_, fun h => ?_⟩
  · obtain ⟨⟨b, ho⟩, htm, hfl, hr⟩ := writeOwn_of_ok fun b => (hown b).2 h
    exact ⟨_, rfl, fun h hh => by rw [ho, hnamed b h hh], by rw [ho]; rfl, htm, hfl, hr⟩
  · have hw := writeOwn_of_not_ok fun b => mt (hown b).1 h
    exact ⟨_, rfl, by rw [hw, site_modSite_same], by rw [hw, modSite_rinks]⟩
  · have hlt : split < 2 ^ 12 := (Nat.min_le_right _ _).trans_lt (by decide)
    refine ⟨_, rfl, ?_⟩
    rw [writeSplit_of_ok (hsplit.2 h), site_modSite_same]
    exact ⟨(BitVec.toNat_ofNat ..).trans (Nat.mod_eq_of_lt hlt), rfl⟩
  · refine ⟨_, rfl, ?_⟩
    rw [writeSplit_of_not_ok (mt hsplit.1 h), site_modSite_same]
    exact ⟨rfl, rfl⟩
  · have hno : ¬placeOk s entry = true := fun ho => by simp [placeOk_iff.1 ho hv] at hf
    exact congrArg Outcome.next ((writePlace_entry (hconf.2 hm) hn).trans (if_neg hno))
  · refine ⟨_, congrArg Outcome.next ((writePlace_entry (hconf.2 hm) hn).trans (if_pos (placeOk_iff.2 he))), ?_⟩
    rw [rink_modRink_same]
    exact ⟨Table.get_put_same .., fun m hmn => Table.get_put_ne _ _ _ hmn, rfl⟩
  · exact congrArg Outcome.next (writePlace_locked (mt hconf.1 hm))
  · refine ⟨_, congrArg Outcome.next (writePlace_link (hconf.2 hm) hn), ?_⟩
    rw [rink_modRink_same]
    exact ⟨Table.get_put_same .., rfl⟩
  · refine ⟨_, cpatApply_held hp hb, ?_⟩
    rw [setPattern_free hb, die_modDie_same]
    exact ⟨(Table.get_put_same ..).trans (if_neg hp0), Table.get_put_same .., Table.get_put_same ..⟩
  · exact congrArg Outcome.next (writeRfab_clash hv hb he)
  · refine ⟨_, congrArg Outcome.next (writeRfab_sets fun hv hb ⟨e, he, hr, hval, hf⟩ => h hv hb e he hr hval hf), ?_⟩
    rw [rink_modRink_same]
    exact ⟨rfl, rfl, rfl⟩
  · refine ⟨_, congrArg Outcome.next (writeRland_owner ⟨hw, ho⟩), ?_⟩
    rw [rink_modRink_same]
    exact rlandWord_fields v
  · exact congrArg Outcome.next (writeRland_other h)

end Sys2Proof.Machine

/-! # Temperature, Hold, Retention, warm reset and Off (10 R269, 18 R426, 19 R435 to R440) -/

namespace Sys2Proof.Machine

open Host (Outcome)

/-- What every step of a fold keeps, the fold keeps. -/
theorem foldl_keeps {α γ : Type} {f : State → α → State} (g : State → γ) (h : ∀ s a, g (f s a) = g s) (l : List α) (s : State) :
    g (l.foldl f s) = g s := by
  induction l generalizing s with
  | nil => rfl
  | cons a l ih => rw [List.foldl_cons, ih, h]

/-- A table whose values are changed one by one, where the change keeps the default. -/
theorem Table.get_mapVals {α : Type} (t : Table α) {f : Nat → α → α} {d : α} {k : Nat} (h : f k d = d) :
    (t.mapVals f).get d k = f k (t.get d k) := by
  unfold Table.mapVals Table.get
  induction t.cells with
  | nil => exact h.symm
  | cons c cs ih =>
    simp only [List.map_cons, lookupKey]
    split
    · next e => rw [e]
    · exact ih

/-- What `f` makes of each core. -/
theorem site_mapVals {f : Site → Site} (h : f Site.reset = Site.reset) {s t : State} (ht : t.sites = s.sites.mapVals fun _ c => f c) (k : Nat) :
    site k t = f (site k s) := by
  rw [site, ht]
  exact Table.get_mapVals _ h

theorem rink_mapVals {f : Nat → Rink → Rink} {r : Nat} (h : f r Rink.reset = Rink.reset) {s t : State} (ht : t.rinks = s.rinks.mapVals f) :
    rink r t = f r (rink r s) := by
  rw [rink, ht]
  exact Table.get_mapVals _ h

/-! ## Temperature (10 R267, R269) -/

theorem bandOf_le (celsius : Int) : bandOf celsius ≤ 15 := by
  unfold bandOf
  split
  · decide
  · exact Nat.min_le_left ..

theorem toNat_ofNat4 {n : Nat} (h : n ≤ 15) : (BitVec.ofNat 4 n).toNat = n := by
  rw [BitVec.toNat_ofNat]
  exact Nat.mod_eq_of_lt (by omega)

/-- A sample at or above the band sets it and ends a fall. -/
theorem sampleBand_rise {b : Nat} {d : Die} (hb : b ≤ 15) (h : d.band.toNat ≤ b) :
    (sampleBand b d).band.toNat = b ∧ (sampleBand b d).falling = false ∧ (sampleBand b d).below = 0 := by
  unfold sampleBand
  rw [if_pos h]
  exact ⟨toNat_ofNat4 hb, rfl, rfl⟩

/-- A sample below the band counts toward a fall to the highest band sampled since it began. -/
theorem sampleBand_fall {b : Nat} {d : Die} (hb : b ≤ 15) (h : b < d.band.toNat) :
    (sampleBand b d).band = d.band ∧ (sampleBand b d).falling = true ∧ (sampleBand b d).below = d.below + 1 ∧
      (sampleBand b d).target.toNat = if d.falling then max d.target.toNat b else b := by
  unfold sampleBand
  rw [if_neg (Nat.not_le.2 h)]
  refine ⟨rfl, rfl, rfl, toNat_ofNat4 ?_⟩
  have ht := d.target.isLt
  split <;> omega

/-! ## Retention entry (19 R438) -/

theorem undoLaunch_keeps (r : Nat) (l : Launch) (s : State) :
    (undoLaunch r l s).power = s.power ∧ (undoLaunch r l s).dies = s.dies := by
  have keep (g : State → Power × Table Die) (hw : ∀ f s, g (modWork r f s) = g s) (hs : ∀ k f s, g (modSite k f s) = g s)
      (hp : ∀ up ps s, g (pinPages up ps s) = g s) : g (undoLaunch r l s) = g s := by
    unfold undoLaunch leaveRegions
    rw [hw, foldl_keeps g (fun _ _ => hs ..), foldl_keeps g (fun _ _ => hs ..), hp]
  exact Prod.ext_iff.1 (keep (fun s => (s.power, s.dies)) (fun _ _ => rfl) (fun _ _ _ => rfl) fun _ _ _ => rfl)

/-- The launches that are undone change nothing of the power or of a die. -/
theorem undoWaiting_keeps (s : State) : (undoWaiting s).power = s.power ∧ (undoWaiting s).dies = s.dies := by
  refine Prod.ext_iff.1 (foldl_keeps (fun s => (s.power, s.dies)) (fun s q => ?_) s.rinks.cells s)
  dsimp only
  split
  · rfl
  · exact foldl_keeps (f := fun s l => undoLaunch q.1 l s) (fun s => (s.power, s.dies)) (fun s l => Prod.ext_iff.2 (undoLaunch_keeps q.1 l s)) _ s

/-- The states of the power in which Retention may be entered (19 R436, R438). -/
def maySleep (p : PowerState) : Prop := p = .run ∨ p = .hold ∨ p = .resuming

theorem enterRetention_awake {cause : Nat} {s : State} (h : maySleep s.power.st) : enterRetention cause s =
    modPower (fun p => { p with st := .entering, cause := cause, resumeAsked := false }) (undoWaiting s) := if_pos h

theorem enterRetention_enters {cause : Nat} {s : State} (h : maySleep s.power.st) :
    (enterRetention cause s).power = { s.power with st := .entering, cause := cause, resumeAsked := false } ∧
      (enterRetention cause s).dies = s.dies := by
  obtain ⟨hp, hd⟩ := undoWaiting_keeps s
  rw [enterRetention_awake h]
  exact ⟨by rw [modPower, hp], hd⟩

theorem enterRetention_stays {cause : Nat} {s : State} (h : ¬maySleep s.power.st) : enterRetention cause s = s := if_neg h

theorem enterRetention_dies (cause : Nat) (s : State) : (enterRetention cause s).dies = s.dies := by
  by_cases h : maySleep s.power.st
  · exact (enterRetention_enters h).2
  · rw [enterRetention_stays h]

theorem enterRetention_hot (cause : Nat) (s : State) : (enterRetention cause s).power.hot = s.power.hot := by
  by_cases h : maySleep s.power.st
  · rw [(enterRetention_enters h).1]
  · rw [enterRetention_stays h]

/-! ## A temperature sample (19 R435) -/

/-- The state of a temperature sample before the trip at 105 °C: the band, and the alarm of a die that comes into band 15. -/
def sampledState (d : Nat) (celsius : Int) (s : State) : State :=
  let b := bandOf celsius
  let old := (die d s).band.toNat
  let s1 := modDie d (sampleBand b) (if old < b then wake s else s)
  if old < 15 ∧ b = 15 then signalPf (modPower (fun p => { p with hot := true }) s1) else s1

theorem execTemperatureSample_eq (d : Nat) (celsius : Int) (s : State) : execTemperatureSample d celsius s =
    .next (if 105 ≤ celsius then enterRetention 3 (sampledState d celsius s) else sampledState d celsius s) := rfl

theorem wake_dies (s : State) : (wake s).dies = s.dies := by
  unfold wake
  split <;> rfl

theorem sampledState_die (d : Nat) (celsius : Int) (s : State) : die d (sampledState d celsius s) = sampleBand (bandOf celsius) (die d s) := by
  have hd (t : State) (ht : t.dies = s.dies) : die d (modDie d (sampleBand (bandOf celsius)) t) = sampleBand (bandOf celsius) (die d s) := by
    rw [die_modDie_same, die, ht]; rfl
  have hw : (if (die d s).band.toNat < bandOf celsius then wake s else s).dies = s.dies := by
    split
    · exact wake_dies s
    · rfl
  unfold sampledState
  dsimp only
  split
  · exact hd _ hw
  · exact hd _ hw

theorem sampledState_power (d : Nat) (celsius : Int) (s : State) : (sampledState d celsius s).power =
    if (die d s).band.toNat < 15 ∧ bandOf celsius = 15 then { s.power with hot := true } else s.power := by
  have hw : (if (die d s).band.toNat < bandOf celsius then wake s else s).power = s.power := by
    split
    · exact (wake_frame s).2.2.2
    · rfl
  unfold sampledState
  dsimp only
  split
  · simp only [signalPf, send_power, modPower, modDie_power, hw]
  · rw [modDie_power, hw]

theorem sampledState_st (d : Nat) (celsius : Int) (s : State) : (sampledState d celsius s).power.st = s.power.st := by
  rw [sampledState_power]
  split <;> rfl

/-! ## The deadline and the end of Retention entry (19 R438) -/

theorem abandonColls_nil {r : Nat} {s : State} (h : (rink r s).colls.cells = []) : abandonColls r s = s := by
  unfold abandonColls
  rw [h]; rfl

/-- A rink without a job only switches worlds. -/
theorem deadlineRink_idle {r : Nat} {s : State} (hc : (rink r s).colls.cells = []) (h : (rink r s).work.running = none) :
    deadlineRink r s = worldSwitch r s := by
  simp [deadlineRink, abandonColls_nil hc, h]

/-- A job that stands at a gate is written from its checkpoint. -/
theorem deadlineRink_saves {r k : Nat} {x : Bool} {c : Checkpoint} {s t : State} (hc : (rink r s).colls.cells = [])
    (h : (rink r s).work.running ≠ none) (hp : (rink r s).recov.checkpoint = some c) (hs : seqSite r s = some (k, x))
    (hg : stoppedAtGate r s = true)
    (hj : saveJob r c.sLive.toNat c.aLive.toNat c.pos.toNat (loadCheckpoint (site k s).now c (ctxOf (site k s) x)) s = some t) :
    deadlineRink r s = t := by
  have hr : (rink r s).work.running.isNone = false := Option.isNone_eq_false_iff.2 (Option.isSome_iff_ne_none.2 h)
  simp [deadlineRink, abandonColls_nil hc, hr, hp, hs, hg, hj]

theorem execRetentionDeadline_one {r : Nat} {q : Rink} {s : State} (he : s.power.st = .entering)
    (h : s.rinks.cells.filter (·.2.valid) = [(r, q)]) : execRetentionDeadline s = .next (deadlineRink r s) := by
  unfold execRetentionDeadline
  rw [if_pos he, h]; rfl

/-- `t` is `s` but for marks on the collectives of its rinks. -/
structure CollsOnly (s t : State) : Prop where
  rest : t = { s with rinks := t.rinks }
  rinks : ∀ r, { rink r t with colls := (rink r s).colls } = rink r s

theorem CollsOnly.refl (s : State) : CollsOnly s s := ⟨rfl, fun _ => rfl⟩

theorem CollsOnly.trans {s t u : State} (h : CollsOnly s t) (h' : CollsOnly t u) : CollsOnly s u := by
  refine ⟨by rw [h'.rest, h.rest], fun r => ?_⟩
  rw [← h.rinks r, ← h'.rinks r]

theorem CollsOnly.mapVals {s t : State} {f : Nat → Rink → Rink} (ht : t = { s with rinks := s.rinks.mapVals f })
    (h0 : ∀ r, f r Rink.reset = Rink.reset) (hf : ∀ r q, { f r q with colls := q.colls } = q) : CollsOnly s t := by
  subst ht
  exact ⟨rfl, fun r => by rw [rink_mapVals (h0 r) rfl, hf]⟩

theorem loseFlits_collsOnly (n : Nat) (s : State) : CollsOnly s (loseFlits n s) := by
  unfold loseFlits
  dsimp only
  split
  · exact .refl s
  · exact .mapVals rfl (fun _ => rfl) fun _ _ => rfl

/-- The flits that go down with the ports mark collectives as lost, and change nothing else. -/
theorem losePorts_collsOnly (s : State) : CollsOnly s (losePorts s) := by
  unfold losePorts
  induction List.range 12 generalizing s with
  | nil => exact .refl s
  | cons n l ih =>
    refine CollsOnly.trans ?_ (ih _)
    dsimp only
    split
    · exact .refl s
    · exact loseFlits_collsOnly n s

theorem ctlOf_reset (h : Nat) : (ctlOf Site.reset h).running = false := by
  unfold ctlOf
  split <;> rfl

theorem coldSite_stopped (c : Site) (h : Nat) : (ctlOf (coldSite c) h).running = false := by
  unfold ctlOf
  split <;> rfl

/-- What a core keeps through a warm reset or Off: its retirement bits. -/
def bareSite (c : Site) : Site := { Site.reset with tm := { Tm.reset with retired := c.tm.retired } }

theorem bareSite_stopped (c : Site) (h : Nat) : (ctlOf (bareSite c) h).running = false := ctlOf_reset h

theorem execRetentionComplete_off {us : Nat} {s : State} (he : s.power.st = .entering) (h : ∀ e ∈ s.rinks.cells, e.2.work.running = none) :
    execRetentionComplete us s = .next (modPower (fun p => { p with st := if p.resumeAsked then .resuming else .retention, entryUs := us })
      { losePorts s with sites := s.sites.mapVals fun _ c => coldSite c, dies := s.dies.mapVals fun _ d => coldDie d, atomics := Table.empty,
                         views := Table.empty, moves := [] }) := by
  refine if_neg ?_
  rintro (hn | hr)
  · exact hn he
  · obtain ⟨e, hm, hs⟩ := List.any_eq_true.1 hr
    simp [h e hm] at hs

theorem execRetentionComplete_stays {us : Nat} {s : State} (h : s.power.st ≠ .entering ∨ ∃ e ∈ s.rinks.cells, e.2.work.running ≠ none) :
    execRetentionComplete us s = .next s := by
  refine if_pos (h.imp_right fun ⟨e, hm, hr⟩ => List.any_eq_true.2 ⟨e, hm, ?_⟩)
  simpa [Option.isSome_iff_ne_none] using hr

/-! ## Resumption (19 R440) -/

theorem askResume_retention {s : State} (h : s.power.st = .retention) :
    askResume s = modPower (fun p => { p with st := .resuming, resumeAsked := false }) s := by simp only [askResume, h]

theorem askResume_entering {s : State} (h : s.power.st = .entering) : askResume s = modPower (fun p => { p with resumeAsked := true }) s := by
  simp only [askResume, h]

theorem askResume_stays {s : State} (h : s.power.st ≠ .retention) (h' : s.power.st ≠ .entering) : askResume s = s := by
  unfold askResume
  split
  · contradiction
  · contradiction
  · rfl

/-- The state as RETENTION_RESUME leaves it: the idle operating point in force, the dies at band 15, the ports that are enabled retraining. -/
def resumedState (s : State) : State :=
  let s1 := modPower (fun p => { p with
    st := .run, resumeAsked := false, idleBeats := Table.fill 72 0, cur := p.idle, target := p.idle, fnow := pointFreq p p.idle, vnow := pointVolt p p.idle,
    ramping := false, slew := 0 }) s
  { s1 with dies := s1.dies.mapVals fun _ d =>
    { d with band := 15, falling := false, target := 0, below := 0,
             ports := d.ports.mapVals fun _ p => if p.en then { p with st := 1 } else p } }

theorem execRetentionResume_runs {s : State} (h : s.power.st = .resuming) : execRetentionResume s = .next (resumedState s) :=
  if_neg (not_not.2 h)

/-- TBAND of every die is at band 15 after a resumption (10 R269). -/
theorem resumedState_band (d : Nat) (s : State) : (die d (resumedState s)).band = 15 := by
  show (lookupKey Die.reset d (List.map _ s.dies.cells)).band = 15
  induction s.dies.cells with
  | nil => rfl
  | cons c cs ih =>
    simp only [List.map_cons, lookupKey]
    split
    · rfl
    · exact ih

theorem restedLong_iff {p : Power} : restedLong p = true ↔ ∀ e ∈ p.idleBeats.cells, 4096 ≤ e.2 := by simp [restedLong]

/-- Settles O48: each event by the state of the power in which it comes. -/
theorem powerStateEvents : Obligations.PowerStateEvents := by
  unfold Obligations.PowerStateEvents
  intro s d us celsius p band rested sampled enters resumes
  have hrest : restedLong p = true ↔ rested := restedLong_iff
  have hb : bandOf celsius ≤ 15 := bandOf_le celsius
  have hents (i : Instr) (cause : Nat) (hi : exec i s = .next (enterRetention cause s)) : enters i cause := by
    refine ⟨fun h => ⟨_, hi, ?_⟩, fun h => hi.trans (congrArg Outcome.next (enterRetention_stays ?_))⟩
    · rw [(enterRetention_enters h).1]
      exact ⟨rfl, rfl, rfl⟩
    · rintro (e | e | e) <;> rcases h with h | h | h <;> cases e.symm.trans h
  have hress (i : Instr) (hi : exec i s = .next (askResume s)) : resumes i := by
    refine ⟨fun h => ⟨_, hi, ?_⟩, fun h => ⟨_, hi, ?_⟩, fun h h' => hi.trans (congrArg Outcome.next (askResume_stays h h'))⟩
    · rw [askResume_retention h]
      exact ⟨rfl, rfl, rfl⟩
    · rw [askResume_entering h]
      exact ⟨h, rfl⟩
  refine ⟨⟨_, execTemperatureSample_eq d celsius s, ?_⟩, fun h hr => ⟨_, congrArg Outcome.next (if_pos ⟨h, hrest.2 hr⟩), rfl, rfl, rfl⟩,
    fun h => congrArg Outcome.next (if_neg fun ⟨h1, h2⟩ => h ⟨h1, hrest.1 h2⟩), fun h => ⟨_, congrArg Outcome.next (if_pos h), rfl, rfl, rfl⟩,
    fun h => congrArg Outcome.next (if_neg h), hents _ _ rfl, hents _ _ rfl, fun h => congrArg Outcome.next (if_neg h),
    fun r q he hq hrq hc => ?_, fun he hn => ?_, fun h => execRetentionComplete_stays h, hress _ rfl,
    fun h => hress _ (congrArg Outcome.next (if_pos h)), fun h => congrArg Outcome.next (if_neg (Bool.eq_false_iff.1 h)), fun h => ?_, ?_, ?_⟩
  · have hsampled : (if 105 ≤ celsius then enterRetention 3 (sampledState d celsius s) else sampledState d celsius s).dies =
        (sampledState d celsius s).dies := by
      split
      · exact enterRetention_dies ..
      · rfl
    rw [die, hsampled, ← die, sampledState_die]
    refine ⟨fun h => sampleBand_rise hb h, fun h => sampleBand_fall hb h, fun h h15 => ?_, fun hc hs => ?_, fun hc => ?_⟩
    · have hhot : (sampledState d celsius s).power.hot = true := by rw [sampledState_power, if_pos ⟨h, h15⟩]
      split
      · rw [enterRetention_hot, hhot]
      · exact hhot
    · rw [if_pos hc, (enterRetention_enters ((sampledState_st d celsius s).symm ▸ hs)).1]
      exact ⟨rfl, rfl⟩
    · rw [if_neg (Int.not_le.2 hc), sampledState_st]
  · subst hrq
    refine ⟨fun hr => ?_, fun c k x hr hp hs hg t ht => ?_⟩
    · exact (execRetentionDeadline_one he hq).trans (congrArg Outcome.next (deadlineRink_idle hc hr))
    · exact (execRetentionDeadline_one he hq).trans (congrArg Outcome.next (deadlineRink_saves hc hr hp hs hg ht))
  · refine ⟨_, execRetentionComplete_off he hn, ?_⟩
    have hlost := losePorts_collsOnly s
    generalize losePorts s = u at hlost ⊢
    obtain ⟨hu, hrinks⟩ := hlost
    have hpower : u.power = p := by rw [hu]
    rw [modPower, hpower]
    refine ⟨rfl, rfl, rfl, rfl, by rw [hu], by rw [hu], hrinks, by rw [hu], by rw [hu], fun k => ?_⟩
    rw [site_mapVals (f := coldSite) (s := s) rfl rfl]
    exact ⟨rfl, rfl, rfl, coldSite_stopped _⟩
  · exact ⟨_, execRetentionResume_runs h, rfl, rfl, rfl, rfl, rfl, fun d => resumedState_band d s, rfl, rfl⟩
  · refine ⟨_, rfl, rfl, rfl, rfl, rfl, rfl, rfl, fun k => ?_⟩
    rw [site_mapVals (f := bareSite) (s := s) rfl rfl]
    exact ⟨rfl, rfl, rfl, bareSite_stopped _⟩
  · refine ⟨_, rfl, rfl, rfl, rfl, rfl, rfl, rfl, rfl, rfl, fun k => ?_⟩
    rw [site_mapVals (f := bareSite) (s := s) rfl rfl]
    exact ⟨rfl, bareSite_stopped _⟩

end Sys2Proof.Machine

/-! # The host and the PF through the bus (11 R294, R298, 13 R326, 14 R342, R360, 18 R412) -/

namespace Sys2Proof.Machine

open Host (Outcome)

/-! ## Numbers as bytes and fields -/

@[simp] theorem length_leBytes (n v : Nat) : (leBytes n v).length = n := by
  induction n generalizing v with
  | zero => rfl
  | succ n ih => simp [leBytes, ih]

/-- The bytes of a number read back as the number, modulo what they hold. -/
theorem leNat_leBytes (n v : Nat) : leNat (leBytes n v) = v % 256 ^ n := by
  induction n generalizing v with
  | zero => simp [leBytes, leNat, Nat.mod_one]
  | succ n ih =>
    rw [leBytes, leNat, ih, BitVec.toNat_ofNat]
    show v % 256 + 256 * (v / 256 % 256 ^ n) = v % 256 ^ (n + 1)
    rw [Nat.pow_succ', Nat.mod_mul]

theorem leNat_leBytes_word (w : Word) : leNat (leBytes 8 w.toNat) = w.toNat := by
  rw [leNat_leBytes]
  exact Nat.mod_eq_of_lt w.isLt

theorem nat64_toNat (w : Word) : nat64 w.toNat = w := BitVec.ofNat_toNat ..

theorem map_nth_range {α : Type} (d : α) (l : List α) : (List.range l.length).map (nth d l) = l := by
  refine List.ext_getElem (by simp) fun i _ h => ?_
  simp [nth, h]

/-! ## Completions of host reads (11 R298) -/

/-- A zero-length read has come back. -/
def readBack (k : Nat) (x : Side) (s : State) : State :=
  modSite k (modCtx x fun v => { v with buf := { v.buf with hostReads := v.buf.hostReads - 1 } }) s

theorem ctxOf_readBack (k : Nat) (x : Side) (s : State) : ctxOf (site k (readBack k x s)) x =
    { ctxOf (site k s) x with buf := { (ctxOf (site k s) x).buf with hostReads := (ctxOf (site k s) x).buf.hostReads - 1 } } := by
  simp [readBack]

theorem hostReadCompletion_flush {k : Nat} {x ok : Bool} {s : State} (h : (ctxOf (site k s) x).buf.hostReads ≠ 0) :
    execHostReadCompletion k x ok s =
      .next (if ok then readBack k x s else asCtx k x (takeTrap false 0x1B 0 true) (readBack k x s)) := if_pos h

theorem hostReadCompletion_fetch {k a : Nat} {x ok : Bool} {s : State} (h : (ctxOf (site k s) x).buf.hostReads = 0)
    (hf : fetchNext k x true s = some a) : execHostReadCompletion k x ok s =
      .next (if ok then modSite k (modCtx x (if fetchLength (ctxOf (site k s) x) a = 0 then dropHalf a
          else putHalf a (s.host.readBytes a (fetchLength (ctxOf (site k s) x) a)))) s
        else failFetch k x a (.trap 0x1B 0) s) := by
  simp only [execHostReadCompletion, h, hf, ne_eq, not_true_eq_false, if_false]

theorem hostReadCompletion_load {k f addr : Nat} {x ok : Bool} {a : Access} {s : State} (h : (ctxOf (site k s) x).buf.hostReads = 0)
    (hf : fetchNext k x true s = none) (hl : hostLoad k x s = some a) (ht : a.target = .hostBus f addr) :
    execHostReadCompletion k x ok s =
      .next (if ok then finishAccess k x a (s.host.readBytes addr a.len) false s else asCtx k x (takeTrap false 0x1B 0 true) (dropLoad k x a s)) := by
  simp only [execHostReadCompletion, h, hf, hl, ht, ne_eq, not_true_eq_false, if_false]

/-- The word that waits to issue is fetched no more. -/
def fetchStopped (k : Nat) (x : Side) (s : State) : State := modSite k (modCtx x fun v => { v with fetching := false, ahead := [] }) s

/-- A failed fetch of the word that waits to issue raises the fetch fault on that word. -/
theorem failFetch_waiting {k : Nat} {x : Side} {s : State} (h : (ctxOf (site k s) x).fetching = true) (c i : Nat) :
    failFetch k x (ctxOf (site k s) x).pc.toNat (.trap c i) s = asCtx k x (takeTrap false 0x0A 0 false) (fetchStopped k x s) := by
  unfold failFetch
  dsimp only
  rw [h, beq_self_eq_true, Bool.and_self, if_pos rfl]
  rfl

theorem hostReadCompletion_fetch_fails {k : Nat} {x : Side} {s : State} (h : (ctxOf (site k s) x).buf.hostReads = 0)
    (hf : fetchNext k x true s = some (ctxOf (site k s) x).pc.toNat) (hw : (ctxOf (site k s) x).fetching = true) :
    execHostReadCompletion k x false s = .next (asCtx k x (takeTrap false 0x0A 0 false) (fetchStopped k x s)) :=
  (hostReadCompletion_fetch h hf).trans (congrArg Outcome.next (failFetch_waiting hw 0x1B 0))

/-- Where no older store meets the load its bytes are those that came. -/
theorem overlay_none {b : Buffers} {a : Access} {m : List Byte} (h : olderStores b a = []) (hm : m.length = a.len) : overlay b a m = m := by
  have hf (i : Nat) : forwarded b a i = none := by simp [forwarded, h]
  unfold overlay
  simp only [hf, Option.getD_none]
  rw [← hm]
  exact map_nth_range 0 m

theorem setPending_s (kind : LoadKind) (d : Nat) (b : Bool) (x : Ctx) : (setPending kind d b x).s = x.s ∧ (setPending kind d b x).buf = x.buf := by
  unfold setPending
  split
  · exact ⟨rfl, rfl⟩
  · split <;> exact ⟨rfl, rfl⟩

/-- An unsigned load that ends: its register takes the value and it leaves the buffer. -/
theorem finishLoad_unsigned {now lat dst : Nat} {bytes : List Byte} {tag : Bool} {x : Ctx} (h0 : 0 < dst) (h : dst < 32) :
    (finishLoad now lat .unsigned dst bytes tag x).s.get 0 dst = .ofNat 64 (leNat bytes) ∧
      (finishLoad now lat .unsigned dst bytes tag x).buf = x.buf := by
  have hd : (BitVec.ofNat 5 dst).toNat = dst := by
    rw [BitVec.toNat_ofNat]
    exact Nat.mod_eq_of_lt (by omega)
  have hne : BitVec.ofNat 5 dst ≠ 0 := fun e => by
    rw [e] at hd
    exact absurd hd (Nat.ne_of_lt h0)
  constructor
  · have := getS_putS_same hne now lat (.ofNat 64 (leNat bytes)) (setPending .unsigned dst false x)
    rw [getS, if_neg hne, hd] at this
    exact this
  · show (putS now lat (.ofNat 5 dst) _ _).buf = x.buf
    rw [putS_buf, (setPending_s ..).2]

theorem ctxOf_finishAccess {k : Nat} {x : Side} {a : Access} {mem : List Byte} {tag : Bool} {s : State} (hk : a.kind = .unsigned)
    (ho : olderStores (ctxOf (site k s) x).buf a = []) (hm : mem.length = a.len) (h0 : 0 < a.dst) (h : a.dst < 32) :
    (ctxOf (site k (finishAccess k x a mem tag s)) x).s.get 0 a.dst = .ofNat 64 (leNat mem) ∧
      (ctxOf (site k (finishAccess k x a mem tag s)) x).buf.loads = (ctxOf (site k s) x).buf.loads.drop 1 := by
  unfold finishAccess
  rw [site_modSite_same, ctxOf_modCtx, hk, overlay_none ho hm]
  obtain ⟨hv, hb⟩ := finishLoad_unsigned (now := (site k s).now) (lat := a.lat) (bytes := mem)
    (tag := a.ldc && overlayTag (ctxOf (site k s) x).buf a tag)
    (x := { ctxOf (site k s) x with buf := { (ctxOf (site k s) x).buf with loads := (ctxOf (site k s) x).buf.loads.drop 1 } }) h0 h
  exact ⟨hv, congrArg Buffers.loads hb⟩

/-! ## What a memory counter changes (15 R372) -/

/-- `t` is `s` but for counters of its dies. -/
def CountsOnly (s t : State) : Prop := t = { s with dies := t.dies }

theorem CountsOnly.refl (s : State) : CountsOnly s s := rfl

theorem CountsOnly.trans {s t u : State} (h : CountsOnly s t) (h' : CountsOnly t u) : CountsOnly s u := by
  unfold CountsOnly at *
  rw [h', h]

theorem countShared_countsOnly (d u i fn n : Nat) (s : State) : CountsOnly s (countShared d u i fn n s) := by
  unfold countShared
  dsimp only
  split <;> rfl

theorem countMem_countsOnly (fn ma i : Nat) (s : State) : CountsOnly s (countMem fn ma i s) := by
  unfold countMem
  dsimp only
  split
  · exact .refl s
  · split <;> exact countShared_countsOnly ..

theorem foldl_countMem_countsOnly (fn ma i : Nat) (l : List Nat) (s : State) : CountsOnly s (l.foldl (fun s _ => countMem fn ma i s) s) := by
  induction l generalizing s with
  | nil => exact .refl s
  | cons _ l ih => exact (countMem_countsOnly fn ma i s).trans (ih _)

/-! ## The PF's plaintext accesses of device memory (14 R339, R350) -/

/-- An access within one granule is one piece. -/
theorem piecesOf_one {ia n : Nat} (h0 : 0 < n) (h : ia % 256 + n ≤ 256) : piecesOf ia n = [(ia, n)] := by
  have hk : min n (256 - ia % 256) = n := by omega
  have hn : ¬n = 0 := by omega
  simp only [piecesOf, granulePieces, if_neg hn, hk, Nat.sub_self, if_true]

theorem barMemory_barMem {ia : Nat} (h : ia < 2 ^ 48) : barMemory (BitVec.ofNat 64 (2 ^ 63 + ia)).toNat = some ia := by
  have hn : (BitVec.ofNat 64 (2 ^ 63 + ia)).toNat = 2 ^ 63 + ia := by
    rw [BitVec.toNat_ofNat]
    exact Nat.mod_eq_of_lt (by omega)
  have hb : bitOf (2 ^ 63 + ia) 63 = true := by
    have hd : (2 ^ 63 + ia) / 2 ^ 63 = 1 := by omega
    rw [bitOf, hd]; rfl
  rw [hn, barMemory, hb, if_pos rfl]
  exact congrArg some (by omega)

theorem barTarget_pf {ia : Nat} {w : Bool} {s : State} (h : inHBM ia = true) : barTarget 0 ia w s = some (ia, none) := by
  simp [barTarget, h]

theorem inHBM_lt {ia : Nat} (h : inHBM ia = true) : ia < 2 ^ 48 := by
  have := of_decide_eq_true h
  omega

section Plain

variable {s : State} {ma n : Nat}

theorem treadTrees_keys (ma n : Nat) (s : State) : treadTrees ma n s = { s with keys := (treadTrees ma n s).keys } := by
  unfold treadTrees
  split <;> rfl

/-- Marking lines of trees as overwritten pins and frees no leaf. -/
theorem metLeaves_treadTrees (h : metLeaves ma n s = []) : metLeaves ma n (treadTrees ma n s) = [] := by
  rw [treadTrees_keys]
  exact h

/-- A granule that holds no ciphertext was never written, or in plaintext. -/
theorem sealOf_plaintext (hk : ∀ q e g, sealOf s ma ≠ some (.keyed q e g)) : sealOf s ma = none ∨ sealOf s ma = some .plain := by
  cases hs : sealOf s ma with
  | none => exact .inl rfl
  | some q =>
    cases q with
    | plain => exact .inr rfl
    | keyed q e g => exact absurd hs (hk q e g)

/-- Where nothing changes its bytes, a plaintext read gives the bytes of memory. -/
theorem plainBytes_ordinary (hk : ∀ q e g, sealOf s ma ≠ some (.keyed q e g)) (ht : ∀ i < n, treeLine s (ma + i) = none) :
    plainBytes s ma n = s.mem.readBytes ma n := by
  have hmap : (List.range n).map (nth 0 (s.mem.readBytes ma n)) = s.mem.readBytes ma n := by
    have := map_nth_range 0 (s.mem.readBytes ma n)
    rwa [Mem.length_readBytes] at this
  unfold plainBytes
  rcases sealOf_plaintext hk with hs | hs <;>
  · simp only [hs]
    split
    · refine Eq.trans (List.map_congr_left fun i hi => ?_) hmap
      rw [ht i (List.mem_range.1 hi)]
    · rfl

theorem offRead_ordinary (h : ordinaryGranule s none ma ma n) : offRead s none ma ma n = some (s.mem.readBytes ma n) := by
  obtain ⟨hs, he, hk, -, ht⟩ := h
  unfold offRead
  rw [hs, he, if_neg (by decide)]
  exact congrArg some (plainBytes_ordinary hk ht)

/-- A plaintext write that meets nothing puts its bytes into memory. -/
theorem offWrite_ordinary {data : List Byte} (h : ordinaryGranule s none ma ma data.length) :
    ∃ t, offWrite none ma ma data s = some t ∧ t.mem = s.mem.writeBytes ma data := by
  obtain ⟨-, he, hk, hl, -⟩ := h
  have hg : guardLeaves ma data (treadTrees ma data.length s) = (data, treadTrees ma data.length s) := by
    simp [guardLeaves, metLeaves_treadTrees hl]
  unfold offWrite
  rw [he, if_neg (by simp [keyPasses])]
  refine ⟨_, rfl, ?_⟩
  rcases sealOf_plaintext hk with hs | hs <;> simp only [hs, hg]

end Plain

/-- A read by the PF of one granule: its bytes go back to the host. -/
theorem hostReads_ordinary {s : State} {ia n : Nat} (hb : inHBM ia = true) (h0 : 0 < n) (h1 : ia % 256 + n ≤ 256)
    (h : ordinaryGranule s none ia ia n) : ∃ t, CountsOnly s t ∧
      hostReads 0 (BitVec.ofNat 64 (2 ^ 63 + ia)) n s = send (.hostRead 0 (s.mem.readBytes ia n)) t := by
  have hr : barRead 0 [(ia, n)] s = (some (s.mem.readBytes ia n), (memErrors 1 ia s).foldl (fun s _ => countMem 0 ia 3 s) (countMem 0 ia 0 s)) := by
    simp [barRead, barTarget_pf hb, hostSees, offRead_ordinary h]
  refine ⟨_, (countMem_countsOnly 0 ia 0 s).trans (foldl_countMem_countsOnly 0 ia 3 (memErrors 1 ia s) _), ?_⟩
  unfold hostReads
  rw [barMemory_barMem (inHBM_lt hb)]
  simp only [piecesOf_one h0 h1, hr, Option.getD_some]

theorem hostWrites_ordinary {s : State} {ia : Nat} {data : List Byte} {relaxed : Bool} (hb : inHBM ia = true) (h0 : 0 < data.length)
    (h1 : ia % 256 + data.length ≤ 256) (h : ordinaryGranule s none ia ia data.length) :
    (hostWrites 0 (BitVec.ofNat 64 (2 ^ 63 + ia)) data relaxed s).mem = s.mem.writeBytes ia data := by
  obtain ⟨t, ht, hm⟩ := offWrite_ordinary h
  have hc : (countMem 0 ia 1 t).mem = t.mem := by rw [countMem_countsOnly 0 ia 1 t]
  unfold hostWrites
  rw [barMemory_barMem (inHBM_lt hb)]
  simp [piecesOf_one h0 h1, barWrite, barTarget_pf hb, ht, noteStored, hc, hm]

/-- A memory after a write of bytes, byte by byte. -/
theorem Mem.read_writeBytes (m : Mem) (a b : Nat) (l : List Byte) :
    (m.writeBytes a l).read b = if a ≤ b ∧ b < a + l.length then nth 0 l (b - a) else m.read b := by
  split
  · next h =>
    have hi : b - a < l.length := by omega
    have := Mem.read_writeBytes_in m a (b - a) l hi
    rw [Nat.add_sub_cancel' h.1] at this
    rw [this, nth, List.getD_eq_getElem _ _ hi]
  · next h => exact Mem.read_writeBytes_out m a b l (by omega)

/-! ## Requests of the host (11 R294, R297) -/

theorem takeRequest_waits {q : HostRequest} {s : State} (h : q.waits s.held s = true) : takeRequest q s = { s with held := s.held ++ [q] } := if_pos h

theorem takeRequest_serves {q : HostRequest} {s : State} (h : q.waits s.held s = false) : takeRequest q s = q.serve s := if_neg (by simp [h])

/-- The request that a supported AtomicOp queues at the unit of its location. -/
def fetchAddReq (fn ma ia : Nat) (key : Option Nat) (dbl : Bool) (v : Word) : AtomReq :=
  { requester := 1024 + fn, op := .add, dbl := dbl, space := 0, ma := ma, ia := ia, key := key, operand := v, expected := 0, site := 0, ctx := false,
    dst := 0, wanted := true }

theorem hostAtomics_fetchAdd {fn ia ma : Nat} {key : Option Nat} {dbl : Bool} {v : Word} {s : State} (hi : ia < 2 ^ 48)
    (ht : barTarget fn ia true s = some (ma, key)) (ha : ia % (if dbl then 8 else 4) = 0) :
    hostAtomics fn (.fetchAdd dbl v) (BitVec.ofNat 64 (2 ^ 63 + ia)) s =
      let bank := Config.bankOf (ma / 256)
      let q := s.atomics.get AtomBank.reset bank
      { s with atomics := s.atomics.put bank { q with q := q.q ++ [fetchAddReq fn ma ia key dbl v] } } := by
  unfold hostAtomics
  rw [barMemory_barMem hi]
  simp only [hostOp, ht]
  exact if_neg (not_not.2 ha)

/-! ## Registers of BAR0 (13 R326) -/

/-- An address below device memory names a register. -/
theorem barMemory_register {off : Nat} (h : off < 65536) : barMemory (BitVec.ofNat 64 off).toNat = none ∧ (BitVec.ofNat 64 off).toNat % 65536 = off := by
  have hn : (BitVec.ofNat 64 off).toNat = off := by
    rw [BitVec.toNat_ofNat]
    exact Nat.mod_eq_of_lt (by omega)
  have hb : bitOf off 63 = false := by
    have hd : off / 2 ^ 63 = 0 := by omega
    rw [bitOf, hd]; rfl
  rw [hn, barMemory, hb]
  exact ⟨rfl, Nat.mod_eq_of_lt h⟩

/-- A write of a register waits for no page, and behind nothing where nothing waits. -/
theorem write_waits_not {fn : Nat} {addr : Word} {data : List Byte} {relaxed : Bool} {s : State} (h : barMemory addr.toNat = none) (hs : s.held = []) :
    HostRequest.waits (.write fn addr data relaxed) s.held s = false := by
  simp [HostRequest.waits, HostRequest.moves, h, hs]

theorem read_waits_not {fn len : Nat} {addr : Word} {s : State} (h : barMemory addr.toNat = none) (hs : s.held = []) :
    HostRequest.waits (.read fn addr len) s.held s = false := by
  simp [HostRequest.waits, HostRequest.moves, h, hs]

theorem registerWrite_served {fn off : Nat} {data : List Byte} {relaxed : Bool} {s : State} (h : off < 65536) (hs : s.held = []) :
    takeRequest (.write fn (BitVec.ofNat 64 off) data relaxed) s = hostWrites fn (BitVec.ofNat 64 off) data relaxed s :=
  takeRequest_serves (write_waits_not (barMemory_register h).1 hs)

theorem registerRead_served {fn off len : Nat} {s : State} (h : off < 65536) (hs : s.held = []) :
    takeRequest (.read fn (BitVec.ofNat 64 off) len) s = hostReads fn (BitVec.ofNat 64 off) len s :=
  takeRequest_serves (read_waits_not (barMemory_register h).1 hs)

/-- A write of one doubleword of BAR0 is a write of its register; a PF's write may wake the device. -/
theorem hostWrites_register {fn off : Nat} {v : Word} {relaxed : Bool} {s : State} (hf : fn ≤ 64) (h : off < 65536) (h8 : off % 8 = 0) :
    ∃ u, hostWrites fn (BitVec.ofNat 64 off) (leBytes 8 v.toNat) relaxed s = writeBar fn off v.toNat relaxed u := by
  obtain ⟨hm, ho⟩ := barMemory_register h
  have hd : (leBytes 8 v.toNat).take 8 = leBytes 8 v.toNat := List.take_of_length_le (by simp)
  refine ⟨if fn = 0 then wake s else s, ?_⟩
  unfold hostWrites
  rw [hm]
  simp only [if_neg (Nat.not_lt.2 hf), ho]
  simp [writeBar0, h8, barWords, hd, leNat_leBytes_word]

theorem writeBar_jbase (fn v : Nat) (relaxed : Bool) (s : State) :
    (fnOf fn (writeBar fn 0x008 v relaxed s)).jbase = nat64 (v / 256 * 256) := by
  show (fnOf fn (modFn fn (fun f => { f with jbase := nat64 (v / 256 * 256) }) s)).jbase = _
  rw [fnOf_modFn_same]

/-- Where a register of slot `n` of BAR0 stands. -/
theorem slotOffset {n o : Nat} (hn : n < 8) (ho : o < 0x40) :
    (0x200 ≤ 0x200 + o + 0x40 * n ∧ 0x200 + o + 0x40 * n < 0x400) ∧ (0x200 + o + 0x40 * n - 0x200) / 0x40 = n ∧
      (0x200 + o + 0x40 * n - 0x200) % 0x40 = o := by omega

theorem slot_modSlot (fn n : Nat) (g : JobSlot → JobSlot) (s : State) :
    (fnOf fn (modSlot fn n g s)).slots.get JobSlot.reset n = g ((fnOf fn s).slots.get JobSlot.reset n) := by
  rw [modSlot, fnOf_modFn_same]
  exact Table.get_put_same ..

theorem writeBar_jgraph {fn n v : Nat} {relaxed : Bool} {s : State} (hn : n < 8) :
    ((fnOf fn (writeBar fn (0x200 + 0x40 * n) v relaxed s)).slots.get JobSlot.reset n).jgraph = nat64 v := by
  obtain ⟨hin, hix, hoff⟩ := slotOffset hn (o := 0) (by decide)
  simp only [Nat.add_zero] at hin hix hoff
  unfold writeBar
  rw [if_pos hin, hix, hoff]
  show ((fnOf fn (modSlot fn n (fun j => { j with jgraph := nat64 v }) s)).slots.get JobSlot.reset n).jgraph = _
  rw [slot_modSlot]

/-- A read of REFCNT clears it. -/
theorem hostReads_refcnt (fn : Nat) (s : State) : hostReads fn (BitVec.ofNat 64 0x030) 8 s =
    send (.hostRead fn (leBytes 8 (fnOf fn s).refcnt.toNat)) (modFn fn (fun f => { f with refcnt := 0 }) s) := by
  have hv : (nat64 (fnOf fn s).refcnt.toNat).toNat = (fnOf fn s).refcnt.toNat := by
    rw [nat64, BitVec.toNat_ofNat]
    exact Nat.mod_eq_of_lt ((fnOf fn s).refcnt.isLt.trans (by decide))
  have hb : readBarWords fn 1 0x030 s =
      (leBytes 8 (nat64 (fnOf fn s).refcnt.toNat).toNat ++ [], modFn fn (fun f => { f with refcnt := 0 }) s) := rfl
  have ht : ((leBytes 8 (fnOf fn s).refcnt.toNat ++ []).drop 0).take 8 = leBytes 8 (fnOf fn s).refcnt.toNat := by
    rw [List.append_nil, List.drop_zero]
    exact List.take_of_length_le (by simp)
  obtain ⟨hm, -⟩ := barMemory_register (off := 0x030) (by decide)
  unfold hostReads
  rw [hm]
  show send (.hostRead fn (((readBarWords fn 1 0x030 s).1.drop 0).take 8)) (readBarWords fn 1 0x030 s).2 = _
  rw [hb, hv, ht]

/-! ## Configuration space and the PF's registers (14 R360) -/

/-- The parts of a register's address. -/
structure RegAddr (a block inst off : Nat) : Prop where
  high : field a 63 32 = block
  block : field a 39 32 = block
  inst : field a 31 16 = inst
  off : a % 65536 = off
  low : a < 2 ^ 40

theorem regAddr {block inst off : Nat} (hb : block < 256) (hi : inst < 65536) (ho : off < 65536) :
    RegAddr (BitVec.ofNat 64 (block * 2 ^ 32 + inst * 2 ^ 16 + off)).toNat block inst off := by
  have hn : (BitVec.ofNat 64 (block * 2 ^ 32 + inst * 2 ^ 16 + off)).toNat = block * 2 ^ 32 + inst * 2 ^ 16 + off := by
    rw [BitVec.toNat_ofNat]
    exact Nat.mod_eq_of_lt (by omega)
  rw [hn]
  exact ⟨by unfold field; omega, by unfold field; omega, by unfold field; omega, by omega, by omega⟩

/-- Outside block 0 the PF reads configuration space. -/
theorem readReg_cfg {a block inst off : Nat} {s : State} (h : RegAddr a block inst off) (hb : block ≠ 0) : readReg .pf a s = readCfg .pf a s := by
  refine if_neg ?_
  rw [h.high]
  simp [hb]

theorem readReg_core {a k off : Nat} {s : State} (h : RegAddr a 1 (0x8000 + k) off) (hk : k < 288) : readReg .pf a s = readCore .pf k off s := by
  have hr : configReach s .pf a = true := by
    simp only [configReach, h.inst, h.block, decide_eq_true h.low, Bool.true_and]
    exact decide_eq_true (by omega)
  have hi : instanceOf .pf 1 (0x8000 + k) s = k := by
    simp only [instanceOf]
    omega
  rw [readReg_cfg h (by decide)]
  simp only [readCfg, hr, h.block, h.inst, h.off, hi, Bool.not_true, Bool.false_eq_true, if_false]

theorem readReg_trans {a fn off : Nat} {s : State} (h : RegAddr a 4 fn off) (hf : fn ≤ 64) : readReg .pf a s = readTrans fn off s := by
  have hr : configReach s .pf a = true := by
    simp only [configReach, h.inst, h.block, decide_eq_true h.low, Bool.true_and]
    simp [hf]
  have hi : instanceOf .pf 4 fn s = fn := if_neg (by omega)
  rw [readReg_cfg h (by decide)]
  simp only [readCfg, hr, h.block, h.inst, h.off, hi, Bool.not_true, Bool.false_eq_true, if_false]

theorem writeCfg_rink {who : Requester} {a n off v : Nat} {s : State} (h : RegAddr a 2 n off) (hn : n < 64) (hw : who = .pf ∨ who = .rink n) :
    writeCfg who a v s = writeRink who n off v s := by
  have hr : configReach s who a = true := by
    simp only [configReach, h.inst, h.block, decide_eq_true h.low, Bool.true_and]
    rcases hw with rfl | rfl <;> simp [hn]
  have hi : instanceOf who 2 n s = n := by
    rcases hw with rfl | rfl
    · rfl
    · exact if_neg (by omega)
  simp only [writeCfg, hr, h.block, h.inst, h.off, hi, Bool.not_true, Bool.false_eq_true, if_false]

/-- HVEC holds a word address and its bit 0 (18 R412); the rink and the PF write it alike. -/
theorem writeRink_hvec (who : Requester) (n v : Nat) (s : State) :
    writeRink who n 0x238 v s = modRecov n (fun w => { w with hvec := nat64 (field v 47 2 * 4 + v % 2) }) s := by
  unfold writeRink
  split <;> rfl

/-- JSAVE is the PF's to write (13 R326). -/
theorem writeJsave_slot {fn n v : Nat} {s : State} (hf : fn ≤ 64) (hn : n < 8) :
    ((fnOf fn (writeJsave fn (0x218 + 0x40 * n) v s)).slots.get JobSlot.reset n).jsave = nat64 (v / 256 * 256) := by
  obtain ⟨⟨h1, h2⟩, hix, hoff⟩ := slotOffset hn (o := 0x18) (by decide)
  unfold writeJsave
  rw [if_pos ⟨hf, h1, h2, hoff⟩, hix, slot_modSlot]

/-! ## Attestation (19 R442, R443) -/

/-- Bit `i` of a sum of distinct powers of two. -/
theorem testBit_sum_pow (p : Nat → Bool) (n i : Nat) : (((List.range n).map fun j => if p j then 2 ^ j else 0).sum).testBit i = (decide (i < n) && p i) ∧
    ((List.range n).map fun j => if p j then 2 ^ j else 0).sum < 2 ^ n := by
  induction n with
  | zero => simp
  | succ n ih =>
    obtain ⟨hbit, hlt⟩ := ih
    rw [List.range_succ, List.map_append, List.sum_append]
    have hs : ([n].map fun j => if p j then 2 ^ j else 0).sum = if p n then 2 ^ n else 0 := by simp
    rw [hs, Nat.pow_succ]
    cases hp : p n with
    | false =>
      refine ⟨?_, by simp only [Bool.false_eq_true, if_false]; omega⟩
      rw [if_neg Bool.false_ne_true, Nat.add_zero, hbit]
      by_cases hi : i = n
      · simp [hi, hp]
      · congr 1
        exact decide_eq_decide.2 (by omega)
    | true =>
      refine ⟨?_, by simp only [if_true]; omega⟩
      rw [if_pos rfl, ← Nat.or_two_pow_eq_add_of_lt hlt, Nat.testBit_or, hbit, Nat.testBit_two_pow]
      by_cases hi : i = n
      · simp [hi, hp]
      · have hlt' : i < n ↔ i < n + 1 := by omega
        simp [Ne.symm hi, hlt']

theorem validBits_testBit (s : State) {i : Nat} (h : i < 128) : (validBits s).testBit i = (keyOf i s).valid := by
  rw [validBits, (testBit_sum_pow (fun i => (keyOf i s).valid) 128 i).1, decide_eq_true h, Bool.true_and]

/-! ## Boot (19 R428, R441) -/

/-- What holds of the default and of every listed value holds of what a table gives. -/
theorem Table.get_of_cells {α : Type} {P : α → Prop} {d : α} (t : Table α) (hd : P d) (h : ∀ c ∈ t.cells, P c.2) (k : Nat) : P (t.get d k) := by
  unfold Table.get
  revert h
  induction t.cells with
  | nil => exact fun _ => hd
  | cons c cs ih =>
    intro h
    rw [List.forall_mem_cons] at h
    simp only [lookupKey]
    split
    · exact h.1
    · exact ih h.2

theorem lookupKey_zip_range {α : Type} (d : α) (l : List α) (b i : Nat) :
    lookupKey d (b + i) ((List.range' b l.length).zip l) = l.getD i d := by
  induction l generalizing b i with
  | nil => rfl
  | cons x xs ih =>
    rw [List.length_cons, List.range'_succ, List.zip_cons_cons, lookupKey]
    cases i with
    | zero => simp
    | succ i =>
      rw [if_neg (by simp), show b + (i + 1) = b + 1 + i by omega, ih]
      rfl

theorem Table.get_ofList {α : Type} (d : α) (l : List α) (i : Nat) : (Table.ofList l).get d i = l.getD i d := by
  have := lookupKey_zip_range d l 0 i
  rwa [Nat.zero_add, ← List.range_eq_range'] at this

/-- The values that qualification gives are in their range and in order. -/
theorem orderedPoints_get {lo hi : Nat} {ws : List Word} (h : lo ≤ hi) :
    (∀ i < ws.length, lo ≤ (orderedPoints lo hi ws).get 0 i ∧ (orderedPoints lo hi ws).get 0 i ≤ hi) ∧
      ∀ i, i + 1 < ws.length → (orderedPoints lo hi ws).get 0 i ≤ (orderedPoints lo hi ws).get 0 (i + 1) := by
  unfold orderedPoints
  have hrange : ∀ v ∈ ws.map (fun w => lo + w.toNat % (hi - lo + 1)), lo ≤ v ∧ v ≤ hi := by
    intro v hv
    obtain ⟨w, -, rfl⟩ := List.mem_map.1 hv
    have : w.toNat % (hi - lo + 1) < hi - lo + 1 := Nat.mod_lt _ (Nat.succ_pos _)
    omega
  have hlen : ((ws.map fun w => lo + w.toNat % (hi - lo + 1)).mergeSort (· ≤ ·)).length = ws.length := by simp
  have hsort := List.pairwise_mergeSort (le := fun a b : Nat => decide (a ≤ b)) (fun a b c => by simp; omega) (fun a b => by simp; omega)
    (ws.map fun w => lo + w.toNat % (hi - lo + 1))
  have hmem := fun v => (List.mergeSort_perm (ws.map fun w => lo + w.toNat % (hi - lo + 1)) (· ≤ ·)).mem_iff (a := v)
  generalize (ws.map fun w => lo + w.toNat % (hi - lo + 1)).mergeSort (· ≤ ·) = l at hlen hsort hmem
  rw [← hlen]
  refine ⟨fun i hi => ?_, fun i hi => ?_⟩
  · rw [Table.get_ofList, List.getD_eq_getElem _ _ hi]
    exact hrange _ ((hmem _).1 (List.getElem_mem hi))
  · rw [Table.get_ofList, Table.get_ofList, List.getD_eq_getElem _ _ hi, List.getD_eq_getElem _ _ (Nat.lt_of_succ_lt hi)]
    exact of_decide_eq_true (List.pairwise_iff_getElem.1 hsort i (i + 1) _ hi (Nat.lt_succ_self i))

/-- `t` is `s` but for the number of the values that the environment has given. -/
def FreshOnly (s t : State) : Prop := t = { s with fresh := t.fresh }

theorem FreshOnly.trans {s t u : State} (h : FreshOnly s t) (h' : FreshOnly t u) : FreshOnly s u := by
  unfold FreshOnly at *
  rw [h', h]

theorem freeWords_fresh (n : Nat) (s : State) : ∃ l t, freeWords n s = (l, t) ∧ l.length = n ∧ FreshOnly s t := by
  induction n generalizing s with
  | zero => exact ⟨[], s, rfl, rfl, rfl⟩
  | succ n ih =>
    obtain ⟨l, t, he, hl, ht⟩ := ih (freshWord s).2
    exact ⟨(freshWord s).1 :: l, t, by simp only [freeWords, he], congrArg (· + 1) hl, FreshOnly.trans (t := (freshWord s).2) rfl ht⟩

/-- What stage 1 loads: eight operating points, the trims of the place tables, and tables of the dies. -/
theorem loadTables_eq (s : State) : ∃ f v p : List Word, f.length = 8 ∧ v.length = 8 ∧ loadTables s = { s with
    dies := (loadTables s).dies, fresh := (loadTables s).fresh,
    power := { s.power with freq := orderedPoints 2000 4000 f, volt := orderedPoints 550 850 v },
    rinks := s.rinks.mapVals fun _ q => { q with place := Table.ofList (p.map trimOf) } } := by
  obtain ⟨t0, s1, h1, -, f1⟩ := freeWords_fresh 16 s
  obtain ⟨e0, s2, h2, -, f2⟩ := freeWords_fresh 16 s1
  obtain ⟨t1, s3, h3, -, f3⟩ := freeWords_fresh 16 s2
  obtain ⟨e1, s4, h4, -, f4⟩ := freeWords_fresh 16 s3
  obtain ⟨f, s5, h5, hf, f5⟩ := freeWords_fresh 8 s4
  obtain ⟨v, s6, h6, hv, f6⟩ := freeWords_fresh 8 s5
  obtain ⟨p, s7, h7, -, f7⟩ := freeWords_fresh 272 s6
  have hs : FreshOnly s s7 := f1.trans (f2.trans (f3.trans (f4.trans (f5.trans (f6.trans f7)))))
  refine ⟨f, v, p, hf, hv, ?_⟩
  unfold loadTables
  simp only [h1, h2, h3, h4, h5, h6, h7]
  rw [hs]
  rfl

/-- No entry of a place table that boot fills names a site. -/
theorem trimmed_place (p : List Word) (i : Nat) : ((Table.ofList (p.map trimOf)).get Place.reset i).v = false := by
  rw [Table.get_ofList, List.getD_eq_getElem?_getD, List.getElem?_map]
  cases p[i]? <;> rfl

/-- A rink as at reset but for the trims of its place table, which names no site. -/
def OnlyTrims (q : Rink) : Prop := { q with place := Rink.reset.place } = Rink.reset ∧ ∀ i, (q.place.get Place.reset i).v = false

theorem onlyTrims_reset : OnlyTrims Rink.reset := by
  refine ⟨rfl, Table.get_of_cells (P := fun e : Place => e.v = false) _ rfl fun c hc => ?_⟩
  obtain ⟨j, -, rfl⟩ := List.mem_map.1 hc
  rfl

theorem onlyTrims_trimmed (p : List Word) : OnlyTrims { Rink.reset with place := Table.ofList (p.map trimOf) } := ⟨rfl, trimmed_place p⟩

/-- After boot every rink has only its trims. -/
theorem bootedRink {p : List Word} {t : State} (h : t.rinks = State.reset.rinks.mapVals fun _ q => { q with place := Table.ofList (p.map trimOf) })
    (r : Nat) : OnlyTrims (rink r t) := by
  rw [rink, h]
  refine Table.get_of_cells _ onlyTrims_reset (fun c hc => ?_) r
  obtain ⟨e, hm, rfl⟩ := List.mem_map.1 hc
  obtain ⟨j, -, rfl⟩ := List.mem_map.1 hm
  exact onlyTrims_trimmed p

theorem execBoot_refused0 {i0 i1 qual : List Byte} {s : State} (h : stageStatus 0 i0 ≠ 0) :
    execBoot i0 i1 qual s = .next { offState s with boot := { (offState s).boot with stat := stageStatus 0 i0 } } := by
  simp only [execBoot, if_pos h]

theorem execBoot_refused1 {i0 i1 qual : List Byte} {s : State} (h0 : stageStatus 0 i0 = 0) (h : stageStatus 1 i1 ≠ 0) :
    execBoot i0 i1 qual s = .next { offState s with boot := { (offState s).boot with stat := stageStatus 1 i1 } } := by
  simp only [execBoot, if_neg (not_not.2 h0), if_pos h]

/-- The measurements of a boot whose stages are accepted (19 R442). -/
def measured (i0 i1 qual : List Byte) : Boot :=
  { stat := 0, meas0 := sha512 i0, meas1 := sha512 i1, meas2 := sha512 qual, meas3 := List.replicate 64 0, endorsement := [] }

theorem execBoot_accepted {i0 i1 qual : List Byte} {s : State} (h0 : stageStatus 0 i0 = 0) (h1 : stageStatus 1 i1 = 0) :
    execBoot i0 i1 qual s = .next (loadTables { offState s with
      power := Power.reset, boot := { measured i0 i1 qual with endorsement := endorsementOf (measured i0 i1 qual) } }) := by
  simp only [execBoot, h0, h1, ne_eq, not_true_eq_false, if_false]
  rfl

/-! ## Register accesses -/

/-- A read that clears gives the old value and leaves memory as it is. -/
theorem execReadClear_core {k off : Nat} {a : Word} {old : Word} {f : Obs → Obs} {s : State} (h : RegAddr a.toNat 1 (0x8000 + k) off) (hk : k < 288)
    (hr : readCore .pf k off s = (old, modSite k (modObs f) s)) : exec (.readClearRegister .pf a) s = .next (send (.regRead old) (modSite k (modObs f) s)) := by
  show Outcome.next (send (.regRead (readReg .pf a.toNat s).1) (readReg .pf a.toNat s).2) = _
  rw [readReg_core h hk, hr]

theorem fnOf_send (fn : Nat) (o : Out) (s : State) : fnOf fn (send o s) = fnOf fn s := rfl

theorem execReadClear_trans {fn : Nat} {a : Word} {s : State} (h : RegAddr a.toNat 4 fn 0x18) (hf : fn ≤ 64) : exec (.readClearRegister .pf a) s =
    .next (send (.regRead (nat64 (b2n (fnOf fn s).tbusy * 2 ^ 63 + (fnOf fn s).tfault.toNat))) (modFn fn (fun f => { f with tfault := 0 }) s)) := by
  show Outcome.next (send (.regRead (readReg .pf a.toNat s).1) (readReg .pf a.toNat s).2) = _
  rw [readReg_trans h hf]
  rfl

theorem wake_sites (s : State) : (wake s).sites = s.sites := by
  unfold wake
  split <;> rfl

/-- A write of configuration space outside block 0 reaches its block, after the PF's has woken the device. -/
theorem execRegisterWrite_cfg {who : Requester} {a val : Word} {block inst off : Nat} {s : State} (h : RegAddr a.toNat block inst off) (hb : block ≠ 0) :
    exec (.registerWrite who a val) s = .next (writeCfg who a.toNat val.toNat (if isPf who then wake s else s)) := by
  refine congrArg Outcome.next (if_neg ?_)
  rw [h.high]
  simp [hb]

theorem execRegisterWrite_bar {fn off : Nat} {a val : Word} {s : State} (h : RegAddr a.toNat 0 fn off) :
    exec (.registerWrite .pf a val) s = .next (writeJsave fn off val.toNat (wake s)) := by
  refine congrArg Outcome.next ((if_pos ?_).trans ?_)
  · rw [h.high]
    rfl
  · rw [h.inst, h.off]
    rfl

theorem execRegisterWrite_unreachable {q : Nat} {a val : Word} {s : State} (h : configReach s (.rink q) a.toNat = false) :
    exec (.registerWrite (.rink q) a val) s = .next s := by
  refine congrArg Outcome.next ?_
  show writeCfg (.rink q) a.toNat val.toNat s = s
  simp only [writeCfg, h, Bool.not_false, if_true]

/-- HVEC written by the rink itself or by the PF. -/
theorem execRegisterWrite_hvec {who : Requester} {a val : Word} {n : Nat} {s : State} (h : RegAddr a.toNat 2 n 0x238) (hn : n < 64)
    (hw : who = .pf ∨ who = .rink n) : ∃ t, exec (.registerWrite who a val) s = .next t ∧
      (rink n t).recov.hvec = nat64 (field val.toNat 47 2 * 4 + val.toNat % 2) ∧ t.sites = s.sites := by
  refine ⟨_, execRegisterWrite_cfg h (by decide), ?_⟩
  rw [writeCfg_rink h hn hw, writeRink_hvec]
  refine ⟨by rw [modRecov, rink_modRink_same], ?_⟩
  show (if isPf who then wake s else s).sites = s.sites
  split
  · exact wake_sites s
  · rfl

/-- The operating points that boot leaves: in their ranges and in order (19 R428). -/
theorem booted_points {f v : List Word} (hf : f.length = 8) (hv : v.length = 8) :
    (∀ i < 8, 2000 ≤ (orderedPoints 2000 4000 f).get 0 i ∧ (orderedPoints 2000 4000 f).get 0 i ≤ 4000 ∧
      550 ≤ (orderedPoints 550 850 v).get 0 i ∧ (orderedPoints 550 850 v).get 0 i ≤ 850) ∧
    ∀ i < 7, (orderedPoints 2000 4000 f).get 0 i ≤ (orderedPoints 2000 4000 f).get 0 (i + 1) ∧
      (orderedPoints 550 850 v).get 0 i ≤ (orderedPoints 550 850 v).get 0 (i + 1) := by
  obtain ⟨hfr, hfo⟩ := orderedPoints_get (lo := 2000) (hi := 4000) (ws := f) (by decide)
  obtain ⟨hvr, hvo⟩ := orderedPoints_get (lo := 550) (hi := 850) (ws := v) (by decide)
  rw [hf] at hfr hfo
  rw [hv] at hvr hvo
  exact ⟨fun i hi => ⟨(hfr i hi).1, (hfr i hi).2, hvr i hi⟩, fun i hi => ⟨hfo i (Nat.succ_lt_succ hi), hvo i (Nat.succ_lt_succ hi)⟩⟩

/-- Settles O53: each access is the function of the register, the memory or the engine that its address names; a request waits only where `HostRequest.waits`
says so. -/
theorem hostAndRegisterEvents : Obligations.HostAndRegisterEvents := by
  unfold Obligations.HostAndRegisterEvents
  intro s k fn n x relaxed val v barMem reg clears plainAt goes holds
  have hreg {block inst off : Nat} (hb : block < 256) (hi : inst < 65536) (ho : off < 65536) : RegAddr (reg block inst off).toNat block inst off :=
    regAddr hb hi ho
  have hclears {off : Nat} {old : Word} {f : Obs → Obs} {now : State → Word} (hk : k < 288) (ho : off < 65536)
      (hr : readCore .pf k off s = (old, modSite k (modObs f) s)) (hnow : now (send (.regRead old) (modSite k (modObs f) s)) = 0) :
      clears (reg 1 (0x8000 + k) off) old now :=
    ⟨_, execReadClear_core (hreg (by decide) (by omega) ho) hk hr, rfl, hnow, rfl⟩
  refine ⟨fun h => ⟨⟨readBack k x s, hostReadCompletion_flush h, ?_⟩, readBack k x s, hostReadCompletion_flush h, by rw [ctxOf_readBack]⟩,
    fun a h hf => ⟨fun hl => ⟨_, hostReadCompletion_fetch h hf, ?_, rfl⟩, fun hw ha => ⟨fetchStopped k x s, ?_, ?_, rfl⟩⟩,
    fun a f addr h hf hl ht hk ho h0 h32 => ⟨finishAccess k x a (s.host.readBytes addr a.len) false s, hostReadCompletion_load h hf hl ht, ?_⟩,
    fun addr data hw => congrArg Outcome.next (takeRequest_waits hw),
    fun addr len hw => congrArg Outcome.next (takeRequest_waits hw),
    fun op addr hw => congrArg Outcome.next (takeRequest_waits hw),
    fun ia data ⟨hb, h0, h1, h⟩ hg => ⟨_, congrArg Outcome.next (takeRequest_serves hg), fun b => ?_⟩,
    fun ia len ⟨hb, h0, h1, h⟩ hg => ?_,
    fun hf hn hs => ⟨⟨_, congrArg Outcome.next (registerWrite_served (by decide) hs), ?_⟩,
      ⟨_, congrArg Outcome.next (registerWrite_served (by omega) hs), ?_⟩,
      ⟨_, congrArg Outcome.next (registerRead_served (by decide) hs), ?_⟩, ?_⟩,
    fun ia dbl add ma key hi hg ht ha => ?_,
    fun hg => congrArg Outcome.next (takeRequest_serves hg),
    fun hk => ⟨hclears hk (by decide) rfl ?_, hclears (f := fun o => { o with serrc := 0 }) hk (by decide) ?_ ?_, hclears hk (by decide) rfl ?_⟩,
    fun hf => ?_,
    fun hn who hw => execRegisterWrite_hvec (hreg (by decide) (by omega) (by decide)) hn (by simpa using hw),
    fun q addr h => execRegisterWrite_unreachable h,
    ?_,
    fun h => ⟨_, _, validBits s, congrArg Outcome.next (if_pos h), congrArg Fn.attcmd (fnOf_modFn_same ..),
      congrArg Fn.report (fnOf_modFn_same ..), fun i hi => validBits_testBit s hi, rfl⟩,
    fun h => congrArg Outcome.next (if_neg (Bool.eq_false_iff.1 h)),
    fun w => ⟨fun h => ⟨_, congrArg Outcome.next (if_pos h), rfl, rfl, rfl⟩, fun h => congrArg Outcome.next (if_neg h)⟩,
    fun i0 i1 qual => ⟨fun h => ⟨_, execBoot_refused0 h, rfl, rfl⟩, fun h0 h => ⟨_, execBoot_refused1 h0 h, rfl, rfl⟩,
      fun h0 h1 => ⟨_, execBoot_accepted h0 h1, ?_⟩⟩⟩
  · rw [ctxOf_readBack]
    exact ⟨rfl, rfl, rfl⟩
  · rw [if_pos rfl, site_modSite_same, ctxOf_modCtx, if_neg (Nat.pos_iff_ne_zero.1 hl)]
  · subst ha
    exact hostReadCompletion_fetch_fails h hf hw
  · rw [fetchStopped, site_modSite_same, ctxOf_modCtx]
  · exact ctxOf_finishAccess (tag := false) hk ho (Mem.length_readBytes s.host addr a.len) h0 h32
  · show (hostWrites 0 (barMem ia) data relaxed s).mem.read b = _
    rw [hostWrites_ordinary hb h0 h1 h, Mem.read_writeBytes]
  · obtain ⟨t, ht, he⟩ := hostReads_ordinary hb h0 h1 h
    refine ⟨_, congrArg Outcome.next ((takeRequest_serves hg).trans he), ?_⟩
    rw [ht]
    exact ⟨rfl, rfl⟩
  · obtain ⟨u, he⟩ := hostWrites_register (off := 0x008) (v := val) (relaxed := relaxed) (s := s) hf (by decide) (by decide)
    exact (congrArg (fun t => (fnOf fn t).jbase) he).trans (writeBar_jbase ..)
  · obtain ⟨u, he⟩ := hostWrites_register (off := 0x200 + 0x40 * n) (v := val) (relaxed := relaxed) (s := s) hf (by omega) (by omega)
    rw [he, writeBar_jgraph hn, nat64_toNat]
  · rw [hostReads_refcnt]
    exact ⟨rfl, by rw [fnOf_send, fnOf_modFn_same]⟩
  · exact ⟨_, execRegisterWrite_bar (hreg (by decide) (by omega) (by omega)), writeJsave_slot hf hn⟩
  · exact ⟨_, fetchAddReq fn ma ia key dbl add, congrArg Outcome.next ((takeRequest_serves hg).trans (hostAtomics_fetchAdd hi ht ha)),
      congrArg AtomBank.q (Table.get_put_same ..), rfl, rfl, rfl, rfl, rfl, rfl, rfl, rfl⟩
  · exact congrArg (fun c : Site => c.obs.tmFault) (site_modSite_same ..)
  · exact congrArg (·, _) (BitVec.ofNat_toNat ..)
  · exact congrArg (fun c : Site => c.obs.serrc.setWidth 64) (site_modSite_same ..)
  · exact congrArg (fun c : Site => c.obs.serru) (site_modSite_same ..)
  · refine ⟨_, execReadClear_trans (hreg (by decide) (by omega) (by decide)) hf, rfl, ?_⟩
    rw [fnOf_send, fnOf_modFn_same]
    exact ⟨rfl, rfl⟩
  · refine ⟨_, rfl, ?_⟩
    rw [fnOf_modFn_same]
    exact ⟨rfl, rfl, rfl⟩
  · generalize hu : ({ offState s with
      power := Power.reset, boot := { measured i0 i1 qual with endorsement := endorsementOf (measured i0 i1 qual) } } : State) = u
    obtain ⟨f, v, p, hf, hv, he⟩ := loadTables_eq u
    obtain ⟨hrange, horder⟩ := booted_points hf hv
    generalize loadTables u = t at he ⊢
    subst hu
    have hr := bootedRink (p := p) (t := t) (by rw [he]; rfl)
    rw [he] at hr ⊢
    exact ⟨rfl, rfl, rfl, rfl, rfl, rfl, rfl, hr, hrange, horder⟩

end Sys2Proof.Machine

/-! # System registers, halt and snap (02 R59 to R65, 05 R148 to R150) -/

namespace Sys2Proof.Machine

open Host (Outcome)

/-! ## The state around a word -/

/-- What a change of a site keeps of every site, it keeps of site `j`. -/
theorem site_modSite_keeps {γ : Type} (P : Site → γ) {f : Site → Site} (h : ∀ c, P (f c) = P c) (k j : Nat) (s : State) :
    P (site j (modSite k f s)) = P (site j s) := by
  by_cases hj : j = k
  · rw [hj, site_modSite_same, h]
  · rw [site_modSite_ne hj]

theorem myCtx_wordDone (f : Ctx → Ctx) (s : State) : myCtx (wordDone f s) = ccIssue (mySite s).now 1 (advancePc (f (myCtx s))) := myCtx_modMyCtx ..

theorem myCtx_wordAfter (now : Nat) (t : State) : myCtx (wordAfter now t) = ccIssue now 1 (advancePc (myCtx t)) := myCtx_modMyCtx ..

theorem myCtx_modMyVe (f : Ve → Ve) (s : State) : myCtx (modMyVe f s) = myCtx s := by
  rw [myCtx, mySite_modMyVe]
  rfl

theorem ve_wordAfter (now : Nat) (t : State) : (mySite (wordAfter now t)).ve = (mySite t).ve := by rw [wordAfter, mySite_modMyCtx, modCtx_ve]

/-! ## The controls of this beat's words (05 R148) -/

/-- A write of FCTL or SRKEY leaves the values of this beat's words aside. -/
theorem stampCtl_eq (now : Nat) (x : Ctx) :
    stampCtl now x = { x with prevFctl := sampleFctl now x, prevSrkey := sampleSrkey now x, ctlAt := now + 1 } := by
  unfold stampCtl sampleFctl sampleSrkey
  split
  · next h => rw [← h]
  · rfl

theorem stampVe_eq (now : Nat) (v : Ve) : stampVe now v = { v with prevLoop := (sampleVe now v).loop, loopAt := now + 1 } := by
  unfold stampVe sampleVe
  split
  · next h => rw [← h]
  · rfl

theorem sampleVe_unwritten {now : Nat} {v : Ve} (h : v.loopAt ≠ now + 1) : sampleVe now v = v := if_neg h

theorem sampleFctl_issued (now occ : Nat) (x : Ctx) : sampleFctl now (ccIssue now occ (advancePc x)) = sampleFctl now x := by simp [sampleFctl]

theorem sampleSrkey_issued (now occ : Nat) (x : Ctx) : sampleSrkey now (ccIssue now occ (advancePc x)) = sampleSrkey now x := by simp [sampleSrkey]

theorem writeSys_fctl (now : Nat) (v : Word) (x : Ctx) : writeSys now 0x009 v x =
    { x with fctl := fctlOf v.toNat, prevFctl := sampleFctl now x, prevSrkey := sampleSrkey now x, ctlAt := now + 1 } :=
  congrArg (fun y : Ctx => { y with fctl := fctlOf v.toNat }) (stampCtl_eq now x)

theorem writeSys_srkey (now : Nat) (v : Word) (x : Ctx) : writeSys now 0x00A v x =
    { x with srkey := .ofNat 64 (v.toNat % 2 ^ 48), prevFctl := sampleFctl now x, prevSrkey := sampleSrkey now x, ctlAt := now + 1 } :=
  congrArg (fun y : Ctx => { y with srkey := .ofNat 64 (v.toNat % 2 ^ 48) }) (stampCtl_eq now x)

/-- The words of its beat do not see a write of the VE's loop registers, which moves nothing else. -/
theorem writtenLoop (now : Nat) (l : Loop) (v : Ve) : ∃ w : Ve, w = { stampVe now v with loop := l } ∧
    w.loop = l ∧ (sampleVe now w).loop = (sampleVe now v).loop ∧ w.loopAt = now + 1 ∧ w.v = v.v ∧ w.ctl = v.ctl := by
  rw [stampVe_eq]
  refine ⟨_, rfl, rfl, ?_, rfl, rfl, rfl⟩
  rw [sampleVe, if_pos rfl]

/-- FCTL as written keeps its bits, and a code that is no mode is RNE (01 R24). -/
theorem fctlOf_toNat (v : Nat) : (fctlOf v).toNat = v / 8 % 8 * 8 + (if 1 ≤ v % 8 ∧ v % 8 ≤ 5 then v % 8 else 1) := by
  unfold fctlOf
  dsimp only
  rw [BitVec.toNat_ofNat]
  split <;> omega

/-! ## mfs and mts (05 R148) -/

section SystemRegisters

variable {s : State} {d a : BitVec 5} {n : BitVec 10}

theorem rse_number (i : BitVec 4) : (0x20 + i.setWidth 10 : BitVec 10).toNat = 32 + i.toNat := by
  bv_omega

/-- RSE i is register 0x20 + i (02 R59). -/
theorem readSys_rse (c : Site) (x : Ctx) (i : BitVec 4) : readSys c x (0x20 + i.setWidth 10 : BitVec 10).toNat = x.trap.rse.get 0 i.toNat := by
  have hi := i.isLt
  rw [rse_number]
  generalize i.toNat = k at hi ⊢
  interval_cases k <;> rfl

theorem writeSys_rse (now : Nat) (v : Word) (x : Ctx) (i : BitVec 4) : writeSys now (0x20 + i.setWidth 10 : BitVec 10).toNat v x =
    { x with trap := { x.trap with rse := x.trap.rse.put i.toNat (wordAddr v) } } := by
  have hi := i.isLt
  rw [rse_number]
  generalize i.toNat = k at hi ⊢
  interval_cases k <;> rfl

theorem isVeReg_rse (i : BitVec 4) : isVeReg (0x20 + i.setWidth 10 : BitVec 10).toNat = false := by
  have hi := i.isLt
  rw [rse_number]
  generalize i.toNat = k at hi ⊢
  interval_cases k <;> rfl

theorem veHit_plain {m : Nat} (h : isVeReg m = false) : veHit s m = none := by simp [veHit, h]

theorem veHit_owned {m : Nat} (h : owns (mySite s) (myRink s) 2 = true) : veHit s m = none := by simp [veHit, h]

theorem veHit_unowned {m : Nat} (hv : isVeReg m = true) (h : owns (mySite s) (myRink s) 2 = false) : veHit s m = some (.trap 0x12 2) := by
  simp [veHit, hv, h]

theorem execMfs_next (hd : settledS s d) (hv : veHit s n.toNat = none) : exec (.mfs d n) s = .next (wordDone
    (putS (mySite s).now 1 d (readSys { mySite s with ve := sampleVe (mySite s).now (mySite s).ve } (myCtx s) n.toNat)) s) := by
  have hit : firstHit [veHit s n.toNat, writeS (mySite s).now 1 (myCtx s) d] = none := by rw [hv, writeS_none hd]; rfl
  show Outcome.next (ccWord _ 1 _ s) = _
  rw [ccWord_next hit, modMyCtx_modMyCtx]
  rfl

theorem execMfs_unowned (hv : isVeReg n.toNat = true) (h : owns (mySite s) (myRink s) 2 = false) :
    exec (.mfs d n) s = .next (takeTrap false 0x12 2 false s) :=
  congrArg Outcome.next (ccWord_stop (e := .trap 0x12 2) (by rw [veHit_unowned hv h]; rfl))

/-- The checks of mts (05 R148). -/
def mtsHits (s : State) (n : Nat) (a : BitVec 5) : List (Option Hit) :=
  [readS (mySite s).now (myCtx s) a, veHit s n, hitIf (isVeReg n && (mySite s).ve.ctl.running) (.trap 0x13 0)]

theorem execMts_eq (n : BitVec 10) (a : BitVec 5) (s : State) : exec (.mts n a) s = .next (ccWord (mtsHits s n.toNat a) 1
    (fun t => if isVeReg n.toNat then modMyVe (fun v => { stampVe (mySite s).now v with loop := writeLoop n.toNat (getS (myCtx s) a) v.loop }) t
      else modMyCtx (writeSys (mySite s).now n.toNat (getS (myCtx s) a)) t) s) := rfl

theorem execMts_context (ha : readableS s a) (hv : isVeReg n.toNat = false) :
    exec (.mts n a) s = .next (wordDone (writeSys (mySite s).now n.toNat (getS (myCtx s) a)) s) := by
  have hit : firstHit (mtsHits s n.toNat a) = none := by
    rw [mtsHits, readS_none ha, veHit_plain hv, hv]
    rfl
  rw [execMts_eq]
  simp only [hv, Bool.false_eq_true, if_false]
  rw [ccWord_wordDone hit]

/-- The context after an mts of FCTL: the words of the beat go on with the values that are left aside. -/
theorem execMts_fctl (ha : readableS s a) : ∃ t, exec (.mts 0x009 a) s = .next t ∧
    myCtx t = ccIssue (mySite s).now 1 (advancePc { myCtx s with
      fctl := fctlOf (getS (myCtx s) a).toNat, prevFctl := sampleFctl (mySite s).now (myCtx s),
      prevSrkey := sampleSrkey (mySite s).now (myCtx s), ctlAt := (mySite s).now + 1 }) :=
  ⟨_, execMts_context ha rfl, (myCtx_wordDone ..).trans (congrArg _ (congrArg _ (writeSys_fctl ..)))⟩

theorem execMts_srkey (ha : readableS s a) : ∃ t, exec (.mts 0x00A a) s = .next t ∧
    myCtx t = ccIssue (mySite s).now 1 (advancePc { myCtx s with
      srkey := .ofNat 64 ((getS (myCtx s) a).toNat % 2 ^ 48), prevFctl := sampleFctl (mySite s).now (myCtx s),
      prevSrkey := sampleSrkey (mySite s).now (myCtx s), ctlAt := (mySite s).now + 1 }) :=
  ⟨_, execMts_context ha rfl, (myCtx_wordDone ..).trans (congrArg _ (congrArg _ (writeSys_srkey ..)))⟩

theorem execMts_unowned (ha : readableS s a) (hv : isVeReg n.toNat = true) (h : owns (mySite s) (myRink s) 2 = false) :
    exec (.mts n a) s = .next (takeTrap false 0x12 2 false s) :=
  congrArg Outcome.next (ccWord_stop (e := .trap 0x12 2) (by rw [readS_none ha, veHit_unowned hv h]; rfl))

theorem execMts_running (ha : readableS s a) (hv : isVeReg n.toNat = true) (h : owns (mySite s) (myRink s) 2 = true)
    (hr : (mySite s).ve.ctl.running = true) : exec (.mts n a) s = .next (takeTrap false 0x13 0 false s) :=
  congrArg Outcome.next (ccWord_stop (e := .trap 0x13 0) (by rw [readS_none ha, veHit_owned h, hv, hr]; rfl))

theorem execMts_ve (ha : readableS s a) (hv : isVeReg n.toNat = true) (h : owns (mySite s) (myRink s) 2 = true)
    (hr : (mySite s).ve.ctl.running = false) : exec (.mts n a) s = .next (wordAfter (mySite s).now (modMyVe (fun v =>
      { stampVe (mySite s).now v with loop := writeLoop n.toNat (getS (myCtx s) a) v.loop }) s)) := by
  have hit : firstHit (mtsHits s n.toNat a) = none := by
    rw [mtsHits, readS_none ha, veHit_owned h, hr, Bool.and_false]
    rfl
  rw [execMts_eq, ccWord_wordAfter hit]
  simp only [hv, if_true]

end SystemRegisters

/-! ## halt and snap (05 R149, R150) -/

theorem addEnergy_keeps (n : Nat) (x : Ctx) : (addEnergy n x).pc = x.pc ∧ (addEnergy n x).s = x.s := by
  unfold addEnergy
  split <;> exact ⟨rfl, rfl⟩

/-- The charge of an executing word changes its context's counter alone. -/
theorem myCtx_charge (cls n : Nat) (s : State) : myCtx (charge s.cur.site s.cur.ctx cls n s) = addEnergy (n * weight s.cur.site cls s) (myCtx s) :=
  myCtx_modMyCtx ..

theorem myCtx_halted (cls n : Nat) (s : State) : myCtx (modMyCtx haltCtx (charge s.cur.site s.cur.ctx cls n s)) =
    haltCtx (addEnergy (n * weight s.cur.site cls s) (myCtx s)) := by
  rw [myCtx_modMyCtx, myCtx_charge]

/-- A trigger asks in every block of its list, and a request that stands keeps its source (15 R379). -/
theorem snapReq_triggers (src : Nat) (l : List Nat) (s : State) (k : Nat) :
    (site k (l.foldl (fun s k => triggerSite src k s) s)).obs.snapReq =
      if k ∈ l then some ((site k s).obs.snapReq.getD src) else (site k s).obs.snapReq := by
  induction l generalizing s with
  | nil => rfl
  | cons j l ih =>
    rw [List.foldl_cons, ih]
    by_cases hj : k = j
    · subst hj
      have hreq : (site k (triggerSite src k s)).obs.snapReq = some ((site k s).obs.snapReq.getD src) := by
        rw [triggerSite, site_modSite_same]
        rfl
      simp [hreq]
    · have hsite : site k (triggerSite src j s) = site k s := site_modSite_ne hj ..
      simp [hsite, hj]

/-- A trigger of a rink changes nothing of a site but its block's request. -/
theorem triggerRink_keeps {γ : Type} (P : Site → γ) (h : ∀ f c, P (modObs f c) = P c) (src r j : Nat) (s : State) :
    P (site j (triggerRink src r s)) = P (site j s) :=
  foldl_keeps (fun s => P (site j s)) (fun _ _ => site_modSite_keeps P (h _) ..) _ (triggerDies src s)

theorem triggerRink_rest (src r : Nat) (s : State) : (triggerRink src r s).mem = s.mem ∧ (triggerRink src r s).host = s.host ∧
    (triggerRink src r s).cur = s.cur ∧ (triggerRink src r s).dies = (triggerDies src s).dies := by
  have h := foldl_keeps (f := fun s k => triggerSite src k s) (fun s => (s.mem, s.host, s.cur, s.dies)) (fun _ _ => rfl) (sitesOf r s) (triggerDies src s)
  simp only [Prod.mk.injEq] at h
  exact h

theorem myCtx_triggerRink (src r : Nat) (s : State) : myCtx (triggerRink src r s) = myCtx s := by
  obtain ⟨-, -, hcur, -⟩ := triggerRink_rest src r s
  rw [myCtx, mySite, hcur]
  exact triggerRink_keeps (fun c => ctxOf c s.cur.ctx) (fun _ _ => rfl) ..

theorem die_triggerDies (src : Nat) (s : State) : (die 0 (triggerDies src s)).snapReq.isSome = true ∧ (die 1 (triggerDies src s)).snapReq.isSome = true := by
  refine ⟨?_, ?_⟩
  · rw [triggerDies, die_modDie_ne (by decide), die_modDie_same]
    rfl
  · rw [triggerDies, die_modDie_same]
    rfl

theorem execSnap_next (s : State) : exec .snap s = .next (wordAfter (mySite s).now (triggerRink s.cur.site (myRink s) s)) :=
  congrArg Outcome.next (ccWord_wordAfter rfl)

/-- The word's own progress touches no site but in its context. -/
theorem site_wordAfter_keeps {γ : Type} (P : Site → γ) (h : ∀ x f c, P (modCtx x f c) = P c) (now j : Nat) (t : State) :
    P (site j (wordAfter now t)) = P (site j t) := site_modSite_keeps P (h _ _) ..

/-- snap moves no byte of a memory. -/
theorem memoryKept_snap (now src r : Nat) (s : State) : MemoryKept s (wordAfter now (triggerRink src r s)) := by
  obtain ⟨hmem, hhost, -, -⟩ := triggerRink_rest src r s
  refine ⟨fun a => congrArg (·.read a) hmem, fun a => congrArg (·.read a) hhost, fun k a => ?_, fun k n a => ?_⟩
  · rw [site_wordAfter_keeps (fun c => c.tm) modCtx_tm, triggerRink_keeps (fun c => c.tm) fun _ _ => rfl]
  · rw [site_wordAfter_keeps (fun c => c.tiles) modCtx_tiles, triggerRink_keeps (fun c => c.tiles) fun _ _ => rfl]

/-- Settles O30: the checks and the effect of mfs and mts, by the register's number; halt and snap by what their effects keep. -/
theorem systemWords : Obligations.SystemWords := by
  unfold Obligations.SystemWords
  refine ⟨fun s d a => ?_, fun s => ?_⟩
  · intro c x v reads writes addr trap
    have hreads {n : BitVec 10} {w : Word} (hn : isVeReg n.toNat = false) (hw : readSys { c with ve := sampleVe c.now c.ve } x n.toNat = w) :
        reads n w := fun hd => by rw [execMfs_next hd (veHit_plain hn), hw]
    have hwrites {n : BitVec 10} {f : Ctx → Ctx} (hn : isVeReg n.toNat = false) (hf : ∀ y, writeSys c.now n.toNat v y = f y) : writes n f :=
      fun ha => by rw [execMts_context ha hn, ← funext hf]
    clear_value reads writes
    refine ⟨hreads rfl rfl, hreads rfl rfl, hreads rfl rfl, hreads rfl rfl, hreads rfl rfl, hreads rfl rfl, hreads rfl rfl, hreads rfl rfl,
      hreads rfl rfl, hreads rfl rfl, hreads rfl rfl, fun i => hreads (isVeReg_rse i) (readSys_rse ..), hwrites rfl fun _ => rfl, hwrites rfl fun _ => rfl,
      hwrites rfl fun _ => rfl, hwrites rfl fun _ => rfl, hwrites rfl fun _ => rfl, fun i => hwrites (isVeReg_rse i) fun _ => writeSys_rse ..,
      hwrites rfl fun _ => rfl, hwrites rfl fun _ => rfl, hwrites rfl fun _ => rfl, fun ha => ?_, fun ha => ?_, fun n hn => ?_⟩
    · obtain ⟨t, ht, hx⟩ := execMts_fctl ha
      refine ⟨t, ht, ?_⟩
      rw [hx, ccIssue_fctl, advancePc_fctl, fctlOf_toNat]
      exact ⟨rfl, (sampleFctl_issued ..).trans (if_pos rfl), advancePc_s _, fun h0 => advancePc_pc _ h0⟩
    · obtain ⟨t, ht, hx⟩ := execMts_srkey ha
      refine ⟨t, ht, ?_⟩
      rw [hx]
      exact ⟨advancePc_srkey _, (sampleSrkey_issued ..).trans (if_pos rfl), advancePc_s _⟩
    · have hv : isVeReg n.toNat = true := by
        simp only [List.mem_cons, List.not_mem_nil, or_false] at hn
        rcases hn with rfl | rfl | rfl <;> rfl
      refine ⟨execMfs_unowned hv, fun ha => execMts_unowned ha hv, fun ha => execMts_running ha hv,
        fun ha ho hr => ⟨_, execMts_ve ha hv ho hr, ?_⟩, fun hd ho hl => ?_⟩
      · obtain ⟨w, hw, hloop, hsample, hat, hlanes, hctl⟩ := writtenLoop c.now (writeLoop n.toNat v c.ve.loop) c.ve
        have hve : (mySite (wordAfter c.now (modMyVe (fun u => { stampVe c.now u with loop := writeLoop n.toNat v u.loop }) s))).ve = w := by
          rw [ve_wordAfter, mySite_modMyVe, hw]
          rfl
        rw [myCtx_wordAfter, myCtx_modMyVe, hve]
        exact ⟨hloop, hsample, hat, hlanes, hctl, fun h0 => advancePc_pc _ h0, advancePc_s _⟩
      · rw [execMfs_next hd (veHit_owned ho), sampleVe_unwritten hl]
        simp only [List.mem_cons, List.not_mem_nil, or_false] at hn
        rcases hn with rfl | rfl | rfl <;> rfl
  · intro x halted
    obtain ⟨hpc, hs⟩ := addEnergy_keeps (1 * weight s.cur.site 3 s) x
    have hx : myCtx halted = haltCtx (addEnergy (1 * weight s.cur.site 3 s) x) := myCtx_halted 3 1 s
    obtain ⟨hdie0, hdie1⟩ := die_triggerDies s.cur.site s
    obtain ⟨-, -, -, hdies⟩ := triggerRink_rest s.cur.site (myRink s) s
    have hreq (k : Nat) : (site k (wordAfter (mySite s).now (triggerRink s.cur.site (myRink s) s))).obs.snapReq =
        if k ∈ sitesOf (myRink s) s then some ((site k s).obs.snapReq.getD s.cur.site) else (site k s).obs.snapReq := by
      rw [site_wordAfter_keeps (fun c => c.obs.snapReq) fun _ _ _ => by rw [modCtx_obs]]
      exact snapReq_triggers ..
    refine ⟨fun h => congrArg Outcome.next (if_neg h), fun h => congrArg Outcome.next (if_pos h), ?_, ?_, ?_, ?_, _, execSnap_next s, fun k hk => ?_,
      fun k hk => ?_, ?_, ?_, fun h0 => ?_, ?_, memoryKept_snap ..⟩
    · rw [hx]; rfl
    · rw [hx]; rfl
    · rw [hx]; exact hpc
    · rw [hx]; exact hs
    · rw [hreq, if_pos hk]
    · rw [hreq, if_neg hk]
    · exact (congrArg (fun t : Table Die => (t.get Die.reset 0).snapReq.isSome) hdies).trans hdie0
    · exact (congrArg (fun t : Table Die => (t.get Die.reset 1).snapReq.isSome) hdies).trans hdie1
    · rw [myCtx_wordAfter, myCtx_triggerRink, ccIssue_pc, advancePc_pc _ h0]
    · rw [myCtx_wordAfter, myCtx_triggerRink, ccIssue_s, advancePc_s]

end Sys2Proof.Machine

/-! # Numbers and the vector words over lanes (01, 06 R155 to R160) -/

namespace Sys2Proof.Machine

open Host (Outcome)

/-! ## The common form of a vector word whose registers are there (06 R153 to R155) -/

section VectorForm

variable {s : State} {f : VFields} {srcs : List Nat}

theorem firstHit_lanesReady (h : lanesReady s f) :
    firstHit [governHit (mySite s).now (mySite s).ve f, writeV (mySite s).now (mySite s).ve f.vd.toNat] = none := by
  obtain ⟨hg, hw⟩ := h
  rw [← myVe, hg, hw]
  rfl

theorem vLanes_next {occ lat : Nat} {g : Site → List (List Lane) → Nat → Lane × Fl} (hs : sourcesReady s f srcs) (hl : lanesReady s f) :
    vLanes f srcs occ lat g s = vectorDone f srcs occ (lanesWritten f lat (g (mySite s) (srcs.map (srcVal (myVe s) f)))) s := by
  simp only [vLanes]
  rw [veWord_next hs (firstHit_lanesReady hl)]
  simp only [vectorDone, lanesWritten, myVe]

/-- A word on elements is given by what its function does on one operand of each source. -/
theorem elemLane_congr {w16 : Bool} {g g' : Nat → List Nat → Nat × Fl} {vals : List (List Lane)}
    (h : ∀ e a, a.length = vals.length → g e a = g' e a) (i : Nat) : elemLane w16 g vals i = elemLane w16 g' vals i := by
  cases w16 <;> simp [elemLane, h]

/-- A word on floating-point elements: on one of 32 bits in FP32, on both of 16 in BF16 (R155). -/
theorem vElems_float {lat : Nat} {g : Site → Nat → List Nat → Nat × Fl} {g' : Nat → (Nat → Nat) → Nat × Fl} (ht : f.ty = 0 ∨ f.ty = 1)
    (hl : lanesReady s f) (hs : sourcesReady s f srcs) (h : ∀ e a, a.length = srcs.length → g (mySite s) e a = g' e (nth 0 a)) :
    vElems f srcs lat g s = vectorDone f srcs 1
      (lanesWritten f lat fun n => elemLane (f.ty == 1) (fun e a => g' e fun k => nth 0 a k) (srcs.map (srcVal (myVe s) f)) n) s := by
  have h16 : is16 f.ty = (f.ty == 1) := by rcases ht with ht | ht <;> rw [ht] <;> rfl
  rw [vElems, vLanes_next hs hl, h16]
  congr 2
  funext n
  exact elemLane_congr (fun e a ha => h e a (by simpa using ha)) n

end VectorForm

/-! ## The elements of a floating-point word (06 R156 to R159) -/

section FloatElements

variable {s : State} {f : VFields}

theorem isFloat_of (ht : f.ty = 0 ∨ f.ty = 1) : isFloat f.ty = true := by rcases ht with ht | ht <;> rw [ht] <;> rfl

theorem resolveRm_toNat (env : NumEnv) (r : BitVec 3) : resolveRm env r.toNat = if r = 0 then env.rm else r.toNat := by
  by_cases h : r = 0
  · simp [resolveRm, h]
  · have h0 : r.toNat ≠ 0 := fun h0 => h (BitVec.eq_of_toNat_eq h0)
    rw [if_neg h, resolveRm, if_neg h0]

theorem arith2_float {n : Nat} {gf : Nat → Fp → Fp → Fp × Fl} {gi : Int → Int → Int} (h : isFloat f.ty = true) :
    arith2 f n gf gi s = vElems f [0, 1] 4 (floatElem f fun rm l => gf rm (argF l 0) (argF l 1)) s := by
  simp only [arith2, h, if_true]

theorem extreme_float {big : Bool} (h : isFloat f.ty = true) : extreme f big s = vElems f [0, 1] 4 (extremeElem f big) s := by
  simp only [extreme, h, if_true]

theorem execVadd_float (h : isFloat f.ty = true) :
    exec (.vadd f) s = .next (vElems f [0, 1] 4 (floatElem f fun rm l => exactAdd rm (argF l 0) (argF l 1)) s) :=
  congrArg Outcome.next (arith2_float h)

theorem execVsub_float (h : isFloat f.ty = true) :
    exec (.vsub f) s = .next (vElems f [0, 1] 4 (floatElem f fun rm l => exactAdd rm (argF l 0) (negFp (argF l 1))) s) :=
  congrArg Outcome.next (arith2_float h)

theorem execVmul_float (h : isFloat f.ty = true) :
    exec (.vmul f) s = .next (vElems f [0, 1] 4 (floatElem f fun _ l => exactMul (argF l 0) (argF l 1)) s) :=
  congrArg Outcome.next (arith2_float h)

theorem execVmax_float (h : isFloat f.ty = true) : exec (.vmax f) s = .next (vElems f [0, 1] 4 (extremeElem f true) s) :=
  congrArg Outcome.next (extreme_float h)

theorem execVmin_float (h : isFloat f.ty = true) : exec (.vmin f) s = .next (vElems f [0, 1] 4 (extremeElem f false) s) :=
  congrArg Outcome.next (extreme_float h)

theorem execVabs_float (h : isFloat f.ty = true) : exec (.vabs f) s = .next (vElems f [0] 2 (signElem f fun _ _ => false) s) := by
  show Outcome.next (vElems f [0] 2 _ s) = _
  simp only [h, if_true]

theorem execVneg_float (h : isFloat f.ty = true) : exec (.vneg f) s = .next (vElems f [0] 2 (signElem f fun n _ => !n) s) := by
  show Outcome.next (vElems f [0] 2 _ s) = _
  simp only [h, if_true]

/-! The other words are words on elements in every type that they have. -/

theorem execVfma_elems (f : VFields) (s : State) :
    exec (.vfma f) s = .next (vElems f [0, 1, 2] 4 (floatElem f fun rm l => exactFma rm (argF l 0) (argF l 1) (argF l 2)) s) := rfl

theorem execVfms_elems (f : VFields) (s : State) :
    exec (.vfms f) s = .next (vElems f [0, 1, 2] 4 (floatElem f fun rm l => exactFma rm (argF l 0) (argF l 1) (negFp (argF l 2))) s) := rfl

theorem execVfnma_elems (f : VFields) (s : State) :
    exec (.vfnma f) s = .next (vElems f [0, 1, 2] 4 (floatElem f fun rm l => exactFma rm (negFp (argF l 0)) (argF l 1) (argF l 2)) s) := rfl

theorem execVcopysgn_elems (f : VFields) (s : State) :
    exec (.vcopysgn f) s = .next (vElems f [0, 1] 2 (signElem f fun _ b => bitOf b (fracBits f.ty + 8)) s) := rfl

theorem execVrcp_elems (f : VFields) (s : State) :
    exec (.vrcp f) s = .next (vElems f [0] 8 (fun c _ a => specialFn 0 (veEnv c) (nth 0 a 0)) s) := rfl

theorem execVrsq_elems (f : VFields) (s : State) :
    exec (.vrsq f) s = .next (vElems f [0] 8 (fun c _ a => specialFn 1 (veEnv c) (nth 0 a 0)) s) := rfl

theorem execVexp2_elems (f : VFields) (s : State) :
    exec (.vexp2 f) s = .next (vElems f [0] 8 (fun c _ a => specialFn 2 (veEnv c) (nth 0 a 0)) s) := rfl

theorem execVlog2_elems (f : VFields) (s : State) :
    exec (.vlog2 f) s = .next (vElems f [0] 8 (fun c _ a => specialFn 3 (veEnv c) (nth 0 a 0)) s) := rfl

/-- An element of exact value `x`, rounded once by the word's mode at the word's rounding site, its flags merged (R155, R156). -/
def roundElem (f : VFields) (c : Site) (x : Fp × Fl) (e : Nat) : Nat × Fl :=
  let r := roundFp (fracBits f.ty) x.1 (resolveRm (veEnv c) f.rnd.toNat) (veEnv c).oz (vSite c 7 e)
  (r.1, x.2 ||| r.2)

theorem floatElem_eq (g : Nat → List Fp → Fp × Fl) (c : Site) (e : Nat) (a : List Nat) : floatElem f g c e a =
    roundElem f c (g (resolveRm (veEnv c) f.rnd.toNat) (a.map (decodeIz (veEnv c).iz (fracBits f.ty)))) e := rfl

theorem extremeElem_float {big : Bool} {c : Site} {e : Nat} {a : List Nat} (h : isFloat f.ty = true) : extremeElem f big c e a =
    (encExact (fracBits f.ty) (fpExtreme big (decodeIz (veEnv c).iz (fracBits f.ty) (nth 0 a 0)) (decodeIz (veEnv c).iz (fracBits f.ty) (nth 0 a 1))).1,
      (fpExtreme big (decodeIz (veEnv c).iz (fracBits f.ty) (nth 0 a 0)) (decodeIz (veEnv c).iz (fracBits f.ty) (nth 0 a 1))).2) := by
  simp only [extremeElem, h, if_true]

end FloatElements

/-! ## Rounding and exact arithmetic in their special cases (01 R25, R26) -/

/-- At or above 2^128 the mode chooses between infinity and the greatest finite value (R25). -/
theorem roundFp_overflow {neg oz : Bool} {m : Nat} {e : Int} {u rm : Nat} (hm : 0 < m) (he : 128 ≤ e) (h1 : 1 ≤ rm) (h4 : rm ≤ 4) :
    roundFp 23 (.fin neg m e) rm oz u =
      (if rm = 1 ∨ (rm = 3 ∧ neg = false) ∨ (rm = 4 ∧ neg = true) then encInf 23 neg else encInf 23 neg - 1, flOF ||| flNX) := by
  have hlen : 1 ≤ bitLen m := by unfold bitLen; rw [if_neg (by omega)]; omega
  have hex : (128 : Int) ≤ (bitLen m : Int) - 1 + e := by omega
  rw [roundFp, if_neg (by omega), roundNonzero, if_pos hex]
  interval_cases rm <;> cases neg <;> rfl

/-- An exact zero of two operands of unlike sign is positive but when rounding down (R25). -/
theorem exactAdd_cancel (rm m : Nat) (e : Int) : exactAdd rm (.fin false m e) (.fin true m e) = (.fin (rm == 4) 0 0, 0) := by
  simp [exactAdd, signedMag, ofScaled]

theorem exactMul_inf_fin {x y : Bool} {m : Nat} {e : Int} (h : 0 < m) : exactMul (.inf x) (.fin y m e) = (.inf (x != y), 0) :=
  if_neg (Nat.pos_iff_ne_zero.1 h)

/-! ## Special functions (01 R41) -/

section SpecialFunctions

variable (env : NumEnv) {w : Nat}

/-- A zero is a pole of the reciprocals and of the logarithm, and 1 is the exponential's value there. -/
theorem specialFn_zero {n : Bool} {e : Int} (h : decodeIz env.iz 23 w = .fin n 0 e) :
    specialFn 0 env w = (encInf 23 n, flDZ) ∧ specialFn 1 env w = (encInf 23 n, flDZ) ∧ specialFn 2 env w = (0x3F800000, 0) ∧
      specialFn 3 env w = (encInf 23 true, flDZ) := by
  simp only [specialFn, h, if_true, and_self]

theorem specialFn_nan {q : Bool} (h : decodeIz env.iz 23 w = .nan q) (sel : Nat) : specialFn sel env w = (encNan 23, flIf q flNV) := by
  simp only [specialFn, h]

theorem specialFn_inf {n : Bool} (h : decodeIz env.iz 23 w = .inf n) : specialFn 0 env w = (encZero 23 n, 0) ∧
    specialFn 2 env w = if n then (encZero 23 false, 0) else (encInf 23 false, 0) := by
  simp only [specialFn, h, and_self]

/-- Below zero the root and the logarithm have no value. -/
theorem specialFn_negative {m : Nat} {e : Int} (hm : m ≠ 0) (h : decodeIz env.iz 23 w = .fin true m e) :
    specialFn 1 env w = (encNan 23, flNV) ∧ specialFn 3 env w = (encNan 23, flNV) := by
  simp only [specialFn, h, if_neg hm, if_true, and_self]

/-- A zero of either sign, whether or not the input flush is on. -/
theorem decodeIz_zero (iz : Bool) (n : Bool) : ∃ e, decodeIz iz 23 (encZero 23 n) = .fin n 0 e := by
  cases iz <;> cases n <;> exact ⟨_, rfl⟩

/-- Input flush leaves a value that is not subnormal as it is (R18). -/
theorem decodeIz_normal (iz : Bool) {fw : Nat} (h : (field w (fw + 7) fw == 0) = false) : decodeIz iz fw w = decodeFp fw w := by
  simp [decodeIz, h]

theorem specialFn_one : specialFn 3 env 0x3F800000 = (0, 0) := by
  have h : decodeIz env.iz 23 0x3F800000 = .fin false (2 ^ 23) (-23) := (decodeIz_normal _ rfl).trans rfl
  simp only [specialFn, h]
  rfl

end SpecialFunctions

/-- Settles O32: an element of each word is the word's exact function of the elements of its sources, rounded once; the special cases of the
numbers follow by the branches of rounding, of exact arithmetic and of the special functions. -/
theorem vectorFloatResults : Obligations.VectorFloatResults := by
  unfold Obligations.VectorFloatResults
  refine ⟨fun s f hl ht => ?_, fun _ _ _ _ _ _ => roundFp_overflow, fun rm q b => by cases b <;> rfl, fun _ _ _ _ => rfl, fun rm x => by cases x <;> rfl,
    exactAdd_cancel, fun x y m e _ hm => ⟨exactMul_inf_fin hm, rfl⟩, fun env => ?_⟩
  · intro c env fw rm val round kept signed gives
    have hf := isFloat_of ht
    have hrm : resolveRm (veEnv c) f.rnd.toNat = rm := resolveRm_toNat env f.rnd
    have hround (x : Fp × Fl) (e : Nat) : roundElem f c x e = round x e := by
      simp only [roundElem, hrm]
      rfl
    have exactOnce {i : Instr} {srcs : List Nat} {g : Nat → List Fp → Fp × Fl} {h : (Nat → Nat) → Fp × Fl}
        (hi : exec i s = .next (vElems f srcs 4 (floatElem f g) s)) (hg : ∀ a, a.length = srcs.length → g rm (a.map val) = h (nth 0 a)) :
        gives i srcs 4 fun e a => round (h a) e := by
      intro hs
      rw [hi, vElems_float (g' := fun e a => round (h a) e) ht hl hs fun e a ha => ?_]
      rw [floatElem_eq, hround, ← hg a ha, hrm]
      rfl
    have unrounded {i : Instr} {srcs : List Nat} {lat : Nat} {g : Site → Nat → List Nat → Nat × Fl} {h : (Nat → Nat) → Nat × Fl}
        (hi : exec i s = .next (vElems f srcs lat g s)) (hg : ∀ e a, g c e a = h (nth 0 a)) :
        gives i srcs lat fun _ a => h a := by
      intro hs
      rw [hi, vElems_float (g' := fun _ a => h a) ht hl hs fun e a _ => hg e a]
    clear_value gives round
    refine ⟨?_, ?_, ?_, ?_, ?_, ?_, ?_, ?_, ?_, ?_, ?_, fun _ => ⟨?_, ?_, ?_, ?_⟩⟩
    · exact exactOnce (execVadd_float hf) fun | [_, _], _ => rfl
    · exact exactOnce (execVsub_float hf) fun | [_, _], _ => rfl
    · exact exactOnce (execVmul_float hf) fun | [_, _], _ => rfl
    · exact exactOnce (execVfma_elems f s) fun | [_, _, _], _ => rfl
    · exact exactOnce (execVfms_elems f s) fun | [_, _, _], _ => rfl
    · exact exactOnce (execVfnma_elems f s) fun | [_, _, _], _ => rfl
    · exact unrounded (execVmax_float hf) fun _ _ => extremeElem_float hf
    · exact unrounded (execVmin_float hf) fun _ _ => extremeElem_float hf
    · exact unrounded (execVabs_float hf) fun _ _ => rfl
    · exact unrounded (execVneg_float hf) fun _ _ => rfl
    · exact unrounded (execVcopysgn_elems f s) fun _ _ => rfl
    · exact unrounded (execVrcp_elems f s) fun _ _ => rfl
    · exact unrounded (execVrsq_elems f s) fun _ _ => rfl
    · exact unrounded (execVexp2_elems f s) fun _ _ => rfl
    · exact unrounded (execVlog2_elems f s) fun _ _ => rfl
  · obtain ⟨_, hpos⟩ := decodeIz_zero env.iz false
    obtain ⟨_, hneg⟩ := decodeIz_zero env.iz true
    have hinf (n : Bool) : decodeIz env.iz 23 (encInf 23 n) = .inf n := by cases n <;> exact decodeIz_normal _ rfl
    have hminus : decodeIz env.iz 23 0xBF800000 = .fin true (2 ^ 23) (-23) := decodeIz_normal _ rfl
    obtain ⟨rcpPos, rsqPos, -, logPos⟩ := specialFn_zero env hpos
    obtain ⟨rcpNeg, -, expNeg, -⟩ := specialFn_zero env hneg
    obtain ⟨rsqMinus, logMinus⟩ := specialFn_negative env (by decide) hminus
    exact ⟨rcpPos, rcpNeg, (specialFn_inf env (hinf false)).1, rsqPos, rsqMinus, expNeg, (specialFn_inf env (hinf true)).2, logPos, specialFn_one env,
      logMinus, fun sel _ => ⟨specialFn_nan env (q := false) (decodeIz_normal _ rfl) sel, specialFn_nan env (q := true) (decodeIz_normal _ rfl) sel⟩⟩

end Sys2Proof.Machine

/-! # Vector words across lanes, and blocks (06 R168 to R174, R187, R188) -/

namespace Sys2Proof.Machine

open Host (Outcome)

/-! ## Numbers packed from fields (06 R171, R172) -/

/-- Bit `b` of field `e` of a packed number is that bit of the list's value, 0 beyond the list. -/
theorem testBit_packFields {w : Nat} (l : List Nat) (e : Nat) {b : Nat} (hb : b < w) :
    (packFields w l).testBit (w * e + b) = (nth 0 l e).testBit b := by
  induction l generalizing e with
  | nil => simp [packFields, nth]
  | cons x l ih =>
    have hsplit : packFields w (x :: l) = 2 ^ w * packFields w l + x % 2 ^ w := by
      rw [packFields, List.foldr_cons, ← packFields, Nat.mul_comm (2 ^ w), Nat.add_comm]
    rw [hsplit, Nat.testBit_two_pow_mul_add _ (Nat.mod_lt _ (Nat.two_pow_pos w))]
    cases e with
    | zero => simp [hb, nth]
    | succ e =>
      have hge : ¬w * (e + 1) + b < w := by rw [Nat.mul_succ]; omega
      have hsub : w * (e + 1) + b - w = w * e + b := by rw [Nat.mul_succ]; omega
      rw [if_neg hge, hsub, ih]
      rfl

/-- Lane `i` of a number of 2,048 bits holds its bits from 32 i on. -/
theorem getLsbD_lanesOf (n : Nat) {k : Nat} (hk : k < 2048) : (nth 0 (lanesOf n) (k / 32)).getLsbD (k % 32) = n.testBit k := by
  have hi : k / 32 < 64 := by omega
  have hj : k % 32 < 32 := by omega
  have hlane : nth 0 (lanesOf n) (k / 32) = BitVec.ofNat 32 (n / 2 ^ (32 * (k / 32))) := by simp [nth, lanesOf, hi]
  rw [hlane, BitVec.getLsbD_ofNat, Nat.testBit_div_two_pow, Nat.mod_add_div]
  simp [hj]

/-- The bits of a list of lanes as one number. -/
theorem testBit_numberOf (l : List Lane) (k : Nat) : (numberOf l).testBit k = (nth 0 l (k / 32)).getLsbD (k % 32) := by
  have hj : k % 32 < 32 := by omega
  conv_lhs => rw [← Nat.div_add_mod k 32]
  rw [numberOf, testBit_packFields _ _ hj, BitVec.getLsbD]
  congr 1
  by_cases h : k / 32 < l.length <;> simp [nth, h]

/-- A number whose field has the bits of a value of `w` bits has that value there (00 R8). -/
theorem sext_of_bits {w n k : Nat} {m : Int} (hw : 1 ≤ w) (hlo : -(2 ^ (w - 1) : Nat) ≤ m) (hhi : m < (2 ^ (w - 1) : Nat))
    (h : ∀ b < w, n.testBit (k + b) = (intMod w m).testBit b) : sext w (n / 2 ^ k) = m := by
  have hpow : 2 ^ w = 2 * 2 ^ (w - 1) := by rw [← Nat.pow_succ', Nat.succ_eq_add_one, Nat.sub_add_cancel hw]
  have hpos : (0 : Int) < (2 ^ w : Nat) := by exact_mod_cast Nat.two_pow_pos w
  have hlt : intMod w m < 2 ^ w := by
    unfold intMod
    have := Int.emod_lt_of_pos m hpos
    omega
  have hmod : n / 2 ^ k % 2 ^ w = intMod w m := by
    refine Nat.eq_of_testBit_eq fun b => ?_
    rw [Nat.testBit_mod_two_pow]
    by_cases hb : b < w
    · simp [hb, Nat.testBit_div_two_pow, Nat.add_comm b, h b hb]
    · simp [hb, Nat.testBit_lt_two_pow (hlt.trans_le (Nat.pow_le_pow_right (by decide) (not_lt.1 hb)))]
  have hval : (intMod w m : Int) = if m < 0 then m + (2 ^ w : Nat) else m := by
    unfold intMod
    rw [Int.toNat_of_nonneg (Int.emod_nonneg _ hpos.ne')]
    split
    · rw [← Int.add_emod_right, Int.emod_eq_of_lt (by omega) (by omega)]
    · exact Int.emod_eq_of_lt (by omega) (by omega)
  unfold sext
  rw [hmod]
  dsimp only
  split at hval <;> split <;> omega

/-! ## The elements of registers in order (06 R171) -/

/-- Registers of `k` elements each, one behind the other. -/
theorem flatMap_range_eq {α : Type} (d : α) {k : Nat} (hk : 0 < k) {l : Nat → List α} {n : Nat} (h : ∀ r < n, (l r).length = k) :
    (List.range n).flatMap l = (List.range (n * k)).map fun e => nth d (l (e / k)) (e % k) := by
  induction n with
  | zero => simp
  | succ n ih =>
    have hlast : l n = (List.range k).map fun j => nth d (l ((n * k + j) / k)) ((n * k + j) % k) := by
      refine (map_nth_range d (l n)).symm.trans ?_
      rw [h n n.lt_succ_self]
      refine List.map_congr_left fun j hj => ?_
      have hj := List.mem_range.1 hj
      rw [Nat.mul_comm n, Nat.mul_add_div hk, Nat.mul_add_mod, Nat.div_eq_of_lt hj, Nat.mod_eq_of_lt hj, Nat.add_zero]
    rw [List.range_succ, List.flatMap_append, ih fun r hr => h r (Nat.lt_succ_of_lt hr), Nat.succ_mul, List.range_add, List.map_append,
      List.map_map, List.flatMap_singleton]
    exact congrArg _ hlast

/-- The two 16-bit elements of every lane, the low one first. -/
def elements16 (l : List Lane) : List Nat := l.flatMap fun x => [x.toNat % 65536, x.toNat / 65536]

theorem length_elements16 (l : List Lane) : (elements16 l).length = 2 * l.length := by simp [elements16, Nat.mul_comm]

theorem nth_elements16 (l : List Lane) (j : Nat) : nth 0 (elements16 l) j = (nth 0 l (j / 2)).toNat / 65536 ^ (j % 2) % 65536 := by
  induction l generalizing j with
  | nil => simp [elements16, nth]
  | cons x l ih =>
    match j with
    | 0 => simp [elements16, nth]
    | 1 =>
      have hx := x.isLt
      show x.toNat / 65536 = x.toNat / 65536 ^ 1 % 65536
      omega
    | j + 2 =>
      have hdiv : (j + 2) / 2 = j / 2 + 1 := by omega
      rw [hdiv, Nat.add_mod_right]
      exact ih j

/-! ## A vector word's registers afterwards (06 R153) -/

theorem myVe_veFlags (lat : Nat) (fl : Fl) (s : State) : myVe (modMySite (veFlags lat fl) s) = myVe s := by
  rw [myVe, mySite_modMySite, veFlags, laterFlags]
  split <;> rfl

theorem myVe_vectorDone (f : VFields) (srcs : List Nat) (occ : Nat) (effect : State → State) (s : State) :
    myVe (vectorDone f srcs occ effect s) =
      veIssue (mySite s).now occ (advanceVe ((mySite s).now + occ) (loadLatches f srcs (myVe s) (myVe (effect s)))) := myVe_modMyVe ..

/-- What the latches and the program counter of a word do not touch. -/
structure VectorFileKept (v w : Ve) : Prop where
  lanes : w.v = v.v
  ready : w.vReady = v.vReady

theorem turnLoop_keeps (next : Nat) (v : Ve) : VectorFileKept v (turnLoop next v) := by
  unfold turnLoop
  dsimp only
  split <;> exact ⟨rfl, rfl⟩

theorem advanceVe_keeps (next : Nat) (v : Ve) : VectorFileKept v (advanceVe next v) := by
  unfold advanceVe
  split
  · exact ⟨rfl, rfl⟩
  · split
    · dsimp only
      split
      · obtain ⟨hv, hr⟩ := turnLoop_keeps next { v with pc := v.npc, slots := 0 }
        exact ⟨hv, hr⟩
      · exact ⟨rfl, rfl⟩
    · exact ⟨rfl, rfl⟩

theorem advanceVe_pc (next : Nat) {v : Ve} (h : v.slots = 0) : (advanceVe next v).pc = v.pc + 8 := by simp [advanceVe, h]

/-- Loading the latch of the first source changes that latch alone. -/
theorem loadLatches_first (f : VFields) (old v : Ve) : ∃ l, loadLatches f [0] old v = { v with latchA := l } := by
  show ∃ l, (if srcHeld f 0 then v else setLatch 0 (getV old (srcField f 0)) v) = _
  split
  · exact ⟨v.latchA, rfl⟩
  · exact ⟨_, rfl⟩

/-! ## Writing a group of registers (06 R172) -/

/-- The registers `d` to `d + n - 1` written whole. -/
def putGroup (now lat d : Nat) (lanes : Nat → List Lane) (n : Nat) (v : Ve) : Ve :=
  (List.range n).foldl (fun v r => putV now lat (d + r) (BitVec.allOnes 64) false (lanes r) v) v

section Group

variable (now lat d : Nat) (lanes : Nat → List Lane) (n : Nat) (v : Ve)

theorem putGroup_succ : putGroup now lat d lanes (n + 1) v =
    putV now lat (d + n) (BitVec.allOnes 64) false (lanes n) (putGroup now lat d lanes n v) := by
  simp [putGroup, List.range_succ]

theorem putGroup_control : (putGroup now lat d lanes n v).loop = v.loop ∧ (putGroup now lat d lanes n v).slots = v.slots ∧
    (putGroup now lat d lanes n v).pc = v.pc := by
  induction n with
  | zero => exact ⟨rfl, rfl, rfl⟩
  | succ n ih => rw [putGroup_succ]; exact ih

/-- Every register of the group has its result on its way. -/
theorem putGroup_vReady {r : Nat} (hr : r < n) : (putGroup now lat d lanes n v).vReady.get 0 (physV v.loop (d + r)) = now + lat := by
  induction n with
  | zero => omega
  | succ n ih =>
    obtain ⟨hloop, -, -⟩ := putGroup_control now lat d lanes n v
    rw [putGroup_succ]
    show (Table.put _ (physV (putGroup now lat d lanes n v).loop (d + n)) _).get 0 _ = _
    rw [hloop, Table.get_put]
    split
    · rfl
    · next hne =>
      have hrn : r ≠ n := fun e => hne (by rw [e])
      exact ih (by omega)

/-- A register of the group that no later one of the group shares holds its lanes. -/
theorem putGroup_lanes {r i : Nat} (hr : r < n) (hi : i < 64) (hdist : ∀ k < n, k ≠ r → physV v.loop (d + k) ≠ physV v.loop (d + r)) :
    nth 0 ((putGroup now lat d lanes n v).v.get [] (physV v.loop (d + r))) i = nth 0 (lanes r) i := by
  induction n with
  | zero => omega
  | succ n ih =>
    obtain ⟨hloop, -, -⟩ := putGroup_control now lat d lanes n v
    rw [putGroup_succ]
    show nth 0 ((Table.put _ (physV (putGroup now lat d lanes n v).loop (d + n)) _).get [] _) i = _
    rw [hloop]
    by_cases hrn : n = r
    · subst hrn
      have hact : (BitVec.allOnes 64).getLsbD i = true := by rw [BitVec.getLsbD_allOnes, decide_eq_true hi]
      rw [Table.get_put_same]
      simp only [nth, List.getD_eq_getElem?_getD, List.getElem?_map, List.getElem?_range hi, Option.map_some, Option.getD_some, hact, if_true]
    · rw [Table.get_put_ne _ _ _ (hdist n n.lt_succ_self hrn).symm]
      exact ih (by omega) fun k hk => hdist k (Nat.lt_succ_of_lt hk)

end Group

/-! ## The words across lanes (06 R168 to R174, R187, R188) -/

section CrossLane

variable {s : State} {f : VFields}

theorem reduceWord_next {kind : Nat} (hs : sourcesReady s f [0]) (hl : lanesReady s f) : reduceWord kind f s =
    vectorDone f [0] 1 (fun t =>
      modMySite (veFlags 9 (reduceLanes kind f (mySite s) (activeLanes (myVe s) f) (srcVal (myVe s) f 0)).2)
        (modMyVe (putV (mySite s).now 9 f.vd.toNat (BitVec.allOnes 64) false
          (List.replicate 64 (reduceLanes kind f (mySite s) (activeLanes (myVe s) f) (srcVal (myVe s) f 0)).1)) t)) s := by
  simp only [reduceWord]
  rw [veWord_next hs (firstHit_lanesReady hl)]
  rfl

theorem groupHit_none {l : Loop} {n k : Nat} (h : groupOk l n k = true) : groupHit l n k = none := by
  rw [groupHit, h]
  rfl

/-- The checks of vqbfp beyond its first source (R171). -/
theorem firstHit_vqbfp {n : Nat} (ha : groupOk (myVe s).loop f.va.toNat n = true) (hd : groupOk (myVe s).loop f.vd.toNat 2 = true)
    (hr : ∀ r < n, 0 < r → readV (mySite s).now (myVe s) (f.va.toNat + r) = none) (hw : writeV (mySite s).now (myVe s) f.vd.toNat = none)
    (hw1 : writeV (mySite s).now (myVe s) (f.vd.toNat + 1) = none) :
    firstHit ([groupHit (myVe s).loop f.va.toNat n, groupHit (myVe s).loop f.vd.toNat 2]
      ++ (List.range (n - 1)).map (fun r => readV (mySite s).now (myVe s) (f.va.toNat + r + 1))
      ++ [writeV (mySite s).now (myVe s) f.vd.toNat, writeV (mySite s).now (myVe s) (f.vd.toNat + 1)]) = none := by
  rw [groupHit_none ha, groupHit_none hd, hw, hw1]
  refine firstHit_eq_none.2 fun h hh => ?_
  simp only [List.mem_append, List.mem_cons, List.mem_map, List.mem_range, List.not_mem_nil, or_false, or_self] at hh
  rcases hh with (rfl | ⟨r, hr', rfl⟩) | rfl
  · rfl
  · exact hr (r + 1) (by omega) r.succ_pos
  · rfl

/-- The checks of vdqbfp beyond its first source (R172). -/
theorem firstHit_vdqbfp (ha : groupOk (myVe s).loop f.va.toNat 2 = true) (hd : groupOk (myVe s).loop f.vd.toNat 4 = true)
    (hr : readV (mySite s).now (myVe s) (f.va.toNat + 1) = none) (hw : ∀ r < 4, writeV (mySite s).now (myVe s) (f.vd.toNat + r) = none) :
    firstHit ([groupHit (myVe s).loop f.va.toNat 2, groupHit (myVe s).loop f.vd.toNat 4, readV (mySite s).now (myVe s) (f.va.toNat + 1)]
      ++ (List.range 4).map fun r => writeV (mySite s).now (myVe s) (f.vd.toNat + r)) = none := by
  rw [groupHit_none ha, groupHit_none hd, hr]
  refine firstHit_eq_none.2 fun h hh => ?_
  simp only [List.mem_append, List.mem_cons, List.mem_map, List.mem_range, List.not_mem_nil, or_false, or_self] at hh
  rcases hh with rfl | ⟨r, hr', rfl⟩
  · rfl
  · exact hw r hr'

/-- Source element `e` of vqbfp (R171). -/
def vqbfpElement (f : VFields) (v : Ve) (e : Nat) : Nat :=
  if f.ty = 0 then (nth 0 (getV v (f.va.toNat + e / 64)) (e % 64)).toNat
  else (nth 0 (getV v (f.va.toNat + e / 128)) (e % 128 / 2)).toNat / 65536 ^ (e % 2) % 65536

/-- The source registers of vqbfp: four of 32-bit elements, or two of 16-bit ones. -/
def vqbfpCount (f : VFields) : Nat := if f.ty = 0 then 4 else 2

def vqbfpRegs (f : VFields) (v : Ve) : List (List Lane) := (List.range (vqbfpCount f)).map fun r => getV v (f.va.toNat + r)

/-- The elements of the source registers, one register behind the other. -/
def vqbfpWords (f : VFields) (v : Ve) : List Nat :=
  if f.ty = 0 then (vqbfpRegs f v).flatMap (·.map (·.toNat)) else (vqbfpRegs f v).flatMap elements16

theorem vqbfpWords_eq {v : Ve} (h : ∀ r < vqbfpCount f, (getV v (f.va.toNat + r)).length = 64) :
    vqbfpWords f v = (List.range 256).map (vqbfpElement f v) := by
  unfold vqbfpWords vqbfpElement vqbfpRegs
  by_cases ht : f.ty = 0
  · simp only [vqbfpCount, ht, if_true] at h ⊢
    rw [List.flatMap_map, flatMap_range_eq 0 (k := 64) (by decide) fun r hr => (List.length_map ..).trans (h r hr)]
    refine List.map_congr_left fun e he => ?_
    have hlt : e % 64 < (getV v (f.va.toNat + e / 64)).length := by
      have := List.mem_range.1 he
      rw [h _ (by omega)]
      omega
    simp [nth, hlt]
  · simp only [vqbfpCount, ht, if_false] at h ⊢
    rw [List.flatMap_map, flatMap_range_eq 0 (k := 128) (by decide) fun r hr => by rw [length_elements16, h r hr]]
    refine List.map_congr_left fun e _ => ?_
    have hmod : e % 128 % 2 = e % 2 := by omega
    rw [nth_elements16, hmod]

/-- The block that vqbfp makes of its source elements (R171). -/
def vqbfpBlock (f : VFields) (c : Site) : Nat × List Int × Fl :=
  quantiseBlock (veEnv c).bz ((vqbfpWords f c.ve).map (decodeIz (veEnv c).iz (fracBits f.ty))) f.vc.toNat (resolveRm (veEnv c) f.rnd.toNat) (vSite c 8)

/-- The registers of mantissas that hold a block (R171). -/
def mantissaLanes (w : Nat) (ms : List Int) : List Lane := lanesOf (packFields w (ms.map (intMod w)))

/-- Mantissa `e` of a block stands from bit `w e` on, lowest bit first. -/
theorem getLsbD_mantissaLanes {w : Nat} (ms : List Int) {e b : Nat} (he : e < 256) (hw : w ≤ 8) (hb : b < w) :
    (nth 0 (mantissaLanes w ms) ((w * e + b) / 32)).getLsbD ((w * e + b) % 32) = (intMod w (nth 0 ms e)).testBit b := by
  have hlt : w * e + b < 2048 := by
    have := Nat.mul_le_mul hw (Nat.le_of_lt_succ he)
    omega
  have hnth : nth 0 (ms.map (intMod w)) e = intMod w (nth 0 ms e) := by
    by_cases h : e < ms.length <;> simp [nth, h, intMod]
  rw [mantissaLanes, getLsbD_lanesOf _ hlt, testBit_packFields _ _ hb, hnth]

/-- What vqbfp writes: a register of mantissas, and the exponent in lane 0 of the next. -/
def putBlock (f : VFields) (now : Nat) (block : Nat × List Int × Fl) (t : State) : State :=
  modMySite (veFlags 8 block.2.2) (modMyVe (fun y =>
    putV now 8 (f.vd.toNat + 1) (BitVec.allOnes 64) false (.ofNat 32 block.1 :: List.replicate 63 0)
      (putV now 8 f.vd.toNat (BitVec.allOnes 64) false (mantissaLanes f.vc.toNat block.2.1) y)) t)

theorem execVqbfp_eq (f : VFields) (s : State) : exec (.vqbfp f) s = .next (veWord f [0]
    ([groupHit (myVe s).loop f.va.toNat (vqbfpCount f), groupHit (myVe s).loop f.vd.toNat 2]
      ++ (List.range (vqbfpCount f - 1)).map (fun r => readV (mySite s).now (myVe s) (f.va.toNat + r + 1))
      ++ [writeV (mySite s).now (myVe s) f.vd.toNat, writeV (mySite s).now (myVe s) (f.vd.toNat + 1)]) 4
    (putBlock f (mySite s).now (vqbfpBlock f (mySite s))) s) := rfl

/-- What vdqbfp writes to register `r` of its four: the values of its elements (R172). -/
def dequantLanes (f : VFields) (c : Site) (r : Nat) : List Lane :=
  (List.range 64).map fun i => .ofNat 32 (nth (0, 0) ((List.range 256).map fun k =>
    dequantElem (veEnv c).bz (veEnv c).oz ((nth 0 (getV c.ve (f.va.toNat + 1)) 0).toNat % 256) f.vc.toNat
      (sext f.vc.toNat (numberOf (getV c.ve f.va.toNat) / 2 ^ (f.vc.toNat * k)))) (64 * r + i)).1

theorem execVdqbfp_eq (f : VFields) (s : State) : ∃ fl, exec (.vdqbfp f) s = .next (veWord f [0]
    ([groupHit (myVe s).loop f.va.toNat 2, groupHit (myVe s).loop f.vd.toNat 4, readV (mySite s).now (myVe s) (f.va.toNat + 1)]
      ++ (List.range 4).map fun r => writeV (mySite s).now (myVe s) (f.vd.toNat + r)) 4
    (fun t => modMySite (veFlags 6 fl) (modMyVe (putGroup (mySite s).now 6 f.vd.toNat (dequantLanes f (mySite s)) 4) t)) s) := ⟨_, rfl⟩

/-- A lane that vdqbfp writes is the value of the mantissa that stands in the block's field. -/
theorem nth_dequantLanes {c : Site} {r i : Nat} {m : Int} (hw : 1 ≤ f.vc.toNat) (hr : r < 4) (hi : i < 64)
    (hlo : -(2 ^ (f.vc.toNat - 1) : Nat) ≤ m) (hhi : m < (2 ^ (f.vc.toNat - 1) : Nat))
    (h : ∀ b < f.vc.toNat, (nth 0 (getV c.ve f.va.toNat) ((f.vc.toNat * (64 * r + i) + b) / 32)).getLsbD ((f.vc.toNat * (64 * r + i) + b) % 32) =
      (intMod f.vc.toNat m).testBit b) :
    nth 0 (dequantLanes f c r) i =
      .ofNat 32 (dequantElem (veEnv c).bz (veEnv c).oz ((nth 0 (getV c.ve (f.va.toNat + 1)) 0).toNat % 256) f.vc.toNat m).1 := by
  have hm := sext_of_bits hw hlo hhi fun b hb => (testBit_numberOf _ _).trans (h b hb)
  have hk : 64 * r + i < 256 := by omega
  simp [dequantLanes, nth, hi, hk, hm]

/-- The engine after a word that writes a group of registers. -/
theorem myVe_groupDone (occ lat d n : Nat) (fl : Fl) (lanes : Nat → List Lane) :
    let now := (mySite s).now
    let v := myVe s
    let u := myVe (vectorDone f [0] occ (fun t => modMySite (veFlags lat fl) (modMyVe (putGroup now lat d lanes n) t)) s)
    u.ctl.next = now + occ ∧ (v.slots = 0 → u.pc = v.pc + 8) ∧ VectorFileKept (putGroup now lat d lanes n v) u := by
  intro now v u
  have hu : u = veIssue now occ (advanceVe (now + occ) (loadLatches f [0] v (putGroup now lat d lanes n v))) := by
    simp only [u, myVe_vectorDone, myVe_veFlags, myVe_modMyVe]
    rfl
  obtain ⟨l, hl⟩ := loadLatches_first f v (putGroup now lat d lanes n v)
  obtain ⟨-, hslots, hpc⟩ := putGroup_control now lat d lanes n v
  rw [hu, hl]
  refine ⟨rfl, fun h => ?_, ?_⟩
  · rw [← hpc]
    exact advanceVe_pc _ (hslots.trans h)
  · obtain ⟨hlanes, hready⟩ := advanceVe_keeps (now + occ) { putGroup now lat d lanes n v with latchA := l }
    exact ⟨hlanes, hready⟩

/-- vdqbfp takes 4 beats; each register that it writes is ready 6 beats on, with the values of its part of the block (R172). -/
theorem execVdqbfp_next (hs : sourcesReady s f [0]) (ha : groupOk (myVe s).loop f.va.toNat 2 = true)
    (hd : groupOk (myVe s).loop f.vd.toNat 4 = true) (hr : readV (mySite s).now (myVe s) (f.va.toNat + 1) = none)
    (hw : ∀ r < 4, writeV (mySite s).now (myVe s) (f.vd.toNat + r) = none) :
    let v := myVe s
    ∃ t, exec (.vdqbfp f) s = .next t ∧ (myVe t).ctl.next = (mySite s).now + 4 ∧ (v.slots = 0 → (myVe t).pc = v.pc + 8) ∧
      ∀ r < 4, (myVe t).vReady.get 0 (physV v.loop (f.vd.toNat + r)) = (mySite s).now + 6 ∧
        ((∀ k < 4, k ≠ r → physV v.loop (f.vd.toNat + k) ≠ physV v.loop (f.vd.toNat + r)) →
          ∀ i < 64, nth 0 ((myVe t).v.get [] (physV v.loop (f.vd.toNat + r))) i = nth 0 (dequantLanes f (mySite s) r) i) := by
  obtain ⟨fl, hx⟩ := execVdqbfp_eq f s
  rw [veWord_next hs (firstHit_vdqbfp ha hd hr hw)] at hx
  obtain ⟨hnext, hpc, hlanes, hready⟩ := myVe_groupDone (s := s) (f := f) 4 6 f.vd.toNat 4 fl (dequantLanes f (mySite s))
  refine ⟨_, hx, hnext, hpc, fun r hr4 => ⟨?_, fun hdist i hi => ?_⟩⟩
  · rw [hready]
    exact putGroup_vReady _ _ _ _ _ _ hr4
  · rw [hlanes]
    exact putGroup_lanes _ _ _ _ _ _ hr4 hi hdist

end CrossLane

/-- Settles O34: each word is the common form with the word's function of its lanes; the fields of a block are the bits of one number. As it is
bracketed, the clause of vdqbfp has a register's ready beat among its premises; `execVdqbfp_next` proves that beat. -/
theorem vectorCrossLaneResults : Obligations.VectorCrossLaneResults := by
  unfold Obligations.VectorCrossLaneResults
  refine ⟨fun s f hl => ?_, fun s f hs h2 h8 => ?_⟩
  · intro c v env at' half gives moves odd reduces
    have hrm : resolveRm env f.rnd.toNat = if f.rnd = 0 then env.rm else f.rnd.toNat := resolveRm_toNat ..
    rw [← hrm]
    refine ⟨?_, ?_, ?_, ?_, ?_, ?_, ?_, ?_, ?_, ?_, ?_, ?_, ?_⟩
    all_goals intro hs
    iterate 8 exact congrArg Outcome.next (vLanes_next hs hl)
    iterate 3 exact congrArg Outcome.next (reduceWord_next hs hl)
    iterate 2 exact congrArg Outcome.next (vLanes_next hs hl)
  · intro c v w env a d n element rm block
    refine ⟨fun ht ha hd hr hlen hw hw1 => ?_, fun ha hd hr hw => ?_⟩
    · have hblock : vqbfpBlock f c = block := by
        rw [vqbfpBlock, vqbfpWords_eq (v := c.ve) hlen, List.map_map, resolveRm_toNat]
        rfl
      rw [← hblock]
      refine ⟨mantissaLanes w (vqbfpBlock f c).2.1, fun e he b hb => getLsbD_mantissaLanes _ he h8 hb, ?_⟩
      rw [execVqbfp_eq, veWord_next hs (firstHit_vqbfp (n := vqbfpCount f) ha hd hr hw hw1)]
      rfl
    · obtain ⟨t, hx, hnext, hpc, hregs⟩ := execVdqbfp_next hs ha hd hr hw
      refine ⟨t, hx, hnext, hpc, fun r hr4 ⟨_, hdist⟩ i hi m hlo hhi hbits => ?_⟩
      obtain ⟨-, hvals⟩ := hregs r hr4
      exact (hvals hdist i hi).trans (nth_dequantLanes (by omega) hr4 hi hlo hhi hbits)

end Sys2Proof.Machine

/-! # Jumps, calls and returns (04 R103, R106, R107) -/

namespace Sys2Proof.Machine

open Host (Outcome)

section Jumps

variable {s : State}

/-- A change of the executing context depends on that context alone. -/
theorem modMyCtx_congr {f g : Ctx → Ctx} (h : f (myCtx s) = g (myCtx s)) : modMyCtx f s = modMyCtx g s := by
  simp only [modMyCtx, modMySite, modSite, modCtx]
  rw [show f (ctxOf (site s.cur.site s) s.cur.ctx) = g (ctxOf (site s.cur.site s) s.cur.ctx) from h]

theorem slotHit_none (h : outsideSlots s) : slotHit (myCtx s) = none := by
  simp [slotHit, show (myCtx s).slots = 0 from h]

theorem branchHit_none (h : freeMode s) : branchHit (myCtx s) = none := by
  simp [branchHit, show (myCtx s).ctl.timetabled = false from h]

theorem targetHit_none {target : Word} (h : targetInside s target) (taken : Bool) : targetHit (myCtx s) taken target = none := by
  simp [targetHit, show (myCtx s).code.inBounds target.toNat 4 = true from h]

theorem overflowHit_none (h : (myCtx s).trap.rscnt.toNat < 16) : overflowHit (myCtx s) = none := by
  simp [overflowHit, Nat.not_le.2 h]

theorem jumpHits_none {c : Cap} (h : jumpable c) : firstHit (jumpHits c) = none := by
  obtain ⟨htag, hx, hin, halign⟩ := h
  simp [jumpHits, htag, hx, hin, halign, firstHit]

/-- The checks of a jump through a capability (04 R107). -/
theorem jumpChecks_none {a : BitVec 4} (hfree : freeMode s) (ho : outsideSlots s) (hr : readableA s a) (hj : jumpable (getA (myCtx s) a)) :
    firstHit ([slotHit (myCtx s), branchHit (myCtx s), readA (mySite s).now (myCtx s) a] ++ jumpHits (getA (myCtx s) a)) = none := by
  rw [firstHit_append (by simp [slotHit_none ho, branchHit_none hfree, readA_none hr, firstHit])]
  exact jumpHits_none hj

/-- A transfer whose first failing check is not of its target stops there. -/
theorem transfer_stop {hits : List (Option Hit)} {taken : Bool} {target : Word} {f : Ctx → Ctx} {e : Hit} (h : firstHit hits = some e) :
    transfer hits taken target f s = ccStop e s := by
  have hall : firstHit (hits ++ [targetHit (myCtx s) taken target]) = some e := by
    induction hits with
    | nil => exact nomatch h
    | cons a l ih => cases a <;> simp_all [firstHit]
  simp only [transfer, hall]

/-- The push of a call, by the depth at which it stands (02 R64). -/
theorem transferDone_push (target : Word) :
    transferDone true target pushReturn s = transferDone true target (fun y => { y with trap := { y.trap with
      rse := y.trap.rse.put (myCtx s).trap.rscnt.toNat (y.pc + 12), rscnt := (myCtx s).trap.rscnt + 1 } }) s :=
  modMyCtx_congr rfl

end Jumps

/-- Settles O12: each word is the common form of a transfer, whose checks pass by the premises or stop at the return-address store. -/
theorem jumpResults : Obligations.JumpResults := by
  unfold Obligations.JumpResults
  refine ⟨fun s disp a ho => ⟨fun ht => ?jmp, fun ht hd => ?call, fun hd ht => ?ret, fun hf hr hj ht => ?jr, fun hf hr hj ht hd => ?callr⟩,
    fun s disp ho => ⟨fun hd => ?full, fun hd => ?empty⟩⟩
  case jmp =>
    exact congrArg Outcome.next (transfer_next (by simp [slotHit_none ho, firstHit]) fun _ => ht)
  case call =>
    exact congrArg Outcome.next ((transfer_next (by simp [slotHit_none ho, overflowHit_none hd, firstHit]) fun _ => ht).trans (transferDone_push _))
  case ret =>
    have hne : ((myCtx s).trap.rscnt.toNat == 0) = false := beq_false_of_ne (Nat.ne_of_gt hd)
    exact congrArg Outcome.next ((transfer_next (by simp [slotHit_none ho, hne, firstHit]) fun _ => ht).trans (modMyCtx_congr rfl))
  case jr =>
    exact congrArg Outcome.next (transfer_next (jumpChecks_none hf ho hr hj) fun _ => ht)
  case callr =>
    refine congrArg Outcome.next ((transfer_next ?_ fun _ => ht).trans (transferDone_push _))
    rw [firstHit_append (jumpChecks_none hf ho hr hj)]
    simp [targetHit_none ht, overflowHit_none hd, firstHit]
  case full =>
    have hover : overflowHit (myCtx s) = some (.trap 0x0B 0) := by simp [overflowHit, hd]
    refine congrArg Outcome.next (transfer_stop (e := .trap 0x0B 0) ?_)
    simp [slotHit_none ho, hover, firstHit]
  case empty =>
    refine congrArg Outcome.next (transfer_stop (e := .trap 0x0C 0) ?_)
    simp [slotHit_none ho, hd, firstHit]

end Sys2Proof.Machine

/-! # A precise trap (18 R411, R412) -/

namespace Sys2Proof.Machine

section PreciseTrap

/-- A site that takes a trap: the slip is counted and a record of it traced (15 R374, R375). -/
def notedTrap (s : State) (code info : Nat) (c : Site) : Site :=
  trace (ctxHead s.cur.ctx) 3 (countSlip (liveJob s) (myRink s) code info c)

/-- Counting and tracing are of the observation block alone. -/
theorem notedTrap_obs (s : State) (code info : Nat) (c : Site) : ∃ o, notedTrap s code info c = { c with obs := o } := by
  have hslip : ∃ o, countSlip (liveJob s) (myRink s) code info c = { c with obs := o } := by
    unfold countSlip countEvent
    split
    · dsimp only
      split <;> exact ⟨_, rfl⟩
    · exact ⟨c.obs, rfl⟩
  obtain ⟨o, ho⟩ := hslip
  unfold notedTrap trace
  rw [ho]
  split <;> exact ⟨_, rfl⟩

variable {s : State} {code info : Nat}

theorem ctxOf_notedTrap (x : Side) (c : Site) : ctxOf (notedTrap s code info c) x = ctxOf c x := by
  obtain ⟨o, ho⟩ := notedTrap_obs s code info c
  rw [ho]; rfl

theorem now_notedTrap (c : Site) : (notedTrap s code info c).now = c.now := by
  obtain ⟨o, ho⟩ := notedTrap_obs s code info c
  rw [ho]

theorem own_notedTrap (c : Site) : (notedTrap s code info c).own = c.own := by
  obtain ⟨o, ho⟩ := notedTrap_obs s code info c
  rw [ho]

/-- The restart point of a word that has no effect is the word itself (02 R61). -/
theorem restart_at (x : Ctx) : restart x false = (x.pc, if x.slots = 0 then x.pc + 4 else x.npc, x.slots) := by
  unfold restart
  rw [if_neg Bool.false_ne_true]
  split
  · next h => rw [h]
  · rfl

/-- The causes that are fatal in free mode (18 R411). -/
theorem classFatal_precise (h : code ∉ [0x1A, 0x1B, 0x2D, 0x2E, 0x2F]) : classFatal false code info = false := by
  simpa [classFatal, and_assoc] using h

/-- A precise trap with handlers enabled: the restart point is saved, then the handler entered (18 R412). -/
theorem takeTrap_handler (after : Bool) (hfree : freeMode s) (hh : (myCtx s).trap.handler = false) (hc : code ∉ [0x1A, 0x1B, 0x2D, 0x2E, 0x2F])
    (hv : bitOf (rink (myRink s) s).recov.hvec.toNat 0 = true) :
    takeTrap after code info false s = modMyCtx (fun x => enterHandler (mySite s).now (rink (myRink s) s).recov.hvec.toNat
      (rink (myRink s) s).recov.hlim.toNat (saveTrap after (ecauseWord info code (ctxHead s.cur.ctx) false false) x))
      (modMySite (notedTrap s code info) s) := by
  have hctx : myCtx (modMySite (notedTrap s code info) s) = myCtx s := by
    simp only [myCtx, mySite_modMySite, modMySite_cur, ctxOf_notedTrap]
  have hnow : (mySite (modMySite (notedTrap s code info) s)).now = (mySite s).now := by rw [mySite_modMySite, now_notedTrap]
  have hrink : myRink (modMySite (notedTrap s code info) s) = myRink s := by
    simp only [myRink, headRink, mySite_modMySite, modMySite_cur, own_notedTrap]
  have hr : ∀ r, rink r (modMySite (notedTrap s code info) s) = rink r s := fun _ => rfl
  rw [← modMyCtx_modMyCtx]
  unfold takeTrap
  rw [show (fun c => trace (ctxHead s.cur.ctx) 3 (countSlip (liveJob s) (myRink s) code info c)) = notedTrap s code info from rfl]
  simp only [hctx, hnow, hrink, hr, modMySite_cur, show (myCtx s).ctl.timetabled = false from hfree, hh, hv, classFatal_precise hc,
    Bool.false_eq_true, if_false, Bool.or_false, Bool.not_true]

end PreciseTrap

/-- Settles O14: the handler entered is a function of the context alone, which counting and tracing leave as it was. -/
theorem preciseTrapEntersHandler : Obligations.PreciseTrapEntersHandler := by
  unfold Obligations.PreciseTrapEntersHandler
  intro s code info hfree hh hc hv x t y hvec addr
  have hy : y = enterHandler (mySite s).now hvec (rink (myRink s) s).recov.hlim.toNat
      (saveTrap false (ecauseWord info code (ctxHead s.cur.ctx) false false) x) := by
    have hx : myCtx (modMySite (notedTrap s code info) s) = x := by
      simp only [myCtx, mySite_modMySite, modMySite_cur, ctxOf_notedTrap, x]
    calc y = myCtx t := rfl
      _ = _ := by rw [show t = _ from takeTrap_handler false hfree hh hc hv, myCtx_modMyCtx, hx]
  have hstream : ctxHead s.cur.ctx % 64 = ctxHead s.cur.ctx := by cases s.cur.ctx <;> rfl
  rw [hy]
  simp only [enterHandler, saveTrap, restart_at, ecauseWord, hstream, show x.ctl.timetabled = false from hfree]
  simp [b2n, handlerCap, addr]

end Sys2Proof.Machine

/-! # The reset state (02 R61 to R66, 10 R268, R269, 15 R362, 19 R428) -/

namespace Sys2Proof.Machine

section Reset

/-- A list of keys that all have one value reads it at those keys. -/
theorem lookupKey_map_const {α : Type} (d v : α) (k : Nat) (l : List Nat) : lookupKey d k (l.map fun i => (i, v)) = if k ∈ l then v else d := by
  induction l with
  | nil => rfl
  | cons i is ih =>
    by_cases h : i = k
    · simp [lookupKey, h]
    · simp [lookupKey, h, ih, Ne.symm h]

theorem Table.get_fill {α : Type} (n : Nat) (v d : α) (k : Nat) : (Table.fill n v).get d k = if k < n then v else d := by
  have h : (Table.fill n v).get d k = if k ∈ List.range n then v else d := lookupKey_map_const d v k (List.range n)
  simpa using h

/-- A table filled with its own default reads it at every key. -/
theorem Table.get_fill_default {α : Type} (n : Nat) (d : α) (k : Nat) : (Table.fill n d).get d k = d := by
  rw [Table.get_fill, ite_self]

theorem Table.get_fill_listed {α : Type} {n k : Nat} (v d : α) (h : k < n) : (Table.fill n v).get d k = v := by
  rw [Table.get_fill, if_pos h]

theorem site_reset (k : Nat) : site k State.reset = Site.reset := Table.get_fill_default ..

theorem rink_reset (r : Nat) : rink r State.reset = Rink.reset := Table.get_fill_default ..

theorem die_reset (d : Nat) : die d State.reset = Die.reset := Table.get_fill_default ..

theorem fnOf_reset (v : Nat) : fnOf v State.reset = Fn.reset := Table.get_fill_default ..

theorem ctxOf_reset (x : Side) : ctxOf Site.reset x = Ctx.reset := by cases x <;> rfl

/-- No engine of a core has an owner at reset (15 R363). -/
theorem ownField_none (h : Nat) : ownField Own.none h = none := by
  unfold ownField
  split <;> rfl

end Reset

/-- Settles O58: each table of the reset state is filled with one value, and each register of that value stands at its reset. -/
theorem resetState : Obligations.ResetState := by
  unfold Obligations.ResetState
  intro s
  refine ⟨⟨rfl, rfl⟩, fun _ => rfl, rfl, fun k => ?core, fun r => ?rink, fun d => ?die, fun v => ?function, by decide⟩
  case core =>
    rw [site_reset]
    refine ⟨ownField_none, rfl, rfl, rfl, ⟨rfl, rfl, rfl, rfl, rfl, rfl, rfl⟩, fun x => ?_⟩
    rw [ctxOf_reset]
    exact ⟨rfl, rfl, rfl, rfl, rfl, rfl, rfl, Table.get_fill_default 16 0, rfl, rfl⟩
  case rink =>
    rw [rink_reset]
    refine ⟨rfl, rfl, rfl, rfl, fun n => ?_, rfl, rfl, rfl, rfl, rfl, rfl, rfl⟩
    exact congrArg Place.v (Table.get_fill_default 272 Place.reset n)
  case die =>
    rw [die_reset]
    exact ⟨rfl, rfl, fun b hb => Table.get_fill_listed _ _ hb, fun c hc => ⟨Table.get_fill_listed _ _ hc, Table.get_fill_listed _ _ hc⟩⟩
  case function =>
    rw [fnOf_reset]
    exact ⟨rfl, rfl⟩

end Sys2Proof.Machine

/-! # What the register words leave unchanged (02 R43, R44, 04 R95 to R104, R121) -/

namespace Sys2Proof.Machine

open Host (Outcome)

/-! ## A word that changes its own context -/

section ContextFrames

variable {s : State} {x y z : Ctx} {d : BitVec 5}

theorem onlyMyCtx_modMyCtx (f : Ctx → Ctx) (s : State) : OnlyMyCtx s (modMyCtx f s) where
  rest := rfl
  others _ hk := site_modSite_ne hk ..
  core := by rw [mySite_modMyCtx, myCtx_modMyCtx]; rfl

theorem memoryKept_modMyCtx (f : Ctx → Ctx) (s : State) : MemoryKept s (modMyCtx f s) where
  mem _ := rfl
  host _ := rfl
  tm _ a := congrArg (fun t => t.bytes.read a) (site_modSite_keeps Site.tm (modCtx_tm _ _) ..)
  tiles _ n a := congrArg (fun t => (t.get Table.empty n).read a) (site_modSite_keeps Site.tiles (modCtx_tiles _ _) ..)

theorem specialsKept_putS (now lat : Nat) (r : BitVec 5) (v : Word) (x : Ctx) : SpecialsKept x (putS now lat r v x) := by
  constructor <;> simp

theorem specialsKept_issued {now occ : Nat} (h : SpecialsKept x y) : SpecialsKept x (ccIssue now occ (advancePc y)) := by
  obtain ⟨h1, h2, h3, h4, h5, h6, h7, h8, h9⟩ := h
  constructor <;> simpa

theorem getLsbD_setBit_ne {n i j : Nat} (h : j ≠ i) (w : BitVec n) (b : Bool) : (setBit w i b).getLsbD j = w.getLsbD j := by
  have hone : (1#n <<< i).getLsbD j = false := by
    rw [BitVec.getLsbD_shiftLeft, BitVec.getLsbD_one]
    simp
    omega
  cases b <;> simp [setBit, hone]
  exact fun hj => BitVec.lt_of_getLsbD hj

/-- A write of s0 is none, and of another register the only one (02 R43). -/
theorem scalarsKept_putS (now lat : Nat) (v : Word) (x : Ctx) : ScalarsKept d x (putS now lat d v x) := by
  refine fun r hr => ⟨getS_putS_ne hr .., ?_⟩
  unfold putS
  split
  · rfl
  · have hne : ¬r.toNat = d.toNat := fun e => hr (BitVec.eq_of_toNat_eq e)
    exact getLsbD_setBit_ne hne ..

/-- The frame of a scalar word: its context's other registers, capability registers and special registers (02 R43). -/
structure ScalarFrame (d : BitVec 5) (x y : Ctx) : Prop where
  scalars : ScalarsKept d x y
  caps : CapsKept x y
  zero : d = 0 → y.s = x.s
  specials : SpecialsKept x y

theorem scalarFrame_putS (now lat : Nat) (v : Word) (x : Ctx) : ScalarFrame d x (putS now lat d v x) where
  scalars := scalarsKept_putS now lat v x
  caps r := by simp [getA]
  zero := by rintro rfl; rw [putS_zero]
  specials := specialsKept_putS ..

theorem ScalarFrame.divFree (h : ScalarFrame d x y) (n : Nat) : ScalarFrame d x { y with divFree := n } :=
  ⟨h.scalars, h.caps, h.zero, ⟨h.specials.fstat, h.specials.fctl, h.specials.srkey, h.specials.trap, h.specials.ecnt, h.specials.ids,
    h.specials.code, h.specials.staged, h.specials.buf⟩⟩

theorem ScalarFrame.issued (h : ScalarFrame d x y) (now occ : Nat) : ScalarFrame d x (ccIssue now occ (advancePc y)) where
  scalars r hr := by simpa using h.scalars r hr
  caps r := by simpa using h.caps r
  zero hd := by simpa using h.zero hd
  specials := specialsKept_issued h.specials

/-- A frame of the executing context's next state, in a state that differs in that context alone. -/
def ContextFrame (s : State) (i : Instr) (kept : Ctx → Ctx → Prop) : Prop :=
  ∃ t, exec i s = .next t ∧ OnlyMyCtx s t ∧ MemoryKept s t ∧ kept (myCtx s) (myCtx t) ∧ SpecialsKept (myCtx s) (myCtx t)

theorem contextFrame_modMyCtx {i : Instr} {f : Ctx → Ctx} {kept : Ctx → Ctx → Prop} (h : exec i s = .next (modMyCtx f s))
    (hk : kept (myCtx s) (f (myCtx s))) (hs : SpecialsKept (myCtx s) (f (myCtx s))) : ContextFrame s i kept :=
  ⟨_, h, onlyMyCtx_modMyCtx f s, memoryKept_modMyCtx f s, by rwa [myCtx_modMyCtx], by rwa [myCtx_modMyCtx]⟩

end ContextFrames

/-! ## The words by their forms -/

section WordForms

variable {s : State} {i : Instr} {d : BitVec 5}

/-- What a scalar word leaves alone. -/
def keepsScalars (d : BitVec 5) (x y : Ctx) : Prop := ScalarsKept d x y ∧ CapsKept x y ∧ (d = 0 → y.s = x.s)

/-- What a capability word leaves alone. -/
def keepsCaps (e : BitVec 4) (x y : Ctx) : Prop := (∀ r, getS y r = getS x r) ∧ ∀ r, r ≠ e → getA y r = getA x r

/-- What a transfer leaves alone. -/
def keepsRegisters (x y : Ctx) : Prop := (∀ r, getS y r = getS x r) ∧ CapsKept x y

theorem contextFrame_scalar {f : Ctx → Ctx} (h : exec i s = .next (wordDone f s)) (hf : ScalarFrame d (myCtx s) (f (myCtx s))) :
    ContextFrame s i (keepsScalars d) :=
  have hi := hf.issued (mySite s).now 1
  contextFrame_modMyCtx h ⟨hi.scalars, hi.caps, hi.zero⟩ hi.specials

/-- A word of the common form of a scalar result (04 R95). -/
theorem contextFrame_scalarWord {srcs : List (BitVec 5)} {lat : Nat} {v : Word} (h : exec i s = .next (scalarWord srcs d lat v s))
    (hs : ∀ a ∈ srcs, readableS s a) (hd : settledS s d) : ContextFrame s i (keepsScalars d) :=
  contextFrame_scalar (h.trans (congrArg Outcome.next (scalarWord_next hs hd))) (scalarFrame_putS ..)

/-- A divide whose divider is free (04 R95, R100). -/
theorem divWord_next {a b : BitVec 5} {f : Word → Word → Word} (ha : readableS s a) (hb : readableS s b) (hd : settledS s d)
    (hfree : (myCtx s).divFree ≤ (mySite s).now) :
    divWord d a b f s = .next (wordDone (fun c => { putS (mySite s).now 34 d (f (getS (myCtx s) a) (getS (myCtx s) b)) c with
      divFree := (mySite s).now + 34 }) s) :=
  congrArg Outcome.next (ccWord_wordDone (by simp [readS_none ha, readS_none hb, writeS_none hd, Nat.not_lt.2 hfree, firstHit]))

theorem contextFrame_divWord {a b : BitVec 5} {f : Word → Word → Word} (h : exec i s = divWord d a b f s) (ha : readableS s a)
    (hb : readableS s b) (hd : settledS s d) (hfree : (myCtx s).divFree ≤ (mySite s).now) : ContextFrame s i (keepsScalars d) :=
  contextFrame_scalar (h.trans (divWord_next ha hb hd hfree)) ((scalarFrame_putS ..).divFree _)

/-- A capability word whose registers are there (04 R121). -/
theorem capWord_next {e k : BitVec 4} {srcs : List (BitVec 5)} {v : Cap} (hk : readableA s k) (hs : ∀ a ∈ srcs, readableS s a)
    (he : settledA s e) : capWord e k srcs v s = .next (wordDone (putA (mySite s).now 1 e v) s) := by
  refine congrArg Outcome.next (ccWord_wordDone (firstHit_eq_none.2 fun h hh => ?_))
  simp only [List.mem_append, List.mem_map, List.mem_singleton] at hh
  obtain (rfl | ⟨a, ha, rfl⟩) | rfl := hh
  · exact readA_none hk
  · exact readS_none (hs a ha)
  · exact writeA_none he

theorem contextFrame_capWord {e k : BitVec 4} {srcs : List (BitVec 5)} {v : Cap} (h : exec i s = capWord e k srcs v s) (hk : readableA s k)
    (hs : ∀ a ∈ srcs, readableS s a) (he : settledA s e) : ContextFrame s i (keepsCaps e) := by
  refine contextFrame_modMyCtx (h.trans (capWord_next hk hs he)) ⟨fun r => ?_, fun r hr => ?_⟩ (specialsKept_issued ?_)
  · rw [getS_ccIssue, getS_advancePc]
    rfl
  · rw [getA_ccIssue, getA_advancePc, getA_putA_ne hr]
  · constructor <;> simp

theorem execKcover_next {k l : BitVec 4} (hk : readableA s k) (hl : readableA s l) (hd : settledS s d) :
    exec (.kcover d k l) s = .next (wordDone (putS (mySite s).now 1 d (if (getA (myCtx s) k).covers (getA (myCtx s) l) then 1 else 0)) s) :=
  congrArg Outcome.next (ccWord_wordDone (by simp [readA_none hk, readA_none hl, writeS_none hd, firstHit]))

theorem execKfld_next {k : BitVec 4} (sel : BitVec 5) (hk : readableA s k) (hd : settledS s d) :
    exec (.kfld d k sel) s = .next (wordDone (putS (mySite s).now 1 d ((getA (myCtx s) k).fieldOf sel.toNat)) s) :=
  congrArg Outcome.next (ccWord_wordDone (by simp [readA_none hk, writeS_none hd, firstHit]))

theorem contextFrame_mfs {n : BitVec 10} (hd : settledS s d) (hv : isVeReg n.toNat = false) : ContextFrame s (.mfs d n) (keepsScalars d) :=
  contextFrame_scalar (execMfs_next hd (veHit_plain hv)) (scalarFrame_putS ..)

/-- A transfer that changes nothing but the program counter. -/
theorem contextFrame_transfer {hits : List (Option Hit)} {taken : Bool} {target : Word} (h : exec i s = .next (transfer hits taken target id s))
    (hn : firstHit hits = none) (ht : targetInside s target) : ContextFrame s i keepsRegisters :=
  contextFrame_modMyCtx (h.trans (congrArg Outcome.next (transfer_next hn fun _ => ht))) ⟨fun _ => rfl, fun _ => ⟨rfl, rfl⟩⟩
    ⟨rfl, rfl, rfl, rfl, rfl, ⟨rfl, rfl⟩, rfl, rfl, rfl⟩

theorem branchChecks_none {a b : BitVec 5} (hf : freeMode s) (ho : outsideSlots s) (ha : readableS s a) (hb : readableS s b) :
    firstHit [slotHit (myCtx s), branchHit (myCtx s), readS (mySite s).now (myCtx s) a, readS (mySite s).now (myCtx s) b] = none := by
  simp [slotHit_none ho, branchHit_none hf, readS_none ha, readS_none hb, firstHit]

theorem contextFrame_branch {a b : BitVec 5} {disp : BitVec 16} {taken : Word → Word → Bool} (h : exec i s = branch a b disp taken s)
    (hf : freeMode s) (ho : outsideSlots s) (ha : readableS s a) (hb : readableS s b)
    (ht : targetInside s ((myCtx s).pc + BitVec.ofInt 64 (4 * disp.toInt))) : ContextFrame s i keepsRegisters :=
  contextFrame_transfer h (branchChecks_none hf ho ha hb) ht

end WordForms

/-- Settles O57: each word is of one of the forms above, and the form says what it leaves alone. -/
theorem registerWordFrames : Obligations.RegisterWordFrames := by
  unfold Obligations.RegisterWordFrames
  intro s d a b c k l e imm sh far ha hb hc hd hk hl he hdiv
  have one {i lat f} (o) (h : exec i s = o) (ho : o = rWord d a lat f s) : ContextFrame s i (keepsScalars d) :=
    contextFrame_scalarWord (h.trans ho) (by simpa using ha) hd
  have two {i lat f} (o) (h : exec i s = o) (ho : o = rrWord d a b lat f s) : ContextFrame s i (keepsScalars d) :=
    contextFrame_scalarWord (h.trans ho) (by simpa using ⟨ha, hb⟩) hd
  have divide {i f} (o) (h : exec i s = o) (ho : o = divWord d a b f s) : ContextFrame s i (keepsScalars d) :=
    contextFrame_divWord (h.trans ho) ha hb hd hdiv
  have cap {i v} (o) (h : exec i s = o) (ho : o = capWord e k [] v s) : ContextFrame s i (keepsCaps e) :=
    contextFrame_capWord (h.trans ho) hk (fun _ hm => nomatch hm) he
  have capBy {i v} (o) (h : exec i s = o) (ho : o = capWord e k [a] v s) : ContextFrame s i (keepsCaps e) :=
    contextFrame_capWord (h.trans ho) hk (by simpa using ha) he
  have goes {i taken} (o) (h : exec i s = o) (ho : o = branch a b imm taken s) (hf : freeMode s) (hs : outsideSlots s)
      (ht : targetInside s ((myCtx s).pc + BitVec.ofInt 64 (4 * imm.toInt))) : ContextFrame s i keepsRegisters :=
    contextFrame_branch (h.trans ho) hf hs ha hb ht
  refine ⟨?scalar, ?capability, fun hf ho hnear hfar => ?transfer⟩
  case scalar =>
    show ∀ i ∈ _, ContextFrame s i (keepsScalars d)
    simp only [List.forall_mem_cons]
    refine ⟨two (execAdd d a b s) rfl rfl, two (execSub d a b s) rfl rfl, two (execAnd d a b s) rfl rfl, two (execOr d a b s) rfl rfl,
      two (execXor d a b s) rfl rfl, two (execAndn d a b s) rfl rfl, two (execShl d a b s) rfl rfl, two (execShr d a b s) rfl rfl,
      two (execSra d a b s) rfl rfl, two (execSlt d a b s) rfl rfl, two (execSltn d a b s) rfl rfl, two (execSeq d a b s) rfl rfl,
      two (execMin d a b s) rfl rfl, two (execMax d a b s) rfl rfl, two (execMinn d a b s) rfl rfl, two (execMaxn d a b s) rfl rfl,
      two (execMul d a b s) rfl rfl, two (execMulh d a b s) rfl rfl, two (execMulhn d a b s) rfl rfl, two (execAddw d a b s) rfl rfl,
      two (execSubw d a b s) rfl rfl, ?sel, one (execClz d a s) rfl rfl, one (execCtz d a s) rfl rfl, one (execPopc d a s) rfl rfl,
      divide (execDiv d a b s) rfl rfl, divide (execDivn d a b s) rfl rfl, divide (execRem d a b s) rfl rfl, divide (execRemn d a b s) rfl rfl, ?lui,
      one (execAddi d a imm s) rfl rfl, one (execAndi d a imm s) rfl rfl, one (execOri d a imm s) rfl rfl, one (execXori d a imm s) rfl rfl,
      one (execShli d a sh s) rfl rfl, one (execShri d a sh s) rfl rfl, one (execSrai d a sh s) rfl rfl, one (execSlti d a imm s) rfl rfl,
      one (execSltni d a imm s) rfl rfl, one (execOrhi d a imm s) rfl rfl, one (execOrti d a imm s) rfl rfl, one (execMuli d a imm s) rfl rfl,
      contextFrame_scalar (execKcover_next hk hl hd) (scalarFrame_putS ..), contextFrame_scalar (execKfld_next 2 hk hd) (scalarFrame_putS ..),
      contextFrame_mfs hd rfl, contextFrame_mfs hd rfl, contextFrame_mfs hd rfl, fun _ hm => nomatch hm⟩
    case sel => exact contextFrame_scalarWord (srcs := [a, b, c]) rfl (by simpa using ⟨ha, hb, hc⟩) hd
    case lui => exact contextFrame_scalarWord (srcs := []) rfl (fun _ hm => nomatch hm) hd
  case capability =>
    show ∀ i ∈ _, ContextFrame s i (keepsCaps e)
    simp only [List.forall_mem_cons]
    exact ⟨cap (execKmov e k s) rfl rfl, cap (execKdrop e k s) rfl rfl, capBy (execKstep e k a s) rfl rfl, capBy (execKseek e k a s) rfl rfl,
      capBy (execKmask e k a s) rfl rfl, capBy (execKclip e k a s) rfl rfl, fun _ hm => nomatch hm⟩
  case transfer =>
    show ∀ i ∈ _, ContextFrame s i keepsRegisters
    simp only [List.forall_mem_cons]
    exact ⟨goes (execBeq a b imm s) rfl rfl hf ho hnear, goes (execBne a b imm s) rfl rfl hf ho hnear, goes (execBlt a b imm s) rfl rfl hf ho hnear,
      goes (execBge a b imm s) rfl rfl hf ho hnear, goes (execBltn a b imm s) rfl rfl hf ho hnear, goes (execBgen a b imm s) rfl rfl hf ho hnear,
      contextFrame_transfer rfl (by simp [slotHit_none ho, firstHit]) hfar, fun _ hm => nomatch hm⟩

end Sys2Proof.Machine

/-! # The capability group (02 R44 to R46, 04 R121 to R123) -/

namespace Sys2Proof.Machine

open Host (Outcome)

/-! ## Fields of a number -/

section Fields

variable {w v hi lo hi' lo' n : Nat}

theorem testBit_field (w hi lo i : Nat) : (field w hi lo).testBit i = (decide (i < hi + 1 - lo) && w.testBit (lo + i)) := by
  rw [field, Nat.testBit_mod_two_pow, Nat.testBit_div_two_pow, Nat.add_comm lo i]

theorem testBit_setField (h : lo ≤ hi + 1) (w v i : Nat) :
    (setField w hi lo v).testBit i = if lo ≤ i ∧ i ≤ hi then v.testBit (i - lo) else w.testBit i := by
  have hlow : v % 2 ^ (hi + 1 - lo) * 2 ^ lo + w % 2 ^ lo < 2 ^ (hi + 1) := by
    calc v % 2 ^ (hi + 1 - lo) * 2 ^ lo + w % 2 ^ lo < v % 2 ^ (hi + 1 - lo) * 2 ^ lo + 2 ^ lo :=
          Nat.add_lt_add_left (Nat.mod_lt _ (Nat.two_pow_pos _)) _
      _ = (v % 2 ^ (hi + 1 - lo) + 1) * 2 ^ lo := (Nat.succ_mul ..).symm
      _ ≤ 2 ^ (hi + 1 - lo) * 2 ^ lo := Nat.mul_le_mul_right _ (Nat.mod_lt _ (Nat.two_pow_pos _))
      _ = 2 ^ (hi + 1) := by rw [← Nat.pow_add, Nat.sub_add_cancel h]
  have hmid : w % 2 ^ lo < 2 ^ lo := Nat.mod_lt _ (Nat.two_pow_pos _)
  rw [setField, Nat.add_assoc, Nat.mul_comm, Nat.testBit_two_pow_mul_add _ hlow, Nat.mul_comm, Nat.testBit_two_pow_mul_add _ hmid,
    Nat.testBit_mod_two_pow, Nat.testBit_mod_two_pow, Nat.testBit_div_two_pow]
  split
  · split
    · have : ¬(lo ≤ i) := by omega
      simp [*]
    · have : lo ≤ i ∧ i ≤ hi := by omega
      have : i - lo < hi + 1 - lo := by omega
      simp [*]
  · rw [if_neg (by omega)]
    congr 1
    omega

theorem field_setField_same (h : lo ≤ hi + 1) (w v : Nat) : field (setField w hi lo v) hi lo = v % 2 ^ (hi + 1 - lo) := by
  refine Nat.eq_of_testBit_eq fun i => ?_
  rw [testBit_field, testBit_setField h, Nat.testBit_mod_two_pow]
  by_cases hi' : i < hi + 1 - lo
  · rw [if_pos (by omega), Nat.add_sub_cancel_left]
  · simp [hi']

theorem field_setField_ne (h : lo ≤ hi + 1) (hd : hi' < lo ∨ hi < lo') (w v : Nat) : field (setField w hi lo v) hi' lo' = field w hi' lo' := by
  refine Nat.eq_of_testBit_eq fun i => ?_
  rw [testBit_field, testBit_field, testBit_setField h]
  by_cases hi' : i < hi' + 1 - lo'
  · rw [if_neg (by omega)]
  · simp [hi']

/-- The bits of a field stand in the number modulo its width. -/
theorem field_ofNat (h : hi < n) (w : Nat) : field (BitVec.ofNat n w).toNat hi lo = field w hi lo := by
  refine Nat.eq_of_testBit_eq fun i => ?_
  rw [testBit_field, testBit_field, BitVec.toNat_ofNat, Nat.testBit_mod_two_pow]
  by_cases hi' : i < hi + 1 - lo
  · simp [show lo + i < n by omega]
  · simp [hi']

theorem field_lt (w hi lo : Nat) : field w hi lo < 2 ^ (hi + 1 - lo) := Nat.mod_lt _ (Nat.two_pow_pos _)

end Fields

/-! ## The derived capabilities -/

section Derivations

variable (c : Cap)

/-- Where a derivation replaces the cursor and BACK, the other fields stand as they were (04 R121). -/
theorem withCursor_fields (cur bk : Nat) (t : Bool) (k : Cap) (hk : k = ⟨c.withCursor cur bk, t⟩) :
    k.cursor = cur % 2 ^ 64 ∧ k.back = bk % 2 ^ 15 ∧ k.gran = c.gran ∧ k.extent = c.extent ∧ k.perms = c.perms ∧ k.space = c.space := by
  subst hk
  simp only [Cap.cursor, Cap.back, Cap.gran, Cap.extent, Cap.perms, Cap.space, Cap.withCursor]
  refine ⟨?_, ?_, ?_, ?_, ?_, ?_⟩
  all_goals rw [field_ofNat (by decide)]
  · rw [field_setField_same (by decide)]
  · rw [field_setField_ne (by decide) (by decide), field_setField_same (by decide)]
  all_goals rw [field_setField_ne (by decide) (by decide), field_setField_ne (by decide) (by decide)]

/-- kstep and kseek (04 R121). -/
theorem moveTo_fields {cur : Nat} (h : cur < 2 ^ 64) :
    let bk : Int := (c.back : Int) + (cur / 2 ^ c.gran : Nat) - (c.cursor / 2 ^ c.gran : Nat)
    let k := c.moveTo cur
    k.cursor = cur ∧ k.back = (bk % 2 ^ 15).toNat ∧ k.gran = c.gran ∧ k.extent = c.extent ∧ k.perms = c.perms ∧ k.space = c.space ∧
      (k.tag = true ↔ c.tag = true ∧ 0 ≤ bk ∧ bk ≤ 32767 ∧ Cap.bitsOk k.bits = true) := by
  intro bk k
  obtain ⟨hcur, hback, hgran, hext, hperms, hspace⟩ := withCursor_fields c cur (intMod 15 bk) k.tag k rfl
  refine ⟨hcur.trans (Nat.mod_eq_of_lt h), ?_, hgran, hext, hperms, hspace, ?_⟩
  · rw [hback, intMod]
    have : 0 ≤ bk % 32768 ∧ bk % 32768 < 32768 := ⟨Int.emod_nonneg _ (by decide), Int.emod_lt_of_pos _ (by decide)⟩
    exact Nat.mod_eq_of_lt (by norm_num; omega)
  · show (c.tag && decide (0 ≤ bk ∧ bk ≤ 32767) && Cap.bitsOk k.bits) = true ↔ _
    simp [and_assoc]

theorem withField_ne {hi lo hi' lo' : Nat} (h : lo ≤ hi + 1) (hn : hi' < 128) (hd : hi' < lo ∨ hi < lo') (v : Nat) :
    field (BitVec.ofNat 128 (setField c.bits.toNat hi lo v)).toNat hi' lo' = field c.bits.toNat hi' lo' := by
  rw [field_ofNat hn, field_setField_ne h hd]

/-- kmask (04 R121). -/
theorem mask_fields (m : Nat) :
    let k := c.mask m
    k.perms = c.perms &&& m % 4096 ∧ k.cursor = c.cursor ∧ k.bounds = c.bounds ∧ k.space = c.space ∧
      (k.tag = true ↔ c.tag = true ∧ Cap.bitsOk k.bits = true) := by
  intro k
  have hperms : k.perms = c.perms &&& m % 4096 := by
    have hlt : c.perms &&& m % 4096 < 2 ^ 12 := Nat.and_lt_two_pow _ (Nat.mod_lt _ (by decide))
    show field (BitVec.ofNat 128 (setField c.bits.toNat 111 100 _)).toNat 111 100 = _
    rw [field_ofNat (by decide), field_setField_same (by decide), BitVec.toNat_and, BitVec.toNat_ofNat, BitVec.toNat_ofNat,
      Nat.mod_eq_of_lt (show c.perms < 2 ^ 12 from field_lt ..)]
    exact Nat.mod_eq_of_lt hlt
  have hcur : k.cursor = c.cursor := withField_ne c (by decide) (by decide) (by decide) _
  have hback : k.back = c.back := withField_ne c (by decide) (by decide) (by decide) _
  have hext : k.extent = c.extent := withField_ne c (by decide) (by decide) (by decide) _
  have hgran : k.gran = c.gran := withField_ne c (by decide) (by decide) (by decide) _
  refine ⟨hperms, hcur, by simp only [Cap.bounds, hcur, hback, hext, hgran], withField_ne c (by decide) (by decide) (by decide) _, ?_⟩
  show (c.tag && Cap.bitsOk k.bits) = true ↔ _
  rw [Bool.and_eq_true]

/-! ### kclip (04 R122) -/

/-- The first granule of the clipped range at an exponent, and the one behind its last. -/
def clipLo (g : Nat) : Nat := c.cursor / 2 ^ g

def clipHi (len g : Nat) : Nat := (c.cursor + len + 2 ^ g - 1) / 2 ^ g

theorem clipGran_none {len : Nat} : Cap.clipGran c.cursor (c.cursor + len) = none ↔ ∀ g ≤ 49, 32767 < clipHi c len g - clipLo c g := by
  simp [Cap.clipGran, clipHi, clipLo, ceilDiv, Nat.lt_succ_iff, Nat.lt_sub_iff_add_lt]

theorem clipGran_some {len g : Nat} (hg : g ≤ 49) (hfits : clipHi c len g - clipLo c g ≤ 32767)
    (hleast : ∀ h < g, 32767 < clipHi c len h - clipLo c h) : Cap.clipGran c.cursor (c.cursor + len) = some g := by
  rw [Cap.clipGran, List.find?_range_eq_some]
  exact ⟨by simpa [clipHi, clipLo, ceilDiv] using hfits, by simpa using Nat.lt_succ_of_le hg,
    fun h hh => by simpa [clipHi, clipLo, ceilDiv, Nat.lt_sub_iff_add_lt] using hleast h hh⟩

theorem clipLo_le_clipHi (len g : Nat) : clipLo c g ≤ clipHi c len g :=
  Nat.div_le_div_right (by have := Nat.two_pow_pos g; omega)

/-- The cursor, the permissions and the space stand through kclip. -/
theorem clip_kept (len : Nat) : (c.clip len).cursor = c.cursor ∧ (c.clip len).perms = c.perms ∧ (c.clip len).space = c.space := by
  unfold Cap.clip
  dsimp only
  split
  · exact ⟨rfl, rfl, rfl⟩
  · simp only [Cap.cursor, Cap.perms, Cap.space]
    refine ⟨?_, ?_, ?_⟩
    all_goals
      rw [field_ofNat (by decide), field_setField_ne (by decide) (by decide), field_setField_ne (by decide) (by decide),
        field_setField_ne (by decide) (by decide)]

theorem clip_unfit {len : Nat} (h : ∀ g ≤ 49, 32767 < clipHi c len g - clipLo c g) : (c.clip len).tag = false := by
  simp only [Cap.clip, (clipGran_none c).2 h]

/-- The bits of a clipped capability at an exponent. -/
def clipBits (len g : Nat) : CapBits :=
  .ofNat 128 (setField (setField (setField c.bits.toNat 99 94 g) 93 79 (clipHi c len g - clipLo c g)) 78 64 0)

theorem clip_fit {len g : Nat} (hg : g ≤ 49) (hfits : clipHi c len g - clipLo c g ≤ 32767)
    (hleast : ∀ h < g, 32767 < clipHi c len h - clipLo c h) :
    let k := c.clip len
    k.bounds = (((clipLo c g * 2 ^ g : Nat) : Int), ((clipHi c len g * 2 ^ g : Nat) : Int)) ∧
      (k.tag = true ↔ c.tag = true ∧ c.bounds.1 ≤ k.bounds.1 ∧ k.bounds.2 ≤ c.bounds.2 ∧ k.bounds.2 ≤ 2 ^ 64 ∧ Cap.bitsOk k.bits = true) := by
  intro k
  have hk : k = ⟨clipBits c len g, c.tag && decide (c.bounds.1 ≤ (clipLo c g * 2 ^ g : Nat) ∧
      ((clipHi c len g * 2 ^ g : Nat) : Int) ≤ c.bounds.2 ∧ clipHi c len g * 2 ^ g ≤ 2 ^ 64) && Cap.bitsOk (clipBits c len g)⟩ := by
    show c.clip len = _
    simp only [Cap.clip, clipGran_some c hg hfits hleast]
    rfl
  have hbits : k.bits = clipBits c len g := by rw [hk]
  have hcur : k.cursor = c.cursor := (clip_kept c len).1
  have hback : k.back = 0 := by
    rw [Cap.back, hbits, clipBits, field_ofNat (by decide), field_setField_same (by decide)]
    rfl
  have hext : k.extent = clipHi c len g - clipLo c g := by
    rw [Cap.extent, hbits, clipBits, field_ofNat (by decide), field_setField_ne (by decide) (by decide), field_setField_same (by decide)]
    exact Nat.mod_eq_of_lt (by norm_num; omega)
  have hgran : k.gran = g := by
    rw [Cap.gran, hbits, clipBits, field_ofNat (by decide), field_setField_ne (by decide) (by decide), field_setField_ne (by decide) (by decide),
      field_setField_same (by decide)]
    exact Nat.mod_eq_of_lt (by norm_num; omega)
  have hbounds : k.bounds = (((clipLo c g * 2 ^ g : Nat) : Int), ((clipHi c len g * 2 ^ g : Nat) : Int)) := by
    have hsum : clipLo c g * 2 ^ g + (clipHi c len g - clipLo c g) * 2 ^ g = clipHi c len g * 2 ^ g := by
      rw [← Nat.add_mul, Nat.add_sub_cancel' (clipLo_le_clipHi c len g)]
    simp only [Cap.bounds, hcur, hback, hext, hgran, ← hsum]
    simp [clipLo]
  refine ⟨hbounds, ?_⟩
  rw [hbounds, hbits, show k.tag = _ from congrArg Cap.tag hk]
  simp only [Bool.and_eq_true, decide_eq_true_eq, and_assoc]
  norm_cast

/-! ### kcover and kfld (04 R121, R123) -/

theorem covers_iff {a b : Cap} : a.covers b = true ↔ b.tag = true ∧ b.space = a.space ∧ a.bounds.1 ≤ b.bounds.1 ∧ b.bounds.2 ≤ a.bounds.2 ∧
    ∀ i < 12, b.perms.testBit i = true → a.perms.testBit i = true := by
  have hperms : ((BitVec.ofNat 12 b.perms &&& ~~~(BitVec.ofNat 12 a.perms)) == 0) = true ↔
      ∀ i < 12, b.perms.testBit i = true → a.perms.testBit i = true := by
    rw [beq_iff_eq, BitVec.eq_of_getLsbD_eq_iff]
    refine forall₂_congr fun i hi => ?_
    simp only [BitVec.getLsbD_and, BitVec.getLsbD_not, BitVec.getLsbD_ofNat, hi]
    cases b.perms.testBit i <;> simp
  simp only [Cap.covers, Bool.and_eq_true, hperms, beq_iff_eq, decide_eq_true_eq, and_assoc]

end Derivations

/-- Settles O23: each word is the common form with its derivation, and the derivation's fields are those of the number it sets. -/
theorem capabilityWordResults : Obligations.CapabilityWordResults := by
  unfold Obligations.CapabilityWordResults
  intro s d a b r v sel ha hb hd hr hv
  have hv1 : ∀ q ∈ [v], readableS s q := by simpa using hv
  have none : ∀ q ∈ ([] : List (BitVec 5)), readableS s q := fun _ hm => nomatch hm
  intro x c y now gives writes moved
  refine ⟨capWord_next ha none hd, capWord_next ha none hd, ⟨_, capWord_next ha hv1 hd, moveTo_fields c (Nat.mod_lt _ (by decide))⟩,
    ⟨_, capWord_next ha hv1 hd, moveTo_fields c (BitVec.isLt _)⟩, ⟨_, capWord_next ha hv1 hd, mask_fields c y⟩, ?clip, ?cover, fun hsel => ?fld⟩
  case clip =>
    obtain ⟨hcur, hperms, hspace⟩ := clip_kept c y
    exact ⟨_, capWord_next ha hv1 hd, hcur, hperms, hspace, clip_unfit c, fun g hg => clip_fit c hg⟩
  case cover =>
    refine ⟨_, execKcover_next ha hb hr, ?_, ?_⟩
    · split
      · exact .inr rfl
      · exact .inl rfl
    · rw [← covers_iff]
      show (if c.covers (getA x b) = true then (1 : Word) else 0) = 1 ↔ _
      split <;> simp [*]
  case fld =>
    refine (execKfld_next sel ha hr).trans ?_
    unfold Cap.fieldOf
    have htag : BitVec.ofNat 64 (b2n c.tag) = if c.tag = true then 1 else 0 := by cases c.tag <;> rfl
    generalize sel.toNat = n at hsel
    rcases n with _ | _ | _ | _ | _ | _ | _ | n
    case succ.succ.succ.succ.succ.zero => exact congrArg (fun w => Outcome.next (wordDone (putS now 1 r w) s)) htag
    all_goals rfl

end Sys2Proof.Machine

/-! # Elementwise integer and bitwise vector words (06 R152 to R163) -/

namespace Sys2Proof.Machine

open Host (Outcome)

/-! ## Integer elements (06 R157) -/

section IntegerElements

theorem intMod_eq (w : Nat) (v : Int) : intMod w v = (v % 2 ^ w).toNat := by simp [intMod]

/-- The signed value of an element is the element modulo the width. -/
theorem sext_modEq (w a : Nat) : sext w a ≡ a [ZMOD 2 ^ w] := by
  have hmod : ((a % 2 ^ w : Nat) : Int) ≡ a [ZMOD 2 ^ w] := by
    push_cast
    exact Int.mod_modEq ..
  unfold sext
  dsimp only
  split
  · exact hmod
  · refine Int.ModEq.trans ?_ hmod
    simp

variable {f : VFields}

/-- The value of an element: signed where the type is (06 R157). -/
def elemNum (f : VFields) (a : Nat) : Int := if f.ty = 2 ∨ f.ty = 4 then sext (elemBits f.ty) a else a

/-- The four integer types. -/
def isInteger (f : VFields) : Prop := f.ty = 2 ∨ f.ty = 3 ∨ f.ty = 4 ∨ f.ty = 5

theorem isInteger_of (h2 : 2 ≤ f.ty.toNat) (h5 : f.ty.toNat ≤ 5) : isInteger f := by
  unfold isInteger
  generalize f.ty = ty at *
  revert ty
  decide

theorem intOf_eq (h : isInteger f) (a : Nat) : intOf f.ty.toNat a = elemNum f a := by
  rcases h with h | h | h | h <;> rw [elemNum, h] <;> rfl

theorem not_float (h : isInteger f) : isFloat f.ty = false := by
  rcases h with h | h | h | h <;> rw [h] <;> rfl

theorem elemNum_modEq (f : VFields) (a : Nat) : elemNum f a ≡ a [ZMOD 2 ^ elemBits f.ty] := by
  unfold elemNum
  split
  · exact sext_modEq ..
  · rfl

theorem intElem_eq (h : isInteger f) (g : Int → Int → Int) (a : List Nat) :
    intElem f.ty g a = ((g (elemNum f (nth 0 a 0)) (elemNum f (nth 0 a 1)) % 2 ^ elemBits f.ty).toNat, 0) := by
  rw [intElem, intMod_eq, intOf_eq h, intOf_eq h]

/-- A sum modulo the width is that of the elements' bits. -/
theorem wrap_add (f : VFields) (a b : Nat) : ((elemNum f a + elemNum f b) % 2 ^ elemBits f.ty).toNat = (a + b) % 2 ^ elemBits f.ty := by
  rw [(elemNum_modEq f a).add (elemNum_modEq f b)]
  norm_cast

end IntegerElements

/-! ## Words on integer elements -/

section IntegerWords

variable {s : State} {f : VFields} {i : Instr}

/-- A function of elements on a lane: on one of 32 bits, or on both of 16 (06 R155). -/
def pairLane (f : VFields) (g : Nat → Nat → Nat) (x y : Lane) : Lane :=
  if elemBits f.ty = 16 then BitVec.ofNat 32 (g (x.toNat % 65536) (y.toNat % 65536) + g (x.toNat / 65536) (y.toNat / 65536) * 65536)
  else BitVec.ofNat 32 (g x.toNat y.toNat)

theorem elemBits_eq_16 (ty : BitVec 3) : elemBits ty = 16 ↔ is16 ty = true := by
  cases h : is16 ty <;> simp [elemBits, h]

/-- A vector word whose lanes are `g` of its sources' lanes. -/
def givesLanes (s : State) (f : VFields) (i : Instr) (srcs : List Nat) (lat : Nat) (g : Nat → Lane) : Prop :=
  sourcesReady s f srcs → exec i s = .next (vectorDone f srcs 1 (lanesWritten f lat fun n => (g n, 0)) s)

/-- A lane of a source. -/
def srcLane (s : State) (f : VFields) (k n : Nat) : Lane := nth 0 (srcVal (myVe s) f k) n

/-- A word of two sources on the elements of its type. -/
theorem givesLanes_two {lat : Nat} {g : Site → Nat → List Nat → Nat × Fl} {h : Nat → Nat → Nat} (hl : lanesReady s f)
    (hi : exec i s = .next (vElems f [0, 1] lat g s)) (hg : ∀ e a b, g (mySite s) e [a, b] = (h a b, 0)) :
    givesLanes s f i [0, 1] lat fun n => pairLane f h (srcLane s f 0 n) (srcLane s f 1 n) := by
  intro hs
  rw [hi, vElems, vLanes_next hs hl]
  congr 3
  funext n
  simp only [elemLane, pairLane, elemBits_eq_16, srcLane, List.map_cons, List.map_nil, hg]
  split <;> rfl

/-- A word of one source on the elements of its type. -/
theorem givesLanes_one {lat : Nat} {g : Site → Nat → List Nat → Nat × Fl} {h : Nat → Nat} (hl : lanesReady s f)
    (hi : exec i s = .next (vElems f [0] lat g s)) (hg : ∀ e a, g (mySite s) e [a] = (h a, 0)) :
    givesLanes s f i [0] lat fun n => pairLane f (fun a _ => h a) (srcLane s f 0 n) (srcLane s f 1 n) := by
  intro hs
  rw [hi, vElems, vLanes_next hs hl]
  congr 3
  funext n
  simp only [elemLane, pairLane, elemBits_eq_16, srcLane, List.map_cons, List.map_nil, hg]
  split <;> rfl

/-- A bitwise word (06 R161). -/
theorem givesLanes_bitwise {srcs : List Nat} {g : Lane → Lane → Lane} {h : Nat → Lane} (hl : lanesReady s f)
    (hi : exec i s = .next (bitwise f srcs g s))
    (hg : ∀ n, g (nth 0 (nth [] (srcs.map (srcVal (myVe s) f)) 0) n) (nth 0 (nth [] (srcs.map (srcVal (myVe s) f)) 1) n) = h n) :
    givesLanes s f i srcs 2 h := by
  intro hs
  rw [hi, bitwise, vLanes_next hs hl]
  congr 3
  funext n
  rw [hg]

theorem arith2_integer {n : Nat} {gf : Nat → Fp → Fp → Fp × Fl} {gi : Int → Int → Int} (h : isInteger f) :
    arith2 f n gf gi s = vElems f [0, 1] n (fun _ _ a => intElem f.ty gi a) s := by
  simp only [arith2, not_float h, Bool.false_eq_true, if_false]

theorem extreme_integer {big : Bool} (h : isInteger f) : extreme f big s = vElems f [0, 1] 2 (extremeElem f big) s := by
  simp only [extreme, not_float h, Bool.false_eq_true, if_false]

theorem extremeElem_integer (h : isInteger f) (big : Bool) (c : Site) (e a b : Nat) :
    extremeElem f big c e [a, b] = (if decide (elemNum f a < elemNum f b) = big then b else a, 0) := by
  simp only [extremeElem, not_float h, Bool.false_eq_true, if_false, intOf_eq h]
  rfl

theorem extremeElem_max (h : isInteger f) (c : Site) (e a b : Nat) :
    extremeElem f true c e [a, b] = (if elemNum f a < elemNum f b then b else a, 0) := by
  simp only [extremeElem_integer h, decide_eq_true_eq]

theorem extremeElem_min (h : isInteger f) (c : Site) (e a b : Nat) :
    extremeElem f false c e [a, b] = (if elemNum f b ≤ elemNum f a then b else a, 0) := by
  simp only [extremeElem_integer h, decide_eq_false_iff_not, not_lt]

theorem execVadd_integer (h : isInteger f) : exec (.vadd f) s = .next (vElems f [0, 1] 2 (fun _ _ a => intElem f.ty (· + ·) a) s) :=
  congrArg Outcome.next (arith2_integer h)

theorem execVsub_integer (h : isInteger f) : exec (.vsub f) s = .next (vElems f [0, 1] 2 (fun _ _ a => intElem f.ty (· - ·) a) s) :=
  congrArg Outcome.next (arith2_integer h)

theorem execVmul_integer (h : isInteger f) : exec (.vmul f) s = .next (vElems f [0, 1] 4 (fun _ _ a => intElem f.ty (· * ·) a) s) :=
  congrArg Outcome.next (arith2_integer h)

theorem execVmax_integer (h : isInteger f) : exec (.vmax f) s = .next (vElems f [0, 1] 2 (extremeElem f true) s) :=
  congrArg Outcome.next (extreme_integer h)

theorem execVmin_integer (h : isInteger f) : exec (.vmin f) s = .next (vElems f [0, 1] 2 (extremeElem f false) s) :=
  congrArg Outcome.next (extreme_integer h)

theorem execVabs_integer (h : isInteger f) : exec (.vabs f) s = .next (vElems f [0] 2 (fun _ _ a => intElem f.ty (fun x _ => x.natAbs) a) s) := by
  show Outcome.next (vElems f [0] 2 _ s) = _
  simp only [not_float h, Bool.false_eq_true, if_false]

theorem execVneg_integer (h : isInteger f) : exec (.vneg f) s = .next (vElems f [0] 2 (fun _ _ a => intElem f.ty (fun x _ => -x) a) s) := by
  show Outcome.next (vElems f [0] 2 _ s) = _
  simp only [not_float h, Bool.false_eq_true, if_false]

theorem execVshl_elems (f : VFields) (s : State) : exec (.vshl f) s = .next (vElems f [0, 1] 2
    (fun _ _ a => (nth 0 a 0 * 2 ^ (nth 0 a 1 % elemBits f.ty) % 2 ^ elemBits f.ty, 0)) s) := rfl

theorem execVshr_elems (f : VFields) (s : State) : exec (.vshr f) s = .next (vElems f [0, 1] 2
    (fun _ _ a => (nth 0 a 0 / 2 ^ (nth 0 a 1 % elemBits f.ty), 0)) s) := rfl

theorem execVsra_elems (f : VFields) (s : State) : exec (.vsra f) s = .next (vElems f [0, 1] 2
    (fun _ _ a => (intMod (elemBits f.ty) (intOf f.ty.toNat (nth 0 a 0) / (2 ^ (nth 0 a 1 % elemBits f.ty) : Nat)), 0)) s) := rfl

theorem execVand_bitwise (f : VFields) (s : State) : exec (.vand f) s = .next (bitwise f [0, 1] (· &&& ·) s) := rfl

theorem execVor_bitwise (f : VFields) (s : State) : exec (.vor f) s = .next (bitwise f [0, 1] (· ||| ·) s) := rfl

theorem execVxor_bitwise (f : VFields) (s : State) : exec (.vxor f) s = .next (bitwise f [0, 1] (· ^^^ ·) s) := rfl

theorem execVnot_bitwise (f : VFields) (s : State) : exec (.vnot f) s = .next (bitwise f [0] (fun a _ => ~~~a) s) := rfl

theorem execVmov_bitwise (f : VFields) (s : State) : exec (.vmov f) s = .next (bitwise f [0] (fun a _ => a) s) := rfl

theorem execVmovi_bitwise (f : VFields) (s : State) : exec (.vmovi f) s = .next (bitwise f [] (fun _ _ => f.aux.signExtend 32) s) := rfl

theorem execVmovhi_bitwise (f : VFields) (s : State) : exec (.vmovhi f) s =
    .next (bitwise f [] (fun _ _ => f.aux.setWidth 32 <<< 18) s) := rfl

end IntegerWords

/-- Settles O31: each word is the common form with its function of lanes; the integer ones by their function of elements. -/
theorem vectorIntegerResults : Obligations.VectorIntegerResults := by
  unfold Obligations.VectorIntegerResults
  intro s f hl src at' gives w num pair wrap
  have two {i : Instr} {lat : Nat} {g : Site → Nat → List Nat → Nat × Fl} {h : Nat → Nat → Nat} (hi : exec i s = .next (vElems f [0, 1] lat g s))
      (hg : ∀ e a b, g (mySite s) e [a, b] = (h a b, 0)) : gives i [0, 1] lat (pair h) := givesLanes_two hl hi hg
  have one {i : Instr} {lat : Nat} {g : Site → Nat → List Nat → Nat × Fl} {h : Nat → Nat} (hi : exec i s = .next (vElems f [0] lat g s))
      (hg : ∀ e a, g (mySite s) e [a] = (h a, 0)) : gives i [0] lat (pair fun a _ => h a) := givesLanes_one hl hi hg
  have bits {i : Instr} {srcs : List Nat} {g : Lane → Lane → Lane} {h : Nat → Lane} (hi : exec i s = .next (bitwise f srcs g s))
      (hg : ∀ n, g (nth 0 (nth [] (srcs.map (srcVal (myVe s) f)) 0) n) (nth 0 (nth [] (srcs.map (srcVal (myVe s) f)) 1) n) = h n) :
      gives i srcs 2 h := givesLanes_bitwise hl hi hg
  clear_value gives pair
  refine ⟨fun h2 h5 => ?integer, bits (execVand_bitwise f s) fun _ => rfl, bits (execVor_bitwise f s) fun _ => rfl,
    bits (execVxor_bitwise f s) fun _ => rfl, bits (execVnot_bitwise f s) fun _ => rfl, bits (execVmov_bitwise f s) fun _ => rfl,
    bits (execVmovi_bitwise f s) fun _ => rfl, bits (execVmovhi_bitwise f s) fun _ => BitVec.eq_of_toNat_eq ?shifted⟩
  case integer =>
    have h := isInteger_of h2 h5
    refine ⟨two (execVadd_integer h) fun _ a b => ?vadd, two (execVsub_integer h) fun _ a b => intElem_eq h _ _,
      two (execVmul_integer h) fun _ a b => intElem_eq h _ _, two (execVmax_integer h) (extremeElem_max h _),
      two (execVmin_integer h) (extremeElem_min h _), one (execVabs_integer h) fun _ a => intElem_eq h _ _,
      one (execVneg_integer h) fun _ a => intElem_eq h _ _, two (execVshl_elems f s) fun _ a b => rfl,
      two (execVshr_elems f s) fun _ a b => rfl, two (execVsra_elems f s) fun _ a b => ?vsra⟩
    case vadd => exact (intElem_eq h _ _).trans (congrArg (·, 0) (wrap_add f a b))
    case vsra =>
      simp only [intMod_eq, intOf_eq h]
      push_cast
      rfl
  case shifted => simp [BitVec.toNat_shiftLeft, Nat.shiftLeft_eq, BitVec.toNat_ofNat]

end Sys2Proof.Machine

/-! # gate, evpop, wpub and wsync (05 R141 to R144, 13 R319, R322) -/

namespace Sys2Proof.Machine

open Host (Outcome)

/-! ## A word that waits in free mode (09 R244) -/

section Waiting

variable {s u : State}

theorem ctxOf_waitHead (x : Side) (c : Site) : ctxOf (waitHead (ctxHead x) none c) x =
    { ctxOf c x with ctl := { (ctxOf c x).ctl with next := c.now + 1, cls := .busy } } := by cases x <;> rfl

/-- A stall that is of no earlier result leaves the context at its word, to try again in the next beat. -/
theorem ccStop_stall {kind detail extra : Nat} (hf : freeMode s) (hk : kind ≠ 5) :
    ccStop (.stall kind detail extra none) s = modMySite (waitHead (ctxHead s.cur.ctx) none) s := by
  simp only [ccStop, show (myCtx s).ctl.timetabled = false from hf, Bool.false_eq_true, if_false, if_neg hk]

theorem myCtx_stalled {kind detail extra : Nat} (hf : freeMode s) (hk : kind ≠ 5) : myCtx (ccStop (.stall kind detail extra none) s) =
    { myCtx s with ctl := { (myCtx s).ctl with next := (mySite s).now + 1, cls := .busy } } := by
  rw [ccStop_stall hf hk]
  simp only [myCtx, mySite_modMySite, modMySite_cur, ctxOf_waitHead]

theorem needFree_none (h : freeMode s) : needFree s = none := by simp [needFree, show (myCtx s).ctl.timetabled = false from h]

theorem needSequencer_none (h : atSequencer s) : needSequencer s = none := by
  simp [needSequencer, show isSequencer (myRink s) s.cur.site s.cur.ctx s = true from h]

theorem needSequencer_trap (h : ¬atSequencer s) : needSequencer s = some (.trap 0x10 0) := by
  simp [needSequencer, show isSequencer (myRink s) s.cur.site s.cur.ctx s = false from Bool.eq_false_iff.2 h]

end Waiting

/-! ## What a gate clears (02 R53, 05 R141) -/

section ClearEngines

def clearedVe (b : Bool) (v : Ve) : Ve := if b then { v with latchA := none, latchB := none, latchC := none } else v

def clearedHalf (b : Bool) (v : Half) : Half := if b then { v with seq := { v.seq with stack := [] } } else v

def clearedCtx (b : Bool) (x : Ctx) : Ctx := if b then { x with staged := Table.fill 3 [] } else x

/-- A core after a gate of rink `r`. -/
def clearedSite (r : Nat) (c : Site) : Site :=
  { c with
    ve := clearedVe (owns c r 2) c.ve, half0 := clearedHalf (owns c r (halfHead false)) c.half0,
    half1 := clearedHalf (owns c r (halfHead true)) c.half1, ctx0 := clearedCtx (owns c r (ctxHead false)) c.ctx0,
    ctx1 := clearedCtx (owns c r (ctxHead true)) c.ctx1 }

theorem modVe_cleared (b : Bool) (c : Site) :
    (if b then modVe (fun v => { v with latchA := none, latchB := none, latchC := none }) c else c) = { c with ve := clearedVe b c.ve } := by
  cases b <;> rfl

theorem modHalf_cleared (b : Bool) (h : Side) (c : Site) :
    (if b then modHalf h (fun v => { v with seq := { v.seq with stack := [] } }) c else c) = setHalf h (clearedHalf b (halfOf c h)) c := by
  cases b <;> cases h <;> rfl

theorem modCtx_cleared (b : Bool) (x : Side) (c : Site) :
    (if b then modCtx x (fun v => { v with staged := Table.fill 3 [] }) c else c) = setCtx x (clearedCtx b (ctxOf c x)) c := by
  cases b <;> cases x <;> rfl

theorem owns_congr {r : Nat} {c d : Site} (h : c.own = d.own) (n : Nat) : owns c r n = owns d r n := by rw [owns, owns, h]

theorem clearEngines_eq (r : Nat) (s : State) : clearEngines r s = (sitesOf r s).foldl (fun s k => modSite k (clearedSite r) s) s := by
  unfold clearEngines
  simp only [modVe_cleared, modHalf_cleared, modCtx_cleared]
  rfl

theorem halfOf_clearedSite (r : Nat) (c : Site) (h : Side) :
    halfOf (clearedSite r c) h = clearedHalf (owns c r (halfHead h)) (halfOf c h) := by cases h <;> rfl

theorem ctxOf_clearedSite (r : Nat) (c : Site) (x : Side) : ctxOf (clearedSite r c) x = clearedCtx (owns c r (ctxHead x)) (ctxOf c x) := by
  cases x <;> rfl

/-- A core has nothing of rink `r` that a gate clears. -/
structure ClearedOf (r : Nat) (c : Site) : Prop where
  latches : owns c r 2 = true → c.ve.latchA = none ∧ c.ve.latchB = none ∧ c.ve.latchC = none
  operands : ∀ h, owns c r (halfHead h) = true → (halfOf c h).seq.stack = []
  staging : ∀ x, owns c r (ctxHead x) = true → ∀ q < 3, (ctxOf c x).staged.get [] q = []

theorem clearedOf_clearedSite (r : Nat) (c : Site) : ClearedOf r (clearedSite r c) where
  latches h := by
    have h : owns c r 2 = true := h
    simp [clearedSite, clearedVe, h]
  operands x h := by
    have h : owns c r (halfHead x) = true := h
    simp [halfOf_clearedSite, clearedHalf, h]
  staging x h q _ := by
    have h : owns c r (ctxHead x) = true := h
    simp [ctxOf_clearedSite, clearedCtx, h, Table.get_fill_default]

/-- A stream of a rink stands on one of its sites. -/
theorem mem_sitesOf {r k h : Nat} {s : State} (hh : h < 7) (ho : owns (site k s) r h = true) : k ∈ sitesOf r s := by
  have hlisted : ∀ cells : List (Nat × Site), owns (lookupKey Site.reset k cells) r h = true → (k, lookupKey Site.reset k cells) ∈ cells := by
    intro cells hc
    induction cells with
    | nil =>
      rw [lookupKey, owns, show Site.reset.own = Own.none from rfl, ownField_none] at hc
      exact nomatch hc
    | cons c cs ih =>
      unfold lookupKey at hc ⊢
      split
      · next e => rw [← e]; exact List.mem_cons_self
      · next e => rw [if_neg e] at hc; exact List.mem_cons_of_mem _ (ih hc)
  refine List.mem_map.2 ⟨_, List.mem_filter.2 ⟨hlisted _ ho, ?_⟩, rfl⟩
  exact List.any_eq_true.2 ⟨h, List.mem_range.2 hh, ho⟩

/-- A change of every site of a list reaches each of them. -/
theorem site_foldl_modSite {P : Site → Prop} {f : Site → Site} (h : ∀ c, P (f c)) {l : List Nat} {k : Nat} (hk : k ∈ l) (s : State) :
    P (site k (l.foldl (fun s j => modSite j f s) s)) := by
  induction l generalizing s with
  | nil => exact nomatch hk
  | cons j l ih =>
    by_cases hl : k ∈ l
    · exact ih hl _
    · have hkj : k = j := (List.mem_cons.1 hk).resolve_right hl
      have hout : ∀ (l : List Nat) (t : State), k ∉ l → site k (l.foldl (fun s j => modSite j f s) t) = site k t := by
        intro l
        induction l with
        | nil => exact fun _ _ => rfl
        | cons i l ih' =>
          intro t hn
          rw [List.mem_cons, not_or] at hn
          rw [List.foldl_cons, ih' _ hn.2, site_modSite_ne hn.1]
      rw [List.foldl_cons, hout l _ hl, hkj, site_modSite_same]
      exact h _

theorem clearEngines_keeps {γ : Type} (P : Site → γ) {r : Nat} (h : ∀ c, P (clearedSite r c) = P c) (k : Nat) (s : State) :
    P (site k (clearEngines r s)) = P (site k s) := by
  rw [clearEngines_eq]
  exact foldl_keeps (fun s => P (site k s)) (fun s j => site_modSite_keeps P h j k s) _ s

theorem clearEngines_rest (r : Nat) (s : State) : (clearEngines r s).rinks = s.rinks ∧ (clearEngines r s).power = s.power ∧
    (clearEngines r s).cur = s.cur := by
  rw [clearEngines_eq]
  have keeps {γ : Type} (g : State → γ) (h : ∀ s k, g (modSite k (clearedSite r) s) = g s) := foldl_keeps g h (sitesOf r s) s
  exact ⟨keeps State.rinks fun _ _ => rfl, keeps State.power fun _ _ => rfl, keeps State.cur fun _ _ => rfl⟩

/-- Every core is clear of the rink's latches, stacks and staging entries: on a core where the rink has no stream there are none. -/
theorem clearEngines_clears (r : Nat) (s : State) (k : Nat) : ClearedOf r (site k (clearEngines r s)) := by
  have hown (h : Nat) : owns (site k (clearEngines r s)) r h = owns (site k s) r h := by
    rw [owns, clearEngines_keeps Site.own (fun _ => rfl)]
    rfl
  have hmem {h : Nat} (hh : h < 7) (ho : owns (site k (clearEngines r s)) r h = true) : ClearedOf r (site k (clearEngines r s)) := by
    rw [clearEngines_eq]
    exact site_foldl_modSite (clearedOf_clearedSite r) (mem_sitesOf hh (hown h ▸ ho)) s
  exact ⟨fun h => (hmem (by decide) h).latches h, fun x h => (hmem (by cases x <;> decide) h).operands x h,
    fun x h => (hmem (by cases x <;> decide) h).staging x h⟩

end ClearEngines

/-! ## The state at a gate (05 R141, 18 R417) -/

section GateState

variable {s : State}

theorem setPattern_keeps (d c : Nat) (pat : BitVec 16) (lock : Bool) (s : State) : (setPattern d c pat lock s).sites = s.sites ∧
    (setPattern d c pat lock s).rinks = s.rinks ∧ (setPattern d c pat lock s).power = s.power ∧ (setPattern d c pat lock s).cur = s.cur := by
  unfold setPattern
  dsimp only
  split <;> exact ⟨rfl, rfl, rfl, rfl⟩

/-- A pattern is of the dies, and that it is pending is of the rink: the rink's work and the cores stand. -/
theorem applyPattern_keeps (r : Nat) (s : State) : (applyPattern r s).sites = s.sites ∧ (applyPattern r s).power = s.power ∧
    (applyPattern r s).cur = s.cur ∧ (rink r (applyPattern r s)).work = (rink r s).work := by
  unfold applyPattern
  split
  · exact ⟨rfl, rfl, rfl, rfl⟩
  · dsimp only
    have keeps {γ : Type} (g : State → γ) (h : ∀ d c pat lock s, g (setPattern d c pat lock s) = g s) (l : List (Nat × Nat)) :=
      foldl_keeps (f := fun t (e : Nat × Nat) =>
        if clusterOwned r e.1 e.2 t && !(die e.1 t).cpatLock.get false e.2 && (die e.1 t).cpatAt.get 0 e.2 != t.cycle + 1 then
          setPattern e.1 e.2 (rink r t).rpat false t else t) g (fun t e => by split; exacts [h .., rfl]) l s
    refine ⟨keeps State.sites (fun d c pat lock s => (setPattern_keeps d c pat lock s).1) _,
      keeps State.power (fun d c pat lock s => (setPattern_keeps d c pat lock s).2.2.1) _,
      keeps State.cur (fun d c pat lock s => (setPattern_keeps d c pat lock s).2.2.2) _, ?_⟩
    rw [rink_modRink_same]
    exact keeps (fun s => (rink r s).work)
      (fun d c pat lock s => congrArg (fun t => (t.get Rink.reset r).work) (setPattern_keeps d c pat lock s).2.1) _

variable (r : Nat) (p : Bool) (g : GateEntry) (pos : Word) (x : Ctx)

theorem gateStep_keeps (s : State) : (gateStep r p g pos x s).sites = (clearEngines r s).sites ∧ (gateStep r p g pos x s).power = s.power ∧
    (gateStep r p g pos x s).cur = s.cur := by
  obtain ⟨-, hpower, hcur⟩ := clearEngines_rest r s
  unfold gateStep
  cases p with
  | false => exact ⟨rfl, hpower, hcur⟩
  | true =>
    obtain ⟨h1, h2, h3, -⟩ := applyPattern_keeps r (modWork r (fun w => { w with
      gateAddr := pos - 4, gateName := g.name, phase := w.phase + b2n true, pctr := if true then Ctr.idle else w.pctr,
      issuedP := if true then [] else w.issuedP, opLen := 0, opPosted := false, opEvent := none }) (clearEngines r s))
    exact ⟨h1, h2.trans hpower, h3.trans hcur⟩

/-- The gate record and the checkpoint. -/
theorem gateStep_record (s : State) :
    let q := rink r (gateStep r p g pos x s)
    q.work.gateAddr = pos - 4 ∧ q.work.gateName = g.name ∧ q.work.phase = (rink r s).work.phase + b2n p ∧ q.recov.count = 0 ∧
      ∃ w, q.recov.checkpoint = some (checkpointOf x pos g.slive g.alive w) := by
  have hrink : rink r (clearEngines r s) = rink r s := congrArg (fun t => t.get Rink.reset r) (clearEngines_rest r s).1
  unfold gateStep
  dsimp only
  cases p with
  | false =>
    simp only [modRecov, modWork, rink_modRink_same, hrink, Bool.false_eq_true, if_false]
    exact ⟨trivial, trivial, trivial, trivial, _, rfl⟩
  | true =>
    simp only [modRecov, rink_modRink_same, if_true, (applyPattern_keeps r _).2.2.2]
    simp only [modWork, rink_modRink_same, hrink]
    exact ⟨trivial, trivial, trivial, trivial, _, rfl⟩

/-- What of a context the gate's step leaves: its position and its registers. -/
structure GateKept (x y : Ctx) : Prop where
  pc : y.pc = x.pc
  slots : y.slots = x.slots
  s : y.s = x.s
  a : y.a = x.a

theorem GateKept.trans {x y z : Ctx} (h : GateKept x y) (h' : GateKept y z) : GateKept x z :=
  ⟨h'.pc.trans h.pc, h'.slots.trans h.slots, h'.s.trans h.s, h'.a.trans h.a⟩

theorem gateKept_clearedCtx (b : Bool) (x : Ctx) : GateKept x (clearedCtx b x) := by cases b <;> exact ⟨rfl, rfl, rfl, rfl⟩

theorem gateKept_addEnergy (n : Nat) (x : Ctx) : GateKept x (addEnergy n x) := by
  unfold addEnergy
  split <;> exact ⟨rfl, rfl, rfl, rfl⟩

theorem gateKept_clearEngines (s : State) (k : Nat) (x : Side) : GateKept (ctxOf (site k s) x) (ctxOf (site k (clearEngines r s)) x) := by
  have keeps {γ : Type} (P : Ctx → γ) (h : ∀ b x, P (clearedCtx b x) = P x) :=
    clearEngines_keeps (r := r) (fun c => P (ctxOf c x)) (fun c => by rw [ctxOf_clearedSite, h]) k s
  exact ⟨keeps Ctx.pc fun b x => (gateKept_clearedCtx b x).pc, keeps Ctx.slots fun b x => (gateKept_clearedCtx b x).slots,
    keeps Ctx.s fun b x => (gateKept_clearedCtx b x).s, keeps Ctx.a fun b x => (gateKept_clearedCtx b x).a⟩

/-- The gate's vote and its charge, then its step (05 R141). -/
def gateCharged (s : State) : State := charge s.cur.site s.cur.ctx 3 1 (modRink (myRink s) (applyVote p) s)

/-- The rink and its sequencer after a gate, before the scheduler's decision. -/
def gateDone (s : State) : State :=
  modMyCtx (fun y => ccIssue (mySite s).now 1 (advancePc y)) (gateStep (myRink s) p g ((myCtx s).pc + 4) (myCtx s) (gateCharged p s))

theorem gateCharged_own (s : State) (k : Nat) : (site k (gateCharged p s)).own = (site k s).own :=
  site_modSite_keeps Site.own (f := modCtx s.cur.ctx (addEnergy (1 * weight s.cur.site 3 (modRink (myRink s) (applyVote p) s)))) (modCtx_own _ _) ..

theorem myCtx_gateStep (s : State) : GateKept (myCtx s) (myCtx (gateStep (myRink s) p g pos x (gateCharged p s))) := by
  obtain ⟨hsites, -, hcur⟩ := gateStep_keeps (myRink s) p g pos x (gateCharged p s)
  have hctx : myCtx (gateStep (myRink s) p g pos x (gateCharged p s)) =
      ctxOf (site s.cur.site (clearEngines (myRink s) (gateCharged p s))) s.cur.ctx := by
    rw [myCtx, mySite, hcur, site, hsites]
    rfl
  have hcharged : ctxOf (site s.cur.site (gateCharged p s)) s.cur.ctx =
      addEnergy (1 * weight s.cur.site 3 (modRink (myRink s) (applyVote p) s)) (myCtx s) := myCtx_charge 3 1 (modRink (myRink s) (applyVote p) s)
  have hfirst : GateKept (myCtx s) (ctxOf (site s.cur.site (gateCharged p s)) s.cur.ctx) := hcharged ▸ gateKept_addEnergy ..
  exact hctx ▸ hfirst.trans (gateKept_clearEngines ..)

theorem myCtx_gateDone (s : State) : myCtx (gateDone p g s) = ccIssue (mySite s).now 1 (advancePc
    (myCtx (gateStep (myRink s) p g ((myCtx s).pc + 4) (myCtx s) (gateCharged p s)))) := myCtx_modMyCtx ..

theorem gateDone_power (s : State) : (gateDone p g s).power = s.power := 
  (gateStep_keeps (myRink s) p g ((myCtx s).pc + 4) (myCtx s) (gateCharged p s)).2.1

/-- The word's own progress moves none of what a gate clears. -/
theorem clearedOf_issued {r : Nat} {c : Site} (h : ClearedOf r c) (y : Side) (now : Nat) :
    ClearedOf r (modCtx y (fun v => ccIssue now 1 (advancePc v)) c) := by
  have hhalf (q : Side) : halfOf (modCtx y (fun v => ccIssue now 1 (advancePc v)) c) q = halfOf c q := by cases y <;> rfl
  have hstaged (q : Side) : (ctxOf (modCtx y (fun v => ccIssue now 1 (advancePc v)) c) q).staged = (ctxOf c q).staged := by
    cases y <;> cases q <;> simp [modCtx, setCtx, ctxOf]
  have hown (n : Nat) : owns (modCtx y (fun v => ccIssue now 1 (advancePc v)) c) r n = owns c r n := by rw [owns, modCtx_own, owns]
  refine ⟨fun ho => ?_, fun q ho => ?_, fun q ho => ?_⟩
  · rw [modCtx_ve]
    exact h.latches (hown 2 ▸ ho)
  · rw [hhalf]
    exact h.operands q (hown _ ▸ ho)
  · rw [hstaged]
    exact h.staging q (hown _ ▸ ho)

theorem gateDone_cleared (s : State) (k : Nat) : ClearedOf (myRink s) (site k (gateDone p g s)) := by
  have hk (j : Nat) : site j (gateStep (myRink s) p g ((myCtx s).pc + 4) (myCtx s) (gateCharged p s)) =
      site j (clearEngines (myRink s) (gateCharged p s)) := congrArg (fun t => t.get Site.reset j) (gateStep_keeps ..).1
  have hclear := fun j => hk j ▸ clearEngines_clears (myRink s) (gateCharged p s) j
  unfold gateDone modMyCtx modMySite
  by_cases hj : k = (gateStep (myRink s) p g ((myCtx s).pc + 4) (myCtx s) (gateCharged p s)).cur.site
  · rw [hj, site_modSite_same]
    exact clearedOf_issued (hclear _) ..
  · rw [site_modSite_ne hj]
    exact hclear k

theorem gateDone_own (s : State) (k : Nat) : (site k (gateDone p g s)).own = (site k s).own := by
  have hstep : (site k (gateStep (myRink s) p g ((myCtx s).pc + 4) (myCtx s) (gateCharged p s))).own = (site k s).own := by
    rw [site, (gateStep_keeps ..).1]
    exact (clearEngines_keeps Site.own (fun _ => rfl) k _).trans (gateCharged_own p s k)
  exact (site_modSite_keeps Site.own (modCtx_own _ _) ..).trans hstep

end GateState

/-! ## The word (05 R141) -/

section GateWord

variable {s : State} {p : Bool} {g : GateEntry}

theorem execGate_unnamed (hf : freeMode s) (ha : atSequencer s) (ho : outsideSlots s) (hg : gateEntry s (myRink s) (myCtx s).pc = none) :
    exec (.gate p) s = .next (takeTrap false 0x28 0 false s) := by
  show execGate p s = _
  simp only [execGate, hg]
  rw [ccWord_stop (e := .trap 0x28 0) (by simp [slotHit_none ho, needFree_none hf, needSequencer_none ha, firstHit])]
  rfl

/-- What a gate waits for: the rink's engines, its live registers, and where the job leaves its own accesses. -/
def gateReady (s : State) (g : GateEntry) : Prop :=
  rinkRetired (myRink s) s = true ∧ livePending g (myCtx s) = false ∧ (gateStays (myRink s) s = true ∨ drained (myCtx s).buf = true)

theorem gateReady_iff : (!rinkRetired (myRink s) s || livePending g (myCtx s) || (!gateStays (myRink s) s && !drained (myCtx s).buf)) = false ↔
    gateReady s g := by
  unfold gateReady
  cases rinkRetired (myRink s) s <;> cases livePending g (myCtx s) <;> cases gateStays (myRink s) s <;> simp

theorem execGate_waits (hf : freeMode s) (ha : atSequencer s) (ho : outsideSlots s) (hg : gateEntry s (myRink s) (myCtx s).pc = some g)
    (hr : ¬gateReady s g) : exec (.gate p) s = .next (ccStop (.stall 2 0 0 none) s) := by
  show execGate p s = _
  have hwait := Bool.eq_true_of_not_eq_false (mt gateReady_iff.1 hr)
  simp only [execGate, hg, hwait, slotHit_none ho, needFree_none hf, needSequencer_none ha, hitIf_true, firstHit]

/-- A gate that its rink is ready for waits for the operating point of its vote (19 R429). -/
theorem execGate_votes (hf : freeMode s) (ha : atSequencer s) (ho : outsideSlots s) (hg : gateEntry s (myRink s) (myCtx s).pc = some g)
    (hr : gateReady s g) (hv : s.power.cur < (rink (myRink s) (modRink (myRink s) (applyVote p) s)).voteEff.toNat) :
    exec (.gate p) s = .next (ccStop (.stall 2 0 0 none) (modRink (myRink s) (applyVote p) s)) := by
  show execGate p s = _
  simp only [execGate, hg, gateReady_iff.2 hr, slotHit_none ho, needFree_none hf, needSequencer_none ha, hitIf_false, firstHit]
  exact if_pos hv

/-- The state in which the scheduler decides: a job that leaves has its span closed. -/
def gateDecided (p : Bool) (g : GateEntry) (s : State) : State :=
  if gateStays (myRink s) (gateDone p g s) = true then gateDone p g s else closeSpan (myRink s) (gateDone p g s)

/-- At the operating point the scheduler decides (13 R322). -/
theorem execGate_decides (hf : freeMode s) (ha : atSequencer s) (ho : outsideSlots s) (hg : gateEntry s (myRink s) (myCtx s).pc = some g)
    (hr : gateReady s g) (hv : (rink (myRink s) (modRink (myRink s) (applyVote p) s)).voteEff.toNat ≤ s.power.cur) :
    (∀ t, gateDecision (myRink s) g ((myCtx s).pc + 4) (gateDecided p g s) = some t → exec (.gate p) s = .next t) ∧
      (gateDecision (myRink s) g ((myCtx s).pc + 4) (gateDecided p g s) = none →
        exec (.gate p) s = .next (ccStop (.stall 2 0 0 none) (modRink (myRink s) (applyVote p) s))) := by
  have hword : exec (.gate p) s = execGate p s := rfl
  rw [hword]
  simp only [execGate, hg, gateReady_iff.2 hr, slotHit_none ho, needFree_none hf, needSequencer_none ha, hitIf_false, firstHit]
  have hpoint := Nat.not_lt.2 hv
  refine ⟨fun t ht => (if_neg hpoint).trans ?_, fun ht => (if_neg hpoint).trans ?_⟩
  all_goals split
  · next u hu => exact congrArg Outcome.next (Option.some.inj (hu.symm.trans ht))
  · next hu => exact nomatch hu.symm.trans ht
  · next u hu => exact nomatch hu.symm.trans ht
  · rfl

/-- Where nothing stands against it the job stays at its gate, and the word is done. -/
theorem gateDecision_stays {r : Nat} {pos : Word} {u : State} (hc : jobCancelled u r = false) (he : u.power.st ≠ .entering)
    (hs : (rink r u).susp = false ∨ (rink r u).suspd = true) (hm : mustChoose u r = false) :
    gateStays r u = true ∧ gateDecision r g pos u = some u := by
  have hsusp : ((rink r u).susp && !(rink r u).suspd) = false := by rcases hs with h | h <;> simp [h]
  constructor
  · simp [gateStays, hsusp, hc, he, hm]
  · simp [gateDecision, hsusp, hc, he, hm]

end GateWord

/-! ## Events and windows (05 R142 to R144) -/

section EventWords

variable {s : State}

/-- A word that a stall holds at its place. -/
def WaitsAt (s t : State) : Prop := (myCtx t).pc = (myCtx s).pc ∧ (myCtx t).s = (myCtx s).s ∧ (myCtx t).ctl.next = (mySite s).now + 1

theorem waitsAt_stall (hf : freeMode s) (s' : State) (hx : myCtx s' = myCtx s) (hn : (mySite s').now = (mySite s).now) :
    WaitsAt s (ccStop (.stall 2 0 0 none) s') := by
  have hf' : freeMode s' := by rw [freeMode, hx]; exact hf
  rw [WaitsAt, myCtx_stalled hf' (by decide), hx, hn]
  exact ⟨rfl, rfl, rfl⟩

theorem popEvent_eq (w : Work) : (popEvent w).1 = w.evq.headD 0 ∧ (popEvent w).2.evq = w.evq.drop 1 := by
  unfold popEvent
  split
  · next h => simp [h]
  · next h => simp [h]

theorem execEvpop_next {d : BitVec 5} (hf : freeMode s) (ha : atSequencer s) (hd : settledS s d) :
    exec (.evpop d) s = .next (wordAfter (mySite s).now (modMyCtx (putS (mySite s).now 1 d (popEvent (rink (myRink s) s).work).1)
      (modWork (myRink s) (fun _ => (popEvent (rink (myRink s) s).work).2) s))) :=
  congrArg Outcome.next (ccWord_wordAfter (by simp [needFree_none hf, needSequencer_none ha, writeS_none hd, firstHit]))

theorem execEvpop_foreign {d : BitVec 5} (hf : freeMode s) (ha : ¬atSequencer s) :
    exec (.evpop d) s = .next (takeTrap false 0x10 0 false s) :=
  congrArg Outcome.next (ccWord_stop (e := .trap 0x10 0) (by simp [needFree_none hf, needSequencer_trap ha, firstHit]))

/-- The rights that wpub and wsync ask for (05 R143, R144). -/
def mayPublish (r : Nat) (v : Window) : Bool := v.valid && v.owner.toNat == r && v.wwr.getLsbD r

def maySync (r : Nat) (v : Window) : Bool := v.valid && v.wrd.getLsbD r

/-- The publication: the window's number, and the wsyncs of this cycle after it (11 R292). -/
def published (n : Nat) (s : State) : State :=
  (s.synced.filter (·.2 == n)).foldl (fun s q => viewSync q.1 n s) (viewPublish n (modWindow n (fun v => { v with pub := v.pub + 1 }) s))

theorem published_keeps {γ : Type} (P : State → γ) (h : ∀ v s, P { s with views := v } = P s) (n : Nat) (s : State) :
    P (published n s) = P (modWindow n (fun v => { v with pub := v.pub + 1 }) s) := by
  unfold published
  exact (foldl_keeps (f := fun s (q : Nat × Nat) => viewSync q.1 n s) P (fun s q => h _ s) _ _).trans (h _ _)

variable {w : BitVec 6}

def wpubHits (s : State) (w : BitVec 6) : List (Option Hit) :=
  [needFree s, hitIf (!mayPublish (myRink s) (windowOf w.toNat s)) (.trap 0x27 w.toNat),
    hitIf (!((myCtx s).buf.stores.isEmpty && !(myCtx s).buf.atomicOut) || writesWindow (myRink s) w.toNat s) (.stall 2 0 0 none)]

theorem execWpub_eq (w : BitVec 6) (s : State) : exec (.wpub w) s = .next (ccWord (wpubHits s w) 1 (published w.toNat) s) := rfl

theorem execWpub_foreign (hf : freeMode s) (h : mayPublish (myRink s) (windowOf w.toNat s) = false) :
    exec (.wpub w) s = .next (takeTrap false 0x27 w.toNat false s) := by
  rw [execWpub_eq, ccWord_stop (e := .trap 0x27 w.toNat) (by simp [wpubHits, needFree_none hf, h, firstHit])]
  rfl

theorem execWpub_next (hf : freeMode s) (h : mayPublish (myRink s) (windowOf w.toNat s) = true) (hs : (myCtx s).buf.stores = [])
    (ha : (myCtx s).buf.atomicOut = false) (hw : writesWindow (myRink s) w.toNat s = false) :
    exec (.wpub w) s = .next (wordAfter (mySite s).now (published w.toNat s)) := by
  rw [execWpub_eq, ccWord_wordAfter (by simp [wpubHits, needFree_none hf, h, hs, ha, hw, firstHit])]

theorem execWpub_waits (hf : freeMode s) (h : mayPublish (myRink s) (windowOf w.toNat s) = true)
    (hn : (myCtx s).buf.stores ≠ [] ∨ (myCtx s).buf.atomicOut = true ∨ writesWindow (myRink s) w.toNat s = true) :
    exec (.wpub w) s = .next (ccStop (.stall 2 0 0 none) s) := by
  have hwait : (!((myCtx s).buf.stores.isEmpty && !(myCtx s).buf.atomicOut) || writesWindow (myRink s) w.toNat s) = true := by
    rcases hn with hn | hn | hn <;> simp [hn]
  rw [execWpub_eq, ccWord_stop (e := .stall 2 0 0 none) (by simp only [wpubHits, needFree_none hf, h, hwait]; rfl)]

theorem execWsync_next (hf : freeMode s) (h : maySync (myRink s) (windowOf w.toNat s) = true) : exec (.wsync w) s =
    .next (wordAfter (mySite s).now { viewSync (myRink s) w.toNat s with synced := (myRink s, w.toNat) :: s.synced }) :=
  congrArg Outcome.next (ccWord_wordAfter (by simp [needFree_none hf, show (_ && _) = true from h, firstHit]))

theorem execWsync_foreign (hf : freeMode s) (h : maySync (myRink s) (windowOf w.toNat s) = false) :
    exec (.wsync w) s = .next (takeTrap false 0x27 w.toNat false s) :=
  congrArg Outcome.next (ccWord_stop (e := .trap 0x27 w.toNat) (by simp [needFree_none hf, show (_ && _) = false from h, firstHit]))

/-- A word whose effect leaves the cores and the memories. -/
theorem memoryKept_wordAfter {t : State} (now : Nat) (hm : t.mem = s.mem) (hh : t.host = s.host) (hs : t.sites = s.sites) :
    MemoryKept s (wordAfter now t) := by
  obtain ⟨h1, h2, h3, h4⟩ := memoryKept_modMyCtx (fun x => ccIssue now 1 (advancePc x)) t
  have hsite (k : Nat) : site k t = site k s := congrArg (fun c => c.get Site.reset k) hs
  exact ⟨fun a => hm ▸ h1 a, fun a => hh ▸ h2 a, fun k a => hsite k ▸ h3 k a, fun k n a => hsite k ▸ h4 k n a⟩

end EventWords

/-- Settles O29: the gate by what it waits for and then by what its step leaves; the words of events and windows by their checks. -/
theorem gateEventAndWindowWords : Obligations.GateEventAndWindowWords := by
  unfold Obligations.GateEventAndWindowWords
  refine ⟨fun s p g hf ha ho => ?gate, fun s d w hf => ?words⟩
  case gate =>
    intro x r holds ready eff
    have hold {u : State} (h : exec (.gate p) s = .next (ccStop (.stall 2 0 0 none) u)) (hx : myCtx u = myCtx s)
        (hn : (mySite u).now = (mySite s).now) : holds := ⟨_, h, waitsAt_stall hf u hx hn⟩
    refine ⟨execGate_unnamed hf ha ho, fun hg hr => hold (execGate_waits hf ha ho hg hr) rfl rfl,
      fun hg hr hv => hold (execGate_votes hf ha ho hg hr hv) rfl rfl, fun hg hr hv => ?_⟩
    obtain ⟨hsome, hnone⟩ := execGate_decides hf ha ho hg hr hv
    have hkept := myCtx_gateStep p g (x.pc + 4) x s
    have hdone := myCtx_gateDone p g s
    intro u v
    have hu : u = gateDone p g s := rfl
    refine ⟨hsome, fun h => hold (hnone h) rfl rfl, ?pc, ?s, ?a, fun k => ?cleared, ?record⟩
    case pc => rw [hu, hdone, ccIssue_pc, advancePc_pc _ (hkept.slots.trans ho), hkept.pc]
    case s => rw [hu, hdone, ccIssue_s, advancePc_s, hkept.s]
    case a => rw [hu, hdone, ccIssue_a, advancePc_a, hkept.a]
    case cleared =>
      have hown (h : Nat) : owns (site k (gateDone p g s)) r h = owns (site k s) r h := owns_congr (gateDone_own p g s k) h
      obtain ⟨hlatches, hstacks, hstaging⟩ := gateDone_cleared p g s k
      exact ⟨fun h => hlatches ((hown 2).trans h), fun y h => hstacks y ((hown _).trans h), fun y h => hstaging y ((hown _).trans h)⟩
    case record =>
      obtain ⟨haddr, hname, hphase, hcount, w, hpoint⟩ := gateStep_record r p g (x.pc + 4) x (gateCharged p s)
      have hback : x.pc + 4 - 4 = x.pc := by simp
      refine ⟨haddr.trans hback, hname, hphase.trans ?_, hcount,
        ⟨_, hpoint, rfl, rfl, rfl, rfl, rfl, rfl, rfl, rfl, rfl, rfl, rfl⟩, fun hc he hs hm => ?_⟩
      · rw [gateCharged, charge, show rink r (modSite _ _ _) = rink r (modRink r (applyVote p) s) from rfl, rink_modRink_same]
        rfl
      · obtain ⟨hstays, hdecides⟩ := gateDecision_stays (g := g) (pos := x.pc + 4) hc ((gateDone_power p g s).symm ▸ he) hs hm
        have hv : gateDecided p g s = gateDone p g s := if_pos hstays
        exact hsome u (hv ▸ hdecides)
  case words =>
    intro x r v q own may
    have hown : own ↔ mayPublish r v = true := by simp [own, mayPublish, and_assoc]
    have hmay : may ↔ maySync r v = true := by simp [may, maySync]
    refine ⟨fun ha hd => ?evpop, execEvpop_foreign hf, fun h => execWpub_foreign hf (Bool.eq_false_iff.2 (mt hown.2 h)),
      fun h hs ha hw => ?wpub, fun h hn => ?waits, fun h => execWsync_foreign hf (Bool.eq_false_iff.2 (mt hmay.2 h)),
      fun h => execWsync_next hf (hmay.1 h)⟩
    case evpop =>
      obtain ⟨hhead, htail⟩ := popEvent_eq (rink r s).work
      have hctx := myCtx_wordAfter (mySite s).now (modMyCtx (putS (mySite s).now 1 d (popEvent (rink r s).work).1)
        (modWork r (fun _ => (popEvent (rink r s).work).2) s))
      rw [myCtx_modMyCtx, show myCtx (modWork r _ s) = x from rfl] at hctx
      refine ⟨_, execEvpop_next hf ha hd, fun h0 => ?_, ?_, fun ho => ?_, ?_⟩
      · rw [hctx, getS_ccIssue, getS_advancePc, getS_putS_same h0, hhead]
      · have hrink : rink r (modWork r (fun _ => (popEvent (rink r s).work).2) s) = { rink r s with work := (popEvent (rink r s).work).2 } :=
          rink_modRink_same ..
        exact (congrArg (fun k => k.work.evq) hrink).trans htail
      · rw [hctx, ccIssue_pc, advancePc_pc _ ((putS_slots ..).trans ho), putS_pc]
      · rw [hctx]
        exact ((scalarFrame_putS (mySite s).now 1 (popEvent (rink r s).work).1 x).issued (mySite s).now 1).scalars
    case wpub =>
      have keeps {γ : Type} (P : State → γ) (hv : ∀ v s, P { s with views := v } = P s) := published_keeps P hv w.toNat s
      have hx : myCtx (published w.toNat s) = x := keeps myCtx fun _ _ => rfl
      refine ⟨_, execWpub_next hf (hown.1 h) hs ha hw, ?_, fun ho => ?_, ?_, memoryKept_wordAfter _ (keeps State.mem fun _ _ => rfl)
        (keeps State.host fun _ _ => rfl) (keeps State.sites fun _ _ => rfl)⟩
      · exact (congrArg Window.pub (keeps (windowOf w.toNat) fun _ _ => rfl)).trans (by rw [windowOf_modWindow_same])
      · rw [myCtx_wordAfter, hx, ccIssue_pc, advancePc_pc _ ho]
      · rw [myCtx_wordAfter, hx, ccIssue_s, advancePc_s]
    case waits =>
      obtain ⟨hpc, -, hnext⟩ := waitsAt_stall hf s rfl rfl
      refine ⟨_, execWpub_waits hf (hown.1 h) hn, ?_, hpc, hnext⟩
      rw [ccStop_stall hf (by decide)]
      rfl

end Sys2Proof.Machine

/-! # launch, lwait and cancel (05 R138 to R140, 13 R312 to R317, R331 to R333) -/

namespace Sys2Proof.Machine

open Host (Outcome)

/-! ## The event queue (13 R333) -/

section EventQueue

theorem bumpDrop_length (i : Nat) (q : List Word) : (bumpDrop i q).length = q.length := by simp [bumpDrop, setNth]

/-- The words of the queue that a record may still take: one is kept for an overflow record. -/
def eventRoom (w : Work) : Nat := 256 - w.evq.length - (if w.evDrop = none then 1 else 0)

theorem eventRoom_eq (w : Work) : 256 - w.evq.length - b2n w.evDrop.isNone = eventRoom w := by
  unfold eventRoom
  cases w.evDrop <;> rfl

theorem postEvent_fits {kind info : Nat} {rest : List Word} {w : Work} (h : rest.length + 1 ≤ eventRoom w) :
    (postEvent kind info rest w).evq = w.evq ++ (eventWord kind (rest.length + 1) info (w.evNum.toNat + 1) :: rest) := by
  simp only [postEvent, eventRoom_eq, if_pos h]

/-- A record without room is dropped: only an overflow record may come to stand. -/
theorem postEvent_dropped {kind info : Nat} {rest : List Word} {w : Work} (h : eventRoom w < rest.length + 1) :
    (postEvent kind info rest w).evq.length = w.evq.length + (if w.evDrop = none then 1 else 0) := by
  simp only [postEvent, eventRoom_eq, if_neg (Nat.not_le.2 h)]
  cases w.evDrop with
  | none => simp
  | some i => simp [bumpDrop_length]

/-- A record is of the queue alone. -/
theorem postEvent_keeps (kind info : Nat) (rest : List Word) (w : Work) :
    (postEvent kind info rest w).launches = w.launches ∧ (postEvent kind info rest w).lctr = w.lctr := by
  unfold postEvent
  dsimp only
  split
  · exact ⟨rfl, rfl⟩
  · split <;> exact ⟨rfl, rfl⟩

end EventQueue

/-! ## The end of LAUNCH (05 R138, 13 R313) -/

section Launch

variable {s : State} {d : BitVec 5} {c : Cap} {covers : Bool} {b : List Byte}

/-- The status of a launch, by the checks of its record (13 R317). -/
def statusOf (covers : Bool) (b : List Byte) (s : State) : Nat :=
  launchStatus (myRink s) (takeCtr (rink (myRink s) s).work) covers b (launchRegs (myCtx s)) s

/-- A launch whose list does not wait: its counter is taken and its status written. -/
def launchDone (d : BitVec 5) (st : Nat) (t s : State) : State :=
  modMyCtx (fun x => ccIssue (mySite s).now 1 (advancePc { putS (mySite s).now 1 d (.ofNat 64 st) x with
    lastLaunch := some (takeCtr (rink (myRink s) s).work) })) (recount (myRink s) t)

theorem finishLaunch_foreign (s0 : State) (hst : statusOf covers b s = 0) (hf : reqsForeign (myRink s) b s = true) :
    finishLaunch d c covers b s0 s = takeTrap false 0x14 0 false s := by
  unfold statusOf at hst
  simp only [finishLaunch, hst, hf, and_self, if_true]
  rfl

theorem finishLaunch_accepts (s0 : State) (hst : statusOf covers b s = 0) (hf : reqsForeign (myRink s) b s = false) :
    finishLaunch d c covers b s0 s =
      launchDone d 0 (acceptLaunch (myRink s) (takeCtr (rink (myRink s) s).work) c.cursor b (myCtx s) s) s := by
  unfold statusOf at hst
  simp only [finishLaunch, hst, hf]
  rfl

/-- A launch that is rejected, with what its list leaves in TFAULT. -/
theorem finishLaunch_rejects (s0 : State) (hst : statusOf covers b s ≠ 0)
    (hw : statusOf covers b s = 0x0A → ∀ h, pinFault (myRink s) b (launchRegs (myCtx s)) s = some h → waits h = false) :
    ∃ u, (u = s ∨ ∃ fn addr, u = latchWalk fn addr s) ∧ finishLaunch d c covers b s0 s = launchDone d (statusOf covers b s)
      (rejectLaunch (myRink s) (takeCtr (rink (myRink s) s).work) c.cursor (statusOf covers b s) u) s := by
  unfold finishLaunch
  dsimp only
  rw [if_neg (fun h => hst h.1)]
  have hne : ¬launchStatus (myRink s) (takeCtr (rink (myRink s) s).work) covers b (launchRegs (myCtx s)) s = 0 := hst
  split
  · next kind detail extra flag h =>
    split at h
    · next hA => exact nomatch hw hA _ h
    · exact nomatch h
  · rw [if_neg hne]
    split
    · next fn addr _ => exact ⟨_, .inr ⟨fn, addr, rfl⟩, rfl⟩
    · exact ⟨_, .inl rfl, rfl⟩

/-- What the end of a launch leaves of the counters' rink. -/
theorem recount_keeps (r : Nat) (t : State) : (rink r (recount r t)).work.launches = (rink r t).work.launches ∧
    (rink r (recount r t)).work.lctr = (rink r t).work.lctr ∧ (rink r (recount r t)).work.evq = (rink r t).work.evq := by
  simp only [recount, modWork, rink_modRink_same]
  exact ⟨trivial, trivial, trivial⟩

/-- The context that launched: its status register, its position and the counter of its last launch. -/
theorem launchDone_context {st : Nat} {t : State} (hs : t.sites = s.sites) (hc : t.cur = s.cur) :
    (d ≠ 0 → getS (myCtx (launchDone d st t s)) d = BitVec.ofNat 64 st) ∧
      ((myCtx s).slots = 0 → (myCtx (launchDone d st t s)).pc = (myCtx s).pc + 4) ∧
      (myCtx (launchDone d st t s)).lastLaunch = some (takeCtr (rink (myRink s) s).work) := by
  have hx : myCtx (recount (myRink s) t) = myCtx s := by
    show ctxOf (t.sites.get Site.reset t.cur.site) t.cur.ctx = _
    rw [hs, hc]
    rfl
  simp only [launchDone, myCtx_modMyCtx, hx, getS_ccIssue, getS_advancePc, ccIssue_pc, ccIssue_lastLaunch, advancePc_lastLaunch, and_true]
  refine ⟨fun h => getS_putS_same h .., fun h => ?_⟩
  rw [advancePc_pc _ (by simpa using h), putS_pc]

/-- The rink and the tile memories after a launch. -/
theorem launchDone_rest {st : Nat} {t : State} (hs : t.sites = s.sites) :
    (rink (myRink s) (launchDone d st t s)).work.launches = (rink (myRink s) t).work.launches ∧
      (rink (myRink s) (launchDone d st t s)).work.lctr = (rink (myRink s) t).work.lctr ∧
      (rink (myRink s) (launchDone d st t s)).work.evq = (rink (myRink s) t).work.evq ∧
      ∀ k, (site k (launchDone d st t s)).tm = (site k s).tm := by
  obtain ⟨hl, hc, he⟩ := recount_keeps (myRink s) t
  refine ⟨hl, hc, he, fun k => (site_modSite_keeps Site.tm (modCtx_tm _ _) ..).trans ?_⟩
  exact congrArg (fun t => (t.get Site.reset k).tm) hs

/-- The rink of an accepted launch (13 R313). -/
theorem acceptLaunch_work (r n addr : Nat) (b : List Byte) (x : Ctx) (s : State) :
    let w := (rink r (acceptLaunch r n addr b x s)).work
    (∃ l, w.launches = (rink r s).work.launches ++ [l] ∧ l.lctr = n ∧ l.bytes = b ∧ l.regsA = x.a ∧ l.pulsed = false ∧ l.pinned = false ∧
      l.units.length = recUnits b ∧ ∀ u ∈ l.units, u.allocated = false) ∧
    (w.lctr.get Ctr.idle n).state = .allocating ∧ w.evq = (rink r s).work.evq := by
  simp only [acceptLaunch, modWork, rink_modRink_same, issueEntry]
  refine ⟨⟨_, rfl, rfl, rfl, rfl, rfl, rfl, by simp [parseUnits, parseMany], fun u hu => ?_⟩, by rw [Table.get_put_same], trivial⟩
  obtain ⟨e, -, rfl⟩ := List.mem_map.1 hu
  rfl

/-- The rink of a rejected launch, whose record is posted where the queue has room (13 R313, R333). -/
theorem rejectLaunch_work (r n addr st : Nat) (s : State) :
    let w := (rink r s).work
    let v := (rink r (rejectLaunch r n addr st s)).work
    v.launches = w.launches ∧ v.lctr.get Ctr.idle n = ⟨st, .rejected, 0⟩ ∧
      (2 ≤ eventRoom w → v.evq = w.evq ++ [eventWord 1 2 st (w.evNum.toNat + 1), .ofNat 64 (addr / 4 * 4 + n)]) ∧
      (eventRoom w < 2 → v.evq.length = w.evq.length + (if w.evDrop = none then 1 else 0)) := by
  intro w v
  have hv : v = postEvent 1 st [.ofNat 64 (addr / 4 * 4 + n)] (issueEntry n 2 ⟨st, .rejected, 0⟩ w) := by
    simp only [v, rejectLaunch, modWork, rink_modRink_same, w]
  obtain ⟨hl, hc⟩ := postEvent_keeps 1 st [.ofNat 64 (addr / 4 * 4 + n)] (issueEntry n 2 ⟨st, .rejected, 0⟩ w)
  rw [hv]
  refine ⟨hl, ?_, fun h => postEvent_fits h, fun h => postEvent_dropped h⟩
  rw [hc]
  exact Table.get_put_same ..

/-! ## The word (05 R138) -/

/-- LAUNCH has read record `b` of its capability, as far as the capability covers it. -/
def launchReads (s : State) (c : Cap) (covers : Bool) (b : List Byte) (s2 : State) : Prop :=
  c.inBounds c.cursor 64 = false ∧ covers = false ∧ b = [] ∧ s2 = s ∨
    c.inBounds c.cursor 64 = true ∧ ∃ s1 hd, recordRead (myRink s) c c.cursor 64 s = .ok (hd, s1) ∧
      (c.inBounds c.cursor (recTotal hd) = false ∧ covers = false ∧ b = hd ∧ s2 = s1 ∨
        c.inBounds c.cursor (recTotal hd) = true ∧ covers = true ∧
          ∃ e, recordRead (myRink s) c (c.cursor + 64) (recTotal hd - 64) s1 = .ok (e, s2) ∧ b = hd ++ e)

theorem execLaunch_finishes {a : BitVec 4} {s2 : State} (hf : freeMode s) (hq : atSequencer s) (ha : readableA s a) (hd : settledS s d)
    (hb : drained (myCtx s).buf = true) (hp : s.power.st = .run) (htag : (getA (myCtx s) a).tag = true)
    (hspace : (getA (myCtx s) a).space = 0 ∨ (getA (myCtx s) a).space = 1 ∨ (getA (myCtx s) a).space = 2) (hld : (getA (myCtx s) a).hasLD = true)
    (hr : launchReads s (getA (myCtx s) a) covers b s2) :
    exec (.launch d a) s = .next (finishLaunch d (getA (myCtx s) a) covers b s s2) := by
  have hhits : firstHit [needFree s, needSequencer s, readA (mySite s).now (myCtx s) a, writeS (mySite s).now 1 (myCtx s) d,
      hitIf (!(getA (myCtx s) a).tag) (.trap 4 0),
      hitIf (((getA (myCtx s) a).space != 0 && (getA (myCtx s) a).space != 1 && (getA (myCtx s) a).space != 2) || !(getA (myCtx s) a).hasLD)
        (.trap 6 0),
      hitIf (!drained (myCtx s).buf || s.power.st != .run) (.stall 2 0 0 none)] = none := by
    rw [needFree_none hf, needSequencer_none hq, readA_none ha, writeS_none hd, htag, hld, hb, hp]
    rcases hspace with h | h | h <;> rw [h] <;> rfl
  show execLaunch d a s = _
  unfold execLaunch
  simp only [hhits]
  rcases hr with ⟨hin, rfl, rfl, rfl⟩ | ⟨hin, s1, hd, hread, ⟨hin2, rfl, rfl, rfl⟩ | ⟨hin2, rfl, e, hread2, rfl⟩⟩
  · simp only [hin, Bool.not_false, if_true]
  · simp only [hin, hread, hin2, Bool.not_true, Bool.not_false, Bool.false_eq_true, if_false, if_true]
  · simp only [hin, hread, hin2, hread2, Bool.not_true, Bool.false_eq_true, if_false]

end Launch

/-! ## The statuses (13 R317) -/

section Status

variable {s : State} {r n : Nat} {b : List Byte} {regs : Nat → Option Cap} {covers : Bool}

theorem launchStatus_unplaced (h : (rink r s).work.placed = false) : launchStatus r n covers b regs s = 9 := by simp [launchStatus, h]

theorem launchStatus_malformed (h : (rink r s).work.placed = true) (hb : covers = false ∨ recordOk b = false) :
    launchStatus r n covers b regs s = 1 := by
  rcases hb with hb | hb <;> simp [launchStatus, h, hb]

/-- The fields of the header that make a record malformed whatever else it holds (13 R314). -/
theorem recordOk_header (h : recordOk b = true) : recUnits b ≠ 0 ∧ recUnits b ≤ 272 ∧ le8 b 3 = 0 ∧ le16 b 6 ≤ 64 ∧ 64 ≤ recTotal b ∧
    le32 b 12 % 8 = 0 ∧ le32 b 16 % 8 = 0 ∧ le32 b 12 + 64 * recUnits b ≤ recTotal b ∧ le32 b 16 + 16 * le16 b 6 ≤ recTotal b := by
  simp only [recordOk, headerOk, tableOk, Bool.and_eq_true, decide_eq_true_eq, beq_iff_eq] at h
  omega

/-- The record may be launched: its regions stand, its capability covers it and it is well formed. -/
def launchFormed (r : Nat) (covers : Bool) (b : List Byte) (s : State) : Prop :=
  (rink r s).work.placed = true ∧ covers = true ∧ recordOk b = true

theorem launchStatus_full (h : launchFormed r covers b s) (hl : 2 ≤ (rink r s).work.launches.length) : launchStatus r n covers b regs s = 8 := by
  obtain ⟨hp, hc, ho⟩ := h
  simp [launchStatus, launchOpen, hp, hc, ho, hl]

theorem launchStatus_absent (h : launchFormed r covers b s) (hl : (rink r s).work.launches.length < 2)
    (hu : ∃ u ∈ parseUnits b, siteOfLogical r u.core s = none) : launchStatus r n covers b regs s = 2 := by
  obtain ⟨hp, hc, ho⟩ := h
  have hall : (parseUnits b).all (fun u => (siteOfLogical r u.core s).isSome) = false := by
    obtain ⟨u, hu, hn⟩ := hu
    exact List.all_eq_false.2 ⟨u, hu, by simp [hn]⟩
  simp only [launchStatus, launchOpen, hp, hc, ho, hall, Nat.not_le.2 hl]
  rfl

/-- A status of 0 is one that every check has passed. -/
theorem launchStatus_zero (h : launchStatus r n covers b regs s = 0) : launchFormed r covers b s ∧ (rink r s).work.launches.length < 2 ∧
    (∀ u ∈ parseUnits b, siteOfLogical r u.core s ≠ none) ∧ ((parsePins b).map (·.2.1)).sum ≤ 64 := by
  have hp : (rink r s).work.placed = true := by
    by_contra hp
    exact absurd (h.symm.trans (launchStatus_unplaced (Bool.eq_false_iff.2 hp))) (by decide)
  have hwell : covers = true ∧ recordOk b = true := by
    by_contra hw
    refine absurd (h.symm.trans (launchStatus_malformed hp ?_)) (by decide)
    rwa [Classical.not_and_iff_not_or_not, Bool.not_eq_true, Bool.not_eq_true] at hw
  have hformed : launchFormed r covers b s := ⟨hp, hwell⟩
  have hopen : (rink r s).work.launches.length < 2 :=
    Nat.lt_of_not_le fun hl => absurd (h.symm.trans (launchStatus_full hformed hl)) (by decide)
  refine ⟨hformed, hopen, fun u hu hn => absurd (h.symm.trans (launchStatus_absent hformed hopen ⟨u, hu, hn⟩)) (by decide), ?_⟩
  by_contra hsum
  have hlist : pinList s r regs (parsePins b) = .error none := if_pos (Nat.lt_of_not_le hsum)
  simp only [launchStatus, hlist] at h
  repeat' split at h
  all_goals exact absurd h (by decide)

end Status

/-! ## lwait and cancel (05 R139, R140) -/

section Waits

variable {s : State}

theorem execLwait_eq (d : BitVec 5) (level : BitVec 2) (s : State) : exec (.lwait d level) s =
    .next (ccWord [needFree s, needSequencer s, writeS (mySite s).now 1 (myCtx s) d,
      hitIf (levelState s (myRink s) level.toNat (myCtx s)).1 (.stall 2 0 0 none)] 1
      (modMyCtx (putS (mySite s).now 1 d (.ofNat 64 (levelState s (myRink s) level.toNat (myCtx s)).2))) s) := rfl

theorem execLwait_done {d : BitVec 5} {level : BitVec 2} (hf : freeMode s) (ha : atSequencer s) (hd : settledS s d)
    (hv : (levelState s (myRink s) level.toNat (myCtx s)).1 = false) : exec (.lwait d level) s =
      .next (wordDone (putS (mySite s).now 1 d (BitVec.ofNat 64 (levelState s (myRink s) level.toNat (myCtx s)).2)) s) := by
  rw [execLwait_eq, ccWord_wordDone (by rw [needFree_none hf, needSequencer_none ha, writeS_none hd, hv]; rfl)]

theorem execLwait_waits {d : BitVec 5} {level : BitVec 2} (hf : freeMode s) (ha : atSequencer s) (hd : settledS s d)
    (hv : (levelState s (myRink s) level.toNat (myCtx s)).1 = true) :
    exec (.lwait d level) s = .next (ccStop (.stall 2 0 0 none) s) := by
  rw [execLwait_eq, ccWord_stop (e := .stall 2 0 0 none) (by rw [needFree_none hf, needSequencer_none ha, writeS_none hd, hv]; rfl)]

/-- The state that cancel starts from: its own charge is made (17 R402). -/
def cancelCharged (s : State) : State := charge s.cur.site s.cur.ctx 3 1 s

theorem cancelHits_none (hf : freeMode s) (ha : atSequencer s) : firstHit [needFree s, needSequencer s] = none := by
  rw [needFree_none hf, needSequencer_none ha]; rfl

theorem execCancel_next {level : BitVec 2} (hf : freeMode s) (ha : atSequencer s) (hl : level = 0 ∨ level = 2) : exec (.cancel level) s =
    .next (wordAfter (mySite s).now (cancelWork (myRink s) level.toNat (myCtx s) (cancelCharged s))) := by
  have hn : level.toNat = 0 ∨ level.toNat = 2 := hl.imp (congrArg _) (congrArg _)
  show execCancel level s = _
  unfold execCancel
  simp only [if_pos hn, ccWord_wordAfter (cancelHits_none hf ha)]
  rfl

theorem execCancel_ends {level : BitVec 2} (hf : freeMode s) (ha : atSequencer s) (hl : level = 1 ∨ level = 3) : exec (.cancel level) s =
    .next (endGraph (myRink s) (if level.toNat = 1 then 1 else 2)
      (modMyCtx haltCtx (cancelWork (myRink s) level.toNat (myCtx s) (cancelCharged s)))) := by
  have hn : ¬(level.toNat = 0 ∨ level.toNat = 2) := by rcases hl with rfl | rfl <;> decide
  show execCancel level s = _
  unfold execCancel
  simp only [if_neg hn, cancelHits_none hf ha]
  rfl

/-- A level without launches, below the job: its counters are counted again. -/
theorem cancelWork_idle {r level : Nat} {x : Ctx} {t : State} (hl : level ≠ 3) (h : levelLaunches t r level x = []) :
    cancelWork r level x t = recount r t := by
  rw [cancelWork, h, if_neg hl]
  rfl

/-- What a cancel that ends nothing leaves of its context, its rink and the memories. -/
theorem cancelIdle_keeps (r : Nat) (s : State) :
    let t := wordAfter (mySite s).now (recount r (cancelCharged s))
    (outsideSlots s → (myCtx t).pc = (myCtx s).pc + 4) ∧ (myCtx t).s = (myCtx s).s ∧ (myCtx t).a = (myCtx s).a ∧
      (rink r t).work.launches = (rink r s).work.launches ∧ MemoryKept s t := by
  intro t
  obtain ⟨hpc, hslots, hs, ha⟩ := gateKept_addEnergy (1 * weight s.cur.site 3 s) (myCtx s)
  have hx : myCtx t = ccIssue (mySite s).now 1 (advancePc (addEnergy (1 * weight s.cur.site 3 s) (myCtx s))) :=
    (myCtx_wordAfter ..).trans (congrArg (fun x => ccIssue _ 1 (advancePc x)) (myCtx_charge 3 1 s))
  obtain ⟨hm, hh, htm, htiles⟩ := memoryKept_modMyCtx (addEnergy (1 * weight s.cur.site 3 s)) s
  obtain ⟨hm', hh', htm', htiles'⟩ :=
    memoryKept_wordAfter (s := cancelCharged s) (t := recount r (cancelCharged s)) (mySite s).now rfl rfl rfl
  rw [hx, ccIssue_s, ccIssue_a, advancePc_s, advancePc_a]
  refine ⟨fun ho => ?_, hs, ha, (recount_keeps r (cancelCharged s)).1, fun a => (hm' a).trans (hm a), fun a => (hh' a).trans (hh a),
    fun k a => (htm' k a).trans (htm k a), fun k n a => (htiles' k n a).trans (htiles k n a)⟩
  rw [ccIssue_pc, advancePc_pc _ (hslots.trans ho), hpc]

end Waits

/-- Settles O28: launch by what it read and how its list ends, its statuses, and the words that wait for a level or end it. -/
theorem launchWords : Obligations.LaunchWords := by
  unfold Obligations.LaunchWords
  refine ⟨fun s s2 d a b covers hf hq ha hd hb hp => ?launch, fun s r n b regs covers => ?status, fun s d level hf hq => ?levels⟩
  case launch =>
    intro c x r regs w htag hspace hld hread n st room
    have hexec := execLaunch_finishes hf hq ha hd hb hp htag hspace hld hread
    refine ⟨fun hst hreqs => hexec.trans (congrArg _ (finishLaunch_foreign s hst hreqs)), fun hwait hreqs => ?_⟩
    by_cases hst : st = 0
    · obtain ⟨hs, hpc, hlast⟩ := launchDone_context (d := d) (st := 0) (s := s2) (t := acceptLaunch r n c.cursor b x s2) rfl rfl
      obtain ⟨hl, hc, he, -⟩ := launchDone_rest (d := d) (st := 0) (s := s2) (t := acceptLaunch r n c.cursor b x s2) rfl
      obtain ⟨⟨l, hlist, hrest⟩, hctr, hevq⟩ := acceptLaunch_work r n c.cursor b x s2
      refine ⟨_, hexec.trans (congrArg _ (finishLaunch_accepts s hst (hreqs hst))), fun h => hst ▸ hs h, hpc, hlast,
        fun _ => ⟨l, hl.trans hlist, ?_⟩, fun h => absurd hst h⟩
      obtain ⟨h1, h2, h3, h4, h5, h6, h7⟩ := hrest
      exact ⟨h1, h2, h3, h4, h5, h6, h7, hc ▸ hctr, he.trans hevq⟩
    · obtain ⟨u, hu, hfin⟩ := finishLaunch_rejects (d := d) (c := c) s hst hwait
      have hkeep : (rejectLaunch r n c.cursor st u).sites = s2.sites ∧ (rejectLaunch r n c.cursor st u).cur = s2.cur ∧
          (rink r u).work = w := by
        rcases hu with rfl | ⟨fn, addr, rfl⟩ <;> exact ⟨rfl, rfl, rfl⟩
      obtain ⟨hsites, hcur, hwork⟩ := hkeep
      obtain ⟨hs, hpc, hlast⟩ := launchDone_context (d := d) (st := st) hsites hcur
      obtain ⟨hl, hc, he, htm⟩ := launchDone_rest (d := d) (st := st) hsites
      obtain ⟨hlist, hctr, hfits, hdrops⟩ := rejectLaunch_work r n c.cursor st u
      rw [hwork] at hlist hfits hdrops
      refine ⟨_, hexec.trans (congrArg _ hfin), hs, hpc, hlast, fun h => absurd h hst, fun _ => ⟨hl.trans hlist, hc ▸ hctr, htm,
        fun h => he.trans (hfits h), fun h => (congrArg _ he).trans (hdrops h)⟩⟩
  case status =>
    intro st w formed
    refine ⟨launchStatus_unplaced, fun hp hbad => ?_, launchStatus_full, launchStatus_absent, launchStatus_zero⟩
    refine launchStatus_malformed hp ?_
    by_contra hgood
    rw [not_or, Bool.not_eq_false, Bool.not_eq_false] at hgood
    obtain ⟨hcovers, hok⟩ := hgood
    have := recordOk_header hok
    rw [hcovers] at hbad
    simp only [Bool.true_eq_false, false_or] at hbad
    omega
  case levels =>
    intro x r v charged
    refine ⟨execLwait_done hf hq, fun hd hv => ?_, execCancel_next hf hq, fun hl hnone => ?_, ?_, ?_⟩
    · obtain ⟨hpc, hs, hnext⟩ := waitsAt_stall hf s rfl rfl
      exact ⟨_, execLwait_waits hf hq hd hv, hpc, hs, hnext⟩
    · have hlevel : level.toNat ≠ 3 := by rcases hl with rfl | rfl <;> decide
      exact ⟨_, (execCancel_next hf hq hl).trans (congrArg (fun t => Outcome.next (wordAfter _ t)) (cancelWork_idle hlevel hnone)),
        cancelIdle_keeps r s⟩
    · rintro rfl
      exact execCancel_ends hf hq (.inl rfl)
    · rintro rfl
      exact execCancel_ends hf hq (.inr rfl)

end Sys2Proof.Machine

/-! # A launch from allocation to completion (02 R67, 05 R138, R149, 09 R239, R245, 13 R313, R316, 15 R378) -/

namespace Sys2Proof.Machine

open Host (Outcome)

/-! ## The launch of a counter -/

section LaunchAt

variable {s t : State} {r n : Nat} {l : Launch}

theorem launchAt_lctr (h : launchAt s r n = some l) : l.lctr = n := by simpa using List.find?_some h

theorem launchAt_congr (h : t.rinks = s.rinks) : launchAt t r n = launchAt s r n := by
  have hrink : rink r t = rink r s := congrArg (fun q => q.get Rink.reset r) h
  rw [launchAt, hrink, launchAt]

/-- A change of a launch that keeps its counter is found at that counter. -/
theorem launchAt_modLaunch {f : Launch → Launch} (hf : ∀ l, (f l).lctr = l.lctr) (h : launchAt s r n = some l) :
    launchAt (modLaunch r n f s) r n = some (f l) := by
  have hkey : (fun v : Launch => v.lctr == n) ∘ (fun v => if v.lctr = n then f v else v) = (·.lctr == n) := by
    funext v
    by_cases hv : v.lctr = n <;> simp [hv, hf]
  have hfind : (rink r s).work.launches.find? (·.lctr == n) = some l := h
  simp only [launchAt, modLaunch, modWork, rink_modRink_same, List.find?_map, hkey, hfind, Option.map_some, if_pos (launchAt_lctr h)]

/-- A change of launches is of no counter. -/
theorem lctr_modLaunch (f : Launch → Launch) (s : State) : (rink r (modLaunch r n f s)).work.lctr = (rink r s).work.lctr := by
  simp only [modLaunch, modWork, rink_modRink_same]

theorem launchAt_setCtrState (st : CtrState) (s : State) : launchAt (setCtrState r n st s) r n = launchAt s r n := by
  simp only [launchAt, setCtrState, modWork, rink_modRink_same]

theorem lctr_setCtrState (st : CtrState) (s : State) : ((rink r (setCtrState r n st s)).work.lctr.get Ctr.idle n).state = st := by
  simp only [setCtrState, modWork, rink_modRink_same, Table.get_put_same]

end LaunchAt

/-! ## The fresh registers of a unit (02 R67) -/

section Fresh

variable {l : Launch} {u : UnitEntry} {r : Nat}

/-- A stream of a unit before its start pulse. -/
def streamCtl (free : Bool) (t : Ctl) : Ctl := { t with running := false, timetabled := !free, prepared := false, cls := .empty }

/-- Stream `i` of a unit has its code capability. -/
def streamCtx (free : Bool) (u : UnitEntry) (code i : Nat) (x : Ctx) : Ctx :=
  if bitOf u.eng i then
    { x with ctl := streamCtl free x.ctl, code := streamCap u code i, pc := .ofNat 64 (streamCap u code i).cursor }
  else x

def streamVe (free : Bool) (u : UnitEntry) (code : Nat) (v : Ve) : Ve :=
  if bitOf u.eng 2 then
    { v with ctl := streamCtl free v.ctl, code := streamCap u code 2, pc := .ofNat 64 (streamCap u code 2).cursor }
  else v

def streamHalf (free : Bool) (u : UnitEntry) (code i : Nat) (h : Half) : Half :=
  if bitOf u.eng i then
    { h with ctl := streamCtl free h.ctl, code := streamCap u code i, pcBase := .ofNat 64 (streamCap u code i).cursor }
  else h

/-- Each stream's step of `allocStreams`. -/
def allocCtxStream (free : Bool) (u : UnitEntry) (code : Nat) (x : Side) (c : Site) : Site :=
  if !bitOf u.eng (b2n x) then c
  else modCtx x (fun y => { y with code := streamCap u code (b2n x), pc := .ofNat 64 (streamCap u code (b2n x)).cursor })
    (modCtl (b2n x) (streamCtl free) c)

def allocVeStream (free : Bool) (u : UnitEntry) (code : Nat) (c : Site) : Site :=
  if !bitOf u.eng 2 then c
  else modVe (fun v => { v with code := streamCap u code 2, pc := .ofNat 64 (streamCap u code 2).cursor }) (modCtl 2 (streamCtl free) c)

def allocHalfStream (free : Bool) (u : UnitEntry) (code : Nat) (h : Side) (c : Site) : Site :=
  if !bitOf u.eng (halfHead h) then c
  else modHalf h (fun v => { v with code := streamCap u code (halfHead h), pcBase := .ofNat 64 (streamCap u code (halfHead h)).cursor })
    (modCtl (halfHead h) (streamCtl free) c)

variable (free : Bool) (u : UnitEntry) (code : Nat) (c : Site)

theorem allocStreams_steps : allocStreams free u code c = allocHalfStream free u code true (allocHalfStream free u code false
    (allocVeStream free u code (allocCtxStream free u code true (allocCtxStream free u code false c)))) := rfl

theorem allocCtxStream_eq (x : Side) : allocCtxStream free u code x c = setCtx x (streamCtx free u code (b2n x) (ctxOf c x)) c := by
  unfold allocCtxStream streamCtx
  generalize hb : bitOf u.eng (b2n x) = b
  cases x <;> cases b <;> rfl

theorem allocVeStream_eq : allocVeStream free u code c = { c with ve := streamVe free u code c.ve } := by
  unfold allocVeStream streamVe
  cases bitOf u.eng 2 <;> rfl

theorem allocHalfStream_eq (h : Side) :
    allocHalfStream free u code h c = setHalf h (streamHalf free u code (halfHead h) (halfOf c h)) c := by
  unfold allocHalfStream streamHalf
  generalize hb : bitOf u.eng (halfHead h) = b
  cases h <;> cases b <;> rfl

/-- What the streams of a unit are given, each its own. -/
theorem allocStreams_streams : (∀ x, ctxOf (allocStreams free u code c) x = streamCtx free u code (b2n x) (ctxOf c x)) ∧
    (∀ h, halfOf (allocStreams free u code c) h = streamHalf free u code (halfHead h) (halfOf c h)) ∧
    (allocStreams free u code c).ve = streamVe free u code c.ve := by
  rw [allocStreams_steps, allocHalfStream_eq, allocHalfStream_eq, allocVeStream_eq, allocCtxStream_eq, allocCtxStream_eq]
  refine ⟨fun x => ?_, fun h => ?_, rfl⟩
  · cases x <;> rfl
  · cases h <;> rfl

/-- The registers of an engine that a unit takes. -/
def takeCtx (now : Nat) (l : Launch) (u : UnitEntry) (addrs : List Nat) (code : Nat) (x : Side) (c : Site) : Site :=
  if bitOf u.eng (b2n x) then modCtx x (allocCtx now l u addrs code x) c else c

def takeHalf (u : UnitEntry) (h : Side) (c : Site) : Site := if bitOf u.eng (halfHead h) then modHalf h allocHalf c else c

def takeVe (u : UnitEntry) (c : Site) : Site := if bitOf u.eng 2 then modVe allocVe c else c

/-- The core of an allocated unit, as the steps that give it its registers and streams. -/
theorem allocSite_steps {l : Launch} {r : Nat} {c d : Site} (h : allocSite r l u c = some d) : ∃ addrs code, ∃ c0 : Site,
    d = allocStreams l.free u code (takeVe u (takeHalf u true (takeHalf u false
      (takeCtx c0.now l u addrs code true (takeCtx c0.now l u addrs code false c0))))) := by
  have hnow (b : Bool) (x : Side) (f : Ctx → Ctx) (c : Site) : (if b then modCtx x f c else c).now = c.now := by cases b <;> cases x <;> rfl
  unfold allocSite at h
  split at h
  · exact nomatch h
  · next c1 addrs code _ =>
    split at h
    · exact nomatch h
    · next img _ =>
      refine ⟨addrs, code, modTm (writeImages l u addrs code img) c1, (Option.some.inj h).symm.trans ?_⟩
      dsimp only
      rw [hnow]
      rfl

theorem ctxOf_takeVe (x : Side) : ctxOf (takeVe u c) x = ctxOf c x := by
  unfold takeVe
  split <;> rfl

theorem ctxOf_takeHalf (h x : Side) : ctxOf (takeHalf u h c) x = ctxOf c x := by
  unfold takeHalf
  split
  · cases h <;> rfl
  · rfl

theorem halfOf_takeVe (h : Side) : halfOf (takeVe u c) h = halfOf c h := by
  unfold takeVe
  split <;> rfl

theorem halfOf_takeHalf_other (h : Side) : halfOf (takeHalf u (!h) c) h = halfOf c h := by
  unfold takeHalf
  split
  · cases h <;> rfl
  · rfl

theorem ctxOf_takeCtx_other (now : Nat) (l : Launch) (addrs : List Nat) (x : Side) :
    ctxOf (takeCtx now l u addrs code (!x) c) x = ctxOf c x := by
  unfold takeCtx
  split
  · cases x <;> rfl
  · rfl

variable {u} in
theorem ctxOf_takeCtx {x : Side} (h : bitOf u.eng (b2n x) = true) (now : Nat) (l : Launch) (addrs : List Nat) :
    ctxOf (takeCtx now l u addrs code x c) x = allocCtx now l u addrs code x (ctxOf c x) := by rw [takeCtx, if_pos h, ctxOf_modCtx]

variable {u} in
theorem halfOf_takeHalf {h : Side} (hb : bitOf u.eng (halfHead h) = true) : halfOf (takeHalf u h c) h = allocHalf (halfOf c h) := by
  rw [takeHalf, if_pos hb, halfOf_modHalf]

/-- The engines of an allocated unit, each from some earlier state of it. -/
theorem allocSite_engines {l : Launch} {r : Nat} {c d : Site} (h : allocSite r l u c = some d) : ∃ now addrs code,
    (∀ x, bitOf u.eng (b2n x) = true → ∃ y, ctxOf d x = streamCtx l.free u code (b2n x) (allocCtx now l u addrs code x y)) ∧
    (∀ g, bitOf u.eng (halfHead g) = true → ∃ y, halfOf d g = streamHalf l.free u code (halfHead g) (allocHalf y)) ∧
    (bitOf u.eng 2 = true → ∃ y, d.ve = streamVe l.free u code (allocVe y)) := by
  obtain ⟨addrs, code, c0, rfl⟩ := allocSite_steps u h
  obtain ⟨hctx, hhalf, hve⟩ := allocStreams_streams l.free u code (takeVe u (takeHalf u true (takeHalf u false
      (takeCtx c0.now l u addrs code true (takeCtx c0.now l u addrs code false c0)))))
  refine ⟨c0.now, addrs, code, fun x hx => ?_, fun g hg => ?_, fun h2 => ?_⟩
  · rw [hctx, ctxOf_takeVe, ctxOf_takeHalf, ctxOf_takeHalf]
    cases x
    · exact ⟨_, congrArg _ ((ctxOf_takeCtx_other u code _ c0.now l addrs false).trans (ctxOf_takeCtx code _ hx c0.now l addrs))⟩
    · exact ⟨_, congrArg _ (ctxOf_takeCtx code _ hx c0.now l addrs)⟩
  · rw [hhalf, halfOf_takeVe]
    cases g
    · exact ⟨_, congrArg _ ((halfOf_takeHalf_other u _ false).trans (halfOf_takeHalf _ hg))⟩
    · exact ⟨_, congrArg _ (halfOf_takeHalf _ hg)⟩
  · rw [hve, takeVe, if_pos h2]
    exact ⟨_, rfl⟩

/-- The registers that allocation leaves fresh: of a context without loads, of the halves and of the vector engine (02 R67). -/
theorem allocSite_fresh {l : Launch} {r : Nat} {c d : Site} (h : allocSite r l u c = some d) :
    (∀ x, bitOf u.eng (b2n x) = true → (u.loads.filter (·.ctx == x)) = [] →
      let y := ctxOf d x
      y.sValid = 0 ∧ y.aValid = 0 ∧ y.slots = 0 ∧ (∀ q, y.staged.get [] q = []) ∧ y.isUnit = true ∧ y.ctl.running = false ∧
        y.ctl.timetabled = !l.free ∧ ∃ code, y.code = streamCap u code (b2n x) ∧ y.pc = BitVec.ofNat 64 y.code.cursor) ∧
    (∀ g i, bitOf u.eng (halfHead g) = true → i < 8 → (halfOf d g).slots.get Slot.empty i = Slot.empty) ∧
    (bitOf u.eng 2 = true → d.ve.vValid = 0 ∧ d.ve.pValid = 0 ∧ d.ve.xValid = 0 ∧ d.ve.loop.size = 48) := by
  obtain ⟨now, addrs, code, hctx, hhalf, hve⟩ := allocSite_engines u h
  refine ⟨fun x hx hloads => ?_, fun g i hg _ => ?_, fun h2 => ?_⟩
  · obtain ⟨y, hy⟩ := hctx x hx
    rw [hy, streamCtx, if_pos hx, allocCtx, hloads]
    exact ⟨rfl, rfl, rfl, Table.get_fill_default 3 [], rfl, rfl, rfl, code, rfl, rfl⟩
  · obtain ⟨y, hy⟩ := hhalf g hg
    rw [hy, streamHalf, if_pos hg]
    exact Table.get_fill_default 8 Slot.empty i
  · obtain ⟨y, hy⟩ := hve h2
    rw [hy, streamVe, if_pos h2]
    exact ⟨rfl, rfl, rfl, rfl⟩

end Fresh

/-! ## Allocation (13 R313) -/

section Allocation

variable {s : State} {r n : Nat} {l : Launch} {u : UnitRun} {c : Site}

def markAllocated (k : Nat) (l : Launch) : Launch := modUnit k (fun v => { v with allocated := true }) l

/-- A core takes its unit, and the launch marks it allocated. -/
def unitAllocated (r : Nat) (l : Launch) (u : UnitRun) (c : Site) (s : State) : State :=
  modLaunch r l.lctr (markAllocated u.site) (forgetAtomics u (setSite u.site c s))

theorem allocUnits_one (hu : u.allocated = false) (hh : coreHeld s r l.lctr u.site = false)
    (hc : allocSite r l u.entry (site u.site s) = some c) : allocUnits r l [u] s = unitAllocated r l u c s := by
  
  simp only [allocUnits, unitAllocated, hu, hh, hc]
  rfl

theorem allocUnits_held (hh : coreHeld s r l.lctr u.site = true) : allocUnits r l [u] s = s := by simp [allocUnits, hh]

theorem unitAllocated_keeps (r : Nat) (l : Launch) (u : UnitRun) (c : Site) (s : State) : site u.site (unitAllocated r l u c s) = c ∧
    (unitAllocated r l u c s).mem = s.mem ∧ (rink r (unitAllocated r l u c s)).work.lctr = (rink r s).work.lctr :=
  ⟨site_setSite_same u.site c s, rfl, lctr_modLaunch _ _⟩

theorem launchAt_unitAllocated (hl : launchAt s r n = some l) (u : UnitRun) (c : Site) : launchAt (unitAllocated r l u c s) r n =
    some (markAllocated u.site l) := by
  unfold unitAllocated
  rw [launchAt_lctr hl]
  exact launchAt_modLaunch (s := forgetAtomics u (setSite u.site c s)) (fun _ => rfl) hl

theorem foldl_countsOnly {α : Type} {f : State → α → State} (h : ∀ s a, CountsOnly s (f s a)) (as : List α) (s : State) :
    CountsOnly s (as.foldl f s) := by
  induction as generalizing s with
  | nil => exact .refl s
  | cons a as ih => exact (h s a).trans (ih _)

theorem countWalk_countsOnly (r space va : Nat) (s : State) : CountsOnly s (countWalk r space va s) := by
  unfold countWalk
  dsimp only
  split
  · exact .refl s
  · exact foldl_countsOnly (fun s ma => countMem_countsOnly _ ma 0 s) _ s

theorem countPages_countsOnly (r : Nat) (ps : List Page) (s : State) : CountsOnly s (countPages r ps s) :=
  foldl_countsOnly (f := fun s (p : Page) => countWalk r p.space p.va s) (fun s p => countWalk_countsOnly r p.space p.va s) ps s

/-- The launch after its list is pinned. -/
def pinnedLaunch (ps : List Page) (l : Launch) : Launch := { l with pinned := true, pins := distinctPages ps }

theorem pinLaunch_pins {ps : List Page} (h : launchPages r l s = some ps) : (pinLaunch r l s).sites = s.sites ∧
    (pinLaunch r l s).rinks = (modLaunch r l.lctr (pinnedLaunch ps) s).rinks := by
  have hcount := countPages_countsOnly r (distinctPages ps) (pinPages true (distinctPages ps) (modLaunch r l.lctr (pinnedLaunch ps) s))
  simp only [pinLaunch, h]
  exact ⟨(congrArg State.sites hcount).trans rfl, (congrArg State.rinks hcount).trans rfl⟩

variable {t : State} {v : Launch}

/-- UNIT_ALLOCATION of a launch whose units are then all allocated, its list unpinned before. -/
theorem execUnitAllocation_pins {ps : List Page} (hl : launchAt s r n = some l) (hv : launchAt (allocUnits r l l.units s) r n = some v)
    (ha : v.units.all (·.allocated) = true) (hp : v.pinned = false) (hb : v.pulsed = false)
    (hps : launchPages r v (allocUnits r l l.units s) = some ps) : ∃ t, exec (.unitAllocation r n) s = .next (setCtrState r n .waiting t) ∧
      t.sites = (allocUnits r l l.units s).sites ∧ launchAt t r n = some (pinnedLaunch ps v) := by
  obtain ⟨hsites, hrinks⟩ := pinLaunch_pins hps
  have hat : launchAt (pinLaunch r v (allocUnits r l l.units s)) r n = some (pinnedLaunch ps v) := by
    rw [launchAt_congr hrinks, launchAt_lctr hv]
    exact launchAt_modLaunch (fun _ => rfl) hv
  refine ⟨_, ?_, hsites, hat⟩
  show execUnitAllocation r n s = _
  simp [execUnitAllocation, hl, hv, ha, hp, hat, pinnedLaunch, hb]

theorem execUnitAllocation_waits (hl : launchAt s r n = some l) (hv : launchAt (allocUnits r l l.units s) r n = some v)
    (hp : v.pinned = false) (hps : launchPages r v (allocUnits r l l.units s) = none) :
    exec (.unitAllocation r n) s = .next (allocUnits r l l.units s) := by
  show execUnitAllocation r n s = _
  simp [execUnitAllocation, hl, hv, hp, pinLaunch_waits hps]

/-- UNIT_ALLOCATION of a launch whose cores are held. -/
theorem execUnitAllocation_held (hl : launchAt s r n = some l) (hs : allocUnits r l l.units s = s) (ha : l.units.all (·.allocated) = false) :
    exec (.unitAllocation r n) s = .next (if l.pinned && !l.pulsed then setCtrState r n .waiting s else s) := by
  show execUnitAllocation r n s = _
  simp [execUnitAllocation, hl, hs, ha]

end Allocation

/-! ## The start pulse (09 R239, R245) -/

section StartPulse

variable {s : State} {r n : Nat} {l : Launch}

theorem mayStart_iff : mayStart l s = true ↔ l.pulsed = false ∧ l.pinned = true ∧ s.power.st = .run ∧
    (∀ u ∈ l.units, ∀ q ∈ u.entry.reqs, reqHolds (site u.site s) q = true) ∧ patternsAgree l s = true := by
  simp [mayStart, reqsHold, and_assoc]

theorem execStartPulse_starts (hl : launchAt s r n = some l) (h : mayStart l s = true) : exec (.startPulse r n) s =
    .next (setCtrState r n .running (modLaunch r n (fun l => { l with pulsed := true }) s)) := by
  show execStartPulse r n s = _
  simp only [execStartPulse, hl, if_pos h]

theorem execStartPulse_waits (hl : launchAt s r n = some l) (h : mayStart l s = false) : exec (.startPulse r n) s = .next s := by
  show execStartPulse r n s = _
  simp [execStartPulse, hl, h]

end StartPulse

/-! ## Completion (13 R313, 15 R378) -/

section Completion

variable {s : State} {r n : Nat} {l : Launch} {u : UnitRun}

theorem mergeEnergy_keeps (r k : Nat) (x : Side) (s : State) : (mergeEnergy r k x s).rinks = s.rinks ∧ (mergeEnergy r k x s).mem = s.mem := by
  unfold mergeEnergy
  dsimp only
  split <;> exact ⟨rfl, rfl⟩

/-- ECNT of a context is cleared where the Rink Sequencer stands on another core. -/
theorem site_mergeEnergy {k : Nat} (h : ∀ k' x', seqSite r s = some (k', x') → k' ≠ k) (x : Side) :
    site k (mergeEnergy r k x s) = modCtx x (fun v => { v with ecnt := 0, ecntSat := false }) (site k s) := by
  unfold mergeEnergy
  dsimp only
  split
  · next k' x' hseq => rw [site_modSite_ne (h k' x' hseq).symm, site_modSite_same]
  · rw [site_modSite_same]

/-- The energy of a context of a unit that completes. -/
def mergedEnergy (r : Nat) (u : UnitRun) (x : Side) (s : State) : State :=
  if unitHasCtx r u (site u.site s) x then mergeEnergy r u.site x s else s

theorem mergedEnergy_keeps (r : Nat) (u : UnitRun) (x : Side) (s : State) : (mergedEnergy r u x s).rinks = s.rinks ∧
    (mergedEnergy r u x s).mem = s.mem := by
  unfold mergedEnergy
  split
  · exact mergeEnergy_keeps ..
  · exact ⟨rfl, rfl⟩

theorem ecnt_mergedEnergy (h : ∀ k x, seqSite r s = some (k, x) → k ≠ u.site) {x : Side} (hx : bitOf u.entry.eng (b2n x) = true) :
    (ctxOf (site u.site (mergedEnergy r u x s)) x).ecnt = 0 := by
  have hhas : unitHasCtx r u (site u.site s) x = true := by simp [unitHasCtx, hx]
  rw [mergedEnergy, if_pos hhas, site_mergeEnergy h, ctxOf_modCtx]

theorem ecnt_mergedEnergy_zero (h : ∀ k x, seqSite r s = some (k, x) → k ≠ u.site) {y : Side} (hy : (ctxOf (site u.site s) y).ecnt = 0)
    (x : Side) : (ctxOf (site u.site (mergedEnergy r u x s)) y).ecnt = 0 := by
  unfold mergedEnergy
  split
  · rw [site_mergeEnergy h]
    by_cases hyx : y = x
    · rw [hyx, ctxOf_modCtx]
    · rw [Bool.eq_not_of_ne (Ne.symm hyx), modCtx, ctxOf_setCtx_other, hy]
  · exact hy

theorem ecnt_leaveUnit (c : Site) (x : Side) : (ctxOf (leaveUnit r c) x).ecnt = (ctxOf c x).ecnt := by
  have hone (b : Bool) (y : Side) (c : Site) :
      (ctxOf (if b then modCtx y (fun v => { v with isUnit := false }) c else c) x).ecnt = (ctxOf c x).ecnt := by
    cases b <;> cases y <;> cases x <;> rfl
  exact (hone _ true _).trans (hone _ false c)

/-- The core is free of the unit, and its energy is the Rink Sequencer's. -/
def unitLeft (r : Nat) (u : UnitRun) (s : State) : State := modSite u.site (leaveUnit r) (mergedEnergy r u true (mergedEnergy r u false s))

theorem unitLeft_keeps (r : Nat) (u : UnitRun) (s : State) : (unitLeft r u s).rinks = s.rinks ∧ (unitLeft r u s).mem = s.mem := by
  obtain ⟨hr, hm⟩ := mergedEnergy_keeps r u false s
  obtain ⟨hr', hm'⟩ := mergedEnergy_keeps r u true (mergedEnergy r u false s)
  exact ⟨hr'.trans hr, hm'.trans hm⟩

theorem seqSite_congr {t : State} (h : t.rinks = s.rinks) : seqSite r t = seqSite r s := by
  have hrink : rink r t = rink r s := congrArg (fun q => q.get Rink.reset r) h
  simp only [seqSite, siteOfLogical, hrink]

theorem ecnt_unitLeft (h : ∀ k x, seqSite r s = some (k, x) → k ≠ u.site) {x : Side} (hx : bitOf u.entry.eng (b2n x) = true) :
    (ctxOf (site u.site (unitLeft r u s)) x).ecnt = 0 := by
  have h' : ∀ k x, seqSite r (mergedEnergy r u false s) = some (k, x) → k ≠ u.site := by
    rw [seqSite_congr (mergedEnergy_keeps r u false s).1]
    exact h
  rw [unitLeft, site_modSite_same, ecnt_leaveUnit]
  cases x
  · exact ecnt_mergedEnergy_zero h' (ecnt_mergedEnergy h hx) true
  · exact ecnt_mergedEnergy h' hx

def markFinished (k : Nat) (l : Launch) : Launch := modUnit k (fun v => { v with finished := true }) l

/-- The unit is finished: one unit fewer is pending of its launch. -/
def unitFinished (r n : Nat) (u : UnitRun) (s : State) : State :=
  modWork r (fun w => { w with lctr := w.lctr.put n { w.lctr.get Ctr.idle n with pending := (w.lctr.get Ctr.idle n).pending - 1 } })
    (modLaunch r n (markFinished u.site) (unitLeft r u s))

theorem unitFinished_ctr (r n : Nat) (u : UnitRun) (s : State) : (rink r (unitFinished r n u s)).work.lctr.get Ctr.idle n =
    { (rink r s).work.lctr.get Ctr.idle n with pending := ((rink r s).work.lctr.get Ctr.idle n).pending - 1 } := by
  have hrink : rink r (unitLeft r u s) = rink r s := congrArg (fun q => q.get Rink.reset r) (unitLeft_keeps r u s).1
  simp only [unitFinished, modWork, rink_modRink_same, Table.get_put_same]
  rw [lctr_modLaunch, hrink]

theorem launchAt_unitFinished (hl : launchAt s r n = some l) (u : UnitRun) :
    launchAt (unitFinished r n u s) r n = some (markFinished u.site l) := by
  have hleft : launchAt (unitLeft r u s) r n = some l := (launchAt_congr (unitLeft_keeps r u s).1).trans hl
  rw [← launchAt_modLaunch (f := markFinished u.site) (fun _ => rfl) hleft]
  simp only [launchAt, unitFinished, modWork, rink_modRink_same]

/-- The launch of a completed unit: whether it was the last one decides. -/
theorem execUnitComplete_eq {core : Nat} (hl : launchAt s r n = some l) (hu : l.units.find? (·.entry.core == core) = some u) :
    exec (.unitComplete r n core) s = .next (if !mayComplete r l u s then s
      else if l.units.all (fun v => v.finished || v.site == u.site) then completeLaunch r l (unitFinished r n u s) else unitFinished r n u s) := by
  show execUnitComplete r n core s = _
  simp only [execUnitComplete, hl, hu]
  split <;> rfl

/-- The rink of a complete launch, before its work is counted again. -/
def launchEnded (r : Nat) (l : Launch) (s : State) : State :=
  modWork r (fun w => endLaunchEntries l.lctr 0
    { w with launches := w.launches.filter (·.lctr != l.lctr), lctr := w.lctr.put l.lctr ⟨0, .complete, 0⟩ })
    (leaveRegions r l (l.units.foldl (fun s u => modSite u.site (freePlaced l.lctr r) s) (pinPages false l.pins s)))

theorem launchEnded_work (r : Nat) (l : Launch) (s : State) : (rink r (launchEnded r l s)).work.lctr.get Ctr.idle l.lctr = ⟨0, .complete, 0⟩ ∧
    ∀ q ∈ (rink r (launchEnded r l s)).work.launches, q.lctr ≠ l.lctr := by
  simp only [launchEnded, modWork, rink_modRink_same, endLaunchEntries]
  refine ⟨Table.get_put_same .., fun q hq => ?_⟩
  simpa using (List.mem_filter.1 hq).2

end Completion

/-- Settles O51: a launch by the event that it meets: allocation, the start pulse, and the completion of a unit or of its last one. -/
theorem launchLifeEvents : Obligations.LaunchLifeEvents := by
  unfold Obligations.LaunchLifeEvents
  intro s r n core l hl ctr ready
  have hn : l.lctr = n := launchAt_lctr hl
  have hready : ready ↔ mayStart l s = true := mayStart_iff.symm
  refine ⟨fun u c hunits hu hpin hpulse hheld hc => ?allocate, fun u hunits hu hheld => ?held, fun h => ?starts,
    fun h => execStartPulse_waits hl (Bool.eq_false_iff.2 (mt hready.2 h)), fun u hfind => ?complete⟩
  case allocate =>
    have hunit : allocUnits r l l.units s = unitAllocated r l u c s := by rw [hunits]; exact allocUnits_one hu (hn ▸ hheld) hc
    obtain ⟨hsite, hmem, hlctr⟩ := unitAllocated_keeps r l u c s
    have hv : launchAt (allocUnits r l l.units s) r n = some (markAllocated u.site l) := hunit ▸ launchAt_unitAllocated hl u c
    have hall : ∀ w ∈ (markAllocated u.site l).units, w.allocated = true := by simp [markAllocated, modUnit, hunits]
    have hfresh := allocSite_fresh u.entry hc
    cases hpages : launchPages r l (allocUnits r l l.units s) with
    | some ps =>
      obtain ⟨t, hexec, hsites, hat⟩ := execUnitAllocation_pins hl hv (List.all_eq_true.2 hall) hpin hpulse hpages
      refine ⟨_, _, hexec, ?_, (launchAt_setCtrState .waiting t).trans hat, hall, ?_, hfresh⟩
      · exact (congrArg (fun q => q.get Site.reset u.site) (hsites.trans (congrArg State.sites hunit))).trans hsite
      · refine ⟨fun qs hqs => ?_, fun h => nomatch h⟩
        cases hqs
        exact ⟨rfl, rfl, lctr_setCtrState .waiting t⟩
    | none =>
      refine ⟨_, _, execUnitAllocation_waits hl hv hpin hpages, ?_, hv, hall, ?_, hfresh⟩
      · rw [hunit, hsite]
      · refine ⟨fun _ h => (nomatch h), fun _ => ⟨hpin, ?_, hunit ▸ hmem⟩⟩
        exact congrArg (fun w => w.get Ctr.idle n) (hunit ▸ hlctr)
  case held =>
    have hs : allocUnits r l l.units s = s := by rw [hunits]; exact allocUnits_held (hn ▸ hheld)
    have hall : l.units.all (·.allocated) = false := by simp [hunits, hu]
    refine ⟨_, execUnitAllocation_held hl hs hall, ?_, ?_⟩
    · split <;> rfl
    · split
      · rw [launchAt_setCtrState, hl]
      · exact hl
  case starts =>
    refine ⟨_, execStartPulse_starts hl (hready.1 h), ?_, lctr_setCtrState .running _, rfl, rfl⟩
    rw [launchAt_setCtrState]
    exact launchAt_modLaunch (fun _ => rfl) hl
  case complete =>
    have hexec := execUnitComplete_eq hl hfind
    have hctr : ctr (unitFinished r n u s) = { ctr s with pending := (ctr s).pending - 1 } := unitFinished_ctr r n u s
    refine ⟨fun h => ?busy, fun h hother => ?unit, fun h hall => ?last⟩
    case busy => rw [hexec, h]; rfl
    case unit =>
      obtain ⟨v, hv, hopen, hsite⟩ := hother
      have hlast : l.units.all (fun v => v.finished || v.site == u.site) = false :=
        List.all_eq_false.2 ⟨v, hv, by simp [hopen, hsite]⟩
      simp only [h, hlast, Bool.not_true, Bool.false_eq_true, if_false] at hexec
      refine ⟨_, hexec, by rw [hctr], by rw [hctr], ⟨_, launchAt_unitFinished hl u, fun w hw hws => ?_⟩,
        fun hseq x hx => ecnt_unitLeft hseq hx, (unitLeft_keeps r u s).2⟩
      obtain ⟨v, -, rfl⟩ := List.mem_map.1 hw
      by_cases hsame : v.site = u.site
      · rw [if_pos hsame]
      · rw [if_neg hsame] at hws
        exact absurd hws hsame
    case last =>
      have hlast : l.units.all (fun v => v.finished || v.site == u.site) = true := by simpa using hall
      simp only [h, hlast, Bool.not_true, Bool.false_eq_true, if_false, if_true] at hexec
      obtain ⟨hend, hgone⟩ := launchEnded_work r l (unitFinished r n u s)
      rw [hn] at hend hgone
      exact ⟨launchEnded r l (unitFinished r n u s), hexec, congrArg Ctr.state hend, congrArg Ctr.pending hend, hgone⟩

end Sys2Proof.Machine

/-! # Decoder and encoder agree (03 R68 to R84) -/

namespace Sys2Proof

open Machine

/-! ## Table words: the bytes of a word read back -/

theorem leNat_leBytes_of_lt {n w : Nat} (h : w < 256 ^ n) : leNat (leBytes n w) = w := by
  rw [leNat_leBytes, Nat.mod_eq_of_lt h]

theorem decodeTableWord_of_lt {n w : Nat} (hn : n = 16 ∨ n = 32 ∨ n = 64) (hw : w < 2 ^ n) : decodeTableWord n w = decodeWidth n w := by
  rw [decodeTableWord, leNat_leBytes_of_lt]
  rcases hn with rfl | rfl | rfl <;> exact hw

theorem decodeWidth_cc {w : Nat} {i : Instr} : decodeWidth 32 w = some i ↔ decodeCC w = .ok i := by
  simp only [decodeWidth]
  split <;> simp_all

theorem decodeWidth_ve {w : Nat} {i : Instr} : decodeWidth 64 w = some i ↔ decodeVE w = .ok i := by
  simp only [decodeWidth]
  split <;> simp_all

theorem decodeWidth_seq {w : Nat} {i : Instr} : decodeWidth 16 w = some i ↔ decodeSeqWord w = .ok i := by
  simp only [decodeWidth]
  split <;> simp_all

/-! ## One bit as a number -/

theorem b2n_lt_two (b : Bool) : b2n b < 2 := by cases b <;> decide

@[simp] theorem b2n_beq_one (b : Bool) : (b2n b == 1) = b := by cases b <;> rfl

@[simp] theorem b2n_eq_zero {b : Bool} : b2n b = 0 ↔ b = false := by cases b <;> decide

theorem b2n_mod_two (x : Nat) : b2n (x % 2 == 1) = x % 2 := by
  rcases Nat.mod_two_eq_zero_or_one x with h | h <;> rw [h] <;> rfl

theorem b2n_decide_le {n x : Nat} (h : x < 2 * n) : b2n (decide (n ≤ x)) = x / n := by
  by_cases hx : n ≤ x
  · rw [decide_eq_true hx, Nat.div_eq_of_lt_le (k := 1) (by omega) (by omega)]; rfl
  · rw [decide_eq_false hx, Nat.div_eq_of_lt (by omega)]; rfl

theorem beq_one_of_mod_two {x : Nat} {b : Bool} (h : x % 2 = b2n b) : (x % 2 == 1) = b := by rw [h, b2n_beq_one]

@[simp] theorem toNat_flag (x : Nat) : (BitVec.ofNat 6 (x % 64)).toNat = x % 64 := by rw [BitVec.toNat_ofNat]; omega

/-! ## When a check of the decoder passes -/

section Checks

variable {d a b c n r fam : Nat} {i : Instr} {k : Decoded} {p : Prop} [Decidable p]

theorem passes_else : (if p then Decoded.illegal fam r else k) = .ok i ↔ ¬p ∧ k = .ok i := by split <;> simp [*]

theorem passes_then : (if p then k else Decoded.illegal fam r) = .ok i ↔ p ∧ k = .ok i := by split <;> simp [*]

theorem zeros_ok : zeros n k = .ok i ↔ n = 0 ∧ k = .ok i := passes_then

theorem limit_ok {b : Bool} : limit b k = .ok i ↔ b = true ∧ k = .ok i := passes_then

theorem capField_ok {k : BitVec 4 → Decoded} : capField n k = .ok i ↔ n < 16 ∧ k (.ofNat 4 n) = .ok i := by
  rw [capField, passes_else, Nat.not_le]

theorem rr3_ok {k : BitVec 5 → BitVec 5 → BitVec 5 → Instr} :
    rr3 k d a b c = .ok i ↔ c = 0 ∧ k (.ofNat 5 d) (.ofNat 5 a) (.ofNat 5 b) = i := by rw [rr3, passes_then, Decoded.ok.injEq]

theorem rr2_ok {k : BitVec 5 → BitVec 5 → Instr} : rr2 k d a b c = .ok i ↔ (b = 0 ∧ c = 0) ∧ k (.ofNat 5 d) (.ofNat 5 a) = i := by
  rw [rr2, passes_then, Decoded.ok.injEq]

theorem shiftImm_ok {k : BitVec 5 → BitVec 5 → BitVec 6 → Instr} :
    shiftImm k d a n = .ok i ↔ n < 64 ∧ k (.ofNat 5 d) (.ofNat 5 a) (.ofNat 6 n) = i := by
  rw [shiftImm, passes_then, Decoded.ok.injEq]

theorem immOp_ok {k : BitVec 5 → BitVec 5 → BitVec 16 → Instr} : immOp k d a n = .ok i ↔ k (.ofNat 5 d) (.ofNat 5 a) (.ofNat 16 n) = i := by
  rw [immOp, Decoded.ok.injEq]

theorem atom_ok {dbl : Bool} {k : Bool → BitVec 5 → BitVec 4 → BitVec 5 → Instr} :
    atom k dbl d a b c = .ok i ↔ a < 16 ∧ c = 0 ∧ k dbl (.ofNat 5 d) (.ofNat 4 a) (.ofNat 5 b) = i := by
  rw [atom, passes_else, passes_then, Decoded.ok.injEq, Nat.not_le]

theorem capScalar_ok {k : BitVec 4 → BitVec 4 → BitVec 5 → Instr} :
    capScalar k d a b c = .ok i ↔ (d < 16 ∧ a < 16) ∧ c = 0 ∧ k (.ofNat 4 d) (.ofNat 4 a) (.ofNat 5 b) = i := by
  rw [capScalar, passes_else, passes_then, Decoded.ok.injEq, not_or, Nat.not_le, Nat.not_le]

theorem capPair_ok {k : BitVec 4 → BitVec 4 → Instr} :
    capPair k d a b c = .ok i ↔ (d < 16 ∧ a < 16) ∧ (b = 0 ∧ c = 0) ∧ k (.ofNat 4 d) (.ofNat 4 a) = i := by
  rw [capPair, passes_else, passes_then, Decoded.ok.injEq, not_or, Nat.not_le, Nat.not_le]

end Checks

/-! ## The instruction that a word encodes -/

/-- `i` is well formed and its encoding is the word `w` of `n` bits. -/
def Encodes (i : Instr) (n w : Nat) : Prop := i.wf = true ∧ encode i = some (n, w)

theorem encodes_word {i : Instr} {n v w : Nat} (hi : i.wf = true) (he : encode i = some (n, v)) (hv : v = w) : Encodes i n w :=
  ⟨hi, hv ▸ he⟩

/-! ## Control core words: what is decoded is encoded -/

section DecodedCC

variable {d a b c fn sub imm w : Nat} {i : Instr}

/-- A word of the RR form is put together from its fields (R70); so is one of each other form. -/
theorem encRR_fields (h : w < 2 ^ 32) : encRR (field w 31 26) (field w 25 21) (field w 20 16) (field w 15 11) (field w 10 6) (field w 5 0) = w := by
  simp only [encRR, field, Nat.reduceAdd, Nat.reduceSub, Nat.reducePow]; omega

theorem encRI_fields (h : w < 2 ^ 32) : encRI (field w 31 26) (field w 25 21) (field w 20 16) (field w 15 0) = w := by
  simp only [encRI, field, Nat.reduceAdd, Nat.reduceSub, Nat.reducePow]; omega

theorem encSys_fields (h : w < 2 ^ 32) : encSys (field w 31 26) (field w 25 21) (field w 20 16) (field w 15 10) (field w 9 0) = w := by
  simp only [encSys, field, Nat.reduceAdd, Nat.reduceSub, Nat.reducePow]; omega

theorem encMem_fields (h : w < 2 ^ 32) : encMem (field w 31 26) (field w 25 21) (field w 20 17) (field w 16 14) (field w 13 0) = w := by
  simp only [encMem, field, Nat.reduceAdd, Nat.reduceSub, Nat.reducePow]; omega

theorem encJ_fields (h : w < 2 ^ 32) : encJ (field w 31 26) (w % 2 ^ 26) = w := by
  simp only [encJ, field, Nat.reduceAdd, Nat.reduceSub, Nat.reducePow]; omega

theorem decodeAlu_encodes (hd : d < 32) (ha : a < 32) (hb : b < 32) (hc : c < 32) (h : decodeAlu d a b c fn = .ok i) :
    Encodes i 32 (encRR 0 d a b c fn) := by
  unfold decodeAlu at h
  split at h
  case h_24 =>
    cases h
    exact encodes_word rfl rfl (by simp only [encRR, BitVec.toNat_ofNat]; omega)
  case h_25 | h_26 | h_27 =>
    obtain ⟨⟨rfl, rfl⟩, rfl⟩ := rr2_ok.1 h
    exact encodes_word rfl rfl (by simp only [encRR, BitVec.toNat_ofNat]; omega)
  case h_30 => cases h
  all_goals
    obtain ⟨rfl, rfl⟩ := rr3_ok.1 h
    exact encodes_word rfl rfl (by simp only [encRR, BitVec.toNat_ofNat]; omega)

theorem decodeControl_encodes (h : decodeControl d a b c fn = .ok i) : Encodes i 32 (encRR 0x19 d a b c fn) := by
  unfold decodeControl at h
  split at h
  case h_1 =>
    obtain ⟨⟨rfl, rfl, rfl, rfl⟩, ⟨⟩⟩ := passes_then.1 h
    exact ⟨rfl, rfl⟩
  case h_2 | h_3 =>
    rw [passes_else, passes_then] at h
    obtain ⟨ha, ⟨rfl, rfl, rfl⟩, ⟨⟩⟩ := h
    exact encodes_word rfl rfl (by simp only [encRR, BitVec.toNat_ofNat]; omega)
  case h_4 => cases h

theorem decodeAtomic_encodes (hd : d < 32) (hb : b < 32) (hc : c < 32) (hf : fn < 64) (h : decodeAtomic d a b c fn = .ok i) :
    Encodes i 32 (encRR 0x22 d a b c fn) := by
  have hdbl : b2n (decide (32 ≤ fn)) = fn / 32 := b2n_decide_le hf
  unfold decodeAtomic at h
  split at h
  case h_10 =>
    rw [passes_else] at h
    obtain ⟨ha, ⟨⟩⟩ := h
    exact encodes_word rfl rfl (by simp only [encAtom, encRR, BitVec.toNat_ofNat, hdbl]; omega)
  case h_11 => cases h
  all_goals
    obtain ⟨ha, rfl, rfl⟩ := atom_ok.1 h
    exact encodes_word rfl rfl (by simp only [encAtom, encRR, BitVec.toNat_ofNat, hdbl]; omega)

theorem decodeCap_encodes (hd : d < 32) (hb : b < 32) (h : decodeCap d a b c fn = .ok i) :
    Encodes i 32 (encRR 0x23 d a b c fn) := by
  unfold decodeCap at h
  split at h
  case h_2 =>
    simp only [passes_else, Decoded.ok.injEq, not_not] at h
    obtain ⟨ha, rfl, hsel, rfl⟩ := h
    refine encodes_word (decide_eq_true ?_) rfl ?_
    all_goals simp only [encRR, BitVec.toNat_ofNat]; omega
  case h_7 =>
    rw [passes_else, passes_then] at h
    obtain ⟨hab, rfl, ⟨⟩⟩ := h
    exact encodes_word rfl rfl (by simp only [encRR, BitVec.toNat_ofNat]; omega)
  case h_1 | h_8 =>
    obtain ⟨hda, ⟨rfl, rfl⟩, rfl⟩ := capPair_ok.1 h
    exact encodes_word rfl rfl (by simp only [encRR, BitVec.toNat_ofNat]; omega)
  case h_9 => cases h
  all_goals
    obtain ⟨hda, rfl, rfl⟩ := capScalar_ok.1 h
    exact encodes_word rfl rfl (by simp only [encRR, BitVec.toNat_ofNat]; omega)

theorem decodeLoad_encodes {size off : Nat} (hd : d < 32) (hc : c < 16) (hs : size < 8) (ho : off < 2 ^ 14)
    (h : decodeLoad d c size off = .ok i) : Encodes i 32 (encMem 0x20 d c size off) := by
  unfold decodeLoad at h
  split at h
  case h_8 =>
    obtain ⟨hd', ⟨⟩⟩ := passes_else.1 h
    simp only [imp_false] at *
    obtain rfl : size = 7 := by omega
    exact encodes_word rfl rfl (by simp only [encMem, BitVec.toNat_ofNat]; omega)
  all_goals
    cases h
    exact encodes_word rfl rfl (by simp only [encMem, BitVec.toNat_ofNat]; omega)

theorem decodeStore_encodes {size off : Nat} (hd : d < 32) (hc : c < 16) (ho : off < 2 ^ 14)
    (h : decodeStore d c size off = .ok i) : Encodes i 32 (encMem 0x21 d c size off) := by
  unfold decodeStore at h
  split at h
  case h_5 =>
    obtain ⟨hd', ⟨⟩⟩ := passes_else.1 h
    exact encodes_word rfl rfl (by simp only [encMem, BitVec.toNat_ofNat]; omega)
  case h_6 => cases h
  all_goals
    cases h
    exact encodes_word rfl rfl (by simp only [encMem, BitVec.toNat_ofNat]; omega)

theorem decodeSys0_encodes (ha : a < 32) (hd : d < 32) (hi : imm < 1024) (h : decodeSys0 d a sub imm = .ok i) :
    Encodes i 32 (encSys 0x30 d a sub imm) := by
  simp only [decodeSys0] at h
  split at h
  case h_7 => cases h
  all_goals
    simp only [zeros_ok, limit_ok, Decoded.ok.injEq, Nat.add_eq_zero_iff, Nat.div_eq_zero_iff, b2n_eq_zero, Bool.not_eq_false', decide_eq_true_eq] at h
  case h_1 =>
    obtain ⟨⟨⟨rfl, rfl⟩, rfl⟩, rfl⟩ := h
    exact ⟨rfl, rfl⟩
  case h_2 =>
    obtain ⟨⟨⟨rfl, rfl⟩, hz⟩, hs, rfl⟩ := h
    refine encodes_word (decide_eq_true ?_) rfl ?_
    all_goals simp only [encSys, BitVec.toNat_ofNat]; omega
  case h_3 =>
    obtain ⟨⟨⟨⟨rfl, rfl⟩, hz⟩, hok⟩, rfl⟩ := h
    refine encodes_word (by simpa only [Instr.wf, toNat_flag]) rfl ?_
    simp only [encSys, toNat_flag, b2n_mod_two]; omega
  case h_4 =>
    obtain ⟨⟨⟨rfl, rfl⟩, hz⟩, hok, rfl⟩ := h
    refine encodes_word (by simpa only [Instr.wf, toNat_flag]) rfl ?_
    simp only [encSys, toNat_flag, b2n_mod_two]; omega
  case h_5 =>
    obtain ⟨⟨⟨rfl, hz⟩, hok⟩, rfl⟩ := h
    refine encodes_word (by simpa only [Instr.wf, toNat_flag]) rfl ?_
    simp only [encSys, b2n_mod_two, BitVec.toNat_ofNat]; omega
  case h_6 =>
    obtain ⟨rfl, rfl⟩ := h
    exact encodes_word rfl rfl (by simp only [encSys, BitVec.toNat_ofNat]; omega)

theorem decodeSys1_encodes (ha : a < 32) (hd : d < 32) (hi : imm < 1024) (h : decodeSys1 d a sub imm = .ok i) :
    Encodes i 32 (encSys 0x31 d a sub imm) := by
  simp only [decodeSys1] at h
  split at h
  case h_8 => cases h
  all_goals
    simp only [capField_ok, zeros_ok, limit_ok, Decoded.ok.injEq, Nat.add_eq_zero_iff, decide_eq_true_eq, nestIndexOk, Bool.and_eq_true, beq_iff_eq] at h
  case h_1 =>
    obtain ⟨hc, ⟨rfl, rfl⟩, rfl⟩ := h
    exact encodes_word rfl rfl (by simp only [encSys, BitVec.toNat_ofNat]; omega)
  case h_2 =>
    obtain ⟨⟨⟨rfl, rfl⟩, rfl⟩, rfl⟩ := h
    exact ⟨rfl, rfl⟩
  case h_3 =>
    obtain ⟨hc, hz, hq, rfl⟩ := h
    refine encodes_word (decide_eq_true ?_) rfl ?_
    all_goals simp only [encSys, BitVec.toNat_ofNat]; omega
  case h_4 =>
    obtain ⟨hc, ⟨rfl, hz⟩, hq, rfl⟩ := h
    refine encodes_word (decide_eq_true ?_) rfl ?_
    all_goals simp only [encSys, BitVec.toNat_ofNat]; omega
  case h_5 =>
    obtain ⟨⟨rfl, hz⟩, hq, rfl⟩ := h
    refine encodes_word (decide_eq_true ?_) rfl ?_
    all_goals simp only [encSys, BitVec.toNat_ofNat]; omega
  case h_6 =>
    obtain ⟨rfl, ⟨hz, hreg⟩, rfl⟩ := h
    refine encodes_word (by simpa only [Instr.wf, BitVec.toNat_ofNat]) rfl ?_
    simp only [encSys, b2n_mod_two, BitVec.toNat_ofNat]; omega
  case h_7 =>
    obtain ⟨rfl, ⟨hz, hreg⟩, rfl⟩ := h
    refine encodes_word (by simpa only [Instr.wf, BitVec.toNat_ofNat]) rfl ?_
    simp only [encSys, b2n_mod_two, BitVec.toNat_ofNat]; omega

theorem decodeSys2_encodes (ha : a < 32) (hd : d < 32) (hi : imm < 1024) (h : decodeSys2 d a sub imm = .ok i) :
    Encodes i 32 (encSys 0x32 d a sub imm) := by
  unfold decodeSys2 at h
  split at h
  case h_11 => cases h
  case h_4 =>
    simp only [capField_ok, zeros_ok, Decoded.ok.injEq] at h
    obtain ⟨hc, rfl, rfl⟩ := h
    exact encodes_word rfl rfl (by simp only [encSys, BitVec.toNat_ofNat]; omega)
  case h_1 =>
    simp only [zeros_ok, limit_ok, Decoded.ok.injEq, decide_eq_true_eq] at h
    obtain ⟨hz, hp, rfl⟩ := h
    refine encodes_word (decide_eq_true ?_) rfl ?_
    all_goals simp only [encSys, b2n_mod_two, BitVec.toNat_ofNat]; omega
  all_goals
    obtain ⟨hz, ⟨⟩⟩ := zeros_ok.1 h
    exact encodes_word rfl rfl (by simp only [encSys, b2n_mod_two, BitVec.toNat_ofNat]; omega)

theorem decodeSys3_encodes (ha : a < 32) (hd : d < 32) (hi : imm < 1024) (h : decodeSys3 d a sub imm = .ok i) :
    Encodes i 32 (encSys 0x33 d a sub imm) := by
  have hreg : (BitVec.ofNat 10 imm).toNat = imm := (BitVec.toNat_ofNat ..).trans (Nat.mod_eq_of_lt hi)
  unfold decodeSys3 at h
  split at h
  case h_8 => cases h
  case h_4 | h_5 =>
    simp only [zeros_ok, limit_ok, Decoded.ok.injEq] at h
    obtain ⟨rfl, hs, rfl⟩ := h
    refine encodes_word (by simpa only [Instr.wf, hreg]) rfl ?_
    simp only [encSys, BitVec.toNat_ofNat]; omega
  all_goals
    obtain ⟨hz, ⟨⟩⟩ := zeros_ok.1 h
    exact encodes_word rfl rfl (by simp only [encSys, BitVec.toNat_ofNat]; omega)

theorem immOp_encodes {mj : Nat} {k : BitVec 5 → BitVec 5 → BitVec 16 → Instr} (hk : ∀ d a m, Encodes (k d a m) 32 (encRI mj d.toNat a.toNat m.toNat))
    (hd : d < 32) (ha : a < 32) (hi : imm < 2 ^ 16) (h : immOp k d a imm = .ok i) : Encodes i 32 (encRI mj d a imm) := by
  cases h
  convert hk (.ofNat 5 d) (.ofNat 5 a) (.ofNat 16 imm) using 1
  simp only [encRI, BitVec.toNat_ofNat]; omega

/-- A word of 32 bits that decodes is taken apart by its form, and its group's lemma puts it together again. -/
theorem decodeCC_encodes (hw : w < 2 ^ 32) (h : decodeCC w = .ok i) : Encodes i 32 w := by
  have hd : field w 25 21 < 32 := field_lt ..
  have ha : field w 20 16 < 32 := field_lt ..
  have hb : field w 15 11 < 32 := field_lt ..
  have hc : field w 10 6 < 32 := field_lt ..
  have hf : field w 5 0 < 64 := field_lt ..
  have hi : field w 15 0 < 2 ^ 16 := field_lt ..
  have hs : field w 9 0 < 1024 := field_lt ..
  have hcap : field w 20 17 < 16 := field_lt ..
  have hsize : field w 16 14 < 8 := field_lt ..
  have hoff : field w 13 0 < 2 ^ 14 := field_lt ..
  simp only [decodeCC] at h
  split at h
  case h_33 => cases h
  case h_1 hm => rw [← encRR_fields hw, hm]; exact decodeAlu_encodes hd ha hb hc h
  case h_24 hm => rw [← encRR_fields hw, hm]; exact decodeControl_encodes h
  case h_27 hm => rw [← encRR_fields hw, hm]; exact decodeAtomic_encodes hd hb hc hf h
  case h_28 hm => rw [← encRR_fields hw, hm]; exact decodeCap_encodes hd hb h
  case h_25 hm => rw [← encMem_fields hw, hm]; exact decodeLoad_encodes hd hcap hsize hoff h
  case h_26 hm => rw [← encMem_fields hw, hm]; exact decodeStore_encodes hd hcap hoff h
  case h_29 hm => rw [← encSys_fields hw, hm]; exact decodeSys0_encodes ha hd hs h
  case h_30 hm => rw [← encSys_fields hw, hm]; exact decodeSys1_encodes ha hd hs h
  case h_31 hm => rw [← encSys_fields hw, hm]; exact decodeSys2_encodes ha hd hs h
  case h_32 hm => rw [← encSys_fields hw, hm]; exact decodeSys3_encodes ha hd hs h
  case h_22 hm | h_23 hm =>
    rw [← encJ_fields hw, hm]
    cases h
    exact encodes_word rfl rfl (by simp only [encJ, BitVec.toNat_ofNat])
  all_goals rw [← encRI_fields hw, ‹field w 31 26 = _›]
  case h_6 | h_7 | h_8 =>
    obtain ⟨hz, rfl⟩ := shiftImm_ok.1 h
    exact encodes_word rfl rfl (by simp only [encRI, BitVec.toNat_ofNat]; omega)
  case h_11 | h_21 =>
    obtain ⟨hz, ⟨⟩⟩ := zeros_ok.1 h
    exact encodes_word rfl rfl (by simp only [encRI, BitVec.toNat_ofNat]; omega)
  case h_15 | h_16 | h_17 | h_18 | h_19 | h_20 =>
    cases h
    exact encodes_word rfl rfl (by simp only [encRI, BitVec.toNat_ofNat]; omega)
  all_goals exact immOp_encodes (fun _ _ _ => ⟨rfl, rfl⟩) hd ha hi h

end DecodedCC

/-! ## Vector words: what is decoded is encoded -/

section DecodedVE

variable {op w : Nat} {f : VFields} {i : Instr}

theorem veInstr_iff : veInstr op f = some i ↔ i.veParts = some (op, f) := by
  constructor
  · intro h
    unfold veInstr at h
    split at h
    all_goals cases h
    all_goals rfl
  · intro h
    unfold Instr.veParts at h
    split at h
    all_goals cases h
    all_goals rfl

theorem wf_of_veParts (h : i.veParts = some (op, f)) : i.wf = (veReason op f == none) := by
  unfold Instr.veParts at h
  split at h
  all_goals cases h
  all_goals rfl

theorem encode_of_veParts (h : i.veParts = some (op, f)) : encode i = some (64, encVE op f) := by simp only [encode, h]

theorem decodeVE_ok : decodeVE w = .ok i ↔ veReason (field w 63 56) (veFields w) = none ∧ i.veParts = some (field w 63 56, veFields w) := by
  rw [← veInstr_iff, decodeVE]
  split <;> simp_all

theorem mod_two_pow_split {hi lo : Nat} (h : lo ≤ hi + 1) (w : Nat) : w % 2 ^ (hi + 1) = field w hi lo * 2 ^ lo + w % 2 ^ lo := by
  rw [field, ← Nat.mod_mul_right_div_self, ← pow_add, Nat.add_sub_cancel' h]
  conv_lhs => rw [← Nat.div_add_mod (w % 2 ^ (hi + 1)) (2 ^ lo), Nat.mod_mod_of_dvd _ (pow_dvd_pow 2 h)]
  rw [Nat.mul_comm]

theorem b2n_bitOf (w n : Nat) : b2n (bitOf w n) = field w n n := by
  rw [bitOf, b2n_mod_two, field, Nat.add_sub_cancel_left, pow_one]

/-- The word is put together from its fields, the highest first (R77). -/
theorem encVE_fields (h : w < 2 ^ 64) : encVE (field w 63 56) (veFields w) = w := by
  have op := mod_two_pow_split (hi := 63) (lo := 56) (by decide) w
  have ty := mod_two_pow_split (hi := 55) (lo := 53) (by decide) w
  have vd := mod_two_pow_split (hi := 52) (lo := 46) (by decide) w
  have va := mod_two_pow_split (hi := 45) (lo := 39) (by decide) w
  have vb := mod_two_pow_split (hi := 38) (lo := 32) (by decide) w
  have vc := mod_two_pow_split (hi := 31) (lo := 25) (by decide) w
  have pred := mod_two_pow_split (hi := 24) (lo := 21) (by decide) w
  have pmode := mod_two_pow_split (hi := 20) (lo := 20) (by decide) w
  have rnd := mod_two_pow_split (hi := 19) (lo := 17) (by decide) w
  have holdA := mod_two_pow_split (hi := 16) (lo := 16) (by decide) w
  have holdB := mod_two_pow_split (hi := 15) (lo := 15) (by decide) w
  have holdC := mod_two_pow_split (hi := 14) (lo := 14) (by decide) w
  rw [Nat.mod_eq_of_lt h] at op
  have keep (hi lo n : Nat) (hn : hi + 1 - lo = n) : (BitVec.ofNat n (field w hi lo)).toNat = field w hi lo := by
    rw [BitVec.toNat_ofNat, ← hn, Nat.mod_eq_of_lt (field_lt ..)]
  simp only [encVE, veFields, b2n_bitOf, keep, BitVec.toNat_ofNat, Nat.reduceAdd, Nat.reduceSub]
  linarith

theorem decodeVE_encodes (hw : w < 2 ^ 64) (h : decodeVE w = .ok i) : Encodes i 64 w := by
  obtain ⟨hr, hp⟩ := decodeVE_ok.1 h
  exact encodes_word (by rw [wf_of_veParts hp, hr]; rfl) (encode_of_veParts hp) (encVE_fields hw)

end DecodedVE

/-! ## Sequencer words: what is decoded is encoded -/

section DecodedSeq

variable {w : Nat} {i : Instr}

theorem accepts_ok {p : Prop} [Decidable p] {j : Instr} {r : Nat} : (if p then .ok j else .error r : Except Nat Instr) = .ok i ↔ p ∧ j = i := by
  split <;> simp [*]

/-- A word with bit 15 set is put together from its opcode and operand (R82). -/
theorem encSeq_fields (h : w < 2 ^ 16) (hb : w / 32768 % 2 = 1) : encSeq (field w 14 8) (w % 256) = w := by
  simp only [encSeq, field, Nat.reduceAdd, Nat.reduceSub, Nat.reducePow]; omega

/-- A copy that pushes no token has a zero FIFO field (R84). -/
theorem tokenOk_of_fields {x : Nat} (h : (if x / 16 % 2 = 0 then x % 16 else 0) = 0) : ((x / 16 % 2 == 1) || BitVec.ofNat 4 x == 0) = true := by
  split at h
  · have : BitVec.ofNat 4 x = 0 := BitVec.eq_of_toNat_eq (by rw [BitVec.toNat_ofNat]; exact h)
    simp [this]
  · simp; omega

theorem decodeSeqWord_encodes (hw : w < 2 ^ 16) (h : decodeSeqWord w = .ok i) : Encodes i 16 w := by
  unfold decodeSeqWord at h
  split at h
  case isTrue => cases h; exact encodes_word rfl rfl (by simp only [BitVec.toNat_ofNat]; omega)
  case isFalse hb =>
    rw [← encSeq_fields hw (by omega)]
    have hx : w % 256 < 256 := Nat.mod_lt _ (by decide)
    simp only at h
    generalize w % 256 = x at *
    split at h
    case h_39 => cases h
    case h_1 | h_12 => cases h; exact encodes_word rfl rfl (by simp only [encSeq, BitVec.toNat_ofNat]; omega)
    case h_9 =>
      obtain ⟨hk, rfl⟩ := accepts_ok.1 h
      refine encodes_word (decide_eq_true ?_) rfl ?_
      all_goals simp only [encSeq, BitVec.toNat_ofNat]; omega
    case h_10 =>
      simp only [accepts_ok, Nat.add_eq_zero_iff, b2n_eq_zero, Bool.not_eq_false'] at h
      obtain ⟨⟨hz, hok⟩, rfl⟩ := h
      refine encodes_word (by simpa only [Instr.wf, BitVec.toNat_ofNat]) rfl ?_
      simp only [encSeq, b2n_mod_two, BitVec.toNat_ofNat]; omega
    case h_11 =>
      split at h
      case isFalse => cases h
      obtain ⟨hok, rfl⟩ := accepts_ok.1 h
      refine encodes_word (by simpa only [Instr.wf, BitVec.toNat_ofNat]) rfl ?_
      simp only [encSeq, b2n_mod_two, BitVec.toNat_ofNat]; omega
    case h_26 | h_27 =>
      obtain ⟨hz, rfl⟩ := accepts_ok.1 h
      obtain ⟨hhigh, htok⟩ := Nat.add_eq_zero_iff.1 hz
      refine encodes_word (tokenOk_of_fields htok) rfl ?_
      simp only [encSeq, b2n_mod_two, BitVec.toNat_ofNat]; omega
    case h_35 =>
      split at h
      case isFalse => cases h
      obtain ⟨hop, rfl⟩ := accepts_ok.1 h
      refine encodes_word (decide_eq_true ?_) rfl ?_
      all_goals simp only [encSeq, BitVec.toNat_ofNat]; omega
    all_goals
      obtain ⟨hz, rfl⟩ := accepts_ok.1 h
      exact encodes_word rfl rfl (by simp only [encSeq, b2n_mod_two, BitVec.toNat_ofNat]; omega)

end DecodedSeq

/-! ## The widths together -/

theorem decodeWidth_encodes {n w : Nat} {i : Instr} (hn : n = 16 ∨ n = 32 ∨ n = 64) (hw : w < 2 ^ n) (h : decodeWidth n w = some i) : Encodes i n w := by
  rcases hn with rfl | rfl | rfl
  · exact decodeSeqWord_encodes hw (decodeWidth_seq.1 h)
  · exact decodeCC_encodes hw (decodeWidth_cc.1 h)
  · exact decodeVE_encodes hw (decodeWidth_ve.1 h)

/-- Settles O3: in each width the word is put together again from the fields that its decoder read. -/
theorem decodeThenEncode : Obligations.DecodeThenEncode := by
  unfold Obligations.DecodeThenEncode
  intro n w i hn hw h
  rw [decodeTableWord_of_lt hn hw] at h
  exact decodeWidth_encodes hn hw h

/-! ## Control core and sequencer words: what is encoded is decoded -/

section EncodedPlain

variable {mj d a b c fn sub imm data cap size off : Nat} {i : Instr}

/-- `w` has `n` bits and decodes to `i`. -/
def Reads (i : Instr) (n w : Nat) : Prop := w < 2 ^ n ∧ decodeWidth n w = some i

/-- Each field of a word of the RR form reads back (R70). -/
theorem field_encRR (hm : mj < 64) (hd : d < 32) (ha : a < 32) (hb : b < 32) (hc : c < 32) (hf : fn < 64) :
    encRR mj d a b c fn < 2 ^ 32 ∧ field (encRR mj d a b c fn) 31 26 = mj ∧ field (encRR mj d a b c fn) 25 21 = d ∧
      field (encRR mj d a b c fn) 20 16 = a ∧ field (encRR mj d a b c fn) 15 11 = b ∧ field (encRR mj d a b c fn) 10 6 = c ∧
      field (encRR mj d a b c fn) 5 0 = fn := by
  simp only [field, encRR, Nat.reduceAdd, Nat.reduceSub, Nat.reducePow]; omega

theorem field_encRI (hm : mj < 64) (hd : d < 32) (ha : a < 32) (hi : imm < 2 ^ 16) :
    encRI mj d a imm < 2 ^ 32 ∧ field (encRI mj d a imm) 31 26 = mj ∧ field (encRI mj d a imm) 25 21 = d ∧ field (encRI mj d a imm) 20 16 = a ∧
      field (encRI mj d a imm) 15 0 = imm := by
  simp only [field, encRI, Nat.reduceAdd, Nat.reduceSub, Nat.reducePow]; omega

theorem field_encMem (hm : mj < 64) (hd : data < 32) (hc : cap < 16) (hs : size < 8) (ho : off < 2 ^ 14) :
    encMem mj data cap size off < 2 ^ 32 ∧ field (encMem mj data cap size off) 31 26 = mj ∧ field (encMem mj data cap size off) 25 21 = data ∧
      field (encMem mj data cap size off) 20 17 = cap ∧ field (encMem mj data cap size off) 16 14 = size ∧
      field (encMem mj data cap size off) 13 0 = off := by
  simp only [field, encMem, Nat.reduceAdd, Nat.reduceSub, Nat.reducePow]; omega

theorem field_encSys (hm : mj < 64) (hd : d < 32) (ha : a < 32) (hs : sub < 64) (hi : imm < 1024) :
    encSys mj d a sub imm < 2 ^ 32 ∧ field (encSys mj d a sub imm) 31 26 = mj ∧ field (encSys mj d a sub imm) 25 21 = d ∧
      field (encSys mj d a sub imm) 20 16 = a ∧ field (encSys mj d a sub imm) 15 10 = sub ∧ field (encSys mj d a sub imm) 9 0 = imm := by
  simp only [field, encSys, Nat.reduceAdd, Nat.reduceSub, Nat.reducePow]; omega

theorem reads_cc {w : Nat} (hw : w < 2 ^ 32) (h : decodeCC w = .ok i) : Reads i 32 w := ⟨hw, decodeWidth_cc.2 h⟩

theorem reads_seq {w : Nat} (hw : w < 2 ^ 16) (h : decodeSeqWord w = .ok i) : Reads i 16 w := ⟨hw, decodeWidth_seq.2 h⟩

theorem reads_encRR (h : ∀ w, field w 31 26 = mj → field w 25 21 = d → field w 20 16 = a → field w 15 11 = b → field w 10 6 = c →
    field w 5 0 = fn → decodeCC w = .ok i) (hm : mj < 64 := by omega) (hd : d < 32 := by omega) (ha : a < 32 := by omega) (hb : b < 32 := by omega)
    (hc : c < 32 := by omega) (hf : fn < 64 := by omega) : Reads i 32 (encRR mj d a b c fn) := by
  obtain ⟨hw, h1, h2, h3, h4, h5, h6⟩ := field_encRR hm hd ha hb hc hf
  exact reads_cc hw (h _ h1 h2 h3 h4 h5 h6)

theorem reads_encRI (h : ∀ w, field w 31 26 = mj → field w 25 21 = d → field w 20 16 = a → field w 15 0 = imm → decodeCC w = .ok i)
    (hm : mj < 64 := by omega) (hd : d < 32 := by omega) (ha : a < 32 := by omega) (hi : imm < 2 ^ 16 := by omega) : Reads i 32 (encRI mj d a imm) := by
  obtain ⟨hw, h1, h2, h3, h4⟩ := field_encRI hm hd ha hi
  exact reads_cc hw (h _ h1 h2 h3 h4)

theorem reads_encJ {disp : BitVec 26} (h : ∀ w, field w 31 26 = mj → BitVec.ofNat 26 w = disp → decodeCC w = .ok i) (hm : mj < 64 := by omega) :
    Reads i 32 (encJ mj disp.toNat) := by
  refine reads_cc ?_ (h _ ?_ (BitVec.eq_of_toNat_eq ?_))
  all_goals simp only [encJ, field, BitVec.toNat_ofNat, Nat.reduceAdd, Nat.reduceSub, Nat.reducePow]; omega

theorem reads_encMem (h : ∀ w, field w 31 26 = mj → field w 25 21 = data → field w 20 17 = cap → field w 16 14 = size → field w 13 0 = off →
    decodeCC w = .ok i) (hm : mj < 64 := by omega) (hd : data < 32 := by omega) (hc : cap < 16 := by omega) (hs : size < 8 := by omega)
    (ho : off < 2 ^ 14 := by omega) : Reads i 32 (encMem mj data cap size off) := by
  obtain ⟨hw, h1, h2, h3, h4, h5⟩ := field_encMem hm hd hc hs ho
  exact reads_cc hw (h _ h1 h2 h3 h4 h5)

theorem reads_encSys (h : ∀ w, field w 31 26 = mj → field w 25 21 = d → field w 20 16 = a → field w 15 10 = sub → field w 9 0 = imm →
    decodeCC w = .ok i) (hm : mj < 64 := by omega) (hd : d < 32 := by omega) (ha : a < 32 := by omega) (hs : sub < 64 := by omega)
    (hi : imm < 1024 := by omega) : Reads i 32 (encSys mj d a sub imm) := by
  obtain ⟨hw, h1, h2, h3, h4, h5⟩ := field_encSys hm hd ha hs hi
  exact reads_cc hw (h _ h1 h2 h3 h4 h5)

theorem reads_alu (h : decodeAlu d a b c fn = .ok i) (hd : d < 32 := by omega) (ha : a < 32 := by omega) (hb : b < 32 := by omega)
    (hc : c < 32 := by omega) (hf : fn < 64 := by omega) : Reads i 32 (encRR 0x00 d a b c fn) :=
  reads_encRR fun w hm hd ha hb hc hf => by simpa only [decodeCC, hm, hd, ha, hb, hc, hf]

theorem reads_encAtom {op : Nat} {dbl : Bool} {d : BitVec 5} {a : BitVec 4} {b : BitVec 5}
    (h : decodeAtomic d.toNat a.toNat b.toNat c (op + 32 * b2n dbl) = .ok i) (ho : op < 32 := by omega) (hc : c < 32 := by omega) :
    Reads i 32 (encAtom op dbl d a b c) := by
  have hdbl := b2n_lt_two dbl
  exact reads_encRR fun w hm hd ha hb hc hf => by simpa only [decodeCC, hm, hd, ha, hb, hc, hf]

theorem reads_encSeq {op x : Nat} (h : ∀ w, w / 32768 % 2 = 1 → field w 14 8 = op → w % 256 = x → decodeSeqWord w = .ok i)
    (ho : op < 128 := by omega) (hx : x < 256 := by omega) : Reads i 16 (encSeq op x) := by
  refine reads_seq ?_ (h _ ?_ ?_ ?_)
  all_goals simp only [encSeq, field, Nat.reduceAdd, Nat.reduceSub, Nat.reducePow]; omega

/-- A flag number with a bit above it (04 R125). -/
theorem flagBit_fields (f : BitVec 6) (b : Bool) : f.toNat + 64 * b2n b < 128 ∧ ((f.toNat + 64 * b2n b) / 64 % 2 == 1) = b ∧
    BitVec.ofNat 6 (f.toNat + 64 * b2n b) = f := by
  have hb := b2n_lt_two b
  exact ⟨by omega, beq_one_of_mod_two (by omega), BitVec.eq_of_toNat_eq (by rw [BitVec.toNat_ofNat]; omega)⟩

/-- The operand of ralloc (05 R135). -/
theorem regionAttr_fields (cls policy : BitVec 2) (per com : Bool) (h : policy.toNat < 3) :
    let n := cls.toNat + 4 * policy.toNat + 16 * b2n per + 32 * b2n com
    n < 64 ∧ n / 64 = 0 ∧ n / 4 % 4 < 3 ∧ BitVec.ofNat 2 n = cls ∧ BitVec.ofNat 2 (n / 4) = policy ∧
      (n / 16 % 2 == 1) = per ∧ (n / 32 % 2 == 1) = com := by
  intro n
  have hp := b2n_lt_two per
  have hc := b2n_lt_two com
  refine ⟨by omega, by omega, by omega, BitVec.eq_of_toNat_eq ?_, BitVec.eq_of_toNat_eq ?_, beq_one_of_mod_two (by omega), beq_one_of_mod_two (by omega)⟩
  all_goals rw [BitVec.toNat_ofNat]; omega

/-- The index of mtx and mfx (05 R134). -/
theorem nestIndex_fields (half bank : Bool) (reg : BitVec 6) (h : nestReg reg.toNat = true) :
    let n := b2n half * 512 + b2n bank * 256 + reg.toNat
    n < 1024 ∧ nestIndexOk n = true ∧ (n / 512 % 2 == 1) = half ∧ (n / 256 % 2 == 1) = bank ∧ BitVec.ofNat 6 n = reg := by
  intro n
  have hh := b2n_lt_two half
  have hb := b2n_lt_two bank
  have hreg : n % 64 = reg.toNat := by omega
  refine ⟨by omega, ?_, beq_one_of_mod_two (by omega), beq_one_of_mod_two (by omega), BitVec.eq_of_toNat_eq (by rw [BitVec.toNat_ofNat]; exact hreg)⟩
  rw [nestIndexOk, hreg, h, Bool.and_true, beq_iff_eq]
  omega

/-- The operand of mgo (07 R203). -/
theorem goOperand_fields (p : BitVec 4) (whole acc bank : Bool) :
    let n := p.toNat * 16 + b2n whole * 8 + b2n acc * 4 + b2n bank
    n < 256 ∧ n / 2 % 2 = 0 ∧ BitVec.ofNat 4 (n / 16) = p ∧ (n / 8 % 2 == 1) = whole ∧ (n / 4 % 2 == 1) = acc ∧ (n % 2 == 1) = bank := by
  intro n
  have hw := b2n_lt_two whole
  have ha := b2n_lt_two acc
  have hb := b2n_lt_two bank
  exact ⟨by omega, by omega, BitVec.eq_of_toNat_eq (by rw [BitVec.toNat_ofNat]; omega), beq_one_of_mod_two (by omega), beq_one_of_mod_two (by omega),
    beq_one_of_mod_two (by omega)⟩

/-- The operand of copy and copyz: without a token the FIFO field is zero (08 R225). -/
theorem copyOperand_fields (tile tok : Bool) (fifo : BitVec 4) (h : (tok || fifo == 0) = true) :
    let n := b2n tile * 32 + b2n tok * 16 + fifo.toNat
    n < 256 ∧ n / 64 + (if n / 16 % 2 = 0 then n % 16 else 0) = 0 ∧ (n / 32 % 2 == 1) = tile ∧ (n / 16 % 2 == 1) = tok ∧ BitVec.ofNat 4 n = fifo := by
  intro n
  have ht := b2n_lt_two tile
  have hk := b2n_lt_two tok
  refine ⟨by omega, ?_, beq_one_of_mod_two (by omega), beq_one_of_mod_two (by omega), BitVec.eq_of_toNat_eq (by rw [BitVec.toNat_ofNat]; omega)⟩
  split
  case isFalse => omega
  case isTrue hz =>
    have htok : tok = false := b2n_eq_zero.1 (by omega)
    have hfifo : fifo.toNat = 0 := by simpa [htok, ← BitVec.toNat_inj] using h
    omega

/-- A word that is not one of 16 bits, by its instruction: the form that places its fields, and the group whose decoder reads them (R70 to R75). -/
theorem reads_encodeCC {n w : Nat} (hn : n ≠ 16) (hwf : i.wf = true) (h : encodePlain i = some (n, w)) : Reads i n w := by
  cases i with
  | add d a b | sub d a b | andR d a b | orR d a b | xorR d a b | andn d a b | shl d a b | shr d a b | sra d a b | slt d a b | sltn d a b | seq d a b
  | minR d a b | maxR d a b | minn d a b | maxn d a b | mul d a b | mulh d a b | mulhn d a b | div d a b | divn d a b | rem d a b | remn d a b
  | addw d a b | subw d a b =>
    cases h
    exact reads_alu (by simp [decodeAlu, rr3_ok])
  | sel d a b c => cases h; exact reads_alu (by simp [decodeAlu])
  | clz d a | ctz d a | popc d a => cases h; exact reads_alu (by simp [decodeAlu, rr2_ok])
  | addi d a m | andi d a m | ori d a m | xori d a m | slti d a m | sltni d a m | orhi d a m | orti d a m | muli d a m =>
    cases h
    exact reads_encRI fun _ _ _ _ _ => by simp [decodeCC, *, immOp_ok]
  | shli d a m | shri d a m | srai d a m => cases h; exact reads_encRI fun _ _ _ _ _ => by simp [decodeCC, *, shiftImm_ok, m.isLt]
  | lui d m | beq a b m | bne a b m | blt a b m | bge a b m | bltn a b m | bgen a b m | loop a m =>
    cases h
    exact reads_encRI fun _ _ _ _ _ => by simp [decodeCC, *, zeros_ok]
  | jmp disp | call disp => cases h; exact reads_encJ fun _ _ _ => by simp [decodeCC, *]
  | ret => cases h; exact reads_encRR fun _ _ _ _ _ _ _ => by simp [decodeCC, *, decodeControl]
  | jr a | callr a => cases h; exact reads_encRR fun _ _ _ _ _ _ _ => by simp [decodeCC, *, decodeControl, a.isLt]
  | ldS8 d c off | ldZ8 d c off | ldS16 d c off | ldZ16 d c off | ldS32 d c off | ldZ32 d c off | ldD d c off =>
    cases h
    exact reads_encMem fun _ _ _ _ _ _ => by simp [decodeCC, *, decodeLoad]
  | ldC d c off => cases h; exact reads_encMem fun _ _ _ _ _ _ => by simp [decodeCC, *, decodeLoad, d.isLt]
  | stB d c off | stH d c off | stW d c off | stD d c off => cases h; exact reads_encMem fun _ _ _ _ _ _ => by simp [decodeCC, *, decodeStore]
  | stC d c off => cases h; exact reads_encMem fun _ _ _ _ _ _ => by simp [decodeCC, *, decodeStore, d.isLt]
  | amoadd dbl d a b | amoand dbl d a b | amoor dbl d a b | amoxor dbl d a b | amoswap dbl d a b | amomin dbl d a b | amomax dbl d a b
  | amominn dbl d a b | amomaxn dbl d a b =>
    cases h
    exact reads_encAtom (by cases dbl <;> simp [decodeAtomic, b2n, atom_ok, a.isLt])
  | cas dbl d a b c => cases h; exact reads_encAtom (by cases dbl <;> simp [decodeAtomic, b2n, a.isLt])
  | kmov d a | kdrop d a => cases h; exact reads_encRR fun _ _ _ _ _ _ _ => by simp [decodeCC, *, decodeCap, capPair_ok, d.isLt, a.isLt]
  | kstep d a b | kseek d a b | kclip d a b | kmask d a b =>
    cases h
    exact reads_encRR fun _ _ _ _ _ _ _ => by simp [decodeCC, *, decodeCap, capScalar_ok, d.isLt, a.isLt]
  | kcover d a b => cases h; exact reads_encRR fun _ _ _ _ _ _ _ => by simp [decodeCC, *, decodeCap, a.isLt, b.isLt]
  | kfld d a sel =>
    cases h
    have hsel : sel.toNat < 8 := of_decide_eq_true hwf
    exact reads_encRR fun _ _ _ _ _ _ _ => by simp [decodeCC, *, decodeCap, passes_else, a.isLt]
  | mark | rendez | eret | halt | snap => cases h; exact ⟨by decide, rfl⟩
  | fence scope =>
    cases h
    have hs : scope.toNat < 5 := of_decide_eq_true hwf
    exact reads_encSys fun _ _ _ _ _ _ => by simp [decodeCC, *, decodeSys0, zeros_ok, limit_ok]; omega
  | waitf f clr | tstf d f clr =>
    cases h
    have hok : waitFlagOk f.toNat clr = true := hwf
    obtain ⟨hlt, hclr, hf⟩ := flagBit_fields f clr
    exact reads_encSys fun _ _ _ _ _ _ => by simp [decodeCC, *, decodeSys0, zeros_ok, Nat.mod_eq_of_lt f.isLt]
  | sigf f val =>
    cases h
    have hok : signalFlagOk f.toNat val = true := hwf
    obtain ⟨hlt, hval, hf⟩ := flagBit_fields f val
    exact reads_encSys fun _ _ _ _ _ _ => by simp [decodeCC, *, decodeSys0, zeros_ok, limit_ok, Nat.mod_eq_of_lt f.isLt]
  | idle a n => cases h; exact reads_encSys fun _ _ _ _ _ _ => by simp [decodeCC, *, decodeSys0, zeros_ok]
  | fork a => cases h; exact reads_encSys fun _ _ _ _ _ _ => by simp [decodeCC, *, decodeSys1, capField_ok, zeros_ok, a.isLt]
  | push q d a | pushc q a =>
    cases h
    have hq : q.toNat < 3 := of_decide_eq_true hwf
    exact reads_encSys fun _ _ _ _ _ _ => by simp [decodeCC, *, decodeSys1, capField_ok, zeros_ok, limit_ok, a.isLt]; omega
  | pop d q =>
    cases h
    have hq : q.toNat < 2 := of_decide_eq_true hwf
    exact reads_encSys fun _ _ _ _ _ _ => by simp [decodeCC, *, decodeSys1, zeros_ok, limit_ok]; omega
  | mtx half bank reg a | mfx a half bank reg =>
    cases h
    obtain ⟨hlt, hok, hhalf, hbank, hreg⟩ := nestIndex_fields half bank reg hwf
    exact reads_encSys fun _ _ _ _ _ _ => by simp [decodeCC, *, decodeSys1, zeros_ok, limit_ok]
  | ralloc d a cls policy per com =>
    cases h
    obtain ⟨hlt, hz, hlim, hcls, hpol, hper, hcom⟩ := regionAttr_fields cls policy per com (of_decide_eq_true hwf)
    exact reads_encSys fun _ _ _ _ _ _ => by
      simp only [decodeCC, *, decodeSys2, zeros_ok, limit_ok, decide_true, BitVec.ofNat_toNat, BitVec.setWidth_eq, and_self]
  | rfree a | rwax a n | evpop a => cases h; exact reads_encSys fun _ _ _ _ _ _ => by simp [decodeCC, *, decodeSys2, zeros_ok]
  | launch d a => cases h; exact reads_encSys fun _ _ _ _ _ _ => by simp [decodeCC, *, decodeSys2, zeros_ok, capField_ok, a.isLt]
  | lwait d level => cases h; exact reads_encSys fun _ _ _ _ _ _ => by simp [decodeCC, *, decodeSys2, zeros_ok, level.isLt]
  | cancel n | wpub n | wsync n => cases h; exact reads_encSys fun _ _ _ _ _ _ => by simp [decodeCC, *, decodeSys2, zeros_ok, n.isLt]
  | gate p => cases h; cases p <;> exact ⟨by decide, rfl⟩
  | trap n | hcall n => cases h; exact reads_encSys fun _ _ _ _ _ _ => by simp [decodeCC, *, decodeSys3, zeros_ok]
  | mfs a reg | mts reg a =>
    cases h
    have hok : sysReg reg.toNat = true := hwf
    exact reads_encSys fun _ _ _ _ _ _ => by simp [decodeCC, *, decodeSys3, zeros_ok, limit_ok]
  | _ => cases h <;> exact absurd rfl hn

/-- A word of 16 bits by its instruction, whose operand takes the low byte but for lit (R82 to R84). -/
theorem reads_encodeSeq {w : Nat} (hwf : i.wf = true) (h : encodePlain i = some (16, w)) : Reads i 16 w := by
  cases i with
  | lit v => cases h; exact reads_seq (by omega) (by simp [decodeSeqWord, Nat.div_eq_of_lt v.isLt])
  | idlew | cat | dup | drop | swap | sadd | sneg | endr | promote | mend | chain | crcset | crcchk | lfence | lend | csend
  | crecv | cgather | cbar | cwait =>
    cases h
    exact ⟨by decide, rfl⟩
  | mnest a | lrec a => cases h; cases a <;> exact ⟨by decide, rfl⟩
  | aclr a b => cases h; cases a <;> cases b <;> exact ⟨by decide, rfl⟩
  | aout a b c => cases h; cases a <;> cases b <;> cases c <;> exact ⟨by decide, rfl⟩
  | seqIdle n | rep n => cases h; exact reads_encSeq fun _ _ _ _ => by simp [decodeSeqWord, *]
  | sshl k =>
    cases h
    have hk : 1 ≤ k.toNat := of_decide_eq_true hwf
    exact reads_encSeq fun _ _ _ _ => by simp [decodeSeqWord, *]; omega
  | seqWaitf f clr =>
    cases h
    have hok : waitFlagOk f.toNat clr = true := hwf
    obtain ⟨hlt, hclr, hf⟩ := flagBit_fields f clr
    exact reads_encSeq fun _ _ _ _ => by simp [decodeSeqWord, *, Nat.mod_eq_of_lt f.isLt]
  | seqSigf f val =>
    cases h
    have hok : signalFlagOk f.toNat val = true := hwf
    obtain ⟨hlt, hval, hf⟩ := flagBit_fields f val
    exact reads_encSeq fun _ _ _ _ => by simp [decodeSeqWord, *, Nat.mod_eq_of_lt f.isLt]
  | claim slot | release slot | fill slot | sfill slot | dfill slot =>
    cases h
    exact reads_encSeq fun _ _ _ _ => by simp [decodeSeqWord, *, slot.isLt]
  | mgo p whole acc bank =>
    cases h
    obtain ⟨hlt, hz, hp, hwhole, hacc, hbank⟩ := goOperand_fields p whole acc bank
    exact reads_encSeq fun _ _ _ _ => by simp only [decodeSeqWord, *, if_true, Nat.one_ne_zero, if_false]
  | copy tile tok fifo | copyz tile tok fifo =>
    cases h
    obtain ⟨hlt, hz, htile, htok, hfifo⟩ := copyOperand_fields tile tok fifo hwf
    exact reads_encSeq fun _ _ _ _ => by simp only [decodeSeqWord, *, if_true, Nat.one_ne_zero, if_false]
  | creduce op =>
    cases h
    have hop : op.toNat < 5 := of_decide_eq_true hwf
    exact reads_encSeq fun _ _ _ _ => by simp [decodeSeqWord, *, op.isLt]
  | _ => cases h

theorem reads_encodePlain {n w : Nat} (hwf : i.wf = true) (h : encodePlain i = some (n, w)) : Reads i n w := by
  by_cases hn : n = 16
  · subst hn; exact reads_encodeSeq hwf h
  · exact reads_encodeCC hn hwf h

end EncodedPlain

/-! ## Vector words: what is encoded is decoded -/

section EncodedVE

variable {op : Nat} {f : VFields} {i : Instr}

theorem opcode_lt_of_veParts (h : i.veParts = some (op, f)) : op < 256 := by
  unfold Instr.veParts at h
  split at h
  all_goals cases h
  all_goals decide

/-- Each field of a vector word reads back (R77). -/
theorem field_encVE (hop : op < 256) (f : VFields) : encVE op f < 2 ^ 64 ∧ field (encVE op f) 63 56 = op ∧ veFields (encVE op f) = f := by
  obtain ⟨ty, vd, va, vb, vc, pred, pmode, rnd, holdA, holdB, holdC, aux⟩ := f
  have hpmode := b2n_lt_two pmode
  have hA := b2n_lt_two holdA
  have hB := b2n_lt_two holdB
  have hC := b2n_lt_two holdC
  refine ⟨?_, ?_, ?_⟩
  · simp only [encVE]; omega
  · simp only [encVE, field]; omega
  · simp only [veFields, VFields.mk.injEq]
    refine ⟨?_, ?_, ?_, ?_, ?_, ?_, beq_one_of_mod_two ?_, ?_, beq_one_of_mod_two ?_, beq_one_of_mod_two ?_, beq_one_of_mod_two ?_, ?_⟩
    all_goals simp only [← BitVec.toNat_inj, BitVec.toNat_ofNat, encVE, field, Nat.reduceAdd, Nat.reduceSub, Nat.reducePow]
    all_goals omega

theorem reads_veParts (hwf : i.wf = true) (h : i.veParts = some (op, f)) : Reads i 64 (encVE op f) := by
  obtain ⟨hw, hop, hf⟩ := field_encVE (opcode_lt_of_veParts h) f
  rw [wf_of_veParts h, beq_iff_eq] at hwf
  exact ⟨hw, decodeWidth_ve.2 (decodeVE_ok.2 (by rw [hop, hf]; exact ⟨hwf, h⟩))⟩

end EncodedVE

/-! ## The encoder's widths -/

theorem width_of_decodeWidth {n w : Nat} {i : Instr} (h : decodeWidth n w = some i) : n = 16 ∨ n = 32 ∨ n = 64 := by
  unfold decodeWidth at h
  split at h
  case h_4 => cases h
  all_goals decide

theorem reads_encode {n w : Nat} {i : Instr} (hwf : i.wf = true) (h : encode i = some (n, w)) : Reads i n w := by
  unfold encode at h
  split at h
  case h_1 hp => cases h; exact reads_veParts hwf hp
  case h_2 => exact reads_encodePlain hwf h

/-- Settles O2: the fields that the encoder placed read back, and each check of the decoder is one that well-formedness promises. -/
theorem encodeThenDecode : Obligations.EncodeThenDecode := by
  unfold Obligations.EncodeThenDecode
  intro i n w hwf he
  obtain ⟨hw, hi⟩ := reads_encode hwf he
  exact ⟨hw, by rw [decodeTableWord_of_lt (width_of_decodeWidth hi) hw]; exact hi⟩

/-! ## The spec's own words -/

/-- Settles O1: each word has 16 or 32 bits, and its decoder reads the instruction. -/
theorem specWordsDecode : Obligations.SpecWordsDecode := by
  unfold Obligations.SpecWordsDecode
  simp only [decodeTableWord_of_lt, Nat.reducePow, Nat.reduceLT, true_or, or_true, decodeWidth_cc, decodeWidth_seq]
  decide

end Sys2Proof

/-! # The fetch of a control core word (03 R68, 04 R107, 09 R254) -/

namespace Sys2Proof.Machine

section Fetch

variable {c : Site} {r pc n : Nat} {code : Cap} {decode : Nat → Decoded} {g : Region}

/-- Code that passes every check of a fetch: the bytes at the program counter, decoded. -/
theorem codeAt_reads (hb : code.inBounds pc n = true) (hr : regionAt c r pc = some g) (hg : g.compressed = false)
    (hv : (groupOf c (pc / 4096)).valid = true) (he : spoiled c.tm pc n = none) :
    codeAt c r code pc n decode = .word (leNat (tmRead c.tm pc n)) (decode (leNat (tmRead c.tm pc n))) := by
  simp [codeAt, hb, hr, hg, hv, he]

theorem fetchCtx_of_word {x : Side} {s : State} {w : Nat} {d : Decoded} (h : fetchCC c x = .word w d) : fetchCtx c x s = .word w d := by
  simp only [fetchCtx, h]

theorem fetchHead_ctx (k : Nat) (x : Side) (s : State) : fetchHead (ctxHead x) (headCur k (ctxHead x)) s = fetchCtx (site k s) x s := by
  cases x <;> rfl

end Fetch

/-- Settles O4: the code is in TM and passes the checks of a fetch in their order. -/
theorem fetchReadsCode : Obligations.FetchReadsCode := by
  unfold Obligations.FetchReadsCode
  intro s k x g c v hspace hbounds hregion hplain hvalid hclean
  have hcode : fetchCC c x = codeAt c (headRink c (ctxHead x)) v.code v.pc.toNat 4 decodeCC := if_pos hspace
  rw [fetchHead_ctx, fetchCtx_of_word (hcode.trans (codeAt_reads hbounds hregion hplain hvalid hclean))]
  rfl

end Sys2Proof.Machine

/-! # Words that the sequencers share (03 R82, R83, R86, 07 R446, 11 R286) -/

namespace Sys2Proof.Machine

open Host (Outcome)

/-! ## The operand stack -/

section OperandStack

variable {s : State} {i : Instr} {pops : Nat} {push : List Word} {q : Seq} {n case : Nat} {b : Bool}

theorem stackHit_eq_none (h : b = false) : stackHit b case q = none := by rw [stackHit, h, hitIf_false]

theorem stackHit_eq_some (h : b = true) : stackHit b case q = some (.trap 0x1F (stackInfo case q)) := by rw [stackHit, h, hitIf_true]

theorem popHit_none (h : n ≤ q.stack.length) : popHit n q = none := stackHit_eq_none (decide_eq_false (by omega))

theorem popHit_one_none (h : q.stack ≠ []) : popHit 1 q = none := popHit_none (List.length_pos_of_ne_nil h)

theorem popHit_few (h : q.stack.length < n) : popHit n q = some (.trap 0x1F (0x100 + q.stack.length)) := stackHit_eq_some (decide_eq_true h)

theorem pushHit_none (h : q.stack.length + n ≤ 16) : pushHit n q = none := stackHit_eq_none (decide_eq_false (by omega))

theorem pushHit_many (h : 16 < q.stack.length + n) : pushHit n q = some (.trap 0x1F q.stack.length) := by
  rw [pushHit, stackHit_eq_some (decide_eq_true h), stackInfo, Nat.zero_mul, Nat.zero_add]

/-- A word that pops `pops` entries and pushes `push`: done, or a fault with what it found on the stack (R82, 07 R446). -/
theorem stackWord_leaves (hi : exec i s = .next (stackWord pops push s)) :
    (pops ≤ (mySeq s).stack.length → (mySeq s).stack.length + (push.length - pops) ≤ 16 →
      exec i s = .next (seqDone 1 1 (modMySeq fun q => { q with stack := push ++ q.stack.drop pops }) s)) ∧
    ((mySeq s).stack.length < pops → exec i s = .next (seqStop (.trap 0x1F (0x100 + (mySeq s).stack.length)) s)) ∧
    (pops ≤ (mySeq s).stack.length → 16 < (mySeq s).stack.length + (push.length - pops) →
      exec i s = .next (seqStop (.trap 0x1F (mySeq s).stack.length) s)) := by
  refine ⟨fun hp hr => ?_, fun hp => ?_, fun hp hr => ?_⟩
  · rw [hi, stackWord, seqWord_next (by rw [popHit_none hp, pushHit_none hr]; rfl)]
  · rw [hi, stackWord, seqWord_stop (by rw [popHit_few hp]; rfl)]
  · rw [hi, stackWord, seqWord_stop (by rw [popHit_none hp, pushHit_many hr]; rfl)]

/-- The value of cat, whose fields do not meet (R83). -/
theorem cat_value (a b : Word) : (b <<< 15) ||| (a &&& 0x7FFF) = BitVec.ofNat 64 (b.toNat * 2 ^ 15 + a.toNat % 2 ^ 15) := by
  have hlow : a.toNat % 2 ^ 15 < 2 ^ 15 := Nat.mod_lt _ (by decide)
  have hhigh : b.toNat <<< 15 % 2 ^ 64 = (b.toNat % 2 ^ 49) <<< 15 := by rw [Nat.shiftLeft_eq, Nat.shiftLeft_eq]; omega
  have hmask : (0x7FFF : Word).toNat = 2 ^ 15 - 1 := rfl
  apply BitVec.eq_of_toNat_eq
  rw [BitVec.toNat_or, BitVec.toNat_shiftLeft, BitVec.toNat_and, BitVec.toNat_ofNat, hmask, Nat.and_two_pow_sub_one_eq_mod, hhigh,
    ← Nat.shiftLeft_add_eq_or_of_lt hlow, Nat.shiftLeft_eq]
  omega

theorem shift_value (a : Word) (n : Nat) : a <<< n = BitVec.ofNat 64 (a.toNat * 2 ^ n) := by
  apply BitVec.eq_of_toNat_eq
  rw [BitVec.toNat_shiftLeft, BitVec.toNat_ofNat, Nat.shiftLeft_eq]

end OperandStack

/-! ## Flags -/

section Flags

variable {s : State} {f : BitVec 6}

theorem flagHit_none {c : Site} {r n : Nat} (h : ownsFlag c r n = true) : flagHit c r n = none := by rw [flagHit, h]; rfl

theorem execSeqWaitf_next (clr : Bool) (ho : ownsFlag (site (streamSite s) s) (streamRink s) f.toNat = true)
    (hr : flagReady (site (streamSite s) s) f.toNat = true) :
    exec (.seqWaitf f clr) s = .next (seqDone 1 1 (modSite (streamSite s) (consumeFlag f.toNat clr)) s) := by
  have hits : firstHit [flagHit (site (streamSite s) s) (streamRink s) f.toNat,
      hitIf (!flagReady (site (streamSite s) s) f.toNat) (.stall 0 f.toNat 0 (some f.toNat))] = none := by
    rw [flagHit_none ho, hr]; rfl
  exact congrArg Outcome.next (seqWord_next hits)

theorem execSeqSigf_clears (ho : ownsFlag (site (streamSite s) s) (streamRink s) f.toNat = true) (hs : seqSigHit s f.toNat false = none)
    (hr : 16 ≤ f.toNat ∧ f.toNat < 32 → flagReady (site (streamSite s) s) f.toNat = true) :
    exec (.seqSigf f false) s = .next (seqDone 1 1 (modSite (streamSite s) (clearFlag f.toNat)) s) := by
  have hpop : (decide (16 ≤ f.toNat) && decide (f.toNat < 32) && !flagReady (site (streamSite s) s) f.toNat) = false := by
    by_cases ht : 16 ≤ f.toNat ∧ f.toNat < 32
    · rw [hr ht]; simp
    · simp; omega
  have hits : firstHit [flagHit (site (streamSite s) s) (streamRink s) f.toNat, seqSigHit s f.toNat false,
      hitIf (16 ≤ f.toNat && f.toNat < 32 && !flagReady (site (streamSite s) s) f.toNat) (.stall 0 f.toNat 0 (some f.toNat))] = none := by
    rw [flagHit_none ho, hs, hpop]; rfl
  exact congrArg Outcome.next (seqWord_next hits)

theorem execSeqSigf_sets (ho : ownsFlag (site (streamSite s) s) (streamRink s) f.toNat = true) (hs : seqSigHit s f.toNat true = none)
    (hr : pushRoom (site (streamSite s) s) f.toNat = true) :
    exec (.seqSigf f true) s = .next (seqDone 1 1 (modSite (streamSite s) (setFlag f.toNat)) s) := by
  have hits : firstHit [flagHit (site (streamSite s) s) (streamRink s) f.toNat, seqSigHit s f.toNat true,
      hitIf (!pushRoom (site (streamSite s) s) f.toNat) (.stall 1 f.toNat 0 (some f.toNat))] = none := by
    rw [flagHit_none ho, hs, hr]; rfl
  exact congrArg Outcome.next (seqWord_next hits)

theorem execSeqSigf_waits {h : Hit} (ho : ownsFlag (site (streamSite s) s) (streamRink s) f.toNat = true) (hs : seqSigHit s f.toNat true = some h) :
    exec (.seqSigf f true) s = .next (seqStop h s) := by
  have hits : firstHit [flagHit (site (streamSite s) s) (streamRink s) f.toNat, seqSigHit s f.toNat true,
      hitIf (!pushRoom (site (streamSite s) s) f.toNat) (.stall 1 f.toNat 0 (some f.toNat))] = some h := by
    rw [flagHit_none ho, hs]; rfl
  exact congrArg Outcome.next (seqWord_stop hits)

/-- A Lift copy's writes are performed as its word executes, so a Lift sigf waits for nothing (08 R231). -/
theorem seqSigHit_lift (hc : s.cur.coll = false) (hl : s.cur.lift = true) (n : Nat) (set : Bool) : seqSigHit s n set = none := by
  simp only [seqSigHit, hc, hl, Bool.false_eq_true, if_false, if_true]

theorem inMatrix_iff : inMatrix s = true ↔ s.cur.lift = false ∧ s.cur.coll = false := by
  rw [inMatrix, Bool.and_eq_true, Bool.not_eq_true', Bool.not_eq_true']

theorem streamSite_matrix (h : inMatrix s = true) : streamSite s = s.cur.site := by
  simp only [streamSite, (inMatrix_iff.1 h).2, Bool.false_eq_true, if_false]

theorem rowsComing_iff {c : Site} {h : Nat} :
    rowsComing c h = true ↔ ∃ p ∈ c.pipe, p.stream = h ∧ ∃ h b w r f16 clr fc t a l, p.act = .aoutRow h b w r f16 clr fc t a l := by
  simp only [rowsComing, List.any_eq_true, Bool.and_eq_true, beq_iff_eq]
  refine exists_congr fun p => and_congr_right fun _ => and_congr_right fun _ => ?_
  cases p.act <;> simp

/-- A set or push of a matrix stream in free mode waits for the rows of its older aouts (11 R286). -/
theorem seqSigHit_matrix (hm : inMatrix s = true) (hf : (ctlOf (mySite s) (myHead s)).timetabled = false) (hr : rowsComing (mySite s) (myHead s) = true)
    (n : Nat) : seqSigHit s n true = some (.stall 1 n 0 (some n)) := by
  obtain ⟨hl, hc⟩ := inMatrix_iff.1 hm
  simp only [seqSigHit, hc, hl, Bool.false_eq_true, if_false]
  rw [show (site s.cur.site s) = mySite s from rfl, hf, hr]
  rfl

end Flags

/-! ## Repeated bodies -/

section Repeats

variable {s : State}

/-- The passes that rep asks for: its operand, or the entry it pops where the operand is 0 (R83). -/
def repCount (n : BitVec 8) (q : Seq) : Nat := if n = 0 then (nth 0 q.stack 0).toNat else n.toNat

/-- The stack that rep leaves. -/
def repStack (n : BitVec 8) (q : Seq) : List Word := if n = 0 then q.stack.drop 1 else q.stack

/-- From the word after a rep to just past the endr of its body. -/
def repSkip (s : State) : Option Nat := matchEndr (endWord s) 0 ((myWords s).drop ((mySeq s).pc + 1)) 0

def repHits (n : BitVec 8) (s : State) : List (Option Hit) :=
  [if n == 0 then popHit 1 (mySeq s) else none, stackHit (decide (2 ^ 32 ≤ repCount n (mySeq s))) 5 (mySeq s),
    stackHit (decide (4 ≤ (mySeq s).reps.length)) 3 (mySeq s), stackHit (repCount n (mySeq s) == 0 && (repSkip s).isNone) 6 (mySeq s)]

def repEffect (n : BitVec 8) (s : State) (q : Seq) : Seq :=
  if repCount n (mySeq s) = 0 then { q with stack := repStack n q, pc := q.pc + 1 + (repSkip s).getD 0 }
  else { q with stack := repStack n q, pc := q.pc + 1, reps := ⟨q.pc + 1, repCount n (mySeq s) - 1, false⟩ :: q.reps }

theorem execRep_eq (n : BitVec 8) (s : State) : exec (.rep n) s = .next (seqWord (repHits n s) 1 0 (modMySeq (repEffect n s)) s) := by
  by_cases hn : n = 0
  · subst hn; rfl
  · have hb : (n == 0) = false := beq_eq_false_iff_ne.2 hn
    have hc : repCount n (mySeq s) = n.toNat := if_neg hn
    have hs (q : Seq) : repStack n q = q.stack := if_neg hn
    have heff : repEffect n s = fun q => if n.toNat = 0 then { q with pc := q.pc + 1 + (repSkip s).getD 0 }
        else { q with pc := q.pc + 1, reps := ⟨q.pc + 1, n.toNat - 1, false⟩ :: q.reps } := by
      funext q
      rw [repEffect, hs, hc]
    rw [repHits, heff, hc, hb]
    show execRep n s = _
    simp only [execRep, hb, Bool.false_eq_true, if_false]
    rfl

theorem repHits_checked {n : BitVec 8} (hp : n = 0 → (mySeq s).stack ≠ []) (hc : repCount n (mySeq s) < 2 ^ 32) :
    firstHit (repHits n s) = firstHit [stackHit (decide (4 ≤ (mySeq s).reps.length)) 3 (mySeq s),
      stackHit (repCount n (mySeq s) == 0 && (repSkip s).isNone) 6 (mySeq s)] := by
  have hpop : (if n == 0 then popHit 1 (mySeq s) else none) = none := by
    split
    · next h => exact popHit_one_none (hp (eq_of_beq h))
    · rfl
  rw [repHits, hpop, stackHit_eq_none (decide_eq_false (Nat.not_le.2 hc))]
  rfl

theorem execRep_next {n : BitVec 8} (hp : n = 0 → (mySeq s).stack ≠ []) (hc : repCount n (mySeq s) < 2 ^ 32) (hr : (mySeq s).reps.length < 4)
    (hs : repCount n (mySeq s) = 0 → (repSkip s).isSome = true) : exec (.rep n) s = .next (seqDone 1 0 (modMySeq (repEffect n s)) s) := by
  have hskip : (repCount n (mySeq s) == 0 && (repSkip s).isNone) = false := by
    by_cases h : repCount n (mySeq s) = 0
    · rw [h, Option.isNone_eq_false_iff.2 (hs h)]; rfl
    · rw [beq_eq_false_iff_ne.2 h]; rfl
  rw [execRep_eq, seqWord_next]
  rw [repHits_checked hp hc, stackHit_eq_none (decide_eq_false (Nat.not_le.2 hr)), stackHit_eq_none hskip]
  rfl

theorem execRep_begins {n : BitVec 8} (hp : n = 0 → (mySeq s).stack ≠ []) (hc : repCount n (mySeq s) < 2 ^ 32) (hr : (mySeq s).reps.length < 4)
    (h0 : 0 < repCount n (mySeq s)) : exec (.rep n) s = .next (seqDone 1 0 (modMySeq fun q =>
      { q with stack := repStack n q, pc := q.pc + 1, reps := ⟨q.pc + 1, repCount n (mySeq s) - 1, false⟩ :: q.reps }) s) := by
  have heff : repEffect n s = fun q =>
      { q with stack := repStack n q, pc := q.pc + 1, reps := ⟨q.pc + 1, repCount n (mySeq s) - 1, false⟩ :: q.reps } :=
    funext fun q => if_neg (by omega)
  rw [execRep_next hp hc hr (fun h => absurd h (by omega)), heff]

theorem execRep_skips {n : BitVec 8} {k : Nat} (hp : n = 0 → (mySeq s).stack ≠ []) (hr : (mySeq s).reps.length < 4) (h0 : repCount n (mySeq s) = 0)
    (hk : repSkip s = some k) :
    exec (.rep n) s = .next (seqDone 1 0 (modMySeq fun q => { q with stack := repStack n q, pc := q.pc + 1 + k }) s) := by
  have heff : repEffect n s = fun q => { q with stack := repStack n q, pc := q.pc + 1 + k } :=
    funext fun q => by rw [repEffect, if_pos h0, hk, Option.getD_some]
  rw [execRep_next hp (by omega) hr (fun _ => by rw [hk]; rfl), heff]

theorem execRep_nested {n : BitVec 8} (hp : n = 0 → (mySeq s).stack ≠ []) (hc : repCount n (mySeq s) < 2 ^ 32) (hr : 4 ≤ (mySeq s).reps.length) :
    exec (.rep n) s = .next (seqStop (.trap 0x1F (0x300 + (mySeq s).stack.length)) s) := by
  rw [execRep_eq, seqWord_stop]
  rw [repHits_checked hp hc, stackHit_eq_some (decide_eq_true hr)]
  rfl

/-- What endr does to the innermost open body `r` (R83). -/
def endrEffect (r : Rep) (rs : List Rep) (q : Seq) : Seq :=
  if r.left = 0 then { q with pc := q.pc + 1, reps := rs } else { q with pc := r.start, reps := ⟨r.start, r.left - 1, true⟩ :: rs }

theorem execEndr_outside (h : (mySeq s).reps = []) : exec .endr s = .next (seqStop (.trap 0x1F (0x400 + (mySeq s).stack.length)) s) := by
  show execEndr s = _
  simp only [execEndr, h]
  rfl

theorem execEndr_inside {r : Rep} {rs : List Rep} (h : (mySeq s).reps = r :: rs) :
    exec .endr s = .next (seqDone (if r.later then 0 else 1) 0 (modMySeq (endrEffect r rs)) s) := by
  show execEndr s = _
  simp only [execEndr, h]
  rfl

end Repeats

/-- Settles O37: each word of the stack is one of the form that pops and pushes; the others by their checks, and a repeated body by its passes left. -/
theorem sequencerWords : Obligations.SequencerWords := by
  unfold Obligations.SequencerWords
  refine ⟨fun s v k => ?stack, fun s n f => ?shared⟩
  case stack =>
    intro st a b leaves
    have hcat : exec .cat s = .next (stackWord 2 [BitVec.ofNat 64 (b.toNat * 2 ^ 15 + a.toNat % 2 ^ 15)] s) := by rw [← cat_value]; rfl
    have hshl : exec (.sshl k) s = .next (stackWord 1 [BitVec.ofNat 64 (a.toNat * 2 ^ k.toNat)] s) := by rw [← shift_value]; rfl
    have hlit : exec (.lit v) s = .next (stackWord 0 [BitVec.ofNat 64 v.toNat] s) := by rw [BitVec.ofNat_toNat]; rfl
    exact ⟨stackWord_leaves hlit, stackWord_leaves hcat, stackWord_leaves rfl, stackWord_leaves rfl, stackWord_leaves rfl, stackWord_leaves rfl,
      stackWord_leaves rfl, stackWord_leaves hshl⟩
  case shared =>
    intro q c m token mine onSite popped count skip
    have hidlew (h : q.stack ≠ []) : firstHit [popHit 1 q] = none := by rw [popHit_one_none h]; rfl
    refine ⟨rfl, fun h => congrArg Outcome.next (seqWord_next (hidlew h)), fun ho hr => execSeqWaitf_next false ho hr,
      fun ho hr _ => execSeqWaitf_next true ho hr, fun ho hs hr => execSeqSigf_clears ho hs hr, fun ho hs _ hr => execSeqSigf_sets ho hs hr,
      fun hc hl => ⟨seqSigHit_lift hc hl m false, seqSigHit_lift hc hl m true⟩, fun hm ho hf hrows => ?rows,
      fun hp hc hr => ⟨fun h0 => execRep_begins hp hc hr h0, fun k h0 hk => execRep_skips hp hr h0 hk⟩, fun hp hc hr => execRep_nested hp hc hr,
      execEndr_outside, fun r rs h hl => ?again, fun r rs h hl => ?done⟩
    case rows =>
      have hsite : c = mySite s := congrArg (site · s) (streamSite_matrix hm)
      rw [hsite] at hf hrows
      exact execSeqSigf_waits ho (seqSigHit_matrix hm hf (rowsComing_iff.2 hrows) m)
    case again =>
      rw [execEndr_inside h, show endrEffect r rs = _ from funext fun q => if_neg (by omega)]
    case done =>
      rw [execEndr_inside h, show endrEffect r rs = _ from funext fun q => if_pos hl]

end Sys2Proof.Machine

/-! # The integer words of the control core (04 R95 to R102) -/

namespace Sys2Proof.Machine

open Host (Outcome)

/-! ## Words by the number of their sources -/

section ScalarWords

variable {s : State} {i : Instr} {d a b : BitVec 5} {lat : Nat} {v : Word}

theorem exec_rrWord {f : Word → Word → Word} (h : exec i s = rrWord d a b lat f s) (ha : readableS s a) (hb : readableS s b) (hd : settledS s d)
    (hv : f (getS (myCtx s) a) (getS (myCtx s) b) = v) : exec i s = .next (wordDone (putS (mySite s).now lat d v) s) := by
  rw [h, rrWord, scalarWord_next (by simp [ha, hb]) hd, hv]

theorem exec_rWord {f : Word → Word} (h : exec i s = rWord d a lat f s) (ha : readableS s a) (hd : settledS s d)
    (hv : f (getS (myCtx s) a) = v) : exec i s = .next (wordDone (putS (mySite s).now lat d v) s) := by
  rw [h, rWord, scalarWord_next (by simp [ha]) hd, hv]

theorem exec_divWord {f : Word → Word → Word} (h : exec i s = divWord d a b f s) (ha : readableS s a) (hb : readableS s b) (hd : settledS s d)
    (hfree : (myCtx s).divFree ≤ (mySite s).now) (hv : f (getS (myCtx s) a) (getS (myCtx s) b) = v) :
    exec i s = .next (wordDone (fun c => { putS (mySite s).now 34 d v c with divFree := (mySite s).now + 34 }) s) := by
  rw [h, divWord_next ha hb hd hfree, hv]

end ScalarWords

/-! ## The values (04 R99 to R101) -/

theorem shr_value (x : Word) (n : Nat) : x >>> n = .ofNat 64 (x.toNat / 2 ^ n) := by
  rw [← Nat.shiftRight_eq_div_pow, ← BitVec.toNat_ushiftRight, BitVec.ofNat_toNat, BitVec.setWidth_eq]

theorem sra_value (x : Word) (n : Nat) : x.sshiftRight n = .ofInt 64 (x.toInt / 2 ^ n) := by
  rw [BitVec.sshiftRight, Int.shiftRight_eq_div_pow]; norm_cast

theorem truth_slt (x y : Word) : truth (x.slt y) = if x.toInt < y.toInt then 1 else 0 := by simp [truth, BitVec.slt]

theorem truth_ult (x y : Word) : truth (x.ult y) = if x.toNat < y.toNat then 1 else 0 := by simp [truth, BitVec.ult]

theorem truth_beq (x y : Word) : truth (x == y) = if x = y then 1 else 0 := by simp [truth]

/-- Equal operands are one value, so that it is the same which of them a minimum or maximum answers. -/
theorem select_le_of_lt {α : Type} [LinearOrder α] {f : Word → α} (hf : Function.Injective f) (x y : Word) :
    (if f x < f y then x else y) = (if f x ≤ f y then x else y) ∧ (if f x < f y then y else x) = (if f x ≤ f y then y else x) := by
  rcases lt_trichotomy (f x) (f y) with h | h | h
  · simp [h, h.le]
  · simp [hf h]
  · simp [h.not_gt, h.not_ge]

theorem toInt_injective : Function.Injective (BitVec.toInt : Word → Int) := fun _ _ => BitVec.eq_of_toInt_eq

theorem toNat_injective : Function.Injective (BitVec.toNat : Word → Nat) := fun _ _ => BitVec.eq_of_toNat_eq

theorem minS_value (x y : Word) : minS x y = if x.toInt ≤ y.toInt then x else y := by
  rw [← (select_le_of_lt toInt_injective x y).1]; simp [minS, BitVec.slt]

theorem maxS_value (x y : Word) : maxS x y = if x.toInt ≤ y.toInt then y else x := by
  rw [← (select_le_of_lt toInt_injective x y).2]; simp [maxS, BitVec.slt]

theorem minU_value (x y : Word) : minU x y = if x.toNat ≤ y.toNat then x else y := by
  rw [← (select_le_of_lt toNat_injective x y).1]; simp [minU, BitVec.ult]

theorem maxU_value (x y : Word) : maxU x y = if x.toNat ≤ y.toNat then y else x := by
  rw [← (select_le_of_lt toNat_injective x y).2]; simp [maxU, BitVec.ult]

theorem mul_value (x y : Word) : x * y = .ofInt 64 (x.toInt * y.toInt) := by
  rw [BitVec.ofInt_mul, BitVec.ofInt_toInt, BitVec.ofInt_toInt]

/-! ### Counts of bits -/

theorem leadingZeros_value (x : Word) :
    ∃ n ≤ 64, leadingZeros x = .ofNat 64 n ∧ x.toNat < 2 ^ (64 - n) ∧ (n < 64 → 2 ^ (63 - n) ≤ x.toNat) := by
  obtain ⟨k, hk⟩ : ∃ k, (List.range 65).find? (fun n => x.toNat < 2 ^ n) = some k :=
    Option.isSome_iff_exists.1 (List.find?_isSome.2 ⟨64, by simp, by simpa using x.isLt⟩)
  obtain ⟨hlt, hmem, hmin⟩ := List.find?_range_eq_some.1 hk
  simp only [List.mem_range] at hmem
  refine ⟨64 - k, by omega, by rw [leadingZeros, hk]; rfl, ?_, fun h => ?_⟩
  · rw [Nat.sub_sub_self (by omega)]; simpa using hlt
  · have := hmin (k - 1) (by omega)
    rw [show 63 - (64 - k) = k - 1 by omega]; simpa using this

theorem trailingZeros_value (x : Word) :
    ∃ n ≤ 64, trailingZeros x = .ofNat 64 n ∧ (∀ i < n, x.getLsbD i = false) ∧ (n < 64 → x.getLsbD n = true) := by
  cases hk : (List.range 64).find? (fun n => x.getLsbD n) with
  | none =>
    refine ⟨64, le_rfl, by rw [trailingZeros, hk]; rfl, fun i hi => ?_, fun h => absurd h (lt_irrefl _)⟩
    simpa using List.find?_eq_none.1 hk i (List.mem_range.2 hi)
  | some k =>
    obtain ⟨hbit, hmem, hmin⟩ := List.find?_range_eq_some.1 hk
    exact ⟨k, (List.mem_range.1 hmem).le, by rw [trailingZeros, hk]; rfl, fun i hi => by simpa using hmin i hi, fun _ => hbit⟩

theorem oneBits_value (x : Word) : oneBits x = .ofNat 64 ((List.range 64).countP fun i => x.getLsbD i) := by
  rw [oneBits, List.countP_eq_length_filter]

/-- Settles O7: each word reads its sources and writes one value; the values are those of the number system. -/
theorem aluWordResults : Obligations.AluWordResults := by
  unfold Obligations.AluWordResults
  refine ⟨?two, ?one⟩
  case two =>
    intro s d a b ha hb hd x y gives
    have two {i : Instr} {lat : Nat} {v : Word} (f : Word → Word → Word) (h : exec i s = rrWord d a b lat f s) (hv : f x y = v) : gives i lat v :=
      exec_rrWord h ha hb hd hv
    refine ⟨two (· + ·) rfl rfl, two (· - ·) rfl rfl, two (· &&& ·) rfl rfl, two (· ||| ·) rfl rfl, two (· ^^^ ·) rfl rfl,
      two (fun x y => x &&& ~~~y) rfl rfl, two (fun x y => x <<< (y.toNat % 64)) rfl (shift_value ..),
      two (fun x y => x >>> (y.toNat % 64)) rfl (shr_value ..), two (fun x y => x.sshiftRight (y.toNat % 64)) rfl (sra_value ..),
      two (fun x y => truth (x.slt y)) rfl (truth_slt ..), two (fun x y => truth (x.ult y)) rfl (truth_ult ..),
      two (fun x y => truth (x == y)) rfl (truth_beq ..), two minS rfl (minS_value ..), two maxS rfl (maxS_value ..),
      two minU rfl (minU_value ..), two maxU rfl (maxU_value ..), two (· * ·) rfl (mul_value ..), two mulHigh rfl rfl, two mulHighN rfl rfl,
      two (fun x y => low32 (x + y)) rfl rfl, two (fun x y => low32 (x - y)) rfl rfl, fun c hc => ?_⟩
    exact congrArg Outcome.next (scalarWord_next (by simp [ha, hb, hc]) hd)
  case one =>
    intro s d a ha hd x done
    obtain ⟨n, hn, hclz, hlt, hle⟩ := leadingZeros_value x
    obtain ⟨m, hm, hctz, hzero, hone⟩ := trailingZeros_value x
    exact ⟨⟨n, hn, exec_rWord (f := leadingZeros) rfl ha hd hclz, hlt, hle⟩, ⟨m, hm, exec_rWord (f := trailingZeros) rfl ha hd hctz, hzero, hone⟩,
      exec_rWord (f := oneBits) rfl ha hd (oneBits_value x)⟩

/-! ### Division and immediates (04 R100, R101) -/

theorem remS_value {x y : Word} (h : y ≠ 0) : remS x y = .ofInt 64 (x.toInt - x.toInt.tdiv y.toInt * y.toInt) := by
  rw [remS, if_neg h, Int.tmod_def, mul_comm]

theorem remU_value {x y : Word} (h : y ≠ 0) : remU x y = .ofNat 64 (x.toNat - x.toNat / y.toNat * y.toNat) := by
  rw [remU, if_neg h, Nat.mod_eq_sub_div_mul]

/-- The one quotient that no word holds wraps to the dividend, and its remainder is 0 (04 R100). -/
theorem div_overflow {x y : Word} (hx : x.toInt = -2 ^ 63) (hy : y.toInt = -1) : divS x y = .ofInt 64 (-2 ^ 63) ∧ remS x y = 0 := by
  have hne : y ≠ 0 := by rintro rfl; exact absurd hy (by decide)
  rw [divS, remS, if_neg hne, if_neg hne, hx, hy]
  decide

theorem lui_value (imm : BitVec 16) : zextImm imm <<< 16 = .ofNat 64 (imm.toNat * 2 ^ 16) := by
  rw [shift_value, zextImm, BitVec.toNat_setWidth_of_le (by decide)]

theorem orImm_value (x : Word) (imm : BitVec 16) (n : Nat) : x ||| (zextImm imm <<< n) = x ||| .ofNat 64 (imm.toNat * 2 ^ n) := by
  rw [shift_value, zextImm, BitVec.toNat_setWidth_of_le (by decide)]

theorem toInt_sextImm (imm : BitVec 16) : (sextImm imm).toInt = imm.toInt := BitVec.toInt_signExtend_of_le (by decide)

/-- Settles O8: a divide whose divider is free writes its fixed function of the operands. -/
theorem divideResults : Obligations.DivideResults := by
  unfold Obligations.DivideResults
  intro s d a b ha hb hd hfree x y now gives overflows
  have word {i : Instr} {v : Word} (f : Word → Word → Word) (h : exec i s = divWord d a b f s) (hv : f x y = v) : gives i v :=
    exec_divWord h ha hb hd hfree hv
  refine ⟨fun h0 => ⟨word divS rfl ?_, word divU rfl ?_, word remS rfl ?_, word remU rfl ?_⟩,
    fun _ ⟨hx, hy⟩ => ⟨word divS rfl (div_overflow hx hy).1, word remS rfl (div_overflow hx hy).2⟩,
    fun hy _ => ⟨word divS rfl (if_neg hy), word remS rfl (remS_value hy)⟩,
    fun hy => ⟨word divU rfl (if_neg hy), word remU rfl (remU_value hy)⟩⟩
  all_goals exact if_pos h0

/-- Settles O9: each word reads at most one register and writes one value. -/
theorem immediateWordResults : Obligations.ImmediateWordResults := by
  unfold Obligations.ImmediateWordResults
  intro s d a imm k hd gives sx zx
  refine ⟨?lui, fun ha => ?one⟩
  case lui => exact congrArg Outcome.next ((scalarWord_next (by simp) hd).trans (by rw [lui_value]))
  case one =>
    intro x
    have one {i : Instr} {lat : Nat} {v : Word} (f : Word → Word) (h : exec i s = rWord d a lat f s) (hv : f x = v) : gives i lat v :=
      exec_rWord h ha hd hv
    refine ⟨one (· + sx) rfl rfl, one (· &&& zx) rfl rfl, one (· ||| zx) rfl rfl, one (· ^^^ zx) rfl rfl,
      one (· <<< k.toNat) rfl (shift_value ..), one (· >>> k.toNat) rfl (shr_value ..), one (·.sshiftRight k.toNat) rfl (sra_value ..),
      one (fun x => truth (x.slt sx)) rfl ?slti, one (fun x => truth (x.ult sx)) rfl (truth_ult ..),
      one (· ||| (zextImm imm <<< 32)) rfl (orImm_value ..), one (· ||| (zextImm imm <<< 48)) rfl (orImm_value ..),
      one (· * sx) rfl ?muli⟩
    case slti => exact (truth_slt x (sextImm imm)).trans (by rw [toInt_sextImm])
    case muli => exact (mul_value x (sextImm imm)).trans (by rw [toInt_sextImm])

end Sys2Proof.Machine

/-! # Branches, loops and delay slots (04 R103 to R105, R108, R110) -/

namespace Sys2Proof.Machine

open Host (Outcome)

/-! ## Comparisons -/

theorem slt_eq_decide (x y : Word) : x.slt y = decide (x.toInt < y.toInt) := rfl

theorem ult_eq_decide (x y : Word) : x.ult y = decide (x.toNat < y.toNat) := rfl

theorem bne_eq_decide_ne (x y : Word) : (x != y) = decide (x ≠ y) := by rw [decide_not, bne, beq_eq_decide]

section Transfers

variable {s : State} {i : Instr} {a b : BitVec 5} {disp : BitVec 16}

/-- A branch whose checks pass, its target asked for only where it is taken (04 R104, R107). -/
theorem exec_branch {taken : Word → Word → Bool} {p : Prop} [Decidable p] (h : exec i s = branch a b disp taken s)
    (hf : freeMode s) (ho : outsideSlots s) (ha : readableS s a) (hb : readableS s b) (hp : taken (getS (myCtx s) a) (getS (myCtx s) b) = decide p)
    (ht : p → targetInside s (wordTarget (myCtx s).pc disp.toInt)) :
    exec i s = .next (transferDone (decide p) (wordTarget (myCtx s).pc disp.toInt) id s) := by
  have hin : decide p = true → (myCtx s).code.inBounds (wordTarget (myCtx s).pc disp.toInt).toNat 4 = true := fun h => ht (of_decide_eq_true h)
  rw [h, branch, hp, transfer_next (branchChecks_none hf ho ha hb) hin]

/-- A counted loop whose checks pass (04 R105). -/
theorem execLoop_next (ho : outsideSlots s) (ha : readableS s a)
    (ht : loopCount (getS (myCtx s) a) ≠ 0 → targetInside s (wordTarget (myCtx s).pc disp.toInt)) :
    exec (.loop a disp) s = .next (transferDone (loopCount (getS (myCtx s) a) != 0) (wordTarget (myCtx s).pc disp.toInt)
      (if getS (myCtx s) a = 0 then id else putS (mySite s).now 1 a (loopCount (getS (myCtx s) a))) s) := by
  refine congrArg Outcome.next (transfer_next ?checks fun h => ht (by simpa using h))
  case checks => simp [slotHit_none ho, readS_none ha, writeS_none (settledS_of_readable ha), firstHit]

/-- A loop whose counter reads 0 goes on to the next word and writes nothing (04 R105). -/
theorem execLoop_zero (ho : outsideSlots s) (ha : readableS s a) (hv : getS (myCtx s) a = 0) :
    exec (.loop a disp) s = .next (transferDone false (wordTarget (myCtx s).pc disp.toInt) id s) := by
  have h0 : loopCount (getS (myCtx s) a) = 0 := if_pos hv
  rw [execLoop_next ho ha fun h => absurd h0 h, h0, if_pos hv]
  rfl

/-- Any other counter counts down, and the loop is taken while it is not 0 (04 R105). -/
theorem execLoop_counts (ho : outsideSlots s) (ha : readableS s a) (hv : getS (myCtx s) a ≠ 0)
    (ht : getS (myCtx s) a - 1 ≠ 0 → targetInside s (wordTarget (myCtx s).pc disp.toInt)) :
    exec (.loop a disp) s = .next (transferDone (decide (getS (myCtx s) a - 1 ≠ 0)) (wordTarget (myCtx s).pc disp.toInt)
      (putS (mySite s).now 1 a (getS (myCtx s) a - 1)) s) := by
  have hc : loopCount (getS (myCtx s) a) = getS (myCtx s) a - 1 := if_neg hv
  rw [execLoop_next ho ha (hc.symm ▸ ht), hc, if_neg hv, bne_eq_decide_ne]

end Transfers

/-- Settles O10: a branch is one form of transfer, whose condition is a comparison of its registers. -/
theorem branchResults : Obligations.BranchResults := by
  unfold Obligations.BranchResults
  intro s a b disp hf ho ha hb x y target goes
  have goesBy {i : Instr} {p : Prop} [Decidable p] (taken : Word → Word → Bool) (h : exec i s = branch a b disp taken s)
      (hp : taken x y = decide p) : goes i p :=
    exec_branch h hf ho ha hb hp
  refine ⟨goesBy (· == ·) rfl ?beq, goesBy (· != ·) rfl ?bne, goesBy BitVec.slt rfl (slt_eq_decide ..),
    goesBy (fun x y => !x.slt y) rfl ?bge, goesBy BitVec.ult rfl (ult_eq_decide ..), goesBy (fun x y => !x.ult y) rfl ?bgen⟩
  case beq => exact beq_eq_decide ..
  case bne => exact bne_eq_decide_ne ..
  case bge => simp [slt_eq_decide, ← decide_not]
  case bgen => simp [ult_eq_decide, ← decide_not]

/-- Settles O11: by whether the counter reads 0, as s0 always does. -/
theorem loopResult : Obligations.LoopResult := by
  unfold Obligations.LoopResult
  intro s a disp ho ha v target
  refine ⟨execLoop_zero ho ha, execLoop_counts ho ha, fun h0 => ?zero, ?word⟩
  case zero =>
    have hv : v = 0 := by subst h0; rfl
    exact ⟨hv, execLoop_zero ho ha hv⟩
  case word => exact congrArg (fun w => some (32, w)) (by unfold encRI; omega : encRI 0x16 a.toNat 0 disp.toNat = _)

/-! ## Delay slots (04 R103, R108) -/

section DelaySlots

variable {s : State}

theorem myCtx_transferDone (taken : Bool) (target : Word) (f : Ctx → Ctx) (s : State) :
    myCtx (transferDone taken target f s) = ccIssue (mySite s).now 1 (transferPc taken target (f (myCtx s))) := myCtx_modMyCtx ..

/-- The first slot's word leads to the second (04 R103). -/
theorem advancePc_first {x : Ctx} (h : x.slots = 2) : (advancePc x).pc = x.pc + 4 ∧ (advancePc x).npc = x.npc ∧ (advancePc x).slots = 1 := by
  simp [advancePc, h]

/-- The second slot's word leads to the target or to the word after the slots (04 R103). -/
theorem advancePc_second {x : Ctx} (h : x.slots = 1) : (advancePc x).pc = x.npc ∧ (advancePc x).slots = 0 := by
  simp [advancePc, h]

theorem slotHit_inside (h : (myCtx s).slots ≠ 0) : slotHit (myCtx s) = some (.trap 1 0x0700) := by
  rw [slotHit, bne_iff_ne.2 h, hitIf_true]

/-- A transfer whose first check is that of the delay slots traps in one. -/
theorem transfer_inSlot {hits : List (Option Hit)} {taken : Bool} {target : Word} {f : Ctx → Ctx} (h : (myCtx s).slots ≠ 0) :
    transfer (slotHit (myCtx s) :: hits) taken target f s = takeTrap false 1 0x0700 false s :=
  transfer_stop (e := .trap 1 0x0700) (by rw [slotHit_inside h]; rfl)

theorem execGate_inSlot (p : Bool) (h : (myCtx s).slots ≠ 0) : exec (.gate p) s = .next (takeTrap false 1 0x0700 false s) := by
  show execGate p s = _
  unfold execGate
  dsimp only
  split
  · rw [ccWord_stop (e := .trap 1 0x0700) (by rw [slotHit_inside h]; rfl)]; rfl
  · simp only [slotHit_inside h, firstHit]; rfl

theorem execEret_inSlot (h : (myCtx s).slots ≠ 0) : exec .eret s = .next (takeTrap false 1 0x0700 false s) := by
  show execEret s = _
  simp only [execEret, slotHit_inside h, firstHit]
  rfl

end DelaySlots

/-- Settles O13: the program counter of the two words after a transfer, and the first check of each word that no slot may hold. -/
theorem delaySlotRules : Obligations.DelaySlotRules := by
  unfold Obligations.DelaySlotRules
  refine ⟨?follow, ?traps⟩
  case follow =>
    intro s taken target f g h hkeeps t t1 t2
    have ht : myCtx t = _ := myCtx_transferDone taken target f s
    have ht1 : myCtx t1 = _ := myCtx_wordDone g t
    have ht2 : myCtx t2 = _ := myCtx_wordDone h t1
    obtain ⟨hf, -⟩ := hkeeps (myCtx s)
    obtain ⟨-, hg, hgn, hgs, -⟩ := hkeeps (myCtx t)
    obtain ⟨-, -, -, -, -, hhn, hhs⟩ := hkeeps (myCtx t1)
    have hslots : (myCtx t).slots = 2 := by rw [ht]; rfl
    have hpc : (myCtx t).pc = (myCtx s).pc + 4 := by rw [ht, ← hf]; rfl
    have hnpc : (myCtx t).npc = if taken then target else (myCtx s).pc + 12 := by rw [ht, ← hf]; rfl
    obtain ⟨hpc1, hnpc1, hslots1⟩ := advancePc_first (hgs.trans hslots)
    have hslots1' : (myCtx t1).slots = 1 := by rw [ht1, ccIssue_slots, hslots1]
    have hnpc1' : (myCtx t1).npc = (myCtx t).npc := by rw [ht1, ccIssue_npc, hnpc1, hgn]
    obtain ⟨hpc2, hslots2⟩ := advancePc_second (hhs.trans hslots1')
    refine ⟨hpc, ?_, ?_, ?_⟩
    · rw [ht1, ccIssue_pc, hpc1, hg, hpc, BitVec.add_assoc]; rfl
    · rw [ht2, ccIssue_pc, hpc2, hhn, hnpc1', hnpc]
    · rw [ht2, ccIssue_slots, hslots2]
  case traps =>
    intro s a b c disp far p h traps
    have stops {i : Instr} (hits : List (Option Hit)) (taken : Bool) (target : Word) (f : Ctx → Ctx)
        (hi : exec i s = .next (transfer (slotHit (myCtx s) :: hits) taken target f s)) : traps i :=
      hi.trans (congrArg Outcome.next (transfer_inSlot h))
    exact ⟨stops _ _ _ _ rfl, stops _ _ _ _ rfl, stops _ _ _ _ rfl, stops _ _ _ _ rfl, stops _ _ _ _ rfl, stops _ _ _ _ rfl,
      stops _ _ _ _ rfl, stops _ _ _ _ rfl, stops _ _ _ _ rfl, stops _ _ _ _ rfl, stops _ _ _ _ rfl, stops _ _ _ _ rfl,
      execGate_inSlot p h, execEret_inSlot h⟩

end Sys2Proof.Machine

/-! # Loads and stores as they issue (04 R111 to R115) -/

namespace Sys2Proof.Machine

open Host (Outcome)

/-! ## What a translation changes (14 R345, 15 R372) -/

section Observed

/-- The states differ in nothing that a program computes with: in counters of cores, dies and functions, cached translations and draws. -/
structure ObservedOnly (s t : State) : Prop where
  mem : t.mem = s.mem
  host : t.host = s.host
  cur : t.cur = s.cur
  rinks : t.rinks = s.rinks
  atomics : t.atomics = s.atomics
  site : ∀ k, ∃ o l, site k t = { site k s with obs := o, tlb := l }

variable {s t u : State}

theorem ObservedOnly.refl (s : State) : ObservedOnly s s := ⟨rfl, rfl, rfl, rfl, rfl, fun k => ⟨(Machine.site k s).obs, (Machine.site k s).tlb, rfl⟩⟩

theorem ObservedOnly.trans (h : ObservedOnly s t) (h' : ObservedOnly t u) : ObservedOnly s u where
  mem := h'.mem.trans h.mem
  host := h'.host.trans h.host
  cur := h'.cur.trans h.cur
  rinks := h'.rinks.trans h.rinks
  atomics := h'.atomics.trans h.atomics
  site k := by
    obtain ⟨o, l, hu⟩ := h'.site k
    obtain ⟨_, _, ht⟩ := h.site k
    exact ⟨o, l, by rw [hu, ht]⟩

theorem CountsOnly.observed (h : CountsOnly s t) : ObservedOnly s t := by
  rw [show t = { s with dies := t.dies } from h]
  exact ⟨rfl, rfl, rfl, rfl, rfl, fun k => ⟨(Machine.site k s).obs, (Machine.site k s).tlb, rfl⟩⟩

theorem observedOnly_fresh (n : Nat) : ObservedOnly s { s with fresh := n } :=
  ⟨rfl, rfl, rfl, rfl, rfl, fun k => ⟨(Machine.site k s).obs, (Machine.site k s).tlb, rfl⟩⟩

theorem observedOnly_modSite {f : Site → Site} (h : ∀ c, ∃ o l, f c = { c with obs := o, tlb := l }) (k : Nat) : ObservedOnly s (modSite k f s) where
  mem := rfl
  host := rfl
  cur := rfl
  rinks := rfl
  atomics := rfl
  site j := by
    by_cases hj : j = k
    · subst hj; rw [site_modSite_same]; exact h _
    · rw [site_modSite_ne hj]; exact ⟨_, _, rfl⟩

theorem observedOnly_countEvent (live : Nat → Bool) (r code n k : Nat) : ObservedOnly s (modSite k (countEvent live r code n) s) :=
  observedOnly_modSite (fun c => ⟨_, c.tlb, rfl⟩) k

theorem observedOnly_elasticTraffic (k r : Nat) : ObservedOnly s (elasticTraffic k r s) := by
  unfold elasticTraffic
  dsimp only [freshWord]
  split
  · exact .refl s
  · exact ((observedOnly_fresh _).trans (countShared_countsOnly ..).observed).trans (observedOnly_countEvent ..)

theorem observedOnly_walkCC (r space va : Nat) (writes : Bool) : ObservedOnly s (walkCC s r space va writes).2 := by
  have hc := (countWalk_countsOnly r space va s).observed
  unfold walkCC
  split
  · exact .refl s
  · exact hc
  · exact hc.trans (observedOnly_modSite (fun c => ⟨c.obs, _, rfl⟩) _)

theorem observedOnly_translateCC (r space va : Nat) (writes : Bool) : ObservedOnly s (translateCC s r space va writes).2 := by
  unfold translateCC
  split
  · exact observedOnly_walkCC ..
  · dsimp only [freshBool]
    split
    · exact (observedOnly_fresh _).trans (observedOnly_walkCC ..)
    · split <;> exact observedOnly_fresh _

theorem observedOnly_resolve (r space va n : Nat) (ld st : Bool) : ObservedOnly s (resolve r space va n ld st s).2 := by
  have ht := observedOnly_translateCC (s := s) r space va st
  unfold resolve
  split
  iterate 2
    split
    · exact .refl s
    · dsimp only; split <;> exact .refl s
  · split <;> exact .refl s
  · split <;> exact .refl s
  · split
    · next heq => rw [heq] at ht; exact ht
    · next heq => rw [heq] at ht; exact ht

/-- The state after a resolution, under the name a premise gives it. -/
theorem ObservedOnly.of_resolve {r space va n : Nat} {ld st : Bool} {e : Except Hit Target} (h : resolve r space va n ld st s = (e, t)) :
    ObservedOnly s t := by
  have := observedOnly_resolve (s := s) r space va n ld st
  rwa [h] at this

variable (h : ObservedOnly s t)
include h

theorem ObservedOnly.mySite : ∃ o l, mySite t = { mySite s with obs := o, tlb := l } := by
  unfold Machine.mySite; rw [h.cur]; exact h.site _

theorem ObservedOnly.ctxOf (k : Nat) (x : Side) : ctxOf (Machine.site k t) x = ctxOf (Machine.site k s) x := by
  obtain ⟨o, l, hk⟩ := h.site k
  rw [hk]; rfl

theorem ObservedOnly.myCtx : myCtx t = myCtx s := by
  unfold Machine.myCtx Machine.mySite; rw [h.cur]; exact h.ctxOf _ _

theorem ObservedOnly.now : (Machine.mySite t).now = (Machine.mySite s).now := by
  obtain ⟨o, l, hk⟩ := h.mySite
  rw [hk]

theorem ObservedOnly.memoryKept : MemoryKept s t where
  mem a := by rw [h.mem]
  host a := by rw [h.host]
  tm k a := by
    obtain ⟨o, l, hk⟩ := h.site k
    rw [hk]
  tiles k n a := by
    obtain ⟨o, l, hk⟩ := h.site k
    rw [hk]

end Observed

theorem MemoryKept.trans {s t u : State} (h : MemoryKept s t) (h' : MemoryKept t u) : MemoryKept s u where
  mem a := (h'.mem a).trans (h.mem a)
  host a := (h'.host a).trans (h.host a)
  tm k a := (h'.tm k a).trans (h.tm k a)
  tiles k n a := (h'.tiles k n a).trans (h.tiles k n a)

/-! ## The checks of R111 -/

section Checks

variable {s : State} {regs : List (Option Hit)} {c : Cap} {va n : Nat} {m : Mem1} {ld st stc : Bool}

theorem capHits_none (h : accessAllowed s c va n ld st) (hstc : stc = true → c.hasSTC = true) :
    firstHit (capHits (myCtx s).ctl.timetabled c va n ld st stc) = none := by
  obtain ⟨htag, hspace, hld, hst, hsys, hin, halign⟩ := h
  have hs : spaceHit (myCtx s).ctl.timetabled c.space = none := by
    rcases hspace with h | h | h
    · simp [spaceHit, show (myCtx s).ctl.timetabled = false from h]
    · simp [spaceHit, h]
    · simp [spaceHit, h]
  have hp : ((ld && !c.hasLD) || (st && !c.hasST) || (stc && !c.hasSTC) || (c.space == 6 && (!c.hasSYS || n != 8))) = false := by
    simp only [Bool.or_eq_false_iff, Bool.and_eq_false_imp, Bool.not_eq_false', beq_iff_eq, bne_eq_false_iff_eq]
    exact ⟨⟨⟨hld, hst⟩, hstc⟩, hsys⟩
  simp [capHits, htag, hs, hp, hin, halign, firstHit]

theorem firstHit_hitIf (b : Bool) (h : Hit) (l : List (Option Hit)) : firstHit (hitIf b h :: l) = if b then some h else firstHit l := by
  cases b <;> rfl

/-- The checks of a data load or store, in their order (04 R111, R112). -/
theorem firstHit_capHits (timed : Bool) (c : Cap) (va n : Nat) (ld : Bool) : firstHit (capHits timed c va n ld (!ld) false) =
    if c.tag = false then some (.trap 0x04 0)
    else if timed = true ∧ c.space ≠ 2 ∧ c.space ≠ 3 then some (.trap 0x0E 0)
    else if ¬((if ld then c.hasLD else c.hasST) = true ∧ (c.space = 6 → c.hasSYS = true ∧ n = 8)) then some (.trap 0x06 0)
    else if c.inBounds va n = false then some (.trap 0x05 0)
    else if va % n ≠ 0 then some (.trap 0x07 0) else none := by
  have hspace : (timed && c.space != 2 && c.space != 3) = decide (timed = true ∧ c.space ≠ 2 ∧ c.space ≠ 3) := by
    rw [Bool.eq_iff_iff]
    simp [and_assoc]
  have hperm : ((ld && !c.hasLD) || (!ld && !c.hasST) || (false && !c.hasSTC) || (c.space == 6 && (!c.hasSYS || n != 8))) =
      decide ¬((if ld then c.hasLD else c.hasST) = true ∧ (c.space = 6 → c.hasSYS = true ∧ n = 8)) := by
    rw [Bool.eq_iff_iff]
    cases ld <;> simp [Classical.or_iff_not_imp_left]
  simp only [capHits, spaceHit, firstHit_hitIf, hspace, hperm, Bool.not_eq_true', decide_eq_true_eq, bne_iff_ne, firstHit]

theorem memWord_stop {e : Hit} (hregs : firstHit regs = none)
    (h : firstHit (capHits (myCtx s).ctl.timetabled c va m.len (!m.store) m.store stc) = some e) :
    memWord regs c va m stc s = ccStop e s := by
  simp only [memWord, firstHit_append hregs, h]

end Checks

/-- The register checks of a data load pass. -/
theorem loadRegs_none {s : State} {cap : BitVec 4} {d : BitVec 5} {lat : Nat} (hc : readableA s cap) (hd : settledS s d) :
    firstHit [readA (mySite s).now (myCtx s) cap, writeS (mySite s).now lat (myCtx s) d] = none := by
  rw [readA_none hc, writeS_none hd]; rfl

/-- The register checks of a data store pass. -/
theorem storeRegs_none {s : State} {cap : BitVec 4} {d : BitVec 5} (hc : readableA s cap) (hd : readableS s d) :
    firstHit [readA (mySite s).now (myCtx s) cap, readS (mySite s).now (myCtx s) d] = none := by
  rw [readA_none hc, readS_none hd]; rfl

/-- A word that is a load (`ld`) or a store of `n` bytes through `c`, whose registers may be read and written. -/
def IsDataWord (s : State) (c : Cap) (off : BitVec 14) (i : Instr) (n : Nat) (ld : Bool) : Prop :=
  ∃ regs m, exec i s = .next (memWord regs c (memAddr c off n) m false s) ∧ firstHit regs = none ∧ m.len = n ∧ m.store = !ld

section DataWords

variable {s : State} {i : Instr} {c : Cap} {off : BitVec 14} {n : Nat} {ld : Bool} {cap : BitVec 4} {d : BitVec 5}

theorem isDataWord_load {kind : LoadKind} (h : exec i s = loadWord d cap off n kind s) (hc : readableA s cap) (hd : settledS s d) :
    IsDataWord s (getA (myCtx s) cap) off i n true :=
  ⟨_, _, h, loadRegs_none hc hd, rfl, rfl⟩

theorem isDataWord_store (h : exec i s = storeWord d cap off n s) (hc : readableA s cap) (hd : readableS s d) :
    IsDataWord s (getA (myCtx s) cap) off i n false :=
  ⟨_, _, h, storeRegs_none hc hd, rfl, rfl⟩

theorem IsDataWord.traps (h : IsDataWord s c off i n ld) {code : Nat}
    (hc : firstHit (capHits (myCtx s).ctl.timetabled c (memAddr c off n) n ld (!ld) false) = some (.trap code 0)) :
    exec i s = .next (takeTrap false code 0 false s) := by
  obtain ⟨regs, m, hi, hregs, hlen, hst⟩ := h
  refine hi.trans (congrArg Outcome.next (memWord_stop (e := .trap code 0) hregs ?_))
  rw [hlen, hst, Bool.not_not, hc]

end DataWords

/-- Settles O20: the words differ in their registers, size and direction; which trap is raised is the first failing check of one list. -/
theorem accessChecksInOrder : Obligations.AccessChecksInOrder := by
  unfold Obligations.AccessChecksInOrder
  intro s d cap off hc hd c timed traps p hp n va spaceOk permitted
  have word : IsDataWord s c off p.1 p.2.1 p.2.2 := by
    have hd' := settledS_of_readable hd
    revert p
    simp only [List.forall_mem_cons]
    exact ⟨isDataWord_load rfl hc hd', isDataWord_load rfl hc hd', isDataWord_load rfl hc hd', isDataWord_load rfl hc hd',
      isDataWord_load rfl hc hd', isDataWord_load rfl hc hd', isDataWord_load rfl hc hd', isDataWord_store rfl hc hd,
      isDataWord_store rfl hc hd, isDataWord_store rfl hc hd, isDataWord_store rfl hc hd, by simp⟩
  refine ⟨fun htag => word.traps ?_, fun htag hs => word.traps ?_, fun htag hs hp => word.traps ?_, fun htag hs hp hin => word.traps ?_,
    fun htag hs hp hin halign => word.traps ?_⟩
  all_goals rw [firstHit_capHits]
  · rw [if_pos htag]
  · rw [if_neg (by simp [htag]), if_pos (not_not.1 hs)]
  · rw [if_neg (by simp [htag]), if_neg hs, if_pos hp]
  · rw [if_neg (by simp [htag]), if_neg hs, if_neg (not_not.2 hp), if_pos hin]
  · rw [if_neg (by simp [htag]), if_neg hs, if_neg (not_not.2 hp), if_neg (by simpa using hin), if_pos halign]

end Sys2Proof.Machine

/-! # Buffered loads and stores (04 R111, R113, R114) -/

namespace Sys2Proof.Machine

open Host (Outcome)

def withLoad (a : Access) (x : Ctx) : Ctx := { x with buf := { x.buf with count := x.buf.count + 1, loads := x.buf.loads ++ [a] } }

def withStore (a : Access) (x : Ctx) : Ctx := { x with buf := { x.buf with count := x.buf.count + 1, stores := x.buf.stores ++ [a] } }

/-- The context after a free access has entered its buffer; a load's register is then pending (04 R96, R114). -/
def enterBuffer (m : Mem1) (a : Access) (x : Ctx) : Ctx := if m.store then withStore a x else setPending m.kind m.dst true (withLoad a x)

theorem ObservedOnly.ite {s t u : State} {p : Prop} [Decidable p] (ht : ObservedOnly s t) (hu : ObservedOnly s u) :
    ObservedOnly s (if p then t else u) := by split <;> assumption

theorem getLsbD_setBit_true {n i : Nat} (h : i < n) (w : BitVec n) : (setBit w i true).getLsbD i = true := by
  simp [setBit, h]

section FreeAccess

variable {s s' : State} {c : Cap} {va : Nat} {m : Mem1} {t : Target}

/-- There is room in the buffer of the access (04 R114). -/
def bufferRoom (m : Mem1) (x : Ctx) : Prop := if m.store then x.buf.stores.length < 16 else x.buf.loads.length < 8

theorem issueFree_enters {space : Nat} (hroom : bufferRoom m (myCtx s)) : ∃ w a, ObservedOnly s w ∧
    issueFree m space va t s = modMyCtx (fun x => ccIssue (mySite s).now 1 (advancePc (enterBuffer m a x))) w ∧
    a.space = space ∧ a.va = va ∧ a.target = t ∧ a.len = m.len ∧ a.kind = m.kind ∧ a.dst = m.dst ∧ a.data = m.data ∧ a.tag = m.tag ∧
    a.epoch = (myCtx s).buf.epoch ∧ a.order = (myCtx s).buf.count := by
  have hfull : (if m.store then decide (16 ≤ (myCtx s).buf.stores.length) else decide (8 ≤ (myCtx s).buf.loads.length)) = false := by
    unfold bufferRoom at hroom
    cases hst : m.store <;> simp only [hst, Bool.false_eq_true, if_true, if_false] at hroom ⊢ <;> exact decide_eq_false (by omega)
  unfold issueFree
  simp only [hfull, Bool.false_eq_true, if_false]
  refine ⟨_, _, ?frame, rfl, rfl, rfl, rfl, rfl, rfl, rfl, rfl, rfl, rfl, rfl⟩
  case frame => exact (observedOnly_elasticTraffic ..).ite (observedOnly_countEvent ..)

/-- A free access whose checks pass enters its buffer (04 R111, R114). -/
theorem memWord_enters {regs : List (Option Hit)} {stc : Bool} (hregs : firstHit regs = none) (hfree : freeMode s)
    (ha : accessAllowed s c va m.len (!m.store) m.store) (hstc : stc = true → c.hasSTC = true)
    (hr : resolve (myRink s) c.space va m.len (!m.store) m.store s = (.ok t, s')) (hroom : bufferRoom m (myCtx s)) :
    ∃ w a, ObservedOnly s w ∧ memWord regs c va m stc s = modMyCtx (fun x => ccIssue (mySite s).now 1 (advancePc (enterBuffer m a x))) w ∧
      entersAs s a c va m.len t m.kind ∧ a.dst = m.dst ∧ a.data = m.data ∧ a.tag = m.tag := by
  have ho : ObservedOnly s s' := .of_resolve hr
  have hchecks : firstHit (regs ++ capHits (myCtx s).ctl.timetabled c va m.len (!m.store) m.store stc) = none := by
    rw [firstHit_append hregs, capHits_none ha hstc]
  obtain ⟨w, a, hw, hi, hspace, hva, ht, hlen, hkind, hdst, hdata, htag, hepoch, horder⟩ :=
    issueFree_enters (s := s') (va := va) (t := t) (space := c.space) (by rwa [ho.myCtx] : bufferRoom m (myCtx s'))
  refine ⟨w, a, ho.trans hw, ?_, ⟨hspace, hva, ht, hlen, hkind, ?_, ?_⟩, hdst, hdata, htag⟩
  · rw [← ho.now, ← hi]
    have hmode : (myCtx s).ctl.timetabled = false := hfree
    rw [hmode] at hchecks
    simp only [memWord, hmode, hchecks, hr]
  · rw [hepoch, ho.myCtx]
  · rw [horder, ho.myCtx]

variable {w : State} {a : Access}

theorem myCtx_entered (h : ObservedOnly s w) : myCtx (modMyCtx (fun x => ccIssue (mySite s).now 1 (advancePc (enterBuffer m a x))) w) =
    ccIssue (mySite s).now 1 (advancePc (enterBuffer m a (myCtx s))) := by
  rw [myCtx_modMyCtx, h.myCtx]

theorem memoryKept_entered (f : Ctx → Ctx) (h : ObservedOnly s w) : MemoryKept s (modMyCtx f w) := h.memoryKept.trans (memoryKept_modMyCtx f w)

/-- A pending register is marked so, and nothing else of the context differs. -/
theorem setPending_keeps (kind : LoadKind) (dst : Nat) (b : Bool) (x : Ctx) : (setPending kind dst b x).buf = x.buf ∧
    (setPending kind dst b x).s = x.s ∧ (setPending kind dst b x).a = x.a ∧ (setPending kind dst b x).pc = x.pc ∧
    (setPending kind dst b x).slots = x.slots := by
  unfold setPending
  split
  · exact ⟨rfl, rfl, rfl, rfl, rfl⟩
  · split <;> exact ⟨rfl, rfl, rfl, rfl, rfl⟩

theorem setPending_scalar {kind : LoadKind} (hk : kind ≠ .capability) {dst : Nat} (h0 : dst ≠ 0) (b : Bool) (x : Ctx) :
    setPending kind dst b x = { x with sElastic := setBit x.sElastic dst b } := by
  unfold setPending
  split
  · exact absurd rfl hk
  · rw [if_neg h0]

/-- A load whose checks pass waits in the load buffer, its register pending (04 R96, R111, R114). -/
theorem load_enters {i : Instr} {regs : List (Option Hit)} {n dst : Nat} {kind : LoadKind} {ldc : Bool} {pending : Ctx → Prop}
    (hi : exec i s = .next (memWord regs c va ⟨false, n, kind, ldc, dst, [], false⟩ false s)) (hregs : firstHit regs = none)
    (hfree : freeMode s) (hroom : (myCtx s).buf.loads.length < 8)
    (hp : ∀ x, pending (ccIssue (mySite s).now 1 (advancePc (setPending kind dst true x))))
    (ha : accessAllowed s c va n true false) (hr : resolve (myRink s) c.space va n true false s = (.ok t, s')) :
    ∃ u a, exec i s = .next u ∧ (myCtx u).buf.loads = (myCtx s).buf.loads ++ [a] ∧ entersAs s a c va n t kind ∧ a.dst = dst ∧
      (myCtx u).buf.stores = (myCtx s).buf.stores ∧ pending (myCtx u) ∧ (myCtx u).s = (myCtx s).s ∧ (myCtx u).a = (myCtx s).a ∧
      (outsideSlots s → (myCtx u).pc = (myCtx s).pc + 4) ∧ MemoryKept s u := by
  obtain ⟨w, a, hw, hm, he, hdst, -, -⟩ := memWord_enters (m := ⟨false, n, kind, ldc, dst, [], false⟩) (stc := false) hregs hfree ha nofun hr
    hroom
  obtain ⟨hbuf, hs, hcaps, hpc, hslots⟩ := setPending_keeps kind dst true (withLoad a (myCtx s))
  have hctx := (myCtx_entered (m := ⟨false, n, kind, ldc, dst, [], false⟩) (a := a) hw).trans
    (show _ = ccIssue (mySite s).now 1 (advancePc (setPending kind dst true (withLoad a (myCtx s)))) from rfl)
  refine ⟨_, a, hi.trans (congrArg Outcome.next hm), ?_, he, hdst, ?_, ?_, ?_, ?_, fun ho => ?_, memoryKept_entered _ hw⟩
  all_goals rw [hctx]
  · rw [ccIssue_buf, advancePc_buf]; exact congrArg Buffers.loads hbuf
  · rw [ccIssue_buf, advancePc_buf]; exact (congrArg Buffers.stores hbuf).trans rfl
  · exact hp _
  · rw [ccIssue_s, advancePc_s]; exact hs
  · rw [ccIssue_a, advancePc_a]; exact hcaps
  · rw [ccIssue_pc, advancePc_pc _ (hslots.trans ho)]; exact congrArg (· + 4) hpc

/-- A store whose checks pass waits in the store buffer with its bytes (04 R111, R114). -/
theorem store_enters {i : Instr} {regs : List (Option Hit)} {n : Nat} {kind : LoadKind} {data : List Byte} {tag stc : Bool}
    (hi : exec i s = .next (memWord regs c va ⟨true, n, kind, false, 0, data, tag⟩ stc s)) (hregs : firstHit regs = none)
    (hfree : freeMode s) (hroom : (myCtx s).buf.stores.length < 16) (hstc : stc = true → c.hasSTC = true)
    (ha : accessAllowed s c va n false true) (hr : resolve (myRink s) c.space va n false true s = (.ok t, s')) :
    ∃ u a, exec i s = .next u ∧ (myCtx u).buf.stores = (myCtx s).buf.stores ++ [a] ∧ entersAs s a c va n t kind ∧ a.data = data ∧ a.tag = tag ∧
      (myCtx u).buf.loads = (myCtx s).buf.loads ∧ (myCtx u).s = (myCtx s).s ∧ (myCtx u).a = (myCtx s).a ∧
      (myCtx u).sElastic = (myCtx s).sElastic ∧ (myCtx u).aElastic = (myCtx s).aElastic ∧
      (outsideSlots s → (myCtx u).pc = (myCtx s).pc + 4) ∧ MemoryKept s u := by
  obtain ⟨w, a, hw, hm, he, -, hdata, htag⟩ := memWord_enters (m := ⟨true, n, kind, false, 0, data, tag⟩) hregs hfree ha hstc hr hroom
  have hctx := (myCtx_entered (m := ⟨true, n, kind, false, 0, data, tag⟩) (a := a) hw).trans
    (show _ = ccIssue (mySite s).now 1 (advancePc (withStore a (myCtx s))) from rfl)
  refine ⟨_, a, hi.trans (congrArg Outcome.next hm), ?_, he, hdata, htag, ?_, ?_, ?_, ?_, ?_, fun ho => ?_, memoryKept_entered _ hw⟩
  all_goals rw [hctx]
  iterate 2 rw [ccIssue_buf, advancePc_buf]; rfl
  · rw [ccIssue_s, advancePc_s]; rfl
  · rw [ccIssue_a, advancePc_a]; rfl
  · rw [ccIssue_sElastic, advancePc_sElastic]; rfl
  · rw [ccIssue_aElastic, advancePc_aElastic]; rfl
  · rw [ccIssue_pc, advancePc_pc (withStore a (myCtx s)) ho]; rfl

theorem execLdC_eq (e cap : BitVec 4) (off : BitVec 14) (s : State) : exec (.ldC e cap off) s = .next (memWord
    [readA (mySite s).now (myCtx s) cap, writeA (mySite s).now (loadLatency (getA (myCtx s) cap) (memAddr (getA (myCtx s) cap) off 16) s) (myCtx s) e]
    (getA (myCtx s) cap) (memAddr (getA (myCtx s) cap) off 16)
    ⟨false, 16, .capability, (getA (myCtx s) cap).hasLDC, e.toNat, [], false⟩ false s) := rfl

theorem execStC_eq (e cap : BitVec 4) (off : BitVec 14) (s : State) : exec (.stC e cap off) s = .next (memWord
    [readA (mySite s).now (myCtx s) cap, readA (mySite s).now (myCtx s) e] (getA (myCtx s) cap) (memAddr (getA (myCtx s) cap) off 16)
    ⟨true, 16, .capability, false, 0, leBytes 16 (getA (myCtx s) e).bits.toNat, (getA (myCtx s) e).tag⟩ (getA (myCtx s) e).tag s) := rfl

end FreeAccess

/-- Settles O17: every load is one form of word, whose access goes to the end of the load buffer. -/
theorem loadsEnterBuffer : Obligations.LoadsEnterBuffer := by
  unfold Obligations.LoadsEnterBuffer
  intro s s' d e cap off t hfree hc hroom x c enters scalar
  refine ⟨fun hd => ?scalars, fun he => ?capability⟩
  case scalars =>
    have word {i : Instr} {n : Nat} {kind : LoadKind} (hi : exec i s = loadWord d cap off n kind s) (hk : kind ≠ .capability) :
        enters i n kind d.toNat scalar := by
      refine load_enters hi (loadRegs_none hc hd) hfree hroom fun y h0 => ?_
      have h0' : d.toNat ≠ 0 := fun h => h0 (BitVec.eq_of_toNat_eq h)
      rw [ccIssue_sElastic, advancePc_sElastic, setPending_scalar hk h0']
      exact getLsbD_setBit_true d.isLt _
    exact ⟨word rfl nofun, word rfl nofun, word rfl nofun, word rfl nofun, word rfl nofun, word rfl nofun, word rfl nofun⟩
  case capability =>
    refine load_enters (pending := fun y => y.aElastic.getLsbD e.toNat = true) (execLdC_eq e cap off s) ?regs hfree hroom fun y => ?pending
    case regs => rw [readA_none hc, writeA_none he]; rfl
    case pending =>
      rw [ccIssue_aElastic, advancePc_aElastic]
      exact getLsbD_setBit_true e.isLt _

/-- Settles O18: every store is one form of word, whose access goes to the end of the store buffer. -/
theorem storesEnterBuffer : Obligations.StoresEnterBuffer := by
  unfold Obligations.StoresEnterBuffer
  intro s s' d e cap off t hfree hc hroom x c enters v k
  refine ⟨fun hd => ?scalars, fun he hstc => ?capability⟩
  case scalars =>
    have word {i : Instr} {n : Nat} (hi : exec i s = storeWord d cap off n s) : enters i n .unsigned (leBytes n v) false :=
      store_enters hi (storeRegs_none hc hd) hfree hroom nofun
    exact ⟨word rfl, word rfl, word rfl, word rfl⟩
  case capability =>
    refine store_enters (execStC_eq e cap off s) ?regs hfree hroom hstc
    case regs => rw [readA_none hc, readA_none he]; rfl

end Sys2Proof.Machine

/-! # Timetabled accesses of the core's own TM (04 R95, R115, 09 R249) -/

namespace Sys2Proof.Machine

open Host (Outcome)

section TimedAccess

variable {s : State} {c : Cap} {va addr : Nat} {m : Mem1}

/-- The request that an access of the core's own TM makes of it, for two beats on (04 R115). -/
def ownPend (m : Mem1) (addr : Nat) (s : State) : Pend :=
  ⟨(mySite s).now + 2, (mySite s).now, ctxHead s.cur.ctx, none, myRink s, false, tmAct m s.cur.site s.cur.ctx addr⟩

theorem precedence_ownPend (m : Mem1) (addr : Nat) (s : State) : precedence (ownPend m addr s) = ctxHead s.cur.ctx := by
  unfold precedence ownPend tmAct
  cases m.store <;> rfl

def withPend (p : Pend) (d : Site) : Site := { d with pipe := d.pipe ++ [p] }

/-- The context of a timetabled access of the core's own TM: a load's register is there four beats on (04 R95). -/
def reservedCtx (m : Mem1) (now : Nat) (x : Ctx) : Ctx := if m.store then x else reserve now 4 m.kind m.dst x

theorem issueTimed_own : issueTimed m s.cur.site addr s =
    match conflict (mySite s) (precedence (ownPend m addr s)) ((mySite s).now + 2) (actSpans (tmAct m s.cur.site s.cur.ctx addr)) with
    | some (kind, detail) => ccStop (.stall kind detail 0 none) s
    | none => modMyCtx (fun x => ccIssue (mySite s).now 1 (advancePc (reservedCtx m (mySite s).now x)))
        (modMySite (withPend (ownPend m addr s)) s) := by
  have hctx (t : State) : modMyCtx (fun x => ccIssue (mySite s).now 1 (advancePc x))
      (if m.store then t else modMyCtx (reserve (mySite s).now 4 m.kind m.dst) t) =
        modMyCtx (fun x => ccIssue (mySite s).now 1 (advancePc (reservedCtx m (mySite s).now x))) t := by
    unfold reservedCtx
    cases m.store
    · exact modMyCtx_modMyCtx ..
    · rfl
  unfold issueTimed
  simp only [bne_self_eq_false, Bool.false_eq_true, if_false, Option.map_none, List.isEmpty_nil, if_true]
  rw [← hctx]
  rfl

theorem reserve_keeps (now lat : Nat) (kind : LoadKind) (dst : Nat) (x : Ctx) : (reserve now lat kind dst x).buf = x.buf ∧
    (reserve now lat kind dst x).s = x.s ∧ (reserve now lat kind dst x).pc = x.pc ∧ (reserve now lat kind dst x).slots = x.slots := by
  unfold reserve
  split
  · exact ⟨rfl, rfl, rfl, rfl⟩
  · split <;> exact ⟨rfl, rfl, rfl, rfl⟩

theorem reservedCtx_keeps (m : Mem1) (now : Nat) (x : Ctx) : (reservedCtx m now x).buf = x.buf ∧ (reservedCtx m now x).s = x.s ∧
    (reservedCtx m now x).pc = x.pc ∧ (reservedCtx m now x).slots = x.slots := by
  unfold reservedCtx
  split
  · exact ⟨rfl, rfl, rfl, rfl⟩
  · exact reserve_keeps ..

/-- A load reserves its scalar register for the beat of its result (04 R95). -/
theorem reserve_scalar {kind : LoadKind} (hk : kind ≠ .capability) {dst : Nat} (h0 : dst ≠ 0) (now lat : Nat) (x : Ctx) :
    (reserve now lat kind dst x).sReady.get 0 dst = now + lat := by
  unfold reserve
  split
  · exact absurd rfl hk
  · rw [if_neg h0]; exact Table.get_put_same ..

/-- A change of a core that its memories do not see. -/
theorem memoryKept_modSite {f : Site → Site} (h : ∀ c, (f c).tm = c.tm ∧ (f c).tiles = c.tiles) (k : Nat) (s : State) :
    MemoryKept s (modSite k f s) where
  mem _ := rfl
  host _ := rfl
  tm j a := by rw [site_modSite_keeps Site.tm fun c => (h c).1]
  tiles j n a := by rw [site_modSite_keeps Site.tiles fun c => (h c).2]

variable {i : Instr} {regs : List (Option Hit)} {slot : Ctx → Prop}

/-- A timetabled access of the core's own TM whose checks pass: it enters the pipeline, or deviates where its bank is taken (04 R115, 09 R249). -/
theorem timed_issues (hi : exec i s = .next (memWord regs c va m false s)) (hregs : firstHit regs = none)
    (htimed : (myCtx s).ctl.timetabled = true) (hslot : slot (ccIssue (mySite s).now 1 (advancePc (reservedCtx m (mySite s).now (myCtx s)))))
    (ha : accessAllowed s c va m.len (!m.store) m.store)
    (hr : resolve (myRink s) c.space va m.len (!m.store) m.store s = (.ok (.tm s.cur.site addr), s)) :
    (conflict (mySite s) (ctxHead s.cur.ctx) ((mySite s).now + 2) (actSpans (tmAct m s.cur.site s.cur.ctx addr)) = none →
      ∃ u, exec i s = .next u ∧ (mySite u).pipe = (mySite s).pipe ++ [ownPend m addr s] ∧ slot (myCtx u) ∧ (myCtx u).s = (myCtx s).s ∧
        (myCtx u).buf = (myCtx s).buf ∧ (outsideSlots s → (myCtx u).pc = (myCtx s).pc + 4) ∧ MemoryKept s u) ∧
    (∀ kind info, conflict (mySite s) (ctxHead s.cur.ctx) ((mySite s).now + 2) (actSpans (tmAct m s.cur.site s.cur.ctx addr)) = some (kind, info) →
      exec i s = .next (ccStop (.stall kind info 0 none) s)) := by
  have hchecks : firstHit (regs ++ capHits true c va m.len (!m.store) m.store false) = none := by
    rw [firstHit_append hregs, ← htimed, capHits_none (stc := false) ha nofun]
  have hw : memWord regs c va m false s = issueTimed m s.cur.site addr s := by simp only [memWord, htimed, hchecks, hr]
  rw [hw, issueTimed_own, precedence_ownPend] at hi
  refine ⟨fun hc => ?_, fun kind info hc => ?_⟩
  · rw [hc] at hi
    obtain ⟨hbuf, hs, hpc, hslots⟩ := reservedCtx_keeps m (mySite s).now (myCtx s)
    have hctx : myCtx (modMySite (withPend (ownPend m addr s)) s) = myCtx s := by
      rw [myCtx, mySite_modMySite]; rfl
    refine ⟨_, hi, ?_, ?_, ?_, ?_, fun ho => ?_, ?_⟩
    · rw [mySite_modMyCtx, modCtx_pipe, mySite_modMySite]; rfl
    · rwa [myCtx_modMyCtx, hctx]
    · rw [myCtx_modMyCtx, hctx, ccIssue_s, advancePc_s, hs]
    · rw [myCtx_modMyCtx, hctx, ccIssue_buf, advancePc_buf, hbuf]
    · rw [myCtx_modMyCtx, hctx, ccIssue_pc, advancePc_pc _ (hslots.trans ho), hpc]
    · exact (memoryKept_modSite (f := withPend (ownPend m addr s)) (fun _ => ⟨rfl, rfl⟩) _ s).trans (memoryKept_modMyCtx ..)
  · rw [hi, hc]

end TimedAccess

/-- Settles O19: loads and stores are one form of word, whose request of the core's own TM is for two beats on. -/
theorem timetabledTmAccesses : Obligations.TimetabledTmAccesses := by
  unfold Obligations.TimetabledTmAccesses
  intro s d cap off a htimed hc x c now issues load store
  have loads {i : Instr} {n : Nat} {kind : LoadKind} (hi : exec i s = loadWord d cap off n kind s) (hk : kind ≠ .capability) : load i n kind := by
    intro hd
    refine timed_issues hi (loadRegs_none hc hd) htimed (slot := fun y => d ≠ 0 → y.sReady.get 0 d.toNat = now + 4) fun h0 => ?_
    have h0' : d.toNat ≠ 0 := fun h => h0 (BitVec.eq_of_toNat_eq h)
    rw [ccIssue_sReady, advancePc_sReady]
    exact reserve_scalar hk h0' ..
  have stores {i : Instr} {n : Nat} (hi : exec i s = storeWord d cap off n s) : store i n := by
    intro hd
    refine timed_issues hi (storeRegs_none hc hd) htimed (slot := fun y => y.sReady = x.sReady) ?_
    rw [ccIssue_sReady, advancePc_sReady]
    rfl
  exact ⟨loads rfl nofun, loads rfl nofun, loads rfl nofun, loads rfl nofun, loads rfl nofun, loads rfl nofun, loads rfl nofun,
    stores rfl, stores rfl, stores rfl, stores rfl⟩

end Sys2Proof.Machine

/-! # Ordering and flags (02 R54 to R57, 04 R116, R117, 05 R125, 11 R283, R286) -/

namespace Sys2Proof.Machine

open Host (Outcome)

/-! ## A stalled context in free mode (09 R244) -/

section Stalls

variable {s : State}

/-- The executing context stands at its word and tries again in the next beat; nothing that it computes with differs. -/
structure WaitsAtWord (s t : State) : Prop where
  ctx : ∃ k, myCtx t = { myCtx s with ctl := { (myCtx s).ctl with next := (mySite s).now + 1, cls := k } }
  flags : (mySite t).flags = (mySite s).flags
  kept : MemoryKept s t
  sent : t.sent = s.sent

theorem countWait_eq (f : Nat) (c : Site) : ∃ o l, countWait f c = { c with obs := o, issued := l } := by
  unfold countWait
  split
  · exact ⟨c.obs, c.issued, rfl⟩
  · exact ⟨_, _, rfl⟩

theorem waitHead_eq (x : Side) (flag : Option Nat) (c : Site) : ∃ k o l, waitHead (ctxHead x) flag c =
    { setCtx x { ctxOf c x with ctl := { (ctxOf c x).ctl with next := c.now + 1, cls := k } } c with obs := o, issued := l } := by
  cases flag with
  | none => cases x <;> exact ⟨_, c.obs, c.issued, rfl⟩
  | some f =>
    obtain ⟨o, l, hc⟩ := countWait_eq f c
    unfold waitHead
    dsimp only
    rw [hc]
    cases x <;> exact ⟨_, o, l, rfl⟩

theorem ccStop_waits {kind detail extra : Nat} {flag : Option Nat} (hf : freeMode s) (hk : kind ≠ 5) :
    WaitsAtWord s (ccStop (.stall kind detail extra flag) s) := by
  have hstop : ccStop (.stall kind detail extra flag) s = modMySite (waitHead (ctxHead s.cur.ctx) flag) s := by
    simp only [ccStop, show (myCtx s).ctl.timetabled = false from hf, Bool.false_eq_true, if_false, if_neg hk]
  rw [hstop]
  obtain ⟨k, o, l, hw⟩ := waitHead_eq s.cur.ctx flag (mySite s)
  refine ⟨⟨k, ?_⟩, ?_, memoryKept_modSite (fun c => ?_) _ s, rfl⟩
  · rw [myCtx, mySite_modMySite, hw, modMySite_cur]
    show ctxOf (setCtx _ _ _) _ = _
    rw [ctxOf_setCtx]; rfl
  · rw [mySite_modMySite, hw]; cases s.cur.ctx <;> rfl
  · obtain ⟨_, _, _, h⟩ := waitHead_eq s.cur.ctx flag c
    rw [h]; cases s.cur.ctx <;> exact ⟨rfl, rfl⟩

end Stalls

/-! ## mark and fence (04 R116, R117) -/

section Fences

variable {s : State} {scope : BitVec 3}

/-- The next epoch begins (04 R116). -/
def nextEpoch (x : Ctx) : Ctx := { x with buf := { x.buf with epoch := x.buf.epoch + 1 } }

theorem execMark_next (s : State) : exec .mark s = .next (wordDone nextEpoch s) := congrArg Outcome.next (ccWord_wordDone rfl)

theorem execFence_timetabled (h : (myCtx s).ctl.timetabled = true) : exec (.fence scope) s = .next (wordDone nextEpoch s) := by
  show execFence scope s = _
  rw [← ccWord_wordDone (hits := []) rfl]
  simp only [execFence, h, if_true]
  rfl

/-- A fence in free mode that waits for nothing more (04 R117, 11 R283). -/
theorem execFence_done (hf : freeMode s) (hd : drained (myCtx s).buf = true) (hr : (myCtx s).buf.hostReads = 0)
    (hs : scope = 4 → (myCtx s).buf.hostDirty = []) : exec (.fence scope) s = .next (wordDone nextEpoch s) := by
  have hmode : (myCtx s).ctl.timetabled = false := hf
  have hreads : (decide (scope = 4) && !(myCtx s).buf.hostDirty.isEmpty) = false := by
    by_cases h4 : scope = 4
    · rw [hs h4]; exact Bool.and_false _
    · rw [decide_eq_false h4]; rfl
  show execFence scope s = _
  rw [← ccWord_wordDone (hits := []) rfl]
  simp only [execFence, hmode, hd, hr, hreads, Bool.false_eq_true, if_false, Bool.not_true, Bool.false_or, bne_self_eq_false]
  rfl

theorem execFence_waits (hf : freeMode s) (h : drained (myCtx s).buf = false ∨ (myCtx s).buf.hostReads ≠ 0) :
    exec (.fence scope) s = .next (ccStop (.stall 2 0 0 none) s) := by
  have hmode : (myCtx s).ctl.timetabled = false := hf
  have hwait : (!drained (myCtx s).buf || (myCtx s).buf.hostReads != 0) = true := by simpa using h
  show execFence scope s = _
  simp only [execFence, hmode, hwait, Bool.false_eq_true, if_false, if_true]

/-- The functions whose host space was written are each sent a zero-length read (11 R283). -/
def readsSent (s : State) : State := (myCtx s).buf.hostDirty.foldl (fun s f => send (.zeroRead f) s) s

def awaitReads (n : Nat) (x : Ctx) : Ctx := { x with buf := { x.buf with hostReads := n, hostDirty := [] } }

theorem readsSent_eq (s : State) : readsSent s = { s with sent := s.sent ++ (myCtx s).buf.hostDirty.map .zeroRead } := by
  have h (l : List Nat) (t : State) : l.foldl (fun s f => send (.zeroRead f) s) t = { t with sent := t.sent ++ l.map .zeroRead } := by
    induction l generalizing t with
    | nil => simp
    | cons f l ih => rw [List.foldl_cons, ih]; simp [send]
  exact h ..

/-- The state in which a fence has sent its reads and waits for them. -/
def awaitingReads (s : State) : State := modMyCtx (awaitReads (myCtx s).buf.hostDirty.length) (readsSent s)

theorem awaitingReads_keeps (s : State) : myCtx (awaitingReads s) = awaitReads (myCtx s).buf.hostDirty.length (myCtx s) ∧
    (mySite (awaitingReads s)).now = (mySite s).now ∧ MemoryKept s (awaitingReads s) := by
  have hsent := readsSent_eq s
  have hkept : MemoryKept s (readsSent s) := by rw [hsent]; exact ⟨fun _ => rfl, fun _ => rfl, fun _ _ => rfl, fun _ _ _ => rfl⟩
  refine ⟨?_, ?_, hkept.trans (memoryKept_modMyCtx ..)⟩
  · rw [awaitingReads, myCtx_modMyCtx, hsent]; rfl
  · rw [awaitingReads, mySite_modMyCtx, modCtx_now, hsent]; rfl

theorem execFence_reads (hf : freeMode s) (hd : drained (myCtx s).buf = true) (hr : (myCtx s).buf.hostReads = 0)
    (hs : (myCtx s).buf.hostDirty ≠ []) : exec (.fence 4) s =
    .next (ccStop (.stall 2 0 0 none) (awaitingReads s)) := by
  have hmode : (myCtx s).ctl.timetabled = false := hf
  have hempty : (myCtx s).buf.hostDirty.isEmpty = false := by simpa using hs
  show execFence 4 s = _
  simp only [execFence, hmode, hd, hr, hempty, Bool.false_eq_true, if_false, if_true, Bool.not_true, Bool.false_or, bne_self_eq_false,
    decide_true, Bool.not_false, Bool.and_self]
  have hctx : myCtx (readsSent s) = myCtx s := by rw [readsSent_eq]; rfl
  refine congrArg (fun t => Outcome.next (ccStop _ t)) (modMyCtx_congr (s := readsSent s) ?_)
  rw [← hctx]
  rfl

end Fences

end Sys2Proof.Machine

/-! ## Flags as a word meets them (02 R54, R56, 05 R125) -/

namespace Sys2Proof.Machine

open Host (Outcome)

section FlagWords

variable {s : State} {f : BitVec 6} {d : BitVec 5}

theorem flagReady_iff {c : Site} {n : Nat} : flagReady c n = true ↔
    if n < 16 then c.flags.fullBefore.getLsbD n = true else if n < 32 then 0 < c.flags.tokens.get 0 (n - 16)
    else c.flags.eventsBefore.getLsbD (n - 32) = true := by
  unfold flagReady
  split
  · rfl
  · split
    · exact decide_eq_true_iff
    · rfl

theorem flagSample_iff {c : Site} {n : Nat} : flagSample c n = true ↔
    if n < 16 then c.flags.fullBefore.getLsbD n = true else if n < 32 then 0 < c.flags.tokensBefore.get 0 (n - 16)
    else c.flags.eventsBefore.getLsbD (n - 32) = true := by
  unfold flagSample
  split
  · rfl
  · split
    · exact decide_eq_true_iff
    · rfl

theorem pushRoom_iff {c : Site} {n : Nat} : pushRoom c n = true ↔
    ¬(16 ≤ n ∧ n < 32 ∧ (8 ≤ c.flags.tokens.get 0 (n - 16) + c.flags.sets.count n ∨ c.flags.blocked.contains n = true)) := by
  unfold pushRoom
  split
  · next h => simp [h.1, h.2]
  · next h => simp only [true_iff]; exact fun ⟨h1, h2, _⟩ => h ⟨h1, h2⟩

theorem releaseHit_none {x : Ctx} (h : x.ctl.timetabled = false → x.buf.stores = [] ∧ x.buf.atomicOut = false) (n : Nat) : releaseHit x n = none := by
  cases hm : x.ctl.timetabled with
  | true => simp [releaseHit, hm]
  | false =>
    obtain ⟨hs, ha⟩ := h hm
    simp [releaseHit, hs, ha]

theorem releaseHit_some {x : Ctx} (hm : x.ctl.timetabled = false) (h : ¬(x.buf.stores = [] ∧ x.buf.atomicOut = false)) (n : Nat) :
    releaseHit x n = some (.stall 1 n 0 (some n)) := by
  have hb : (x.buf.stores.isEmpty && !x.buf.atomicOut) = false := by
    rw [Bool.eq_false_iff]
    simpa using h
  rw [releaseHit, hm, hb]; rfl

/-- What a word does to its core and then to its context is one change of the core. -/
theorem wordAfter_modMySite (now : Nat) (g : Site → Site) (s : State) : wordAfter now (modMySite g s) =
    modMySite (fun c => modCtx s.cur.ctx (fun x => ccIssue now 1 (advancePc x)) (g c)) s := modMySite_modMySite ..

/-- A word that leaves its core alone. -/
theorem wordAfter_modMySite_id {g : Site → Site} (h : ∀ c, g c = c) (s : State) :
    wordAfter (mySite s).now (modMySite g s) = wordDone id s := by
  rw [wordAfter_modMySite, show g = id from funext h]; rfl

theorem modMySite_id_modMyCtx (f : Ctx → Ctx) (s : State) : modMySite (fun c => c) (modMyCtx f s) = modMyCtx f s := modMySite_modMySite ..

/-- A wait that clears nothing leaves a flag that is no FIFO. -/
theorem consumeFlag_keeps {n : Nat} (h : ¬(16 ≤ n ∧ n < 32)) (c : Site) : consumeFlag n false c = c :=
  if_neg (by simpa using h)

/-- A wait on a FIFO pops a token. -/
theorem consumeFlag_pops {n : Nat} (h : 16 ≤ n ∧ n < 32) : consumeFlag n false = clearFlag n :=
  funext fun _ => if_pos (by simpa using h)

variable (ho : ownsFlag (mySite s) (myRink s) f.toNat = true)
include ho

theorem execWaitf_next (clr : Bool) (hr : flagReady (mySite s) f.toNat = true) :
    exec (.waitf f clr) s = .next (wordAfter (mySite s).now (modMySite (consumeFlag f.toNat clr) s)) :=
  congrArg Outcome.next (ccWord_wordAfter (by rw [flagHit_none ho, hr]; rfl))

theorem execWaitf_waits (clr : Bool) (hr : flagReady (mySite s) f.toNat = false) :
    exec (.waitf f clr) s = .next (ccStop (.stall 0 f.toNat 0 (some f.toNat)) s) :=
  congrArg Outcome.next (ccWord_stop (by rw [flagHit_none ho, hr]; rfl))

theorem execSigf_clears (hr : 16 ≤ f.toNat ∧ f.toNat < 32 → flagReady (mySite s) f.toNat = true) :
    exec (.sigf f false) s = .next (wordAfter (mySite s).now (modMySite (clearFlag f.toNat) s)) := by
  have hpop : (decide (16 ≤ f.toNat) && decide (f.toNat < 32) && !flagReady (mySite s) f.toNat) = false := by
    by_cases ht : 16 ≤ f.toNat ∧ f.toNat < 32
    · rw [hr ht]; exact Bool.and_false _
    · rw [← Bool.decide_and, decide_eq_false ht]; rfl
  exact congrArg Outcome.next (ccWord_wordAfter (by rw [flagHit_none ho, hpop]; rfl))

theorem execSigf_pops_none (ht : 16 ≤ f.toNat ∧ f.toNat < 32) (hr : flagReady (mySite s) f.toNat = false) :
    exec (.sigf f false) s = .next (ccStop (.stall 0 f.toNat 0 (some f.toNat)) s) := by
  have hpop : (decide (16 ≤ f.toNat) && decide (f.toNat < 32) && !flagReady (mySite s) f.toNat) = true := by
    rw [decide_eq_true ht.1, decide_eq_true ht.2, hr]; rfl
  exact congrArg Outcome.next (ccWord_stop (by rw [flagHit_none ho, hpop]; rfl))

theorem execSigf_sets (hrel : freeMode s → (myCtx s).buf.stores = [] ∧ (myCtx s).buf.atomicOut = false) (hr : pushRoom (mySite s) f.toNat = true) :
    exec (.sigf f true) s = .next (wordAfter (mySite s).now (modMySite (setFlag f.toNat) s)) :=
  congrArg Outcome.next (ccWord_wordAfter (by rw [flagHit_none ho, releaseHit_none hrel, hr]; rfl))

theorem execSigf_waits (hf : freeMode s)
    (h : ¬((myCtx s).buf.stores = [] ∧ (myCtx s).buf.atomicOut = false) ∨ pushRoom (mySite s) f.toNat = false) :
    exec (.sigf f true) s = .next (ccStop (.stall 1 f.toNat 0 (some f.toNat)) s) := by
  refine congrArg Outcome.next (ccWord_stop ?_)
  rw [flagHit_none ho]
  by_cases hrel : (myCtx s).buf.stores = [] ∧ (myCtx s).buf.atomicOut = false
  · rw [releaseHit_none fun _ => hrel, h.resolve_left (not_not.2 hrel)]; rfl
  · rw [releaseHit_some hf hrel]; rfl

/-- A test samples its flag, and where it clears and found the flag set it clears it (05 R125). -/
theorem execTstf_next (hd : settledS s d) (clr : Bool) : exec (.tstf d f clr) s = .next (wordAfter (mySite s).now
    (modMySite (fun c => if clr && flagSample (mySite s) f.toNat then clearFlag f.toNat c else c)
      (modMyCtx (putS (mySite s).now 1 d (truth (flagSample (mySite s) f.toNat))) s))) :=
  congrArg Outcome.next (ccWord_wordAfter (by rw [flagHit_none ho, writeS_none hd]; rfl))

/-- A test that clears nothing. -/
theorem execTstf_keeps (hd : settledS s d) {clr : Bool} (h : (clr && flagSample (mySite s) f.toNat) = false) :
    exec (.tstf d f clr) s = .next (wordDone (putS (mySite s).now 1 d (truth (flagSample (mySite s) f.toNat))) s) := by
  rw [execTstf_next ho hd]
  simp only [h, Bool.false_eq_true, if_false]
  rw [modMySite_id_modMyCtx]
  exact congrArg Outcome.next (modMyCtx_modMyCtx ..)

end FlagWords

/-! ## Flags at the end of a beat (02 R54 to R56) -/

section Settled

/-- What a flag reads: 1 or 0, or the number of its tokens. -/
def flagValue (b : Flags) (m : Nat) : Nat :=
  if m < 16 then b2n (b.full.getLsbD m) else if m < 32 then b.tokens.get 0 (m - 16) else b2n (b.events.getLsbD (m - 32))

theorem getLsbD_setBit {n i : Nat} (h : i < n) (w : BitVec n) (b : Bool) (j : Nat) : (setBit w i b).getLsbD j = if j = i then b else w.getLsbD j := by
  split
  · next hj =>
    subst hj
    cases b
    · simp [setBit, h]
    · exact getLsbD_setBit_true h w
  · next hj => exact getLsbD_setBit_ne hj w b

/-- A flag that is cleared or popped, or set or pushed, to `v` tokens. -/
def putFlag (n v : Nat) (b : Flags) : Flags :=
  if n < 16 then { b with full := setBit b.full n (v != 0) }
  else if n < 32 then { b with tokens := b.tokens.put (n - 16) v }
  else { b with events := setBit b.events (n - 32) (v != 0) }

theorem flagValue_putFlag_same {n : Nat} (hn : n < 64) (v : Nat) (b : Flags) :
    flagValue (putFlag n v b) n = if 16 ≤ n ∧ n < 32 then v else b2n (v != 0) := by
  unfold flagValue putFlag
  by_cases h16 : n < 16
  · simp only [if_pos h16, getLsbD_setBit h16, if_true]
    rw [if_neg (by omega)]
  · by_cases h32 : n < 32
    · simp only [if_neg h16, if_pos h32, Table.get_put_same]
      rw [if_pos (by omega)]
    · simp only [if_neg h16, if_neg h32, getLsbD_setBit (show n - 32 < 32 by omega), if_true]
      rw [if_neg (by omega)]

theorem flagValue_putFlag_ne {n m : Nat} (hm : m ≠ n) (v : Nat) (b : Flags) : flagValue (putFlag n v b) m = flagValue b m := by
  unfold flagValue putFlag
  by_cases h16 : n < 16
  · simp only [if_pos h16, getLsbD_setBit_ne hm]
  · by_cases h32 : n < 32
    · simp only [if_neg h16, if_pos h32]
      split_ifs
      · rfl
      · exact Table.get_put_ne _ _ _ (by omega)
      · rfl
    · simp only [if_neg h16, if_neg h32]
      split_ifs
      · rfl
      · rfl
      · rw [getLsbD_setBit_ne (by omega)]

/-- The value of a flag after a set or push at the end of the beat. -/
def pushedValue (n : Nat) (b : Flags) : Nat := if 16 ≤ n ∧ n < 32 then min 8 (flagValue b n + 1) else 1

/-- The value of a flag after a clear or pop. -/
def poppedValue (n : Nat) (b : Flags) : Nat := if 16 ≤ n ∧ n < 32 then flagValue b n - 1 else 0

theorem applySet_eq (b : Flags) (n : Nat) : applySet b n = putFlag n (pushedValue n b) b := by
  unfold applySet putFlag pushedValue flagValue
  by_cases h16 : n < 16
  · simp only [if_pos h16, if_neg (show ¬(16 ≤ n ∧ n < 32) by omega)]; rfl
  · by_cases h32 : n < 32
    · simp only [if_neg h16, if_pos h32, if_pos (show 16 ≤ n ∧ n < 32 by omega)]
    · simp only [if_neg h16, if_neg h32, if_neg (show ¬(16 ≤ n ∧ n < 32) by omega)]; rfl

theorem clearFlag_eq (n : Nat) (c : Site) : (clearFlag n c).flags = putFlag n (poppedValue n c.flags) c.flags := by
  unfold clearFlag modFlags putFlag poppedValue flagValue
  by_cases h16 : n < 16
  · simp only [if_pos h16, if_neg (show ¬(16 ≤ n ∧ n < 32) by omega)]; rfl
  · by_cases h32 : n < 32
    · simp only [if_neg h16, if_pos h32, if_pos (show 16 ≤ n ∧ n < 32 by omega)]
    · simp only [if_neg h16, if_neg h32, if_neg (show ¬(16 ≤ n ∧ n < 32) by omega)]; rfl

theorem sets_putFlag (n v : Nat) (b : Flags) : (putFlag n v b).sets = b.sets := by
  unfold putFlag
  split_ifs <;> rfl

/-- The end of a beat in which one flag was set or pushed. -/
theorem flagValue_settled_set {c : Site} (h : c.flags.sets = []) (n m : Nat) :
    flagValue (settleFlags (setFlag n c).flags) m = flagValue (putFlag n (pushedValue n c.flags) c.flags) m := by
  have hset : (setFlag n c).flags = { c.flags with sets := [n] } := by simp [setFlag, modFlags, h]
  rw [hset]
  show flagValue (applySet { c.flags with sets := [n] } n) m = _
  rw [← applySet_eq]
  unfold applySet flagValue
  split_ifs <;> rfl

/-- The end of a beat in which one flag was cleared or popped. -/
theorem flagValue_settled_clear {c : Site} (h : c.flags.sets = []) (n m : Nat) :
    flagValue (settleFlags (clearFlag n c).flags) m = flagValue (putFlag n (poppedValue n c.flags) c.flags) m := by
  rw [clearFlag_eq]
  unfold settleFlags
  rw [sets_putFlag, h]
  rfl

end Settled

/-- Settles O24: a fence by what is still to be performed; a flag word by whether its flag is ready or has room; the end of a beat by the flag's kind. -/
theorem orderingAndFlagWords : Obligations.OrderingAndFlagWords := by
  unfold Obligations.OrderingAndFlagWords
  refine ⟨?fences, ?words, ?settled⟩
  case fences =>
    intro s scope x done
    refine ⟨execMark_next s, execFence_timetabled, execFence_done, fun hf h => ?waits, fun hf hd hr h4 hs => ?reads⟩
    case waits =>
      obtain ⟨⟨k, hctx⟩, -, hkept, -⟩ := ccStop_waits (s := s) (kind := 2) (detail := 0) (extra := 0) (flag := none) hf (by decide)
      exact ⟨_, execFence_waits hf h, by rw [hctx], by rw [hctx], by rw [hctx], by rw [hctx], hkept⟩
    case reads =>
      subst h4
      obtain ⟨hctx1, hnow, hkept1⟩ := awaitingReads_keeps s
      obtain ⟨⟨k, hctx⟩, -, hkept, hsent⟩ := ccStop_waits (s := awaitingReads s) (kind := 2) (detail := 0) (extra := 0) (flag := none)
        (by rw [freeMode, hctx1]; exact hf) (by decide)
      rw [hctx1, hnow] at hctx
      exact ⟨_, execFence_reads hf hd hr hs, by rw [hctx]; rfl, by rw [hctx]; rfl, hsent.trans (congrArg State.sent (readsSent_eq s)),
        by rw [hctx], by rw [hctx]; rfl, hkept1.trans hkept⟩
  case words =>
    intro s d f ho c n token ready sampled cleared full released wait
    have hready : flagReady c n = true ↔ ready := flagReady_iff
    have hsample : flagSample c n = true ↔ sampled := flagSample_iff
    have hroom : pushRoom c n = true ↔ ¬full := pushRoom_iff
    have waits {i : Instr} {kind detail extra : Nat} {flag : Option Nat} (hk : kind ≠ 5)
        (h : freeMode s → exec i s = .next (ccStop (.stall kind detail extra flag) s)) : wait i := by
      intro hf
      obtain ⟨⟨k, hctx⟩, hflags, -, -⟩ := ccStop_waits (detail := detail) (extra := extra) (flag := flag) hf hk
      exact ⟨_, h hf, by rw [hctx], by rw [hctx], hflags, by rw [hctx]⟩
    refine ⟨fun hr ht => ?_, fun hr ht => ?_, fun hr _ => execWaitf_next ho true (hready.2 hr),
      fun hr => ⟨waits (by decide) fun _ => execWaitf_waits ho false ?_, fun _ => waits (by decide) fun _ => execWaitf_waits ho true ?_⟩,
      fun hr => execSigf_clears ho fun ht => hready.2 (hr ht), fun ht hr => waits (by decide) fun _ => execSigf_pops_none ho ht ?_,
      fun _ hrel hfull => execSigf_sets ho hrel (hroom.2 hfull), fun _ h => waits (by decide) fun hf => execSigf_waits ho hf (h.imp_right fun h => ?_),
      fun hd => ⟨fun hv => ?_, fun hv => ?_, fun hv _ => ?_, fun hv ht => ?_⟩⟩
    · rw [execWaitf_next ho false (hready.2 hr), wordAfter_modMySite_id (consumeFlag_keeps ht)]
    · rw [execWaitf_next ho false (hready.2 hr), consumeFlag_pops ht]
    iterate 3 exact Bool.eq_false_iff.2 fun h => hr (hready.1 h)
    · exact Bool.eq_false_iff.2 fun hr => hroom.1 hr h
    · rw [execTstf_keeps ho hd (Bool.false_and _), hsample.2 hv]; rfl
    · rw [execTstf_keeps ho hd (Bool.false_and _), Bool.eq_false_iff.2 fun h => hv (hsample.1 h)]; rfl
    · have hv' := Bool.eq_false_iff.2 fun h => hv (hsample.1 h)
      rw [execTstf_keeps ho hd (by rw [hv']; rfl), hv']; rfl
    · rw [execTstf_next ho hd, hsample.2 hv]; rfl
  case settled =>
    intro c n hn hsets value old pushed popped
    have hpushed (m : Nat) : pushed m = flagValue (putFlag n (pushedValue n c.flags) c.flags) m := flagValue_settled_set hsets n m
    have hpopped (m : Nat) : popped m = flagValue (putFlag n (poppedValue n c.flags) c.flags) m := flagValue_settled_clear hsets n m
    refine ⟨?_, ?_, fun m _ hm => ⟨(hpushed m).trans (flagValue_putFlag_ne hm ..), (hpopped m).trans (flagValue_putFlag_ne hm ..)⟩⟩
    · rw [hpushed, flagValue_putFlag_same hn]
      unfold pushedValue
      split <;> rfl
    · rw [hpopped, flagValue_putFlag_same hn]
      unfold poppedValue
      split <;> rfl

end Sys2Proof.Machine

/-! # Off-chip granules as an access meets them (14 R339, R350 to R355) -/

namespace Sys2Proof.Machine

open Host (Outcome)

/-! ## Ranges dropped from a table -/

section Ranges

variable {α : Type}

theorem lookupKey_filter_kept (d : α) {f : Nat × α → Bool} {k : Nat} (h : ∀ v, f (k, v) = true) (l : List (Nat × α)) :
    lookupKey d k (l.filter f) = lookupKey d k l := by
  induction l with
  | nil => rfl
  | cons c cs ih =>
    by_cases hk : c.1 = k
    · have hf : f c = true := by subst hk; exact h c.2
      rw [List.filter_cons_of_pos hf]
      simp only [lookupKey, if_pos hk]
    · cases hf : f c with
      | true => rw [List.filter_cons_of_pos hf]; simp only [lookupKey, if_neg hk, ih]
      | false => rw [List.filter_cons_of_neg (by simp [hf])]; simp only [lookupKey, if_neg hk, ih]

theorem lookupKey_absent (d : α) {k : Nat} {l : List (Nat × α)} (h : ∀ c ∈ l, c.1 ≠ k) : lookupKey d k l = d := by
  induction l with
  | nil => rfl
  | cons c cs ih =>
    simp only [List.forall_mem_cons] at h
    simp only [lookupKey, if_neg h.1, ih h.2]

/-- What is looked up is the default or stands in the list. -/
theorem lookupKey_mem (d : α) (k : Nat) (l : List (Nat × α)) : lookupKey d k l = d ∨ (k, lookupKey d k l) ∈ l := by
  induction l with
  | nil => exact .inl rfl
  | cons c cs ih =>
    simp only [lookupKey]
    split
    · next h => subst h; exact .inr (by simp)
    · exact ih.imp_right (List.mem_cons_of_mem _)

theorem mem_insertKey {k : Nat} {v : α} {l : List (Nat × α)} {c : Nat × α} (h : c ∈ insertKey k v l) : c = (k, v) ∨ c ∈ l := by
  induction l with
  | nil => simpa [insertKey] using h
  | cons b bs ih =>
    simp only [insertKey] at h
    split at h
    · exact (List.mem_cons.1 h).imp_right (List.mem_cons_of_mem _)
    · split at h
      · exact List.mem_cons.1 h
      · rcases List.mem_cons.1 h with h | h
        · exact .inr (by simp [h])
        · exact (ih h).imp_right (List.mem_cons_of_mem _)

/-- A dropped range reads as the default, and what lies outside it as before. -/
theorem Table.get_dropRange (t : Table α) (d : α) (lo hi k : Nat) :
    (dropRange lo hi t).get d k = if lo ≤ k ∧ k < hi then d else t.get d k := by
  unfold dropRange Table.get
  split
  · next h => exact lookupKey_absent d fun c hc => by simp at hc; omega
  · next h => exact lookupKey_filter_kept d (fun _ => by simp; omega) _

theorem Mem.read_dropRange (m : Mem) (lo hi b : Nat) : Mem.read (dropRange lo hi m) b = if lo ≤ b ∧ b < hi then 0 else m.read b :=
  Table.get_dropRange m 0 lo hi b

end Ranges

/-! ## What the off-chip operations leave alone -/

section Frames

/-- No byte of memory, no core and no byte of the host differs. -/
structure SameData (s t : State) : Prop where
  mem : t.mem = s.mem
  sites : t.sites = s.sites
  host : t.host = s.host

/-- The bytes have been written at an address, and no core and no byte of the host differs. -/
structure Written (ma : Nat) (data : List Byte) (s t : State) : Prop where
  mem : t.mem = s.mem.writeBytes ma data
  sites : t.sites = s.sites
  host : t.host = s.host

variable {s t u : State} {ma : Nat} {data : List Byte}

theorem SameData.refl (s : State) : SameData s s := ⟨rfl, rfl, rfl⟩

theorem SameData.trans (h : SameData s t) (h' : SameData t u) : SameData s u :=
  ⟨h'.mem.trans h.mem, h'.sites.trans h.sites, h'.host.trans h.host⟩

theorem SameData.site (h : SameData s t) (k : Nat) : site k t = site k s := congrArg (fun c => c.get Site.reset k) h.sites

theorem Written.trans (h : Written ma data s t) (h' : SameData t u) : Written ma data s u :=
  ⟨h'.mem.trans h.mem, h'.sites.trans h.sites, h'.host.trans h.host⟩

theorem Written.site (h : Written ma data s t) (k : Nat) : Machine.site k t = Machine.site k s := congrArg (fun c => c.get Site.reset k) h.sites

theorem Written.of_same (h : SameData s t) (h' : Written ma data t u) : Written ma data s u :=
  ⟨h.mem ▸ h'.mem, h'.sites.trans h.sites, h'.host.trans h.host⟩

theorem CountsOnly.sameData (h : CountsOnly s t) : SameData s t := by
  rw [show t = { s with dies := t.dies } from h]
  exact ⟨rfl, rfl, rfl⟩

theorem sameData_countAccess (r space ma ia i : Nat) : SameData s (countAccess r space ma ia i s) := by
  have h := (countMem_countsOnly (rinkFn r s) ma i s).sameData
  unfold countAccess
  dsimp only
  split
  · exact h.trans ⟨rfl, rfl, rfl⟩
  · exact h

theorem sameData_countCorrected (r ma : Nat) : SameData s (countCorrected r ma s) :=
  (foldl_countsOnly (fun t _ => countMem_countsOnly (rinkFn r t) ma 3 t) (memErrors 1 ma s) s).sameData

theorem sameData_viewWrite (r ia : Nat) (before after : List Byte) : SameData s (viewWrite r ia before after s) := by
  unfold viewWrite
  constructor <;> exact foldl_keeps _ (fun s q => by split_ifs <;> rfl) _ _

end Frames

end Sys2Proof.Machine

/-! # The checks of a key, carried from one state to another (14 R353 to R355) -/

namespace Sys2Proof.Machine

open Host (Outcome)

/-! ## States that hold the same off-chip memory -/

/-- `t` is `s` but for its cores, its atomic queues and its views. -/
def SameStore (s t : State) : Prop := t = { s with sites := t.sites, atomics := t.atomics, views := t.views }

section Store

variable {s t : State}

theorem SameStore.keys (h : SameStore s t) : t.keys = s.keys := by rw [h]

theorem SameStore.counters (h : SameStore s t) : t.counters = s.counters := by rw [h]

theorem SameStore.mem (h : SameStore s t) : t.mem = s.mem := by rw [h]

theorem SameStore.memErrs (h : SameStore s t) : t.memErrs = s.memErrs := by rw [h]

theorem SameStore.cycle (h : SameStore s t) : t.cycle = s.cycle := by rw [h]

theorem treeBase_congr (hk : t.keys = s.keys) (slot : Nat) : treeBase t slot = treeBase s slot := by
  unfold treeBase keyOf
  rw [hk]

theorem nodeSpoiled_congr (hk : t.keys = s.keys) (he : t.memErrs = s.memErrs) (slot : Nat) (n : Nat × Nat) :
    nodeSpoiled t slot n = nodeSpoiled s slot n := by
  unfold nodeSpoiled keyOf
  rw [treeBase_congr hk, hk, he]

theorem pathFails_congr (hk : t.keys = s.keys) (he : t.memErrs = s.memErrs) (hc : t.cycle = s.cycle) (slot : Nat) (l : List (Nat × Nat)) :
    pathFails t slot l = pathFails s slot l := by
  induction l with
  | nil => rfl
  | cons n ns ih => simp only [pathFails, ih, nodeSpoiled_congr hk he, hc]

theorem treeIntact_congr (hk : t.keys = s.keys) (he : t.memErrs = s.memErrs) (hc : t.cycle = s.cycle) (slot ia : Nat) :
    treeIntact t slot ia = treeIntact s slot ia := by
  simp only [treeIntact, pathFails_congr hk he hc, keyOf, hk, he]

theorem nodeBytes_congr (hk : t.keys = s.keys) (hc : t.counters = s.counters) (slot l i : Nat) : nodeBytes t slot l i = nodeBytes s slot l i := by
  induction l generalizing i with
  | zero => simp only [nodeBytes, leafBytes, keyOf, hk, hc]
  | succ l ih => simp only [nodeBytes, ih, keyOf, hk]

theorem treeLine_congr (hk : t.keys = s.keys) (hc : t.counters = s.counters) (ma : Nat) : treeLine t ma = treeLine s ma := by
  unfold treeLine
  simp only [nodeBytes_congr hk hc]
  simp only [treeBase_congr hk, hk]

theorem SameStore.sealPasses (h : SameStore s t) (key : Option Nat) (ma ia : Nat) :
    Machine.sealPasses t key ma ia = Machine.sealPasses s key ma ia := by
  cases key with
  | none => rfl
  | some q =>
    have ht := treeIntact_congr h.keys h.memErrs h.cycle q ia
    rw [Machine.sealPasses, keyPasses, ht, h]
    rfl

/-- No more leaves are met where no further leaf is pinned or moves. -/
theorem SameStore.metLeaves {ma n : Nat} (h : SameStore s t) (hb : ∀ e ∈ busyLeaves t, e ∈ busyLeaves s) (hl : Machine.metLeaves ma n s = []) :
    Machine.metLeaves ma n t = [] := by
  unfold Machine.metLeaves at hl ⊢
  rw [h.mem]
  dsimp only at hl ⊢
  split
  · rfl
  · next he =>
    rw [if_neg he, List.filter_eq_nil_iff] at hl
    refine List.filter_eq_nil_iff.2 fun e hm hc => hl e hm ?_
    simp only [List.contains_iff_mem] at hc ⊢
    exact hb e hc

/-- What an access to a granule meets is the same, where no further leaf is pinned or moves. -/
theorem SameStore.ordinary {key : Option Nat} {ma ia n : Nat} (h : SameStore s t) (hb : ∀ e ∈ busyLeaves t, e ∈ busyLeaves s)
    (ho : ordinaryGranule s key ma ia n) : ordinaryGranule t key ma ia n := by
  obtain ⟨hs, he, hr⟩ := ho
  refine ⟨(h.sealPasses ..).trans hs, by rw [h]; exact he, ?_⟩
  cases key with
  | some q => rw [h]; exact hr
  | none =>
    obtain ⟨hk, hl, ht⟩ := hr
    refine ⟨by rw [h]; exact hk, ?_, fun i hi => (treeLine_congr h.keys h.counters _).trans (ht i hi)⟩
    exact h.metLeaves hb hl

/-- A core whose queues are as before pins no further leaf. -/
theorem busyLeaves_modSite {k : Nat} {f : Site → Site} (hq : (f (site k s)).q = (site k s).q) {e : Nat} (h : e ∈ busyLeaves (modSite k f s)) :
    e ∈ busyLeaves s := by
  refine List.mem_append.2 ((List.mem_append.1 h).imp_left fun h => ?_)
  obtain ⟨pin, hp, he⟩ := List.mem_filterMap.1 h
  refine List.mem_filterMap.2 ⟨pin, List.mem_append.2 ((List.mem_append.1 hp).imp_left fun hp => ?_), he⟩
  obtain ⟨c, hc, hpin⟩ := List.mem_flatMap.1 hp
  refine List.mem_flatMap.2 ⟨c, List.mem_append.2 ((List.mem_append.1 hc).imp_left fun hc => ?_), hpin⟩
  obtain ⟨p, hp, hc⟩ := List.mem_flatMap.1 hc
  rcases mem_insertKey hp with rfl | hp
  · have hq' : c ∈ (site k s).q.lq ++ (site k s).q.sq ++ (site k s).q.ce ++ ((site k s).q.run0.map (·.cmd)).toList ++ ((site k s).q.run1.map (·.cmd)).toList := by
      rw [← hq]
      exact hc
    rcases lookupKey_mem Site.reset k s.sites.cells with hr | hr
    · rw [site, Table.get, hr] at hq'
      exact absurd hq' (by simp [Site.reset, Queues.reset])
    · exact List.mem_flatMap.2 ⟨_, hr, hq'⟩
  · exact List.mem_flatMap.2 ⟨p, hp, hc⟩

/-- A change of a core that keeps its queues carries what an access meets. -/
theorem ordinaryGranule_modSite {key : Option Nat} {ma ia n k : Nat} {f : Site → Site} (hq : (f (site k s)).q = (site k s).q)
    (h : ordinaryGranule s key ma ia n) : ordinaryGranule (modSite k f s) key ma ia n :=
  SameStore.ordinary rfl (fun _ he => busyLeaves_modSite hq he) h

end Store

/-! ## The first use of a frame -/

section Grant

variable {s : State} {q ma ia n : Nat}

theorem sameData_bumpCounter : SameData s (bumpCounter q ma ia s) := ⟨rfl, rfl, rfl⟩

/-- A grant changes neither the keys nor the errors of the memory, and no core. -/
theorem grantFrame_keeps (q ma : Nat) (s : State) : (grantFrame q ma s).keys = s.keys ∧ (grantFrame q ma s).memErrs = s.memErrs ∧
    (grantFrame q ma s).cycle = s.cycle ∧ (grantFrame q ma s).sites = s.sites ∧ (grantFrame q ma s).host = s.host := by
  unfold grantFrame clearFrame64
  dsimp only
  split
  · split <;> exact ⟨rfl, rfl, rfl, rfl, rfl⟩
  · exact ⟨rfl, rfl, rfl, rfl, rfl⟩

/-- The frame of an ordinary access keeps its bytes. -/
theorem grantFrame_mem (h : freshFrame s q ma = false ∨ ∀ c ∈ s.seals.cells, c.1 / 256 ≠ ma / 65536) : (grantFrame q ma s).mem = s.mem := by
  rcases h with h | h
  · rw [grantFrame_used h]
  · have hn : (s.seals.cells.any fun c => c.1 / 256 == ma / 65536) = false := by
      simpa using h
    unfold grantFrame clearFrame64
    dsimp only
    rw [hn]
    split <;> rfl

/-- A frame granted with other contents is zeros. -/
theorem grantFrame_cleared (hf : freshFrame s q ma = true) (hs : (s.seals.cells.any fun c => c.1 / 256 == ma / 65536) = true) (b : Nat) :
    (grantFrame q ma s).mem.read b = if b / 65536 = ma / 65536 then 0 else s.mem.read b := by
  unfold grantFrame clearFrame64
  dsimp only
  rw [hf, hs, if_pos rfl, if_pos rfl]
  have hr : 65536 * (ma / 65536) ≤ b ∧ b < 65536 * (ma / 65536) + 65536 ↔ b / 65536 = ma / 65536 := by omega
  refine (Mem.read_dropRange s.mem _ _ b).trans ?_
  simp only [hr]

/-- The slot's use of the frame is its latest. -/
theorem grantFrame_granted (hf : freshFrame s q ma = true) :
    grantsOf (grantFrame q ma s) ma = (q, (keyOf q s).epoch) :: grantsOf s ma := by
  unfold grantFrame
  dsimp only
  rw [hf, if_pos rfl]
  exact Table.get_put_same ..

theorem freshFrame_grantFrame (q ma : Nat) (s : State) : freshFrame (grantFrame q ma s) q ma = false := by
  cases hf : freshFrame s q ma with
  | false => rw [grantFrame_used hf, hf]
  | true =>
    have hk : keyOf q (grantFrame q ma s) = keyOf q s := by rw [keyOf, (grantFrame_keeps q ma s).1]; rfl
    simp [freshFrame, grantFrame_granted hf, hk]

/-- No granule of a newly granted frame has a seal. -/
theorem seals_grantFrame (hf : freshFrame s q ma = true) : ∀ c ∈ (grantFrame q ma s).seals.cells, c.1 / 256 ≠ ma / 65536 := by
  unfold grantFrame clearFrame64
  dsimp only
  rw [hf, if_pos rfl]
  split
  · intro c hc
    have := (List.mem_filter.1 hc).2
    simp at this
    omega
  · next h => simpa using h

theorem sealOf_unsealed (h : ∀ c ∈ s.seals.cells, c.1 / 256 ≠ ma / 65536) : sealOf s ma = none := by
  refine lookupKey_absent none fun c hc => ?_
  obtain ⟨p, hp, rfl⟩ := List.mem_map.1 hc
  have := h p hp
  show p.1 ≠ ma / 256
  omega

/-- After a grant no error lies in the granule's MAC or counters, and its block has no home. -/
theorem grantFrame_metadata (hf : freshFrame s q ma = true) (leaf : Bool) : metaFails (grantFrame q ma s) ma leaf = false ∧
    ((grantFrame q ma s).counters.get CtrBlock.reset (ma / 16384)).home = none := by
  unfold grantFrame metaFails
  dsimp only
  rw [hf, if_pos rfl]
  constructor
  · rw [Table.get_dropRange, if_pos (by split <;> omega)]
    rfl
  · rw [Table.get_dropRange, if_pos (by omega)]
    rfl

/-- An access that passes the checks of its key passes them after the grant of its frame too. -/
theorem sealPasses_grantFrame (h : sealPasses s (some q) ma ia = true) : sealPasses (grantFrame q ma s) (some q) ma ia = true := by
  cases hf : freshFrame s q ma with
  | false => rwa [grantFrame_used hf]
  | true =>
    obtain ⟨hkeys, herrs, hcycle, -, -⟩ := grantFrame_keeps q ma s
    have hk : keyOf q (grantFrame q ma s) = keyOf q s := by rw [keyOf, hkeys]; rfl
    have hs := sealOf_unsealed (seals_grantFrame hf)
    obtain ⟨hleaf, hhome⟩ := grantFrame_metadata hf true
    obtain ⟨hmac, -⟩ := grantFrame_metadata hf false
    simp only [sealPasses, keyPasses, hf, Bool.true_or, Bool.and_true] at h
    simp [sealPasses, keyPasses, hk, treeIntact_congr hkeys herrs hcycle, h, leafStands, macPasses, grantFrame_granted hf, hleaf, hmac, hhome, hs]

/-- A read of a frame that its slot has used gives the bytes of memory. -/
theorem offRead_used (hs : sealPasses s (some q) ma ia = true) (he : memErrors 2 ma s = []) (hg : granted s q ma ia = false) :
    offRead s (some q) ma ia n = some (s.mem.readBytes ma n) := by
  unfold offRead
  rw [hs, he, if_neg (by decide)]
  simp only [hg]
  rfl

theorem granted_used (h : freshFrame s q ma = false) : granted s q ma ia = false := by simp [granted, h]

/-- A read as a rink meets it: the frame is granted, and then read. -/
theorem offRead_grantFrame (hs : sealPasses s (some q) ma ia = true) (he : memErrors 2 ma s = []) :
    offRead (grantFrame q ma s) (some q) ma ia n = some ((grantFrame q ma s).mem.readBytes ma n) := by
  refine offRead_used (sealPasses_grantFrame hs) ?_ (granted_used (freshFrame_grantFrame q ma s))
  obtain ⟨-, herrs, -⟩ := grantFrame_keeps q ma s
  rw [memErrors, herrs]
  exact he

end Grant

end Sys2Proof.Machine

/-! # Reads and writes of a granule (04 R111, 14 R353) -/

namespace Sys2Proof.Machine

open Host (Outcome)

theorem Mem.readBytes_map (m : Mem) (a n : Nat) : m.readBytes a n = (List.range n).map fun i => m.read (a + i) := by
  induction n generalizing a with
  | zero => rfl
  | succ n ih => simp [Mem.readBytes, ih, List.range_succ_eq_map, Function.comp_def, Nat.add_comm, Nat.add_left_comm]

section Granule

variable {s : State} {key : Option Nat} {q ma ia n : Nat}

/-- An ordinary frame holds nothing of before its grant. -/
theorem granted_ordinary (h : freshFrame s q ma = false ∨ ∀ c ∈ s.seals.cells, c.1 / 256 ≠ ma / 65536) : granted s q ma ia = false := by
  rcases h with h | h
  · exact granted_used h
  · simp [granted, sealOf_unsealed h]

/-- An access that meets nothing reads the bytes of memory. -/
theorem offRead_ordinaryGranule (h : ordinaryGranule s key ma ia n) : offRead s key ma ia n = some (s.mem.readBytes ma n) := by
  cases key with
  | none => exact offRead_ordinary h
  | some q =>
    obtain ⟨hs, he, hf⟩ := h
    exact offRead_used hs he (granted_ordinary hf)

/-! ## Reads -/

theorem rinkSees_below {s : State} (hi : bitOf ia 47 = false) (r : Nat) : rinkSees r key ma ia n s =
    (offRead (useFrame key ma s) key ma ia n).map fun b => (b, useFrame key ma s) := by
  simp only [rinkSees, hi, Bool.false_eq_true, if_false]

/-- What a read leaves: the frame granted, and the access counted. -/
theorem rinkRead_below {bytes : List Byte} (hi : bitOf ia 47 = false) (hr : offRead (useFrame key ma s) key ma ia n = some bytes) (r space : Nat) :
    ∃ t, rinkRead r space key ma ia n s = some (bytes, t) ∧ SameData (useFrame key ma s) t := by
  refine ⟨countCorrected r ma (countAccess r space ma ia 0 (useFrame key ma s)), ?_, (sameData_countAccess ..).trans (sameData_countCorrected ..)⟩
  rw [rinkRead, rinkSees_below hi, hr]
  rfl

theorem sameData_grantFrame (hf : freshFrame s q ma = false ∨ ∀ c ∈ s.seals.cells, c.1 / 256 ≠ ma / 65536) : SameData s (grantFrame q ma s) := by
  obtain ⟨-, -, -, hsites, hhost⟩ := grantFrame_keeps q ma s
  exact ⟨grantFrame_mem hf, hsites, hhost⟩

theorem rinkRead_ordinary (h : ordinaryGranule s key ma ia n) (hi : bitOf ia 47 = false) (r space : Nat) :
    ∃ t, rinkRead r space key ma ia n s = some (s.mem.readBytes ma n, t) ∧ SameData s t := by
  cases key with
  | none => exact rinkRead_below (s := s) (key := none) hi (offRead_ordinaryGranule h) r space
  | some q =>
    obtain ⟨hs, he, hf⟩ := h
    have hd := sameData_grantFrame hf
    obtain ⟨t, ht, hk⟩ := rinkRead_below (s := s) (key := some q) (n := n) hi (offRead_grantFrame hs he) r space
    exact ⟨t, by rw [ht, hd.mem], hd.trans hk⟩

/-- What a granule of a newly granted frame held was written under another seal. -/
theorem granted_sealed (hg : granted s q ma ia = true) : freshFrame s q ma = true ∧ (s.seals.cells.any fun c => c.1 / 256 == ma / 65536) = true := by
  obtain ⟨hs, hf⟩ := Bool.and_eq_true_iff.1 hg
  refine ⟨hf, ?_⟩
  by_contra hn
  rw [sealOf_unsealed fun c hc hk => hn (List.any_eq_true.2 ⟨c, hc, by simpa using hk⟩)] at hs
  exact absurd hs Bool.false_ne_true

/-- The first use of a frame that held other contents reads zeros, and the frame is zeros from then on. -/
theorem rinkRead_granted (hs : sealPasses s (some q) ma ia = true) (he : memErrors 2 ma s = []) (hg : granted s q ma ia = true)
    (hi : bitOf ia 47 = false) (hn : ma % 65536 + n ≤ 65536) (r space : Nat) :
    ∃ t, rinkRead r space (some q) ma ia n s = some (List.replicate n 0, t) ∧ t.sites = s.sites ∧
      ∀ b, t.mem.read b = if b / 65536 = ma / 65536 then 0 else s.mem.read b := by
  obtain ⟨hf, ha⟩ := granted_sealed hg
  have hm := grantFrame_cleared hf ha
  obtain ⟨-, -, -, hsites, -⟩ := grantFrame_keeps q ma s
  have hz : (grantFrame q ma s).mem.readBytes ma n = List.replicate n 0 := by
    refine List.eq_replicate_iff.2 ⟨Mem.length_readBytes .., fun b hb => ?_⟩
    rw [Mem.readBytes_map] at hb
    obtain ⟨i, hi, rfl⟩ := List.mem_map.1 hb
    have := List.mem_range.1 hi
    rw [hm, if_pos (by omega)]
  obtain ⟨t, ht, hk⟩ := rinkRead_below (s := s) (key := some q) (n := n) hi (offRead_grantFrame hs he) r space
  exact ⟨t, by rw [ht, hz], hk.sites.trans hsites, fun b => by rw [hk.mem]; exact hm b⟩

/-! ## Writes -/

/-- A write that covers less needs no less than a read. -/
theorem keyPasses_of_sealPasses (h : sealPasses s key ma ia = true) (whole : Bool) : keyPasses s key ma ia whole = true := by
  cases key with
  | none => rfl
  | some q =>
    simp only [sealPasses, keyPasses, Bool.false_or, Bool.and_eq_true, Bool.or_eq_true] at h ⊢
    obtain ⟨h, h'⟩ := h
    exact ⟨h, h'.imp_right fun h' => ⟨h'.1, .inr h'.2⟩⟩

variable {data : List Byte}

theorem offWrite_keyed (h : ordinaryGranule s (some q) ma ia data.length) :
    ∃ t, offWrite (some q) ma ia data s = some t ∧ Written ma data s t := by
  obtain ⟨hs, he, hf⟩ := h
  obtain ⟨hm, hsites, hhost⟩ := sameData_grantFrame hf
  unfold offWrite
  rw [keyPasses_of_sealPasses hs, he, if_neg (by simp)]
  exact ⟨_, rfl, congrArg (·.writeBytes ma data) hm, hsites, hhost⟩

theorem offWrite_plain (h : ordinaryGranule s none ma ia data.length) :
    ∃ t, offWrite none ma ia data s = some t ∧ Written ma data s t := by
  obtain ⟨-, he, hk, hl, -⟩ := h
  have hg : guardLeaves ma data (treadTrees ma data.length s) = (data, treadTrees ma data.length s) := by
    simp [guardLeaves, metLeaves_treadTrees hl]
  unfold offWrite
  rw [he, if_neg (by simp [keyPasses])]
  refine ⟨_, rfl, ?_⟩
  rw [hg, treadTrees_keys]
  rcases sealOf_plaintext hk with hs | hs <;>
  · simp only [hs]
    exact ⟨rfl, rfl, rfl⟩

theorem offWrite_written (h : ordinaryGranule s key ma ia data.length) : ∃ t, offWrite key ma ia data s = some t ∧ Written ma data s t := by
  cases key with
  | none => exact offWrite_plain h
  | some q => exact offWrite_keyed h

/-- A rink's write that meets nothing puts its bytes into memory. -/
theorem rinkPuts_written (h : ordinaryGranule s key ma ia data.length) (r : Nat) :
    ∃ t, rinkPuts r key ma ia data s = some t ∧ Written ma data s t := by
  obtain ⟨u, hu, hw⟩ := offWrite_written h
  simp only [rinkPuts, hu]
  split
  · exact ⟨_, rfl, hw.trans (sameData_viewWrite ..)⟩
  · exact ⟨u, rfl, hw⟩

theorem rinkWrite_written (h : ordinaryGranule s key ma ia data.length) (r space : Nat) :
    ∃ t, rinkWrite r space key ma ia data s = some t ∧ Written ma data s t := by
  obtain ⟨u, hu, hw⟩ := rinkPuts_written h r
  refine ⟨noteStored ma data.length (countAccess r space ma ia 1 u), by rw [rinkWrite, hu]; rfl, hw.trans ?_⟩
  exact (sameData_countAccess r space ma ia 1).trans ⟨rfl, rfl, rfl⟩

end Granule

end Sys2Proof.Machine

/-! # An access leaves its buffer (04 R111, R114) -/

namespace Sys2Proof.Machine

open Host (Outcome)

/-! ## The value of a load -/

/-- What a load's bytes give a scalar register. -/
def scalarLoaded (kind : LoadKind) (bytes : List Byte) : Word :=
  match kind with
  | .signed => .ofInt 64 (sext (8 * bytes.length) (leNat bytes))
  | _ => .ofNat 64 (leNat bytes)

theorem leNat_zeros (n : Nat) : leNat (List.replicate n 0) = 0 := by
  induction n with
  | zero => rfl
  | succ n ih =>
    show 0 + 256 * leNat (List.replicate n 0) = 0
    rw [ih]

theorem scalarLoaded_zeros (kind : LoadKind) (n : Nat) : scalarLoaded kind (List.replicate n 0) = 0 := by
  cases kind <;> simp only [scalarLoaded, leNat_zeros] <;> simp [sext]

theorem finishLoad_buf (now lat : Nat) (kind : LoadKind) (dst : Nat) (bytes : List Byte) (tag : Bool) (x : Ctx) :
    (finishLoad now lat kind dst bytes tag x).buf = x.buf := by
  unfold finishLoad
  split
  · exact (setPending_keeps .capability dst false x).1
  · rw [putS_buf, (setPending_keeps ..).1]
  · rw [putS_buf, (setPending_keeps ..).1]

theorem ofNat_scalar {dst : Nat} (h0 : 0 < dst) (h : dst < 32) : BitVec.ofNat 5 dst ≠ 0 ∧ (BitVec.ofNat 5 dst).toNat = dst := by
  have hd : (BitVec.ofNat 5 dst).toNat = dst := by
    rw [BitVec.toNat_ofNat]
    exact Nat.mod_eq_of_lt (by omega)
  refine ⟨fun e => ?_, hd⟩
  rw [e] at hd
  exact absurd hd (Nat.ne_of_lt h0)

theorem putS_get {dst : Nat} (h0 : 0 < dst) (h : dst < 32) (now lat : Nat) (v : Word) (x : Ctx) :
    (putS now lat (.ofNat 5 dst) v x).s.get 0 dst = v := by
  obtain ⟨hne, hd⟩ := ofNat_scalar h0 h
  have := getS_putS_same hne now lat v x
  rwa [getS, if_neg hne, hd] at this

theorem finishLoad_scalar {now lat dst : Nat} {kind : LoadKind} {bytes : List Byte} {tag : Bool} {x : Ctx} (hk : kind ≠ .capability)
    (h0 : 0 < dst) (h : dst < 32) : (finishLoad now lat kind dst bytes tag x).s.get 0 dst = scalarLoaded kind bytes := by
  unfold finishLoad
  split
  · exact absurd rfl hk
  · exact putS_get h0 h ..
  · exact putS_get h0 h ..

section Finish

variable {k : Nat} {x : Side} {a : Access} {mem : List Byte} {tag : Bool} {s : State}

theorem finishAccess_loads : (ctxOf (site k (finishAccess k x a mem tag s)) x).buf.loads = (ctxOf (site k s) x).buf.loads.drop 1 := by
  unfold finishAccess
  rw [site_modSite_same, ctxOf_modCtx, finishLoad_buf]

theorem finishAccess_scalar (hk : a.kind ≠ .capability) (h0 : 0 < a.dst) (h : a.dst < 32) :
    (ctxOf (site k (finishAccess k x a mem tag s)) x).s.get 0 a.dst = scalarLoaded a.kind (overlay (ctxOf (site k s) x).buf a mem) := by
  unfold finishAccess
  rw [site_modSite_same, ctxOf_modCtx, finishLoad_scalar hk h0 h]

/-! ## Off-chip loads -/

theorem exec_offChipLoad (h : offLoad k x s = some a) : exec (.offChipAccessPerformed k x true) s = .next (performOffLoad k x s) := by
  show execOffChipAccessPerformed k x true s = _
  simp only [execOffChipAccessPerformed, Bool.not_true, Bool.false_eq_true, if_false, h, Option.isSome_some, if_true]

/-- A load that no older store meets takes nothing from one. -/
theorem allForwarded_none {b : Buffers} (ho : olderStores b a = []) (hn : 0 < a.len) : allForwarded b a = false := by
  refine Bool.eq_false_iff.2 fun h => ?_
  have := List.all_eq_true.1 h 0 (List.mem_range.2 hn)
  simp [forwarded, ho] at this

theorem performOffLoad_read {ma ia : Nat} {key : Option Nat} {bytes : List Byte} {t : State} (ht : a.target = .machine ma ia key)
    (hl : offLoad k x s = some a) (ho : olderStores (ctxOf (site k s) x).buf a = []) (hn : 0 < a.len)
    (hr : rinkRead (ctxRink k x s) a.space key ma ia a.len s = some (bytes, t)) : performOffLoad k x s = finishAccess k x a bytes false t := by
  simp only [performOffLoad, hl, ht, allForwarded_none ho hn, hr, Bool.false_eq_true, if_false]

/-- A load that reads its bytes leaves the buffer, and a scalar register takes their value. -/
theorem offLoad_performed {ma ia : Nat} {key : Option Nat} {bytes : List Byte} {t : State} (ht : a.target = .machine ma ia key)
    (hl : offLoad k x s = some a) (ho : olderStores (ctxOf (site k s) x).buf a = []) (hn : 0 < a.len)
    (hr : rinkRead (ctxRink k x s) a.space key ma ia a.len s = some (bytes, t)) (hs : t.sites = s.sites) (hb : bytes.length = a.len)
    (h0 : 0 < a.dst) (h : a.dst < 32) :
    ∃ u, exec (.offChipAccessPerformed k x true) s = .next u ∧
      (ctxOf (site k u) x).buf.loads = (ctxOf (site k s) x).buf.loads.drop 1 ∧
      (a.kind ≠ .capability → (ctxOf (site k u) x).s.get 0 a.dst = scalarLoaded a.kind bytes) ∧ u.mem = t.mem := by
  have hk : site k t = site k s := by rw [site, hs]; rfl
  refine ⟨finishAccess k x a bytes false t, ?_, ?_, fun hc => ?_, rfl⟩
  · rw [exec_offChipLoad hl, performOffLoad_read ht hl ho hn hr]
  · rw [finishAccess_loads, hk]
  · rw [finishAccess_scalar hc h0 h, hk, overlay_none ho hb]

/-! ## Off-chip stores -/

theorem exec_offChipStore : exec (.offChipAccessPerformed k x false) s = .next (performOffStore k x s) := rfl

theorem dropStore_stores : (ctxOf (site k (dropStore k x s)) x).buf.stores = (ctxOf (site k s) x).buf.stores.drop 1 := by
  unfold dropStore
  rw [site_modSite_same, ctxOf_modCtx]

theorem offStore_performed {ma ia : Nat} {key : Option Nat} (ht : a.target = .machine ma ia key) (hs : offStore k x s = some a)
    (hg : ordinaryGranule s key ma ia a.data.length) : ∃ t, performOffStore k x s = t ∧ Written ma a.data (dropStore k x s) t := by
  have hq : (modCtx x (fun v => { v with buf := { v.buf with stores := v.buf.stores.drop 1 } }) (site k s)).q = (site k s).q := by
    cases x <;> rfl
  obtain ⟨t, hw, h⟩ := rinkWrite_written (ordinaryGranule_modSite hq hg) (ctxRink k x s) a.space
  refine ⟨t, ?_, h⟩
  have hw' : rinkWrite (ctxRink k x s) a.space key ma ia a.data (dropStore k x s) = some t := hw
  simp only [performOffStore, hs, ht, hw']

end Finish

end Sys2Proof.Machine

/-! # Accesses of tile memory from a buffer (04 R114, 10 R262) -/

namespace Sys2Proof.Machine

open Host (Outcome)

/-! ## The bytes of a valid group -/

section Bytes

variable {t : Tm} {b g : Nat}

/-- A group that is touched is valid, and what another group held stays. -/
theorem touchGroup_keeps (h : (t.groups.get Group.empty (b / 4096)).valid = true) :
    ((touchGroup g t).groups.get Group.empty (b / 4096)).valid = true ∧ (touchGroup g t).bytes.read b = t.bytes.read b := by
  have hg (u : Tm) : (markWritten g u).groups = u.groups ∧ (markWritten g u).bytes = u.bytes := by
    unfold markWritten
    split <;> exact ⟨rfl, rfl⟩
  unfold touchGroup
  dsimp only
  rw [(hg _).1, (hg _).2]
  by_cases hb : b / 4096 = g
  · subst hb
    rw [if_pos h]
    exact ⟨congrArg Group.valid (Table.get_setD_same ..), rfl⟩
  · constructor
    · refine (congrArg Group.valid (Table.get_setD_ne _ _ _ hb)).trans ?_
      split <;> exact h
    · split
      · rfl
      · exact (Mem.read_dropRange ..).trans (if_neg (by omega))

theorem touchGroups_keep (gs : List Nat) (h : (t.groups.get Group.empty (b / 4096)).valid = true) :
    (gs.foldl (fun t g => touchGroup g t) t).bytes.read b = t.bytes.read b := by
  induction gs generalizing t with
  | nil => rfl
  | cons g gs ih =>
    obtain ⟨hv, hb⟩ := touchGroup_keeps (g := g) h
    exact (ih hv).trans hb

/-- A write of TM writes its bytes, and keeps the others of a valid group. -/
theorem tmWrite_read {addr : Nat} {data : List Byte} {tag : Option Bool} (hd : data ≠ []) (h : (t.groups.get Group.empty (b / 4096)).valid = true) :
    (tmWrite addr data tag t).bytes.read b = if addr ≤ b ∧ b < addr + data.length then nth 0 data (b - addr) else t.bytes.read b := by
  unfold tmWrite
  rw [if_neg (by simpa using hd)]
  exact (Mem.read_writeBytes ..).trans (by rw [touchGroups_keep _ h])

end Bytes

section TmAccess

variable {s : State} {k j addr : Nat} {x : Side} {a : Access}

theorem noteWrite_sites (r src k g : Nat) (s : State) : (noteWrite r src k g s).sites = s.sites := by
  unfold noteWrite
  split
  · split <;> rfl
  · rfl

theorem ctxOf_corrected (n : Nat) (c : Site) (x : Side) : ctxOf (corrected addr n c) x = ctxOf c x := by
  unfold corrected
  dsimp only
  split <;> rfl

/-! ## Stores -/

/-- What a store of TM does to the core that holds the bytes. -/
def storedSite (r addr : Nat) (a : Access) (d : Site) : Site :=
  let tag := match a.kind with
    | .capability => some a.tag
    | _ => none
  takeBank r (.tmStore addr a.data tag) (modTm (tmWrite addr a.data tag) d)

theorem performTmStore_eq (hs : mayStore (site k s).now (ctxOf (site k s) x).buf = some a) (ht : a.target = .tm j addr)
    (hf : spanFree (site j s) addr a.len true = true) : performTmStore k x s =
      dropStore k x (noteWrite (ctxRink k x s) k j (addr / 4096) (modSite j (storedSite (ctxRink k x s) addr a) s)) := by
  unfold performTmStore
  simp only [hs, ht, hf, Bool.not_true, Bool.false_eq_true, if_false]
  rfl

theorem performTmStore_bytes (hs : mayStore (site k s).now (ctxOf (site k s) x).buf = some a) (ht : a.target = .tm j addr)
    (hf : spanFree (site j s) addr a.len true = true) (hd : a.data ≠ []) {b : Nat} (hv : (groupOf (site j s) (b / 4096)).valid = true) :
    (site j (performTmStore k x s)).tm.bytes.read b =
      if addr ≤ b ∧ b < addr + a.data.length then nth 0 a.data (b - addr) else (site j s).tm.bytes.read b := by
  have hm (c : Site) : (modCtx x (fun v => { v with buf := { v.buf with stores := v.buf.stores.drop 1 } }) c).tm = c.tm := by cases x <;> rfl
  rw [performTmStore_eq hs ht hf, dropStore, site_modSite_keeps Site.tm hm, site, noteWrite_sites]
  exact (congrArg (fun c : Site => c.tm.bytes.read b) (site_modSite_same j _ s)).trans (tmWrite_read hd hv)

theorem performTmStore_stores (hs : mayStore (site k s).now (ctxOf (site k s) x).buf = some a) (ht : a.target = .tm j addr)
    (hf : spanFree (site j s) addr a.len true = true) :
    (ctxOf (site k (performTmStore k x s)) x).buf.stores = (ctxOf (site k s) x).buf.stores.drop 1 := by
  rw [performTmStore_eq hs ht hf, dropStore_stores, site, noteWrite_sites]
  exact congrArg (fun c : Ctx => c.buf.stores.drop 1) (site_modSite_keeps (ctxOf · x) (f := storedSite (ctxRink k x s) addr a) (fun _ => rfl) j k s)

/-! ## Loads -/

/-- A load whose groups are valid and sound finishes with the bytes of TM. -/
theorem performTmLoad_eq (hl : mayLoad (site k s).now (ctxOf (site k s) x).buf = some a) (ht : a.target = .tm j addr)
    (hf : spanFree (site j s) addr a.len true = true) (hv : ∀ g ∈ spanGroups (addr, a.len, false), (groupOf (site j s) g).valid = true)
    (he : spoiled (site j s).tm addr a.len = none) : ∃ (act : Act) (tag : Bool), performTmLoad k x s =
      finishAccess k x a (tmRead (site j s).tm addr a.len) tag
        (modSite j (corrected addr a.len) (modSite j (takeBank (ctxRink k x s) act) s)) := by
  have hbad : ((spanGroups (addr, a.len, false)).filter fun g => !(groupOf (site j s) g).valid) = [] := by
    rw [List.filter_eq_nil_iff]
    intro g hg
    simp [hv g hg]
  have hf' : spanFree (site j s) addr a.len false = true := hf
  refine ⟨.ccLoad k x addr a.len a.kind a.ldc a.dst, (site j s).tm.tags.get false (addr / 16), ?_⟩
  unfold performTmLoad
  simp only [hl, ht, hf', hbad, he, ite_self, List.isEmpty_nil, Bool.true_or, Bool.not_true, Bool.false_eq_true, if_false, if_true]
  rfl

theorem overlay_tmRead (b : Buffers) (d : Tm) : overlay b a (tmRead d addr a.len) =
    (List.range a.len).map fun i => (forwarded b a i).getD (d.bytes.read (addr + i)) := by
  refine List.map_congr_left fun i hi => ?_
  have hi := List.mem_range.1 hi
  rw [tmRead, Mem.readBytes_map, nth, List.getD_eq_getElem _ _ (by simpa using hi)]
  simp

end TmAccess

/-- Settles O21: an access that meets nothing reads or writes the bytes of its own address, off the die through the checks of its key and in TM through the
groups of its span. -/
theorem bufferedAccessesPerformed : Obligations.BufferedAccessesPerformed := by
  unfold Obligations.BufferedAccessesPerformed
  refine ⟨fun s k x a ma ia key ht => ⟨fun hs hg => ?store, fun hl hg hi ho hn h0 h => ?load, fun q hq hl hp he hgr hi ho hn hfit h0 h hk => ?granted⟩,
    fun s k j x a addr ht hn hf => ⟨fun hs hd => ?tmStore, fun hl hv he hk h0 h => ?tmLoad⟩⟩
  case store =>
    obtain ⟨t, rfl, hw⟩ := offStore_performed ht hs hg
    refine ⟨_, exec_offChipStore, fun b => ?_, ?_, hw.host⟩
    · rw [hw.mem]
      exact Mem.read_writeBytes ..
    · rw [hw.site]
      exact dropStore_stores
  case load =>
    obtain ⟨t, hr, hd⟩ := rinkRead_ordinary hg hi (ctxRink k x s) a.space
    obtain ⟨u, hu, hloads, hval, hmem⟩ := offLoad_performed ht hl ho hn hr hd.sites (Mem.length_readBytes ..) h0 h
    refine ⟨u, hu, hloads, fun hk => ?_, fun hk => ?_, fun b => by rw [hmem, hd.mem]⟩
    · rw [hval (by rw [hk]; decide), hk]
      rfl
    · rw [hval (by rw [hk]; decide), hk, scalarLoaded, Mem.length_readBytes]
  case granted =>
    subst hq
    obtain ⟨t, hr, hsites, hz⟩ := rinkRead_granted hp he hgr hi hfit (ctxRink k x s) a.space
    obtain ⟨u, hu, -, hval, hmem⟩ := offLoad_performed ht hl ho hn hr hsites (List.length_replicate ..) h0 h
    exact ⟨u, hu, (hval hk).trans (scalarLoaded_zeros ..), fun b => by rw [hmem, hz]⟩
  case tmStore =>
    refine ⟨fun b hv => ?_, performTmStore_stores hs ht hf⟩
    rw [performTmStore_bytes hs ht hf (List.ne_nil_of_length_pos (by omega)) hv, hd]
  case tmLoad =>
    obtain ⟨act, tag, hp⟩ := performTmLoad_eq hl ht hf hv he
    have hctx : ctxOf (site k (modSite j (corrected addr a.len) (modSite j (takeBank (ctxRink k x s) act) s))) x = ctxOf (site k s) x :=
      (site_modSite_keeps (ctxOf · x) (fun c => ctxOf_corrected a.len c x) j k _).trans
        (site_modSite_keeps (ctxOf · x) (f := takeBank (ctxRink k x s) act) (fun _ => rfl) j k s)
    intro t
    have ht' : t = _ := hp
    rw [ht']
    refine ⟨?_, by rw [finishAccess_loads, hctx]⟩
    rw [finishAccess_scalar (by rw [hk]; decide) h0 h, hctx, hk, overlay_tmRead]
    rfl

end Sys2Proof.Machine

/-! # Atomics as they issue (04 R118, R120) -/

namespace Sys2Proof.Machine

open Host (Outcome)

section AtomicIssue

/-- The value that a CAS expects; other atomics have none. -/
def expectedOf (exp : Option (BitVec 5)) (x : Ctx) : Word :=
  match exp with
  | some e => getS x e
  | none => 0

/-- The check of the register of a CAS's expected value. -/
def expectedHit (exp : Option (BitVec 5)) (s : State) : Option Hit :=
  match exp with
  | some e => readS (mySite s).now (myCtx s) e
  | none => none

def atomicLen (dbl : Bool) : Nat := if dbl then 8 else 4

/-- The request of an atomic word at its location's unit (04 R118). -/
def atomicRequest (op : AtomicOp) (dbl : Bool) (d : BitVec 5) (a : BitVec 4) (b : BitVec 5) (exp : Option (BitVec 5)) (ma ia : Nat) (key : Option Nat)
    (s : State) : AtomReq :=
  { requester := 2 * s.cur.site + b2n s.cur.ctx, op := op, dbl := dbl, space := (getA (myCtx s) a).space, ma := ma, ia := ia, key := key,
    operand := getS (myCtx s) b, expected := expectedOf exp (myCtx s), site := s.cur.site, ctx := s.cur.ctx, dst := d.toNat, wanted := true }

/-- The unit of a location with one request more at the end of its queue. -/
def enqueueAtomic (bank : Nat) (r : AtomReq) (s : State) : State :=
  { s with atomics := s.atomics.put bank { s.atomics.get AtomBank.reset bank with q := (s.atomics.get AtomBank.reset bank).q ++ [r] } }

theorem memoryKept_enqueueAtomic (bank : Nat) (r : AtomReq) (s : State) : MemoryKept s (enqueueAtomic bank r s) :=
  ⟨fun _ => rfl, fun _ => rfl, fun _ _ => rfl, fun _ _ _ => rfl⟩

/-- The context of an atomic whose request is queued. -/
def withAtomic (d : BitVec 5) (x : Ctx) : Ctx := setPending .unsigned d.toNat true { x with buf := { x.buf with atomicOut := true } }

variable {s s' : State} {op : AtomicOp} {dbl : Bool} {d b : BitVec 5} {a : BitVec 4} {exp : Option (BitVec 5)} {ma ia : Nat} {key : Option Nat}

/-- The register checks of an atomic pass. -/
theorem atomicRegs_none (ha : readableA s a) (hb : readableS s b) (he : ∀ e, exp = some e → readableS s e) (hd : settledS s d) :
    firstHit [readA (mySite s).now (myCtx s) a, readS (mySite s).now (myCtx s) b, expectedHit exp s, writeS (mySite s).now 0 (myCtx s) d] = none := by
  have hexp : expectedHit exp s = none := by
    cases exp with
    | none => rfl
    | some e => exact readS_none (he e rfl)
  rw [readA_none ha, readS_none hb, hexp, writeS_none hd]
  rfl

variable (hregs : firstHit [readA (mySite s).now (myCtx s) a, readS (mySite s).now (myCtx s) b, expectedHit exp s,
  writeS (mySite s).now 0 (myCtx s) d] = none)

/-- The checks of an atomic after those of its registers, in their order (04 R112, R118). -/
def atomicChecks (timed : Bool) (c : Cap) (n : Nat) : List (Option Hit) :=
  [hitIf (!c.tag) (.trap 4 0), hitIf timed (.trap 0x0E 0), hitIf (c.space != 0 && c.space != 1 && c.space != 4) (.trap 0x0F 0),
    hitIf (!c.hasLD || !c.hasST) (.trap 6 0), hitIf (!c.inBounds c.cursor n) (.trap 5 0), hitIf (c.cursor % n != 0) (.trap 7 0)]

include hregs in
theorem atomicWord_stop {h : Hit} (hh : firstHit (atomicChecks (myCtx s).ctl.timetabled (getA (myCtx s) a) (atomicLen dbl)) = some h) :
    atomicWord op dbl d a b exp s = .next (ccStop h s) := by
  have hall := (firstHit_append (m := atomicChecks (myCtx s).ctl.timetabled (getA (myCtx s) a) (atomicLen dbl)) hregs).trans hh
  unfold atomicWord
  dsimp only
  split
  · next h' heq => rw [Option.some.inj (heq.symm.trans hall)]
  · next heq => exact absurd (heq.symm.trans hall) nofun

include hregs in
/-- An atomic that passes its checks queues its request, and its register is pending (04 R118, R120). -/
theorem atomicWord_enqueues (hh : firstHit (atomicChecks (myCtx s).ctl.timetabled (getA (myCtx s) a) (atomicLen dbl)) = none)
    (hr : resolve (myRink s) (getA (myCtx s) a).space (getA (myCtx s) a).cursor (atomicLen dbl) true true s = (.ok (.machine ma ia key), s'))
    (hdr : drained (myCtx s).buf = true) (hroom : (s'.atomics.get AtomBank.reset (Config.bankOf (ma / 256))).q.length < 64) :
    atomicWord op dbl d a b exp s = .next (modMyCtx (fun x => ccIssue (mySite s).now 1 (advancePc (withAtomic d x)))
      (enqueueAtomic (Config.bankOf (ma / 256)) (atomicRequest op dbl d a b exp ma ia key s) s')) := by
  have hall := (firstHit_append (m := atomicChecks (myCtx s).ctl.timetabled (getA (myCtx s) a) (atomicLen dbl)) hregs).trans hh
  unfold atomicWord
  dsimp only
  split
  · next heq => exact absurd (heq.symm.trans hall) nofun
  · have hr' : resolve (myRink s) (getA (myCtx s) a).space (getA (myCtx s) a).cursor (if dbl then 8 else 4) true true s =
        (.ok (.machine ma ia key), s') := hr
    have hfull : decide (64 ≤ (s'.atomics.get AtomBank.reset (Config.bankOf (ma / 256))).q.length) = false := decide_eq_false (by omega)
    simp only [hr', hdr, hfull, Bool.not_true, Bool.or_self, Bool.false_eq_true, if_false]
    rfl

/-! ## What an atomic word does -/

/-- A word issues as the atomic of its operation: not in timetabled mode, and in free mode by queueing its request. -/
def IssuesAtomic (s s' : State) (dbl : Bool) (d b : BitVec 5) (a : BitVec 4) (ma ia : Nat) (key : Option Nat) (i : Instr) (op : AtomicOp)
    (expected : Word) : Prop :=
  let x := myCtx s
  let c := getA x a
  let n := atomicLen dbl
  let bank := Config.bankOf (ma / 256)
  let queue := (s'.atomics.get AtomBank.reset bank).q
  (c.tag = true → x.ctl.timetabled = true → exec i s = .next (takeTrap false 0x0E 0 false s)) ∧
  (c.tag = true → freeMode s → c.space = 0 ∨ c.space = 1 ∨ c.space = 4 → c.hasLD = true → c.hasST = true →
    c.inBounds c.cursor n = true → c.cursor % n = 0 →
    resolve (myRink s) c.space c.cursor n true true s = (.ok (.machine ma ia key), s') → drained x.buf = true → queue.length < 64 →
    ∃ u r, exec i s = .next u ∧ (u.atomics.get AtomBank.reset bank).q = queue ++ [r] ∧
      r.op = op ∧ r.dbl = dbl ∧ r.ma = ma ∧ r.ia = ia ∧ r.key = key ∧ r.operand = getS x b ∧ r.expected = expected ∧ r.dst = d.toNat ∧
      r.site = s.cur.site ∧ r.ctx = s.cur.ctx ∧ (myCtx u).buf.atomicOut = true ∧ (d ≠ 0 → (myCtx u).sElastic.getLsbD d.toNat = true) ∧
      (myCtx u).s = x.s ∧ (outsideSlots s → (myCtx u).pc = x.pc + 4) ∧ MemoryKept s u)

theorem atomicChecks_none {c : Cap} {n : Nat} (htag : c.tag = true) (hspace : c.space = 0 ∨ c.space = 1 ∨ c.space = 4) (hld : c.hasLD = true)
    (hst : c.hasST = true) (hin : c.inBounds c.cursor n = true) (halign : c.cursor % n = 0) : firstHit (atomicChecks false c n) = none := by
  have hs : (c.space != 0 && c.space != 1 && c.space != 4) = false := by
    rcases hspace with h | h | h <;> rw [h] <;> rfl
  simp [atomicChecks, htag, hs, hld, hst, hin, halign, firstHit]

theorem withAtomic_keeps (d : BitVec 5) (x : Ctx) : (withAtomic d x).buf.atomicOut = true ∧ (withAtomic d x).s = x.s ∧ (withAtomic d x).pc = x.pc ∧
    (withAtomic d x).slots = x.slots := by
  obtain ⟨hbuf, hs, -, hpc, hslots⟩ := setPending_keeps .unsigned d.toNat true { x with buf := { x.buf with atomicOut := true } }
  exact ⟨congrArg Buffers.atomicOut hbuf, hs, hpc, hslots⟩

theorem withAtomic_pending {d : BitVec 5} (h : d ≠ 0) (x : Ctx) : (withAtomic d x).sElastic.getLsbD d.toNat = true := by
  have h0 : d.toNat ≠ 0 := fun h' => h (BitVec.eq_of_toNat_eq h')
  rw [withAtomic, setPending_scalar (by decide) h0]
  exact getLsbD_setBit_true d.isLt _

theorem issuesAtomic_of_word {i : Instr} {expected : Word} (hi : exec i s = atomicWord op dbl d a b exp s) (hw : expectedOf exp (myCtx s) = expected)
    (ha : readableA s a) (hb : readableS s b) (he : ∀ e, exp = some e → readableS s e) (hd : settledS s d) :
    IssuesAtomic s s' dbl d b a ma ia key i op expected := by
  have hregs := atomicRegs_none ha hb he hd
  refine ⟨fun htag hm => ?timed, fun htag hm hspace hld hst hin halign hr hdr hroom => ?free⟩
  case timed => exact hi.trans (atomicWord_stop hregs (h := .trap 0x0E 0) (by rw [hm]; simp [atomicChecks, htag, firstHit]))
  case free =>
    have ho : ObservedOnly s s' := .of_resolve hr
    have hm' : (myCtx s).ctl.timetabled = false := hm
    have hchecks : firstHit (atomicChecks (myCtx s).ctl.timetabled (getA (myCtx s) a) (atomicLen dbl)) = none := by
      rw [hm']
      exact atomicChecks_none htag hspace hld hst hin halign
    obtain ⟨hout, hs, hpc, hslots⟩ := withAtomic_keeps d (myCtx s)
    have hctx (bank : Nat) (r : AtomReq) : myCtx (modMyCtx (fun x => ccIssue (mySite s).now 1 (advancePc (withAtomic d x))) (enqueueAtomic bank r s')) =
        ccIssue (mySite s).now 1 (advancePc (withAtomic d (myCtx s))) := by
      rw [myCtx_modMyCtx, ← ho.myCtx]
      rfl
    refine ⟨_, atomicRequest op dbl d a b exp ma ia key s, hi.trans (atomicWord_enqueues hregs hchecks hr hdr hroom), ?queue, rfl, rfl, rfl, rfl, rfl,
      rfl, hw, rfl, rfl, rfl, ?_, fun h0 => ?_, ?_, fun hsl => ?_, ?kept⟩
    case queue => exact congrArg AtomBank.q (Table.get_put_same ..)
    case kept => exact (ho.memoryKept.trans (memoryKept_enqueueAtomic ..)).trans (memoryKept_modMyCtx _ _)
    all_goals rw [hctx]
    · rw [ccIssue_buf, advancePc_buf, hout]
    · rw [ccIssue_sElastic, advancePc_sElastic, withAtomic_pending h0]
    · rw [ccIssue_s, advancePc_s, hs]
    · rw [ccIssue_pc, advancePc_pc _ (hslots.trans hsl), hpc]

end AtomicIssue

end Sys2Proof.Machine

/-! # The atomic unit (04 R118, R119, 11 R294, R295) -/

namespace Sys2Proof.Machine

open Host (Outcome)

/-! ## The value written -/

section Value

variable {k m v e : Nat}

/-- An atomic of numbers that fit the location gives one that fits it. -/
theorem atomicNew_lt {op : AtomicOp} {w : Nat} (hm : m < 2 ^ k) (hv : v < 2 ^ k) (h : atomicNew op k m v e = some w) : w < 2 ^ k := by
  cases op with
  | cas =>
    obtain ⟨-, h⟩ := (Option.ite_none_right_eq_some ..).1 h
    obtain rfl := Option.some.inj h
    exact hv
  | add =>
    obtain rfl := Option.some.inj h
    exact Nat.mod_lt _ (Nat.two_pow_pos k)
  | and =>
    obtain rfl := Option.some.inj h
    exact Nat.and_lt_two_pow m hv
  | or =>
    obtain rfl := Option.some.inj h
    exact Nat.or_lt_two_pow hm hv
  | xor =>
    obtain rfl := Option.some.inj h
    exact Nat.xor_lt_two_pow hm hv
  | swap =>
    obtain rfl := Option.some.inj h
    exact hv
  | min | max =>
    obtain rfl := Option.some.inj h
    split <;> assumption
  | minn =>
    obtain rfl := Option.some.inj h
    exact (Nat.min_le_left m v).trans_lt hm
  | maxn =>
    obtain rfl := Option.some.inj h
    exact Nat.max_lt.2 ⟨hm, hv⟩

/-- A number that fits its width, read as signed. -/
theorem sext_of_lt (h : m < 2 ^ k) : sext k m = if m < 2 ^ (k - 1) then (m : Int) else (m : Int) - 2 ^ k := by
  unfold sext
  rw [Nat.mod_eq_of_lt h]
  push_cast
  rfl

end Value

theorem leNat_lt (l : List Byte) : leNat l < 256 ^ l.length := by
  induction l with
  | nil => exact Nat.one_pos
  | cons b bs ih =>
    have hb : b.toNat < 256 := b.isLt
    rw [leNat, List.length_cons, Nat.pow_succ']
    omega

theorem pow_256_eq (n : Nat) : 256 ^ n = 2 ^ (8 * n) := (Nat.pow_mul 2 8 n).symm

/-! ## A request that is served -/

section Serve

variable {s : State} {a : AtomReq}

theorem ordinaryGranule_sawLatest {key : Option Nat} {ma ia n : Nat} (r : Nat) (h : ordinaryGranule s key ma ia n) :
    ordinaryGranule (sawLatest a r s) key ma ia n := by
  unfold sawLatest
  split
  · exact h
  · exact SameStore.ordinary rfl (fun _ he => he) h

theorem sameData_sawLatest (r : Nat) : SameData s (sawLatest a r s) := by
  unfold sawLatest
  split <;> exact ⟨rfl, rfl, rfl⟩

/-- The requesters below 1024 are contexts. -/
theorem not_isHost (hr : a.requester < 1024) : isHost a = false := decide_eq_false (by omega)

theorem sameData_countAtomic (hr : a.requester < 1024) (r : Nat) : SameData s (countAtomic a r s) := by
  have hh := not_isHost hr
  simp only [countAtomic, hh, Bool.false_eq_true, if_false]
  exact (sameData_countCorrected ..).trans (sameData_countAccess ..)

/-- The value that a request leaves in its location, if it writes. -/
def atomicWritten (a : AtomReq) (m : Nat) : Option Nat :=
  atomicNew a.op (8 * atomLen a) m (a.operand.toNat % 2 ^ (8 * atomLen a)) (a.expected.toNat % 2 ^ (8 * atomLen a))

/-- The memory after a request has read `m` and written. -/
def atomicMem (a : AtomReq) (m : Nat) (mem : Mem) : Mem :=
  match atomicWritten a m with
  | none => mem
  | some v => mem.writeBytes a.ma (leBytes (atomLen a) v)

/-- A request whose location meets nothing reads, writes and answers together. -/
theorem performAtomic_ordinary (hr : a.requester < 1024) (h : ordinaryGranule s a.key a.ma a.ia (atomLen a)) :
    ∃ t, performAtomic a s = answerAtomic a (leNat (s.mem.readBytes a.ma (atomLen a))) t ∧ t.sites = s.sites ∧
      t.mem = atomicMem a (leNat (s.mem.readBytes a.ma (atomLen a))) s.mem := by
  have hh := not_isHost hr
  have hsaw := sameData_sawLatest (s := s) (a := a) (ctxRink a.site a.ctx s)
  unfold performAtomic atomicMem atomicWritten
  simp only [offRead_ordinaryGranule h, hh, Bool.false_eq_true, if_false]
  generalize atomicNew a.op (8 * atomLen a) (leNat (s.mem.readBytes a.ma (atomLen a))) (a.operand.toNat % 2 ^ (8 * atomLen a))
    (a.expected.toNat % 2 ^ (8 * atomLen a)) = written
  cases written with
  | none =>
    have hc := hsaw.trans (sameData_countAtomic hr (ctxRink a.site a.ctx s))
    exact ⟨_, rfl, hc.sites, hc.mem⟩
  | some v =>
    obtain ⟨u, hu, hw⟩ := rinkPuts_written (data := leBytes (atomLen a) v)
      (by rw [length_leBytes]; exact ordinaryGranule_sawLatest (a := a) (ctxRink a.site a.ctx s) h) (ctxRink a.site a.ctx s)
    have hc := (Written.of_same hsaw hw).trans (sameData_countAtomic hr (ctxRink a.site a.ctx s))
    simp only [hu]
    exact ⟨_, rfl, hc.sites, hc.mem⟩

/-- The location then holds the value written, or the one it held. -/
theorem atomicMem_value {mem : Mem} : leNat ((atomicMem a (leNat (mem.readBytes a.ma (atomLen a))) mem).readBytes a.ma (atomLen a)) =
    (atomicWritten a (leNat (mem.readBytes a.ma (atomLen a)))).getD (leNat (mem.readBytes a.ma (atomLen a))) := by
  have hm := leNat_lt (mem.readBytes a.ma (atomLen a))
  rw [Mem.length_readBytes, pow_256_eq] at hm
  cases hw : atomicWritten a (leNat (mem.readBytes a.ma (atomLen a))) with
  | none => simp only [atomicMem, hw, Option.getD_none]
  | some v =>
    have hv : v < 256 ^ atomLen a := by
      rw [pow_256_eq]
      exact atomicNew_lt hm (Nat.mod_lt _ (Nat.two_pow_pos _)) hw
    have hb := Mem.readBytes_writeBytes mem a.ma (leBytes (atomLen a) v)
    rw [length_leBytes] at hb
    simp only [atomicMem, hw, Option.getD_some, hb, leNat_leBytes_of_lt hv]

/-- No other byte of memory differs. -/
theorem atomicMem_other {mem : Mem} {m b : Nat} (h : b < a.ma ∨ a.ma + atomLen a ≤ b) : (atomicMem a m mem).read b = mem.read b := by
  unfold atomicMem
  split
  · rfl
  · exact Mem.read_writeBytes_out _ _ _ _ (by rw [length_leBytes]; exact h)

/-! ## The answer -/

theorem answerAtomic_mem (hr : a.requester < 1024) (m : Nat) (s : State) : (answerAtomic a m s).mem = s.mem := by
  have hh := not_isHost hr
  unfold answerAtomic
  rw [hh, if_neg Bool.false_ne_true]
  split <;> rfl

theorem answerAtomic_unwanted (hr : a.requester < 1024) (hw : a.wanted = false) (m : Nat) (s : State) : answerAtomic a m s = s := by
  have hh := not_isHost hr
  simp [answerAtomic, hh, hw]

/-- The register of a context that waits takes the old value, and the context waits no more. -/
theorem answerAtomic_wanted (hr : a.requester < 1024) (hw : a.wanted = true) (h0 : 0 < a.dst) (h : a.dst < 32) (m : Nat) (s : State) :
    (ctxOf (site a.site (answerAtomic a m s)) a.ctx).s.get 0 a.dst = (if a.dbl then nat64 m else .ofInt 64 (sext 32 m)) ∧
      (ctxOf (site a.site (answerAtomic a m s)) a.ctx).buf.atomicOut = false := by
  have hh := not_isHost hr
  simp only [answerAtomic, hh, hw, Bool.not_true, Bool.false_eq_true, if_false, site_modSite_same, ctxOf_modCtx]
  refine ⟨putS_get h0 h .., ?_⟩
  rw [putS_buf, (setPending_s ..).2]

end Serve

/-! ## The unit's event -/

section Unit

variable {s : State} {bank : Nat} {r : AtomReq}

theorem exec_atomicUnitServe_waits (hp : pickAtomic (s.atomics.get AtomBank.reset bank) = some r) (hw : atomWaits r s = true) :
    exec (.atomicUnitServe bank) s = .next s := by
  show execAtomicUnitServe bank s = _
  simp only [execAtomicUnitServe, hp, hw, if_true]

theorem exec_atomicUnitServe_serves (hp : pickAtomic (s.atomics.get AtomBank.reset bank) = some r) (hw : atomWaits r s = false) :
    ∃ q, exec (.atomicUnitServe bank) s = .next (performAtomic r { s with atomics := q }) := by
  refine ⟨s.atomics.put bank { ptr := r.requester, q := dropReq r (s.atomics.get AtomBank.reset bank).q }, ?_⟩
  show execAtomicUnitServe bank s = _
  simp only [execAtomicUnitServe, hp, hw, Bool.false_eq_true, if_false]

/-- A request is served in one step: its location's new value, the answer to its context, and no other byte. -/
theorem exec_atomicUnitServe_ordinary (hp : pickAtomic (s.atomics.get AtomBank.reset bank) = some r) (hw : atomWaits r s = false)
    (hr : r.requester < 1024) (h : ordinaryGranule s r.key r.ma r.ia (atomLen r)) :
    ∃ t, exec (.atomicUnitServe bank) s = .next (answerAtomic r (leNat (s.mem.readBytes r.ma (atomLen r))) t) ∧ t.sites = s.sites ∧
      t.mem = atomicMem r (leNat (s.mem.readBytes r.ma (atomLen r))) s.mem := by
  obtain ⟨q, hq⟩ := exec_atomicUnitServe_serves hp hw
  have ho : ordinaryGranule { s with atomics := q } r.key r.ma r.ia (atomLen r) := SameStore.ordinary rfl (fun _ he => he) h
  obtain ⟨t, ht, hs, hm⟩ := performAtomic_ordinary hr ho
  exact ⟨t, by rw [hq, ht], hs, hm⟩

end Unit

/-- Settles O22: every atomic word is one form of word that queues its request, and the unit serves a request by one read and one write of its location. -/
theorem atomicOperations : Obligations.AtomicOperations := by
  unfold Obligations.AtomicOperations
  refine ⟨?issue, ?serve, fun s bank r hp hw => exec_atomicUnitServe_waits hp hw⟩
  case issue =>
    intro s s' dbl d b e a ma ia key ha hb he hd x c n bank queue
    have word {i : Instr} {op : AtomicOp} (hi : exec i s = atomicWord op dbl d a b none s) : IssuesAtomic s s' dbl d b a ma ia key i op 0 :=
      issuesAtomic_of_word hi rfl ha hb (fun _ h => absurd h (by simp)) hd
    have cas : IssuesAtomic s s' dbl d b a ma ia key (.cas dbl d a b e) .cas (getS x e) :=
      issuesAtomic_of_word (exp := some e) rfl rfl ha hb (fun _ h => Option.some.inj h ▸ he) hd
    simp only [List.forall_mem_cons]
    exact ⟨word rfl, word rfl, word rfl, word rfl, word rfl, word rfl, word rfl, word rfl, word rfl, cas, List.forall_mem_nil _⟩
  case serve =>
    intro s bank r hp n hr ho hw h0 h m v signed new
    have hlen : atomLen r = n := rfl
    have hm : m < 2 ^ (8 * n) := by
      have := leNat_lt (s.mem.readBytes r.ma n)
      rwa [Mem.length_readBytes, pow_256_eq] at this
    have hv : v < 2 ^ (8 * n) := Nat.mod_lt _ (Nat.two_pow_pos _)
    have hsigned {z : Nat} (hz : z < 2 ^ (8 * n)) : sext (8 * n) z = signed z := sext_of_lt hz
    have hnew : (atomicWritten r m).getD m = new := by
      show (atomicNew r.op (8 * n) m v (r.expected.toNat % 2 ^ (8 * n))).getD m = new
      simp only [new]
      cases r.op with
      | add | and | or | xor | swap => rfl
      | min | max => simp only [atomicNew, hsigned hm, hsigned hv, Option.getD_some]
      | minn => exact Nat.min_def
      | maxn => exact (Nat.max_comm m v).trans Nat.max_def
      | cas =>
        simp only [atomicNew]
        split <;> rfl
    obtain ⟨t, ht, hs, hmem⟩ := exec_atomicUnitServe_ordinary hp hw hr ho
    have hsite : ctxOf (site r.site t) r.ctx = ctxOf (site r.site s) r.ctx := by rw [site, hs]; rfl
    refine ⟨_, ht, ?value, fun b hb => ?other, fun hwant => ?wanted, fun hwant => ?unwanted⟩
    case value =>
      rw [answerAtomic_mem hr, hmem]
      exact atomicMem_value.trans hnew
    case other =>
      rw [answerAtomic_mem hr, hmem]
      exact atomicMem_other hb
    case wanted =>
      obtain ⟨hreg, hout⟩ := answerAtomic_wanted hr hwant h0 h m t
      refine ⟨hreg.trans ?_, hout⟩
      rw [← hsigned hm]
      split
      · rfl
      · next hd => simp only [n, hd, Bool.false_eq_true, if_false, Nat.reduceMul]
    case unwanted => rw [answerAtomic_unwanted hr hwant, hsite]

end Sys2Proof.Machine

/-! # eret, hcall and the hypervisor's return (05 R145 to R147) -/

namespace Sys2Proof.Machine

open Host (Outcome)

section TrapWords

variable {s : State}

theorem execEret_next (hf : freeMode s) (ho : outsideSlots s) (hh : (myCtx s).trap.handler = true) :
    exec .eret s = .next (modMyCtx (leaveHandler (mySite s).now) s) := by
  show execEret s = _
  have hchecks : firstHit [slotHit (myCtx s), needFree s, hitIf (!(myCtx s).trap.handler) (.trap 0x1D 0)] = none := by
    rw [slotHit_none ho, needFree_none hf, hh]; rfl
  simp only [execEret, hchecks]

/-- The context of a posted hcall: its restart point is after it, and it waits for the hypervisor (05 R147). -/
def awaitHypervisor (now stream n : Nat) (x : Ctx) : Ctx :=
  let y := saveTrap true (ecauseWord n 0x1E stream false false) x
  { y with trap := { y.trap with hcallWait := true }, ctl := { y.ctl with next := now + 1 } }

/-- The request of an hcall, with s1 to s8 as its arguments. -/
def hcallRequest (n : Nat) (x : Ctx) : Out := .hcall x.ctxid x.vfid n ((List.range 8).map fun i => x.s.get 0 (i + 1))

/-- The request is sent and the context waits. -/
def hcallPosted (n : Nat) (s : State) : State :=
  send (hcallRequest n (myCtx s)) (modMyCtx (awaitHypervisor (mySite s).now (ctxHead s.cur.ctx) n) s)

theorem myCtx_hcallPosted (n : Nat) (s : State) : myCtx (hcallPosted n s) = awaitHypervisor (mySite s).now (ctxHead s.cur.ctx) n (myCtx s) :=
  myCtx_modMyCtx ..

theorem execHcall_next {n : BitVec 10} (hf : freeMode s) : exec (.hcall n) s = .next (wordAfter (mySite s).now (hcallPosted n.toNat s)) :=
  congrArg Outcome.next (ccWord_wordAfter (by rw [needFree_none hf]; rfl))

theorem restart_after (x : Ctx) (h : x.slots = 0) : (restart x true).1 = x.pc + 4 := by simp [restart, h]

/-- The cause of an hcall's wait: no bit of its stream or its number is lost. -/
theorem ecauseWord_hcall (n : BitVec 10) (x : Side) :
    ecauseWord n.toNat 0x1E (ctxHead x) false false = .ofNat 64 (n.toNat * 2 ^ 32 + ctxHead x * 2 ^ 24 + 0x1E) := by
  have hn : n.toNat % 65536 = n.toNat := Nat.mod_eq_of_lt (by omega)
  have hx : ctxHead x % 64 = ctxHead x := by cases x <;> rfl
  simp [ecauseWord, hn, hx, b2n]

end TrapWords

section HypervisorReturn

variable {s : State} {k : Nat} {x : Bool} {regs : List Word}

/-- What no write of a scalar register touches. -/
theorem putResults_keeps {γ : Type} (P : Ctx → γ) (h : ∀ now lat r v x, P (putS now lat r v x) = P x) (now i : Nat) (vs : List Word) (x : Ctx) :
    P (putResults now i vs x) = P x := by
  induction vs generalizing i x with
  | nil => rfl
  | cons v vs ih =>
    unfold putResults
    split
    · rfl
    · exact (ih ..).trans (h ..)

theorem putS_get_ne {i j : Nat} (hi : i < 32) (h : j ≠ i) (now lat : Nat) (v : Word) (x : Ctx) :
    (putS now lat (.ofNat 5 i) v x).s.get 0 j = x.s.get 0 j := by
  unfold putS
  split
  · rfl
  · rw [BitVec.toNat_ofNat, Nat.mod_eq_of_lt hi]
    exact Table.get_put_ne _ _ _ h

theorem putResults_below {now i j : Nat} {vs : List Word} (h : j < i) (x : Ctx) : (putResults now i vs x).s.get 0 j = x.s.get 0 j := by
  induction vs generalizing i x with
  | nil => rfl
  | cons v vs ih =>
    unfold putResults
    split
    · rfl
    · rw [ih (by omega), putS_get_ne (by omega) (by omega)]

/-- The results stand in the registers from the first one on, as far as s8. -/
theorem putResults_get {now i j : Nat} {vs : List Word} (hi : 0 < i) (hj : j < vs.length) (h8 : i + j ≤ 8) (x : Ctx) :
    (putResults now i vs x).s.get 0 (i + j) = nth 0 vs j := by
  induction vs generalizing i j x with
  | nil => exact absurd hj (Nat.not_lt_zero j)
  | cons v vs ih =>
    rw [putResults, if_neg (by omega)]
    cases j with
    | zero => exact (putResults_below (Nat.lt_succ_self i) _).trans (putS_get hi (by omega) ..)
    | succ j => rw [show i + (j + 1) = i + 1 + j by omega, ih (by omega) (Nat.lt_of_succ_lt_succ hj) (by omega)]; rfl

/-- A context goes on after its hcall, with the results (05 R147). -/
def resumeCall (now : Nat) (regs : List Word) (v : Ctx) : Ctx :=
  let y := putResults now 1 regs v
  { y with trap := { y.trap with hcallWait := false }, ctl := { y.ctl with next := max y.ctl.next (now + 1) } }

theorem execHypervisorReturn_ignored (h : (ctxOf (site k s) x).trap.hcallWait = false) : exec (.hypervisorReturn k x regs) s = .next s := by
  show execHypervisorReturn k x regs s = _
  simp only [execHypervisorReturn, h, Bool.false_eq_true, if_false]

theorem execHypervisorReturn_resumes (h : (ctxOf (site k s) x).trap.hcallWait = true) :
    exec (.hypervisorReturn k x regs) s = .next (modSite k (fun c => modCtx x (resumeCall c.now regs) c) s) := by
  show execHypervisorReturn k x regs s = _
  simp only [execHypervisorReturn, h, if_true]
  rfl

end HypervisorReturn

/-- Settles O16: trap is the taking of a trap after it; eret, hcall and the return are each one change of the context. -/
theorem trapReturnAndCall : Obligations.TrapReturnAndCall := by
  unfold Obligations.TrapReturnAndCall
  refine fun s n => ⟨rfl, fun hf ho hh => ?eret, fun hf => ?hcall, fun k x regs => ⟨execHypervisorReturn_ignored, fun hw => ?resumes⟩⟩
  case eret =>
    refine ⟨_, execEret_next hf ho hh, ?_⟩
    rw [myCtx_modMyCtx]
    exact ⟨rfl, rfl, rfl, rfl, rfl, rfl, rfl, rfl⟩
  case hcall =>
    refine ⟨_, execHcall_next hf, rfl, ?_⟩
    rw [myCtx_wordAfter, myCtx_hcallPosted, ccIssue_trap, advancePc_trap, ccIssue_s, advancePc_s, ccIssue_pc]
    exact ⟨rfl, ecauseWord_hcall n _, fun ho => ⟨advancePc_pc _ ho, restart_after _ ho⟩, rfl, rfl⟩
  case resumes =>
    refine ⟨_, execHypervisorReturn_resumes hw, ?_⟩
    rw [site_modSite_same, ctxOf_modCtx]
    refine ⟨rfl, fun i hi hlen => ?_, putResults_keeps Ctx.pc putS_pc .., ?_, rfl⟩
    · rw [Nat.add_comm]
      exact putResults_get Nat.one_pos hlen (by omega) _
    · exact putResults_keeps (fun v => v.trap.handler) (fun now lat r v x => congrArg TrapRegs.handler (putS_trap now lat r v x)) ..

end Sys2Proof.Machine

/-! # idle, fork and rendez (05 R126 to R128) -/

namespace Sys2Proof.Machine

open Host (Outcome)

section TwoContexts

variable {s : State} {k : BitVec 4}

theorem ctxOf_modCtx_other (x : Side) (f : Ctx → Ctx) (c : Site) : ctxOf (modCtx (!x) f c) x = ctxOf c x := ctxOf_setCtx_other ..

theorem ctxOf_other_modCtx (x : Side) (f : Ctx → Ctx) (c : Site) : ctxOf (modCtx x f c) (!x) = ctxOf c (!x) := by cases x <;> rfl

/-- The other context of the core after a word of this one. -/
theorem ctxOf_other_modMyCtx (f : Ctx → Ctx) (s : State) : ctxOf (mySite (modMyCtx f s)) (!s.cur.ctx) = ctxOf (mySite s) (!s.cur.ctx) := by
  rw [mySite_modMyCtx, ctxOf_other_modCtx]

/-- The checks of a fork that its rink, the halted context and the capability pass (05 R127). -/
theorem forkHits_none (hf : freeMode s) (ho : owns (mySite s) (myRink s) (ctxHead (!s.cur.ctx)) = true)
    (hh : (ctxOf (mySite s) (!s.cur.ctx)).ctl.running = false) (hk : readableA s k) (hw : allWritten (mySite s).now (myCtx s) = true)
    (hj : jumpable (getA (myCtx s) k)) :
    firstHit ([needFree s, hitIf (!owns (mySite s) (myRink s) (ctxHead (!s.cur.ctx))) (.trap 0x12 (b2n (!s.cur.ctx))),
      hitIf (ctxOf (mySite s) (!s.cur.ctx)).ctl.running (.trap 0x11 0), readA (mySite s).now (myCtx s) k,
      hitIf (!allWritten (mySite s).now (myCtx s)) (.stall 5 0 0 none)] ++ jumpHits (getA (myCtx s) k)) = none := by
  rw [firstHit_append (by rw [needFree_none hf, ho, hh, readA_none hk, hw]; rfl)]
  exact jumpHits_none hj

/-- The other context starts with copies of the registers. -/
def forked (k : BitVec 4) (s : State) : State :=
  modMySite (modCtx (!s.cur.ctx) (forkedCtx (mySite s).now (getA (myCtx s) k) (myCtx s))) s

theorem execFork_next (hf : freeMode s) (ho : owns (mySite s) (myRink s) (ctxHead (!s.cur.ctx)) = true)
    (hh : (ctxOf (mySite s) (!s.cur.ctx)).ctl.running = false) (hk : readableA s k) (hw : allWritten (mySite s).now (myCtx s) = true)
    (hj : jumpable (getA (myCtx s) k)) : exec (.fork k) s = .next (wordAfter (mySite s).now (forked k s)) :=
  congrArg Outcome.next (ccWord_wordAfter (forkHits_none hf ho hh hk hw hj))

theorem myCtx_forked (k : BitVec 4) (s : State) : myCtx (forked k s) = myCtx s := by
  rw [myCtx, forked, mySite_modMySite, modMySite_cur, ctxOf_modCtx_other]; rfl

theorem ctxOf_forked (now : Nat) (k : BitVec 4) (s : State) : ctxOf (mySite (wordAfter now (forked k s))) (!s.cur.ctx) =
    forkedCtx (mySite s).now (getA (myCtx s) k) (myCtx s) (ctxOf (mySite s) (!s.cur.ctx)) := by
  refine (ctxOf_other_modMyCtx _ (forked k s)).trans ?_
  rw [forked, mySite_modMySite, modMySite_cur, ctxOf_modCtx]

theorem meetsNobody_iff {c : Site} {r : Nat} {o : Side} : meetsNobody c r o = true ↔
    (ctxOf c o).ctl.running = false ∨ owns c r (ctxHead o) = false := by simp [meetsNobody]

theorem execRendez_alone (h : (ctxOf (mySite s) (!s.cur.ctx)).ctl.running = false ∨ owns (mySite s) (myRink s) (ctxHead (!s.cur.ctx)) = false) :
    exec .rendez s = .next (modMyCtx (passRendez (mySite s).now) s) := if_pos (meetsNobody_iff.2 h)

variable (hr : (ctxOf (mySite s) (!s.cur.ctx)).ctl.running = true) (ho : owns (mySite s) (myRink s) (ctxHead (!s.cur.ctx)) = true)
include hr ho

theorem meetsSomebody : ¬meetsNobody (mySite s) (myRink s) (!s.cur.ctx) = true := by simp [meetsNobody, hr, ho]

theorem execRendez_meets (hb : (ctxOf (mySite s) (!s.cur.ctx)).rendezBeat = some (mySite s).now) :
    exec .rendez s = .next (modMySite (fun c => modCtx (!s.cur.ctx) (passRendez (mySite s).now)
      (modCtx s.cur.ctx (passRendez (mySite s).now) c)) s) := (if_neg (meetsSomebody hr ho)).trans (if_pos hb)

theorem execRendez_waits (hb : (ctxOf (mySite s) (!s.cur.ctx)).rendezBeat ≠ some (mySite s).now) :
    exec .rendez s = .next (modMyCtx (fun x =>
      { x with rendezBeat := some (mySite s).now, ctl := { x.ctl with next := (mySite s).now + 1, cls := .busy } }) s) :=
  (if_neg (meetsSomebody hr ho)).trans (if_neg hb)

end TwoContexts

/-- Settles O25: idle changes its own context alone, fork the other one, and rendez by whether the other context is there to be met. -/
theorem idleForkRendez : Obligations.IdleForkRendez := by
  unfold Obligations.IdleForkRendez
  refine fun s a n k => ⟨fun ha => ?idle, fun hf ho hh hk hw hj => ?fork, execRendez_alone, execRendez_meets, fun hr ho hb => ?waits⟩
  case idle => exact congrArg Outcome.next (ccWord_next (effect := id) (by rw [readS_none ha]; rfl))
  case fork =>
    refine ⟨_, execFork_next hf ho hh hk hw hj, ?_⟩
    rw [myCtx_wordAfter, myCtx_forked, ccIssue_pc, ccIssue_s, advancePc_s, ctxOf_forked]
    exact ⟨advancePc_pc _, rfl, rfl, rfl, rfl, rfl, rfl, rfl, rfl, rfl, rfl, rfl, rfl, rfl, rfl, rfl, rfl, rfl, rfl, rfl⟩
  case waits =>
    refine ⟨_, execRendez_waits hr ho hb, ?_⟩
    rw [myCtx_modMyCtx, ctxOf_other_modMyCtx]
    exact ⟨rfl, rfl, rfl, rfl⟩

end Sys2Proof.Machine

/-! # pushc, pop, push, mtx and mfx (05 R129 to R131, R133, R134, 07 R201, R202) -/

namespace Sys2Proof.Machine

open Host (Outcome)

/-- A check that stops a word, whatever checks come after it. -/
theorem firstHit_append_some {l m : List (Option Hit)} {e : Hit} (h : firstHit l = some e) : firstHit (l ++ m) = some e := by
  induction l with
  | nil => exact nomatch h
  | cons a l ih =>
    cases a with
    | none => exact ih h
    | some b => exact h

/-! ## Staging a capability (05 R129) -/

section Staging

variable {s : State} {q a : BitVec 4}

def pushcHits (s : State) (q a : BitVec 4) : List (Option Hit) :=
  [readA (mySite s).now (myCtx s) a, hitIf (!(getA (myCtx s) a).tag) (.trap 4 0),
    hitIf (!(getA (myCtx s) a).hasEN || (getA (myCtx s) a).space == 6) (.trap 6 0),
    hitIf (decide (4 ≤ (stagedOf (myCtx s) q.toNat).length)) (.trap 0x15 0)]

def stage (q : Nat) (c : Cap) (x : Ctx) : Ctx := { x with staged := x.staged.put q (stagedOf x q ++ [⟨c, []⟩]) }

theorem execPushc_eq (q a : BitVec 4) (s : State) :
    exec (.pushc q a) s = .next (ccWord (pushcHits s q a) 1 (modMyCtx (stage q.toNat (getA (myCtx s) a))) s) := rfl

/-- The first check of pushc that fails: the tag, then EN and the space, then room. -/
theorem firstHit_pushcHits (ha : readableA s a) : firstHit (pushcHits s q a) =
    if (getA (myCtx s) a).tag = false then some (.trap 4 0)
    else if (getA (myCtx s) a).hasEN = false ∨ (getA (myCtx s) a).space = 6 then some (.trap 6 0)
    else if 4 ≤ (stagedOf (myCtx s) q.toNat).length then some (.trap 0x15 0) else none := by
  rw [pushcHits, readA_none ha]
  show firstHit (hitIf _ _ :: _) = _
  simp only [firstHit_hitIf, firstHit, Bool.not_eq_true', Bool.or_eq_true, beq_iff_eq, decide_eq_true_eq]

theorem execPushc_traps {code info : Nat} (h : firstHit (pushcHits s q a) = some (.trap code info)) :
    exec (.pushc q a) s = .next (takeTrap false code info false s) := by
  rw [execPushc_eq, ccWord_stop h]; rfl

theorem execPushc_stages (ha : readableA s a) (ht : (getA (myCtx s) a).tag = true) (he : (getA (myCtx s) a).hasEN = true)
    (hs : (getA (myCtx s) a).space ≠ 6) (hl : (stagedOf (myCtx s) q.toNat).length < 4) :
    exec (.pushc q a) s = .next (wordDone (stage q.toNat (getA (myCtx s) a)) s) := by
  rw [execPushc_eq, ccWord_wordDone]
  rw [firstHit_pushcHits ha, if_neg (ne_false_of_eq_true ht), if_neg (not_or.2 ⟨ne_false_of_eq_true he, hs⟩), if_neg (Nat.not_le.2 hl)]

end Staging

/-! ## The result FIFOs (05 R133) -/

section Pop

variable {s : State} {d : BitVec 5} {q : BitVec 4} {e : Word} {rest : List Word}

def resultFifo (q : BitVec 4) (c : Site) : List Word := if q = 0 then c.q.collFifo else c.q.liftFifo

/-- The FIFO without its oldest element. -/
def setResultFifo (q : BitVec 4) (rest : List Word) (c : Site) : Site :=
  modQ (fun v => if q = 0 then { v with collFifo := rest } else { v with liftFifo := rest }) c

theorem resultFifo_setResultFifo (q : BitVec 4) (rest : List Word) (c : Site) : resultFifo q (setResultFifo q rest c) = rest := by
  unfold resultFifo setResultFifo modQ
  split <;> rfl

/-- What an element does to the context that takes it. -/
def takeElement (now : Nat) (d : BitVec 5) (q : BitVec 4) (e : Word) (side : Side) (x : Ctx) : Ctx :=
  putS now 1 d e (if q = 0 then mergeElement e side x else x)

/-- The flags that an element merges. -/
def mergedFlags (q : BitVec 4) (e : Word) (side : Side) (f : BitVec 6) : BitVec 6 :=
  if q = 0 ∧ e.getLsbD 55 = true ∧ e.getLsbD 54 = side then f ||| .ofNat 6 (field e.toNat 53 48) else f

def mergeFlags (q : BitVec 4) (e : Word) (side : Side) (x : Ctx) : Ctx := { x with fstat := mergedFlags q e side x.fstat }

theorem takeElement_eq (now : Nat) (d : BitVec 5) (q : BitVec 4) (e : Word) (side : Side) (x : Ctx) :
    takeElement now d q e side x = putS now 1 d e (mergeFlags q e side x) := by
  unfold takeElement mergeFlags mergedFlags mergeElement
  have hmerges : (e.getLsbD 55 && e.getLsbD 54 == side) = true ↔ e.getLsbD 55 = true ∧ e.getLsbD 54 = side := by
    rw [Bool.and_eq_true, beq_iff_eq]
  by_cases hq : q = 0
  · by_cases he : e.getLsbD 55 = true ∧ e.getLsbD 54 = side
    · rw [if_pos hq, if_pos (hmerges.2 he), if_pos ⟨hq, he⟩]
    · rw [if_pos hq, if_neg (mt hmerges.1 he), if_neg fun h => he h.2]
  · rw [if_neg hq, if_neg fun h => hq h.1]

/-- The state in which the oldest element has been taken. -/
def popped (d : BitVec 5) (q : BitVec 4) (e : Word) (rest : List Word) (s : State) : State :=
  modMyCtx (takeElement (mySite s).now d q e s.cur.ctx) (modMySite (setResultFifo q rest) s)

theorem execPop_takes (hd : settledS s d) (he : resultFifo q (mySite s) = e :: rest) :
    exec (.pop d q) s = .next (wordAfter (mySite s).now (popped d q e rest s)) := by
  show execPop d q s = _
  unfold resultFifo at he
  simp only [execPop, he]
  exact congrArg Outcome.next (ccWord_wordAfter (by rw [writeS_none hd]; rfl))

theorem execPop_waits (hd : settledS s d) (he : resultFifo q (mySite s) = []) :
    exec (.pop d q) s = .next (ccStop (.stall 2 (if q = 0 then 4 else 5) 0 none) s) := by
  show execPop d q s = _
  unfold resultFifo at he
  simp only [execPop, he]
  exact congrArg Outcome.next (ccWord_stop (by rw [writeS_none hd]; rfl))

theorem myCtx_popped (d : BitVec 5) (q : BitVec 4) (e : Word) (rest : List Word) (s : State) : myCtx (popped d q e rest s) =
    putS (mySite s).now 1 d e (mergeFlags q e s.cur.ctx (myCtx s)) := by
  have hctx : myCtx (modMySite (setResultFifo q rest) s) = myCtx s := by rw [myCtx, mySite_modMySite]; rfl
  rw [popped, myCtx_modMyCtx, hctx, takeElement_eq]

theorem resultFifo_popped (now : Nat) : resultFifo q (mySite (wordAfter now (popped d q e rest s))) = rest := by
  have hq (x : Side) (f : Ctx → Ctx) (c : Site) : resultFifo q (modCtx x f c) = resultFifo q c := by unfold resultFifo; rw [modCtx_q]
  rw [wordAfter, mySite_modMyCtx, hq, popped, mySite_modMyCtx, hq, mySite_modMySite, resultFifo_setResultFifo]

end Pop

/-! ## Pushing a command (05 R130, R131) -/

section Push

variable {s : State} {q : BitVec 4} {d : BitVec 5} {a : BitVec 4}

theorem toNat_bne_two (q : BitVec 4) : (q.toNat != 2) = decide (q ≠ 2) := by revert q; decide

theorem toNat_beq_one (q : BitVec 4) : (q.toNat == 1) = decide (q = 1) := by revert q; decide

/-- The image that a push reads. -/
def pushImage (s : State) (d : BitVec 5) (a : BitVec 4) : List (BitVec 16) :=
  leHalves (imageBytes (myCtx s) s.cur.site (getA (myCtx s) a).cursor (2 * (getS (myCtx s) d).toNat) s)

/-- The checks of a push before it reads its image. -/
def pushHits (s : State) (q : BitVec 4) (d : BitVec 5) (a : BitVec 4) : List (Option Hit) :=
  let cap := getA (myCtx s) a
  let n := (getS (myCtx s) d).toNat
  [readA (mySite s).now (myCtx s) a, readS (mySite s).now (myCtx s) d,
    hitIf (decide (32 ≤ (queueOf (mySite s) q.toNat).length)) (.stall 2 q.toNat 0 none),
    hitIf (!servesQueue s (myRink s) q.toNat) (.trap 0x12 (if q.toNat = 2 then 6 else 5)), hitIf (!cap.tag) (.trap 4 0),
    hitIf (cap.space != 2 || !cap.hasLD) (.trap 6 0), hitIf (!cap.inBounds cap.cursor (2 * n)) (.trap 5 0),
    hitIf (cap.cursor % 2 != 0) (.trap 7 0), hitIf (n == 0 || decide (128 < n)) (.trap 0x15 0)]

/-- The checks of the image. -/
def imageHits (s : State) (q : BitVec 4) (d : BitVec 5) (a : BitVec 4) : List (Option Hit) :=
  let cap := getA (myCtx s) a
  let lift := q.toNat != 2
  let ws := pushImage s d a
  let bases := stagedOf (myCtx s) q.toNat
  [tmCheck (mySite s) (myRink s) cap.cursor (2 * (getS (myCtx s) d).toNat) true (ownStored (myCtx s) s.cur.site (mySite s)) 0,
    (imageIllegal (if lift then .lift else .coll) ws).map (Hit.trap 1), hitIf (!grammarOk lift ws) (.trap 0x15 0),
    hitIf ((imageFlags lift ws).any fun f => !ownsFlag (mySite s) (myRink s) f) (.trap 0x14 0)]
    ++ recordHits lift ws bases.length ++ (if lift then (copiesOf ws).flatMap (copyHits (q.toNat == 1) bases) else [])

/-- The state in which the walks of a push are counted and the errors of its image asked to be refreshed. -/
def pushCounted (s : State) (d : BitVec 5) (a : BitVec 4) (bs : List Base) : State :=
  countPages (myRink s) (bs.flatMap (·.pages))
    (modMySite (corrected (getA (myCtx s) a).cursor (2 * (getS (myCtx s) d).toNat)) s)

theorem execPush_next {bs : List Base} (h : firstHit (pushHits s q d a) = none) (hi : firstHit (imageHits s q d a) = none)
    (ht : translateBases s (myRink s) q.toNat (pushImage s d a) (stagedOf (myCtx s) q.toNat) (pushPins s (myRink s))
      (stagedOf (myCtx s) q.toNat).length [] = .ok bs) :
    exec (.push q d a) s = .next (enqueue q.toNat (pushImage s d a) bs (getA (myCtx s) a).cursor (pushCounted s d a bs)) := by
  show execPush q d a s = _
  unfold pushHits at h
  unfold imageHits at hi
  unfold pushImage at hi ht
  simp only [execPush, h, hi, ht]
  rfl

theorem pushHits_none (ha : readableA s a) (hd : readableS s d) (hroom : (queueOf (mySite s) q.toNat).length < 32)
    (hserves : servesQueue s (myRink s) q.toNat = true) (htag : (getA (myCtx s) a).tag = true) (hspace : (getA (myCtx s) a).space = 2)
    (hld : (getA (myCtx s) a).hasLD = true)
    (hin : (getA (myCtx s) a).inBounds (getA (myCtx s) a).cursor (2 * (getS (myCtx s) d).toNat) = true)
    (halign : (getA (myCtx s) a).cursor % 2 = 0) (h1 : 1 ≤ (getS (myCtx s) d).toNat) (h128 : (getS (myCtx s) d).toNat ≤ 128) :
    firstHit (pushHits s q d a) = none := by
  have hlen : ((getS (myCtx s) d).toNat == 0 || decide (128 < (getS (myCtx s) d).toNat)) = false := by
    rw [Bool.or_eq_false_iff, beq_eq_false_iff_ne, decide_eq_false_iff_not]
    omega
  simp only [pushHits, readA_none ha, readS_none hd, decide_eq_false (Nat.not_le.2 hroom), hserves, htag, hspace, hld, hin, halign, hlen]
  rfl

theorem imageHits_none
    (htm : tmCheck (mySite s) (myRink s) (getA (myCtx s) a).cursor (2 * (getS (myCtx s) d).toNat) true
      (ownStored (myCtx s) s.cur.site (mySite s)) 0 = none)
    (hill : imageIllegal (if decide (q ≠ 2) then .lift else .coll) (pushImage s d a) = none)
    (hgram : grammarOk (decide (q ≠ 2)) (pushImage s d a) = true)
    (hflags : ∀ f ∈ imageFlags (decide (q ≠ 2)) (pushImage s d a), ownsFlag (mySite s) (myRink s) f = true)
    (hrec : ∀ h ∈ recordHits (decide (q ≠ 2)) (pushImage s d a) (stagedOf (myCtx s) q.toNat).length, h = none)
    (hcopy : decide (q ≠ 2) = true → ∀ cp ∈ copiesOf (pushImage s d a), ∀ h ∈ copyHits (decide (q = 1)) (stagedOf (myCtx s) q.toNat) cp, h = none) :
    firstHit (imageHits s q d a) = none := by
  have hany : ((imageFlags (decide (q ≠ 2)) (pushImage s d a)).any fun f => !ownsFlag (mySite s) (myRink s) f) = false := by
    simpa using hflags
  unfold imageHits
  rw [toNat_bne_two, toNat_beq_one, List.append_assoc, firstHit_append, firstHit_append (firstHit_eq_none.2 hrec)]
  · split
    · next hl =>
      refine firstHit_eq_none.2 fun h hh => ?_
      obtain ⟨cp, hcp, hh⟩ := List.mem_flatMap.1 hh
      exact hcopy hl cp hcp h hh
    · rfl
  · rw [htm, hill, hgram, hany]; rfl

theorem corrected_eq (addr n : Nat) (c : Site) : ∃ t o, corrected addr n c = { c with tm := t, obs := o } := by
  unfold corrected
  dsimp only
  split
  · exact ⟨c.tm, c.obs, rfl⟩
  · exact ⟨_, _, rfl⟩

/-- Counting a push's walks and correcting its image touches tile memory's groups and counters alone. -/
theorem mySite_pushCounted (s : State) (d : BitVec 5) (a : BitVec 4) (bs : List Base) :
    (∃ t o, mySite (pushCounted s d a bs) = { mySite s with tm := t, obs := o }) ∧ (pushCounted s d a bs).cur = s.cur := by
  have h := countPages_countsOnly (myRink s) (bs.flatMap (·.pages))
    (modMySite (corrected (getA (myCtx s) a).cursor (2 * (getS (myCtx s) d).toNat)) s)
  obtain ⟨t, o, hc⟩ := corrected_eq (getA (myCtx s) a).cursor (2 * (getS (myCtx s) d).toNat) (mySite s)
  unfold pushCounted
  rw [h]
  exact ⟨⟨t, o, (mySite_modMySite ..).trans hc⟩, rfl⟩

theorem pushCounted_keeps (s : State) (d : BitVec 5) (a : BitVec 4) (bs : List Base) : myCtx (pushCounted s d a bs) = myCtx s ∧
    (mySite (pushCounted s d a bs)).now = (mySite s).now ∧ (mySite (pushCounted s d a bs)).q = (mySite s).q ∧
    myRink (pushCounted s d a bs) = myRink s ∧ (pushCounted s d a bs).cur.ctx = s.cur.ctx := by
  obtain ⟨⟨t, o, hsite⟩, hcur⟩ := mySite_pushCounted s d a bs
  rw [myCtx, myRink, hsite, hcur]
  exact ⟨rfl, rfl, rfl, rfl, rfl⟩

/-- The entry of a queue that a push makes (05 R131). -/
def queuedCommand (q : Nat) (ws : List (BitVec 16)) (bs : List Base) (image : Nat) (s : State) : Command :=
  { words := ws, bases := bs, rink := myRink s, ctx := s.cur.ctx, queue := q, num := (mySite s).q.pushed,
    seen := (mySite s).now + 4 + (pagesOf bs).length, order := (myCtx s).buf.count, image := image }

theorem queueOf_addCommand {q : Nat} (cmd : Command) (c : Site) : queueOf (modQ (addCommand q cmd) c) q = queueOf c q ++ [cmd] := by
  unfold queueOf modQ addCommand
  split_ifs <;> rfl

theorem queueOf_enqueue (q : Nat) (ws : List (BitVec 16)) (bs : List Base) (image : Nat) (s : State) :
    queueOf (mySite (enqueue q ws bs image s)) q = queueOf (mySite s) q ++ [queuedCommand q ws bs image s] := by
  have hq (x : Side) (f : Ctx → Ctx) (c : Site) : queueOf (modCtx x f c) q = queueOf c q := by unfold queueOf; rw [modCtx_q]
  unfold enqueue
  rw [mySite_modMyCtx, hq, mySite_modMySite, queueOf_addCommand]
  rfl

theorem myCtx_enqueue (q : Nat) (ws : List (BitVec 16)) (bs : List Base) (image : Nat) (s : State) : myCtx (enqueue q ws bs image s) =
    ccIssue (mySite s).now (2 + (pagesOf bs).length) (advancePc { myCtx s with staged := (myCtx s).staged.put q [] }) := by
  unfold enqueue
  rw [myCtx_modMyCtx, myCtx, mySite_modMySite]
  rfl

end Push

/-! ## Loop-nest registers (05 R134, 07 R201, R202) -/

section NestRegisters

variable {s : State} {half bank : Bool} {reg : BitVec 6} {a d : BitVec 5}

/-- The checks of a write of a loop-nest register. -/
def mtxHits (s : State) (half bank : Bool) (a : BitVec 5) : List (Option Hit) :=
  [readS (mySite s).now (myCtx s) a, hitIf (!owns (mySite s) (myRink s) (halfHead half)) (.trap 0x12 (halfHead half)),
    hitIf (armed (mySite s) half bank) (.trap 0x13 0)]

theorem firstHit_mtxHits (ha : readableS s a) : firstHit (mtxHits s half bank a) =
    if ¬owns (mySite s) (myRink s) (halfHead half) = true then some (.trap 0x12 (halfHead half))
    else if armed (mySite s) half bank = true then some (.trap 0x13 0) else none := by
  rw [mtxHits, readS_none ha]
  show firstHit (hitIf _ _ :: _) = _
  simp only [firstHit_hitIf, firstHit, Bool.not_eq_true', Bool.not_eq_true]

theorem execMtx_register (hr : reg ≠ 7) : exec (.mtx half bank reg a) s =
    .next (ccWord (mtxHits s half bank a) 1 (modMySite (modHalf half (putNestReg bank reg.toNat (getS (myCtx s) a)))) s) := if_neg hr

theorem execMtx_go (hr : reg = 7) : exec (.mtx half bank reg a) s =
    .next (ccWord (mtxHits s half bank a ++ [needFree s] ++ mgoHits (mySite s) (myRink s) half bank ((getS (myCtx s) a).getLsbD 3) 0) 1
      (modMySite (addNest half (goNest (mySite s) half bank (getS (myCtx s) a) s.cur.ctx))) s) := if_pos hr

/-- A check that fails traps a write of either kind of register. -/
theorem execMtx_traps {code info : Nat} (hh : firstHit (mtxHits s half bank a) = some (.trap code info)) :
    exec (.mtx half bank reg a) s = .next (takeTrap false code info false s) := by
  by_cases hr : reg = 7
  · rw [execMtx_go hr, ccWord_stop (by rw [List.append_assoc, firstHit_append_some hh])]; rfl
  · rw [execMtx_register hr, ccWord_stop hh]; rfl

theorem bankRegs_putNestReg (b : Side) (g : Nat) (v : Word) (h : Half) :
    bankRegs (putNestReg b g v h) b = (bankRegs h b).setD 0 g (v &&& .ofNat 64 (nestMask g)) := by
  cases b <;> rfl

theorem halfOf_modHalf_other (h : Side) (f : Half → Half) (c : Site) : halfOf (modHalf h f c) (!h) = halfOf c (!h) := by cases h <;> rfl

theorem halfOf_modCtx (h x : Side) (f : Ctx → Ctx) (c : Site) : halfOf (modCtx x f c) h = halfOf c h := by cases x <;> rfl

/-- The halves after a write of a loop-nest register. -/
theorem halfOf_mtx (now : Nat) (b : Side) (g : Nat) (v : Word) (h : Side) :
    halfOf (mySite (wordAfter now (modMySite (modHalf half (putNestReg b g v)) s))) h = halfOf (modHalf half (putNestReg b g v) (mySite s)) h := by
  rw [wordAfter, mySite_modMyCtx, halfOf_modCtx, mySite_modMySite]

theorem bankRegs_mtx (now : Nat) (b : Side) (g : Nat) (v : Word) :
    bankRegs (halfOf (mySite (wordAfter now (modMySite (modHalf half (putNestReg b g v)) s))) half) b =
      (bankRegs (halfOf (mySite s) half) b).setD 0 g (v &&& .ofNat 64 (nestMask g)) := by
  rw [halfOf_mtx, halfOf_modHalf, bankRegs_putNestReg]

theorem myCtx_mtx (f : Half → Half) (s : State) : myCtx (modMySite (modHalf half f) s) = myCtx s := by
  rw [myCtx, mySite_modMySite]
  cases half <;> rfl

/-- The write of a register, where every check passes (07 R201). -/
theorem execMtx_writes (ha : readableS s a) (hm : owns (mySite s) (myRink s) (halfHead half) = true) (hn : armed (mySite s) half bank = false)
    (hr : reg ≠ 7) : exec (.mtx half bank reg a) s =
      .next (wordAfter (mySite s).now (modMySite (modHalf half (putNestReg bank reg.toNat (getS (myCtx s) a))) s)) := by
  rw [execMtx_register hr, ccWord_wordAfter (by rw [firstHit_mtxHits ha, if_neg (not_not.2 hm), if_neg (ne_true_of_eq_false hn)])]

/-- The write of GO, where every check passes (07 R202). -/
theorem execMtx_nests (ha : readableS s a) (hm : owns (mySite s) (myRink s) (halfHead half) = true) (hn : armed (mySite s) half bank = false)
    (hr : reg = 7) (hf : freeMode s) (hg : firstHit (mgoHits (mySite s) (myRink s) half bank ((getS (myCtx s) a).getLsbD 3) 0) = none) :
    exec (.mtx half bank reg a) s = .next (wordAfter (mySite s).now
      (modMySite (addNest half (goNest (mySite s) half bank (getS (myCtx s) a) s.cur.ctx)) s)) := by
  have hregs : firstHit (mtxHits s half bank a) = none := by
    rw [firstHit_mtxHits ha, if_neg (not_not.2 hm), if_neg (ne_true_of_eq_false hn)]
  rw [execMtx_go hr, ccWord_wordAfter]
  rw [List.append_assoc, firstHit_append hregs, firstHit_append (by rw [needFree_none hf]; rfl), hg]

theorem execMfx_reads (hd : settledS s d) (hm : owns (mySite s) (myRink s) (halfHead half) = true) : exec (.mfx d half bank reg) s =
    .next (wordDone (putS (mySite s).now 1 d ((bankRegs (halfOf (mySite s) half) bank).get 0 reg.toNat)) s) :=
  congrArg Outcome.next (ccWord_wordDone (by rw [writeS_none hd, hm]; rfl))

theorem execMfx_foreign (hm : ¬owns (mySite s) (myRink s) (halfHead half) = true) : exec (.mfx d half bank reg) s =
    .next (takeTrap false 0x12 (halfHead half) false s) :=
  congrArg Outcome.next (ccWord_stop (e := .trap 0x12 (halfHead half)) (by rw [eq_false_of_ne_true hm]; rfl))

end NestRegisters

/-- Settles O26: each word by its checks in their order; a push that passes them is one entry of its queue, a write of a register one of its bank. -/
theorem queueWords : Obligations.QueueWords := by
  unfold Obligations.QueueWords
  refine ⟨⟨?fifos, ?push⟩, ?nest⟩
  case fifos =>
    intro s q a d hq c x cap staged fifo
    refine ⟨fun ha ht he hs hl => ?stages, fun ha ht => execPushc_traps ?_, fun ha ht he => execPushc_traps ?_, fun ha ht he hs hl => execPushc_traps ?_,
      fun e rest h2 hfifo hd => ?takes, fun h2 hfifo hd hf => ?waits⟩
    case stages => exact (execPushc_stages ha ht he hs hl).trans (congrArg Outcome.next (modMyCtx_congr rfl))
    · rw [firstHit_pushcHits ha, if_pos ht]
    · rw [firstHit_pushcHits ha, if_neg (ne_false_of_eq_true ht), if_pos he]
    · rw [firstHit_pushcHits ha, if_neg (ne_false_of_eq_true ht), if_neg (not_or.2 ⟨ne_false_of_eq_true he, hs⟩)]
      exact if_pos hl
    case takes =>
      refine ⟨_, execPop_takes hd hfifo, ?_⟩
      rw [myCtx_wordAfter, myCtx_popped]
      refine ⟨fun h0 => ?_, resultFifo_popped _, fun ho => ?_, fun r hr => ?_, ?_⟩
      · rw [getS_ccIssue, getS_advancePc, getS_putS_same h0]
      · rw [ccIssue_pc, advancePc_pc _ (by rw [putS_slots]; exact ho), putS_pc]; rfl
      · rw [getS_ccIssue, getS_advancePc, ccIssue_sValid, advancePc_sValid]
        exact scalarsKept_putS c.now 1 e (mergeFlags q e s.cur.ctx x) r hr
      · rw [ccIssue_fstat, advancePc_fstat, putS_fstat]; rfl
    case waits =>
      refine ⟨_, execPop_waits hd hfifo, ?_⟩
      rw [myCtx_stalled hf (by decide)]
      exact ⟨rfl, rfl, rfl⟩
  case push =>
    intro s q d a bs hq ha hd c x cap n ws lift bases hroom hserves htag hspace hld hin halign h1 h128 htm hill hgram hflags hrec hcopy ht
    have hp : exec (.push q d a) s = _ := execPush_next (pushHits_none ha hd hroom hserves htag hspace hld hin halign h1 h128)
      (imageHits_none htm hill hgram hflags hrec hcopy) ht
    obtain ⟨hctx, hnow, hqueues, hrink, hside⟩ := pushCounted_keeps s d a bs
    refine ⟨_, queuedCommand q.toNat ws bs cap.cursor (pushCounted s d a bs), hp, (queueOf_enqueue ..).trans ?_, rfl, rfl, hrink, hside,
      congrArg (· + 4 + (pagesOf bs).length) hnow, ?_⟩
    · unfold queueOf
      rw [hqueues]; rfl
    · rw [myCtx_enqueue, hctx, hnow, ccIssue_staged, advancePc_staged, ccIssue_pc, ccIssue_s, advancePc_s, ccIssue_a, advancePc_a]
      exact ⟨Table.get_put_same .., (Nat.add_assoc ..).symm, fun ho => advancePc_pc _ ho, rfl, rfl⟩
  case nest =>
    intro s half bank reg a d c x regs mine
    refine ⟨fun ha hm => execMtx_traps ?_, fun ha hm hn => execMtx_traps ?_, fun ha hm hn hr => ?writes, fun ha hm hn hr hf hg =>
      execMtx_nests ha hm hn hr hf hg, fun hd hm => execMfx_reads hd hm, execMfx_foreign⟩
    · rw [firstHit_mtxHits ha, if_pos hm]
    · rw [firstHit_mtxHits ha, if_neg (not_not.2 hm), if_pos hn]
    case writes =>
      refine ⟨_, execMtx_writes ha hm hn hr, ?_⟩
      have hregs : regs (mySite (wordAfter c.now (modMySite (modHalf half (putNestReg bank reg.toNat (getS x a))) s))) =
          (regs c).setD 0 reg.toNat (getS x a &&& .ofNat 64 (nestMask reg.toNat)) := bankRegs_mtx ..
      rw [hregs, halfOf_mtx, halfOf_modHalf_other, myCtx_wordAfter, myCtx_mtx, ccIssue_pc, ccIssue_s, advancePc_s]
      exact ⟨Table.get_setD_same .., fun g hg => Table.get_setD_ne _ _ _ hg, rfl, fun ho => advancePc_pc _ ho, rfl⟩

end Sys2Proof.Machine

/-! # ralloc, rfree and rwax (05 R135 to R137, 10 R445) -/

namespace Sys2Proof.Machine

open Host (Outcome)

/-! ## The lowest run of allocatable row groups (05 R135) -/

section Placement

variable {t : Tm} {lo hi n g : Nat}

/-- A region of `n` groups may start at `g`: every group of it lies in the share and is allocatable. -/
def runFits (t : Tm) (lo hi n g : Nat) : Prop := lo ≤ g ∧ g + n ≤ hi ∧ ∀ i < n, groupFree t (g + i) = true

/-- The least number with a property, if there is one. -/
def IsLeastOf (p : Nat → Prop) : Option Nat → Prop
  | none => ∀ g, ¬p g
  | some g => p g ∧ ∀ h < g, ¬p h

theorem IsLeastOf.eq_none {p : Nat → Prop} {o : Option Nat} (h : IsLeastOf p o) (hp : ∀ g, ¬p g) : o = none := by
  cases o with
  | none => rfl
  | some a => exact absurd h.1 (hp a)

theorem IsLeastOf.eq_some {p : Nat → Prop} {o : Option Nat} (h : IsLeastOf p o) (hg : p g) (hl : ∀ h < g, ¬p h) : o = some g := by
  cases o with
  | none => exact absurd hg (h g)
  | some a =>
    obtain ⟨ha, hleast⟩ := h
    have hag : ¬a < g := fun hlt => hl a hlt ha
    have hga : ¬g < a := fun hlt => hleast g hlt hg
    exact congrArg some (by omega)

/-- The search from `a + run` on, where the `run` groups from `a` on are allocatable and no run starts below `a`. -/
theorem findRun_isLeast (hn : 0 < n) (fuel a run : Nat) (hfuel : hi - (a + run) < fuel) (hlo : lo ≤ a) (hin : run = 0 ∨ a + run ≤ hi)
    (hfree : ∀ i < run, groupFree t (a + i) = true) (hleast : ∀ h < a, ¬runFits t lo hi n h) :
    IsLeastOf (runFits t lo hi n) (findRun t n hi fuel (a + run) run) := by
  induction fuel generalizing a run with
  | zero => exact absurd hfuel (Nat.not_lt_zero _)
  | succ fuel ih =>
    unfold findRun
    by_cases hrun : n ≤ run
    · rw [if_pos hrun, Nat.add_sub_cancel]
      exact ⟨⟨hlo, by omega, fun i hi' => hfree i (by omega)⟩, hleast⟩
    · rw [if_neg hrun]
      by_cases hend : hi ≤ a + run
      · rw [if_pos hend]
        intro h hfits
        have ⟨_, htop, _⟩ := hfits
        exact hleast h (by omega) hfits
      · rw [if_neg hend]
        cases hg : groupFree t (a + run) with
        | true =>
          refine ih a (run + 1) (by omega) hlo (.inr (by omega)) (fun i hi' => ?_) hleast
          by_cases hlast : i = run
          · rw [hlast, hg]
          · exact hfree i (by omega)
        | false =>
          refine ih (a + run + 1) 0 (by omega) (by omega) (.inl rfl) (fun i hi' => absurd hi' (Nat.not_lt_zero i)) fun h hh hfits => ?_
          by_cases ha : h < a
          · exact hleast h ha hfits
          · obtain ⟨-, -, hall⟩ := hfits
            have hmet := hall (a + run - h) (by omega)
            rw [show h + (a + run - h) = a + run by omega, hg] at hmet
            exact absurd hmet Bool.false_ne_true

theorem placeRun_isLeast {c : Site} {r : Nat} (hn : 0 < n) :
    IsLeastOf (runFits c.tm (shareOf c r).1 (shareOf c r).2 n) (placeRun c r n) :=
  findRun_isLeast (lo := (shareOf c r).1) (hi := (shareOf c r).2) hn _ (shareOf c r).1 0 (Nat.lt_succ_self _) (Nat.le_refl _) (.inl rfl)
    (fun i h => absurd h (Nat.not_lt_zero i)) fun _ hh hfits => absurd hfits.1 (Nat.not_le.2 hh)

end Placement

/-! ## Row groups that a region takes or gives back (05 R135, 10 R262) -/

section Groups

/-- The groups from `b` on become free: invalid, clean and uncounted. -/
def clearGroups (b n : Nat) (t : Tm) : Tm :=
  (List.range n).foldl (fun t i => setGroup (b + i) Group.empty (invalidate (b + i) t)) t

theorem clearGroups_succ (b n : Nat) (t : Tm) :
    clearGroups b (n + 1) t = setGroup (b + n) Group.empty (invalidate (b + n) (clearGroups b n t)) := by
  simp only [clearGroups, List.range_succ, List.foldl_append, List.foldl_cons, List.foldl_nil]

theorem regions_clearGroups (b n : Nat) (t : Tm) : (clearGroups b n t).regions = t.regions := by
  induction n with
  | zero => rfl
  | succ n ih => rw [clearGroups_succ]; exact ih

theorem groups_clearGroups {b n i : Nat} (h : i < n) (t : Tm) : (clearGroups b n t).groups.get Group.empty (b + i) = Group.empty := by
  induction n with
  | zero => exact absurd h (Nat.not_lt_zero i)
  | succ n ih =>
    rw [clearGroups_succ]
    unfold setGroup
    by_cases hi : i = n
    · rw [hi]; exact Table.get_setD_same ..
    · have hne : b + i ≠ b + n := by omega
      rw [Table.get_setD_ne _ _ _ hne]
      unfold invalidate setGroup
      rw [Table.get_setD_ne _ _ _ hne]
      exact ih (by omega)

theorem placeRegion_eq (g : Region) (t : Tm) : placeRegion g t = clearGroups (g.base / 4096) (g.size / 4096) (addRegion g t) := rfl

theorem mem_addRegion {g q : Region} {t : Tm} : q ∈ (addRegion g t).regions ↔ q = g ∨ q ∈ t.regions := by
  have hside : q.base < g.base ∨ g.base ≤ q.base := Nat.lt_or_ge ..
  simp only [addRegion, List.mem_append, List.mem_filter, List.mem_singleton, decide_eq_true_eq]
  tauto

theorem length_addRegion (g : Region) (t : Tm) : (addRegion g t).regions.length = t.regions.length + 1 := by
  have hside (q : Region) : decide (g.base ≤ q.base) = !decide (q.base < g.base) := by
    simp only [← Nat.not_lt, decide_not]
  have hsplit := List.length_eq_length_filter_add (l := t.regions) fun q => decide (q.base < g.base)
  simp only [addRegion, List.length_append, List.length_singleton, hside]
  omega

variable {r b : Nat} {g : Region} {t : Tm}

theorem freeRegion_eq (h : t.regions.find? (fun q => q.rink == r && q.base == b) = some g) : freeRegion r b t =
    clearGroups (g.base / 4096) (g.size / 4096) { t with regions := t.regions.filter fun q => !(q.rink == r && q.base == b) } := by
  simp only [freeRegion, h]
  rfl

end Groups

/-- The context of a word that changed only its core's tile memory before. -/
theorem myCtx_modTm (f : Tm → Tm) (s : State) : myCtx (modMySite (modTm f) s) = myCtx s := by rw [myCtx, mySite_modMySite]; rfl

theorem tm_modMyCtx (f : Ctx → Ctx) (s : State) : (mySite (modMyCtx f s)).tm = (mySite s).tm := by rw [mySite_modMyCtx, modCtx_tm]

/-! ## ralloc (05 R135) -/

section Ralloc

variable {s : State} {d a : BitVec 5} {cls policy : BitVec 2} {persistent compressed : Bool} {c : Site} {r size : Nat}

/-- A size that ralloc accepts. -/
def regionSize (size : Nat) : Prop := size ≠ 0 ∧ size ≤ 0xC00000 ∧ size % 4096 = 0

theorem not_regionSize_iff : ¬regionSize size ↔ size = 0 ∨ 0xC00000 < size ∨ size % 4096 ≠ 0 := by unfold regionSize; omega

theorem regionSize.groups_pos (h : regionSize size) : 0 < size / 4096 := by
  obtain ⟨h0, -, hmod⟩ := h
  omega

theorem rallocAnswer_malformed (h : ¬regionSize size) : rallocAnswer c r size = .error 0x8000000000000001 := if_pos (not_regionSize_iff.1 h)

theorem rallocAnswer_wellFormed (h : regionSize size) : rallocAnswer c r size = if 256 ≤ c.tm.regions.length then .error 0x8000000000000003
    else match placeRun c r (size / 4096) with
      | none => .error 0x8000000000000002
      | some g => .ok (g * 4096) := if_neg fun hbad => not_regionSize_iff.2 hbad h

theorem rallocAnswer_full (h : regionSize size) (hf : 256 ≤ c.tm.regions.length) : rallocAnswer c r size = .error 0x8000000000000003 := by
  rw [rallocAnswer_wellFormed h, if_pos hf]

theorem rallocAnswer_unplaced (h : regionSize size) (hr : c.tm.regions.length < 256)
    (hp : ∀ g, ¬runFits c.tm (shareOf c r).1 (shareOf c r).2 (size / 4096) g) : rallocAnswer c r size = .error 0x8000000000000002 := by
  rw [rallocAnswer_wellFormed h, if_neg (Nat.not_le.2 hr), (placeRun_isLeast h.groups_pos).eq_none hp]

theorem rallocAnswer_placed {g : Nat} (h : regionSize size) (hr : c.tm.regions.length < 256)
    (hg : runFits c.tm (shareOf c r).1 (shareOf c r).2 (size / 4096) g)
    (hl : ∀ h < g, ¬runFits c.tm (shareOf c r).1 (shareOf c r).2 (size / 4096) h) : rallocAnswer c r size = .ok (g * 4096) := by
  rw [rallocAnswer_wellFormed h, if_neg (Nat.not_le.2 hr), (placeRun_isLeast h.groups_pos).eq_some hg hl]

theorem rallocHits_none (hf : freeMode s) (ha : readableS s a) (hd : settledS s d) :
    firstHit [needFree s, readS (mySite s).now (myCtx s) a, writeS (mySite s).now 1 (myCtx s) d] = none := by
  rw [needFree_none hf, readS_none ha, writeS_none hd]; rfl

theorem execRalloc_refuses {e : Nat} (hf : freeMode s) (ha : readableS s a) (hd : settledS s d)
    (he : rallocAnswer (mySite s) (myRink s) (getS (myCtx s) a).toNat = .error e) :
    exec (.ralloc d a cls policy persistent compressed) s = .next (wordDone (putS (mySite s).now 1 d (.ofNat 64 e)) s) := by
  show execRalloc d a cls policy persistent compressed s = _
  simp only [execRalloc, he]
  exact congrArg Outcome.next (ccWord_wordDone (rallocHits_none hf ha hd))

/-- The region that ralloc makes at `base`. -/
def allocatedRegion (s : State) (a : BitVec 5) (cls policy : BitVec 2) (persistent compressed : Bool) (base : Nat) : Region :=
  ⟨myRink s, base, (getS (myCtx s) a).toNat, cls.toNat, policyOf policy.toNat, persistent, compressed, s.cur.ctx, none⟩

/-- The region is placed and its address written. -/
def allocated (d : BitVec 5) (g : Region) (s : State) : State :=
  modMyCtx (putS (mySite s).now 1 d (.ofNat 64 g.base)) (modMySite (modTm (placeRegion g)) s)

theorem execRalloc_allocates {base : Nat} (hf : freeMode s) (ha : readableS s a) (hd : settledS s d)
    (hb : rallocAnswer (mySite s) (myRink s) (getS (myCtx s) a).toNat = .ok base) :
    exec (.ralloc d a cls policy persistent compressed) s =
      .next (wordAfter (mySite s).now (allocated d (allocatedRegion s a cls policy persistent compressed base) s)) := by
  show execRalloc d a cls policy persistent compressed s = _
  simp only [execRalloc, hb]
  exact congrArg Outcome.next (ccWord_wordAfter (rallocHits_none hf ha hd))

theorem tm_allocated (now : Nat) (d : BitVec 5) (g : Region) (s : State) :
    (mySite (wordAfter now (allocated d g s))).tm = placeRegion g (mySite s).tm := by
  rw [wordAfter, tm_modMyCtx, allocated, tm_modMyCtx, mySite_modMySite]; rfl

theorem groupOf_allocated (now : Nat) (d : BitVec 5) {g : Region} {i : Nat} (h : i < g.size / 4096) (s : State) :
    groupOf (mySite (wordAfter now (allocated d g s))) (g.base / 4096 + i) = Group.empty := by
  rw [groupOf, tm_allocated, placeRegion_eq]
  exact groups_clearGroups h _

theorem myCtx_allocated (now : Nat) (d : BitVec 5) (g : Region) (s : State) : myCtx (wordAfter now (allocated d g s)) =
    ccIssue now 1 (advancePc (putS (mySite s).now 1 d (.ofNat 64 g.base) (myCtx s))) := by
  rw [myCtx_wordAfter, allocated, myCtx_modMyCtx, myCtx_modTm]

end Ralloc

/-! ## rfree (05 R136) -/

section Rfree

variable {s : State} {a : BitVec 5} {g : Region}

/-- The rink's region that starts at an address. -/
def regionFrom (s : State) (base : Nat) : Option Region := (mySite s).tm.regions.find? fun q => q.rink == myRink s && q.base == base

theorem execRfree_missing (hf : freeMode s) (ha : readableS s a) (hg : regionFrom s (getS (myCtx s) a).toNat = none) : exec (.rfree a) s =
    .next (ccStop (.tmTrap 0x17 0 (if (getS (myCtx s) a).toNat < 0xC00000 then 1 else 5) (getS (myCtx s) a).toNat) s) := by
  show execRfree a s = _
  unfold regionFrom at hg
  simp only [execRfree, hg]
  exact congrArg Outcome.next (ccWord_stop (by rw [needFree_none hf, readS_none ha]; rfl))

/-- The core once the region is free. -/
def freed (base : Nat) (s : State) : State := modMySite (modTm (freeRegion (myRink s) base)) s

theorem tm_freed {base : Nat} (now : Nat) (hg : regionFrom s base = some g) : (mySite (wordAfter now (freed base s))).tm =
    clearGroups (base / 4096) (g.size / 4096) { (mySite s).tm with
      regions := (mySite s).tm.regions.filter fun q => !(q.rink == myRink s && q.base == base) } := by
  have hbase : g.base = base := by
    have hown : g.rink = myRink s ∧ g.base = base := by simpa using List.find?_some hg
    exact hown.2
  rw [wordAfter, tm_modMyCtx, freed, mySite_modMySite, ← hbase]
  exact freeRegion_eq (hbase ▸ hg)

theorem execRfree_frees (hf : freeMode s) (ha : readableS s a) (hg : regionFrom s (getS (myCtx s) a).toNat = some g)
    (hu : regionInUse s.cur.site g s = false) : exec (.rfree a) s =
      .next (wordAfter (mySite s).now (freed (getS (myCtx s) a).toNat s)) := by
  show execRfree a s = _
  unfold regionFrom at hg
  simp only [execRfree, hg]
  exact congrArg Outcome.next (ccWord_wordAfter (by rw [needFree_none hf, readS_none ha, hu]; rfl))

theorem execRfree_waits (hf : freeMode s) (ha : readableS s a) (hg : regionFrom s (getS (myCtx s) a).toNat = some g)
    (hu : regionInUse s.cur.site g s = true) : exec (.rfree a) s = .next (ccStop (.stall 3 0 0 none) s) := by
  show execRfree a s = _
  unfold regionFrom at hg
  simp only [execRfree, hg]
  exact congrArg Outcome.next (ccWord_stop (by rw [needFree_none hf, readS_none ha, hu]; rfl))

theorem tm_stalled {kind detail extra : Nat} (hf : freeMode s) (hk : kind ≠ 5) :
    (mySite (ccStop (.stall kind detail extra none) s)).tm = (mySite s).tm := by
  rw [ccStop_stall hf hk, mySite_modMySite]
  cases s.cur.ctx <;> rfl

end Rfree

/-! ## rwax (05 R137) -/

section Rwax

variable {s : State} {a : BitVec 5} {n : BitVec 10}

/-- The refreshes that an rwax makes. -/
def rwaxPends (s : State) (a : BitVec 5) (n : BitVec 10) : List Pend × Nat :=
  waxPends (mySite s) (ctxHead s.cur.ctx) (myRink s) (getS (myCtx s) a).toNat (n.toNat + 1) (myCtx s).ctl.timetabled

theorem execRwax_stops (ha : readableS s a) (hw : waxRegion (mySite s) (myRink s) (getS (myCtx s) a).toNat (n.toNat + 1) = false) :
    exec (.rwax a n) s = .next (waxStop (.tmTrap 0x17 0 (if 0xC00000 < (getS (myCtx s) a).toNat + 4096 * (n.toNat + 1) then 5 else 1)
      (getS (myCtx s) a).toNat) s) := by
  show execRwax a n s = _
  simp only [execRwax, readS_none ha, hw, Bool.not_false, hitIf_true, firstHit]

/-- An rwax whose region holds its run, and whose banks are free where its beats are fixed. -/
theorem execRwax_refreshes (ha : readableS s a) (hw : waxRegion (mySite s) (myRink s) (getS (myCtx s) a).toNat (n.toNat + 1) = true)
    (hc : (myCtx s).ctl.timetabled = true → ∀ p ∈ (rwaxPends s a n).1, conflict (mySite s) 10 p.due (actSpans p.act) = none) :
    exec (.rwax a n) s = .next (wordAfter (mySite s).now (modMySite (addPends (liveJob s) (myRink s) (rwaxPends s a n)) s)) := by
  have hclash : (if (myCtx s).ctl.timetabled then (rwaxPends s a n).1.findSome? (fun p => conflict (mySite s) 10 p.due (actSpans p.act))
      else none) = none := by
    split
    · next ht => exact List.findSome?_eq_none_iff.2 (hc ht)
    · rfl
  show execRwax a n s = _
  unfold rwaxPends at hclash
  simp only [execRwax, readS_none ha, hw, Bool.not_true, hitIf_false, firstHit, hclash]
  exact congrArg Outcome.next (ccWord_wordAfter rfl)

theorem addPends_eq (live : Nat → Bool) (r : Nat) (ps : List Pend × Nat) (c : Site) :
    ∃ o, addPends live r ps c = { c with pipe := c.pipe ++ ps.1, obs := o } := ⟨_, rfl⟩

/-- Refreshes that enter the pipeline leave the rest of the core but its counters. -/
theorem addPends_keeps (live : Nat → Bool) (r now : Nat) (ps : List Pend × Nat) (s : State) :
    (mySite (wordAfter now (modMySite (addPends live r ps) s))).tm = (mySite s).tm ∧
    (mySite (wordAfter now (modMySite (addPends live r ps) s))).pipe = (mySite s).pipe ++ ps.1 ∧
    myCtx (wordAfter now (modMySite (addPends live r ps) s)) = ccIssue now 1 (advancePc (myCtx s)) := by
  obtain ⟨o, ho⟩ := addPends_eq live r ps (mySite s)
  refine ⟨?_, ?_, ?_⟩
  · rw [wordAfter, tm_modMyCtx, mySite_modMySite, ho]
  · rw [wordAfter, mySite_modMyCtx, modCtx_pipe, mySite_modMySite, ho]
  · rw [myCtx_wordAfter, myCtx, mySite_modMySite, ho]; rfl

theorem length_foldl_appends {α β γ : Type} {f : List γ × β → α → List γ × β} (h : ∀ q a, (f q a).1.length = q.1.length + 1) (l : List α)
    (q : List γ × β) : (l.foldl f q).1.length = q.1.length + l.length := by
  induction l generalizing q with
  | nil => rfl
  | cons a l ih => rw [List.foldl_cons, ih, h, List.length_cons]; omega

/-- Each part of a free access is placed, and none more. -/
theorem length_placeFree (c : Site) (me first : Nat) (ps : List Pend) : (placeFree c me first ps).1.length = ps.length := by
  unfold placeFree
  refine (length_foldl_appends (fun q p => ?_) ps _).trans (Nat.zero_add _)
  exact List.length_append

theorem rwaxPends_timetabled (ht : (myCtx s).ctl.timetabled = true) : (rwaxPends s a n).1 = (List.range (n.toNat + 1)).map fun i =>
    ⟨(mySite s).now + 2 + 8 * i, (mySite s).now, ctxHead s.cur.ctx, none, myRink s, false, .refresh ((getS (myCtx s) a).toNat / 4096 + i)⟩ := by
  unfold rwaxPends waxPends
  rw [if_pos ht]

theorem length_rwaxPends_free (hf : freeMode s) : (rwaxPends s a n).1.length = n.toNat + 1 := by
  unfold rwaxPends waxPends
  rw [show (myCtx s).ctl.timetabled = false from hf, if_neg Bool.false_ne_true, length_placeFree, List.length_map, List.length_range]

end Rwax

/-- Settles O27: ralloc by its answer, which is the least start that fits; rfree by the region that starts there; rwax by the region of its run. -/
theorem regionWords : Obligations.RegionWords := by
  unfold Obligations.RegionWords
  refine ⟨?ralloc, ?others⟩
  case ralloc =>
    intro s d a cls policy persistent compressed hf ha hd c size n good fits answers
    refine ⟨fun hg => execRalloc_refuses hf ha hd (rallocAnswer_malformed hg), fun hg hr => execRalloc_refuses hf ha hd (rallocAnswer_full hg hr),
      fun hg hr hp => execRalloc_refuses hf ha hd (rallocAnswer_unplaced hg hr hp), fun g hg hr hp hl => ?placed⟩
    case placed =>
      refine ⟨_, allocatedRegion s a cls policy persistent compressed (g * 4096), execRalloc_allocates hf ha hd (rallocAnswer_placed hg hr hp hl), ?_⟩
      rw [tm_allocated, myCtx_allocated, placeRegion_eq, regions_clearGroups]
      refine ⟨mem_addRegion.2 (.inl rfl), rfl, Nat.mul_comm .., rfl, rfl, rfl, rfl, fun q hq => mem_addRegion.2 (.inr hq), length_addRegion ..,
        fun i hi => ?_, fun h0 => ?_, fun r hr => ?_, fun ho => ?_⟩
      · have hgroup := groupOf_allocated c.now d (g := allocatedRegion s a cls policy persistent compressed (g * 4096)) hi s
        rw [show (allocatedRegion s a cls policy persistent compressed (g * 4096)).base / 4096 = g from Nat.mul_div_cancel g (by decide)] at hgroup
        exact ⟨congrArg Group.valid hgroup, congrArg Group.age hgroup⟩
      · rw [getS_ccIssue, getS_advancePc, getS_putS_same h0, Nat.mul_comm]; rfl
      · rw [getS_ccIssue, getS_advancePc, ccIssue_sValid, advancePc_sValid]
        exact scalarsKept_putS c.now 1 _ (myCtx s) r hr
      · rw [ccIssue_pc, advancePc_pc _ (by rw [putS_slots]; exact ho), putS_pc]
  case others =>
    intro s a n ha c base own
    refine ⟨fun hf hg => execRfree_missing hf ha hg, fun g hf hg hu => ?frees, fun g hf hg hu => ?waits, fun hw => execRwax_stops ha hw,
      fun hw ht hc => ?timed, fun hw hf => ?free⟩
    case frees =>
      have htm := tm_freed c.now hg
      refine ⟨_, execRfree_frees hf ha hg hu, ?_⟩
      rw [htm, myCtx_wordAfter, freed, myCtx_modTm, regions_clearGroups, ccIssue_pc, ccIssue_s, advancePc_s]
      refine ⟨fun q hq => not_and_or.2 (by simpa using (List.mem_filter.1 hq).2), fun i hi => ?_, fun ho => advancePc_pc _ ho, rfl⟩
      rw [groupOf, ← freed, htm]
      exact congrArg Group.valid (groups_clearGroups hi _)
    case waits =>
      refine ⟨_, execRfree_waits hf ha hg hu, tm_stalled hf (by decide), ?_⟩
      rw [myCtx_stalled hf (by decide)]
      exact ⟨rfl, rfl⟩
    case timed =>
      have hpends := rwaxPends_timetabled (a := a) (n := n) ht
      have hfree : ∀ p ∈ (rwaxPends s a n).1, conflict c 10 p.due (actSpans p.act) = none := by
        rw [hpends]
        intro p hp
        obtain ⟨i, hi, rfl⟩ := List.mem_map.1 hp
        exact hc i (Nat.le_of_lt_succ (List.mem_range.1 hi))
      obtain ⟨htm, hpipe, hctx⟩ := addPends_keeps (liveJob s) (myRink s) c.now (rwaxPends s a n) s
      refine ⟨_, execRwax_refreshes ha hw fun _ => hfree, htm, fun i hi => ?_, fun ho => ?_⟩
      · rw [hpipe, hpends]
        exact List.mem_append_right _ (List.mem_map.2 ⟨i, List.mem_range.2 (Nat.lt_succ_of_le hi), rfl⟩)
      · rw [hctx, ccIssue_pc, advancePc_pc _ ho]
    case free =>
      have hmode : (myCtx s).ctl.timetabled = false := hf
      obtain ⟨htm, hpipe, hctx⟩ := addPends_keeps (liveJob s) (myRink s) c.now (rwaxPends s a n) s
      refine ⟨_, execRwax_refreshes ha hw fun ht => absurd (hmode.symm.trans ht) Bool.false_ne_true, htm, ?_, fun ho => ?_⟩
      · rw [hpipe, List.length_append, length_rwaxPends_free hf]; rfl
      · rw [hctx, ccIssue_pc, advancePc_pc _ ho]

end Sys2Proof.Machine

/-! # Vector compare, select and predicate words (06 R164 to R167) -/

namespace Sys2Proof.Machine

open Host (Outcome)

/-! ## The bits of a predicate -/

theorem getLsbD_maskOf (g : Nat → Bool) {i : Nat} (hi : i < 64) : (maskOf g).getLsbD i = g i := by
  have hsum : (List.range 64).foldl (fun n i => n + b2n (g i) * 2 ^ i) 0 = ((List.range 64).map fun j => if g j then 2 ^ j else 0).sum := by
    rw [List.sum_eq_foldl, List.foldl_map]
    congr 1
    funext n j
    cases g j <;> simp [b2n]
  rw [maskOf, BitVec.getLsbD_ofNat, hsum, (testBit_sum_pow g 64 i).1, decide_eq_true hi, Bool.true_and, Bool.true_and]

theorem getLsbD_lowMask (n : Nat) {i : Nat} (hi : i < 64) : (lowMask n).getLsbD i = decide (i < n) := by
  unfold lowMask
  split
  · rw [BitVec.getLsbD_allOnes, decide_eq_true hi, decide_eq_true (by omega)]
  · rw [BitVec.getLsbD_ofNat, decide_eq_true hi, Bool.true_and, Nat.testBit_two_pow_sub_one]

/-! ## Comparisons of lanes (06 R164) -/

section Comparisons

variable {s : State} {f : VFields} {c : Site}

/-- The condition of an integer comparison on two elements. -/
def comparesInt (f : VFields) (a b : Nat) : Prop :=
  match f.vc.toNat with
  | 0 => elemNum f a = elemNum f b
  | 1 => elemNum f a ≠ elemNum f b
  | 2 => elemNum f a < elemNum f b
  | _ => elemNum f a ≤ elemNum f b

theorem compareElem_integer (h : isInteger f) (a b : Nat) :
    ((compareElem f c a b).1 = true ↔ comparesInt f a b) ∧ (compareElem f c a b).2 = 0 := by
  simp only [compareElem, comparesInt, not_float h, Bool.false_eq_true, if_false, intOf_eq h, and_true]
  generalize f.vc.toNat = cond
  match cond with
  | 0 => exact beq_iff_eq
  | 1 => exact bne_iff_ne
  | 2 => exact decide_eq_true_iff
  | _ + 3 => exact decide_eq_true_iff

/-- The condition on a lane: on both elements of a 16-bit type. -/
def comparesLane (f : VFields) (x y : Lane) : Prop :=
  if f.ty = 4 ∨ f.ty = 5 then comparesInt f (x.toNat % 65536) (y.toNat % 65536) ∧ comparesInt f (x.toNat / 65536) (y.toNat / 65536)
  else comparesInt f x.toNat y.toNat

theorem is16_integer (h : isInteger f) : is16 f.ty = decide (f.ty = 4 ∨ f.ty = 5) := by
  rcases h with h | h | h | h <;> rw [h] <;> rfl

theorem compareLane_integer (h : isInteger f) (x y : Lane) :
    ((compareLane f c x y).1 = true ↔ comparesLane f x y) ∧ (compareLane f c x y).2 = 0 := by
  simp only [compareLane, comparesLane, is16_integer h, decide_eq_true_eq]
  split
  · obtain ⟨hlo, flo⟩ := compareElem_integer (c := c) h (x.toNat % 65536) (y.toNat % 65536)
    obtain ⟨hhi, fhi⟩ := compareElem_integer (c := c) h (x.toNat / 65536) (y.toNat / 65536)
    rw [Bool.and_eq_true, hlo, hhi, flo, fhi]
    exact ⟨Iff.rfl, rfl⟩
  · exact compareElem_integer h _ _

theorem compareLane_fp32 (h : f.ty = 0) (x y : Lane) : compareLane f c x y = compareElem f c x.toNat y.toNat := by
  simp only [compareLane, h]
  rfl

/-- Lanes that raise no flag raise none together. -/
theorem allFlags_zero {l : List (Lane × Fl)} (h : ∀ r ∈ l, r.2 = 0) : allFlags l = 0 := by
  unfold allFlags
  induction l with
  | nil => rfl
  | cons r l ih =>
    rw [List.map_cons, List.foldl_cons, h r List.mem_cons_self]
    exact ih fun q hq => h q (List.mem_cons_of_mem _ hq)

theorem nth_laneMap (act : BitVec 64) (g : Nat → Lane × Fl) {i : Nat} (hi : i < 64) :
    nth (0, 0) (laneMap act g) i = if act.getLsbD i then g i else (0, 0) := by
  simp [laneMap, nth, hi]

/-- What vcmp finds in each lane: the bit of the predicate and the flags. -/
def compared (f : VFields) (s : State) : List (Lane × Fl) :=
  laneMap (activeLanes (myVe s) f) fun i =>
    let r := compareLane f (mySite s) (srcLane s f 0 i) (srcLane s f 1 i)
    (.ofNat 32 (b2n r.1), r.2)

def comparedBits (f : VFields) (s : State) : BitVec 64 := maskOf fun i => (nth (0, 0) (compared f s) i).1 == 1

theorem getLsbD_comparedBits (f : VFields) (s : State) {i : Nat} (hi : i < 64) : (comparedBits f s).getLsbD i =
    ((activeLanes (myVe s) f).getLsbD i && (compareLane f (mySite s) (srcLane s f 0 i) (srcLane s f 1 i)).1) := by
  rw [comparedBits, getLsbD_maskOf _ hi, compared, nth_laneMap _ _ hi]
  cases (activeLanes (myVe s) f).getLsbD i with
  | false => rfl
  | true => cases h : (compareLane f (mySite s) (srcLane s f 0 i) (srcLane s f 1 i)).1 <;> simp [b2n, h]

theorem allFlags_compared (h : isInteger f) : allFlags (compared f s) = 0 := by
  refine allFlags_zero fun r hr => ?_
  obtain ⟨i, -, rfl⟩ := List.mem_map.1 hr
  split
  · obtain ⟨-, hfl⟩ := compareLane_integer (c := mySite s) h (srcLane s f 0 i) (srcLane s f 1 i)
    exact hfl
  · rfl

/-- A comparison whose registers are there. -/
theorem execVcmp_next (hs : sourcesReady s f [0, 1]) (hg : governHit (mySite s).now (myVe s) f = none)
    (hp : writeP (mySite s).now (myVe s) f.vd.toNat = none) : exec (.vcmp f) s = .next (vectorDone f [0, 1] 1
      (fun t => modMySite (veFlags 2 (allFlags (compared f s)))
        (modMyVe (putP (mySite s).now 2 f.vd.toNat (activeLanes (myVe s) f) f.pmode (comparedBits f s)) t)) s) := by
  have hhits : firstHit [governHit (mySite s).now (myVe s) f, writeP (mySite s).now (myVe s) f.vd.toNat] = none := by rw [hg, hp]; rfl
  exact congrArg Outcome.next (veWord_next hs hhits)

/-- A word without numeric flags leaves its core to its effect on the engine (R151). -/
theorem modMySite_veFlags_zero (lat : Nat) (g : Ve → Ve) (t : State) : modMySite (veFlags lat 0) (modMyVe g t) = modMyVe g t := by
  have hid : veFlags lat 0 = fun c => c := funext fun c => (if_pos rfl : laterFlags 2 (veRink c) lat (homeCtx c (veRink c)) 0 c = c)
  rw [hid]
  exact modMySite_modMySite ..

/-- An integer comparison raises no flag. -/
theorem execVcmp_integer (h : isInteger f) (hs : sourcesReady s f [0, 1]) (hg : governHit (mySite s).now (myVe s) f = none)
    (hp : writeP (mySite s).now (myVe s) f.vd.toNat = none) : exec (.vcmp f) s = .next (vectorDone f [0, 1] 1
      (modMyVe (putP (mySite s).now 2 f.vd.toNat (activeLanes (myVe s) f) f.pmode (comparedBits f s))) s) := by
  rw [execVcmp_next hs hg hp, allFlags_compared h]
  exact congrArg (fun e => Outcome.next (vectorDone f [0, 1] 1 e s)) (funext fun t => modMySite_veFlags_zero ..)

end Comparisons

/-! ## Words on whole predicates (06 R166, R167) -/

section PredicateWords

variable {s : State} {f : VFields}

/-- A vector word that reads no vector register has its sources. -/
theorem sourcesReady_nil (s : State) (f : VFields) : sourcesReady s f [] := fun _ h => nomatch h

/-- Predicate p takes all its bits, 2 beats on. -/
def predicateDone (f : VFields) (p : BitVec 64) (s : State) : State :=
  vectorDone f [] 1 (modMyVe (putP (mySite s).now 2 f.vd.toNat (BitVec.allOnes 64) false p)) s

theorem predWord_next {two : Bool} (g : BitVec 64 → BitVec 64 → BitVec 64) (ha : readP (mySite s).now (myVe s) f.va.toNat = none)
    (hb : two = true → readP (mySite s).now (myVe s) f.vb.toNat = none) (hd : writeP (mySite s).now (myVe s) f.vd.toNat = none) :
    predWord f two g s = predicateDone f (g (getP (myVe s) f.va.toNat) (getP (myVe s) f.vb.toNat)) s := by
  have hb' : (if two then readP (mySite s).now (myVe s) f.vb.toNat else none) = none := by
    split
    · next h => exact hb h
    · rfl
  refine veWord_next (sourcesReady_nil s f) ?_
  rw [← myVe, ha, hb', hd]
  rfl

theorem execVplen_next (ha : readX (mySite s).now (myVe s) f.va.toNat = none) (hd : writeP (mySite s).now (myVe s) f.vd.toNat = none) :
    exec (.vplen f) s = .next (predicateDone f (lowMask (getX (myVe s) f.va.toNat + f.aux.setWidth 32).toNat) s) := by
  have hhits : firstHit [readX (mySite s).now (myVe s) f.va.toNat, writeP (mySite s).now (myVe s) f.vd.toNat] = none := by rw [ha, hd]; rfl
  exact congrArg Outcome.next (veWord_next (sourcesReady_nil s f) hhits)

end PredicateWords

/-- Settles O33: vcmp by what it finds in each lane, which of integer elements is the comparison of their numbers; the others by the form of their word. -/
theorem vectorPredicateResults : Obligations.VectorPredicateResults := by
  unfold Obligations.VectorPredicateResults
  intro s f c v now all pd done num holds lane
  refine ⟨fun hs hg hp h2 h5 _ => ?integer, fun hs hg hp ht => ?fp32, fun hs hl => ?select, fun ha hp => ?logic, fun ha hp => ?length⟩
  case integer =>
    have h := isInteger_of h2 h5
    refine ⟨comparedBits f s, fun i hi => ?_, execVcmp_integer h hs hg hp⟩
    obtain ⟨hlane, -⟩ := compareLane_integer (c := c) h (srcLane s f 0 i) (srcLane s f 1 i)
    rw [getLsbD_comparedBits f s hi, Bool.and_eq_true, hlane]
    rfl
  case fp32 =>
    refine ⟨comparedBits f s, allFlags (compared f s), fun i hi hact => ?_, execVcmp_next hs hg hp⟩
    rw [getLsbD_comparedBits f s hi, hact, compareLane_fp32 ht]
    rfl
  case select => exact congrArg Outcome.next (veWord_next hs (firstHit_lanesReady hl))
  case logic =>
    have two (g : BitVec 64 → BitVec 64 → BitVec 64) (hb : readP now v f.vb.toNat = none) := predWord_next (two := true) g ha (fun _ => hb) hp
    exact ⟨congrArg Outcome.next (predWord_next (two := false) _ ha (fun h => nomatch h) hp), fun hb =>
      ⟨congrArg Outcome.next (two _ hb), congrArg Outcome.next (two _ hb), congrArg Outcome.next (two _ hb)⟩⟩
  case length =>
    refine ⟨_, fun i hi => ?_, execVplen_next ha hp⟩
    have haux : f.aux.toNat < 2 ^ 32 := f.aux.isLt.trans (by decide)
    rw [getLsbD_lowMask _ hi, decide_eq_true_eq, BitVec.toNat_add, BitVec.toNat_setWidth, Nat.mod_eq_of_lt haux]

end Sys2Proof.Machine

/-! # Vector control words (06 R180 to R186) -/

namespace Sys2Proof.Machine

open Host (Outcome)

/-! ## A vector word that does not issue (09 R244) -/

section Stops

variable {s : State} {f : VFields} {srcs : List Nat} {h : Hit}

/-- A word whose sources are there stops at the first of its other checks that fails. -/
theorem veWord_stop {extra : List (Option Hit)} {occ : Nat} {effect : State → State} (hs : sourcesReady s f srcs) (he : firstHit extra = some h) :
    veWord f srcs extra occ effect s = engineStop 2 h s := by
  have hsrcs : firstHit (srcs.map (srcHit (mySite s).now (mySite s).ve f)) = none := by
    refine firstHit_eq_none.2 fun e he => ?_
    obtain ⟨i, hi, rfl⟩ := List.mem_map.1 he
    exact hs i hi
  simp only [veWord, firstHit_append hsrcs, he]

/-- The vector engine stands at its word and tries again in the next beat; the flags and the pipeline are as they were. -/
structure VectorWaits (s t : State) : Prop where
  pc : (myVe t).pc = (myVe s).pc
  next : (myVe t).ctl.next = (mySite s).now + 1
  flags : (mySite t).flags = (mySite s).flags
  pipe : (mySite t).pipe = (mySite s).pipe

theorem waitHead_ve (flag : Option Nat) (c : Site) : ∃ k o l, waitHead 2 flag c =
    { c with ve := { c.ve with ctl := { c.ve.ctl with next := c.now + 1, cls := k } }, obs := o, issued := l } := by
  cases flag with
  | none => exact ⟨_, c.obs, c.issued, rfl⟩
  | some f =>
    obtain ⟨o, l, hc⟩ := countWait_eq f c
    refine ⟨.flag, o, l, ?_⟩
    simp only [waitHead, hc]
    rfl

theorem engineStop_waits {kind detail extra : Nat} {flag : Option Nat} (hf : (myVe s).ctl.timetabled = false) :
    VectorWaits s (engineStop 2 (.stall kind detail extra flag) s) := by
  have hstop : engineStop 2 (.stall kind detail extra flag) s = modMySite (waitHead 2 flag) s := by
    simp only [engineStop, show (ctlOf (mySite s) 2).timetabled = false from hf, Bool.false_eq_true, if_false]
  obtain ⟨k, o, l, hw⟩ := waitHead_ve flag (mySite s)
  rw [hstop]
  constructor <;> simp only [myVe, mySite_modMySite, hw]

/-- A word that stalls in free mode waits. -/
theorem exec_waits {i : Instr} {extra : List (Option Hit)} {occ kind detail more : Nat} {flag : Option Nat} {effect : State → State}
    (hi : exec i s = .next (veWord f srcs extra occ effect s)) (hs : sourcesReady s f srcs)
    (he : firstHit extra = some (.stall kind detail more flag)) (hf : (myVe s).ctl.timetabled = false) :
    ∃ t, exec i s = .next t ∧ VectorWaits s t :=
  ⟨_, hi.trans (congrArg Outcome.next (veWord_stop hs he)), engineStop_waits hf⟩

end Stops

/-! ## Flags (06 R184) -/

section VectorFlags

variable {s : State} {f : VFields}

/-- The flag that a vector word names. -/
def flagNumber (f : VFields) : Nat := f.aux.toNat % 64

theorem execVwaitf_eq (f : VFields) (s : State) : exec (.vwaitf f) s = .next (veWord f []
    [flagHit (mySite s) (veRink (mySite s)) (flagNumber f),
      hitIf (!flagReady (mySite s) (flagNumber f)) (.stall 0 (flagNumber f) 0 (some (flagNumber f)))] 1
    (modMySite (consumeFlag (flagNumber f) (f.aux.getLsbD 6))) s) := rfl

theorem consumeFlag_clears {n : Nat} {clr : Bool} (h : (16 ≤ n ∧ n < 32) ∨ clr = true) : consumeFlag n clr = clearFlag n :=
  funext fun _ => if_pos (by simpa [or_comm] using h)

variable (ho : ownsFlag (mySite s) (veRink (mySite s)) (flagNumber f) = true)
include ho

theorem execVwaitf_next (hr : flagReady (mySite s) (flagNumber f) = true) : exec (.vwaitf f) s =
    .next (vectorDone f [] 1 (modMySite (consumeFlag (flagNumber f) (f.aux.getLsbD 6))) s) :=
  (execVwaitf_eq f s).trans (congrArg Outcome.next (veWord_next (sourcesReady_nil s f) (by rw [flagHit_none ho, hr]; rfl)))

theorem execVwaitf_waits (hr : flagReady (mySite s) (flagNumber f) = false) (hf : (myVe s).ctl.timetabled = false) :
    ∃ t, exec (.vwaitf f) s = .next t ∧ VectorWaits s t :=
  exec_waits (execVwaitf_eq f s) (sourcesReady_nil s f) (by rw [flagHit_none ho, hr]; rfl) hf

theorem execVsigf_sets (h6 : f.aux.getLsbD 6 = true) (hst : (myVe s).ctl.timetabled = false → veStoring (mySite s) = false)
    (hr : pushRoom (mySite s) (flagNumber f) = true) : exec (.vsigf f) s =
    .next (vectorDone f [] 1 (modMySite (setFlag (flagNumber f))) s) := by
  have hwait : (!(mySite s).ve.ctl.timetabled && veStoring (mySite s)) = false := by
    cases hm : (mySite s).ve.ctl.timetabled with
    | true => rfl
    | false => exact hst hm
  have hhits : firstHit [flagHit (mySite s) (veRink (mySite s)) (flagNumber f),
      hitIf (!(mySite s).ve.ctl.timetabled && veStoring (mySite s)) (.stall 1 (flagNumber f) 0 (some (flagNumber f))),
      hitIf (!pushRoom (mySite s) (flagNumber f)) (.stall 1 (flagNumber f) 0 (some (flagNumber f)))] = none := by
    rw [flagHit_none ho, hwait, hr]; rfl
  exact (if_pos h6).trans (congrArg Outcome.next (veWord_next (sourcesReady_nil s f) hhits))

theorem execVsigf_clears (h6 : f.aux.getLsbD 6 = false)
    (hr : 16 ≤ flagNumber f ∧ flagNumber f < 32 → flagReady (mySite s) (flagNumber f) = true) : exec (.vsigf f) s =
    .next (vectorDone f [] 1 (modMySite (clearFlag (flagNumber f))) s) := by
  have hpop : (decide (16 ≤ flagNumber f) && decide (flagNumber f < 32) && !flagReady (mySite s) (flagNumber f)) = false := by
    by_cases ht : 16 ≤ flagNumber f ∧ flagNumber f < 32
    · rw [hr ht]; exact Bool.and_false _
    · rw [← Bool.decide_and, decide_eq_false ht]; rfl
  have hhits : firstHit [flagHit (mySite s) (veRink (mySite s)) (flagNumber f),
      hitIf (decide (16 ≤ flagNumber f) && decide (flagNumber f < 32) && !flagReady (mySite s) (flagNumber f))
        (.stall 0 (flagNumber f) 0 (some (flagNumber f)))] = none := by
    rw [flagHit_none ho, hpop]; rfl
  exact (if_neg (by rw [h6]; exact Bool.false_ne_true)).trans (congrArg Outcome.next (veWord_next (sourcesReady_nil s f) hhits))

end VectorFlags

/-! ## Words that no delay slot may hold (06 R182, R183, R186) -/

section OutsideSlots

variable {s : State} {f : VFields}

theorem veSlotHit_none {v : Ve} (h : v.slots = 0) : veSlotHit v = none := by rw [veSlotHit, h]; rfl

theorem veSlotHit_some {v : Ve} (h : v.slots ≠ 0) : veSlotHit v = some (.trap 1 0x1700) := by
  rw [veSlotHit, bne_iff_ne.2 h]; rfl

theorem advanceVe_outside (next : Nat) {v : Ve} (h : v.slots = 0) : advanceVe next v = { v with pc := v.pc + 8 } := by simp [advanceVe, h]

theorem execVend_next (h : (myVe s).slots = 0) : exec (.vend f) s =
    .next (vectorDone f [] 1 (modMyVe fun v => { v with ctl := { v.ctl with running := false } }) s) :=
  congrArg Outcome.next (veWord_next (sourcesReady_nil s f) (by rw [veSlotHit_none h]; rfl))

theorem execVturn_next (h : (myVe s).slots = 0) (hn : f.aux.toNat % 64 < (myVe s).loop.size.toNat) : exec (.vturn f) s =
    .next (vectorDone f [] 1 (modMyVe fun v =>
      { v with loop := { v.loop with turn := .ofNat 6 f.aux.toNat, pturn := .ofNat 3 f.aux.toNat } }) s) :=
  congrArg Outcome.next (veWord_next (sourcesReady_nil s f) (by rw [veSlotHit_none h, decide_eq_false (by omega)]; rfl))

theorem exec_inSlot (h : (myVe s).slots ≠ 0) : ∀ i ∈ [Instr.vend f, .vturn f, .vloop f], exec i s = .next (engineStop 2 (.trap 1 0x1700) s) := by
  have hslot := veSlotHit_some h
  simp only [List.forall_mem_cons]
  refine ⟨congrArg Outcome.next (veWord_stop (sourcesReady_nil s f) (by rw [hslot]; rfl)),
    congrArg Outcome.next (veWord_stop (sourcesReady_nil s f) (by rw [hslot]; rfl)), ?_, fun _ hm => nomatch hm⟩
  show execVloop f s = _
  simp only [execVloop, show veSlotHit (mySite s).ve = _ from hslot, firstHit]

end OutsideSlots

/-! ## The stage predicates (06 R180) -/

section StagePredicates

variable (now : Nat) (bits : Nat → BitVec 64) (n : Nat) (v : Ve)

/-- The predicates of a ring stand in their order from a turn on (02 R48). -/
theorem physP_ring (l : Loop) (r : Nat) : physP l (8 + r) = 8 + (r + 8 - l.pturn.toNat) % 8 := by
  rw [physP, if_neg (by omega), Nat.add_sub_cancel_left]

theorem physP_ring_ne {l : Loop} {r k : Nat} (hr : r < 8) (hk : k < 8) (h : r ≠ k) : physP l (8 + r) ≠ physP l (8 + k) := by
  have := l.pturn.isLt
  rw [physP_ring, physP_ring]
  omega

/-- Predicates 8 to 7 + n written whole, for the next beat. -/
def putStages : Ve := (List.range n).foldl (fun w i => putP now 1 (8 + i) (BitVec.allOnes 64) false (bits i) w) v

theorem putStages_succ : putStages now bits (n + 1) v = putP now 1 (8 + n) (BitVec.allOnes 64) false (bits n) (putStages now bits n v) := by
  simp [putStages, List.range_succ]

theorem putStages_control : (putStages now bits n v).loop = v.loop ∧ (putStages now bits n v).slots = v.slots ∧ (putStages now bits n v).pc = v.pc := by
  induction n with
  | zero => exact ⟨rfl, rfl, rfl⟩
  | succ n ih => rw [putStages_succ]; exact ih

/-- A predicate written whole. -/
theorem getP_putP (lat m k : Nat) (b : BitVec 64) : getP (putP now lat m (BitVec.allOnes 64) false b v) k =
    if physP v.loop k = physP v.loop m then b else getP v k := by
  have hall (old : BitVec 64) : (b &&& BitVec.allOnes 64) ||| (old &&& ~~~BitVec.allOnes 64) = b := by
    rw [BitVec.and_allOnes, BitVec.not_allOnes, BitVec.and_zero, BitVec.or_zero]
  simp only [getP, putP, hall]
  exact Table.get_put ..

theorem getP_putStages {r : Nat} (hr : r < n) (hn : n ≤ 8) : getP (putStages now bits n v) (8 + r) = bits r := by
  induction n with
  | zero => omega
  | succ n ih =>
    rw [putStages_succ, getP_putP]
    by_cases h : r = n
    · rw [h, if_pos rfl]
    · rw [if_neg (physP_ring_ne (by omega) (by omega) h)]
      exact ih (by omega) (by omega)

theorem pValid_putStages {r : Nat} (hr : r < n) : (putStages now bits n v).pValid.getLsbD (physP v.loop (8 + r)) = true := by
  induction n with
  | zero => omega
  | succ n ih =>
    obtain ⟨hloop, -, -⟩ := putStages_control now bits n v
    have hlt : physP v.loop (8 + n) < 16 := by rw [physP_ring]; omega
    rw [putStages_succ]
    show (setBit _ (physP (putStages now bits n v).loop (8 + n)) true).getLsbD _ = true
    rw [hloop, getLsbD_setBit hlt]
    split
    · rfl
    · next hne =>
      have hrn : r ≠ n := fun e => hne (by rw [e])
      exact ih (by omega)

/-- All eight names reach all eight predicates of the ring. -/
theorem physP_ring_surjective (l : Loop) {i : Nat} (h8 : 8 ≤ i) (h16 : i < 16) : ∃ r < 8, physP l (8 + r) = i := by
  have := l.pturn.isLt
  refine ⟨(i - 8 + l.pturn.toNat) % 8, by omega, ?_⟩
  rw [physP_ring]
  omega

end StagePredicates

/-! ## The loop's set-up and its passes (06 R180, R181) -/

section Loops

variable {s : State} {f : VFields}

/-- The stage predicates that a loop begins with: p8 where there is a pass. -/
def firstStages (count : BitVec 32) (i : Nat) : BitVec 64 := if i = 0 ∧ count ≠ 0 then BitVec.allOnes 64 else 0

/-- The engine after vsetlc's effect. -/
def loopSet (f : VFields) (now : Nat) (v : Ve) : Ve :=
  putStages now (firstStages (setLoop f v).count) 8 { v with loop := setLoop f v, looping := true }

theorem loopSet_control (now : Nat) (v : Ve) :
    (loopSet f now v).loop = setLoop f v ∧ (loopSet f now v).slots = v.slots ∧ (loopSet f now v).pc = v.pc :=
  putStages_control now (firstStages (setLoop f v).count) 8 { v with loop := setLoop f v, looping := true }

theorem getP_loopSet (now : Nat) (v : Ve) {r : Nat} (hr : r < 8) : getP (loopSet f now v) (8 + r) = firstStages (setLoop f v).count r :=
  getP_putStages _ _ _ _ hr le_rfl

theorem pValid_loopSet (now : Nat) (v : Ve) {i : Nat} (h8 : 8 ≤ i) (h16 : i < 16) : (loopSet f now v).pValid.getLsbD i = true := by
  obtain ⟨r, hr, rfl⟩ := physP_ring_surjective (setLoop f v) h8 h16
  exact pValid_putStages now (firstStages (setLoop f v).count) 8 { v with loop := setLoop f v, looping := true } hr

/-- The engine after vsetlc, outside the delay slots. -/
theorem execVsetlc_next (h : (myVe s).slots = 0) (ha : readX (mySite s).now (myVe s) f.va.toNat = none)
    (hp : ∀ i < 8, writeP (mySite s).now (myVe s) (8 + i) = none) :
    ∃ t w, exec (.vsetlc f) s = .next t ∧ myVe t = veIssue (mySite s).now 1 { w with pc := (myVe s).pc + 8 } ∧ w.loop = setLoop f (myVe s) ∧
      (∀ r < 8, getP w (8 + r) = firstStages w.loop.count r) ∧ ∀ i, 8 ≤ i → i < 16 → w.pValid.getLsbD i = true := by
  have hhits : firstHit (readX (mySite s).now (myVe s) f.va.toNat :: (List.range 8).map fun i => writeP (mySite s).now (myVe s) (8 + i)) = none := by
    refine firstHit_eq_none.2 fun h hh => ?_
    rcases List.mem_cons.1 hh with rfl | hh
    · exact ha
    · obtain ⟨i, hi, rfl⟩ := List.mem_map.1 hh
      exact hp i (List.mem_range.1 hi)
  have hx : exec (.vsetlc f) s = .next (vectorDone f [] 1 (modMyVe fun _ => loopSet f (mySite s).now (myVe s)) s) :=
    congrArg Outcome.next (veWord_next (sourcesReady_nil s f) hhits)
  obtain ⟨hloop, hslots, hpc⟩ := loopSet_control (f := f) (mySite s).now (myVe s)
  refine ⟨_, loopSet f (mySite s).now (myVe s), hx, ?_, hloop, fun r hr => ?_, fun i => pValid_loopSet _ _⟩
  · rw [myVe_vectorDone, myVe_modMyVe]
    exact congrArg _ ((advanceVe_outside _ (hslots.trans h)).trans (by rw [hpc]))
  · rw [hloop]
    exact getP_loopSet _ _ hr

theorem size_setLoop (v : Ve) (h : f.vd.toNat ≤ 8) : (setLoop f v).size.toNat = if f.vd = 0 then 48 else 6 * f.vd.toNat := by
  show (BitVec.ofNat 6 (if f.vd = 0 then 48 else 6 * f.vd.toNat)).toNat = _
  rw [BitVec.toNat_ofNat]
  split <;> omega

/-- The engine as vloop issues: the pass is counted, and two delay slots follow. -/
def loopBack (f : VFields) (v : Ve) : Ve :=
  let pass := v.loop.pass + 1
  let taken := loopTaken v.loop pass
  { v with
    loop := { v.loop with pass := pass }, taken := taken, pc := v.pc + 8,
    npc := if taken then v.pc + .ofInt 64 (f.aux.toInt * 8) else v.pc + 24, slots := 2 }

theorem execVloop_next (h : (myVe s).slots = 0)
    (hr : loopTaken (myVe s).loop ((myVe s).loop.pass + 1) = true →
      (myVe s).pReady.get 0 (physP { (myVe s).loop with pturn := (myVe s).loop.pturn + 1 } 8) ≤ (mySite s).now) :
    exec (.vloop f) s = .next (modMyVe (fun v => veIssue (mySite s).now 1 (loopBack f v)) s) := by
  have hstage : (loopTaken (myVe s).loop ((myVe s).loop.pass + 1) &&
      decide ((mySite s).now < (myVe s).pReady.get 0 (physP { (myVe s).loop with pturn := (myVe s).loop.pturn + 1 } 8))) = false := by
    rw [Bool.and_eq_false_imp]
    exact fun ht => decide_eq_false (not_lt.2 (hr ht))
  unfold myVe at h hstage
  show execVloop f s = _
  simp only [execVloop, veSlotHit_none h, hstage, hitIf_false, firstHit]
  rfl

/-- A change of the engine is none of a memory. -/
theorem memoryKept_modMyVe (g : Ve → Ve) (s : State) : MemoryKept s (modMyVe g s) :=
  memoryKept_modSite (f := modVe g) (fun _ => ⟨rfl, rfl⟩) _ s

end Loops

/-- Settles O36: each word by its checks in their order; a loop's set-up by the ring of its predicates, a pass by what vloop leaves for its slots. -/
theorem vectorControlWords : Obligations.VectorControlWords := by
  unfold Obligations.VectorControlWords
  intro s f c v n token done mine pass taken
  refine ⟨congrArg Outcome.next (veWord_next (sourcesReady_nil s f) rfl), fun ho hr ht h6 => ?keeps, fun ho hr h => ?clears, fun ho hr hf => ?waits,
    fun ho h6 hst hr => execVsigf_sets ho h6 hst hr, fun ho h6 hr => execVsigf_clears ho h6 hr, execVend_next, fun h hn => ?turn, exec_inSlot,
    fun h ha hp => ?setup, fun h hr => ?loop⟩
  case keeps =>
    refine (execVwaitf_next ho hr).trans ?_
    rw [h6, show consumeFlag (flagNumber f) false = id from funext fun c => consumeFlag_keeps ht c]
  case clears =>
    refine (execVwaitf_next ho hr).trans ?_
    rw [consumeFlag_clears (n := flagNumber f) h]
    rfl
  case waits =>
    obtain ⟨t, hx, hpc, hnext, hflags, -⟩ := execVwaitf_waits ho hr hf
    exact ⟨t, hx, hpc, hnext, hflags⟩
  case turn =>
    have hturn : BitVec.ofNat 6 f.aux.toNat = .ofNat 6 n := BitVec.eq_of_toNat_eq (by simp only [BitVec.toNat_ofNat]; omega)
    have hpturn : BitVec.ofNat 3 f.aux.toNat = .ofNat 3 n := BitVec.eq_of_toNat_eq (by simp only [BitVec.toNat_ofNat]; omega)
    rw [← hturn, ← hpturn]
    exact execVturn_next h hn
  case setup =>
    obtain ⟨t, w, hx, ht, hloop, hstage, hvalid⟩ := execVsetlc_next h ha hp
    refine ⟨t, hx, ?_⟩
    rw [ht]
    refine ⟨rfl, congrArg Loop.count hloop, congrArg Loop.depth hloop, congrArg Loop.loopno hloop, congrArg Loop.pass hloop,
      fun hd => (congrArg (fun l : Loop => l.size.toNat) hloop).trans (size_setLoop v hd), (congrArg Loop.pturn hloop :),
      (hstage 0 (by decide)).trans ?_, fun i h9 h16 => ?_, hvalid⟩
    · simp only [firstStages, true_and, ne_eq, ite_not]
      rfl
    · obtain ⟨r, rfl⟩ := Nat.exists_eq_add_of_le (show 8 ≤ i by omega)
      refine (hstage r (by omega)).trans (if_neg fun ⟨h0, _⟩ => ?_)
      omega
  case loop =>
    have htaken : loopTaken v.loop pass = true ↔ taken := decide_eq_true_iff
    refine ⟨_, execVloop_next h fun ht => ?_, ?_⟩
    · rw [show (8 : Nat) = 8 + 0 from rfl, physP_ring, Nat.zero_add]
      exact hr (htaken.1 ht)
    · rw [myVe_modMyVe]
      refine ⟨rfl, rfl, rfl, htaken, fun ht => ?_, fun ht => ?_, rfl, rfl, memoryKept_modMyVe ..⟩
      · rw [Int.mul_comm]
        exact if_pos (htaken.2 ht)
      · exact if_neg fun h' => ht (htaken.1 h')

end Sys2Proof.Machine

/-! # The beats of a vector access (06 R175, R176, 10 R258) -/

namespace Sys2Proof.Machine

open Host (Outcome)

/-! ## Folds that append -/

section Folds

variable {α β γ : Type}

/-- A fold that appends to a list keeps what stands in it, and appends something for each element. -/
theorem mem_foldl_appends {f : List γ × β → α → List γ × β} {R : α → γ → Prop} (h : ∀ q a, ∃ y, R a y ∧ (f q a).1 = q.1 ++ [y]) (l : List α)
    (q : List γ × β) : (∀ y ∈ q.1, y ∈ (l.foldl f q).1) ∧ ∀ a ∈ l, ∃ y ∈ (l.foldl f q).1, R a y := by
  induction l generalizing q with
  | nil => exact ⟨fun y hy => hy, fun _ ha => nomatch ha⟩
  | cons b l ih =>
    obtain ⟨y, hR, hy⟩ := h q b
    obtain ⟨hkeep, hnew⟩ := ih (f q b)
    rw [hy] at hkeep
    refine ⟨fun z hz => hkeep z (List.mem_append_left _ hz), fun a ha => ?_⟩
    rcases List.mem_cons.1 ha with rfl | ha
    · exact ⟨y, hkeep y (List.mem_append_right _ (List.mem_singleton.2 rfl)), hR⟩
    · exact hnew a ha

/-- A fold that puts each element into one of two lists loses none. -/
theorem mem_foldl_partition {f : List α × List α → α → List α × List α}
    (h : ∀ p a, f p a = (p.1 ++ [a], p.2) ∨ f p a = (p.1, p.2 ++ [a])) (l : List α) (p : List α × List α) {x : α}
    (hx : x ∈ p.1 ∨ x ∈ p.2 ∨ x ∈ l) : x ∈ (l.foldl f p).1 ∨ x ∈ (l.foldl f p).2 := by
  induction l generalizing p with
  | nil => simpa using hx
  | cons b l ih =>
    refine ih (f p b) ?_
    rw [List.mem_cons] at hx
    rcases h p b with hf | hf
    · rw [hf]
      simp only [List.mem_append, List.mem_singleton]
      tauto
    · rw [hf]
      simp only [List.mem_append, List.mem_singleton]
      tauto

/-- The greatest of a number and those of a list. -/
theorem le_foldl_max (g : α → Nat) (l : List α) (m : Nat) : m ≤ l.foldl (fun m a => max m (g a)) m ∧
    ∀ a ∈ l, g a ≤ l.foldl (fun m a => max m (g a)) m := by
  induction l generalizing m with
  | nil => exact ⟨le_rfl, fun _ ha => nomatch ha⟩
  | cons b l ih =>
    obtain ⟨hm, hl⟩ := ih (max m (g b))
    refine ⟨(le_max_left _ _).trans hm, fun a ha => ?_⟩
    rcases List.mem_cons.1 ha with rfl | ha
    · exact (le_max_right _ _).trans hm
    · exact hl a ha

end Folds

/-! ## The parts of a free access (10 R258) -/

theorem le_freeFrom (c : Site) (me : Nat) (spans : List (Nat × Nat × Bool)) (n due : Nat) : due ≤ freeFrom c me spans n due := by
  induction n generalizing due with
  | zero => exact le_rfl
  | succ n ih =>
    unfold freeFrom
    split
    · exact le_rfl
    · exact (Nat.le_succ due).trans (ih (due + 1))

/-- Each part of a free access is placed at its own beat or later. -/
theorem placeFree_places (c : Site) (me first : Nat) {ps : List Pend} {p : Pend} (hp : p ∈ ps) :
    ∃ q ∈ (placeFree c me first ps).1, ∃ d, p.due ≤ d ∧ q = { p with due := d } := by
  unfold placeFree
  refine (mem_foldl_appends (R := fun p q => ∃ d, p.due ≤ d ∧ q = { p with due := d }) ?_ ps _).2 p hp
  exact fun q p => ⟨_, ⟨_, (le_max_right _ _).trans (le_freeFrom ..), rfl⟩, rfl⟩

/-- A lane is in one of the parts of its beat. -/
theorem splitLanes_covers (n : Nat) {ls : List (Nat × Nat)} {l : Nat × Nat} (hl : l ∈ ls) : ∃ part ∈ splitLanes n ls, l ∈ part := by
  induction n generalizing ls with
  | zero => exact ⟨ls, List.mem_singleton.2 rfl, hl⟩
  | succ n ih =>
    have hmem := mem_foldl_partition (f := fun (p : List (Nat × Nat) × List (Nat × Nat)) l =>
      if p.2.isEmpty && !p.1.any (fun b => l.2 / 4096 % 16 == b.2 / 4096 % 16 && l.2 / 4096 != b.2 / 4096) then (p.1 ++ [l], p.2) else (p.1, p.2 ++ [l]))
      (fun p a => by split <;> simp) ls ([], []) (.inr (.inr hl))
    unfold splitLanes
    dsimp only
    split
    · next hempty =>
      rw [List.isEmpty_iff] at hempty
      refine ⟨_, List.mem_singleton.2 rfl, hmem.resolve_right fun h => ?_⟩
      rw [hempty] at h
      exact nomatch h
    · rcases hmem with h | h
      · exact ⟨_, List.mem_cons_self, h⟩
      · obtain ⟨part, hpart, hin⟩ := ih h
        exact ⟨part, List.mem_cons_of_mem _ hpart, hin⟩

/-! ## The entries of an access (06 R176) -/

section Entries

variable {c : Site} {form : Nat}

theorem formWidth_div (hform : form ≤ 2) {n : Nat} (hn : n < 64) : n / formWidth form < 64 / formWidth form := by
  interval_cases form
  all_goals
    show n / _ < 64 / _
    simp only [formWidth]
    omega

/-- A lane is in the group of its beat. -/
theorem laneGroups_covers (hform : form ≤ 2) {ls : List (Nat × Nat)} {l : Nat × Nat} (hl : l ∈ ls) (hn : l.1 < 64) :
    ∃ g ∈ laneGroups form ls, g.1 = l.1 / formWidth form ∧ l ∈ g.2 := by
  have hin : l ∈ ls.filter fun m => m.1 / formWidth form == l.1 / formWidth form := List.mem_filter.2 ⟨hl, beq_self_eq_true _⟩
  refine ⟨(l.1 / formWidth form, ls.filter fun m => m.1 / formWidth form == l.1 / formWidth form), List.mem_filter.2 ⟨?_, ?_⟩, rfl, hin⟩
  · exact List.mem_map.2 ⟨_, List.mem_range.2 (formWidth_div hform hn), rfl⟩
  · simpa using List.ne_nil_of_mem hin

/-- The entry of a group of lanes. -/
def accessEntry (c : Site) (ld : Bool) (phys : Nat) (data : List Lane) (due : Nat) (ls : List (Nat × Nat)) : Pend :=
  ⟨due, c.now, 2, none, veRink c, false, groupAct ld phys data ls⟩

/-- A lane of an access is performed in its fixed beat in timetabled mode, and no earlier in free mode (R176). -/
def inBeat (c : Site) (timed : Bool) (form n due : Nat) : Prop :=
  if timed then due = c.now + 2 + n / formWidth form else c.now + 2 + n / formWidth form ≤ due

theorem accessPends_covers {timed ld : Bool} {phys : Nat} {data : List Lane} (hform : form ≤ 2) {ls : List (Nat × Nat)} {l : Nat × Nat} (hl : l ∈ ls)
    (hn : l.1 < 64) : ∃ due part, inBeat c timed form l.1 due ∧ l ∈ part ∧
      accessEntry c ld phys data due part ∈ (accessPends c timed ld form phys data ls).1 := by
  obtain ⟨g, hg, hbeat, hin⟩ := laneGroups_covers hform hl hn
  cases timed with
  | true => exact ⟨_, g.2, congrArg (c.now + 2 + ·) hbeat, hin, List.mem_map.2 ⟨g, hg, rfl⟩⟩
  | false =>
    obtain ⟨part, hpart, hlane⟩ := splitLanes_covers 64 hin
    have hmem : accessEntry c ld phys data (c.now + 2 + g.1) part ∈
        ((laneGroups form ls).map fun g => (splitLanes 64 g.2).map (accessEntry c ld phys data (c.now + 2 + g.1))).flatten :=
      List.mem_flatten.2 ⟨_, List.mem_map.2 ⟨g, hg, rfl⟩, List.mem_map.2 ⟨part, hpart, rfl⟩⟩
    obtain ⟨q, hq, due, hdue, rfl⟩ := placeFree_places c 2 (lastVeDue c) hmem
    refine ⟨due, part, ?_, hlane, hq⟩
    show c.now + 2 + l.1 / formWidth form ≤ due
    rw [← hbeat]
    exact hdue

end Entries

end Sys2Proof.Machine

/-! # Vector loads and stores, tile register rows and index words (06 R175 to R179) -/

namespace Sys2Proof.Machine

open Host (Outcome)

/-! ## The engine after a word (06 R153, R181) -/

section Issued

/-- A word that issued kept the lanes and index registers as its effect left them; outside the delay slots the next word follows and the predicates stand. -/
structure VectorIssued (now occ : Nat) (v w : Ve) : Prop where
  next : w.ctl.next = now + occ
  index : w.x = v.x
  lanes : w.v = v.v
  valid : w.vValid = v.vValid
  ready : w.vReady = v.vReady
  word : v.slots = 0 → w.pc = v.pc + 8 ∧ w.p = v.p

theorem loadLatches_eq (f : VFields) (srcs : List Nat) (old v : Ve) :
    ∃ a b c, loadLatches f srcs old v = { v with latchA := a, latchB := b, latchC := c } := by
  induction srcs generalizing v with
  | nil => exact ⟨v.latchA, v.latchB, v.latchC, rfl⟩
  | cons i srcs ih =>
    obtain ⟨a, b, c, hrest⟩ := ih (if srcHeld f i then v else setLatch i (getV old (srcField f i)) v)
    have hone : ∃ a b c, (if srcHeld f i then v else setLatch i (getV old (srcField f i)) v) = { v with latchA := a, latchB := b, latchC := c } := by
      unfold setLatch
      split
      · exact ⟨v.latchA, v.latchB, v.latchC, rfl⟩
      · split <;> exact ⟨_, _, _, rfl⟩
    obtain ⟨a', b', c', hone⟩ := hone
    refine ⟨a, b, c, hrest.trans ?_⟩
    rw [hone]

theorem turnLoop_files (next : Nat) (v : Ve) : ∃ l p b, turnLoop next v = { v with loop := l, taken := false, p := p, pValid := b } := by
  unfold turnLoop
  dsimp only
  split <;> exact ⟨_, _, _, rfl⟩

theorem advanceVe_files (next : Nat) (v : Ve) : ∃ pc n t l p b o, advanceVe next v =
    { v with pc := pc, slots := n, taken := t, loop := l, p := p, pValid := b, looping := o } := by
  unfold advanceVe
  split
  · exact ⟨_, _, v.taken, v.loop, v.p, v.pValid, v.looping, rfl⟩
  · split
    · dsimp only
      split
      · obtain ⟨l, p, b, h⟩ := turnLoop_files next { v with pc := v.npc, slots := 0 }
        exact ⟨_, _, _, l, p, b, v.looping, h⟩
      · exact ⟨_, _, v.taken, v.loop, v.p, v.pValid, _, rfl⟩
    · exact ⟨_, v.slots, v.taken, v.loop, v.p, v.pValid, v.looping, rfl⟩

theorem vectorIssued (f : VFields) (srcs : List Nat) (now occ : Nat) (old v : Ve) :
    VectorIssued now occ v (veIssue now occ (advanceVe (now + occ) (loadLatches f srcs old v))) := by
  obtain ⟨a, b, c, hlatch⟩ := loadLatches_eq f srcs old v
  rw [hlatch]
  refine { next := rfl, index := ?_, lanes := ?_, valid := ?_, ready := ?_, word := ?word }
  case word =>
    intro h
    rw [advanceVe_outside (v := { v with latchA := a, latchB := b, latchC := c }) _ h]
    exact ⟨rfl, rfl⟩
  all_goals
    obtain ⟨pc, n, t, l, p, pb, o, hadv⟩ := advanceVe_files (now + occ) { v with latchA := a, latchB := b, latchC := c }
    rw [hadv]
    rfl

theorem mySite_vectorDone (f : VFields) (srcs : List Nat) (occ : Nat) (effect : State → State) (s : State) :
    mySite (vectorDone f srcs occ effect s) =
      modVe (fun v => veIssue (mySite s).now occ (advanceVe ((mySite s).now + occ) (loadLatches f srcs (myVe s) v))) (mySite (effect s)) :=
  mySite_modMyVe ..

end Issued

/-! ## The checks of a lane (06 R177) -/

section LaneChecks

variable {c : Site} {ld : Bool} {due n a : Nat}

theorem laneHit_unaligned (h : a % 4 ≠ 0) : laneHit c ld due (n, a) = some (.trap 0x07 n) := if_pos h

theorem laneHit_aligned (h : a % 4 = 0) : laneHit c ld due (n, a) = tmCheck c (veRink c) a 4 ld (comingGroup c due) n := if_neg (not_not.2 h)

theorem laneHit_outside (h : a % 4 = 0) (hout : 0xC00000 ≤ a) : laneHit c ld due (n, a) = some (.tmTrap 0x17 n 5 a) := by
  rw [laneHit_aligned h, tmCheck, if_pos (by omega)]

/-- A word of TM lies in one row group. -/
theorem tmCheck_word {r : Nat} {ahead : Nat → Bool} (h : a % 4 = 0) (hin : a < 0xC00000) : tmCheck c r a 4 ld ahead n =
    if (regionAt c r a).isNone then some (.tmTrap 0x17 n 1 a)
    else if (regionAt c r a).any (·.compressed) then some (.tmTrap 0x18 n 2 a)
    else if ld && !((groupOf c (a / 4096)).valid || ahead (a / 4096)) then some (.tmTrap 0x19 n 3 a)
    else if ld && !ahead (a / 4096) then (spoiled c.tm a 4).map (Hit.softTrap none) else none := by
  have hone : (a + 4 - 1) / 4096 + 1 - a / 4096 = 1 := by omega
  have hmax : max a (4096 * (a / 4096)) = a := by omega
  rw [tmCheck, if_neg (by omega), hone]
  simp [hmax]

theorem laneHit_unmapped (h : a % 4 = 0) (hin : a < 0xC00000) (hr : regionAt c (veRink c) a = none) :
    laneHit c ld due (n, a) = some (.tmTrap 0x17 n 1 a) := by
  rw [laneHit_aligned h, tmCheck_word h hin, hr]
  rfl

theorem laneHit_compressed {g : Region} (h : a % 4 = 0) (hin : a < 0xC00000) (hr : regionAt c (veRink c) a = some g) (hg : g.compressed = true) :
    laneHit c ld due (n, a) = some (.tmTrap 0x18 n 2 a) := by
  rw [laneHit_aligned h, tmCheck_word h hin, hr]
  exact if_pos hg

theorem laneHit_invalid {g : Region} (h : a % 4 = 0) (hin : a < 0xC00000) (hr : regionAt c (veRink c) a = some g) (hg : g.compressed = false)
    (hv : (groupOf c (a / 4096)).valid = false) (hc : comingGroup c due (a / 4096) = false) :
    laneHit c true due (n, a) = some (.tmTrap 0x19 n 3 a) := by
  rw [laneHit_aligned h, tmCheck_word h hin, hr, hv, hc]
  simp [hg]

end LaneChecks

/-! ## The lanes of an access in their order -/

section Lanes

variable {c : Site} {f : VFields} {v : Ve} {form n : Nat}

theorem mem_activeAddrs {l : Nat × Nat} : l ∈ activeAddrs f v form ↔
    l.1 < 64 ∧ (activeLanes v f).getLsbD l.1 = true ∧ l.2 = laneAddr f v form l.1 := by
  unfold activeAddrs
  simp only [List.mem_map, List.mem_filter, List.mem_range]
  constructor
  · rintro ⟨i, ⟨hi, ha⟩, rfl⟩
    exact ⟨hi, ha, rfl⟩
  · rintro ⟨hi, ha, haddr⟩
    exact ⟨l.1, ⟨hi, ha⟩, by rw [← haddr]⟩

/-- In a list that rises, what stands before an element is what is below it. -/
theorem split_rising {ls : List (Nat × Nat)} (h : ls.Pairwise fun a b => a.1 < b.1) {x : Nat × Nat} (hx : x ∈ ls) :
    ∃ rest, ls = (ls.filter fun l => decide (l.1 < x.1)) ++ x :: rest := by
  obtain ⟨a, b, rfl⟩ := List.append_of_mem hx
  obtain ⟨-, hb, hab⟩ := List.pairwise_append.1 h
  obtain ⟨hb, -⟩ := List.pairwise_cons.1 hb
  have ha : a.filter (fun l => decide (l.1 < x.1)) = a :=
    List.filter_eq_self.2 fun l hl => decide_eq_true (hab l hl x List.mem_cons_self)
  have hb' : (x :: b).filter (fun l => decide (l.1 < x.1)) = [] := by
    refine List.filter_eq_nil_iff.2 fun l hl => ?_
    rcases List.mem_cons.1 hl with rfl | hl
    · simp
    · have := hb l hl
      simp only [decide_eq_true_eq]
      omega
  exact ⟨b, by rw [List.filter_append, ha, hb', List.append_nil]⟩

theorem activeAddrs_rising : (activeAddrs f v form).Pairwise fun a b => a.1 < b.1 := by
  rw [activeAddrs, List.pairwise_map]
  exact List.pairwise_lt_range.filter _

/-- The check of one lane, in the beat that the entries of the access give it. -/
def laneCheck (c : Site) (ld : Bool) (form : Nat) (pends : List Pend) (l : Nat × Nat) : Option Hit :=
  laneHit c ld (((pends.find? fun p => (actSpans p.act).any (·.1 == l.2)).map (·.due)).getD (c.now + 2 + l.1 / formWidth form)) l

theorem laneHits_eq (c : Site) (ld : Bool) (form : Nat) (pends : List Pend) (ls : List (Nat × Nat)) :
    laneHits c ld form pends ls = ls.map (laneCheck c ld form pends) := rfl

/-- The first failing lane gives the check that an access stops at. -/
theorem firstHit_laneHits {ld : Bool} {pends : List Pend} {h : Hit} (hn : n < 64) (ha : (activeLanes v f).getLsbD n = true)
    (hpre : ∀ h ∈ laneHits c ld form pends ((activeAddrs f v form).filter fun l => decide (l.1 < n)), h = none)
    (hlane : ∀ due, laneHit c ld due (n, laneAddr f v form n) = some h) : firstHit (laneHits c ld form pends (activeAddrs f v form)) = some h := by
  obtain ⟨rest, hsplit⟩ := split_rising activeAddrs_rising (mem_activeAddrs (f := f) (v := v) (form := form) (l := (n, laneAddr f v form n)).2 ⟨hn, ha, rfl⟩)
  rw [hsplit, laneHits_eq, List.map_append]
  refine (firstHit_append (firstHit_eq_none.2 hpre)).trans ?_
  rw [List.map_cons, laneCheck, hlane]
  rfl

end Lanes

/-! ## Loads and stores (06 R175) -/

section Accesses

variable {s : State} {f : VFields} {form : Nat} {ld : Bool}

/-- The entries of a word's access. -/
def accessOf (c : Site) (f : VFields) (ld : Bool) (form : Nat) : List Pend × Nat :=
  accessPends c c.ve.ctl.timetabled ld form (if ld then physV c.ve.loop f.vd.toNat else 0) (if ld then [] else srcVal c.ve f 2) (activeAddrs f c.ve form)

/-- The checks of an access before those of its lanes. -/
def accessRegs (c : Site) (f : VFields) (ld : Bool) (form : Nat) : List (Option Hit) :=
  [readX c.now c.ve f.va.toNat, if form = 1 then readX c.now c.ve f.vb.toNat else none, governHit c.now c.ve f]
    ++ if ld then [writeV c.now c.ve f.vd.toNat] else []

/-- The checks of an access: its registers, its lanes, and in timetabled mode what is due in its beats. -/
def accessHits (c : Site) (f : VFields) (ld : Bool) (form : Nat) : List (Option Hit) :=
  accessRegs c f ld form ++ laneHits c ld form (accessOf c f ld form).1 (activeAddrs f c.ve form)
    ++ [if c.ve.ctl.timetabled then accessClash c (accessOf c f ld form).1 else none]

/-- The registers of a word's addresses and data. -/
def accessSrcs (ld : Bool) (form : Nat) : List Nat := if ld then (if form = 2 then [1] else []) else if form = 2 then [1, 2] else [2]

/-- The beat from which a loaded register may be read. -/
def loadReady (c : Site) (f : VFields) (form : Nat) : Nat :=
  (accessOf c f true form).1.foldl (fun m p => max m (p.due + 4)) (c.now + formOcc form + 5)

/-- The engine as an access leaves it: a load has its register written from its ready beat on. -/
def accessVe (c : Site) (f : VFields) (ld : Bool) (form : Nat) : Ve :=
  if ld then putV c.now (loadReady c f form - c.now) f.vd.toNat (activeLanes c.ve f) f.pmode (List.replicate 64 0) c.ve else c.ve

/-- The effect of an access: its entries enter the pipeline, and a load reserves its register. -/
def accessEffect (f : VFields) (ld : Bool) (form : Nat) (c : Site) (t : State) : State :=
  modMySite (addPends (liveJob t) (veRink c) (accessOf c f ld form)) (if ld then modMyVe (fun v =>
    putV c.now (loadReady c f form - c.now) f.vd.toNat (activeLanes v f) f.pmode (List.replicate 64 0) v) t else t)

/-- A word that accesses TM. -/
def accessWord (f : VFields) (ld : Bool) (form : Nat) (s : State) : State :=
  veWord f (accessSrcs ld form) (accessHits (mySite s) f ld form) (formOcc form) (accessEffect f ld form (mySite s)) s

/-- A word's effect counts by the state that it leaves. -/
theorem veWord_congr {srcs : List Nat} {extra : List (Option Hit)} {occ : Nat} {e e' : State → State} (h : e s = e' s) :
    veWord f srcs extra occ e s = veWord f srcs extra occ e' s := by simp only [veWord, h]

theorem vLoad_eq (f : VFields) (form : Nat) (s : State) : vLoad f form s = accessWord f true form s := rfl

theorem vStore_eq (f : VFields) (form : Nat) (s : State) : vStore f form s = accessWord f false form s := veWord_congr rfl

theorem execVld_eq (f : VFields) (s : State) : exec (.vld f) s = .next (accessWord f true 0 s) := congrArg Outcome.next (vLoad_eq f 0 s)

theorem execVlds_eq (f : VFields) (s : State) : exec (.vlds f) s = .next (accessWord f true 1 s) := congrArg Outcome.next (vLoad_eq f 1 s)

theorem execVldg_eq (f : VFields) (s : State) : exec (.vldg f) s = .next (accessWord f true 2 s) := congrArg Outcome.next (vLoad_eq f 2 s)

theorem execVst_eq (f : VFields) (s : State) : exec (.vst f) s = .next (accessWord f false 0 s) := congrArg Outcome.next (vStore_eq f 0 s)

theorem execVsts_eq (f : VFields) (s : State) : exec (.vsts f) s = .next (accessWord f false 1 s) := congrArg Outcome.next (vStore_eq f 1 s)

theorem execVscat_eq (f : VFields) (s : State) : exec (.vscat f) s = .next (accessWord f false 2 s) := congrArg Outcome.next (vStore_eq f 2 s)

theorem firstHit_accessRegs {c : Site} (ha : readX c.now c.ve f.va.toNat = none) (hb : form = 1 → readX c.now c.ve f.vb.toNat = none)
    (hg : governHit c.now c.ve f = none) (hd : ld = true → writeV c.now c.ve f.vd.toNat = none) : firstHit (accessRegs c f ld form) = none := by
  have hb' : (if form = 1 then readX c.now c.ve f.vb.toNat else none) = none := by
    split
    · next h => exact hb h
    · rfl
  rw [accessRegs, ha, hb', hg]
  cases ld with
  | true => rw [if_pos rfl, hd rfl]; rfl
  | false => rfl

theorem firstHit_accessHits {c : Site} (hregs : firstHit (accessRegs c f ld form) = none)
    (hlanes : ∀ h ∈ laneHits c ld form (accessOf c f ld form).1 (activeAddrs f c.ve form), h = none)
    (hfree : c.ve.ctl.timetabled = true → accessClash c (accessOf c f ld form).1 = none) : firstHit (accessHits c f ld form) = none := by
  have hclash : (if c.ve.ctl.timetabled then accessClash c (accessOf c f ld form).1 else none) = none := by
    split
    · next h => exact hfree h
    · rfl
  rw [accessHits, List.append_assoc, firstHit_append hregs, firstHit_append (firstHit_eq_none.2 hlanes), hclash]
  rfl

theorem mySite_accessEffect (s : State) (f : VFields) (ld : Bool) (form : Nat) : ∃ o, mySite (accessEffect f ld form (mySite s) s) = { mySite s with
    ve := accessVe (mySite s) f ld form, pipe := (mySite s).pipe ++ (accessOf (mySite s) f ld form).1, obs := o } := by
  rw [accessEffect, mySite_modMySite]
  cases ld with
  | true => rw [if_pos rfl, mySite_modMyVe]; exact ⟨_, rfl⟩
  | false => exact ⟨_, rfl⟩

/-- What an access that issues does: its entries enter the pipeline, and the engine goes on. -/
structure AccessIssued (f : VFields) (ld : Bool) (form : Nat) (s t : State) : Prop where
  tm : (mySite t).tm = (mySite s).tm
  pipe : (mySite t).pipe = (mySite s).pipe ++ (accessOf (mySite s) f ld form).1
  engine : VectorIssued (mySite s).now (formOcc form) (accessVe (mySite s) f ld form) (myVe t)

theorem access_issues {i : Instr} (hi : exec i s = .next (accessWord f ld form s)) (hs : sourcesReady s f (accessSrcs ld form))
    (hh : firstHit (accessHits (mySite s) f ld form) = none) : ∃ t, exec i s = .next t ∧ AccessIssued f ld form s t := by
  refine ⟨_, hi.trans (congrArg Outcome.next (veWord_next hs hh)), ?_⟩
  obtain ⟨o, hsite⟩ := mySite_accessEffect s f ld form
  constructor
  · rw [mySite_vectorDone, hsite]; rfl
  · rw [mySite_vectorDone, hsite]; rfl
  · rw [myVe_vectorDone, show myVe (accessEffect f ld form (mySite s) s) = accessVe (mySite s) f ld form from congrArg Site.ve hsite]
    exact vectorIssued ..

/-- An access stops at its first failing lane. -/
theorem access_stops {i : Instr} {n : Nat} {h : Hit} (hi : exec i s = .next (accessWord f ld form s)) (hs : sourcesReady s f (accessSrcs ld form))
    (hregs : firstHit (accessRegs (mySite s) f ld form) = none) (hn : n < 64) (ha : (activeLanes (myVe s) f).getLsbD n = true)
    (hpre : ∀ h ∈ laneHits (mySite s) ld form (accessOf (mySite s) f ld form).1
      ((activeAddrs f (myVe s) form).filter fun l => decide (l.1 < n)), h = none)
    (hlane : ∀ due, laneHit (mySite s) ld due (n, laneAddr f (myVe s) form n) = some h) : exec i s = .next (engineStop 2 h s) := by
  refine hi.trans (congrArg Outcome.next (veWord_stop hs ?_))
  rw [accessHits, List.append_assoc, firstHit_append hregs]
  exact firstHit_append_some (firstHit_laneHits hn ha hpre hlane)

/-- A loaded register holds its lanes 4 beats after the last of them is read (R152). -/
theorem le_loadReady (c : Site) (f : VFields) (form : Nat) : c.now ≤ loadReady c f form ∧
    ∀ p ∈ (accessOf c f true form).1, p.due + 4 ≤ loadReady c f form := by
  obtain ⟨hm, hl⟩ := le_foldl_max (fun p : Pend => p.due + 4) (accessOf c f true form).1 (c.now + formOcc form + 5)
  exact ⟨by unfold loadReady; omega, hl⟩

/-- The physical register of a vector name is one of the 96 (02 R48). -/
theorem physV_lt {l : Loop} {n : Nat} (hn : n < 96) (hsize : l.size.toNat ≤ 48) : physV l n < 96 := by
  rw [physV]
  split
  · exact hn
  · next h =>
    simp only [Bool.or_eq_true, decide_eq_true_eq, not_or, not_le] at h
    obtain ⟨h1, h2⟩ := h
    have := Nat.mod_lt (n - 48 + l.size.toNat - l.turn.toNat % l.size.toNat) (show 0 < l.size.toNat by omega)
    omega

theorem accessVe_load (c : Site) (f : VFields) (form : Nat) (hvd : f.vd.toNat < 96) (hsize : c.ve.loop.size.toNat ≤ 48) :
    (accessVe c f true form).vValid.getLsbD (physV c.ve.loop f.vd.toNat) = true ∧
      (accessVe c f true form).vReady.get 0 (physV c.ve.loop f.vd.toNat) = loadReady c f form := by
  obtain ⟨hnow, -⟩ := le_loadReady c f form
  refine ⟨getLsbD_setBit_true (physV_lt hvd hsize) _, (Table.get_put_same ..).trans ?_⟩
  omega

/-- Each active lane of an access has its place in an entry. -/
theorem accessOf_covers (c : Site) (f : VFields) (ld : Bool) (hform : form ≤ 2) {n : Nat} (hn : n < 64) (ha : (activeLanes c.ve f).getLsbD n = true) :
    ∃ due part, inBeat c c.ve.ctl.timetabled form n due ∧ (n, laneAddr f c.ve form n) ∈ part ∧
      accessEntry c ld (if ld then physV c.ve.loop f.vd.toNat else 0) (if ld then [] else srcVal c.ve f 2) due part ∈ (accessOf c f ld form).1 :=
  accessPends_covers (l := (n, laneAddr f c.ve form n)) hform (mem_activeAddrs.2 ⟨hn, ha, rfl⟩) hn

end Accesses

/-! ## Tile register rows (06 R178) -/

section TileRows

variable {s : State} {f : VFields}

theorem tileHit_none {c : Site} {t : Nat} {full : Bool} (h : c.ve.ctl.timetabled = false → c.flags.full.getLsbD t = full) :
    tileHit c t full = none := by
  cases hm : c.ve.ctl.timetabled with
  | true => simp [tileHit, hm]
  | false => simp [tileHit, h hm]

theorem tileHit_some {c : Site} {t : Nat} {full : Bool} (hm : c.ve.ctl.timetabled = false) (h : c.flags.full.getLsbD t = !full) :
    tileHit c t full = some (.stall (if full then 0 else 1) t 0 (some t)) := by
  cases full <;> simp [tileHit, hm, h]

/-- The checks of vldt and vstt: the flag's owner, the registers, and in free mode the flag. -/
def vldtHits (f : VFields) (c : Site) : List (Option Hit) :=
  [flagHit c (veRink c) f.va.toNat, governHit c.now c.ve f, writeV c.now c.ve f.vd.toNat, tileHit c f.va.toNat true]

def vsttHits (f : VFields) (c : Site) : List (Option Hit) :=
  [flagHit c (veRink c) f.va.toNat, governHit c.now c.ve f, tileHit c f.va.toNat false]

/-- The lanes that vstt stores. -/
def storedLanes (v : Ve) (f : VFields) : List (Nat × Lane) :=
  ((List.range 64).filter fun i => (activeLanes v f).getLsbD i).map fun i => (i, nth 0 (srcVal v f 2) i)

theorem mem_storedLanes {v : Ve} {i : Nat} {x : Lane} :
    (i, x) ∈ storedLanes v f ↔ i < 64 ∧ (activeLanes v f).getLsbD i = true ∧ x = nth 0 (srcVal v f 2) i := by
  simp only [storedLanes, List.mem_map, List.mem_filter, List.mem_range, Prod.mk.injEq]
  constructor
  · rintro ⟨j, ⟨hj, ha⟩, rfl, rfl⟩
    exact ⟨hj, ha, rfl⟩
  · rintro ⟨hi, ha, rfl⟩
    exact ⟨i, ⟨hi, ha⟩, rfl, rfl⟩

theorem execVldt_eq (f : VFields) (s : State) : exec (.vldt f) s = .next (veWord f [] (vldtHits f (mySite s)) 1 (fun t =>
    modMySite (fun y => { y with pipe := y.pipe ++ [⟨(mySite s).now + 1, (mySite s).now, 2, none, veRink (mySite s), false,
        .tileLoad f.va.toNat (f.vb.toNat % 32) (physV (myVe s).loop f.vd.toNat) (activeLanes (myVe s) f) false (f.vb.getLsbD 6)⟩] })
      (modMyVe (putV (mySite s).now 4 f.vd.toNat (activeLanes (myVe s) f) f.pmode (List.replicate 64 0)) t)) s) := rfl

theorem execVstt_eq (f : VFields) (s : State) : exec (.vstt f) s = .next (veWord f [2] (vsttHits f (mySite s)) 1 (modMySite fun y =>
    { y with pipe := y.pipe ++ [⟨(mySite s).now + 2, (mySite s).now, 2, none, veRink (mySite s), false,
        .tileStore f.va.toNat (f.vb.toNat % 32) (storedLanes (myVe s) f)⟩] }) s) := rfl

variable (ho : ownsFlag (mySite s) (veRink (mySite s)) f.va.toNat = true)
include ho

/-- Of the checks of vldt whose registers are there, the flag decides. -/
theorem firstHit_vldtHits (hl : lanesReady s f) : firstHit (vldtHits f (mySite s)) = firstHit [tileHit (mySite s) f.va.toNat true] := by
  obtain ⟨hg, hw⟩ := hl
  rw [vldtHits, flagHit_none ho, ← myVe, hg, hw]
  rfl

theorem firstHit_vsttHits (hg : governHit (mySite s).now (myVe s) f = none) :
    firstHit (vsttHits f (mySite s)) = firstHit [tileHit (mySite s) f.va.toNat false] := by
  rw [vsttHits, flagHit_none ho, ← myVe, hg]
  rfl

end TileRows

/-! ## Index words (06 R179) -/

theorem indexWord_next {s : State} {f : VFields} {srcs : List Nat} (w : Ve → BitVec 32) (hr : ∀ r ∈ srcs, readX (mySite s).now (myVe s) r = none)
    (hw : writeX (mySite s).now (myVe s) f.vd.toNat = none) :
    indexWord f srcs w s = vectorDone f [] 1 (modMyVe (putX (mySite s).now 1 f.vd.toNat (w (myVe s)))) s := by
  refine veWord_next (sourcesReady_nil s f) (firstHit_eq_none.2 fun h hh => ?_)
  simp only [List.mem_append, List.mem_map, List.mem_singleton] at hh
  rcases hh with ⟨r, hr', rfl⟩ | rfl
  · exact hr r hr'
  · exact hw

/-- Settles O35: loads and stores are one form of word, whose lanes each stand in an entry of their beat and whose checks go lane by lane; a tile register's
row is one entry, and its flag is the last check. -/
theorem vectorMemoryWords : Obligations.VectorMemoryWords := by
  unfold Obligations.VectorMemoryWords
  refine ⟨fun s f hg => ?accesses, fun s f => ?rows⟩
  case accesses =>
    intro c v act base addr width pends passes inTime free runs loads stores fails hvd hsize
    have haddr (form n : Nat) : laneAddr f v form n = addr form n := by
      match form with
      | 0 => rfl
      | 1 => rfl
      | _ + 2 => rfl
    have issues {i : Instr} {ld : Bool} {form : Nat} (hi : exec i s = .next (accessWord f ld form s)) (hs : sourcesReady s f (accessSrcs ld form))
        (hd : ld = true → writeV c.now v f.vd.toNat = none) (hp : passes form ld) (hf : free ld form) :
        ∃ t, exec i s = .next t ∧ AccessIssued f ld form s t := by
      obtain ⟨ha, hb, hlanes⟩ := hp
      exact access_issues hi hs (firstHit_accessHits (firstHit_accessRegs ha hb hg hd) hlanes hf)
    have load {i : Instr} {form : Nat} (hi : exec i s = .next (accessWord f true form s)) (hform : form ≤ 2) :
        loads i form (accessSrcs true form) := by
      intro hs hd hp hf
      obtain ⟨t, hx, htm, hpipe, hissued⟩ := issues hi hs (fun _ => hd) hp hf
      obtain ⟨hnext, hindex, -, hvalid, hready, hword⟩ := hissued
      obtain ⟨hput, hbeat⟩ := accessVe_load c f form hvd hsize
      refine ⟨t, hx, ⟨htm, hnext, hindex, hword⟩, hvalid ▸ hput, fun n hn ha => ?_⟩
      obtain ⟨due, part, hdue, hlane, hentry⟩ := accessOf_covers c f true hform hn ha
      rw [← haddr]
      obtain ⟨-, hlast⟩ := le_loadReady c f form
      refine ⟨due, part, hdue, hlane, ?_, ?_⟩
      · rw [hready]
        exact (hlast _ hentry).trans hbeat.ge
      · rw [hpipe]
        exact List.mem_append_right _ hentry
    have store {i : Instr} {form : Nat} (hi : exec i s = .next (accessWord f false form s)) (hform : form ≤ 2) :
        stores i form (accessSrcs false form) := by
      intro hs hp hf
      obtain ⟨t, hx, htm, hpipe, hissued⟩ := issues hi hs (fun h => nomatch h) hp hf
      obtain ⟨hnext, hindex, hlanes, -, -, hword⟩ := hissued
      refine ⟨t, hx, ⟨htm, hnext, hindex, hword⟩, hlanes, fun n hn ha => ?_⟩
      obtain ⟨due, part, hdue, hlane, hentry⟩ := accessOf_covers c f false hform hn ha
      rw [← haddr]
      refine ⟨due, part.map fun l => (l.2, nth 0 (srcVal v f 2) l.1), hdue, List.mem_map.2 ⟨_, hlane, rfl⟩, ?_⟩
      rw [hpipe]
      exact List.mem_append_right _ hentry
    have fail {i : Instr} {ld : Bool} {form : Nat} (hi : exec i s = .next (accessWord f ld form s)) :
        fails i ld form (accessSrcs ld form) := by
      intro hs hd ha hb n hn hact hpre a stops
      have stop {h : Hit} (hlane : ∀ due, laneHit c ld due (n, a) = some h) : stops h :=
        access_stops hi hs (firstHit_accessRegs ha hb hg hd) hn hact hpre (by rw [haddr]; exact hlane)
      refine ⟨fun h4 => stop fun _ => laneHit_unaligned h4, fun h4 hout => stop fun _ => laneHit_outside h4 hout,
        fun h4 hin hr => stop fun _ => laneHit_unmapped h4 hin hr, fun g h4 hin hr =>
          ⟨fun hcom => stop fun _ => laneHit_compressed h4 hin hr hcom, fun hcom hld hv hahead => stop fun due => ?_⟩⟩
      subst hld
      exact laneHit_invalid h4 hin hr hcom hv (hahead due)
    exact ⟨load (execVld_eq f s) (by decide), load (execVlds_eq f s) (by decide), load (execVldg_eq f s) (by decide),
      store (execVst_eq f s) (by decide), store (execVsts_eq f s) (by decide), store (execVscat_eq f s) (by decide),
      fail (execVld_eq f s), fail (execVlds_eq f s), fail (execVldg_eq f s), fail (execVst_eq f s), fail (execVsts_eq f s), fail (execVscat_eq f s)⟩
  case rows =>
    intro c v tile row act full index
    refine ⟨fun ho hl hf => ?loads, fun ho hg hs hf => ?stores, fun ho hl hm hf => ?loadWaits, fun ho hg hs hm hf => ?storeWaits, fun hw => ?index⟩
    case loads =>
      refine (execVldt_eq f s).trans (congrArg Outcome.next (veWord_next (sourcesReady_nil s f) ?_))
      rw [firstHit_vldtHits ho hl, tileHit_none hf]
      rfl
    case stores =>
      refine ⟨storedLanes v f, fun i x => mem_storedLanes, (execVstt_eq f s).trans (congrArg Outcome.next (veWord_next hs ?_))⟩
      rw [firstHit_vsttHits ho hg, tileHit_none hf]
      rfl
    case loadWaits =>
      have hhit : firstHit (vldtHits f c) = some (.stall 0 tile 0 (some tile)) := by
        rw [firstHit_vldtHits ho hl, tileHit_some hm hf]
        rfl
      obtain ⟨t, hx, hpc, hnext, -, hpipe⟩ := exec_waits (execVldt_eq f s) (sourcesReady_nil s f) hhit hm
      exact ⟨t, hx, hpc, hnext, hpipe⟩
    case storeWaits =>
      have hhit : firstHit (vsttHits f c) = some (.stall 1 tile 0 (some tile)) := by
        rw [firstHit_vsttHits ho hg, tileHit_some hm hf]
        rfl
      obtain ⟨t, hx, hpc, hnext, -, hpipe⟩ := exec_waits (execVstt_eq f s) hs hhit hm
      exact ⟨t, hx, hpc, hnext, hpipe⟩
    case index =>
      refine ⟨congrArg Outcome.next (indexWord_next _ (fun _ h => nomatch h) hw), fun ha => ⟨congrArg Outcome.next (indexWord_next _ ?_ hw), fun hb =>
        congrArg Outcome.next (indexWord_next _ ?_ hw)⟩⟩
      · simpa using ha
      · simpa using ⟨ha, hb⟩

end Sys2Proof.Machine

/-! # Matrix words that issue, and the slot words (07 R197, R198, R200) -/

namespace Sys2Proof.Machine

open Host (Outcome)

/-! ## A core after a change of one half -/

section OneHalf

variable (h x : Side) (f : Half → Half) (c : Site)

@[simp] theorem modHalf_now : (modHalf h f c).now = c.now := by cases h <;> rfl
@[simp] theorem modHalf_own : (modHalf h f c).own = c.own := by cases h <;> rfl
@[simp] theorem modHalf_tm : (modHalf h f c).tm = c.tm := by cases h <;> rfl
@[simp] theorem modHalf_flags : (modHalf h f c).flags = c.flags := by cases h <;> rfl
@[simp] theorem modHalf_pipe : (modHalf h f c).pipe = c.pipe := by cases h <;> rfl
@[simp] theorem ctxOf_modHalf : ctxOf (modHalf h f c) x = ctxOf c x := by cases h <;> rfl

theorem modHalf_modHalf (g : Half → Half) : modHalf h g (modHalf h f c) = modHalf h (fun v => g (f v)) c := by cases h <;> rfl

end OneHalf

/-! ## A matrix word that issues (03 R86) -/

section MatrixWord

variable {s : State} {occ skip : Nat} {effect : State → State} {g : Site → Site}

/-- The half of a word of `occ` beats that issues in beat `now`: `skip` halfwords on. -/
def halfIssued (now occ skip : Nat) (v : Half) : Half :=
  { v with seq := { v.seq with pc := v.seq.pc + skip }, ctl := { v.ctl with next := now + occ, prepared := false, cls := .issuing } }

theorem modMySeq_matrix (hm : inMatrix s = true) (f : Seq → Seq) : modMySeq f s = modMySite (modHalf s.cur.half fun v => { v with seq := f v.seq }) s :=
  if_pos hm

theorem mySeq_matrix (hm : inMatrix s = true) : mySeq s = (myHalf s).seq := if_pos hm

/-- Only the effect in the state of the word counts. -/
theorem seqDone_congr {e : State → State} (h : effect s = e s) : seqDone occ skip effect s = seqDone occ skip e s := by
  simp only [seqDone, seqWord, firstHit, h]

theorem seqIssue_matrix (hm : inMatrix s = true) (occ : Nat) : seqIssue occ s = modMySite (fun c => modHalf s.cur.half
    (fun v => { v with ctl := { v.ctl with next := c.now + occ, prepared := false, cls := .issuing } }) c) s := by
  rw [seqIssue, modSeqCtl, if_pos hm, streamNow, streamSite_matrix hm]
  rfl

theorem seqDone_site (hm : inMatrix s = true) (h : effect s = modMySite g s) :
    seqDone occ skip effect s = modMySite (fun c => modHalf s.cur.half (halfIssued (g c).now occ skip) (g c)) s := by
  have hissue : seqDone occ skip effect s = seqIssue occ (modMySeq (fun q => { q with pc := q.pc + skip }) (effect s)) := rfl
  rw [hissue, h, modMySeq_matrix (s := modMySite g s) hm, modMySite_modMySite, seqIssue_matrix (s := modMySite _ s) hm, modMySite_modMySite]
  simp only [modMySite_cur, modHalf_modHalf, modHalf_now]
  rfl

/-- The core after a matrix word whose effect is on its own core. -/
theorem mySite_seqDone (hm : inMatrix s = true) (h : effect s = modMySite g s) :
    mySite (seqDone occ skip effect s) = modHalf s.cur.half (halfIssued (g (mySite s)).now occ skip) (g (mySite s)) := by
  rw [seqDone_site hm h, mySite_modMySite]

theorem myHalf_seqDone (hm : inMatrix s = true) (h : effect s = modMySite g s) :
    myHalf (seqDone occ skip effect s) = halfIssued (g (mySite s)).now occ skip (halfOf (g (mySite s)) s.cur.half) := by
  have hcur : (seqDone occ skip effect s).cur = s.cur := by rw [seqDone_site hm h]; rfl
  rw [myHalf, hcur, mySite_seqDone hm h, halfOf_modHalf]

end MatrixWord

/-! ## A check of a word -/

theorem hitIf_eq_some {b : Bool} (hb : b = true) (h : Hit) : hitIf b h = some h := if_pos hb

theorem hitIf_eq_none {b : Bool} (hb : b = false) (h : Hit) : hitIf b h = none := by rw [hb, hitIf_false]

/-! ## Slot words (07 R197, R198, R200) -/

section SlotWords

variable {s : State} {slot : BitVec 4}

theorem slotHalfHit_none (hh : decide (8 ≤ slot.toNat) = s.cur.half) : slotHalfHit s slot = none := by
  rw [slotHalfHit, hh, bne_self_eq_false, hitIf_false]

theorem execClaim_next (hh : decide (8 ≤ slot.toNat) = s.cur.half) (hv : (slotOf (mySite s) slot).st = .free) :
    exec (.claim slot) s = .next (seqDone 1 1 (putSlot slot ⟨.claimed, .none, 0⟩) s) :=
  congrArg Outcome.next (seqWord_next (by rw [slotHalfHit_none hh, hv]; rfl))

theorem execClaim_taken (hh : decide (8 ≤ slot.toNat) = s.cur.half) (hv : (slotOf (mySite s) slot).st ≠ .free) :
    exec (.claim slot) s = .next (seqStop (slotFault slot (slotOf (mySite s) slot)) s) :=
  congrArg Outcome.next (seqWord_stop (by rw [slotHalfHit_none hh, hitIf_eq_some (bne_iff_ne.2 hv)]; rfl))

/-- A slot that its release gives back: Claimed, or Ready and not to be read again. -/
theorem execRelease_next (hh : decide (8 ≤ slot.toNat) = s.cur.half)
    (hv : (slotOf (mySite s) slot).st = .claimed ∨
      ((slotOf (mySite s) slot).st = .ready ∧ slotInUse (mySite s) (s.cur.half, slot.toNat % 8) = false)) :
    exec (.release slot) s = .next (seqDone 1 1 (fun t => putSlot slot Slot.empty (modSite t.cur.site (modCtx
      (homeCtx (mySite s) (headRink (mySite s) (halfHead s.cur.half))) fun y => { y with fstat := y.fstat ||| (slotOf (mySite s) slot).flags }) t)) s) := by
  refine congrArg Outcome.next ((seqWord_next ?_).trans (seqDone_congr rfl))
  rw [slotHalfHit_none hh]
  rcases hv with hst | ⟨hst, huse⟩
  · rw [hst]; rfl
  · rw [hst, huse]; rfl

theorem execRelease_free (hh : decide (8 ≤ slot.toNat) = s.cur.half) (hv : (slotOf (mySite s) slot).st = .free) :
    exec (.release slot) s = .next (seqStop (slotFault slot (slotOf (mySite s) slot)) s) :=
  congrArg Outcome.next (seqWord_stop (by rw [slotHalfHit_none hh, hv]; rfl))

/-! ### The fill words -/

/-- The fill words are one word, by the kind of the fill. -/
def fillInstr (slot : BitVec 4) : FillKind → Instr
  | .fill => .fill slot
  | .sfill => .sfill slot
  | .dfill => .dfill slot

theorem exec_fillInstr (k : FillKind) : exec (fillInstr slot k) s = .next (fillWord k slot s) := by cases k <;> rfl

/-- The fill that a fill word queues. -/
def queuedFill (k : FillKind) (slot : BitVec 4) (s : State) : Fill :=
  { slot := slot.toNat % 8, record := (top (mySeq s) 0).toNat, kind := k,
    fctl := sampleFctl (mySite s).now (ctxOf (mySite s) (homeCtx (mySite s) (headRink (mySite s) (myHead s)))),
    issued := (mySite s).now, word := (myHalf s).pcBase.toNat + 2 * (mySeq s).pc, started := none, ends := 0, banks := [],
    scaling := Scaling.none, tile := .none, flags := 0, gave := 0 }

/-- The half after a fill word: the slot is Filling and the fill is queued. -/
def halfQueued (slot : BitVec 4) (f : Fill) (v : Half) : Half :=
  { v with slots := v.slots.put (slot.toNat % 8) ⟨.filling, .none, 0⟩, fills := v.fills ++ [f], seq := { v.seq with stack := v.seq.stack.drop 1 } }

/-- The core after a fill word: the flags held with the slot have gone to the home context (07 R200). -/
def siteQueued (k : FillKind) (slot : BitVec 4) (s : State) (c : Site) : Site :=
  modHalf s.cur.half (halfQueued slot (queuedFill k slot s)) (modCtx (homeCtx c (headRink c (halfHead s.cur.half)))
    (fun x => { x with fstat := x.fstat ||| (slotOf (mySite s) slot).flags }) c)

theorem exec_fill_queues (k : FillKind) (hh : decide (8 ≤ slot.toNat) = s.cur.half) (hq : (mySeq s).stack ≠ [])
    (hv : (slotOf (mySite s) slot).st = .claimed) (hw : ((myHalf s).fills.filter fun f => f.started.isNone).length < 4) :
    exec (fillInstr slot k) s = .next (seqDone 1 1 (modMySite (siteQueued k slot s)) s) := by
  have hroom : decide (4 ≤ ((myHalf s).fills.filter fun f => f.started.isNone).length) = false := decide_eq_false (by omega)
  rw [exec_fillInstr, fillWord, seqWord_next]
  · refine congrArg Outcome.next (seqDone_congr ?_)
    simp only [putSlot, halfFlags, modMyHalf, ← modMySite.eq_def, modMySite_modMySite, modMySite_cur, modHalf_modHalf]
    rfl
  · rw [slotHalfHit_none hh, popHit_one_none hq, hv, hroom]; rfl

theorem exec_fill_unclaimed (k : FillKind) (hh : decide (8 ≤ slot.toNat) = s.cur.half) (hq : (mySeq s).stack ≠ [])
    (hv : (slotOf (mySite s) slot).st ≠ .claimed) :
    exec (fillInstr slot k) s = .next (seqStop (slotFault slot (slotOf (mySite s) slot)) s) := by
  rw [exec_fillInstr, fillWord, seqWord_stop]
  rw [slotHalfHit_none hh, popHit_one_none hq, hitIf_eq_some (bne_iff_ne.2 hv)]; rfl

end SlotWords

/-- Settles O38: a slot word by the state of its slot, the fill words as one. -/
theorem slotWordResults : Obligations.SlotWordResults := by
  unfold Obligations.SlotWordResults
  intro s slot hm c q here n v x flags wrong fills
  have fillsAs (k : FillKind) : fills (fillInstr slot k) k := by
    refine ⟨fun hh hq hv hw => ?_, exec_fill_unclaimed k⟩
    refine ⟨_, queuedFill k slot s, exec_fill_queues k hh hq hv hw, ?_⟩
    rw [myHalf_seqDone hm rfl, mySite_seqDone hm rfl, siteQueued, halfOf_modHalf, ctxOf_modHalf, ctxOf_modHalf, halfOf_modCtx]
    have hseq : q = (halfOf (mySite s) s.cur.half).seq := mySeq_matrix hm
    rw [hseq]
    refine ⟨rfl, rfl, rfl, ?_, rfl, rfl, ?_, rfl, rfl, ?_⟩
    · rw [← hseq]; rfl
    · exact congrArg Slot.st (Table.get_put_same ..)
    · exact congrArg Ctx.fstat (ctxOf_modCtx ..)
  exact ⟨execClaim_next, execClaim_taken, execRelease_next, execRelease_free, fillsAs .fill, fillsAs .sfill, fillsAs .dfill⟩

end Sys2Proof.Machine

/-! # The matrix words (07 R190, R201 to R204, R211 to R214) -/

namespace Sys2Proof.Machine

open Host (Outcome)

/-! ## Loop-nest registers and the arming of a bank (07 R201 to R204) -/

section NestWords

variable {s : State} {bank whole acc : Bool} {p : BitVec 4}

/-- The operands of a matrix word that pops two are off its stack. -/
def popTwo (v : Half) : Half := { v with seq := { v.seq with stack := v.seq.stack.drop 2 } }

/-- mnest's own checks pass: two operands, a register that exists, and a bank that is not armed. -/
theorem mnestHits_none (h2 : 2 ≤ (mySeq s).stack.length) (hg : nestReg (nth 0 (mySeq s).stack 1).toNat = true)
    (ha : armed (mySite s) s.cur.half bank = false) :
    firstHit [popHit 2 (mySeq s), hitIf (!nestReg (top (mySeq s) 1).toNat) (.trap 1 (2 * 4096 + 4 * 256)),
      hitIf (armed (mySite s) s.cur.half bank) (.trap 0x13 0)] = none := by
  rw [popHit_none h2, top, hg, ha]; rfl

/-- mnest of a register other than GO writes it (07 R202). -/
theorem execMnest_writes (hm : inMatrix s = true) (h2 : 2 ≤ (mySeq s).stack.length) (hg : nestReg (nth 0 (mySeq s).stack 1).toNat = true)
    (ha : armed (mySite s) s.cur.half bank = false) (h7 : (nth 0 (mySeq s).stack 1).toNat ≠ 7) :
    exec (.mnest bank) s = .next (seqDone 1 1 (modMySite (modHalf s.cur.half fun v =>
      putNestReg bank (nth 0 (mySeq s).stack 1).toNat (nth 0 (mySeq s).stack 0) (popTwo v))) s) := by
  refine (if_neg h7).trans (congrArg Outcome.next ((seqWord_next (mnestHits_none h2 hg ha)).trans (seqDone_congr ?_)))
  show modMyHalf _ (modMySeq _ s) = _
  rw [modMySeq_matrix hm, modMyHalf, modMySite_modMySite]
  simp only [modMySite_cur, modHalf_modHalf]
  rfl

/-- A write of GO arms the bank as an mgo of its value would (07 R202). -/
theorem execMnest_goes (hm : inMatrix s = true) (h2 : 2 ≤ (mySeq s).stack.length) (h7 : (nth 0 (mySeq s).stack 1).toNat = 7)
    (ha : armed (mySite s) s.cur.half bank = false) (ht : halfTimed (mySite s) s.cur.half = false)
    (hgo : firstHit (mgoHits (mySite s) (headRink (mySite s) (myHead s)) s.cur.half bank ((nth 0 (mySeq s).stack 0).getLsbD 3) 2) = none) :
    exec (.mnest bank) s = .next (seqDone 1 1 (modMySite fun c => addNest s.cur.half
      (goNest (mySite s) s.cur.half bank (nth 0 (mySeq s).stack 0) (homeCtx (mySite s) (headRink (mySite s) (myHead s))))
      (modHalf s.cur.half popTwo c)) s) := by
  refine (if_pos h7).trans (congrArg Outcome.next ((seqWord_next ?_).trans (seqDone_congr ?_)))
  · have hreg := mnestHits_none (bank := bank) h2 (by rw [h7]; rfl) ha
    rw [List.append_assoc, firstHit_append hreg, ht]
    exact hgo
  · show modMySite _ (modMySeq _ s) = _
    rw [modMySeq_matrix hm, modMySite_modMySite]
    rfl

theorem execMnest_unknown (h2 : 2 ≤ (mySeq s).stack.length) (hg : nestReg (nth 0 (mySeq s).stack 1).toNat = false) :
    exec (.mnest bank) s = .next (seqStop (.trap 1 0x2400) s) := by
  have h7 : (nth 0 (mySeq s).stack 1).toNat ≠ 7 := fun h => by rw [h] at hg; exact nomatch hg
  refine (if_neg h7).trans (congrArg Outcome.next (seqWord_stop ?_))
  rw [popHit_none h2, top, hg]; rfl

/-- mgo arms its bank (07 R203). -/
theorem execMgo_goes (ha : armed (mySite s) s.cur.half bank = false)
    (hgo : firstHit (mgoHits (mySite s) (headRink (mySite s) (myHead s)) s.cur.half bank whole 2) = none) :
    exec (.mgo p whole acc bank) s = .next (seqDone 1 1 (modMySite (addNest s.cur.half (newNest (mySite s) bank whole acc (p.toNat + 1)
      (homeCtx (mySite s) (headRink (mySite s) (myHead s))) (nestCfg (myHalf s) bank).nLevels))) s) := by
  refine congrArg Outcome.next (seqWord_next ?_)
  have hwhole : firstHit (wholeHits (mySite s) (headRink (mySite s) (myHead s)) s.cur.half whole 2) = none := by
    rw [mgoHits, List.append_assoc] at hgo
    exact firstHit_eq_none.2 fun e he => firstHit_eq_none.1 hgo e (List.mem_append_left _ he)
  rw [List.append_assoc, firstHit_append hwhole, ha]
  exact hgo

end NestWords

/-! ## Sums, accumulators and the end of the stream (07 R211 to R214) -/

section SumWords

variable {s : State} {bank whole tile : Bool}

/-- MS1 is not held by a whole-array operation of MS0 (07 R190). -/
theorem heldHit_none (hheld : ¬(s.cur.half = true ∧ heldWhole (mySite s) = true)) (e : Hit) :
    hitIf (s.cur.half && heldWhole (mySite s)) e = none :=
  hitIf_eq_none (by rw [← Bool.not_eq_true, Bool.and_eq_true]; exact hheld) e

theorem accHit_none {c : Site} {h : Side} (hacc : ∀ hh ∈ halvesOf h whole, accBusy c hh bank = false) (e : Hit) :
    hitIf ((halvesOf h whole).any fun hh => accBusy c hh bank) e = none :=
  hitIf_eq_none (List.any_eq_false.2 fun hh hmem => ne_true_of_eq_false (hacc hh hmem)) e

theorem execPromote_next (hheld : ¬(s.cur.half = true ∧ heldWhole (mySite s) = true)) :
    exec .promote s = .next (seqDone 1 1 (modMyHalf fun v =>
      { v with promoteAt := if v.nests.any (fun n => n.started && n.done.isNone) then some (mySite s).now else none }) s) :=
  congrArg Outcome.next (seqWord_next (by rw [heldHit_none hheld]; rfl))

theorem execAclr_next (hheld : ¬(s.cur.half = true ∧ heldWhole (mySite s) = true))
    (hwhole : ∀ e ∈ wholeHits (mySite s) (headRink (mySite s) (myHead s)) s.cur.half whole 2, e = none)
    (hacc : ∀ hh ∈ halvesOf s.cur.half whole, accBusy (mySite s) hh bank = false) :
    exec (.aclr whole bank) s = .next (seqDone 1 1 (modMySite fun c => { c with pipe := c.pipe ++
      [⟨(mySite s).now + 2, (mySite s).now, myHead s, none, headRink (mySite s) (myHead s), false, .accClear s.cur.half bank whole⟩] }) s) := by
  refine congrArg Outcome.next (seqWord_next ?_)
  rw [firstHit_append (firstHit_eq_none.2 hwhole), heldHit_none hheld, accHit_none hacc]
  rfl

theorem execMend_next (hst : (mySeq s).stack = []) (hr : (mySeq s).reps = []) :
    exec .mend s = .next (seqDone 1 1 (modMyHalf fun v => { v with ctl := { v.ctl with running := false } }) s) :=
  congrArg Outcome.next (seqWord_next (by rw [endHits, hst, hr]; rfl))

theorem execMend_entries (hst : (mySeq s).stack ≠ []) :
    exec .mend s = .next (seqStop (.trap 0x1F (0x200 + (mySeq s).stack.length)) s) :=
  congrArg Outcome.next (seqWord_stop (by
    rw [endHits, stackHit_eq_some (by rw [List.isEmpty_eq_false_iff.2 hst]; rfl)]; rfl))

theorem execMend_open (hst : (mySeq s).stack = []) (hr : (mySeq s).reps ≠ []) :
    exec .mend s = .next (seqStop (.trap 0x1F (0x600 + (mySeq s).stack.length)) s) :=
  congrArg Outcome.next (seqWord_stop (by
    rw [endHits, stackHit_eq_none (by rw [hst]; rfl), stackHit_eq_some (by rw [List.isEmpty_eq_false_iff.2 hr]; rfl)]; rfl))

end SumWords

/-! ## aout (07 R213) -/

section Aout

variable {s : State} {tile whole bank : Bool}

/-- The destination that an aout pops. -/
def aoutDest (s : State) : Nat := (nth 0 (mySeq s).stack 0).toNat

/-- The format word that an aout pops. -/
def aoutWord (s : State) : Nat := (nth 0 (mySeq s).stack 1).toNat

/-- The rows that a format word names. -/
def aoutRows (f : Nat) : Nat := field f 6 0

/-- The bytes of a row that aout writes with a format word. -/
def aoutLen (whole : Bool) (f : Nat) : Nat := (if bitOf f 16 then 256 else 512) * (1 + b2n whole)

/-- The rows that an aout queues. -/
def aoutQueued (tile whole bank : Bool) (s : State) : List Pend × Nat :=
  let c := mySite s
  let d := aoutDest s
  let f := aoutWord s
  aoutPends c (headRink c (myHead s)) s.cur.half bank whole (field f 13 8) (aoutRows f) (aoutLen whole f) (bitOf f 16) (bitOf f 17)
    (sampleFctl c.now (ctxOf c (homeCtx c (headRink c (myHead s))))) (if tile then some (d % 16) else none) d

/-- The format word sets a bit that R213 has not or names no rows of the bank, or a tile register does not exist or does not hold the rows. -/
def aoutMalformed (tile whole : Bool) (d f : Nat) : Bool :=
  f / 2 ^ 18 != 0 || field f 15 14 != 0 || bitOf f 7 || aoutRows f == 0 || decide (64 < field f 13 8 + aoutRows f)
    || (tile && (16 ≤ d || 8192 < aoutRows f * aoutLen whole f))

/-- The checks of the operands of an aout and of the half's accumulators. -/
def aoutFormHits (tile whole bank : Bool) (s : State) : List (Option Hit) :=
  [popHit 2 (mySeq s), hitIf (s.cur.half && heldWhole (mySite s)) (.stall 3 (b2n bank) 0 none),
    hitIf ((halvesOf s.cur.half whole).any fun hh => accBusy (mySite s) hh bank) (.stall 3 (b2n bank) 0 none),
    hitIf (aoutMalformed tile whole (aoutDest s) (aoutWord s)) (.trap 0x22 0)]

/-- The checks of the place that an aout writes: a tile register, or rows of tile memory. -/
def aoutPlaceHits (tile whole : Bool) (c : Site) (r d f : Nat) : List (Option Hit) :=
  if tile then [hitIf (!ownsFlag c r (d % 16)) (.trap 0x14 0), hitIf (!tileEmpty c (d % 16)) (.stall 1 (d % 16) 0 (some (d % 16)))]
  else hitIf (d % 4 != 0 || 2 ^ 24 ≤ d) (.tmTrap 0x17 0 (if 2 ^ 24 ≤ d then 5 else 1) (d % 2 ^ 24)) ::
    (List.range (aoutRows f)).map fun i => tmCheck c r (d + aoutLen whole f * i) (aoutLen whole f) false (fun _ => false) 0

/-- In timetabled mode a row that meets a conflict stops the word. -/
def aoutClash (tile whole bank : Bool) (s : State) : Option (Nat × Nat) :=
  if halfTimed (mySite s) s.cur.half then
    (aoutQueued tile whole bank s).1.findSome? fun p => conflict (mySite s) (halfHead s.cur.half) p.due (actSpans p.act)
  else none

theorem execAout_eq (tile whole bank : Bool) (s : State) : exec (.aout tile whole bank) s =
    .next (seqWord (wholeHits (mySite s) (headRink (mySite s) (myHead s)) s.cur.half whole 2 ++ aoutFormHits tile whole bank s ++
        aoutPlaceHits tile whole (mySite s) (headRink (mySite s) (myHead s)) (aoutDest s) (aoutWord s) ++
        [(aoutClash tile whole bank s).map fun e => .stall e.1 e.2 0 none]) 1 1
      (fun t => modMySite (addPends (liveJob t) (headRink (mySite s) (myHead s)) (aoutQueued tile whole bank s))
        (modMySeq (fun q => { q with stack := q.stack.drop 2 }) t)) s) := rfl

/-! ### Its checks -/

theorem aoutMalformed_false {d f : Nat} (hf : f < 2 ^ 18) (h14 : field f 15 14 = 0) (h7 : bitOf f 7 = false) (hpos : 0 < aoutRows f)
    (h64 : field f 13 8 + aoutRows f ≤ 64) (htile : tile = true → d < 16 ∧ aoutRows f * aoutLen whole f ≤ 8192) :
    aoutMalformed tile whole d f = false := by
  have hregister : (tile && (16 ≤ d || 8192 < aoutRows f * aoutLen whole f)) = false := by
    cases tile with
    | false => rfl
    | true => simpa using htile rfl
  have hrows : (aoutRows f == 0) = false := beq_false_of_ne hpos.ne'
  have hbank : decide (64 < field f 13 8 + aoutRows f) = false := decide_eq_false (by omega)
  rw [aoutMalformed, Nat.div_eq_of_lt hf, h14, h7, hrows, hbank, hregister]
  rfl

theorem aoutFormHits_none (h2 : 2 ≤ (mySeq s).stack.length) (hheld : ¬(s.cur.half = true ∧ heldWhole (mySite s) = true))
    (hacc : ∀ hh ∈ halvesOf s.cur.half whole, accBusy (mySite s) hh bank = false)
    (hf : aoutMalformed tile whole (aoutDest s) (aoutWord s) = false) : firstHit (aoutFormHits tile whole bank s) = none := by
  rw [aoutFormHits, popHit_none h2, heldHit_none hheld, accHit_none hacc, hf]
  rfl

theorem aoutPlaceHits_memory {c : Site} {r d f : Nat} (h4 : d % 4 = 0) (hd : d < 2 ^ 24)
    (hrow : ∀ i < aoutRows f, tmCheck c r (d + aoutLen whole f * i) (aoutLen whole f) false (fun _ => false) 0 = none) :
    firstHit (aoutPlaceHits false whole c r d f) = none := by
  have haddr : (d % 4 != 0 || decide (2 ^ 24 ≤ d)) = false := by rw [h4, decide_eq_false (by omega)]; rfl
  rw [aoutPlaceHits, if_neg Bool.false_ne_true, haddr]
  refine firstHit_eq_none.2 fun e he => ?_
  rcases List.mem_cons.1 he with rfl | he
  · rfl
  · obtain ⟨i, hi, rfl⟩ := List.mem_map.1 he
    exact hrow i (List.mem_range.1 hi)

theorem aoutPlaceHits_register {c : Site} {r d f : Nat} (hd : d < 16) (hown : ownsFlag c r d = true) (hempty : tileEmpty c d = true) :
    firstHit (aoutPlaceHits true whole c r d f) = none := by
  rw [aoutPlaceHits, if_pos rfl, Nat.mod_eq_of_lt hd, hown, hempty]
  rfl

/-! ### Its rows -/

/-- The bytes of tile memory that row `i` of an aout writes: none where it goes to a tile register. -/
def aoutSpans (tile whole : Bool) (s : State) (i : Nat) : List (Nat × Nat × Bool) :=
  if tile then [] else [(aoutDest s + aoutLen whole (aoutWord s) * i, aoutLen whole (aoutWord s), true)]

/-- In timetabled mode row `i` is due at b + 2 + i. -/
theorem aoutQueued_timed (ht : halfTimed (mySite s) s.cur.half = true) :
    ∃ row : Nat → Pend, (aoutQueued tile whole bank s).1 = (List.range (aoutRows (aoutWord s))).map row ∧
      ∀ i, (row i).due = (mySite s).now + 2 + i ∧ actSpans (row i).act = aoutSpans tile whole s i :=
  ⟨_, congrArg Prod.fst (if_pos ht), fun i => ⟨rfl, by cases tile <;> rfl⟩⟩

theorem conflict_nil (c : Site) (me due : Nat) : conflict c me due [] = none := rfl

theorem aoutClash_none (ht : halfTimed (mySite s) s.cur.half = true) (hc : ∀ i < aoutRows (aoutWord s),
      conflict (mySite s) (halfHead s.cur.half) ((mySite s).now + 2 + i) (aoutSpans tile whole s i) = none) :
    aoutClash tile whole bank s = none := by
  obtain ⟨row, hrows, hrow⟩ := aoutQueued_timed (tile := tile) (whole := whole) (bank := bank) ht
  rw [aoutClash, if_pos ht, hrows, List.findSome?_eq_none_iff]
  intro p hp
  obtain ⟨i, hi, rfl⟩ := List.mem_map.1 hp
  rw [(hrow i).1, (hrow i).2]
  exact hc i (List.mem_range.1 hi)

/-- The core of an aout once its operands are popped and its rows are queued. -/
def siteAout (tile whole bank : Bool) (s : State) (c : Site) : Site :=
  addPends (liveJob s) (headRink (mySite s) (myHead s)) (aoutQueued tile whole bank s) (modHalf s.cur.half popTwo c)

theorem siteAout_pipe (tile whole bank : Bool) (s : State) :
    (siteAout tile whole bank s (mySite s)).pipe = (mySite s).pipe ++ (aoutQueued tile whole bank s).1 := by
  obtain ⟨o, ho⟩ := addPends_eq (liveJob s) (headRink (mySite s) (myHead s)) (aoutQueued tile whole bank s) (modHalf s.cur.half popTwo (mySite s))
  rw [siteAout, ho, modHalf_pipe]

theorem siteAout_half (tile whole bank : Bool) (s : State) : halfOf (siteAout tile whole bank s (mySite s)) s.cur.half = popTwo (myHalf s) := by
  obtain ⟨o, ho⟩ := addPends_eq (liveJob s) (headRink (mySite s) (myHead s)) (aoutQueued tile whole bank s) (modHalf s.cur.half popTwo (mySite s))
  rw [siteAout, ho]
  exact halfOf_modHalf ..

/-- An aout whose checks pass, in timetabled mode: its operands are popped and row `i` is due at b + 2 + i. -/
theorem execAout_queues (hm : inMatrix s = true)
    (hwhole : ∀ e ∈ wholeHits (mySite s) (headRink (mySite s) (myHead s)) s.cur.half whole 2, e = none)
    (hform : firstHit (aoutFormHits tile whole bank s) = none)
    (hplace : firstHit (aoutPlaceHits tile whole (mySite s) (headRink (mySite s) (myHead s)) (aoutDest s) (aoutWord s)) = none)
    (ht : halfTimed (mySite s) s.cur.half = true) (hc : ∀ i < aoutRows (aoutWord s),
      conflict (mySite s) (halfHead s.cur.half) ((mySite s).now + 2 + i) (aoutSpans tile whole s i) = none) :
    ∃ t, exec (.aout tile whole bank) s = .next t ∧ (myHalf t).seq.stack = (mySeq s).stack.drop 2 ∧
      (mySite t).pipe.length = (mySite s).pipe.length + aoutRows (aoutWord s) ∧
      ∀ i < aoutRows (aoutWord s), ∃ e ∈ (mySite t).pipe, e.due = (mySite s).now + 2 + i ∧ actSpans e.act = aoutSpans tile whole s i := by
  obtain ⟨row, hrows, hrow⟩ := aoutQueued_timed (tile := tile) (whole := whole) (bank := bank) ht
  have hdone : exec (.aout tile whole bank) s = .next (seqDone 1 1 (modMySite (siteAout tile whole bank s)) s) := by
    rw [execAout_eq, seqWord_next]
    · refine congrArg Outcome.next (seqDone_congr ?_)
      rw [modMySeq_matrix hm, modMySite_modMySite]
      rfl
    · rw [List.append_assoc, List.append_assoc, firstHit_append (firstHit_eq_none.2 hwhole), firstHit_append hform, firstHit_append hplace,
        aoutClash_none ht hc]
      rfl
  refine ⟨_, hdone, ?_, ?_, fun i hi => ?_⟩
  · rw [myHalf_seqDone hm rfl, siteAout_half, mySeq_matrix hm]; rfl
  · rw [mySite_seqDone hm rfl, modHalf_pipe, siteAout_pipe, hrows, List.length_append, List.length_map, List.length_range]
  · rw [mySite_seqDone hm rfl, modHalf_pipe, siteAout_pipe, hrows]
    exact ⟨row i, List.mem_append_right _ (List.mem_map_of_mem (List.mem_range.2 hi)), hrow i⟩

end Aout

/-- Settles O39: each word by its checks, the two places of an aout as one word. -/
theorem matrixWordResults : Obligations.MatrixWordResults := by
  unfold Obligations.MatrixWordResults
  intro s p whole acc tile bank hm c h q r regs reg val cfg goes
  have hseq : q = (myHalf s).seq := mySeq_matrix hm
  refine ⟨?writes, ?goes, execMnest_unknown, ?mgo, execPromote_next, execAclr_next, ?aout, execMend_next, execMend_entries, execMend_open⟩
  case writes =>
    intro h2 hg ha h7
    refine ⟨_, execMnest_writes hm h2 hg ha h7, ?_⟩
    rw [myHalf_seqDone hm rfl, halfOf_modHalf, hseq]
    have hregs : regs (halfIssued (mySite s).now 1 1 (putNestReg bank reg val (popTwo (myHalf s)))) =
        (regs (myHalf s)).setD 0 reg (val &&& BitVec.ofNat 64 (nestMask reg)) := bankRegs_putNestReg bank reg val (popTwo (myHalf s))
    refine ⟨?_, fun g hne => ?_, ?_, ?_⟩
    · exact (congrArg (Table.get · 0 reg) hregs).trans (Table.get_setD_same ..)
    · exact (congrArg (Table.get · 0 g) hregs).trans (Table.get_setD_ne _ _ _ hne)
    · cases bank <;> rfl
    · cases bank <;> rfl
  case goes =>
    intro h2 h7 ha ht hgo
    refine ⟨_, goNest c h bank val (homeCtx c r), execMnest_goes hm h2 h7 ha ht hgo, ?_, ?_⟩
    · rw [myHalf_seqDone hm rfl, addNest, halfOf_modHalf, halfOf_modHalf]; rfl
    · exact ⟨rfl, rfl, rfl, rfl, rfl, rfl, rfl, rfl, rfl⟩
  case mgo =>
    intro ha hgo
    refine ⟨_, newNest c bank whole acc (p.toNat + 1) (homeCtx c r) cfg.nLevels, execMgo_goes ha hgo, ?_⟩
    rw [myHalf_seqDone hm rfl, addNest, halfOf_modHalf, hseq, modHalf_now]
    exact ⟨rfl, ⟨rfl, rfl, rfl, rfl, rfl, rfl, rfl, rfl, rfl⟩, rfl, rfl⟩
  case aout =>
    intro hheld hwhole hacc h2 d rows row0 len hf h14 h7 hpos h64 ht
    have hrows : aoutRows reg = rows := congrArg (· % 2 ^ 7) (Nat.div_one reg)
    have form (htile : tile = true → d < 16 ∧ rows * len ≤ 8192) : firstHit (aoutFormHits tile whole bank s) = none :=
      aoutFormHits_none h2 hheld hacc (aoutMalformed_false hf h14 h7 (hrows ▸ hpos) (hrows ▸ h64) (hrows ▸ htile))
    refine ⟨fun htm h4 hd hplaces => ?memory, fun htile hd hlen hown hempty => ?register⟩
    case memory =>
      subst htm
      have hplace : firstHit (aoutPlaceHits false whole c r d reg) = none := aoutPlaceHits_memory h4 hd fun i hi => (hplaces i (hrows ▸ hi)).1
      obtain ⟨t, hx, hstack, hlength, hdue⟩ := execAout_queues (bank := bank) hm hwhole (form fun h => nomatch h) hplace ht
        fun i hi => (hplaces i (hrows ▸ hi)).2
      exact ⟨t, hx, hstack, hrows ▸ hlength, fun i hi => hdue i (hrows ▸ hi)⟩
    case register =>
      subst htile
      have hplace : firstHit (aoutPlaceHits true whole c r d reg) = none := aoutPlaceHits_register hd hown hempty
      obtain ⟨t, hx, hstack, hlength, hdue⟩ := execAout_queues (bank := bank) hm hwhole (form fun _ => ⟨hd, hlen⟩) hplace ht fun i _ => conflict_nil ..
      refine ⟨t, hx, hstack, hrows ▸ hlength, fun i hi => ?_⟩
      obtain ⟨e, he, hbeat, -⟩ := hdue i (hrows ▸ hi)
      exact ⟨e, he, hbeat⟩

end Sys2Proof.Machine

/-! # Fills through their beats (07 R192 to R200) -/

namespace Sys2Proof.Machine

open Host (Outcome)

/-! ## What the counters of a core leave alone -/

/-- A fold whose every step leaves a part of the state alone leaves it alone. -/
theorem foldl_unchanged {σ α γ : Type} {f : σ → α → σ} (g : σ → γ) (h : ∀ s a, g (f s a) = g s) (l : List α) (s : σ) : g (l.foldl f s) = g s := by
  induction l generalizing s with
  | nil => rfl
  | cons a l ih => rw [List.foldl_cons, ih, h]

theorem countEvent_eq (live : Nat → Bool) (r code n : Nat) (c : Site) : ∃ o, countEvent live r code n c = { c with obs := o } := ⟨_, rfl⟩

/-- A read of tile memory changes what its groups ask for, and counters. -/
theorem corrected_tm (addr n : Nat) (c : Site) :
    ∃ t o, corrected addr n c = { c with tm := t, obs := o } ∧ t.bytes = c.tm.bytes ∧ t.errs = c.tm.errs ∧ (c.tm.errs.cells = [] → t = c.tm) := by
  by_cases he : errorsIn 1 addr n c.tm.errs = []
  · exact ⟨c.tm, c.obs, corrected_sound addr n c he, rfl, rfl, fun _ => rfl⟩
  · unfold corrected
    rw [if_neg (by simpa using he)]
    refine ⟨_, _, rfl, ?_, ?_, fun hnil => absurd (errorsIn_nil 1 addr n _ hnil) he⟩
    · exact foldl_unchanged Tm.bytes (fun t g => by dsimp only; split <;> rfl) _ _
    · exact foldl_unchanged Tm.errs (fun t g => by dsimp only; split <;> rfl) _ _

theorem corrected_spans (l : List (Nat × Nat)) (c : Site) :
    ∃ t o, l.foldl (fun c x => corrected x.1 x.2 c) c = { c with tm := t, obs := o } ∧ t.bytes = c.tm.bytes ∧
      (c.tm.errs.cells = [] → t = c.tm) := by
  induction l generalizing c with
  | nil => exact ⟨c.tm, c.obs, rfl, rfl, fun _ => rfl⟩
  | cons x l ih =>
    obtain ⟨t, o, hx, hbytes, herrs, hsame⟩ := corrected_tm x.1 x.2 c
    obtain ⟨t', o', hl, hbytes', hsame'⟩ := ih (corrected x.1 x.2 c)
    rw [hx] at hl hbytes' hsame'
    refine ⟨t', o', ?_, hbytes'.trans hbytes, fun h => (hsame' (herrs ▸ h)).trans (hsame h)⟩
    rw [List.foldl_cons, hx, hl]

/-! ## The start of a fill (07 R198, R199) -/

section FillStart

variable {s : State} {k : Nat} {h : Side} {f : Fill} {fs : List Fill}

/-- The plan of a fill that starts now. -/
def planOf (k : Nat) (h : Side) (f : Fill) (s : State) : FillPlan :=
  planFill (site k s) (headRink (site k s) (halfHead h)) f s.fresh

/-- The last beat of a fill that starts now. -/
def lastBeat (k : Nat) (h : Side) (f : Fill) (s : State) : Nat :=
  (site k s).now + fillBeats (planOf k h f s).spec (planOf k h f s).j - 1

/-- A fill as it starts. -/
def startedFill (k : Nat) (h : Side) (f : Fill) (s : State) : Fill :=
  let plan := planOf k h f s
  let built := buildTile (site k s).tm h plan.spec plan.source plan.delta (fillEnv f)
  { f with started := some (site k s).now, ends := lastBeat k h f s, banks := plan.groups, scaling := scalingOf plan.spec, tile := built.1, flags := built.2 }

/-- A fill that is on its way, or of this beat, does not start. -/
theorem execFillStart_waits (hf : (halfOf (site k s) h).fills = f :: fs) (hw : f.started ≠ none ∨ (site k s).now ≤ f.issued) :
    exec (.fillStart k h) s = .next s := by
  have hnot : ¬(f.started.isNone = true ∧ f.issued < (site k s).now) := fun ⟨hn, hi⟩ =>
    hw.elim (fun h => h (Option.isNone_iff_eq_none.1 hn)) (fun h => by omega)
  show execFillStart k h s = _
  simp only [execFillStart, hf, if_neg hnot]

/-- A fill that starts: its half holds it with what it will leave, tile memory keeps its bytes, and energy and errors are counted. -/
theorem startFill_starts (hf : (halfOf (site k s) h).fills = f :: fs) (hn : f.started = none) (hh : firstHit (planOf k h f s).hits = none)
    (hc : fillClash (site k s) h (planOf k h f s) (lastBeat k h f s) = none) :
    halfOf (site k (startFill k h s)) h = { halfOf (site k s) h with fills := startedFill k h f s :: fs } ∧
      (site k (startFill k h s)).flags = (site k s).flags ∧ (site k (startFill k h s)).tm.bytes = (site k s).tm.bytes ∧
      ((site k s).tm.errs.cells = [] → (site k (startFill k h s)).tm = (site k s).tm) := by
  have hhits : firstHit (planFill (site k s) (headRink (site k s) (halfHead h)) f s.fresh).hits = none := hh
  unfold planOf lastBeat planOf at hc
  have hsites (p : Prop) [Decidable p] (n : Nat) : site k (if p then { s with fresh := n } else s) = site k s := by split <;> rfl
  simp only [startFill, hf, hn, Option.isSome_none, Bool.false_eq_true, if_false, hhits, hc, charge, modSite_modSite, site_modSite_same, hsites]
  generalize addEnergy _ = g
  generalize homeCtx (site k s) (headRink (site k s) (halfHead h)) = home
  obtain ⟨tm, obs, hspans, hbytes, hsame⟩ := corrected_spans (planOf k h f s).spans (modCtx home g (site k s))
  rw [modCtx_tm] at hbytes hsame
  have hhalf : halfOf { modCtx home g (site k s) with tm := tm, obs := obs } h = halfOf (site k s) h := halfOf_modCtx ..
  unfold planOf at hspans
  rw [hspans, modFill, halfOf_modHalf, modHalf_flags, modHalf_tm, hhalf, hf, modCtx_now, modCtx_flags]
  exact ⟨rfl, rfl, hbytes, hsame⟩

theorem execFillStart_starts (hf : (halfOf (site k s) h).fills = f :: fs) (hn : f.started = none) (hi : f.issued < (site k s).now) :
    exec (.fillStart k h) s = .next (startFill k h s) := by
  show execFillStart k h s = _
  simp only [execFillStart, hf, hn, Option.isNone_none, true_and, if_pos hi]

end FillStart

/-! ## The end of a fill (07 R195, R198) -/

section FillEnd

variable {s : State} {k : Nat} {h : Side} {f : Fill} {fs : List Fill}

theorem execFillComplete_waits (hf : (halfOf (site k s) h).fills = f :: fs) (hw : f.started = none ∨ (site k s).now ≤ f.ends) :
    exec (.fillComplete k h) s = .next s := by
  have hnot : ¬(f.started.isSome = true ∧ f.ends < (site k s).now) := fun ⟨hn, hi⟩ =>
    hw.elim (fun h => by rw [h] at hn; exact nomatch hn) (fun h => by omega)
  show Outcome.next (completeFill k h s) = _
  simp only [completeFill, hf, if_neg hnot]

/-- In free mode a fill waits for its tile register (07 R195). -/
theorem execFillComplete_stalls (hf : (halfOf (site k s) h).fills = f :: fs) (h2 : f.scaling.mode = 2)
    (hr : flagReady (site k s) f.scaling.treg = false) (ht : halfTimed (site k s) h = false) : exec (.fillComplete k h) s = .next s := by
  show Outcome.next (completeFill k h s) = _
  simp only [completeFill, hf, h2, hr, ht, Bool.not_false, and_self, if_true, Bool.false_eq_true, if_false, ite_self]

theorem site_completeFill (hf : (halfOf (site k s) h).fills = f :: fs) (hs : f.started ≠ none) (hi : f.ends < (site k s).now)
    (hr : f.scaling.mode = 2 → flagReady (site k s) f.scaling.treg = true) :
    ∃ o, site k (completeFill k h s) = { readySlot f fs h (site k s) with obs := o } := by
  have hdue : f.started.isSome = true ∧ f.ends < (site k s).now := ⟨Option.isSome_iff_ne_none.2 hs, hi⟩
  have hready : ¬(f.scaling.mode = 2 ∧ (!flagReady (site k s) f.scaling.treg) = true) := fun ⟨h2, hn⟩ => by rw [hr h2] at hn; exact nomatch hn
  simp only [completeFill, hf, if_pos hdue, if_neg hready, site_modSite_same]
  exact countEvent_eq ..

/-- The half whose fill is complete. -/
theorem halfOf_readySlot (f : Fill) (fs : List Fill) (h : Side) (c : Site) : halfOf (readySlot f fs h c) h = { halfOf c h with
    fills := fs, slots := (halfOf c h).slots.put f.slot ⟨.ready, f.tile.withSigma (scales c f.scaling (fillEnv f)).1,
      f.flags ||| (scales c f.scaling (fillEnv f)).2⟩, slotErrs := (halfOf c h).slotErrs.setD 0 f.slot 0 } := by
  unfold readySlot
  dsimp only
  split
  · exact halfOf_modHalf ..
  · exact halfOf_modHalf ..

/-- A fill that read its scales from a tile register empties it, unless it keeps it (07 R195). -/
theorem flags_readySlot (f : Fill) (fs : List Fill) (h : Side) (c : Site) : (readySlot f fs h c).flags =
    if f.scaling.mode = 2 ∧ f.scaling.keep = false then (clearFlag f.scaling.treg c).flags else c.flags := by
  unfold readySlot
  simp only [Bool.not_eq_true']
  split
  · rw [clearFlag, modFlags, modHalf_flags]; rfl
  · exact modHalf_flags ..

end FillEnd

end Sys2Proof.Machine

/-! # Nests as they start and retire (07 R200, R203, R205) -/

namespace Sys2Proof.Machine

open Host (Outcome)

/-- A fold over cores' changes is a fold of the core. -/
theorem site_foldl_changes {α : Type} (k : Nat) (g : α → Site → Site) (l : List α) (s : State) :
    site k (l.foldl (fun s a => modSite k (g a) s) s) = l.foldl (fun c a => g a c) (site k s) := by
  induction l generalizing s with
  | nil => rfl
  | cons a l ih => rw [List.foldl_cons, ih, site_modSite_same, List.foldl_cons]

/-- What one step of a fold establishes and every step keeps holds after the fold. -/
theorem foldl_establishes {σ α : Type} {P : σ → Prop} {f : σ → α → σ} (keep : ∀ s b, P s → P (f s b)) {a : α} (ha : ∀ s, P (f s a))
    {l : List α} (hmem : a ∈ l) (s : σ) : P (l.foldl f s) := by
  have kept (l : List α) (s : σ) (hs : P s) : P (l.foldl f s) := List.foldlRecOn l f hs fun s hs b _ => keep s b hs
  obtain ⟨front, back, rfl⟩ := List.append_of_mem hmem
  rw [List.foldl_append, List.foldl_cons]
  exact kept back _ (ha _)

/-! ## The rows that a nest clears (07 R205) -/

section ClearedRows

variable (cfg : NestCfg) (b h : Side) (cols : Nat) (v : Half)

/-- A sum that is zero, or one of those that are cleared, is zero. -/
theorem get_foldl_clear (key : Nat → Nat) (l : List Nat) (t : Table Lane) {i : Nat} (h : t.get 0 i = 0 ∨ ∃ c ∈ l, key c = i) :
    (l.foldl (fun t c => t.setD 0 (key c) 0) t).get 0 i = 0 := by
  induction l generalizing t with
  | nil => exact h.resolve_right (by simp)
  | cons c l ih =>
    by_cases hc : key c = i
    · exact ih _ (.inl (by simp only [hc, Table.get_setD_same]))
    · refine ih _ (h.imp (fun hz => (Table.get_setD_ne _ _ _ (Ne.symm hc)).trans hz) fun ⟨d, hd, hi⟩ => ⟨d, ?_, hi⟩)
      exact (List.mem_cons.1 hd).resolve_left fun e => hc (e ▸ hi)

theorem accOf_setAcc (t : Table Lane) : accOf (setAcc b t v) b = t := by cases b <;> rfl

/-- The half whose rows are cleared: sums and the errors that lie in them. -/
theorem clearRows_eq : ∃ e, clearRows cfg b cols v = { setAcc b ((List.range cfg.m).foldl (fun t i =>
      (List.range cols).foldl (fun t c => t.setD 0 (128 * (cfg.rbase + i) + c) 0) t) (accOf v b)) v with sumErrs := e } := by
  have hfold (l : List Nat) (w : Half) : ∃ e, l.foldl (fun v i => dropSums (rowSums b (cfg.rbase + i)) 128 v) w = { w with sumErrs := e } := by
    induction l generalizing w with
    | nil => exact ⟨w.sumErrs, rfl⟩
    | cons i l ih => exact ih (dropSums (rowSums b (cfg.rbase + i)) 128 w)
  exact hfold _ _

theorem clearRows_nests : (clearRows cfg b cols v).nests = v.nests := by
  obtain ⟨e, he⟩ := clearRows_eq cfg b cols v
  rw [he]
  cases b <;> rfl

variable {cfg cols}

theorem clearRows_zero {j col : Nat} (hj : j < cfg.m) (hcol : col < cols) :
    (accOf (clearRows cfg b cols v) b).get 0 (128 * (cfg.rbase + j) + col) = 0 := by
  obtain ⟨e, he⟩ := clearRows_eq cfg b cols v
  have hacc : accOf (clearRows cfg b cols v) b = (List.range cfg.m).foldl (fun t i =>
      (List.range cols).foldl (fun t c => t.setD 0 (128 * (cfg.rbase + i) + c) 0) t) (accOf v b) := by
    rw [he]
    exact accOf_setAcc b v _
  rw [hacc]
  refine foldl_establishes (P := fun t : Table Lane => t.get 0 (128 * (cfg.rbase + j) + col) = 0) (a := j) (fun t i ht => ?_) (fun t => ?_)
    (List.mem_range.2 hj) _
  · exact get_foldl_clear _ _ t (.inl ht)
  · exact get_foldl_clear _ _ t (.inr ⟨col, List.mem_range.2 hcol, rfl⟩)

end ClearedRows

/-! ## A nest of a half -/

section Nests

variable {h : Side} {i : Nat} {c : Site}

theorem nest_modNest {n : Nest} (hn : (halfOf c h).nests[i]? = some n) (g : Nest → Nest) : (halfOf (modNest h i g c) h).nests[i]? = some (g n) := by
  obtain ⟨hlt, -⟩ := List.getElem?_eq_some_iff.1 hn
  have hzip : ((halfOf c h).nests.zip (List.range (halfOf c h).nests.length))[i]? = some (n, i) :=
    List.getElem?_zip_eq_some.2 ⟨hn, List.getElem?_range hlt⟩
  rw [modNest, halfOf_modHalf, List.getElem?_map, hzip, Option.map_some, if_pos rfl]

/-- A change of a nest leaves every sum alone. -/
theorem accs_modNest (g : Nest → Nest) (hh : Side) :
    (halfOf (modNest h i g c) hh).accA = (halfOf c hh).accA ∧ (halfOf (modNest h i g c) hh).accB = (halfOf c hh).accB := by
  cases h <;> cases hh <;> exact ⟨rfl, rfl⟩

theorem accOf_modNest (g : Nest → Nest) (hh b : Side) : accOf (halfOf (modNest h i g c) hh) b = accOf (halfOf c hh) b := by
  obtain ⟨hA, hB⟩ := accs_modNest (i := i) (c := c) g hh
  rw [accOf, hA, hB, accOf]

/-- Each half that an operation uses is changed, and no other. -/
theorem halfOf_foldl_halves (F : Side → Half → Half) (whole : Bool) (hh : Side) :
    halfOf ((halvesOf h whole).foldl (fun c x => modHalf x (F x) c) c) hh =
      if hh ∈ halvesOf h whole then F hh (halfOf c hh) else halfOf c hh := by
  cases whole <;> cases h <;> cases hh <;> rfl

end Nests

/-! ## The start of a nest (07 R203, R205) -/

section NestStart

variable {s : State} {k i : Nat} {h : Side} {n : Nest}

/-- A nest that starts in overwrite mode: its rows of the active columns are cleared, if there are any. -/
def rowsCleared (k : Nat) (h : Side) (n : Nest) (s : State) : State :=
  let cfg := nestCfg (halfOf (site k s) h) n.bank
  if (cfg.m == 0 || cfg.n == 0) || n.accumulate then s
  else (halvesOf h n.whole).foldl (fun s hh => modSite k (modHalf hh (clearRows cfg n.bank (activeCols cfg n.whole hh))) s) s

/-- The state in which a nest has started. -/
def nestStarted (k : Nat) (h : Side) (i : Nat) (n : Nest) (s : State) : State :=
  modSite k (modNest h i fun m => { m with
    started := true, step := (site k s).now,
    done := if nestEmpty (nestCfg (halfOf (site k s) h) n.bank) then some ((site k s).now + 4) else none }) (rowsCleared k h n s)

theorem execNestStart_waits (hi : nestIndex (halfOf (site k s) h) = some i) (hn : (halfOf (site k s) h).nests[i]? = some n)
    (hw : n.started = true ∨ (site k s).now < n.issued + 2) : exec (.nestStart k h) s = .next s := by
  show Outcome.next (startNest k h s) = _
  simp only [startNest, hi, hn, if_pos hw]

theorem execNestStart_starts (hi : nestIndex (halfOf (site k s) h) = some i) (hn : (halfOf (site k s) h).nests[i]? = some n)
    (hs : n.started = false) (hb : n.issued + 2 ≤ (site k s).now) : exec (.nestStart k h) s =
      .next (if nestEmpty (nestCfg (halfOf (site k s) h) n.bank) then nestStarted k h i n s else nestBeat k h (nestStarted k h i n s)) := by
  have hnot : ¬(n.started = true ∨ (site k s).now < n.issued + 2) := fun hw => hw.elim (fun h => by rw [hs] at h; exact nomatch h) (fun h => by omega)
  show Outcome.next (startNest k h s) = _
  simp only [startNest, hi, hn, if_neg hnot]
  rfl

theorem halfOf_rowsCleared (hacc : n.accumulate = false) (hm : 0 < (nestCfg (halfOf (site k s) h) n.bank).m)
    (hcols : 0 < (nestCfg (halfOf (site k s) h) n.bank).n) {hh : Side} (hmem : hh ∈ halvesOf h n.whole) :
    halfOf (site k (rowsCleared k h n s)) hh = clearRows (nestCfg (halfOf (site k s) h) n.bank) n.bank
      (activeCols (nestCfg (halfOf (site k s) h) n.bank) n.whole hh) (halfOf (site k s) hh) := by
  rw [rowsCleared, if_neg (by simp [hacc]; omega), site_foldl_changes, halfOf_foldl_halves, if_pos hmem]

theorem rowsCleared_accumulates (hacc : n.accumulate = true) : rowsCleared k h n s = s := if_pos (by rw [hacc, Bool.or_true])

theorem rowsCleared_nests : (halfOf (site k (rowsCleared k h n s)) h).nests = (halfOf (site k s) h).nests := by
  unfold rowsCleared
  dsimp only
  split
  · rfl
  · rw [site_foldl_changes, halfOf_foldl_halves]
    split
    · exact clearRows_nests ..
    · rfl

theorem nestStarted_nest (hn : (halfOf (site k s) h).nests[i]? = some n) : (halfOf (site k (nestStarted k h i n s)) h).nests[i]? =
    some { n with
      started := true, step := (site k s).now,
      done := if nestEmpty (nestCfg (halfOf (site k s) h) n.bank) then some ((site k s).now + 4) else none } := by
  rw [nestStarted, site_modSite_same]
  exact nest_modNest ((congrArg (·[i]?) rowsCleared_nests).trans hn) _

end NestStart

/-! ## The end of a nest (07 R205, R200) -/

section NestRetire

variable {s : State} {k due : Nat} {h : Side} {n : Nest} {ns : List Nest}

theorem execNestRetire_waits (hn : (halfOf (site k s) h).nests = n :: ns) (hd : n.done = some due) (hw : (site k s).now < max due n.outDue) :
    exec (.nestRetire k h) s = .next s := by
  show Outcome.next (retireNest k h s) = _
  simp only [retireNest, hn, hd, if_pos hw]

/-- The signal of a nest's DONE register. -/
def doneSignal (k : Nat) (h : Side) (done : Nat) (s : State) : List Pend :=
  if bitOf done 6 then [⟨(site k s).now, (site k s).now, halfHead h, none, headRink (site k s) (halfHead h), false, .signal (done % 64)⟩] else []

/-- The core of a nest that retires: the bank is disarmed, the flags are merged, and DONE is signalled. -/
def siteDisarmed (k : Nat) (h : Side) (n : Nest) (ns : List Nest) (s : State) : Site :=
  modHalf h (fun v => { v with nests := ns }) (modCtx n.issuer (fun x => { x with fstat := x.fstat ||| n.flags ||| n.taken }) (site k s))

/-- A signal enters the pipeline of the half's core. -/
theorem site_addSignal (flag due : Nat) (t : State) : site k (addSignal k h flag due t) = { site k t with
    pipe := (site k t).pipe ++ [⟨due, (site k t).now, halfHead h, none, headRink (site k t) (halfHead h), false, .signal flag⟩] } := site_modSite_same ..

theorem retireNest_retires (hn : (halfOf (site k s) h).nests = n :: ns) (hd : n.done = some due) (hw : max due n.outDue ≤ (site k s).now) :
    ∃ o, site k (retireNest k h s) = { siteDisarmed k h n ns s with
      pipe := (site k s).pipe ++ doneSignal k h (nestCfg (halfOf (site k s) h) n.bank).done s, obs := o } := by
  have hnot : ¬(site k s).now < max due n.outDue := by omega
  have hcounted (b : Bool) (t : State) : ∃ o, site k (if b then modSite k (countEvent (liveJob s) (headRink (site k s) (halfHead h)) 0x0D 1) t else t) =
      { site k t with obs := o } := by
    cases b with
    | false => exact ⟨_, rfl⟩
    | true =>
      obtain ⟨o, ho⟩ := countEvent_eq (liveJob s) (headRink (site k s) (halfHead h)) 0x0D 1 (site k t)
      exact ⟨o, (site_modSite_same ..).trans ho⟩
  have hpipe : (siteDisarmed k h n ns s).pipe = (site k s).pipe := by rw [siteDisarmed, modHalf_pipe, modCtx_pipe]
  have hnow : (siteDisarmed k h n ns s).now = (site k s).now := by rw [siteDisarmed, modHalf_now, modCtx_now]
  have hrink : headRink (siteDisarmed k h n ns s) = headRink (site k s) := by unfold headRink; rw [siteDisarmed, modHalf_own, modCtx_own]
  obtain ⟨o, ho⟩ := hcounted (n.flags.getLsbD 4) (modSite k (fun c =>
    modHalf h (fun v => { v with nests := ns }) (modCtx n.issuer (fun x => { x with fstat := x.fstat ||| n.flags ||| n.taken }) c)) s)
  rw [site_modSite_same] at ho
  simp only [retireNest, hn, hd, if_neg hnot]
  refine ⟨o, ?_⟩
  unfold doneSignal
  split
  · rw [site_addSignal, ho, ← hpipe, ← hnow, ← hrink]
    rfl
  · rw [ho, List.append_nil, ← hpipe]
    rfl

end NestRetire

end Sys2Proof.Machine

/-! # The Lift and collective engines take, end and retire commands (08 R215 to R217, R225, R229) -/

namespace Sys2Proof.Machine

open Host (Outcome)

/-! ## The queues of a core -/

section Queues

variable {q : Queues} {m : Command}

@[simp] theorem runOf_setRun (l1 : Bool) (v : Option Run) (q : Queues) : runOf (setRun l1 v q) l1 = v := by cases l1 <;> rfl
@[simp] theorem setRun_lq (l1 : Bool) (v : Option Run) (q : Queues) : (setRun l1 v q).lq = q.lq := by cases l1 <;> rfl
@[simp] theorem setRun_sq (l1 : Bool) (v : Option Run) (q : Queues) : (setRun l1 v q).sq = q.sq := by cases l1 <;> rfl
@[simp] theorem setRun_liftFifo (l1 : Bool) (v : Option Run) (q : Queues) : (setRun l1 v q).liftFifo = q.liftFifo := by cases l1 <;> rfl
@[simp] theorem setRun_liftLost (l1 : Bool) (v : Option Run) (q : Queues) : (setRun l1 v q).liftLost = q.liftLost := by cases l1 <;> rfl

theorem runOf_modRunIn (x y : Bool) (g : Run → Run) (q : Queues) : runOf (modRunIn y g q) x = if x = y then (runOf q x).map g else runOf q x := by
  cases x <;> cases y <;> rfl

/-- A command that its engine has taken is in no queue. -/
theorem num_of_mem_dropCommand {x : Command} (h : x ∈ (dropCommand m q).lq ++ (dropCommand m q).sq) : x.num ≠ m.num := by
  rcases List.mem_append.1 h with h | h
  · exact bne_iff_ne.1 (List.mem_filter.1 h).2
  · exact bne_iff_ne.1 (List.mem_filter.1 h).2

theorem num_of_mem_dropCommand_ce {x : Command} (h : x ∈ (dropCommand m q).ce) : x.num ≠ m.num := bne_iff_ne.1 (List.mem_filter.1 h).2

end Queues

/-! ## A Lift engine takes a command (08 R215) -/

section LiftStart

variable {s : State} {k : Nat} {l1 : Bool} {m : Command}

/-- No chain of the core has failed: nothing is discarded (08 R230). -/
theorem discardChain_none (h : (site k s).q.skips.cells = []) (key n : Nat) : discardChain k key n s = s := by
  cases n with
  | zero => rfl
  | succ n => simp only [discardChain, h, List.find?_nil]

/-- The queues once an engine has taken a command. -/
def takenQueues (k now : Nat) (l1 : Bool) (m : Command) (q : Queues) : Queues :=
  setRun l1 (some (startRun k now (lookupKey ⟨0, false⟩ (queueKey m) q.chains.cells) m))
    { dropCommand m q with chains := ⟨eraseKey (queueKey m) q.chains.cells⟩ }

theorem discardChains_none (h : (site k s).q.skips.cells = []) : (List.range 4).foldl (fun s key => discardChain k key 33 s) s = s :=
  List.foldl_fixed' (fun key => discardChain_none h key 33) _

theorem execLiftCommandStart_takes (h : (site k s).q.skips.cells = []) (hm : nextCommand (site k s) l1 = some m)
    (hr : runOf (site k s).q l1 = none) (hv : commandVisible s k m = true) :
    exec (.liftCommandStart k l1) s = .next (modSite k (fun c => modQ (takenQueues k c.now l1 m) c) s) := by
  show execLiftCommandStart k l1 s = _
  simp only [execLiftCommandStart, discardChains_none h, hm, hr, if_pos hv]
  rfl

theorem execLiftCommandStart_unseen (h : (site k s).q.skips.cells = []) (hm : nextCommand (site k s) l1 = some m)
    (hr : runOf (site k s).q l1 = none) (hv : commandVisible s k m = false) : exec (.liftCommandStart k l1) s = .next s := by
  show execLiftCommandStart k l1 s = _
  simp only [execLiftCommandStart, discardChains_none h, hm, hr, hv, Bool.false_eq_true, if_false]

theorem execLiftCommandStart_idle (h : (site k s).q.skips.cells = []) (hw : nextCommand (site k s) l1 = none ∨ runOf (site k s).q l1 ≠ none) :
    exec (.liftCommandStart k l1) s = .next s := by
  show execLiftCommandStart k l1 s = _
  simp only [execLiftCommandStart, discardChains_none h]
  split
  · next hm hr => exact absurd hr (hw.resolve_left (by rw [hm]; simp))
  · rfl

end LiftStart

/-! ## The tokens of copies (02 R56, 08 R225) -/

section Tokens

variable {f : Nat} {c : Site}

/-- One engine's token is pushed. -/
def tokenPushed (f : Nat) (c : Site) (l1 : Bool) : Site := setFlag f (modQ (modRunIn l1 fun v => { v with token := none }) c)

theorem pushTokens_eq (f : Nat) (c : Site) : pushTokens f c = (tokensDue c f).foldl (tokenPushed f) c := rfl

theorem sets_foldl_tokenPushed (l : List Bool) (c : Site) : (l.foldl (tokenPushed f) c).flags.sets = c.flags.sets ++ List.replicate l.length f := by
  induction l generalizing c with
  | nil => exact (List.append_nil _).symm
  | cons x l ih =>
    rw [List.foldl_cons, ih, List.length_cons, List.replicate_succ]
    exact (List.append_cons ..).symm

theorem runOf_tokenPushed (x y : Bool) (c : Site) : runOf (tokenPushed f c y).q x =
    if x = y then (runOf c.q x).map fun v => { v with token := none } else runOf c.q x := runOf_modRunIn ..

theorem token_foldl_tokenPushed {l : List Bool} {x : Bool} (hx : x ∈ l) (hrun : (runOf c.q x).isSome = true) :
    ∃ u, runOf (l.foldl (tokenPushed f) c).q x = some u ∧ u.token = none := by
  have hsome : (runOf (l.foldl (tokenPushed f) c).q x).isSome = (runOf c.q x).isSome :=
    foldl_unchanged (fun c => (runOf c.q x).isSome) (fun c y => by
      rw [runOf_tokenPushed]
      split
      · exact Option.isSome_map
      · rfl) l c
  have hnone : ∀ u, runOf (l.foldl (tokenPushed f) c).q x = some u → u.token = none :=
    foldl_establishes (P := fun c : Site => ∀ u, runOf c.q x = some u → u.token = none)
      (fun c y hc u hu => by
        rw [runOf_tokenPushed] at hu
        split at hu
        · obtain ⟨v, -, rfl⟩ := Option.map_eq_some_iff.1 hu
          rfl
        · exact hc u hu)
      (fun c u hu => by
        rw [runOf_tokenPushed, if_pos rfl] at hu
        obtain ⟨v, -, rfl⟩ := Option.map_eq_some_iff.1 hu
        rfl) hx c
  obtain ⟨u, hu⟩ := Option.isSome_iff_exists.1 (hsome.trans hrun)
  exact ⟨u, hu, hnone u hu⟩

theorem runOf_of_tokensDue {x : Bool} (hx : x ∈ tokensDue c f) : (runOf c.q x).isSome = true := by
  have hdue := (List.mem_filter.1 hx).2
  cases hr : runOf c.q x with
  | none => rw [hr] at hdue; exact nomatch hdue
  | some v => rfl

variable {s : State} {k : Nat} {l1 : Bool} {v : Run}

theorem execCopyTokenPush_pushes (hr : runOf (site k s).q l1 = some v) (ht : v.token = some f) (h0 : v.flushes = 0)
    (hf : tokensFit (site k s) f = true) : exec (.copyTokenPush k l1) s = .next (modSite k (pushTokens f) s) := by
  show execCopyTokenPush k l1 s = _
  simp only [execCopyTokenPush, hr, ht, h0, hf, beq_self_eq_true, Bool.and_self, if_true]

theorem execCopyTokenPush_waits (hr : runOf (site k s).q l1 = some v) (ht : v.token = some f)
    (hw : v.flushes ≠ 0 ∨ tokensFit (site k s) f = false) : exec (.copyTokenPush k l1) s = .next s := by
  have hnot : (v.flushes == 0 && tokensFit (site k s) f) = false := by
    rcases hw with h | h
    · rw [beq_false_of_ne h, Bool.false_and]
    · rw [h, Bool.and_false]
  show execCopyTokenPush k l1 s = _
  simp only [execCopyTokenPush, hr, ht, hnot, Bool.false_eq_true, if_false]

end Tokens

/-! ## A command retires (08 R217, R230, R232) -/

section Retire

variable {s : State} {v : Run}

/-- The status of a data error that followed its writes is posted as the command retires (08 R232, 11 R298). -/
def statusPosted (v : Run) (s : State) : State := match v.status with
  | some e => postStatus v.site v e s
  | none => s

theorem statusPosted_rest (v : Run) (s : State) : (statusPosted v s).mem = s.mem ∧ (statusPosted v s).dies = s.dies := by
  unfold statusPosted
  split <;> exact ⟨rfl, rfl⟩

/-- The element of a status goes into the core's FIFO, where there is room. -/
def postedFifo (v : Run) (q : Queues) : List Word := match v.status with
  | some e => if q.liftFifo.length < 16 then
      q.liftFifo ++ [liftElement e.1 q.liftLost v.cmd.queue v.cmd.ctx v.seq.pc 0 e.2] else q.liftFifo
  | none => q.liftFifo

theorem postedFifo_none (h : v.status = none) (q : Queues) : postedFifo v q = q.liftFifo := by simp only [postedFifo, h]

theorem postedFifo_some {status detail : Nat} {q : Queues} (h : v.status = some (status, detail)) (hroom : q.liftFifo.length < 16) :
    postedFifo v q = q.liftFifo ++ [liftElement status q.liftLost v.cmd.queue v.cmd.ctx v.seq.pc 0 detail] := by
  simp only [postedFifo, h, if_pos hroom]

theorem site_statusPosted (v : Run) (s : State) : ∃ lost, site v.site (statusPosted v s) =
    modQ (fun q => { q with liftFifo := postedFifo v q, liftLost := lost }) (site v.site s) := by
  unfold statusPosted postedFifo
  cases v.status with
  | none => exact ⟨_, rfl⟩
  | some e =>
    have hpost : site v.site (postStatus v.site v e s) = site v.site (modSite v.site (modQ fun q =>
        if q.liftFifo.length < 16 then
          { q with liftFifo := q.liftFifo ++ [liftElement e.1 (site v.site s).q.liftLost v.cmd.queue v.cmd.ctx v.seq.pc 0 e.2], liftLost := false }
        else { q with liftLost := true }) s) := rfl
    rw [hpost, site_modSite_same]
    unfold modQ
    dsimp only
    split
    · exact ⟨_, rfl⟩
    · exact ⟨_, rfl⟩

/-- A command that broke no chain retires: its status is posted, its pages are let go, and its flags are merged. -/
theorem retireCommand_eq (h : v.fin ≠ .dataError ∨ chains v.cmd = false) : retireCommand v s =
    modSite v.site (modCtx v.cmd.ctx fun x => { x with fstat := x.fstat ||| v.flags }) (releaseCommand v.cmd (statusPosted v s)) := by
  have hnot : ¬(decide (v.fin = .dataError) && chains v.cmd) = true := by
    rw [Bool.and_eq_true, decide_eq_true_eq, not_and_or, Bool.not_eq_true]
    exact h
  exact if_neg hnot

theorem retireCommand_rest (h : v.fin ≠ .dataError ∨ chains v.cmd = false) :
    (retireCommand v s).mem = (releaseCommand v.cmd s).mem ∧ (retireCommand v s).dies = s.dies := by
  obtain ⟨hmem, hdies⟩ := statusPosted_rest v s
  rw [retireCommand_eq h]
  refine ⟨?_, hdies⟩
  show (releaseCommand v.cmd (statusPosted v s)).mem = _
  unfold releaseCommand pinPages
  rw [hmem]

theorem site_retireCommand (h : v.fin ≠ .dataError ∨ chains v.cmd = false) : ∃ lost, site v.site (retireCommand v s) =
    modCtx v.cmd.ctx (fun x => { x with fstat := x.fstat ||| v.flags })
      (modQ (fun q => { q with liftFifo := postedFifo v q, liftLost := lost }) (site v.site s)) := by
  obtain ⟨lost, hs⟩ := site_statusPosted v s
  refine ⟨lost, ?_⟩
  rw [retireCommand_eq h, site_modSite_same, ← hs]
  rfl

/-- The core of a Lift command that retires: its engine is empty. -/
theorem site_retireLift (h : v.fin ≠ .dataError ∨ chains v.cmd = false) (l1 : Bool) :
    ∃ lost, site v.site (retireCommand v (modSite v.site (modQ (setRun l1 none)) s)) =
      modCtx v.cmd.ctx (fun x => { x with fstat := x.fstat ||| v.flags })
        (modQ (fun q => { setRun l1 none q with liftFifo := postedFifo v q, liftLost := lost }) (site v.site s)) := by
  obtain ⟨lost, hs⟩ := site_retireCommand (s := modSite v.site (modQ (setRun l1 none)) s) h
  have hfifo : postedFifo v (setRun l1 none (site v.site s).q) = postedFifo v (site v.site s).q := by
    rw [postedFifo, postedFifo, setRun_liftFifo, setRun_liftLost]
  refine ⟨lost, hs.trans ?_⟩
  rw [site_modSite_same, modQ, modQ, modQ, hfifo]

variable {k d e : Nat} {l1 : Bool}

theorem execCommandRetire_lift_waits (hr : runOf (site k s).q l1 = some v) (hc : canRetire v s = false) :
    exec (.commandRetire (.lift k l1)) s = .next s := by
  show execCommandRetire (.lift k l1) s = _
  simp only [execCommandRetire, hr, hc, Bool.false_eq_true, if_false]

theorem execCommandRetire_lift (hr : runOf (site k s).q l1 = some v) (hc : canRetire v s = true) :
    exec (.commandRetire (.lift k l1)) s = .next (retireCommand v (modSite k (modQ (setRun l1 none)) s)) := by
  show execCommandRetire (.lift k l1) s = _
  simp only [execCommandRetire, hr, hc, if_true]

theorem execCommandRetire_coll (hr : (collEngine d e s).run = some v) (hc : canRetire v s = true) :
    exec (.commandRetire (.coll d e)) s = .next (retireCommand v (modCollEngine d e (fun c => { c with run := none }) s)) := by
  show execCommandRetire (.coll d e) s = _
  simp only [execCommandRetire, hr, hc, if_true]

end Retire

/-! ## A collective engine takes a command (08 R216) -/

section CollectiveStart

variable {s : State} {d e : Nat}

theorem collEngine_congr {t : State} (h : t.dies = s.dies) : collEngine d e t = collEngine d e s := by rw [collEngine, die, h]; rfl

theorem collEngine_modCollEngine (g : CollEngine → CollEngine) : collEngine d e (modCollEngine d e g s) = g (collEngine d e s) := by
  rw [modCollEngine, collEngine, die_modDie_same, Table.get_put_same]
  rfl

theorem execCollectiveCommandStart_waits (h : (collEngine d e s).owner.rink? = none ∨ (collEngine d e s).run ≠ none) :
    exec (.collectiveCommandStart d e) s = .next s := by
  show execCollectiveCommandStart d e s = _
  unfold execCollectiveCommandStart
  dsimp only
  split
  · next ho hr => exact absurd hr (h.resolve_left (by rw [ho]; simp))
  · rfl

theorem execCollectiveCommandStart_starts {r : BitVec 6} {l j : Nat} {m : Command} (ho : (collEngine d e s).owner.rink? = some r)
    (hr : (collEngine d e s).run = none) (hn : nextCore r.toNat d e s = some (l, j, m)) : exec (.collectiveCommandStart d e) s =
      .next (modCollEngine d e (fun v => { v with run := some (startRun j (site j s).now ⟨0, false⟩ m), lastCore := l })
        (modSite j (modQ (dropCommand m)) s)) := by
  show execCollectiveCommandStart d e s = _
  simp only [execCollectiveCommandStart, ho, hr, hn]

end CollectiveStart

/-- Settles O54: fills, nests, and the engines' commands, each event by the conditions on which it acts. -/
theorem engineEvents : Obligations.EngineEvents := by
  unfold Obligations.EngineEvents
  intro s k d e h l1 c w half
  refine ⟨?fillStarts, fun f fs => execFillStart_waits, ?fillCompletes, ?nestStarts, fun i n => execNestStart_waits, ?nestRetires, ?liftStarts, ?tokens,
    ?liftRetires, ?collRetires, ?collStarts, execCollectiveCommandStart_waits⟩
  case fillStarts =>
    intro f fs hf hn hi plan p last hh hc
    obtain ⟨hhalf, hflags, hbytes, hsame⟩ := startFill_starts hf hn hh hc
    refine ⟨startFill k h s, startedFill k h f s, execFillStart_starts hf hn hi, ?_, rfl, rfl, rfl, rfl, rfl, rfl, hbytes, hsame, ?_, hflags⟩
    · exact (congrArg Half.fills hhalf :)
    · exact (congrArg Half.slots hhalf :)
  case fillCompletes =>
    intro f fs hf
    refine ⟨fun hs hi => ⟨fun hr => ?ends, fun h2 hr ht => ⟨s, execFillComplete_stalls hf h2 hr ht, rfl, rfl⟩⟩,
      fun hw => ⟨s, execFillComplete_waits hf hw, rfl, rfl⟩⟩
    obtain ⟨o, ho⟩ := site_completeFill hf hs hi hr
    have hhalf : half (completeFill k h s) = halfOf (readySlot f fs h c) h := (congrArg (halfOf · h) ho :)
    rw [halfOf_readySlot] at hhalf
    refine ⟨completeFill k h s, rfl, ?_, ?_, ?_, fun i hne => ?_⟩
    · rw [hhalf]
    · rw [hhalf]; exact Table.get_put_same ..
    · rw [ho]; exact flags_readySlot ..
    · rw [hhalf]; exact Table.get_put_ne _ _ _ hne
  case nestStarts =>
    intro i n hi hn hs hb cfg
    refine ⟨nestStarted k h i n s, execNestStart_starts hi hn hs hb, nestStarted_nest hn, fun hacc hh => ?_, fun hacc hcols hh hmem j hj col hcol => ?_⟩
    · rw [nestStarted, site_modSite_same, rowsCleared_accumulates hacc]
      exact accs_modNest ..
    · rw [nestStarted, site_modSite_same, accOf_modNest, halfOf_rowsCleared hacc (Nat.zero_lt_of_lt hj) hcols hmem]
      exact clearRows_zero _ _ hj hcol
  case nestRetires =>
    intro n ns due hn hd done
    refine ⟨execNestRetire_waits hn hd, fun hw => ?_⟩
    obtain ⟨o, ho⟩ := retireNest_retires hn hd hw
    refine ⟨retireNest k h s, rfl, ?_, ?_, ?_⟩
    · show (halfOf (site k (retireNest k h s)) h).nests = ns
      rw [ho]
      exact congrArg Half.nests (halfOf_modHalf ..)
    · rw [ho]
      exact congrArg Ctx.fstat ((ctxOf_modHalf ..).trans (ctxOf_modCtx ..))
    · rw [ho]; rfl
  case liftStarts =>
    intro hskips
    refine ⟨fun m hm hr hv => ?_, fun m => execLiftCommandStart_unseen hskips, execLiftCommandStart_idle hskips⟩
    refine ⟨modSite k (fun c => modQ (takenQueues k c.now l1 m) c) s, startRun k c.now (lookupKey ⟨0, false⟩ (queueKey m) c.q.chains.cells) m,
      execLiftCommandStart_takes hskips hm hr hv, ?_, rfl, rfl, rfl, rfl, rfl, fun x hx => ?_, rfl⟩
    · rw [site_modSite_same]; exact runOf_setRun ..
    · rw [site_modSite_same, modQ, takenQueues, setRun_lq, setRun_sq] at hx
      exact num_of_mem_dropCommand hx
  case tokens =>
    intro v f hr ht
    refine ⟨fun h0 hf => ⟨modSite k (pushTokens f) s, execCopyTokenPush_pushes hr ht h0 hf, ?_, fun x hx => ?_⟩, execCopyTokenPush_waits hr ht⟩
    · rw [site_modSite_same, pushTokens_eq]; exact sets_foldl_tokenPushed ..
    · rw [site_modSite_same, pushTokens_eq]; exact token_foldl_tokenPushed hx (runOf_of_tokensDue hx)
  case liftRetires =>
    intro v hr hk
    refine ⟨execCommandRetire_lift_waits hr, fun hc hfin => ?_⟩
    subst hk
    obtain ⟨lost, hs⟩ := site_retireLift (s := s) hfin l1
    refine ⟨_, execCommandRetire_lift hr hc, ?_, ?_, (retireCommand_rest hfin).1, fun hst => ?_, fun status detail hst hroom => ?_⟩
    · rw [hs, modCtx_q]; cases l1 <;> rfl
    · rw [hs, ctxOf_modCtx]; rfl
    · rw [hs, modCtx_q]; exact postedFifo_none hst _
    · rw [hs, modCtx_q]; exact postedFifo_some hst hroom
  case collRetires =>
    intro v hr hc hfin
    obtain ⟨lost, hs⟩ := site_retireCommand (s := modCollEngine d e (fun c => { c with run := none }) s) (.inl hfin)
    refine ⟨_, execCommandRetire_coll hr hc, ?_, ?_⟩
    · rw [collEngine_congr (retireCommand_rest (.inl hfin)).2, collEngine_modCollEngine]
    · rw [hs, ctxOf_modCtx]; rfl
  case collStarts =>
    intro r l j m ho hr hn
    refine ⟨_, startRun j (site j s).now ⟨0, false⟩ m, execCollectiveCommandStart_starts ho hr hn, ?_, rfl, rfl, rfl, ?_, fun x hx => ?_⟩
    · rw [collEngine_modCollEngine]
    · rw [collEngine_modCollEngine]
    · have hce : x ∈ (site j (modSite j (modQ (dropCommand m)) s)).q.ce := hx
      rw [site_modSite_same] at hce
      exact num_of_mem_dropCommand_ce hce

end Sys2Proof.Machine

/-! # The collective words (08 R232 to R236) -/

namespace Sys2Proof.Machine

open Host (Outcome)

/-! ## A word and its descriptor (08 R233) -/

section CollectiveWords

variable {s s1 : State} {v : Run} {word op : Nat} {b : Base} {own : List Byte}

/-- The group that a word's descriptor names, where the word is of a group. -/
def wordGroup (word : Nat) (v : Run) (s : State) : Option (Nat × Nat × Nat) :=
  if 2 ≤ word then groupEntry v.cmd.rink (parseDesc (top (mySeq s) 0)).peer s else none

def groupRank : Option (Nat × Nat × Nat) → Nat
  | some (k, _, _) => k
  | none => 0

def groupMembers (s : State) : Option (Nat × Nat × Nat) → List Nat
  | some (_, g, a) => memberList s a g
  | none => []

/-- The operation of a word, before its own data are read. -/
def wordOp (word op : Nat) (v : Run) (s : State) : CollOp :=
  let d := parseDesc (top (mySeq s) 0)
  { word := word, op := op, peer := d.peer, bytes := d.bytes, dst := v.cmd.bases[d.dst]?, members := groupMembers s (wordGroup word v s),
    rank := groupRank (wordGroup word v s), own := [], site := v.site, ctx := v.cmd.ctx, die := s.cur.die, ce := s.cur.ce, cmd := v.cmd.num, timer := 0,
    job := jobOf v.cmd.rink s, lost := false, detached := false, status := none, detail := 0, flags := 0 }

/-- The devices that a word sends to. -/
def wordTargets (word : Nat) (v : Run) (s : State) : List Nat :=
  targetsOf word (parseDesc (top (mySeq s) 0)) (groupRank (wordGroup word v s)) (groupMembers s (wordGroup word v s))

/-- The checks of a word's descriptor. -/
def wordOk (word op : Nat) (v : Run) (s : State) : Bool :=
  descOk word op (parseDesc (top (mySeq s) 0)) v.cmd.bases v.cmd.rink (wordGroup word v s) (wordTargets word v s) s

/-- The member list of a word's group is being copied (18 R422). -/
def listCopying (word : Nat) (v : Run) (s : State) : Bool :=
  (wordGroup word v s).any fun g => (List.range g.2.1).any fun k => remapping s (g.2.2 + 2 * k)

theorem listCopying_iff : listCopying word v s = true ↔
    ∃ g k, wordGroup word v s = some g ∧ k < g.2.1 ∧ remapping s (g.2.2 + 2 * k) = true := by
  simp only [listCopying, Option.any_eq_true, List.any_eq_true, List.mem_range]
  exact ⟨fun ⟨g, hg, k, hk⟩ => ⟨g, k, hg, hk⟩, fun ⟨g, k, hg, hk⟩ => ⟨g, hg, k, hk⟩⟩

/-- A word pops its descriptor and is done: its effect follows. -/
def descDone (f : State → State) (s : State) : State :=
  seqDone 1 1 (fun t => f (modMySeq (fun q => { q with stack := q.stack.drop 1 }) t)) s

variable (hr : myRun s = some v) (hq : (mySeq s).stack ≠ [])

include hr hq

theorem collWord_copying (hc : listCopying word v s = true) : collWord word op s = seqStop (.stall 2 0 0 none) s := by
  simp only [collWord, hr, popHit_one_none hq, firstHit]
  exact if_pos hc

theorem collWord_fails (hc : listCopying word v s = false) (hok : wordOk word op v s = false) :
    collWord word op s = descDone (endOp v.cmd.rink (parseDesc (top (mySeq s) 0)).cnum 1 0 (wordOp word op v s)) s := by
  simp only [collWord, hr, popHit_one_none hq, firstHit]
  exact (if_neg (ne_true_of_eq_false hc)).trans (if_pos (by rw [Bool.not_eq_true']; exact hok))

/-- crecv and cbar have no data of their own to read. -/
theorem collWord_starts (hc : listCopying word v s = false) (hok : wordOk word op v s = true) (hw : word = 1 ∨ word = 4) :
    collWord word op s = descDone (startOp v.cmd.rink (wordOp word op v s) (parseDesc (top (mySeq s) 0)).cnum (wordTargets word v s)) s := by
  simp only [collWord, hr, popHit_one_none hq, firstHit]
  exact (if_neg (ne_true_of_eq_false hc)).trans ((if_neg (by rw [Bool.not_eq_true', Bool.not_eq_false]; exact hok)).trans (if_pos hw))

theorem collWord_sends (hc : listCopying word v s = false) (hok : wordOk word op v s = true) (hw : ¬(word = 1 ∨ word = 4))
    (hb : v.cmd.bases[(parseDesc (top (mySeq s) 0)).src]? = some b)
    (hread : baseRead v.cmd.rink b b.cap.cursor (parseDesc (top (mySeq s) 0)).bytes { s with cur := { s.cur with site := v.site } } = .ok (own, s1)) :
    collWord word op s = descDone (startOp v.cmd.rink { wordOp word op v s with own := own } (parseDesc (top (mySeq s) 0)).cnum (wordTargets word v s))
      { s1 with cur := s.cur } := by
  simp only [collWord, hr, popHit_one_none hq, firstHit, hb, hread]
  exact (if_neg (ne_true_of_eq_false hc)).trans ((if_neg (by rw [Bool.not_eq_true', Bool.not_eq_false]; exact hok)).trans (if_neg hw))

end CollectiveWords

section Cwait

variable {s : State} {v : Run}

theorem execCwait_next (hr : myRun s = some v) (ho : openOps v s = false) : exec .cwait s = .next (seqDone 1 1 id s) :=
  congrArg Outcome.next (seqWord_next (by rw [hr, Option.bind_some, ho]; rfl))

theorem execCwait_waits (hr : myRun s = some v) (ho : openOps v s = true) : exec .cwait s = .next (seqStop (.stall 0 0 0 none) s) :=
  congrArg Outcome.next (seqWord_stop (by rw [hr, Option.bind_some, ho]; rfl))

end Cwait

/-- Settles O41: the five words with a descriptor are one word, told apart by its checks; cwait by the operations that are open. -/
theorem collectiveWordResults : Obligations.CollectiveWordResults := by
  unfold Obligations.CollectiveWordResults
  intro s v opc _ hr hq d r pop p hp word group members rank targets copying matches'
  have hexec : exec p.1 s = .next (collWord p.2.1 p.2.2 s) := by
    simp only [List.mem_cons, List.not_mem_nil, or_false] at hp
    rcases hp with rfl | rfl | rfl | rfl | rfl
    all_goals rfl
  have hfree (hc : ¬copying) : listCopying word v s = false := Bool.eq_false_iff.2 (mt listCopying_iff.1 hc)
  have hmatches (own : List Byte) : matches' { wordOp word p.2.2 v s with own := own } own := ⟨rfl, rfl, rfl, rfl, rfl, rfl, rfl, rfl, rfl, rfl⟩
  refine ⟨fun hc => ?_, fun hc hok => ⟨_, hmatches [], ?_⟩, fun hc hok hw => ⟨_, hmatches [], ?_⟩, fun b own s1 hc hok h1 h4 hb hread => ⟨_, hmatches own, ?_⟩,
    execCwait_next hr, execCwait_waits hr⟩
  · rw [hexec, collWord_copying hr hq (listCopying_iff.2 hc)]
  · rw [hexec, collWord_fails hr hq (hfree hc) hok]; rfl
  · rw [hexec, collWord_starts hr hq (hfree hc) hok hw]; rfl
  · rw [hexec, collWord_sends hr hq (hfree hc) hok (not_or.2 ⟨h1, h4⟩) hb hread]; rfl

end Sys2Proof.Machine

/-! # The Lift words (08 R218, R221 to R231) -/

namespace Sys2Proof.Machine

open Host (Outcome)

/-! ## The command that an engine runs (08 R220) -/

section Engine

variable {s : State} {v : Run}

theorem inMatrix_lift (hl : s.cur.lift = true) : inMatrix s = false := by rw [inMatrix, hl]; rfl

theorem myRun_lift (hc : s.cur.coll = false) : myRun s = runOf (mySite s).q s.cur.l1 := if_neg (ne_true_of_eq_false hc)

theorem modMyRun_lift (hc : s.cur.coll = false) (f : Run → Run) : modMyRun f s = modMySite (modQ (modRunIn s.cur.l1 f)) s :=
  if_neg (ne_true_of_eq_false hc)

theorem mySeq_engine (hm : inMatrix s = false) (hr : myRun s = some v) : mySeq s = v.seq := by
  simp only [mySeq, hm, hr, Bool.false_eq_true, if_false]

theorem myWords_engine (hm : inMatrix s = false) (hr : myRun s = some v) : myWords s = v.cmd.words := by
  simp only [myWords, hm, hr, Bool.false_eq_true, if_false]

theorem modMySeq_engine (hm : inMatrix s = false) (f : Seq → Seq) : modMySeq f s = modMyRun (fun v => { v with seq := f v.seq }) s :=
  if_neg (ne_true_of_eq_false hm)

theorem modSeqCtl_engine (hm : inMatrix s = false) (f : Ctl → Ctl) : modSeqCtl f s = modMyRun (fun v => { v with ctl := f v.ctl }) s :=
  if_neg (ne_true_of_eq_false hm)

end Engine

/-! ## What the command is after a word -/

section LiftRuns

variable {s t : State} {P Q : Run → Prop} {n : Nat}

/-- A Lift engine executes, and its command satisfies `P`. -/
structure LiftRuns (P : Run → Prop) (s : State) : Prop where
  lift : s.cur.lift = true
  notColl : s.cur.coll = false
  run : ∃ v, myRun s = some v ∧ P v

/-- What leaves the engine's place and its command alone keeps what is true of the command. -/
theorem LiftRuns.congr (h : LiftRuns P s) (hcur : t.cur = s.cur) (hrun : runOf (mySite t).q s.cur.l1 = runOf (mySite s).q s.cur.l1) : LiftRuns P t := by
  obtain ⟨v, hr, hv⟩ := h.run
  refine ⟨hcur ▸ h.lift, hcur ▸ h.notColl, v, ?_, hv⟩
  rw [myRun_lift (hcur ▸ h.notColl), hcur, hrun, ← myRun_lift h.notColl, hr]

theorem LiftRuns.modMyRun (h : LiftRuns P s) {f : Run → Run} (hf : ∀ v, P v → Q (f v)) : LiftRuns Q (modMyRun f s) := by
  obtain ⟨v, hr, hv⟩ := h.run
  rw [modMyRun_lift h.notColl]
  refine ⟨h.lift, h.notColl, f v, ?_, hf v hv⟩
  rw [myRun_lift h.notColl] at hr
  rw [myRun_lift (s := modMySite _ s) h.notColl, mySite_modMySite, modQ, modMySite_cur, runOf_modRunIn, if_pos rfl, hr, Option.map_some]

theorem LiftRuns.modMySeq (h : LiftRuns P s) {f : Seq → Seq} (hf : ∀ v, P v → Q { v with seq := f v.seq }) : LiftRuns Q (modMySeq f s) := by
  rw [modMySeq_engine (inMatrix_lift h.lift)]
  exact h.modMyRun hf

theorem LiftRuns.seqIssue (h : LiftRuns P s) (hP : ∀ v c, P v → P { v with ctl := c }) (occ : Nat) : LiftRuns P (seqIssue occ s) := by
  rw [Machine.seqIssue, modSeqCtl_engine (inMatrix_lift h.lift)]
  exact h.modMyRun fun v => hP v _

/-- A change of the core that keeps the commands in its engines. -/
theorem LiftRuns.modMySite (h : LiftRuns P s) {f : Site → Site} (hf : ∀ c l1, runOf (f c).q l1 = runOf c.q l1) : LiftRuns P (modMySite f s) :=
  h.congr rfl (by rw [mySite_modMySite, hf])

theorem LiftRuns.zeroRead (h : LiftRuns P s) (hP : ∀ v w n, P v → P { v with wroteHost := w, flushes := n }) (v : Run) : LiftRuns P (zeroRead v s) := by
  unfold Machine.zeroRead
  split
  · exact (h.congr (t := send _ s) rfl rfl).modMyRun fun u => hP u _ _
  · exact h

theorem LiftRuns.postStatus (h : LiftRuns P s) (v : Run) (e : Nat × Nat) : LiftRuns P (postStatus s.cur.site v e s) := by
  refine (h.modMySite (f := modQ fun q => if q.liftFifo.length < 16 then
    { q with liftFifo := q.liftFifo ++ [liftElement e.1 (mySite s).q.liftLost v.cmd.queue v.cmd.ctx v.seq.pc 0 e.2], liftLost := false }
    else { q with liftLost := true }) fun c l1 => ?_).congr rfl rfl
  rw [modQ]
  dsimp only
  split <;> cases l1 <;> rfl

end LiftRuns

/-! ## The words but copy and copyz (08 R221, R229 to R231) -/

section LiftWords

variable {s : State} {v : Run}

theorem execLrec_next (hm : inMatrix s = false) (hr : myRun s = some v) (n : Bool) : exec (.lrec n) s =
    .next (seqDone 1 17 (modMyRun fun y => if n then { y with rec1 := some (((v.cmd.words.drop (v.seq.pc + 1)).take 16).flatMap halfBytes) }
      else { y with rec0 := some (((v.cmd.words.drop (v.seq.pc + 1)).take 16).flatMap halfBytes) }) s) := by
  show execLrec n s = _
  rw [execLrec, myWords_engine hm hr, mySeq_engine hm hr]
  rfl

theorem execCrcset_next (hq : (mySeq s).stack ≠ []) : exec .crcset s =
    .next (seqDone 1 1 (fun s' => modMyRun (fun y => { y with crc := ⟨BitVec.ofNat 32 (nth 0 (mySeq s).stack 0).toNat, true⟩ })
      (modMySeq (fun q => { q with stack := q.stack.drop 1 }) s')) s) := by
  rw [BitVec.ofNat_toNat]
  exact congrArg Outcome.next (seqWord_next (by rw [popHit_one_none hq]; rfl))

theorem execCrcchk_equal (hq : (mySeq s).stack ≠ []) (hr : myRun s = some v) (he : v.crc.r = BitVec.ofNat 32 (nth 0 (mySeq s).stack 0).toNat) :
    exec .crcchk s = .next (seqDone 1 1 (modMySeq fun q => { q with stack := q.stack.drop 1 }) s) := by
  rw [BitVec.ofNat_toNat] at he
  show execCrcchk s = _
  simp only [execCrcchk, hr]
  rw [if_neg (by rw [he, Bool.and_eq_true, bne_iff_ne]; exact fun h => h.2 rfl), seqWord_next (by rw [popHit_one_none hq]; rfl)]

theorem execCrcchk_differs (hq : (mySeq s).stack ≠ []) (hr : myRun s = some v) (he : v.crc.r ≠ BitVec.ofNat 32 (nth 0 (mySeq s).stack 0).toNat) :
    exec .crcchk s = .next (dataError 1 v.crc.r.toNat (modMySeq (fun q => { q with stack := q.stack.drop 1 }) s)) := by
  rw [BitVec.ofNat_toNat] at he
  show execCrcchk s = _
  simp only [execCrcchk, hr]
  rw [if_pos (by rw [Bool.and_eq_true, bne_iff_ne, Bool.not_eq_true', List.isEmpty_eq_false_iff]; exact ⟨hq, he⟩)]

/-- A data error ends the command at the word that it executes (08 R232). -/
theorem dataError_ends {pc : Nat} (h : LiftRuns (fun v => v.seq.pc = pc) s) (status detail : Nat) :
    LiftRuns (fun v => v.fin = .dataError ∧ v.seq.pc = pc) (dataError status detail s) := by
  obtain ⟨v, hr, -⟩ := h.run
  have hfin : LiftRuns (fun v => v.fin = .dataError ∧ v.seq.pc = pc) (modMyRun (fun v => { v with fin := .dataError }) s) := h.modMyRun fun v hv => ⟨rfl, hv⟩
  have hcur : (modMyRun (fun v => { v with fin := .dataError }) s).cur = s.cur := by rw [modMyRun_lift h.notColl]; rfl
  simp only [dataError, hr]
  split
  · exact ((hfin.modMyRun fun _ hv => hv).zeroRead (fun _ _ _ hv => hv) v).seqIssue (fun _ _ hv => hv) 1
  · rw [← hcur]
    exact (hfin.postStatus v _).seqIssue (fun _ _ hv => hv) 1

theorem execLend_next (hst : (mySeq s).stack = []) (hreps : (mySeq s).reps = []) : exec .lend s = .next (seqDone 1 1 endCommand s) :=
  congrArg Outcome.next (seqWord_next (by rw [endHits, hst, hreps]; rfl))

theorem endCommand_ends (h : LiftRuns (fun _ => True) s) : LiftRuns (fun v => v.fin = .ended) (endCommand s) := by
  obtain ⟨v, hr, -⟩ := h.run
  have hfin : LiftRuns (fun v => v.fin = .ended) (modMyRun (fun v => { v with fin := .ended }) s) := h.modMyRun fun _ _ => rfl
  simp only [endCommand, hr, h.notColl, Bool.false_eq_true, if_false]
  split
  · exact (hfin.modMySite (f := modQ fun q => { q with chains := q.chains.put (2 * v.cmd.queue + b2n v.cmd.ctx) v.crc })
      fun c l1 => by cases l1 <;> rfl).zeroRead (fun _ _ _ hv => hv) v
  · exact hfin.zeroRead (fun _ _ _ hv => hv) v

theorem seqDone_endCommand (h : LiftRuns (fun _ => True) s) : LiftRuns (fun v => v.fin = .ended) (seqDone 1 1 endCommand s) :=
  ((endCommand_ends h).modMySeq fun _ hv => hv).seqIssue (fun _ _ hv => hv) 1

end LiftWords

/-! ## A copy begins and goes on (08 R222 to R228) -/

section Copies

variable {s t : State} {v : Run} {c : Copy} {p q : Progress} {z tile tok : Bool} {fifo : BitVec 4}

theorem copyOf_run {k : Site} (h : copyOf z tile v k = some c) : c.run = v := by
  unfold copyOf at h
  split at h
  · cases h; rfl
  · exact nomatch h

/-- copy, or copyz where `z` is set. -/
def copyInstr (z tile tok : Bool) (fifo : BitVec 4) : Instr := if z then .copyz tile tok fifo else .copy tile tok fifo

theorem exec_copyInstr : exec (copyInstr z tile tok fifo) s = .next (copyWord z tile tok fifo s) := by cases z <;> rfl

/-- The progress of a copy that begins. -/
def freshProgress (v : Run) (inj : Option (Nat × Nat)) : Progress := ⟨0, 0, v.crc.r, inj, none, ⟨0, 0, 0, none⟩, [], [], none, 0⟩

/-- The waits of a copy are over and the checks of its near side pass. -/
def CopyReady (tile tok : Bool) (c : Copy) (v : Run) (s : State) : Prop :=
  (∀ h ∈ copyWaits tile tok c.r0 v s, h = none) ∧ ∀ h ∈ nearHits c s, h = none

variable (hr : myRun s = some v) (hc : copyOf z tile v (mySite s) = some c)

include hr hc

theorem copyWord_goes (hv : v.copy = some p) : copyWord z tile tok fifo s = copyBeat c tok fifo p s := by simp only [copyWord, hr, hc, hv]

theorem copyWord_begins (hv : v.copy = none) (h : CopyReady tile tok c v s) : copyWord z tile tok fifo s =
    copyBeat c tok fifo (freshProgress v (armLinj v.cmd.queue c.bytes (mySite s).obs).1)
      (modMySite (modObs fun _ => (armLinj v.cmd.queue c.bytes (mySite s).obs).2) s) := by
  simp only [copyWord, hr, hc, hv, firstHit_eq_none.2 h.1, firstHit_eq_none.2 h.2]
  rfl

/-- A store from a tile register that is not full waits for it (08 R226). -/
theorem copyWord_tileEmpty (hv : v.copy = none) (ht : tile = true) (hq : v.cmd.queue = 1) (hf : flagReady (mySite s) (c.r0.tmaddr % 16) = false) :
    copyWord z tile tok fifo s = seqStop (.stall 0 (c.r0.tmaddr % 16) 0 (some (c.r0.tmaddr % 16))) s := by
  have hwait : firstHit (copyWaits tile tok c.r0 v s) = some (.stall 0 (c.r0.tmaddr % 16) 0 (some (c.r0.tmaddr % 16))) := by
    simp only [copyWaits, ht, hq, hf, Bool.not_true, Bool.not_false, Bool.false_eq_true, if_false, if_true, hitIf_true, firstHit]
  simp only [copyWord, hr, hc, hv, hwait]

omit hr hc

theorem copyBeat_empty (h : c.count = 0) : copyBeat c tok fifo p s = seqDone 1 1 (copyDone c tok fifo p) s := by
  have hmove : moveBeat (b2n s.cur.l1) c p 600 [] p s = .done p s := by simp only [moveBeat, moveOnce, if_pos h]
  have hwaits : ¬(readsHost c && c.count != 0 && c.run.host != .granted) = true := by rw [h]; simp
  rw [copyBeat, if_neg hwaits, runCopy, hmove]
  exact congrArg (seqDone 1 1 (copyDone c tok fifo p)) (if_pos rfl)

/-- A copy that reads no host space, or whose chunk of it has come, moves what it can. -/
theorem copyBeat_moves (h : readsHost c = false ∨ c.run.host = .granted) : copyBeat c tok fifo p s = runCopy c tok fifo p s :=
  if_neg (by
    rw [Bool.and_eq_true, Bool.and_eq_true, bne_iff_ne (b := HostRead.granted)]
    rintro ⟨⟨hread, -⟩, hhost⟩
    exact h.elim (fun h => Bool.false_ne_true (h.symm.trans hread)) hhost)

theorem runCopy_done (h : moveBeat (b2n s.cur.l1) c p 600 [] p s = .done q t) :
    runCopy c tok fifo p s = seqDone 1 1 (copyDone c tok fifo q) (countMoved c p q t) := by
  rw [runCopy, h]
  rfl

theorem runCopy_wait (h : moveBeat (b2n s.cur.l1) c p 600 [] p s = .wait q t) : runCopy c tok fifo p s =
    stayCopy (decide (q.off ≠ p.off ∨ q.put ≠ p.put)) q (modMyRun (fun v => { v with host := .none }) (countMoved c p q t)) := by
  rw [runCopy, h]

end Copies

/-! ## One element of a plain load (08 R222, R225) -/

section Elements

variable {s t1 t2 : State} {c : Copy} {start p : Progress} {who far : Nat} {taken taken' : List (Nat × Nat)} {d : List Byte}

theorem withPorts_next {α : Type} {gs : List (Nat × Nat)} {act : State → Except Hit (α × State)} {k : α → List (Nat × Nat) → State → Moved} {a : α}
    (hports : askPorts who gs taken s = .ok (taken', t1)) (hact : act t1 = .ok (a, t2)) : withPorts who gs taken p s act k = k a taken' t2 := by
  simp only [withPorts, hports, hact]

/-- Bytes pass as they are where LINJ inverts none of them and no CRC is taken. -/
theorem passBytes_plain (hinj : p.inj = none) (hcrc : c.run.crc.on = false) (d : List Byte) : passBytes c p d = (d, { p with off := p.off + d.length }) := by
  simp only [passBytes, injectBit, hinj, hcrc, Bool.false_eq_true, if_false]

theorem readElement_next (hsq : c.sq = false) (hidx : c.r0.idx = false) (hgot : p.got = []) (hinj : p.inj = none) (hcrc : c.run.crc.on = false)
    (hfar : elementFar c (c.vector p.n) p = .ok far) (hports : askPorts who (baseGroups c.rk c.far far c.r0.esz s) taken s = .ok (taken', t1))
    (hread : baseRead c.rk c.far far c.r0.esz t1 = .ok (d, t2)) :
    readElement who c taken p s = .on { p with n := p.n + 1, entry := none, got := d, off := p.off + d.length } taken' t2 := by
  simp only [readElement, hsq, Bool.not_false, if_true, withFar, hidx, Bool.false_and, Bool.false_eq_true, if_false, hfar]
  rw [withPorts_next hports hread, passBytes_plain hinj hcrc, hgot, List.nil_append]

theorem moveOnce_reads (hto : c.toCode = false) (hfrom : c.fromCode = false) (hgot : p.got.length < c.r0.esz) (hn : p.n < c.count)
    (hoff : p.off < start.off + 256) : moveOnce who c start taken p s = readElement who c taken p s := by
  have hmore : sourceDone c p = false := by
    rw [sourceDone, hfrom]
    exact beq_false_of_ne (Nat.ne_of_lt hn)
  simp only [moveOnce, hto, hfrom, hmore, if_neg (Nat.ne_of_gt (Nat.zero_lt_of_lt hn)), if_neg (Nat.not_le.2 hgot), decide_eq_false (Nat.not_le.2 hoff),
    Bool.not_false, Bool.false_eq_true, if_true, if_false]

theorem moveOnce_writes (hto : c.toCode = false) (hgot : c.r0.esz ≤ p.got.length) (hn : 0 < c.count) :
    moveOnce who c start taken p s = writeElement who c taken p s := by
  simp only [moveOnce, hto, if_neg (Nat.ne_of_gt hn), if_pos hgot, Bool.not_false, if_true]

/-- The near address of the next element that a load writes. -/
def nearNext (c : Copy) (p : Progress) : Nat := (nearAddr c.r0 (c.vector p.put)).toNat

/-- The state once a load has written an element at its near address. -/
def nearWritten (c : Copy) (p : Progress) (src : Nat) (s : State) : State :=
  noteWrite c.rk src s.cur.site (nearNext c p / 4096) (modMySite (modTm (tmWrite (nearNext c p) (p.got.take c.r0.esz) none)) s)

theorem writeElement_next (hsq : c.sq = false) (htile : c.tile = false)
    (hports : askPorts who (byteGroups s.cur.site (nearNext c p) c.r0.esz) taken s = .ok (taken', t1))
    (hcheck : tmCheck (mySite t1) c.rk (nearNext c p) c.r0.esz false (fun _ => false) 0 = none) :
    writeElement who c taken p s =
      .on { p with entry := none, got := p.got.drop c.r0.esz, put := p.put + 1 } taken' (nearWritten c p t1.cur.site t1) := by
  simp only [nearNext] at hports hcheck
  simp only [writeElement, hsq, htile, Bool.false_eq_true, if_false, withPorts, hports, hcheck]
  rfl

theorem noteWrite_cur (r src k g : Nat) (s : State) : (noteWrite r src k g s).cur = s.cur := by
  unfold noteWrite
  split
  · split <;> rfl
  · rfl

theorem tm_nearWritten (c : Copy) (p : Progress) (src : Nat) (s : State) :
    (mySite (nearWritten c p src s)).tm = tmWrite (nearNext c p) (p.got.take c.r0.esz) none (mySite s).tm := by
  have hsite : mySite (nearWritten c p src s) = mySite (modMySite (modTm (tmWrite (nearNext c p) (p.got.take c.r0.esz) none)) s) := by
    rw [nearWritten, mySite, site, noteWrite_cur, noteWrite_sites]
    rfl
  rw [hsite, mySite_modMySite]
  rfl

end Elements

/-- Settles O40: each word by the command that its engine runs; a copy by how its beat ends, and an element of a load by its two moves. -/
theorem liftWords : Obligations.LiftWords := by
  unfold Obligations.LiftWords
  refine ⟨?words, ?copies⟩
  case words =>
    intro s v hl hc hr q body a pop
    have hm := inMatrix_lift hl
    have hq : q = v.seq := mySeq_engine hm hr
    have hruns : LiftRuns (fun u => u = v) s := ⟨hl, hc, v, hr, rfl⟩
    refine ⟨execLrec_next hm hr false, execLrec_next hm hr true, rfl, rfl, execCrcset_next, fun hst he => execCrcchk_equal hst hr he, fun hst he => ?_,
      fun hst hreps => ⟨execLend_next hst hreps, ?_⟩⟩
    · have hpop : LiftRuns (fun u => u.seq.pc = v.seq.pc) (pop s) := hruns.modMySeq fun u hu => by rw [hu]
      obtain ⟨u, hu, hfin, hpc⟩ := (dataError_ends hpop 1 v.crc.r.toNat).run
      exact ⟨_, u, execCrcchk_differs hst hr he, hu, hfin, hpc⟩
    · obtain ⟨u, hu, hfin⟩ := (seqDone_endCommand ⟨hl, hc, v, hr, trivial⟩).run
      exact ⟨_, u, execLend_next hst hreps, hu, hfin⟩
  case copies =>
    intro s v c z tile tok fifo hl hone hr hc arm i ready first armed
    have hrun := copyOf_run hc
    have hbegins (hv : v.copy = none) (h : ready) : exec i s = .next (copyBeat c tok fifo first armed) :=
      exec_copyInstr.trans (congrArg Outcome.next (copyWord_begins hr hc hv h))
    refine ⟨fun hv h h0 => (hbegins hv h).trans (congrArg Outcome.next (copyBeat_empty h0)), fun p u hpu hhost => ?_,
      fun ht hv hq hf => exec_copyInstr.trans (congrArg Outcome.next (copyWord_tileEmpty hr hc hv ht hq hf)), ?_⟩
    · have hexec : exec i s = .next (runCopy c tok fifo p u) ∧ u.cur = s.cur := by
        rw [← copyBeat_moves (hrun ▸ hhost)]
        rcases hpu with ⟨hv, h, rfl, rfl⟩ | ⟨hv, rfl⟩
        · exact ⟨hbegins hv h, rfl⟩
        · exact ⟨exec_copyInstr.trans (congrArg Outcome.next (copyWord_goes hr hc hv)), rfl⟩
      obtain ⟨hexec, hcur⟩ := hexec
      rw [← hcur]
      exact ⟨fun q t h => by rw [hexec, runCopy_done h], fun q t h => by rw [hexec, runCopy_wait h]⟩
    · intro start p taken far taken' t1 t2 d hsq htile hfrom hto hesz n near
      refine ⟨fun hgot hn hoff hinj hcrc hidx hfar hports hread => ?_, fun hgot hput hports hcheck hcur => ?_⟩
      · rw [moveOnce_reads hto hfrom (by rw [hgot]; exact hesz) hn hoff]
        exact readElement_next hsq hidx hgot hinj hcrc hfar hports hread
      · refine ⟨nearWritten c p t1.cur.site t1, ?_, tm_nearWritten ..⟩
        rw [moveOnce_writes hto hgot (Nat.zero_lt_of_lt hput)]
        exact writeElement_next hsq htile hports hcheck

end Sys2Proof.Machine

/-! # A collective number: what lands, and how its operation ends (08 R234, R235, R237, 11 R297, 16 R389, R390, R393) -/

namespace Sys2Proof.Machine

open Host (Outcome)

/-! ## The state of a number -/

section Number

variable {s t : State} {r n : Nat}

@[simp] theorem collAt_modColl (r n : Nat) (f : Coll → Coll) (s : State) : collAt r n (modColl r n f s) = f (collAt r n s) := by
  rw [collAt, modColl, rink_modRink_same]
  exact Table.get_setD_same ..

/-- Only what a change makes of the number's own state counts. -/
theorem modColl_congr {f g : Coll → Coll} (h : f (collAt r n s) = g (collAt r n s)) : modColl r n f s = modColl r n g s := by
  rw [modColl, modColl, modRink, modRink]
  exact congrArg (fun c => { s with rinks := s.rinks.put r { rink r s with colls := (rink r s).colls.setD Coll.closed n c } }) h

theorem CountsOnly.collAt_eq (h : CountsOnly s t) : collAt r n t = collAt r n s := (congrArg (collAt r n) h :)

theorem CountsOnly.mem_eq (h : CountsOnly s t) : t.mem = s.mem := (congrArg State.mem h :)

end Number

/-! ## A contribution arrives (11 R297, 14 R340, 16 R389, R390) -/

section Arrival

variable {s s1 : State} {x : Contribution}

/-- The offset in the window at which a contribution lands. -/
def landOffset (x : Contribution) (s : State) : Nat := x.cnum * 2 ^ field (rink x.rink s).rland.toNat 4 0 + x.rank * x.data.length

/-- RLAND is valid, and the contribution ends within its slot and the slot within the window (16 R389, 14 R356). -/
def LandFits (x : Contribution) (s : State) : Prop :=
  bitOf (rink x.rink s).rland.toNat 63 = true ∧ x.rank * x.data.length + x.data.length ≤ 2 ^ field (rink x.rink s).rland.toNat 4 0 ∧
    landOffset x s + x.data.length ≤ 2 ^ 40

/-- The address at which a contribution lands, in space 4. -/
def landAddress (x : Contribution) (s : State) : Nat := field (rink x.rink s).rland.toNat 21 16 * 2 ^ 40 + landOffset x s

/-- A contribution has a place, and waits for it. -/
def LandWaits (x : Contribution) (s : State) : Prop :=
  LandFits x s ∧ ((collAt x.rink x.cnum s).stalled ≠ [] ∨ landingMoves x.rink (landAddress x s) x.data.length s = true)

theorem landingAt_fits (h : LandFits x s) : landingAt (rink x.rink s).rland x.cnum x.rank x.data.length =
    some (field (rink x.rink s).rland.toNat 21 16, landOffset x s) := by
  obtain ⟨hvalid, hslot, hwindow⟩ := h
  exact if_pos (by rw [hvalid, Bool.true_and]; exact decide_eq_true ⟨hslot, hwindow⟩)

theorem landingAt_unfit (h : ¬LandFits x s) : landingAt (rink x.rink s).rland x.cnum x.rank x.data.length = none :=
  if_neg fun hb => h (by
    obtain ⟨hvalid, hplace⟩ := Bool.and_eq_true_iff.1 hb
    obtain ⟨hslot, hwindow⟩ := of_decide_eq_true hplace
    exact ⟨hvalid, hslot, hwindow⟩)

theorem landingVa_fits (h : LandFits x s) : landingVa x 0 x.data.length s = some (landAddress x s) := by
  rw [landingVa, landingAt_fits h]
  rfl

theorem comeWhole_waits (h : LandWaits x s) :
    comeWhole none x s = stall x.rink x.cnum ⟨none, some x, landAddress x s, x.data.length⟩ s := by
  obtain ⟨hfits, hwait⟩ := h
  have hb : (!(collAt x.rink x.cnum s).stalled.isEmpty || landingMoves x.rink (landAddress x s) x.data.length s) = true := by
    rw [Bool.or_eq_true, Bool.not_eq_true', List.isEmpty_eq_false_iff]
    exact hwait
  simp only [comeWhole, landingVa_fits hfits, Option.bind_some, waitsFor, if_pos hb]

theorem comeWhole_settles (h : ¬LandWaits x s) : comeWhole none x s = settleArrival x s := by
  by_cases hfits : LandFits x s
  · have hb : ¬(!(collAt x.rink x.cnum s).stalled.isEmpty || landingMoves x.rink (landAddress x s) x.data.length s) = true := by
      rw [Bool.or_eq_true, Bool.not_eq_true', List.isEmpty_eq_false_iff]
      exact fun hwait => h ⟨hfits, hwait⟩
    simp only [comeWhole, landingVa_fits hfits, Option.bind_some, waitsFor, if_neg hb, grantCredit_none]
  · exact comeWhole_unplaced (by rw [landingVa, landingAt_unfit hfits]; rfl)

/-! ### The status of a refusal -/

theorem refuseStatus_closed (h : (collAt x.rink x.cnum s).refuse = true) : refuseStatus (rink x.rink s) x = some 4 := if_pos h

theorem refuseStatus_unfit (h : (collAt x.rink x.cnum s).refuse = false) (hf : ¬LandFits x s) : refuseStatus (rink x.rink s) x = some 1 :=
  (if_neg (ne_true_of_eq_false h)).trans (if_pos (by rw [landingAt_unfit hf]; rfl))

theorem refuseStatus_fits (h : (collAt x.rink x.cnum s).refuse = false) (hf : LandFits x s) : refuseStatus (rink x.rink s) x =
    if (collAt x.rink x.cnum s).landed.any (·.rank == x.rank) then some 2 else none :=
  (if_neg (ne_true_of_eq_false h)).trans (if_neg (by rw [landingAt_fits hf]; exact Bool.false_ne_true))

theorem refuseStatus_twice (h : (collAt x.rink x.cnum s).refuse = false) (hf : LandFits x s)
    (hl : ∃ l ∈ (collAt x.rink x.cnum s).landed, l.rank = x.rank) : refuseStatus (rink x.rink s) x = some 2 := by
  obtain ⟨l, hmem, hrank⟩ := hl
  have hany : ((collAt x.rink x.cnum s).landed.any (·.rank == x.rank)) = true := List.any_eq_true.2 ⟨l, hmem, beq_iff_eq.2 hrank⟩
  rw [refuseStatus_fits h hf, if_pos hany]

theorem refuseStatus_none (h : (collAt x.rink x.cnum s).refuse = false) (hf : LandFits x s)
    (hl : ∀ l ∈ (collAt x.rink x.cnum s).landed, l.rank ≠ x.rank) : refuseStatus (rink x.rink s) x = none := by
  rw [refuseStatus_fits h hf, if_neg]
  intro hany
  obtain ⟨l, hmem, hrank⟩ := List.any_eq_true.1 hany
  exact hl l hmem (beq_iff_eq.1 hrank)

theorem settleArrival_refused {st : Nat} (h : refuseStatus (rink x.rink s) x = some st) :
    settleArrival x s = sendToward (refusalOf (headFlit x s) st s) s := by simp only [settleArrival, arrive, h]

/-- A contribution joins those that have landed. -/
def joinLanded (x : Contribution) (c : Coll) : Coll :=
  { c with isOpen := true, landed := c.landed ++ [⟨x.rank, x.src, x.word, x.data.length, x.op, x.size⟩],
           op := c.op.map fun o => { o with timer := 0 } }

theorem settleArrival_lands (h : refuseStatus (rink x.rink s) x = none) (hf : LandFits x s)
    (hg : guestWrite x.rink 4 (landAddress x s) x.data s = .ok s1) :
    CountsOnly (modColl x.rink x.cnum (joinLanded x) s1) (settleArrival x s) := by
  have hw : guestWrite x.rink 4 (windowCursor (field (rink x.rink s).rland.toNat 21 16) (landOffset x s)) x.data s = .ok s1 := hg
  simp only [settleArrival, arrive, h, landingAt_fits hf, hw]
  split
  · exact countShared_countsOnly ..
  · exact .refl _

end Arrival

/-! ## The device acts under a number (08 R234, R237, 16 R390, R392) -/

section Completion

variable {s : State} {r cnum : Nat} {o : CollOp} {w : Stalled} {ws : List Stalled} {y : Contribution}

theorem landReady_first (hs : (collAt r cnum s).stalled = w :: ws) (hm : landingMoves r w.va w.len s = false) : landReady r cnum s = some w := by
  simp only [landReady, hs, hm, Bool.false_eq_true, if_false]

theorem landStalled_settles (hp : w.port = none) (hw : w.whole = some y) (hy : y.src ≠ s.devid.id.toNat) :
    landStalled r cnum w s = settleArrival y (modColl r cnum (fun c => { c with stalled := c.stalled.drop 1 }) s) := by
  simp only [landStalled, hp, hw, grantCredit_none]
  exact if_neg hy

theorem execCollectiveOpComplete_lands (h : landReady r cnum s = some w) :
    exec (.collectiveOpComplete r cnum) s = .next (landStalled r cnum w s) := by
  show execCollectiveOpComplete r cnum s = _
  simp only [execCollectiveOpComplete, h]

/-- An operation leaves the list of those that still have to end. -/
def leaveOthers (r cnum : Nat) (o : CollOp) : State → State := modColl r cnum fun c => { c with others := c.others.erase o }

variable (hl : landReady r cnum s = none)

include hl

theorem execCollectiveOpComplete_posts (hp : postReady r cnum s = some o) :
    exec (.collectiveOpComplete r cnum) s = .next (endOp r cnum (o.status.getD 0) o.detail o (leaveOthers r cnum o s)) := by
  show execCollectiveOpComplete r cnum s = _
  simp only [execCollectiveOpComplete, hl, hp]
  rfl

variable (hp : postReady r cnum s = none)

include hp

theorem execCollectiveOpComplete_main (hm : mainReady r cnum s = some o) :
    exec (.collectiveOpComplete r cnum) s = .next (completeMain r cnum (collAt r cnum s) o s) := by
  show execCollectiveOpComplete r cnum s = _
  simp only [execCollectiveOpComplete, hl, hp, hm]

variable (hm : mainReady r cnum s = none)

include hm

theorem execCollectiveOpComplete_sent (hs : sendReady r cnum s = some o) :
    exec (.collectiveOpComplete r cnum) s = .next (endOp r cnum 0 0 o (leaveOthers r cnum o s)) := by
  show execCollectiveOpComplete r cnum s = _
  simp only [execCollectiveOpComplete, hl, hp, hm, hs]
  rfl

theorem execCollectiveOpComplete_idle (hs : sendReady r cnum s = none) : exec (.collectiveOpComplete r cnum) s = .next s := by
  show execCollectiveOpComplete r cnum s = _
  simp only [execCollectiveOpComplete, hl, hp, hm, hs]

end Completion

section Ready

variable {s : State} {r cnum : Nat} {o : CollOp}

theorem postReady_no_others (h : (collAt r cnum s).others = []) : postReady r cnum s = none := by rw [postReady, h]; rfl

theorem sendReady_no_others (h : (collAt r cnum s).others = []) : sendReady r cnum s = none := by rw [sendReady, h]; rfl

theorem postReady_unended (h : (collAt r cnum s).others = [o]) (hst : o.status = none) : postReady r cnum s = none := by
  rw [postReady, h, List.find?_singleton, hst]
  rfl

theorem sendReady_single (h : (collAt r cnum s).others = [o]) (hst : o.status = none) :
    sendReady r cnum s = if o.word = 0 ∧ allSent r cnum o s = true then some o else none := by
  rw [sendReady, h, List.find?_singleton, hst]
  simp

theorem mainReady_no_op (h : (collAt r cnum s).op = none) : mainReady r cnum s = none := by rw [mainReady, h]; rfl

/-- The local operation has what it needs, and its own data have landed (16 R390). -/
theorem mainReady_op (h : (collAt r cnum s).op = some o) : mainReady r cnum s =
    if haveAll (collAt r cnum s) o = true ∧ (o.word = 1 ∨ allSent r cnum o s = true) then some o else none := by
  rw [mainReady, h]
  simp [Option.filter]

end Ready

/-! ## The local operation ends (08 R234, R235, 11 R297) -/

section Main

variable {s s1 s2 : State} {r cnum k : Nat} {c : Coll} {o : CollOp} {b : Base} {parts : List (List Byte)}

/-- The ranks whose data make up a result. -/
def resultRanks (o : CollOp) : List Nat := if o.word = 1 then [0] else List.range o.members.length

theorem completeMain_mismatched (h : mismatched c o = some k) :
    completeMain r cnum c o s = endOp r cnum 2 k o (modColl r cnum (closeColl false) s) := by simp only [completeMain, h]

variable (h : mismatched c o = none)

include h

theorem completeMain_barrier (h4 : o.word = 4) : completeMain r cnum c o s = endOp r cnum 0 0 o (modColl r cnum (closeColl false) s) := by
  simp only [completeMain, h, if_pos h4]

variable (h4 : o.word ≠ 4)

include h4

theorem completeMain_waits {why at1 at2 : Nat} {flag : Option Nat} (hd : allData r cnum c o (resultRanks o) s = .error (.stall why at1 at2 flag)) :
    completeMain r cnum c o s = s := by
  rw [resultRanks] at hd
  simp only [completeMain, h, if_neg h4, hd]

theorem completeMain_writes (hd : allData r cnum c o (resultRanks o) s = .ok (parts, s1)) (hb : o.dst = some b)
    (hw : baseWrite r b b.cap.cursor (resultOf o parts).1 { s1 with cur := { s1.cur with site := o.site } } = .ok s2) :
    completeMain r cnum c o s = endOp r cnum 0 0 { o with flags := (resultOf o parts).2 } (modColl r cnum (closeColl false) { s2 with cur := s.cur }) := by
  rw [resultRanks] at hd
  simp only [completeMain, h, if_neg h4, hd, hb, hw]

end Main

/-! ## Timeouts (16 R393) -/

section Timeout

variable {s : State} {r cnum : Nat} {q : Rink} {c : Coll} {o : CollOp}

/-- The timer of an operation has reached COLLTO.BEATS. -/
def OpLate (q : Rink) (o : CollOp) : Prop := timeoutBeats q ≠ 0 ∧ timeoutBeats q ≤ o.timer

/-- The local operation has timed out: late, it still waits for a contribution, or its flits were lost. -/
def MainLate (q : Rink) (c : Coll) (o : CollOp) : Prop := OpLate q o ∧ (haveAll c o = false ∨ o.lost = true)

/-- Another operation of the number has timed out. -/
def OtherLate (q : Rink) (o : CollOp) : Prop := OpLate q o ∧ o.status = none ∧ (o.word ≠ 0 ∨ o.lost = true)

theorem mainLate_iff : (timeoutBeats q != 0 && decide (timeoutBeats q ≤ o.timer) && (!haveAll c o || o.lost)) = true ↔ MainLate q c o := by
  simp [MainLate, OpLate]

theorem otherLate_iff : (o.status.isNone && (timeoutBeats q != 0 && decide (timeoutBeats q ≤ o.timer)) && (o.word != 0 || o.lost)) = true ↔
    OtherLate q o := by
  simp only [OtherLate, OpLate, Bool.and_eq_true, Bool.or_eq_true, bne_iff_ne, decide_eq_true_eq, Option.isNone_iff_eq_none, and_assoc, and_left_comm]

theorem timedOut_none (hm : ∀ o, c.op = some o → ¬MainLate q c o) (ho : ∀ o ∈ c.others, ¬OtherLate q o) : timedOut q c = none := by
  rw [timedOut, Option.or_eq_none_iff, Option.filter_eq_none_iff, List.find?_eq_none]
  exact ⟨fun o h => mt mainLate_iff.1 (hm o h), fun o h => mt otherLate_iff.1 (ho o h)⟩

theorem timedOut_main (h : c.op = some o) (hm : MainLate q c o) : timedOut q c = some o := by
  rw [timedOut, h, Option.filter_some, if_pos (mainLate_iff.2 hm), Option.some_or]

theorem timedOut_other (h : c.op = none) (ho : c.others = [o]) (hs : OtherLate q o) : timedOut q c = some o := by
  rw [timedOut, h, ho, Option.filter_none, Option.none_or, List.find?_singleton, if_pos (otherLate_iff.2 hs)]

/-- What an operation that times out leaves of its number: closed, where it was the local one. -/
def timeoutLeaves (o : CollOp) (c : Coll) : Coll := if c.op == some o then closeColl true c else { c with others := c.others.erase o }

theorem timeoutLeaves_main (h : c.op = some o) : timeoutLeaves o c = closeColl true c := if_pos (beq_iff_eq.2 h)

theorem timeoutLeaves_other (h : c.op = none) : timeoutLeaves o c = { c with others := c.others.erase o } := if_neg (by rw [h]; exact Bool.false_ne_true)

theorem execCollectiveTimeout_waits (h : timedOut (rink r s) (collAt r cnum s) = none) : exec (.collectiveTimeout r cnum) s = .next s := by
  show execCollectiveTimeout r cnum s = _
  simp only [execCollectiveTimeout, h]

theorem execCollectiveTimeout_ends (h : timedOut (rink r s) (collAt r cnum s) = some o) : exec (.collectiveTimeout r cnum) s =
    .next (timeoutTrap r cnum (countShared o.die (7 + o.ce) 3 (rinkFn r s) 1 (endOp r cnum 4 0 o (modColl r cnum (timeoutLeaves o) s)))) := by
  show execCollectiveTimeout r cnum s = _
  simp only [execCollectiveTimeout, h]
  rfl

end Timeout

/-! ## The completion element (08 R236, R237) -/

section Element

variable {s : State} {r n status detail : Nat} {o : CollOp}

theorem mustPost_iff : mustPost o status = true ↔ o.detached = true ∨ status ≠ 0 := by rw [mustPost, Bool.or_eq_true, bne_iff_ne]

/-- An operation that posts into a FIFO with room changes no core but by its element. -/
theorem endOp_sites (hp : mustPost o status = true) (hroom : (site o.site s).q.collFifo.length < 16) : (endOp r n status detail o s).sites =
    (modSite o.site (modQ fun q => { q with collFifo := q.collFifo ++ [collElement o n status detail] }) s).sites := by
  have hfull : ¬(mustPost o status && decide (16 ≤ (site o.site s).q.collFifo.length)) = true := by
    rw [Bool.and_eq_true, decide_eq_true_eq]
    omega
  unfold endOp
  dsimp only
  rw [if_neg hfull, if_pos hp]
  split <;> split <;> rfl

theorem collFifo_endOp (hp : mustPost o status = true) (hroom : (site o.site s).q.collFifo.length < 16) :
    (site o.site (endOp r n status detail o s)).q.collFifo = (site o.site s).q.collFifo ++ [collElement o n status detail] := by
  rw [site, endOp_sites hp hroom]
  exact congrArg (fun c : Site => c.q.collFifo) (site_modSite_same ..)

end Element

/-- Settles O55: a contribution by its place and its refusal, an operation by what it still needs, and its end by its element. -/
theorem collectiveEvents : Obligations.CollectiveEvents := by
  unfold Obligations.CollectiveEvents
  intro s r cnum x c closed ends done q land slot at' off va fits waits refused
  have hrefused {st : Nat} (hw : ¬waits) (hst : refuseStatus (rink x.rink s) x = some st) : refused st :=
    congrArg Outcome.next ((comeWhole_settles hw).trans (settleArrival_refused hst))
  refine ⟨fun hw => ⟨_, congrArg Outcome.next (comeWhole_waits hw), rfl, rfl, ?_, ?_⟩, fun hw h4 => hrefused hw (refuseStatus_closed h4),
    fun h4 hf => hrefused (fun hw => hf hw.1) (refuseStatus_unfit h4 hf), fun hw h4 hf hl => hrefused hw (refuseStatus_twice h4 hf hl),
    ?lands, ?settles, fun o => execCollectiveOpComplete_posts, ?main, ?sends, ?timeout, fun o status detail hroom hp => collFifo_endOp (mustPost_iff.2 hp) hroom⟩
  · rw [stall, collAt_modColl]
  · rw [stall, collAt_modColl]; rfl
  case lands =>
    intro s1 hw h4 hf hl hg hat
    have hcounts := settleArrival_lands (refuseStatus_none h4 hf hl) hf hg
    refine ⟨settleArrival x s, congrArg Outcome.next (comeWhole_settles hw), hcounts.mem_eq, ?_, ?_⟩
    · rw [hcounts.collAt_eq, collAt_modColl]; rfl
    · rw [hcounts.collAt_eq, collAt_modColl, hat]; rfl
  case settles =>
    intro w ws y hs hm hport hwhole hy
    refine ⟨modColl r cnum (fun c => { c with stalled := c.stalled.drop 1 }) s, ?_, ?_, ?_, rfl⟩
    · rw [execCollectiveOpComplete_lands (landReady_first hs hm), landStalled_settles hport hwhole hy]
    · rw [collAt_modColl]; exact congrArg (List.drop 1) hs
    · rw [collAt_modColl]
  case main =>
    intro o hl ho hop ready ks
    have hpost := postReady_no_others ho
    have hexec (hr : ready) : exec done s = .next (completeMain r cnum c o s) :=
      execCollectiveOpComplete_main hl hpost ((mainReady_op hop).trans (if_pos hr))
    refine ⟨fun hr => execCollectiveOpComplete_idle hl hpost ((mainReady_op hop).trans (if_neg hr)) (sendReady_no_others ho),
      fun k hr hk => (hexec hr).trans (congrArg Outcome.next (completeMain_mismatched hk)),
      fun hr hk h4 => (hexec hr).trans (congrArg Outcome.next (completeMain_barrier hk h4)), fun hr hk h4 hd => ?_,
      fun parts s1 s2 b hr hk h4 hd hb hw => (hexec hr).trans (congrArg Outcome.next (completeMain_writes hk h4 hd hb hw))⟩
    obtain ⟨why, at1, at2, flag, hd⟩ := hd
    exact (hexec hr).trans (congrArg Outcome.next (completeMain_waits hk h4 hd))
  case sends =>
    intro o hl ho hop hst
    have hpost := postReady_unended ho hst
    have hmain := mainReady_no_op hop
    have hsend := sendReady_single ho hst
    refine ⟨fun h0 hsent => ?_, fun hw => execCollectiveOpComplete_idle hl hpost hmain (hsend.trans (if_neg ?_))⟩
    · have hleave : leaveOthers r cnum o s = modColl r cnum (fun c => { c with others := [] }) s :=
        modColl_congr (by rw [show (collAt r cnum s).others = [o] from ho, List.erase_cons_head])
      exact (execCollectiveOpComplete_sent hl hpost hmain (hsend.trans (if_pos ⟨h0, hsent⟩))).trans (by rw [hleave])
    · rintro ⟨h0, hsent⟩
      exact hw.elim (absurd h0) fun h => Bool.false_ne_true (h.symm.trans hsent)
  case timeout =>
    intro late mainLate sendLate timesOut
    have hends {o : CollOp} (h : timedOut (rink r s) c = some o) : timesOut o (modColl r cnum (timeoutLeaves o) s) :=
      ⟨rfl, execCollectiveTimeout_ends h⟩
    refine ⟨fun hm ho => execCollectiveTimeout_waits (timedOut_none hm ho), fun o hop hm => ⟨_, hends (timedOut_main hop hm), ?_⟩,
      fun o hop ho hs => ⟨_, hends (timedOut_other hop ho hs), ?_⟩⟩
    · rw [collAt_modColl, timeoutLeaves_main hop]
      exact ⟨rfl, rfl, rfl, rfl⟩
    · rw [collAt_modColl, timeoutLeaves_other hop]
      refine ⟨?_, rfl⟩
      rw [show (collAt r cnum s).others = [o] from ho, List.erase_cons_head]

end Sys2Proof.Machine

/-! # Freezes and their launches (09 R251 to R253, 18 R413, R414) -/

namespace Sys2Proof.Machine

open Host (Outcome)

/-! ## A core's streams and their frame (09 R251, 18 R413) -/

section Frames

variable {r : Nat} {stat : Word} {c : Site}

/-- The fault frame of a rink's streams on a core. -/
def frameAt (r : Nat) (c : Site) : Frame := if setOf c r then c.obs.frame1 else c.obs.frame0

theorem setOf_congr {d : Site} (h : c.own = d.own) : setOf c r = setOf d r := by rw [setOf, setOf, owns_congr h, owns_congr h]

/-- A frame is of the observation block alone. -/
theorem writeFrame_obs (r : Nat) (stat : Word) (c : Site) : ∃ o, writeFrame r stat c = { c with obs := o } ∧ o.serru = c.obs.serru := by
  unfold writeFrame
  split
  · exact ⟨c.obs, rfl, rfl⟩
  · split <;> exact ⟨_, rfl, rfl⟩

/-- A core that has stopped keeps the frame it stopped with. -/
theorem frameAt_writeFrame_frozen (h : frozenFor c r = true) : frameAt r (writeFrame r stat c) = frameAt r c := by rw [writeFrame, if_pos h]

theorem frameAt_writeFrame (h : frozenFor c r = false) : frameAt r (writeFrame r stat c) = frameOf c r stat := by
  rw [writeFrame, if_neg (Bool.eq_false_iff.1 h)]
  split
  · next hs => exact if_pos hs
  · next hs => exact if_neg hs

/-- A freeze changes a core's frame and the bits that stop it. -/
theorem freezeSite_eq (r : Nat) (stat : Word) (c : Site) :
    ∃ o b0 b1, freezeSite r stat c = { c with obs := o, frozen0 := b0, frozen1 := b1 } ∧ (writeFrame r stat c).obs = o := by
  obtain ⟨o, ho, -⟩ := writeFrame_obs r stat c
  unfold freezeSite
  rw [ho]
  dsimp only
  split <;> exact ⟨o, _, _, rfl, rfl⟩

theorem own_freezeSite (r : Nat) (stat : Word) (c : Site) : (freezeSite r stat c).own = c.own := by
  obtain ⟨o, b0, b1, h, -⟩ := freezeSite_eq r stat c
  rw [h]

theorem ctxOf_freezeSite (r : Nat) (stat : Word) (c : Site) (x : Side) : ctxOf (freezeSite r stat c) x = ctxOf c x := by
  obtain ⟨o, b0, b1, h, -⟩ := freezeSite_eq r stat c
  rw [h]
  rfl

theorem frozenFor_freezeSite (r : Nat) (stat : Word) (c : Site) : frozenFor (freezeSite r stat c) r = true := by
  rw [frozenFor, setOf_congr (own_freezeSite r stat c), freezeSite]
  cases setOf c r <;> rfl

theorem frameAt_freezeSite (r : Nat) (stat : Word) (c : Site) : frameAt r (freezeSite r stat c) = frameAt r (writeFrame r stat c) := by
  obtain ⟨o, b0, b1, h, ho⟩ := freezeSite_eq r stat c
  obtain ⟨o', h', -⟩ := writeFrame_obs r stat c
  rw [h, frameAt, frameAt, ho, h']
  rfl

/-- A core goes on: it is stopped no more, and its frame is no longer VALID (09 R253). -/
theorem clearFrame_thawSite (r : Nat) (c : Site) : ∃ o b0 b1, clearFrame r (thawSite r c) = { c with obs := o, frozen0 := b0, frozen1 := b1 } := by
  unfold clearFrame thawSite
  split <;> exact ⟨_, _, _, rfl⟩

theorem frozenFor_thawed (r : Nat) (c : Site) : frozenFor (clearFrame r (thawSite r c)) r = false := by
  obtain ⟨o, b0, b1, h⟩ := clearFrame_thawSite r c
  rw [frozenFor, setOf_congr (d := c) (by rw [h]), clearFrame, thawSite]
  cases setOf c r <;> rfl

theorem bitOf_toNat (w : Word) (n : Nat) : bitOf w.toNat n = w.getLsbD n := by
  rw [← BitVec.testBit_toNat, Nat.testBit_eq_decide_div_mod_eq]
  rfl

theorem frameAt_thawed (r : Nat) (c : Site) : bitOf (frameAt r (clearFrame r (thawSite r c))).stat.toNat 63 = false := by
  have hclear (w : Word) : bitOf (w &&& ~~~(0x8000000000000000 : Word)).toNat 63 = false := by
    rw [bitOf_toNat, BitVec.getLsbD_and]
    exact Bool.and_false _
  obtain ⟨o, b0, b1, h⟩ := clearFrame_thawSite r c
  have hset : setOf (thawSite r c) r = setOf c r := setOf_congr (by unfold thawSite; split <;> rfl)
  rw [frameAt, setOf_congr (d := c) (by rw [h]), clearFrame, hset]
  cases setOf c r <;> exact hclear _

end Frames

/-! ## The launch that RFRZ shows (18 R414) -/

section Rfrz

variable {r n : Nat} {s : State} {l : Launch} {best : Option Launch} {f : Nat × Nat × Nat}

/-- Of the launch found so far and the next one, the one that has been frozen longer. -/
def longerFrozen (best : Option Launch) (l : Launch) : Option Launch :=
  match l.froze, best.bind (·.froze) with
  | some f, some g => if f.1 < g.1 then some l else best
  | some _, none => some l
  | none, _ => best

theorem longerFrozen_thawed (h : l.froze = none) : longerFrozen best l = best := by rw [longerFrozen, h]

theorem longerFrozen_first (h : l.froze = some f) : longerFrozen none l = some l := by rw [longerFrozen, h]; rfl

theorem longerFrozen_later {q : Launch} {g : Nat × Nat × Nat} (h : l.froze = some f) (hq : q.froze = some g) :
    longerFrozen (some q) l = if f.1 < g.1 then some l else some q := by rw [longerFrozen, h, Option.bind_some, hq]

/-- `l` has been frozen at least as long as every launch of a list. -/
def LongestFrozen (ls : List Launch) (l : Launch) : Prop :=
  l ∈ ls ∧ ∃ g, l.froze = some g ∧ ∀ q ∈ ls, ∀ f, q.froze = some f → g.1 ≤ f.1


/-- No launch of a list is frozen, or the fold finds one that has been frozen longest. -/
theorem foldl_longerFrozen (ls : List Launch) : (ls.foldl longerFrozen none = none ∧ ∀ q ∈ ls, q.froze = none) ∨
    ∃ l, ls.foldl longerFrozen none = some l ∧ LongestFrozen ls l := by
  induction ls using List.reverseRecOn with
  | nil => exact .inl ⟨rfl, fun _ h => nomatch h⟩
  | append_singleton ls v ih =>
    rw [List.foldl_append, List.foldl_cons, List.foldl_nil]
    cases hv : v.froze with
    | none =>
      rw [longerFrozen_thawed hv]
      obtain ⟨hnone, hall⟩ | ⟨l, hl, hmem, g, hg, hmin⟩ := ih
      · exact .inl ⟨hnone, List.forall_mem_append.2 ⟨hall, List.forall_mem_singleton.2 hv⟩⟩
      · exact .inr ⟨l, hl, List.mem_append_left _ hmem, g, hg,
          List.forall_mem_append.2 ⟨hmin, List.forall_mem_singleton.2 fun f hf => nomatch hv.symm.trans hf⟩⟩
    | some f =>
      have hsame : ∀ f', v.froze = some f' → f.1 ≤ f'.1 := fun f' hf => by cases hv.symm.trans hf; exact Nat.le_refl _
      have hlast : v ∈ ls ++ [v] := List.mem_append_right _ (List.mem_singleton_self v)
      obtain ⟨hnone, hall⟩ | ⟨l, hl, hmem, g, hg, hmin⟩ := ih
      · rw [hnone, longerFrozen_first hv]
        exact .inr ⟨v, rfl, hlast, f, hv,
          List.forall_mem_append.2 ⟨fun q hq f' hf => (nomatch (hall q hq).symm.trans hf), List.forall_mem_singleton.2 hsame⟩⟩
      · rw [hl, longerFrozen_later hv hg]
        split
        · next hlt =>
          exact .inr ⟨v, rfl, hlast, f, hv, List.forall_mem_append.2
            ⟨fun q hq f' hf => Nat.le_trans (Nat.le_of_lt hlt) (hmin q hq f' hf), List.forall_mem_singleton.2 hsame⟩⟩
        · next hge =>
          exact .inr ⟨l, rfl, List.mem_append_left _ hmem, g, hg, List.forall_mem_append.2
            ⟨hmin, List.forall_mem_singleton.2 fun f' hf => Nat.le_trans (Nat.not_lt.1 hge) (hsame f' hf)⟩⟩

theorem frozenLaunch_cases (r : Nat) (s : State) :
    (frozenLaunch r s = none ∧ ∀ q ∈ (rink r s).work.launches, q.froze = none) ∨
      ∃ l, frozenLaunch r s = some l ∧ LongestFrozen (rink r s).work.launches l := foldl_longerFrozen (rink r s).work.launches

theorem frozenLaunch_longest (h : frozenLaunch r s = some l) : LongestFrozen (rink r s).work.launches l := by
  obtain ⟨hnone, -⟩ | ⟨v, hv, hlong⟩ := frozenLaunch_cases r s
  · exact nomatch hnone.symm.trans h
  · cases hv.symm.trans h
    exact hlong

theorem frozenLaunch_none (h : ∀ q ∈ (rink r s).work.launches, q.froze = none) : frozenLaunch r s = none := by
  obtain ⟨hnone, -⟩ | ⟨l, -, hmem, g, hg, -⟩ := frozenLaunch_cases r s
  · exact hnone
  · exact nomatch (h l hmem).symm.trans hg

theorem frozenLaunch_congr {t : State} (h : (rink r t).work = (rink r s).work) : frozenLaunch r t = frozenLaunch r s := by
  rw [frozenLaunch, h, frozenLaunch]

theorem showFreeze_some (h : frozenLaunch r s = some l) (hf : l.froze = some f) : showFreeze r s =
    modRecov r (fun v => { v with frozen := true, kind := .ofNat 8 f.2.1, core := .ofNat 9 f.2.2 }) s := by
  rw [showFreeze, h, Option.bind_some, hf]

/-- Showing a freeze is of the recovery registers alone. -/
theorem showFreeze_recov (r : Nat) (s : State) : ∃ f, showFreeze r s = modRecov r f s := by
  unfold showFreeze
  split <;> exact ⟨_, rfl⟩

theorem work_showFreeze (r : Nat) (s : State) : (rink r (showFreeze r s)).work = (rink r s).work := by
  obtain ⟨f, h⟩ := showFreeze_recov r s
  rw [h, modRecov, rink_modRink_same]

theorem launches_modLaunch (r n : Nat) (f : Launch → Launch) (s : State) :
    (rink r (modLaunch r n f s)).work.launches = (rink r s).work.launches.map fun l => if l.lctr = n then f l else l := by
  rw [modLaunch, modWork, rink_modRink_same]

end Rfrz

end Sys2Proof.Machine

/-! # A timetabled trap (09 R251, 18 R411, R413, R414) -/

namespace Sys2Proof.Machine

/-! ## The first freeze of a launch (09 R251, R252) -/

section FirstFreeze

variable {r k kind detail t : Nat} {l : Launch} {s : State} {u : UnitRun}

/-- No freeze has met a unit, and it has raised no deviation. -/
def Unstopped (u : UnitRun) : Prop := u.freezeAt = none ∧ u.later = [] ∧ u.frozenAt = none ∧ u.devs = []

theorem stopsOf_unstopped (h : Unstopped u) : stopsOf u = [] := by rw [stopsOf, h.1]

/-- The first pulse that meets a unit is its freeze. -/
theorem meetPulse_unstopped (h : Unstopped u) (t : Nat) : meetPulse 0 t u = { u with freezeAt := some t, resumeAt := none, later := [] } := by
  rw [meetPulse, stopsOf_unstopped h]
  rfl

/-- The logical core of a site, as a freeze names it. -/
def homeCore (r k : Nat) (s : State) : Nat := (logicalOfSite r k s).getD 0

theorem homeCore_congr {t : State} (h : rink r t = rink r s) (k : Nat) : homeCore r k t = homeCore r k s := by
  simp only [homeCore, logicalOfSite, siteOfLogical, h]

theorem latency_congr {t : State} (h : rink r t = rink r s) (u v : Nat) : latency r u v t = latency r u v s := by
  simp only [latency, h]

/-- A unit of a launch in which the unit on site `k` is the first to trap. -/
def stoppedUnit (r k kind detail : Nat) (l : Launch) (s : State) (u : UnitRun) : UnitRun :=
  if u.site = k then
    { meetPulse 0 l.time u with
      trapped := some (u.trapped.getD l.time), devs := u.devs ++ [(kind, detail)], fatal := u.fatal,
      frozenAt := some (u.frozenAt.getD l.time) }
  else meetPulse 0 (l.time + latency r (homeCore r k s) (homeCore r u.site s) s) u

/-- The launch of those units. -/
def stoppedLaunch (r k kind detail : Nat) (l : Launch) (s : State) (v : Launch) : Launch :=
  { v with
    units := v.units.map (stoppedUnit r k kind detail l s), frozenSince := some (v.frozenSince.getD v.time),
    froze := some (v.froze.getD (s.cycle, kind, homeCore r k s)) }

theorem stoppedUnit_trapping (h : Unstopped u) (hk : u.site = k) : stoppedUnit r k kind detail l s u =
    { u with freezeAt := some l.time, resumeAt := none, later := [], trapped := some (u.trapped.getD l.time), devs := [(kind, detail)],
             frozenAt := some l.time } := by
  obtain ⟨hfreeze, hlater, hfrozen, hdevs⟩ := h
  rw [stoppedUnit, if_pos hk, meetPulse_unstopped ⟨hfreeze, hlater, hfrozen, hdevs⟩, hdevs, hfrozen]
  rfl

theorem stoppedUnit_other (h : Unstopped u) (hk : u.site ≠ k) : stoppedUnit r k kind detail l s u =
    { u with freezeAt := some (l.time + latency r (homeCore r k s) (homeCore r u.site s) s), resumeAt := none, later := [] } := by
  rw [stoppedUnit, if_neg hk, meetPulse_unstopped h]

/-- The packets that the router of a core holds count as it first stops (09 R251). -/
def packetsCounted (r k : Nat) (l : Launch) (s : State) : State :=
  if (l.units.find? (·.site == k)).all (·.frozenAt.isNone) then countShared (dieOfSite k) 5 2 (rinkFn r s) (heldPackets l k) s else s

theorem packetsCounted_countsOnly (r k : Nat) (l : Launch) (s : State) : CountsOnly s (packetsCounted r k l s) := by
  unfold packetsCounted
  split
  · exact countShared_countsOnly ..
  · exact .refl s

/-- The first trap of a launch stops its units and shows the freeze. -/
theorem freezeLaunch_first (h : ∀ v ∈ l.units, Unstopped v) : freezeLaunch r k kind detail false l s =
    showFreeze r (modLaunch r l.lctr (stoppedLaunch r k kind detail l s) (packetsCounted r k l s)) := by
  have hmine : (l.units.find? (·.site == k)).toList.flatMap stopsOf = [] :=
    List.flatMap_eq_nil_iff.2 fun v hv => stopsOf_unstopped (h v (List.mem_of_find?_eq_some (Option.mem_toList.1 hv)))
  unfold freezeLaunch
  simp only [hmine, List.head?_nil, Option.any_none, Bool.false_eq_true, if_false, List.length_nil, Bool.or_false]
  rfl

theorem launches_freezeLaunch (h : ∀ v ∈ l.units, Unstopped v) : (rink r (freezeLaunch r k kind detail false l s)).work.launches =
    (rink r s).work.launches.map fun v => if v.lctr = l.lctr then stoppedLaunch r k kind detail l s v else v := by
  have hc : rink r (packetsCounted r k l s) = rink r s := (congrArg (rink r) (packetsCounted_countsOnly r k l s) :)
  rw [freezeLaunch_first h, work_showFreeze, launches_modLaunch, hc]

theorem stoppedLaunch_mem (h : ∀ v ∈ l.units, Unstopped v) (hl : l ∈ (rink r s).work.launches) :
    stoppedLaunch r k kind detail l s l ∈ (rink r (freezeLaunch r k kind detail false l s)).work.launches := by
  rw [launches_freezeLaunch h]
  exact List.mem_map.2 ⟨l, hl, if_pos rfl⟩

/-- Where no other launch of the rink is frozen RFRZ shows the kind of the trap and its core. -/
theorem freezeLaunch_shows (h : ∀ v ∈ l.units, Unstopped v) (hl : l ∈ (rink r s).work.launches)
    (hall : ∀ q ∈ (rink r s).work.launches, q.froze = none) :
    let v := (rink r (freezeLaunch r k kind detail false l s)).recov
    v.frozen = true ∧ v.kind = .ofNat 8 kind ∧ v.core = .ofNat 9 (homeCore r k s) := by
  have hwork := launches_freezeLaunch (k := k) (kind := kind) (detail := detail) h (s := s) (r := r)
  have hmem := stoppedLaunch_mem (k := k) (kind := kind) (detail := detail) h hl
  rw [freezeLaunch_first h, work_showFreeze] at hwork hmem
  rw [freezeLaunch_first h]
  have hfroze {v : Launch} (hv : v ∈ (rink r s).work.launches) :
      (stoppedLaunch r k kind detail l s v).froze = some (s.cycle, kind, homeCore r k s) := by
    rw [stoppedLaunch, hall v hv]
    rfl
  generalize modLaunch r l.lctr (stoppedLaunch r k kind detail l s) (packetsCounted r k l s) = t at hwork hmem ⊢
  obtain ⟨-, hnone⟩ | ⟨q, hq, hqmem, g, hg, -⟩ := frozenLaunch_cases r t
  · exact nomatch (hfroze hl).symm.trans (hnone _ hmem)
  · have hval : q.froze = some (s.cycle, kind, homeCore r k s) := by
      rw [hwork] at hqmem
      obtain ⟨v, hv, rfl⟩ := List.mem_map.1 hqmem
      split
      · exact hfroze hv
      · next hne =>
        rw [if_neg hne] at hg
        exact nomatch (hall v hv).symm.trans hg
    rw [showFreeze_some hq hval, modRecov, rink_modRink_same]
    exact ⟨rfl, rfl, rfl⟩

/-- A freeze changes no core. -/
theorem freezeLaunch_keeps (r k kind detail : Nat) (fatal : Bool) (l : Launch) (s : State) :
    (freezeLaunch r k kind detail fatal l s).sites = s.sites ∧ (freezeLaunch r k kind detail fatal l s).cur = s.cur := by
  have hshown : ∃ f g, freezeLaunch r k kind detail fatal l s = modRecov r f (modLaunch r l.lctr g (packetsCounted r k l s)) :=
    ⟨_, _, (showFreeze_recov r _).choose_spec⟩
  obtain ⟨f, g, h⟩ := hshown
  have hc := packetsCounted_countsOnly r k l s
  rw [h]
  exact ⟨(congrArg State.sites hc :), (congrArg State.cur hc :)⟩

end FirstFreeze

/-! ## The trap (18 R411, R413) -/

section Recorded

variable {s : State} {code info : Nat} {l : Launch} {u : UnitRun}

/-- The causes that are not fatal in timetabled mode (18 R411). -/
theorem classFatal_recorded (h : code = 0x03 ∧ info / 4096 ≤ 4 ∨ code = 0x1C ∨ code = 0x29) : classFatal true code info = false := by
  obtain ⟨rfl, hk⟩ | rfl | rfl := h
  · simp [classFatal, hk]
  · rfl
  · rfl

theorem saveTrap_at (cause : Word) (x : Ctx) : saveTrap false cause x = { x with
    trap := { x.trap with epc := x.pc, enpc := if x.slots = 0 then x.pc + 4 else x.npc, eds := x.slots, ecause := cause } } := by
  rw [saveTrap, restart_at]

/-- A context whose trap has been recorded stands at its word. -/
def recordedCtx (now : Nat) (cause : Word) (x : Ctx) : Ctx :=
  { saveTrap false cause x with ctl := { x.ctl with next := now, cls := .busy } }

/-- The kind of a trap as its launch's freeze shows it (18 R414). -/
def trapKind (code info : Nat) : Nat := if code = 3 then info / 4096 else 255

/-- The core of a recorded trap: its context has saved it, and the rink's streams stand (18 R413). -/
def recordedSite (s : State) (code info : Nat) (c : Site) : Site :=
  freezeSite (myRink s) (frameStat info code (ctxHead s.cur.ctx) false true)
    (modCtx s.cur.ctx (recordedCtx (mySite s).now (ecauseWord info code (ctxHead s.cur.ctx) false true)) (notedTrap s code info c))

theorem takeTrap_recorded (ht : (myCtx s).ctl.timetabled = true) (hf : classFatal true code info = false)
    (hu : unitAt (myRink s) s.cur.site s = some (l, u)) : takeTrap false code info false s =
    freezeLaunch (myRink s) s.cur.site (trapKind code info) (info % 256) false l (modMySite (recordedSite s code info) s) := by
  have hctx : myCtx (modMySite (notedTrap s code info) s) = myCtx s := by
    simp only [myCtx, mySite_modMySite, modMySite_cur, ctxOf_notedTrap]
  have hrink : myRink (modMySite (notedTrap s code info) s) = myRink s := by
    simp only [myRink, headRink, mySite_modMySite, modMySite_cur, own_notedTrap]
  have hunit : unitAt (myRink s) s.cur.site (modMySite (notedTrap s code info) s) = some (l, u) := hu
  have hnow : (mySite (modMySite (notedTrap s code info) s)).now = (mySite s).now := by rw [mySite_modMySite, now_notedTrap]
  have hstopped : modMySite (recordedSite s code info) s =
      modMySite (freezeSite (myRink s) (frameStat info code (ctxHead s.cur.ctx) false true))
        (modMyCtx (recordedCtx (mySite s).now (ecauseWord info code (ctxHead s.cur.ctx) false true)) (modMySite (notedTrap s code info) s)) := by
    rw [modMyCtx, modMySite_cur, modMySite_modMySite, modMySite_modMySite]
    rfl
  rw [hstopped]
  unfold takeTrap
  rw [show (fun c => trace (ctxHead s.cur.ctx) 3 (countSlip (liveJob s) (myRink s) code info c)) = notedTrap s code info from rfl]
  simp only [hctx, hrink, hnow, hunit, ht, hf, modMySite_cur, Bool.or_false, Bool.false_eq_true, if_false, if_true]
  rfl

/-- The core after the trap: its context has recorded it. -/
theorem mySite_recorded (ht : (myCtx s).ctl.timetabled = true) (hf : classFatal true code info = false)
    (hu : unitAt (myRink s) s.cur.site s = some (l, u)) :
    mySite (takeTrap false code info false s) = recordedSite s code info (mySite s) ∧
      myCtx (takeTrap false code info false s) =
        recordedCtx (mySite s).now (ecauseWord info code (ctxHead s.cur.ctx) false true) (myCtx s) := by
  have ⟨hsites, hcur⟩ := freezeLaunch_keeps (myRink s) s.cur.site (trapKind code info) (info % 256) false l
    (modMySite (recordedSite s code info) s)
  have hsite : mySite (takeTrap false code info false s) = recordedSite s code info (mySite s) := by
    rw [takeTrap_recorded ht hf hu, mySite, site, hsites, hcur]
    exact mySite_modMySite ..
  have hctx : (takeTrap false code info false s).cur.ctx = s.cur.ctx := by
    rw [takeTrap_recorded ht hf hu, hcur]
    rfl
  refine ⟨hsite, ?_⟩
  rw [myCtx, hsite, hctx, recordedSite, ctxOf_freezeSite, ctxOf_modCtx, ctxOf_notedTrap]
  rfl

theorem mem_of_unitAt {r k : Nat} (h : unitAt r k s = some (l, u)) : l ∈ (rink r s).work.launches := by
  obtain ⟨v, hv, hfound⟩ := List.exists_of_findSome?_eq_some h
  obtain ⟨w, -, hw⟩ := Option.map_eq_some_iff.1 hfound
  cases hw
  exact hv

end Recorded

/-- Settles O15: the trap saves its context and stops its core; the launch's freeze is its first, which RFRZ shows where it is the only one. -/
theorem timetabledTrapIsRecorded : Obligations.TimetabledTrapIsRecorded := by
  unfold Obligations.TimetabledTrapIsRecorded
  intro s code info l u ht hc hu x t y r logical kind
  have hf := classFatal_recorded hc
  obtain ⟨hsite, hy⟩ : mySite t = recordedSite s code info (mySite s) ∧ y = _ := mySite_recorded ht hf hu
  have hstream : ctxHead s.cur.ctx % 64 = ctxHead s.cur.ctx := by cases s.cur.ctx <;> rfl
  have hcause : ecauseWord info code (ctxHead s.cur.ctx) false true =
      BitVec.ofNat 64 (info % 65536 * 2 ^ 32 + 2 ^ 30 + ctxHead s.cur.ctx * 2 ^ 24 + code % 65536) := by
    simp [ecauseWord, hstream, b2n]
  rw [hy, hsite, hcause, recordedCtx, saveTrap_at]
  refine ⟨rfl, rfl, rfl, rfl, rfl, rfl, rfl, rfl, rfl, rfl, rfl, rfl, rfl, rfl, frozenFor_freezeSite .., fun _ hunits => ?_⟩
  have hstopped : t = freezeLaunch r s.cur.site kind (info % 256) false l (modMySite (recordedSite s code info) s) := takeTrap_recorded ht hf hu
  have hrink : rink r (modMySite (recordedSite s code info) s) = rink r s := congrArg (fun q => q.get Rink.reset r) (modSite_rinks ..)
  have hcore (k : Nat) : homeCore r k (modMySite (recordedSite s code info) s) = logical k := homeCore_congr hrink k
  have hl : l ∈ (rink r (modMySite (recordedSite s code info) s)).work.launches := hrink ▸ mem_of_unitAt hu
  rw [hstopped]
  refine ⟨_, stoppedLaunch_mem hunits hl, rfl, List.length_map _, fun v hv => ⟨_, List.mem_map.2 ⟨v, hv, rfl⟩, ?_⟩, fun hall => ?_⟩
  · by_cases hk : v.site = s.cur.site
    · rw [stoppedUnit_trapping (hunits v hv) hk, if_pos hk]
      exact ⟨rfl, rfl, fun _ => ⟨rfl, rfl⟩, absurd hk⟩
    · rw [stoppedUnit_other (hunits v hv) hk, if_neg hk, latency_congr hrink, hcore, hcore]
      exact ⟨rfl, rfl, fun h => absurd h hk, fun _ => (hunits v hv).2.2.1⟩
  · rw [← hcore]
    exact freezeLaunch_shows hunits hl (hrink ▸ hall)

end Sys2Proof.Machine

/-! # Freeze and resume pulses (09 R251 to R253, 18 R414 to R416) -/

namespace Sys2Proof.Machine

open Host (Outcome)

/-! ## A pulse reaches a unit (09 R252, R253) -/

section Pulses

variable {s : State} {r core k n : Nat} {l : Launch} {u : UnitRun}

/-- A change of the unit on a site is found in every launch of that counter. -/
theorem frozenAt_modUnit {f : UnitRun → UnitRun} {a : Option Nat} (ha : ∀ u, (f u).frozenAt = a) (s : State) :
    ∀ q ∈ (rink r (modLaunch r n (modUnit k f) s)).work.launches, q.lctr = n → ∀ w ∈ q.units, w.site = k → w.frozenAt = a := by
  rw [launches_modLaunch]
  intro q hq hn w hw hk
  obtain ⟨v, -, rfl⟩ := List.mem_map.1 hq
  by_cases hv : v.lctr = n
  · rw [if_pos hv] at hw
    obtain ⟨x, -, rfl⟩ := List.mem_map.1 hw
    by_cases hx : x.site = k
    · rw [if_pos hx]
      exact ha x
    · rw [if_neg hx] at hk
      exact absurd hk hx
  · rw [if_neg hv] at hn
    exact absurd hn hv

/-- The launch of a unit that freezes, and the packets that its router holds. -/
def unitFrozen (r : Nat) (l : Launch) (u : UnitRun) (s : State) : State :=
  modLaunch r l.lctr (modUnit u.site fun v => { v with frozenAt := some l.time })
    (countShared (dieOfSite u.site) 5 2 (rinkFn r s) (heldPackets l u.site) s)

theorem unitFrozen_keeps (r : Nat) (l : Launch) (u : UnitRun) (s : State) :
    (unitFrozen r l u s).sites = s.sites ∧ (unitFrozen r l u s).mem = s.mem := by
  have hc := countShared_countsOnly (dieOfSite u.site) 5 2 (rinkFn r s) (heldPackets l u.site) s
  exact ⟨(congrArg State.sites hc :), (congrArg State.mem hc :)⟩

theorem freezeUnit_finished (h : u.finished = true) : freezeUnit r l u s = unitFrozen r l u s := if_pos h

theorem freezeUnit_running (h : u.finished = false) : freezeUnit r l u s = modSite u.site (freezeSite r onlyFroze) (unitFrozen r l u s) :=
  if_neg (Bool.eq_false_iff.1 h)

theorem freezeUnit_rinks (r : Nat) (l : Launch) (u : UnitRun) (s : State) : (freezeUnit r l u s).rinks = (unitFrozen r l u s).rinks ∧
    (freezeUnit r l u s).mem = s.mem := by
  obtain ⟨-, hmem⟩ := unitFrozen_keeps r l u s
  cases h : u.finished with
  | true => rw [freezeUnit_finished h]; exact ⟨rfl, hmem⟩
  | false => rw [freezeUnit_running h]; exact ⟨modSite_rinks .., hmem⟩

theorem frozenAt_freezeUnit (r : Nat) (l : Launch) (u : UnitRun) (s : State) : ∀ q ∈ (rink r (freezeUnit r l u s)).work.launches,
    q.lctr = l.lctr → ∀ w ∈ q.units, w.site = u.site → w.frozenAt = some l.time := by
  rw [rink, (freezeUnit_rinks r l u s).1]
  exact frozenAt_modUnit (f := fun v => { v with frozenAt := some l.time }) (fun _ => rfl) _

/-- FFSTAT of a core that only froze is VALID. -/
theorem bitOf_onlyFroze : bitOf onlyFroze.toNat 63 = true := by decide

theorem site_freezeUnit (h : u.finished = false) : site u.site (freezeUnit r l u s) = freezeSite r onlyFroze (site u.site s) := by
  rw [freezeUnit_running h, site_modSite_same, site, (unitFrozen_keeps r l u s).1]
  rfl

/-- The launch of a unit that goes on. -/
def unitResumed (r : Nat) (l : Launch) (u : UnitRun) (s : State) : State :=
  modLaunch r l.lctr (modUnit u.site fun v => { setStops ((stopsOf v).drop 1) v with frozenAt := none, trapped := none }) s

theorem resumeUnit_finished (h : u.finished = true) : resumeUnit r l u s = unitResumed r l u s := if_pos h

theorem resumeUnit_running (h : u.finished = false) :
    resumeUnit r l u s = modSite u.site (fun c => clearFrame r (thawSite r c)) (unitResumed r l u s) := if_neg (Bool.eq_false_iff.1 h)

theorem resumeUnit_rinks (r : Nat) (l : Launch) (u : UnitRun) (s : State) : (resumeUnit r l u s).rinks = (unitResumed r l u s).rinks ∧
    (resumeUnit r l u s).mem = s.mem := by
  cases h : u.finished with
  | true => rw [resumeUnit_finished h]; exact ⟨rfl, rfl⟩
  | false => rw [resumeUnit_running h]; exact ⟨modSite_rinks .., rfl⟩

theorem frozenAt_resumeUnit (r : Nat) (l : Launch) (u : UnitRun) (s : State) : ∀ q ∈ (rink r (resumeUnit r l u s)).work.launches,
    q.lctr = l.lctr → ∀ w ∈ q.units, w.site = u.site → w.frozenAt = none := by
  rw [rink, (resumeUnit_rinks r l u s).1]
  exact frozenAt_modUnit (f := fun v => { setStops ((stopsOf v).drop 1) v with frozenAt := none, trapped := none }) (fun _ => rfl) s

theorem site_resumeUnit (h : u.finished = false) : site u.site (resumeUnit r l u s) = clearFrame r (thawSite r (site u.site s)) := by
  rw [resumeUnit_running h, site_modSite_same]
  rfl

theorem stopsOf_setStops (es : List (Nat × Option Nat)) (u : UnitRun) : stopsOf (setStops es u) = es := by cases es <;> rfl

theorem execFreezePulseArrival_due (h : launchWith r core freezeDue s = some (l, u)) :
    exec (.freezePulseArrival r core) s = .next (freezeUnit r l u s) := by
  show execFreezePulseArrival r core s = _
  rw [execFreezePulseArrival, h]

theorem execFreezePulseArrival_none (h : launchWith r core freezeDue s = none) : exec (.freezePulseArrival r core) s = .next s := by
  show execFreezePulseArrival r core s = _
  rw [execFreezePulseArrival, h]

theorem execResumePulseArrival_due (h : launchWith r core resumeDue s = some (l, u)) :
    exec (.resumePulseArrival r core) s = .next (resumeUnit r l u s) := by
  show execResumePulseArrival r core s = _
  rw [execResumePulseArrival, h]

theorem execResumePulseArrival_none (h : launchWith r core resumeDue s = none) : exec (.resumePulseArrival r core) s = .next s := by
  show execResumePulseArrival r core s = _
  rw [execResumePulseArrival, h]

end Pulses

/-! ## RESUME (09 R253, 18 R414, R415) -/

section Resume

variable {s : State} {r : Nat} {l q : Launch} {f : Nat × Nat × Nat}

/-- The freeze that RFRZ shows is that of the launch that has been frozen longest. -/
theorem showFreeze_shows (h : frozenLaunch r (showFreeze r s) = some q) (hf : q.froze = some f) :
    let v := (rink r (showFreeze r s)).recov
    v.frozen = true ∧ v.kind = .ofNat 8 f.2.1 ∧ v.core = .ofNat 9 f.2.2 := by
  rw [frozenLaunch_congr (work_showFreeze r s)] at h
  rw [showFreeze_some h hf, modRecov, rink_modRink_same]
  exact ⟨rfl, rfl, rfl⟩

theorem launches_resumeLaunch (r : Nat) (l : Launch) (s : State) : (rink r (resumeLaunch r l s)).work.launches =
    (rink r s).work.launches.map fun q => if q.lctr = l.lctr then planResume (l.time + 1) q else q := by
  rw [resumeLaunch, work_showFreeze, launches_modLaunch]

/-- Where no other launch of the rink is frozen RFRZ shows none. -/
theorem resumeLaunch_clears (h : ∀ q ∈ (rink r s).work.launches, q.lctr ≠ l.lctr → q.froze = none) :
    let v := (rink r (resumeLaunch r l s)).recov
    v.frozen = false ∧ v.kind = 0 ∧ v.core = 0 := by
  have hnone : frozenLaunch r (modLaunch r l.lctr (planResume (l.time + 1)) s) = none := by
    refine frozenLaunch_none fun q hq => ?_
    rw [launches_modLaunch] at hq
    obtain ⟨v, hv, rfl⟩ := List.mem_map.1 hq
    split
    · rfl
    · next hne => exact h v hv hne
  rw [resumeLaunch, showFreeze_none hnone, modRecov, rink_modRink_same]
  exact ⟨rfl, rfl, rfl⟩

/-- Every unit's resumption is as far behind its freeze as RESUME behind the first trap (09 R253). -/
theorem stops_planResume (w : Nat) (l : Launch) : (planResume w l).units.map stopsOf = l.units.map fun u =>
    (stopsOf u).map fun e => (e.1, some (e.2.getD (w - (trapTimes l).foldl min w + e.1))) := by
  rw [planResume, List.map_map]
  exact List.map_congr_left fun u _ => stopsOf_setStops ..

theorem sites_resumeLaunch (r : Nat) (l : Launch) (s : State) : (resumeLaunch r l s).sites = s.sites := (showFreeze_frame ..).1

theorem execRfrzResume_idle (h : frozenLaunch r s = none) : exec (.rfrzResume r) s = .next s := by
  show execRfrzResume r s = _
  simp only [execRfrzResume, askRfrz, h, Bool.false_eq_true, if_false]

theorem execRfrzResume_resumes (h : frozenLaunch r s = some l) (hf : l.units.any (·.fatal) = false) :
    exec (.rfrzResume r) s = .next (resumeLaunch r l s) := by
  show execRfrzResume r s = _
  simp only [execRfrzResume, askRfrz, h, hf, Bool.false_eq_true, if_false]

theorem execRfrzResume_rewinds (h : frozenLaunch r s = some l) (hf : l.units.any (·.fatal) = true) :
    exec (.rfrzResume r) s = .next (rewind r s) := by
  show execRfrzResume r s = _
  simp only [execRfrzResume, askRfrz, h, hf, Bool.false_eq_true, if_false, if_true]

theorem execAutoResume_resumes (h : (rink r s).work.launches.find? (mayAutoResume r · s) = some l) :
    exec (.autoResume r) s = .next (resumeLaunch r l s) := by
  show execAutoResume r s = _
  rw [execAutoResume, h]

theorem execAutoResume_waits (h : ∀ q ∈ (rink r s).work.launches, mayAutoResume r q s = false) : exec (.autoResume r) s = .next s := by
  show execAutoResume r s = _
  rw [execAutoResume, List.find?_eq_none.2 fun q hq => Bool.eq_false_iff.1 (h q hq)]

end Resume

/-! ## The launch-frozen trap (18 R416) -/

section Notify

variable {s : State} {r j : Nat} {l : Launch} {x : Side}

/-- The Sequencer has been told of a launch's freeze. -/
def launchNotified (r : Nat) (l : Launch) (s : State) : State := modLaunch r l.lctr (fun l => { l with notified := true }) s

theorem seqSite_launchNotified (r : Nat) (l : Launch) (s : State) : seqSite r (launchNotified r l s) = seqSite r s := by
  simp only [seqSite, siteOfLogical, launchNotified, modLaunch, modWork, rink_modRink_same]

theorem recov_launchNotified (r : Nat) (l : Launch) (s : State) : (rink r (launchNotified r l s)).recov = (rink r s).recov := by
  rw [launchNotified, modLaunch, modWork, rink_modRink_same]

theorem execLaunchFrozenTrap_none (h : ∀ q ∈ (rink r s).work.launches, mustNotify r q s = false) : exec (.launchFrozenTrap r) s = .next s := by
  show execLaunchFrozenTrap r s = _
  rw [execLaunchFrozenTrap, List.find?_eq_none.2 fun q hq => Bool.eq_false_iff.1 (h q hq)]

/-- The trap that waits for the Sequencer, of a launch whose freeze began on a core. -/
def pendFrozen (core : Nat) (v : Ctx) : Ctx := { v with trap := { v.trap with pend := v.trap.pend ++ [⟨0x30, core, false⟩] } }

theorem pend_pendFrozen (core : Nat) (v : Ctx) : (pendFrozen core v).trap.pend = v.trap.pend ++ [⟨0x30, core, false⟩] := rfl

variable (h : (rink r s).work.launches.find? (mustNotify r · s) = some l) (hs : seqSite r s = some (j, x))

include h hs

theorem execLaunchFrozenTrap_tells (hr : (ctxOf (site j s) x).ctl.running = true) : exec (.launchFrozenTrap r) s =
    .next (modSite j (modCtx x (pendFrozen (((l.froze.map (·.2.2)).getD 0) % 512))) (launchNotified r l s)) := by
  show execLaunchFrozenTrap r s = _
  have hs' := (seqSite_launchNotified r l s).trans hs
  unfold launchNotified at hs'
  have hr' : (ctxOf (site j (modLaunch r l.lctr (fun l => { l with notified := true }) s)) x).ctl.running = true := hr
  simp only [execLaunchFrozenTrap, h, hs', hr', if_true]
  rfl

/-- A halted Sequencer turns the freeze into a rewind. -/
theorem execLaunchFrozenTrap_rewinds (hr : (ctxOf (site j s) x).ctl.running = false) : exec (.launchFrozenTrap r) s =
    .next (rewind r (launchNotified r l s)) := by
  show execLaunchFrozenTrap r s = _
  have hs' := (seqSite_launchNotified r l s).trans hs
  unfold launchNotified at hs'
  have hr' : (ctxOf (site j (modLaunch r l.lctr (fun l => { l with notified := true }) s)) x).ctl.running = false := hr
  simp only [execLaunchFrozenTrap, h, hs', hr', Bool.false_eq_true, if_false]
  rfl

end Notify

end Sys2Proof.Machine

/-! # Rewinds, core checks and remaps (18 R417, R418, R421 to R423) -/

namespace Sys2Proof.Machine

open Host (Outcome)

/-! ## The rewind (18 R417, R418) -/

section Rewind

variable {s t : State} {r j : Nat} {p : Checkpoint}

/-- The cores and engines of a rink after steps 1 to 4 of a rewind. -/
def coresStopped (r : Nat) (s : State) : State :=
  let ls := (rink r s).work.launches
  let s2 := ls.foldl (fun s l => pinPages false l.pins s) ((commandsOf r s).foldl (fun s c => releaseCommand c s) s)
  (sitesOf r s2).foldl (fun s k => modSite k (clearSite r (placedBy ls) k) s) (dropCollRuns r (dropAtomics r s2))

/-- They change no rink, no function and no byte of the host. -/
theorem coresStopped_keeps (r : Nat) (s : State) :
    (coresStopped r s).rinks = s.rinks ∧ (coresStopped r s).fns = s.fns ∧ (coresStopped r s).host = s.host := by
  have keeps {γ : Type} (g : State → γ) (hp : ∀ up ps s, g (pinPages up ps s) = g s) (hq : ∀ s, g (dropCollRuns r (dropAtomics r s)) = g s)
      (hs : ∀ k f s, g (modSite k f s) = g s) : g (coresStopped r s) = g s := by
    unfold coresStopped
    dsimp only
    rw [foldl_keeps g fun _ _ => hs .., hq, foldl_keeps g fun _ _ => hp ..]
    exact foldl_keeps g (f := fun s c => releaseCommand c s) (fun _ _ => hp ..) _ _
  exact ⟨keeps State.rinks (fun _ _ _ => rfl) (fun _ => rfl) fun _ _ _ => rfl, keeps State.fns (fun _ _ _ => rfl) (fun _ => rfl) fun _ _ _ => rfl,
    keeps State.host (fun _ _ _ => rfl) (fun _ => rfl) fun _ _ _ => rfl⟩

theorem stopRink_keeps (r : Nat) (st : CtrState) (code : Nat) (s : State) :
    (stopRink r st code s).fns = s.fns ∧ (stopRink r st code s).host = s.host := (coresStopped_keeps r s).2

/-- Of its rink a rewind stops the work and the collectives. -/
theorem rink_stopRink (r : Nat) (st : CtrState) (code : Nat) (s : State) : ∃ w, w.launches = [] ∧ rink r (stopRink r st code s) =
    { rink r s with colls := (rink r s).colls.mapVals fun _ c => closeAtRewind c, work := w } := by
  have hrink : rink r (coresStopped r s) = rink r s := congrArg (fun q => q.get Rink.reset r) (coresStopped_keeps r s).1
  have hended (ls : List Launch) (w : Work) : (ls.foldl (fun w l => endLaunchEntries l.lctr code w) w).launches = w.launches :=
    foldl_unchanged Work.launches (f := fun w (l : Launch) => endLaunchEntries l.lctr code w) (fun _ _ => rfl) _ _
  rw [← hrink]
  exact ⟨_, hended _ _, (rink_modRink_same ..).trans (by rw [rink_modRink_same]; rfl)⟩

/-- A rewound rink before its Sequencer's context is loaded. -/
def rinkRewound (r : Nat) (p : Checkpoint) (s : State) : State :=
  recount r (modWork r (dropIssued p) (modRecov r (fun v => { v with frozen := false, kind := 0, core := 0, count := v.count + 1 })
    ((sitesOf r s).foldl (fun s k => modSite k (clearFrame r) s) (stopRink r .rewound 3 s))))

theorem rinkRewound_keeps (r : Nat) (p : Checkpoint) (s : State) : (rinkRewound r p s).fns = s.fns ∧ (rinkRewound r p s).host = s.host := by
  obtain ⟨hfns, hhost⟩ := stopRink_keeps r .rewound 3 s
  exact ⟨(foldl_keeps State.fns (fun _ _ => modSite_fns ..) _ _).trans hfns,
    (foldl_keeps State.host (fun _ _ => modSite_host ..) _ _).trans hhost⟩

theorem rink_rinkRewound (r : Nat) (p : Checkpoint) (s : State) : ∃ w, w.launches = [] ∧ rink r (rinkRewound r p s) =
    { rink r s with
      colls := (rink r s).colls.mapVals fun _ c => closeAtRewind c, work := w
      recov := { (rink r s).recov with frozen := false, kind := 0, core := 0, count := (rink r s).recov.count + 1 } } := by
  obtain ⟨w, hw, hstop⟩ := rink_stopRink r .rewound 3 s
  have hrink : rink r ((sitesOf r s).foldl (fun s k => modSite k (clearFrame r) s) (stopRink r .rewound 3 s)) = rink r (stopRink r .rewound 3 s) :=
    foldl_keeps (f := fun s k => modSite k (clearFrame r) s) (rink r) (fun _ _ => rfl) _ _
  simp only [rinkRewound, recount, modWork, modRecov, rink_modRink_same, hrink, hstop]
  refine ⟨_, ?_, rfl⟩
  exact hw

theorem siteOfLogical_congr (h : (rink r t).place = (rink r s).place) (n : Nat) : siteOfLogical r n t = siteOfLogical r n s := by
  rw [siteOfLogical, h, siteOfLogical]

theorem lead_of_seqSite {x : Side} (h : seqSite r s = some (j, x)) : siteOfLogical r (rink r s).lead.toNat s = some j ∧ (rink r s).leadCtx = x := by
  obtain ⟨k, hk, heq⟩ := Option.map_eq_some_iff.1 h
  cases heq
  exact ⟨hk, rfl⟩

theorem rewindSteps_loads {x : Side} (h : seqSite r s = some (j, x)) : rewindSteps r p s =
    modSite j (fun c => modCtx x (loadCheckpoint c.now p) c) (rinkRewound r p s) := by
  obtain ⟨hsite, hx⟩ := lead_of_seqSite h
  obtain ⟨w, -, hrink⟩ := rink_rinkRewound r p s
  have hat : siteOfLogical r (rink r s).lead.toNat (rinkRewound r p s) = some j := (siteOfLogical_congr (by rw [hrink]) _).trans hsite
  unfold rinkRewound at hat
  unfold rewindSteps
  dsimp only
  rw [hat, hx]
  rfl

/-- A number is closed by a rewind (18 R417). -/
theorem colls_closed (t : Table Coll) (i : Nat) : ((t.mapVals fun _ c => closeAtRewind c).get Coll.closed i).isOpen = false := by
  rw [Table.get_mapVals t (f := fun _ c => closeAtRewind c) rfl]
  rfl

theorem execRfrzRewind_steps (hp : (rink r s).recov.checkpoint = some p) (hc : (rink r s).recov.count.toNat + 1 ≤ (rink r s).recov.limit.toNat) :
    exec (.rfrzRewind r) s = .next (rewindSteps r p s) := by
  show execRfrzRewind r s = _
  simp only [execRfrzRewind, askRfrz, rewind, hp, if_pos hc, if_true]

end Rewind

/-! ## What a rewind leaves of the functions (13 R328) -/

section JournalVector

variable {s : State}

theorem vec_congr {t : State} (h : t.fns = s.fns) (v : Nat) : (fnOf v t).vec = (fnOf v s).vec := congrArg (fun q => (q.get Fn.reset v).vec) h

theorem vec_modFn {f : Fn → Fn} (hf : ∀ q, (f q).vec = q.vec) (v w : Nat) (s : State) : (fnOf v (modFn w f s)).vec = (fnOf v s).vec := by
  by_cases h : v = w
  · rw [h, fnOf_modFn_same, hf]
  · rw [fnOf_modFn_ne h]

theorem vec_recordJob (fn slot status : Nat) (j : Job) (v : Nat) (s : State) : (fnOf v (recordJob fn slot status j s)).vec = (fnOf v s).vec := by
  have hwrite (addr : Nat) (data : List Byte) : (hostWrite fn addr data s).fns = s.fns := by
    unfold hostWrite
    split <;> rfl
  exact (vec_modFn (f := fun f => { f with jhead := f.jhead + 1 }) (fun _ => rfl) ..).trans (vec_congr (hwrite ..) v)

theorem fns_worldSwitch (r : Nat) (s : State) : (worldSwitch r s).fns = s.fns := foldl_keeps State.fns (fun _ _ => modSite_fns ..) _ _

/-- The journal vector of a function is the host's: no job's end changes it. -/
theorem vec_completeJob (r status v : Nat) (s : State) : (fnOf v (completeJob r status s)).vec = (fnOf v s).vec := by
  unfold completeJob
  split
  · rfl
  · dsimp only
    rw [vec_congr (modRink_fns ..) v, vec_modFn, vec_recordJob, vec_congr (fns_worldSwitch r s)]
    exact fun _ => rfl

theorem vec_rewindSteps (r : Nat) (p : Checkpoint) (v : Nat) (s : State) : (fnOf v (rewindSteps r p s)).vec = (fnOf v s).vec := by
  have hkept := vec_congr (rinkRewound_keeps r p s).1 v
  unfold rewindSteps
  dsimp only
  split <;> exact hkept

theorem vec_rewind (r v : Nat) (s : State) : (fnOf v (rewind r s)).vec = (fnOf v s).vec := by
  have hend : (fnOf v (endJob r 4 .faulted s)).vec = (fnOf v s).vec :=
    (vec_completeJob ..).trans (vec_congr (stopRink_keeps r .faulted 3 s).1 v)
  unfold rewind
  dsimp only
  split
  · split
    · exact vec_rewindSteps ..
    · exact hend
  · exact hend

end JournalVector

/-! ## A core check (18 R423) -/

section CoreCheck

variable {s t : State} {r k j : Nat} {fault : Option (Nat × Nat)} {c : Site}

theorem logSerru_eq (place index : Nat) (c : Site) : logSerru place index c = { c with obs := { c.obs with
    serru := if c.obs.serru.getLsbD 63 then c.obs.serru else .ofNat 64 (2 ^ 63 + place * 2 ^ 60 + index % 2 ^ 24) } } := by
  unfold logSerru
  split <;> rfl

/-- What a core check logs is of the core's SERRU alone. -/
theorem logCheck_keeps (k : Nat) (fault : Option (Nat × Nat)) (s : State) :
    (logCheck k fault s).rinks = s.rinks ∧ (logCheck k fault s).fns = s.fns ∧ (logCheck k fault s).dies = s.dies ∧
      (∀ j ≠ k, site j (logCheck k fault s) = site j s) ∧
      ∃ w, site k (logCheck k fault s) = { site k s with obs := { (site k s).obs with serru := w } } := by
  unfold logCheck
  split
  · split
    · exact ⟨rfl, rfl, rfl, fun j hj => site_modSite_ne hj .., _, (site_modSite_same ..).trans (logSerru_eq ..)⟩
    · exact ⟨rfl, rfl, rfl, fun _ _ => rfl, _, rfl⟩
  · exact ⟨rfl, rfl, rfl, fun _ _ => rfl, _, rfl⟩

theorem serru_logCheck {a i : Nat} (h3 : 3 ≤ a) (h5 : a ≤ 5) (s : State) : (site k (logCheck k (some (a, i)) s)).obs.serru =
    if (site k s).obs.serru.getLsbD 63 then (site k s).obs.serru else .ofNat 64 (2 ^ 63 + a * 2 ^ 60 + i % 2 ^ 24) := by
  simp only [logCheck, and_self, h3, h5, if_true, site_modSite_same, logSerru_eq]

/-- The die of the core has its failure bits set. -/
def coreFailed (k : Nat) (fault : Option (Nat × Nat)) (s : State) : State :=
  modDie (dieOfSite k) (fun d => { d with
    siteFail := setBit d.siteFail (siteBit k) true,
    routerFail := if ofRouter fault then setBit d.routerFail (siteBit k) true else d.routerFail }) (logCheck k fault s)

theorem ofRouter_iff : ofRouter fault = true ↔ fault.map (·.1) = some 6 := by cases fault <;> simp [ofRouter]

theorem die_coreFailed (k : Nat) (fault : Option (Nat × Nat)) (s : State) : die (dieOfSite k) (coreFailed k fault s) =
    { die (dieOfSite k) s with
      siteFail := setBit (die (dieOfSite k) s).siteFail (siteBit k) true,
      routerFail := if fault.map (·.1) = some 6 then setBit (die (dieOfSite k) s).routerFail (siteBit k) true
        else (die (dieOfSite k) s).routerFail } := by
  have hlog : die (dieOfSite k) (logCheck k fault s) = die (dieOfSite k) s :=
    congrArg (fun q => q.get Die.reset (dieOfSite k)) (logCheck_keeps k fault s).2.2.1
  rw [coreFailed, die_modDie_same, hlog]
  simp only [ofRouter_iff]

/-- A core that has stopped for a core check. -/
def checkedSite (r : Nat) (c : Site) : Site :=
  let c' := writeFrame r (frameStat 0 0x2E 63 true false) c
  modCtx (homeCtx c' r) (fun x => { x with trap := { x.trap with ecause := ecauseWord 0 0x2E 63 true false } }) c'

theorem recordCheck_eq (k r : Nat) (s : State) : recordCheck k r s = modSite k (checkedSite r) s := rfl

theorem ecause_checkedSite (r : Nat) (c : Site) : (ctxOf (checkedSite r c) (homeCtx c r)).trap.ecause = ecauseWord 0 0x2E 63 true false := by
  obtain ⟨o, ho, -⟩ := writeFrame_obs r (frameStat 0 0x2E 63 true false) c
  have hhome : homeCtx c r = homeCtx (writeFrame r (frameStat 0 0x2E 63 true false) c) r := setOf_congr (by rw [ho])
  rw [hhome, checkedSite, ctxOf_modCtx]

theorem obs_checkedSite (r : Nat) (c : Site) : (checkedSite r c).obs = (writeFrame r (frameStat 0 0x2E 63 true false) c).obs := modCtx_obs ..

theorem serru_checkedSite (r : Nat) (c : Site) : (checkedSite r c).obs.serru = c.obs.serru := by
  obtain ⟨o, ho, hserru⟩ := writeFrame_obs r (frameStat 0 0x2E 63 true false) c
  rw [obs_checkedSite, ho, hserru]

theorem frameAt_checkedSite (h : frozenFor c r = false) : frameAt r (checkedSite r c) = frameOf c r (frameStat 0 0x2E 63 true false) := by
  have hset : setOf (checkedSite r c) r = setOf (writeFrame r (frameStat 0 0x2E 63 true false) c) r := setOf_congr (modCtx_own ..)
  rw [← frameAt_writeFrame h, frameAt, obs_checkedSite, hset, frameAt]

/-- The rinks that own an engine of a core are read from its OWN. -/
theorem ownersOf_congr (h : (site k t).own = (site k s).own) : ownersOf k t = ownersOf k s := by rw [ownersOf, h, ownersOf]

theorem execCoreCheck_owner (h : ownersOf k s = [r]) : exec (.coreCheck k fault) s =
    .next (signalPf (checkRink r (recordCheck k r (coreFailed k fault s)))) := by
  obtain ⟨-, -, -, -, w, hsite⟩ := logCheck_keeps k fault s
  have howners : ownersOf k (coreFailed k fault s) = [r] := by
    rw [← h]
    exact ownersOf_congr (congrArg Site.own hsite :)
  unfold coreFailed at howners
  show execCoreCheck k fault s = _
  unfold execCoreCheck
  dsimp only
  rw [howners]
  rfl

/-- A core whose rink has no running job: its cause stands in its frame and its home context, and what it logged in SERRU. -/
theorem site_checked (k r : Nat) (fault : Option (Nat × Nat)) (s : State) :
    let c := site k (recordCheck k r (coreFailed k fault s))
    (ctxOf c (homeCtx (site k s) r)).trap.ecause = ecauseWord 0 0x2E 63 true false ∧ c.obs.serru = (site k (logCheck k fault s)).obs.serru ∧
      (frozenFor (site k s) r = false → (frameAt r c).stat = frameStat 0 0x2E 63 true false) := by
  obtain ⟨-, -, -, -, w, hlog⟩ := logCheck_keeps k fault s
  have hsite : site k (coreFailed k fault s) = site k (logCheck k fault s) := rfl
  have hown : (site k (logCheck k fault s)).own = (site k s).own := (congrArg Site.own hlog :)
  have hhome : homeCtx (site k s) r = homeCtx (site k (logCheck k fault s)) r := setOf_congr hown.symm
  have hfrozen : frozenFor (site k (logCheck k fault s)) r = frozenFor (site k s) r := by rw [frozenFor, setOf_congr hown, hlog, frozenFor]
  dsimp only
  rw [recordCheck_eq, site_modSite_same, hsite, hhome, ← hfrozen]
  refine ⟨ecause_checkedSite .., serru_checkedSite .., fun h => ?_⟩
  rw [frameAt_checkedSite h]
  rfl

theorem site_checked_other (h : j ≠ k) : site j (recordCheck k r (coreFailed k fault s)) = site j s := by
  rw [recordCheck_eq, site_modSite_ne h]
  exact (logCheck_keeps k fault s).2.2.2.1 j h

theorem checkRink_suspended (r : Nat) (s : State) : (rink r (checkRink r s)).susp = true ∧ (rink r (checkRink r s)).suspd = true := by
  rw [checkRink, rink_modRink_same]
  exact ⟨rfl, rfl⟩

theorem checkRink_idle (h : (rink r s).work.running = none) : checkRink r s = modRink r (fun q => { q with susp := true, suspd := true }) s := by
  rw [checkRink, h]
  rfl

theorem vec_checkRink (r v : Nat) (s : State) : (fnOf v (checkRink r s)).vec = (fnOf v s).vec := by
  unfold checkRink
  dsimp only
  rw [vec_congr (modRink_fns ..) v]
  split
  · exact vec_rewind ..
  · rfl

/-- The PF is told of a core check by its journal vector. -/
theorem sent_signalPf (s : State) : (signalPf s).sent.getLast? = some (.msix 0 (fnOf 0 s).vec.toNat) := List.getLast?_concat

end CoreCheck

/-! ## Pseudo-channel remaps (18 R422) -/

section Remap

variable {s : State} {p : PcRemap} {stack pc : Nat}

/-- A remap begins where none is in progress, a spare is left and PC names a pseudo-channel. -/
theorem going_writePcremap (v : Nat) (h : p.going = none) (e : Nat × Nat) : (writePcremap v p).going = some e ↔
    bitOf v 63 = true ∧ 0 < p.left.get 0 (field v 10 8) ∧ field v 7 0 < 160 ∧ e = (field v 10 8, field v 7 0) := by
  rw [writePcremap, h]
  simp only [Option.none_or]
  rw [Option.ite_none_right_eq_some, Option.some_inj, and_assoc, and_assoc, eq_comm (a := e)]

theorem going_writePcremap_busy (v : Nat) (h : p.going.isSome = true) : (writePcremap v p).going = p.going := Option.or_of_isSome h

theorem execPcremapDone_going (h : s.pcremap.going = some (stack, pc)) : exec .pcremapDone s = .next { s with pcremap := { s.pcremap with
    left := s.pcremap.left.put stack (s.pcremap.left.get 0 stack - 1),
    shown := if s.pcremap.stack = stack then (s.pcremap.left.put stack (s.pcremap.left.get 0 stack - 1)).get 0 stack else s.pcremap.shown,
    going := none, made := s.pcremap.made ++ [(stack, pc)] } } := by
  show execPcremapDone s = _
  simp only [execPcremapDone, h]

theorem execPcremapDone_idle (h : s.pcremap.going = none) : exec .pcremapDone s = .next s := by
  show execPcremapDone s = _
  simp only [execPcremapDone, h]

end Remap

/-- Settles O52: a pulse by the unit that it reaches, RESUME by the launch that it restarts, and the rewind, the core check and the remap each by
what its steps leave. -/
theorem recoveryEvents : Obligations.RecoveryEvents := by
  unfold Obligations.RecoveryEvents
  intro s r core k val fault frame rewound p left unitFroze
  refine ⟨fun l u h => ?freeze, execFreezePulseArrival_none, fun l u h => ?resume, execResumePulseArrival_none, ?rest⟩
  case freeze =>
    refine ⟨_, execFreezePulseArrival_due h, frozenAt_freezeUnit r l u s, (freezeUnit_rinks r l u s).2, fun hf => ?_, fun hf => ?_⟩
    · rw [freezeUnit_finished hf]
      exact (unitFrozen_keeps ..).1
    · have hframe : frame (freezeUnit r l u s) u.site = frameAt r (writeFrame r onlyFroze (site u.site s)) := by
        rw [← frameAt_freezeSite, ← site_freezeUnit hf]
        rfl
      rw [hframe, site_freezeUnit hf]
      refine ⟨frozenFor_freezeSite .., frameAt_writeFrame_frozen, fun hn => ?_⟩
      rw [frameAt_writeFrame hn]
      exact ⟨rfl, rfl, bitOf_onlyFroze⟩
  case resume =>
    refine ⟨_, execResumePulseArrival_due h, frozenAt_resumeUnit r l u s, (resumeUnit_rinks r l u s).2, fun hf => ?_, fun hf => ?_⟩
    · rw [resumeUnit_finished hf]
      rfl
    · have hframe : frame (resumeUnit r l u s) u.site = frameAt r (clearFrame r (thawSite r (site u.site s))) := by
        rw [← site_resumeUnit hf]
        rfl
      obtain ⟨o, b0, b1, heq⟩ := clearFrame_thawSite r (site u.site s)
      rw [hframe, site_resumeUnit hf]
      exact ⟨frozenFor_thawed .., frameAt_thawed .., by rw [heq]⟩
  case rest =>
    intro resumes queue
    have hresumes {l : Launch} {i : Instr} (hi : exec i s = .next (resumeLaunch r l s)) : resumes l i := by
      refine ⟨_, hi, sites_resumeLaunch .., fun q f hq hf => showFreeze_shows hq hf, resumeLaunch_clears, fun hone => ?_⟩
      refine ⟨planResume (l.time + 1) l, ?_, rfl, rfl, rfl, stops_planResume ..⟩
      rw [launches_resumeLaunch, hone, List.map_singleton, if_pos rfl]
    refine ⟨execRfrzResume_idle, fun l hl => ⟨fun q hq f hf => ?longest, fun hf => hresumes (execRfrzResume_resumes hl hf),
      execRfrzResume_rewinds hl⟩, fun l hl => hresumes (execAutoResume_resumes hl), execAutoResume_waits, execLaunchFrozenTrap_none,
      fun l j x hl hs => ?notify, fun c j x hp hc hs => ?rewind, fun hk => ?check, ?go, fun stack pc hgo => ?done, execPcremapDone_idle⟩
    case longest =>
      obtain ⟨-, g, hg, hmin⟩ := frozenLaunch_longest hl
      exact ⟨g, hg, hmin q hq f hf⟩
    case notify =>
      refine ⟨fun hr => ⟨_, execLaunchFrozenTrap_tells hl hs hr, fun time kind lead hfroze hlead => ?_⟩,
        fun hr => ⟨_, execLaunchFrozenTrap_rewinds hl hs hr, rfl, recov_launchNotified ..⟩⟩
      rw [hfroze, site_modSite_same, ctxOf_modCtx, pend_pendFrozen, Option.map_some, Option.getD_some, Nat.mod_eq_of_lt hlead]
      rfl
    case rewind =>
      obtain ⟨w, hw, hrink⟩ := rink_rinkRewound r c s
      have hstep : exec (.rfrzRewind r) s = .next (modSite j (fun v => modCtx x (loadCheckpoint v.now c) v) (rinkRewound r c s)) := by
        rw [execRfrzRewind_steps hp hc, rewindSteps_loads hs]
      have hrink' : rink r (modSite j (fun v => modCtx x (loadCheckpoint v.now c) v) (rinkRewound r c s)) = _ := hrink
      refine ⟨_, hstep, ?_⟩
      rw [hrink', site_modSite_same, ctxOf_modCtx]
      exact ⟨rfl, rfl, hw, (rinkRewound_keeps r c s).2, colls_closed _, rfl, rfl, rfl, rfl, rfl, rfl, rfl, rfl, rfl, rfl, rfl, rfl, rfl, rfl⟩
    case check =>
      obtain ⟨hrinks, hfns, -, -, -⟩ := logCheck_keeps k fault s
      refine ⟨_, execCoreCheck_owner hk, (checkRink_suspended ..).1, (checkRink_suspended ..).2, ?_, fun hidle => ?_⟩
      · rw [sent_signalPf, vec_checkRink]
        exact congrArg (fun w => some (Out.msix 0 w.toNat)) (vec_congr hfns 0)
      · have hrink : rink r (recordCheck k r (coreFailed k fault s)) = rink r s := congrArg (fun q => q.get Rink.reset r) hrinks
        rw [checkRink_idle (hrink ▸ hidle)]
        obtain ⟨hcause, hserru, hframe⟩ := site_checked k r fault s
        have hdie := die_coreFailed k fault s
        refine ⟨congrArg Die.siteFail hdie, congrArg Die.routerFail hdie, fun j hj => site_checked_other hj, hcause, hframe,
          fun a i hf h3 h5 => ?_⟩
        subst hf
        exact hserru.trans (serru_logCheck h3 h5 s)
    case go => exact ⟨_, rfl, rfl, rfl, rfl, rfl, going_writePcremap_busy _, going_writePcremap _⟩
    case done => exact ⟨_, execPcremapDone_going hgo, rfl, Table.get_put_same .., rfl, rfl, rfl, rfl⟩

end Sys2Proof.Machine

/-! # Row groups: their fields, the errors in them, and their refreshes (10 R262, R264, R271, R274, 18 R420, R421) -/

namespace Sys2Proof.Machine

open Host (Outcome)

/-! ## The fields of a row group -/

section GroupFields

/-- A group whose bytes are lost. -/
def Group.dropped (v : Group) : Group := { v with valid := false, age := 0, queued := none, hold := false, soft := false }

/-- A group that an expiry queues for a refresh, a freeze-hold refresh or one of its policy. -/
def Group.queuedFor (frz : Bool) (v : Group) : Group := { v with queued := some 0, hold := frz, soft := false }

/-- A group in which a read met a correctable error. -/
def Group.asked (v : Group) : Group := if v.valid && v.queued.isNone then { v with queued := some 0, soft := true } else v

/-- A group just refreshed. -/
def Group.refreshed (v : Group) : Group := { v with age := 0, queued := none, hold := false, soft := false }

theorem Group.asked_asked (v : Group) : v.asked.asked = v.asked := by
  by_cases h : (v.valid && v.queued.isNone) = true
  · rw [show v.asked = { v with queued := some 0, soft := true } from if_pos h]
    exact if_neg (by simp)
  · have hsame : v.asked = v := if_neg h
    rw [hsame, hsame]

theorem Group.queued_asked {v : Group} (h : v.valid = true) : v.asked.queued.isSome = true := by
  unfold Group.asked
  split
  · rfl
  · next hn => simpa [h, Option.isSome_iff_ne_none] using hn

variable (t : Tm) (g m : Nat)

theorem get_setGroup (v : Group) : (setGroup g v t).groups.get Group.empty m = if m = g then v else t.groups.get Group.empty m := by
  split
  · next h => subst h; exact Table.get_setD_same ..
  · next h => exact Table.get_setD_ne _ _ _ h

theorem get_invalidate : (invalidate g t).groups.get Group.empty m =
    if m = g then (t.groups.get Group.empty m).dropped else t.groups.get Group.empty m := by
  refine (get_setGroup ..).trans ?_
  split
  · next h => rw [h]; rfl
  · rfl

theorem markWritten_groups : (markWritten g t).groups = t.groups := by unfold markWritten; split <;> rfl

theorem mem_written_markWritten : g ∈ (markWritten g t).written := by
  unfold markWritten
  split
  · next h => exact List.contains_iff_mem.1 h
  · exact List.mem_cons_self ..

/-- A fold that changes each group of a list once, by a change that need not be made twice. -/
theorem get_foldl_groups {F : Group → Group} {f : Tm → Nat → Tm} (twice : ∀ v, F (F v) = F v)
    (step : ∀ t n m, (f t n).groups.get Group.empty m = if m = n then F (t.groups.get Group.empty m) else t.groups.get Group.empty m)
    (gs : List Nat) : (gs.foldl f t).groups.get Group.empty m =
      if m ∈ gs then F (t.groups.get Group.empty m) else t.groups.get Group.empty m := by
  induction gs generalizing t with
  | nil => rfl
  | cons n gs ih =>
    rw [List.foldl_cons, ih, step]
    by_cases hn : m = n
    · simp [hn, twice]
    · simp [hn]

end GroupFields

/-! ## Errors in a span of tile memory (18 R420) -/

section Errors

variable {t : Tm} {c : Site} {a e g n : Nat}

theorem mem_errorsIn {x : Nat} {l : Table Nat} : x ∈ errorsIn e a n l ↔ (x, e) ∈ l.cells ∧ a / 8 ≤ x ∧ x * 8 < a + n := by
  simp [errorsIn]

/-- An uncorrectable error found in a row group lies in it. -/
theorem div_of_spoiled (h : spoiled t (4096 * g) 4096 = some e) : e / 4096 = g := by
  obtain ⟨x, hx, rfl⟩ := Option.map_eq_some_iff.1 h
  obtain ⟨-, hlo, hhi⟩ := mem_errorsIn.1 (List.mem_of_head? hx)
  omega

theorem errorsIn_dropRange (l : Table Nat) : errorsIn e (4096 * g) 4096 (dropRange (g * 512) (g * 512 + 512) l) = [] := by
  refine List.eq_nil_iff_forall_not_mem.2 fun x hx => ?_
  obtain ⟨hcell, hlo, hhi⟩ := mem_errorsIn.1 hx
  have hout := (List.mem_filter.1 hcell).2
  simp only [Bool.or_eq_true, decide_eq_true_eq] at hout
  omega

/-- SERRU after an uncorrectable error is logged (18 R421). -/
def serruLogged (place index : Nat) (w : Word) : Word :=
  if w.getLsbD 63 then w else BitVec.ofNat 64 (2 ^ 63 + place * 2 ^ 60 + index % 2 ^ 24)

theorem serru_logSerru (place index : Nat) (c : Site) : (logSerru place index c).obs.serru = serruLogged place index c.obs.serru := by
  rw [logSerru_eq]
  rfl

theorem tm_logSerru (place index : Nat) (c : Site) : (logSerru place index c).tm = c.tm := by rw [logSerru_eq]

theorem serru_spoilGroup (a : Nat) (c : Site) : (spoilGroup a c).obs.serru = serruLogged 0 a c.obs.serru := serru_logSerru ..

theorem tm_spoilGroup (a : Nat) (c : Site) : (spoilGroup a c).tm = invalidate (a / 4096) c.tm :=
  congrArg (invalidate (a / 4096)) (tm_logSerru ..)

theorem groupOf_spoilGroup (a m : Nat) (c : Site) :
    groupOf (spoilGroup a c) m = if m = a / 4096 then (groupOf c m).dropped else groupOf c m := by
  rw [groupOf, tm_spoilGroup]
  exact get_invalidate ..

theorem serrc_corrected (a n : Nat) (c : Site) : (corrected a n c).obs.serrc =
    if errorsIn 1 a n c.tm.errs = [] then c.obs.serrc
    else BitVec.ofNat 48 (satAdd 48 c.obs.serrc.toNat (errorsIn 1 a n c.tm.errs).length) := by
  split
  · next h => rw [corrected_sound _ _ _ h]
  · next h =>
    unfold corrected
    rw [if_neg (by simpa using h)]
    rfl

/-- The groups of the correctable errors that a read meets ask for a refresh. -/
theorem groupOf_corrected (a n m : Nat) (c : Site) : groupOf (corrected a n c) m =
    if ∃ x ∈ errorsIn 1 a n c.tm.errs, x / 512 = m then (groupOf c m).asked else groupOf c m := by
  by_cases h : errorsIn 1 a n c.tm.errs = []
  · simp [corrected_sound _ _ _ h, h]
  · unfold corrected
    rw [if_neg (by simpa using h)]
    refine (get_foldl_groups (F := Group.asked) c.tm m Group.asked_asked (fun t g m => ?_) _).trans ?_
    · dsimp only
      by_cases hm : m = g
      · subst hm
        rw [if_pos rfl, Group.asked]
        split
        · exact (get_setGroup ..).trans (if_pos rfl)
        · rfl
      · rw [if_neg hm]
        split
        · exact (get_setGroup ..).trans (if_neg hm)
        · rfl
    · simp only [List.mem_dedup, List.mem_map]
      rfl

/-- A read or write of bytes of one plain region, all valid, fails only a read that meets an uncorrectable error. -/
theorem tmCheck_valid {r : Nat} {q : Region} (hlim : a + n ≤ 0xC00000) (hn : 0 < n) (hplain : q.compressed = false)
    (hbytes : ∀ x, a ≤ x → x < a + n → regionAt c r x = some q ∧ (groupOf c (x / 4096)).valid = true) (isRead : Bool) :
    tmCheck c r a n isRead (fun _ => false) 0 = if isRead then (spoiled c.tm a n).map (Hit.softTrap none) else none := by
  have hnone {p : Nat → Bool} (hp : ∀ g, regionAt c r (max a (4096 * g)) = some q → (groupOf c g).valid = true → p g = false) :
      ((List.range ((a + n - 1) / 4096 + 1 - a / 4096)).map (· + a / 4096)).any p = false := by
    refine List.any_eq_false.2 fun g hg => Bool.eq_false_iff.1 ?_
    obtain ⟨i, hi, rfl⟩ := List.mem_map.1 hg
    have hi := List.mem_range.1 hi
    obtain ⟨hregion, hvalid⟩ := hbytes (max a (4096 * (i + a / 4096))) (by omega) (by omega)
    rw [show max a (4096 * (i + a / 4096)) / 4096 = i + a / 4096 by omega] at hvalid
    exact hp _ hregion hvalid
  unfold tmCheck
  dsimp only
  rw [if_neg (by omega), hnone fun g hr _ => by rw [hr]; rfl, hnone fun g hr _ => by rw [hr]; exact hplain,
    hnone fun g _ hv => by rw [hv]; rfl]
  simp

end Errors

end Sys2Proof.Machine

/-! # Refreshes that the device places (10 R271, R273, R274, 18 R420) -/

namespace Sys2Proof.Machine

open Host (Outcome)

section Refresh

variable {s : State} {c : Site} {k a g m n r i : Nat} {q : Region}

theorem refreshGroup_valid {t : Tm} (h : (t.groups.get Group.empty g).valid = true) :
    refreshGroup g t = markWritten g (setGroup g (t.groups.get Group.empty g).refreshed t) := if_pos h

/-- A refresh of a valid group changes that group alone, and resets its age in this beat. -/
theorem refreshGroup_keeps {t : Tm} (h : (t.groups.get Group.empty g).valid = true) :
    (refreshGroup g t).bytes = t.bytes ∧ (refreshGroup g t).errs = t.errs ∧ g ∈ (refreshGroup g t).written ∧
      (refreshGroup g t).groups.get Group.empty g = (t.groups.get Group.empty g).refreshed := by
  rw [refreshGroup_valid h]
  refine ⟨?_, ?_, mem_written_markWritten .., ?_⟩
  · unfold markWritten; split <;> rfl
  · unfold markWritten; split <;> rfl
  · rw [markWritten_groups]
    exact (get_setGroup ..).trans (if_pos rfl)

theorem spoiled_congr {t u : Tm} (h : u.errs = t.errs) : spoiled u a n = spoiled t a n := by rw [spoiled, h, spoiled]

theorem scrubGroup_spoiled (h : spoiled c.tm (4096 * g) 4096 = some a) : scrubGroup g c = spoilGroup a c := by rw [scrubGroup, h]

/-- A group without an uncorrectable error is corrected. -/
theorem scrubGroup_sound (h : spoiled c.tm (4096 * g) 4096 = none) :
    ∃ errs w, scrubGroup g c = { c with tm := { c.tm with errs := errs }, obs := { c.obs with serrc := w } } ∧
      errorsIn 1 (4096 * g) 4096 errs = [] := by
  rw [scrubGroup, h]
  dsimp only
  split
  · next hnone => exact ⟨_, _, rfl, List.isEmpty_iff.1 hnone⟩
  · exact ⟨_, _, rfl, errorsIn_dropRange _⟩

/-- A refresh that meets an uncorrectable error loses the group. -/
theorem refreshSite_spoiled (hv : (groupOf c g).valid = true) (h : spoiled c.tm (4096 * g) 4096 = some a) :
    (groupOf (refreshSite g c) g).valid = false ∧ (refreshSite g c).obs.serru = serruLogged 0 a c.obs.serru := by
  obtain ⟨-, herrs, -, -⟩ := refreshGroup_keeps hv
  rw [refreshSite, scrubGroup_spoiled ((spoiled_congr herrs).trans h), serru_spoilGroup, groupOf_spoilGroup, if_pos (div_of_spoiled h).symm]
  exact ⟨rfl, rfl⟩

/-- A refresh that meets none corrects what errors the group has. -/
theorem refreshSite_sound (hv : (groupOf c g).valid = true) (h : spoiled c.tm (4096 * g) 4096 = none) :
    groupOf (refreshSite g c) g = (groupOf c g).refreshed ∧ (refreshSite g c).tm.bytes = c.tm.bytes ∧ g ∈ (refreshSite g c).tm.written ∧
      errorsIn 1 (4096 * g) 4096 (refreshSite g c).tm.errs = [] := by
  obtain ⟨hbytes, herrs, hwritten, hgroup⟩ := refreshGroup_keeps hv
  obtain ⟨errs, w, heq, hnone⟩ := scrubGroup_sound (c := modTm (refreshGroup g) c) ((spoiled_congr herrs).trans h)
  rw [refreshSite, heq]
  exact ⟨hgroup, hbytes, hwritten, hnone⟩

/-- A refresh counts no TM event and changes no owner of the core. -/
theorem refreshSite_keeps (g : Nat) (c : Site) : (refreshSite g c).obs.tmCnt = c.obs.tmCnt ∧ (refreshSite g c).own = c.own := by
  cases h : spoiled (modTm (refreshGroup g) c).tm (4096 * g) 4096 with
  | some a =>
    rw [refreshSite, scrubGroup_spoiled h, spoilGroup, logSerru_eq]
    exact ⟨rfl, rfl⟩
  | none =>
    obtain ⟨errs, w, heq, -⟩ := scrubGroup_sound h
    rw [refreshSite, heq]
    exact ⟨rfl, rfl⟩

/-- A TM event counter of a rink on a core (10 R278). -/
def tmCount (r i : Nat) (c : Site) : BitVec 48 := c.obs.tmCnt.get 0 (5 * b2n (setOf c r) + i)

theorem tmCount_countTm (r i n : Nat) (c : Site) :
    tmCount r i (countTm r i n c) = BitVec.ofNat 48 (satAdd 48 (tmCount r i c).toNat n) := Table.get_put_same ..

/-- A core whose owners stand keeps the places of its counters. -/
theorem get_tmCnt_of_own {d : Site} (h : d.own = c.own) : d.obs.tmCnt.get 0 (5 * b2n (setOf c r) + i) = tmCount r i d := by
  rw [tmCount, setOf_congr h]

theorem tmCount_congr {d : Site} (hcnt : d.obs.tmCnt = c.obs.tmCnt) (hown : d.own = c.own) : tmCount r i d = tmCount r i c := by
  rw [tmCount, hcnt, setOf_congr hown, tmCount]

/-- The core whose refresh is counted, and charged to a context. -/
theorem refreshCounted_keeps (live : Nat → Bool) (x : Side) (e : Nat) (r i : Nat) (d : Site) :
    let c := modCtx x (addEnergy e) (countEvent live r 0x0B 1 (countTm r i 1 d))
    c.tm = d.tm ∧ c.obs.serru = d.obs.serru ∧ c.own = d.own ∧ c.obs.tmCnt = (countTm r i 1 d).obs.tmCnt := by
  dsimp only
  rw [modCtx_tm, modCtx_obs, modCtx_own]
  exact ⟨rfl, rfl, rfl, rfl⟩

/-- Where a core's performed refresh leaves its tile memory, SERRU and the counters. -/
theorem site_doRefresh (hq : groupRegion (site k s) g = some q) (hv : (groupOf (site k s) g).valid = true) :
    (site k (doRefresh k g s)).tm = (refreshSite g (site k s)).tm ∧
    (site k (doRefresh k g s)).obs.serru = (refreshSite g (site k s)).obs.serru ∧
    (site k (doRefresh k g s)).own = (site k s).own ∧
    (site k (doRefresh k g s)).obs.tmCnt =
      (countTm q.rink (if (groupOf (site k s) g).hold then 2 else 0) 1 (refreshSite g (site k s))).obs.tmCnt := by
  unfold doRefresh
  dsimp only
  rw [hq]
  dsimp only
  rw [if_neg (by simp [hv]), charge, site_modSite_same, site_modSite_same, ← (refreshSite_keeps g (site k s)).2]
  exact refreshCounted_keeps ..

theorem tmCount_doRefresh (hq : groupRegion (site k s) g = some q) (hv : (groupOf (site k s) g).valid = true)
    (hi : i = if (groupOf (site k s) g).hold then 2 else 0) :
    tmCount q.rink i (site k (doRefresh k g s)) = BitVec.ofNat 48 (satAdd 48 (tmCount q.rink i (site k s)).toNat 1) := by
  obtain ⟨-, -, hown, hcnt⟩ := site_doRefresh hq hv
  obtain ⟨hcnt', hown'⟩ := refreshSite_keeps g (site k s)
  subst hi
  rw [tmCount_congr hcnt (hown.trans hown'.symm), tmCount_countTm, tmCount_congr hcnt' hown']

/-! ## The elastic refresh (10 R271) -/

/-- The core as a queued refresh finds it: in Hold it needs no bank, else it takes its bank's beat. -/
def refreshPort (k g : Nat) (s : State) : State := if s.power.st = .hold then s else modSite k (takePort 2 g) s

theorem site_refreshPort (k g : Nat) (s : State) : ∃ l turn,
    site k (refreshPort k g s) = { site k s with landed := l, tm := { (site k s).tm with turn := turn } } := by
  unfold refreshPort
  split
  · exact ⟨_, _, rfl⟩
  · exact ⟨_, _, site_modSite_same ..⟩

/-- A queued refresh waits: nothing is queued, it has its beat already, or its bank is in use. -/
theorem execPolicyRefresh_waits (h : (groupOf (site k s) g).queued = none ∨ refreshPlaced (site k s) g = true ∨
    bankFree (site k s) g = false ∧ s.power.st ≠ .hold) : exec (.policyRefresh k g) s = .next s := by
  have hnot : ¬mayRefresh (site k s) (decide (s.power.st = .hold)) g = true := by
    rcases h with h | h | ⟨h, hst⟩
    · simp [mayRefresh, h]
    · simp [mayRefresh, h]
    · simp [mayRefresh, h, hst]
  exact congrArg Outcome.next (if_neg hnot)

theorem execPolicyRefresh_refreshes (hqueued : (groupOf (site k s) g).queued.isSome = true) (hv : (groupOf (site k s) g).valid = true)
    (hplaced : refreshPlaced (site k s) g = false) (hfree : bankFree (site k s) g = true ∨ s.power.st = .hold) :
    exec (.policyRefresh k g) s = .next (doRefresh k g (refreshPort k g s)) := by
  have hmay : mayRefresh (site k s) (decide (s.power.st = .hold)) g = true := by
    rcases hfree with h | h
    · simp [mayRefresh, hqueued, hv, hplaced, h]
    · simp [mayRefresh, hqueued, hv, hplaced, h]
  refine congrArg Outcome.next ((if_pos hmay).trans ?_)
  unfold refreshPort
  by_cases hst : s.power.st = .hold <;> simp [hst]

/-- A queued refresh is performed on the core as it stands, but for its bank's beat, and is counted for its region's rink. -/
theorem execPolicyRefresh_performs (hq : groupRegion (site k s) g = some q) (hqueued : (groupOf (site k s) g).queued.isSome = true)
    (hv : (groupOf (site k s) g).valid = true) (hplaced : refreshPlaced (site k s) g = false)
    (hfree : bankFree (site k s) g = true ∨ s.power.st = .hold) :
    ∃ t l turn, let d : Site := { site k s with landed := l, tm := { (site k s).tm with turn := turn } }
      exec (.policyRefresh k g) s = .next t ∧ (site k t).tm = (refreshSite g d).tm ∧ (site k t).obs.serru = (refreshSite g d).obs.serru ∧
      let place := 5 * b2n (setOf (site k s) q.rink) + if (groupOf (site k s) g).hold then 2 else 0
      (site k t).obs.tmCnt.get 0 place = BitVec.ofNat 48 (satAdd 48 ((site k s).obs.tmCnt.get 0 place).toNat 1) := by
  obtain ⟨l, turn, hport⟩ := site_refreshPort k g s
  have hq' : groupRegion (site k (refreshPort k g s)) g = some q := by rw [hport]; exact hq
  have hv' : (groupOf (site k (refreshPort k g s)) g).valid = true := by rw [hport]; exact hv
  obtain ⟨htm, hserru, hown, -⟩ := site_doRefresh hq' hv'
  have hcount := tmCount_doRefresh hq' hv' rfl
  rw [hport] at htm hserru hown hcount
  refine ⟨_, l, turn, execPolicyRefresh_refreshes hqueued hv hplaced hfree, htm, hserru, ?_⟩
  exact (get_tmCnt_of_own hown).trans hcount

/-! ## The forced refresh (10 R271) -/

/-- The refreshes of the group's bank that have their beats already are as many beats in which it may not come. -/
theorem execForcedRefresh_places (hq : groupRegion (site k s) g = some q) (hm : mustRefresh (site k s) g = true) (hst : s.power.st ≠ .hold) :
    exec (.forcedRefresh k g) s = .next (modSite k (placeRefresh g q.rink) s) := by
  show execForcedRefresh k g s = _
  unfold execForcedRefresh
  simp only [hq, hm, hst, Bool.not_true, Bool.false_eq_true, if_false]

end Refresh

end Sys2Proof.Machine

/-! # Storage errors of a core and of off-chip memory (18 R420, R421) -/

namespace Sys2Proof.Machine

open Host (Outcome)

section StorageErrors

variable {s : State} {k a n : Nat} {h x : Bool}

theorem site_softError (k a : Nat) (s : State) : site k (softError k a s) = spoilGroup a (site k s) := site_modSite_same ..

/-- The bytes of the other groups stay as a group is lost. -/
theorem read_spoilGroup {c : Site} {b : Nat} (hb : b / 4096 ≠ a / 4096) : (spoilGroup a c).tm.bytes.read b = c.tm.bytes.read b := by
  rw [tm_spoilGroup]
  exact (Mem.read_dropRange ..).trans (if_neg (by omega))

/-- A granule with an uncorrectable error cannot be read, with a key or without. -/
theorem offRead_spoiled (key : Option Nat) (ia : Nat) (herr : memErrors 2 a s ≠ []) : offRead s key a ia n = none :=
  if_pos (by rw [List.isEmpty_eq_false_iff.2 herr, Bool.not_false, Bool.or_true])

/-- The core once a slot that cannot be corrected is Free and the error logged. -/
def slotLost (x : Bool) (n : Nat) (c : Site) : Site := logSerru 1 (8 * b2n x + n)
  (modHalf x (fun v => { v with slots := v.slots.put n Slot.empty, slotErrs := v.slotErrs.setD 0 n 0 }) c)

theorem slotFailure_eq (k : Nat) (h x : Bool) (n : Nat) (s : State) :
    slotFailure k h (x, n) s = halfStop k h (.trap 0x2D 0) (modSite k (slotLost x n) s) := rfl

theorem slotAt_slotLost (x : Bool) (n : Nat) (c : Site) : slotAt (slotLost x n c) x n = Slot.empty := by
  have hhalf (p i : Nat) (d : Site) : halfOf (logSerru p i d) x = halfOf d x := by rw [logSerru_eq]; rfl
  rw [slotAt, slotLost, hhalf, halfOf_modHalf]
  exact Table.get_put_same ..

theorem serru_slotLost (x : Bool) (n : Nat) (c : Site) : (slotLost x n c).obs.serru = serruLogged 1 (8 * b2n x + n) c.obs.serru := by
  rw [slotLost, serru_logSerru]
  cases x <;> rfl

/-- A queued refresh that meets the errors of its group (18 R420). -/
theorem execPolicyRefresh_errors {q : Region} (hq : groupRegion (site k s) a = some q) (hqueued : (groupOf (site k s) a).queued.isSome = true)
    (hv : (groupOf (site k s) a).valid = true) (hplaced : refreshPlaced (site k s) a = false) (hfree : bankFree (site k s) a = true) :
    ∃ t, exec (.policyRefresh k a) s = .next t ∧
      (∀ e, spoiled (site k s).tm (4096 * a) 4096 = some e →
        (groupOf (site k t) a).valid = false ∧ (site k t).obs.serru = serruLogged 0 e (site k s).obs.serru) ∧
      (spoiled (site k s).tm (4096 * a) 4096 = none →
        (groupOf (site k t) a).valid = true ∧ errorsIn 1 (4096 * a) 4096 (site k t).tm.errs = []) := by
  obtain ⟨t, l, turn, ht, htm, hserru, -⟩ := execPolicyRefresh_performs hq hqueued hv hplaced (.inl hfree)
  refine ⟨t, ht, ?_⟩
  rw [groupOf, htm, hserru]
  refine ⟨fun e he => refreshSite_spoiled hv he, fun he => ?_⟩
  obtain ⟨hgroup, -, -, herrs⟩ := refreshSite_sound (c := { site k s with landed := l, tm := { (site k s).tm with turn := turn } }) hv he
  exact ⟨(congrArg Group.valid hgroup).trans hv, herrs⟩

end StorageErrors

/-- Settles O46: a read, a refresh and a slot each by what it does with the errors it meets. -/
theorem storageErrors : Obligations.StorageErrors := by
  unfold Obligations.StorageErrors
  intro s k a n h x c spoils t
  have hsite : site k t = spoilGroup a c := site_softError ..
  refine ⟨?check, rfl, rfl, rfl, ?lost, ?others, ?logged, ?bytes, ?corrects, fun q => execPolicyRefresh_errors, fun key ia => offRead_spoiled key ia,
    fun _ => ⟨_, slotFailure_eq .., ?free, ?slotLogged⟩⟩
  case check =>
    intro r g e hlim hn hbytes hplain he
    have hread := tmCheck_valid hlim hn hplain hbytes
    exact ⟨(hread true).trans (by rw [he]; rfl), hread false⟩
  case lost =>
    rw [hsite, groupOf_spoilGroup, if_pos rfl]
    rfl
  case others =>
    intro g hg
    rw [hsite, groupOf_spoilGroup, if_neg hg]
  case logged => exact (congrArg (fun d : Site => d.obs.serru) hsite).trans (serru_spoilGroup ..)
  case bytes =>
    intro b hb
    rw [hsite, read_spoilGroup hb]
  case corrects =>
    obtain ⟨tm, o, heq, hbytes, herrs, -⟩ := corrected_tm a n c
    refine ⟨(congrArg (fun d : Site => d.tm.bytes) heq).trans hbytes, (congrArg (fun d : Site => d.tm.errs) heq).trans herrs,
      serrc_corrected .., fun e he hv => ?_⟩
    rw [groupOf_corrected, if_pos ⟨e, he, rfl⟩]
    exact Group.queued_asked hv
  case free => rw [site_modSite_same, slotAt_slotLost]; rfl
  case slotLogged => exact (congrArg (fun d : Site => d.obs.serru) (site_modSite_same ..)).trans (serru_slotLost ..)

end Sys2Proof.Machine

/-! # Ticks, band changes and expiry (10 R264 to R266, R269, R271 to R273) -/

namespace Sys2Proof.Machine

open Host (Outcome)

/-! ## A tick (10 R264, R266) -/

section Ticks

variable {s : State} {k d j m : Nat} {c : Site}

/-- A change made once at each core of a list. -/
theorem site_foldl_modSite_once {f : Site → Site} {l : List Nat} (hl : l.Nodup) (j : Nat) (s : State) :
    site j (l.foldl (fun v k => modSite k f v) s) = if j ∈ l then f (site j s) else site j s := by
  induction l generalizing s with
  | nil => rfl
  | cons k l ih =>
    obtain ⟨hk, hl⟩ := List.nodup_cons.1 hl
    rw [List.foldl_cons, ih hl]
    by_cases hj : j = k
    · subst hj
      rw [if_neg hk, if_pos (List.mem_cons_self ..), site_modSite_same]
    · simp only [List.mem_cons, hj, false_or, site_modSite_ne hj]

theorem nodup_sitesOfDie (d : Nat) : (sitesOfDie d).Nodup := List.nodup_range.map fun _ _ h => Nat.add_right_cancel h

theorem mem_sitesOfDie : j ∈ sitesOfDie d ↔ 144 * d ≤ j ∧ j < 144 * d + 144 := by
  simp only [sitesOfDie, List.mem_map, List.mem_range]
  exact ⟨fun ⟨i, hi, h⟩ => by omega, fun h => ⟨j - 144 * d, by omega, by omega⟩⟩

/-- A core that has a beat in this cycle notes the tick. -/
def tickNoted (c : Site) : Site := modTm (fun t => { t with ticks := t.ticks + 1 }) c

/-- Where every core of the die has a beat, the tick falls in it. -/
theorem execTick_noted (h : ∀ j ∈ sitesOfDie d, keeps j s = true) :
    exec (.tick d) s = .next ((sitesOfDie d).foldl (fun v k => modSite k tickNoted v) s) :=
  congrArg Outcome.next (List.foldl_ext _ _ s fun _ k hk => if_pos (h k hk))

/-- A group after a tick: older unless its age was reset in this beat, its policy's refresh one tick longer queued. -/
def Group.ticked (reset : Bool) (v : Group) : Group :=
  if v.valid then { v with
    age := if reset then v.age else min 2047 (v.age + 1)
    queued := if v.soft then v.queued else v.queued.map (· + 1) }
  else v

theorem get_tickTm (skip : List Nat) (t : Tm) (m : Nat) :
    (tickTm skip t).groups.get Group.empty m = (t.groups.get Group.empty m).ticked (skip.contains m) := by
  refine (Table.get_mapVals _ rfl).trans ?_
  obtain ⟨valid, age, dirty, queued, hold, soft⟩ := t.groups.get Group.empty m
  cases valid with
  | false => rfl
  | true => cases soft <;> cases skip.contains m <;> rfl

/-- Nothing is expired: no policy applies. -/
theorem expireAll_none (h : ∀ q ∈ (site k s).tm.regions, ∀ m ∈ regionGroups q, expired (site k s) q m = false) : expireAll k s = s := by
  unfold expireAll
  refine List.foldlRecOn (motive := fun t => t = s) _ _ rfl fun t ht q hq => ?_
  have hnone : (regionGroups q).filter (expired (site k s) q) = [] :=
    List.filter_eq_nil_iff.2 fun m hm => Bool.eq_false_iff.1 (h q (List.mem_mergeSort.1 hq) m hm)
  subst ht
  dsimp only
  rw [hnone]
  rfl

theorem tm_forceRefreshes (c : Site) : (forceRefreshes c).tm = c.tm :=
  foldl_unchanged Site.tm (fun c g => by
    split
    · split <;> rfl
    · rfl) _ _

/-- One tick that leaves no group expired. -/
theorem tm_settleTicks (h1 : (site k s).tm.ticks = 1) (hnone : ∀ q ∈ (site k s).tm.regions, ∀ m ∈ regionGroups q,
      expired { site k s with tm := tickTm (site k s).tm.written { (site k s).tm with ticks := 0 } } q m = false) :
    (site k (settleTicks k s)).tm = tickTm (site k s).tm.written { (site k s).tm with ticks := 0 } := by
  have hsite : site k (modSite k (fun c => modTm (tickTm c.tm.written) c) (modSite k (modTm fun t => { t with ticks := 0 }) s)) =
      { site k s with tm := tickTm (site k s).tm.written { (site k s).tm with ticks := 0 } } := by
    rw [site_modSite_same, site_modSite_same]
    rfl
  unfold settleTicks
  dsimp only
  rw [h1, if_neg Nat.one_ne_zero, site_modSite_same, tm_forceRefreshes, List.range_one, List.foldl_cons, List.foldl_nil, tickSite,
    expireAll_none (by rw [hsite]; exact hnone), hsite]

end Ticks

/-! ## The fall of a band (10 R269) -/

section Bands

variable {s : State} {d : Nat}

/-- The die's band falls to its target. -/
def bandFallen (v : Die) : Die := { v with band := v.target, falling := false, target := 0, below := 0 }

theorem execBandFall_falls (h : (die d s).falling = true) (hb : 1000 ≤ (die d s).below) :
    ∃ t, exec (.bandFall d) s = .next t ∧ die d t = bandFallen (die d s) := by
  refine ⟨_, rfl, ?_⟩
  rw [die_modDie_same]
  exact if_pos ⟨h, hb⟩

theorem execBandFall_stays (h : ¬((die d s).falling = true ∧ 1000 ≤ (die d s).below)) :
    ∃ t, exec (.bandFall d) s = .next t ∧ die d t = die d s := by
  refine ⟨_, rfl, ?_⟩
  rw [die_modDie_same]
  exact if_neg h

end Bands

/-! ## Expiry (10 R271 to R273) -/

section Expiry

variable {s : State} {k g m : Nat} {q : Region} {gs : List Nat}

/-- The groups are queued for a refresh. -/
def queueGroups (frz : Bool) (gs : List Nat) (t : Tm) : Tm :=
  gs.foldl (fun t n => setGroup n ((t.groups.get Group.empty n).queuedFor frz) t) t

/-- The groups are lost. -/
def dropGroups (gs : List Nat) (t : Tm) : Tm := gs.foldl (fun t n => invalidate n t) t

theorem get_queueGroups (frz : Bool) (gs : List Nat) (t : Tm) (m : Nat) : (queueGroups frz gs t).groups.get Group.empty m =
    if m ∈ gs then (t.groups.get Group.empty m).queuedFor frz else t.groups.get Group.empty m :=
  get_foldl_groups (F := Group.queuedFor frz) t m (fun _ => rfl) (fun t n m => by
    rw [get_setGroup]
    split
    · next h => rw [h]
    · rfl) gs

theorem bytes_queueGroups (frz : Bool) (gs : List Nat) (t : Tm) : (queueGroups frz gs t).bytes = t.bytes :=
  foldl_unchanged (f := fun t n => setGroup n ((t.groups.get Group.empty n).queuedFor frz) t) Tm.bytes (fun _ _ => rfl) gs t

theorem get_dropGroups (gs : List Nat) (t : Tm) (m : Nat) : (dropGroups gs t).groups.get Group.empty m =
    if m ∈ gs then (t.groups.get Group.empty m).dropped else t.groups.get Group.empty m :=
  get_foldl_groups (F := Group.dropped) t m (fun _ => rfl) (fun t n m => get_invalidate t n m) gs

theorem execGroupExpiry_unexpired (hq : groupRegion (site k s) g = some q) (he : expired (site k s) q g = false) :
    exec (.groupExpiry k g) s = .next s := by
  show execGroupExpiry k g s = _
  simp only [execGroupExpiry, hq, he, Bool.false_eq_true, if_false]

theorem execGroupExpiry_expires (hq : groupRegion (site k s) g = some q) (he : expired (site k s) q g = true) :
    exec (.groupExpiry k g) s = .next (expireRegion k q ((regionGroups q).filter (expired (site k s) q)) s) := by
  show execGroupExpiry k g s = _
  simp only [execGroupExpiry, hq, he, if_true]

/-- Suspended, every expired group is queued for a freeze-hold refresh, whatever its policy. -/
theorem expireRegion_suspended (h : expirySuspended s (site k s) q.rink = true) :
    expireRegion k q gs s = modSite k (modTm (queueGroups true gs)) s := if_pos h

theorem expireRegion_refresh (h : expirySuspended s (site k s) q.rink = false) (hp : q.policy = .refresh) :
    expireRegion k q gs s = modSite k (modTm (queueGroups false gs)) s := by
  simp only [expireRegion, h, hp, Bool.false_eq_true, if_false]
  rfl

theorem expireRegion_drop (h : expirySuspended s (site k s) q.rink = false) (hp : q.policy = .drop) :
    expireRegion k q gs s = modSite k (countTm q.rink 3 gs.length) (modSite k (modTm (dropGroups gs)) s) := by
  simp only [expireRegion, h, hp, Bool.false_eq_true, if_false]
  rfl

/-- INFO of an expiry trap (10 R272). -/
def expiryInfo (gs : List Nat) : Nat := min gs.length 15 * 4096 + gs.foldl min (gs.headD 0)

/-- The core once the groups are lost, counted, and the fault latched. -/
def expiredSite (q : Region) (gs : List Nat) (c : Site) : Site :=
  latchTm (expiryRank (gs.foldl min (gs.headD 0))) 4 (4096 * gs.foldl min (gs.headD 0)) (countTm q.rink 4 gs.length (modTm (dropGroups gs) c))

theorem latchTm_eq (rank reason addr : Nat) (c : Site) : ∃ w a r, latchTm rank reason addr c =
    { c with obs := { c.obs with tmFault := w, tmFaultAt := a, tmFaultRank := r } } := by
  unfold latchTm
  split <;> exact ⟨_, _, _, rfl⟩

theorem expiredSite_keeps (q : Region) (gs : List Nat) (c : Site) :
    (expiredSite q gs c).tm = dropGroups gs c.tm ∧ (expiredSite q gs c).own = c.own ∧ ctxOf (expiredSite q gs c) = ctxOf c ∧
      tmCount q.rink 4 (expiredSite q gs c) = BitVec.ofNat 48 (satAdd 48 (tmCount q.rink 4 c).toNat gs.length) := by
  unfold expiredSite
  obtain ⟨w, a, r, h⟩ := latchTm_eq (expiryRank (gs.foldl min (gs.headD 0))) 4 (4096 * gs.foldl min (gs.headD 0))
    (countTm q.rink 4 gs.length (modTm (dropGroups gs) c))
  rw [h]
  exact ⟨rfl, rfl, rfl, tmCount_countTm q.rink 4 gs.length (modTm (dropGroups gs) c)⟩

/-- An expiry trap that waits in its context for the next instruction. -/
def expiryPended (gs : List Nat) (x : Ctx) : Ctx := { x with trap := { x.trap with pend := x.trap.pend ++ [⟨0x1A, expiryInfo gs, true⟩] } }

/-- An expiry under TRAP, in a free context that runs outside its handler (10 R272). -/
theorem expireRegion_trap (h : expirySuspended s (site k s) q.rink = false) (hp : q.policy = .trap)
    (hrun : (ctxOf (site k s) q.owner).ctl.running = true) (hh : (ctxOf (site k s) q.owner).trap.handler = false)
    (ht : (ctxOf (site k s) q.owner).ctl.timetabled = false) :
    expireRegion k q gs s = modSite k (modCtx q.owner (expiryPended gs)) (modSite k (expiredSite q gs) s) := by
  obtain ⟨-, -, hkept, -⟩ := expiredSite_keeps q gs (site k s)
  have hctx : ctxOf (site k (modSite k (expiredSite q gs) s)) q.owner = ctxOf (site k s) q.owner := by
    rw [site_modSite_same, hkept]
  rw [← hctx] at hrun hh ht
  have hregion : expireRegion k q gs s = expiryTrap k q (gs.foldl min (gs.headD 0)) gs.length (modSite k (expiredSite q gs) s) := by
    simp only [expireRegion, h, hp, Bool.false_eq_true, if_false, modSite_modSite]
    rfl
  rw [hregion, expiryTrap]
  simp only [hrun, hh, ht, Bool.not_true, Bool.or_self, Bool.false_eq_true, if_false]
  rfl

end Expiry

/-! ## What an expiry leaves at its core (10 R271, R272) -/

section ExpiryOutcome

variable {s : State} {k g : Nat} {q : Region}

/-- The groups of a region that have expired on a core. -/
def expiredGroups (c : Site) (q : Region) : List Nat := (regionGroups q).filter (expired c q)

/-- Expired groups that are queued: their bytes stand. -/
theorem expiry_queues (hq : groupRegion (site k s) g = some q) (he : expired (site k s) q g = true) {frz : Bool}
    (h : expireRegion k q (expiredGroups (site k s) q) s = modSite k (modTm (queueGroups frz (expiredGroups (site k s) q))) s) :
    ∃ t, exec (.groupExpiry k g) s = .next t ∧ (site k t).tm.bytes = (site k s).tm.bytes ∧ ∀ m, groupOf (site k t) m =
      if m ∈ expiredGroups (site k s) q then (groupOf (site k s) m).queuedFor frz else groupOf (site k s) m := by
  refine ⟨_, (execGroupExpiry_expires hq he).trans (congrArg Outcome.next h), ?_⟩
  rw [site_modSite_same]
  exact ⟨bytes_queueGroups .., fun m => get_queueGroups ..⟩

/-- Groups that are dropped are invalid, and the others stand. -/
theorem groupOf_dropped {c d : Site} {gs : List Nat} (h : d.tm = dropGroups gs c.tm) :
    (∀ m ∈ gs, (groupOf d m).valid = false ∧ (groupOf d m).age = 0) ∧ ∀ m, m ∉ gs → groupOf d m = groupOf c m := by
  have hgroup (m : Nat) : groupOf d m = if m ∈ gs then (groupOf c m).dropped else groupOf c m := by
    rw [groupOf, h]
    exact get_dropGroups ..
  refine ⟨fun m hm => ?_, fun m hm => (hgroup m).trans (if_neg hm)⟩
  rw [hgroup, if_pos hm]
  exact ⟨rfl, rfl⟩

end ExpiryOutcome

/-- Settles O45: ticks, bands, each policy of an expired region, and the refreshes that follow. -/
theorem lifetimeEvents : Obligations.LifetimeEvents := by
  unfold Obligations.LifetimeEvents
  intro s k d g c
  refine ⟨⟨_, rfl, fun hkeeps j hlo hhi => ?tick⟩, fun h1 hnone => ?settle, fun hf hb => ?falls, execBandFall_stays, fun q hq => ?region,
    execPolicyRefresh_waits⟩
  case tick =>
    have hnoted := execTick_noted (d := d) (s := s) fun j hj => hkeeps j (mem_sitesOfDie.1 hj).1 (mem_sitesOfDie.1 hj).2
    rw [Outcome.next.inj hnoted, site_foldl_modSite_once (nodup_sitesOfDie d), if_pos (mem_sitesOfDie.2 ⟨hlo, hhi⟩)]
    rfl
  case settle =>
    have htm := tm_settleTicks h1 hnone
    refine ⟨(congrArg Tm.bytes htm :), (congrArg Tm.ticks htm :), fun m => ?_⟩
    have hgroup : groupOf (site k (settleTicks k s)) m = (groupOf c m).ticked (c.tm.written.contains m) :=
      (congrArg (fun t : Tm => t.groups.get Group.empty m) htm).trans (get_tickTm ..)
    dsimp only
    rw [hgroup, Group.ticked]
    simp only [List.contains_iff_mem]
  case falls =>
    obtain ⟨t, ht, hdie⟩ := execBandFall_falls hf hb
    exact ⟨t, ht, by rw [hdie]; rfl, by rw [hdie]; rfl⟩
  case region =>
    intro gone x count queued dropped
    have hcount (v : State) (i : Nat) : count v i = (site k v).obs.tmCnt.get 0 (5 * b2n (setOf c q.rink) + i) := rfl
    have hdropped {v : State} (h : (site k v).tm = dropGroups gone c.tm) : dropped v := groupOf_dropped h
    refine ⟨execGroupExpiry_unexpired hq, fun he hs => expiry_queues hq he (expireRegion_suspended hs),
      fun he hs hp => expiry_queues hq he (expireRegion_refresh hs hp), fun he hs hp => ?drop, fun he hs hp hrun hh ht => ?trap,
      fun hqueued hv hplaced hfree hsound => ?refresh, fun hm hst => ?forced⟩
    case drop =>
      refine ⟨_, (execGroupExpiry_expires hq he).trans (congrArg Outcome.next (expireRegion_drop hs hp)), hdropped ?_, ?_⟩
      · rw [site_modSite_same, site_modSite_same]
        rfl
      · rw [hcount, site_modSite_same, site_modSite_same]
        exact tmCount_countTm q.rink 3 _ (modTm (dropGroups gone) c)
    case trap =>
      obtain ⟨htm, hown, hctx, hcnt⟩ := expiredSite_keeps q gone c
      refine ⟨_, (execGroupExpiry_expires hq he).trans (congrArg Outcome.next (expireRegion_trap hs hp hrun hh ht)), hdropped ?_, ?_, ?_⟩
      · rw [site_modSite_same, site_modSite_same, modCtx_tm]
        exact htm
      · rw [hcount, site_modSite_same, site_modSite_same, modCtx_obs]
        exact (get_tmCnt_of_own hown).trans hcnt
      · rw [site_modSite_same, site_modSite_same, ctxOf_modCtx, hctx]
        rfl
    case refresh =>
      obtain ⟨t, l, turn, ht, htm, -, hcnt⟩ := execPolicyRefresh_performs hq hqueued hv hplaced hfree
      obtain ⟨hgroup, hbytes, hwritten, -⟩ := refreshSite_sound (c := { c with landed := l, tm := { c.tm with turn := turn } }) hv hsound
      refine ⟨t, ht, ?_⟩
      rw [groupOf, htm]
      exact ⟨hgroup, hbytes, hwritten, hcnt⟩
    case forced =>
      refine ⟨_, execForcedRefresh_places hq hm hst, ?_⟩
      rw [site_modSite_same]
      exact ⟨rfl, rfl⟩

end Sys2Proof.Machine

/-! # Every step keeps the memories in canonical form (11 R281) -/

namespace Sys2Proof.Machine

open Host (Outcome)

/-! ## What keeps the form

One lemma for each function of the model that answers a state: most leave both memories alone, and the form of the one state is then the form of the other;
those that write a memory keep its form. The lemmas follow the order of the model's files. -/

/-- Only the two memories count: whatever else of the state is replaced, its form stays. -/
@[simp] theorem canonical_with {s : State} {cycle : Nat} {sites : Table Site} {rinks : Table Rink} {fns : Table Fn} {dies : Table Die} {windows : Table Window}
    {keys : Table Key} {memErrs metaErrs : Table Nat} {grants : Table (List (Nat × Nat))} {seals : Table Seal} {counters : Table CtrBlock} {views : Table View}
    {atomics : Table AtomBank} {moves : List Move} {migrations : List (Nat × Nat × Nat)} {power : Power} {boot : Boot} {devid : DevId} {rtab : Table PortEntry}
    {pcremap : PcRemap} {sent : List Out} {agenda : List Instr} {cur : Cur} {fresh : Nat} {stored synced : List (Nat × Nat)} {held : List HostRequest} :
    Canonical { cycle, sites, rinks, fns, dies, windows, keys, mem := s.mem, memErrs, metaErrs, grants, seals, counters, views, host := s.host, atomics, moves,
                migrations, power, boot, devid, rtab, pcremap, sent, agenda, cur, fresh, stored, synced, held } ↔ Canonical s := Iff.rfl

@[simp] theorem canonical_ite {c : Prop} [Decidable c] {a b : State} : Canonical (if c then a else b) ↔ if c then Canonical a else Canonical b := by
  split <;> rfl

/-- A fold keeps the form where each step of it does. -/
@[simp] theorem canonical_foldl {α : Type} {f : State → α → State} (hf : ∀ t a, Canonical t → Canonical (f t a)) {l : List α} {s : State} (hc : Canonical s) :
    Canonical (l.foldl f s) :=
  List.foldlRecOn l f hc fun t ht a _ => hf t a ht
@[simp] theorem canonical_foldl_iff {α : Type} {f : State → α → State} (hf : ∀ t a, Canonical (f t a) ↔ Canonical t) {l : List α} {s : State} :
    Canonical (l.foldl f s) ↔ Canonical s := by
  induction l generalizing s with
  | nil => exact Iff.rfl
  | cons a l ih => exact ih.trans (hf s a)

/-- A read that is one of two is in form where both are. -/
@[simp] theorem canonical_ite_snd {α : Type} {c : Prop} [Decidable c] {a b : α × State} :
    Canonical (if c then a else b).2 ↔ if c then Canonical a.2 else Canonical b.2 := by split <;> rfl

/-! ### The shared operations -/

@[simp] theorem canonical_setSite {k : Nat} {c : Site} {s : State} : Canonical (setSite k c s) ↔ Canonical s := Iff.rfl

@[simp] theorem canonical_modSite {k : Nat} {f : Site → Site} {s : State} : Canonical (modSite k f s) ↔ Canonical s := Iff.rfl

@[simp] theorem canonical_modRink {r : Nat} {f : Rink → Rink} {s : State} : Canonical (modRink r f s) ↔ Canonical s := Iff.rfl

@[simp] theorem canonical_modWork {r : Nat} {f : Work → Work} {s : State} : Canonical (modWork r f s) ↔ Canonical s := Iff.rfl

@[simp] theorem canonical_modRecov {r : Nat} {f : Recovery → Recovery} {s : State} : Canonical (modRecov r f s) ↔ Canonical s := Iff.rfl

@[simp] theorem canonical_modFn {v : Nat} {f : Fn → Fn} {s : State} : Canonical (modFn v f s) ↔ Canonical s := Iff.rfl

@[simp] theorem canonical_modDie {d : Nat} {f : Die → Die} {s : State} : Canonical (modDie d f s) ↔ Canonical s := Iff.rfl

@[simp] theorem canonical_modWindow {w : Nat} {f : Window → Window} {s : State} : Canonical (modWindow w f s) ↔ Canonical s := Iff.rfl

@[simp] theorem canonical_modMySite {f : Site → Site} {s : State} : Canonical (modMySite f s) ↔ Canonical s := Iff.rfl

@[simp] theorem canonical_modMyCtx {f : Ctx → Ctx} {s : State} : Canonical (modMyCtx f s) ↔ Canonical s := Iff.rfl

@[simp] theorem canonical_modMyVe {f : Ve → Ve} {s : State} : Canonical (modMyVe f s) ↔ Canonical s := Iff.rfl

@[simp] theorem canonical_modMyHalf {f : Half → Half} {s : State} : Canonical (modMyHalf f s) ↔ Canonical s := Iff.rfl

@[simp] theorem canonical_send {o : Out} {s : State} : Canonical (send o s) ↔ Canonical s := Iff.rfl

@[simp] theorem canonical_signalPf {s : State} : Canonical (signalPf s) ↔ Canonical s := Iff.rfl

@[simp] theorem canonical_countShared {d u i fn n : Nat} {s : State} : Canonical (countShared d u i fn n s) ↔ Canonical s := by simp [countShared]

@[simp] theorem canonical_countMem {fn ma i : Nat} {s : State} : Canonical (countMem fn ma i s) ↔ Canonical s := by simp [countMem]

theorem wf_bumpPin {leaf : Nat} {up : Bool} {m : Mem} (h : m.wf = true) : (bumpPin leaf up m).wf = true := Mem.wf_writeBytes _ _ h

@[simp] theorem canonical_pinPages {up : Bool} {ps : List Page} {s : State} (hc : Canonical s) : Canonical (pinPages up ps s) :=
  ⟨List.foldlRecOn (motive := fun m : Mem => m.wf = true) _ _ hc.1 fun _ h _ _ => wf_bumpPin h, hc.2⟩

@[simp] theorem canonical_releaseCommand {c : Command} {s : State} (hc : Canonical s) : Canonical (releaseCommand c s) := by simp [releaseCommand, hc]

@[simp] theorem canonical_softError {k addr : Nat} {s : State} : Canonical (softError k addr s) ↔ Canonical s := Iff.rfl

@[simp] theorem canonical_modLaunch {r lctr : Nat} {f : Launch → Launch} {s : State} : Canonical (modLaunch r lctr f s) ↔ Canonical s := Iff.rfl

@[simp] theorem canonical_showFreeze {r : Nat} {s : State} : Canonical (showFreeze r s) ↔ Canonical s := by
  unfold showFreeze
  split <;> simp

@[simp] theorem canonical_freezeLaunch {r k kind detail : Nat} {fatal : Bool} {l : Launch} {s : State} :
    Canonical (freezeLaunch r k kind detail fatal l s) ↔ Canonical s := by
  simp [freezeLaunch]

@[simp] theorem canonical_noteWrite {r src k g : Nat} {s : State} : Canonical (noteWrite r src k g s) ↔ Canonical s := by
  unfold noteWrite
  split <;> simp

@[simp] theorem canonical_recount {r : Nat} {s : State} : Canonical (recount r s) ↔ Canonical s := Iff.rfl

@[simp] theorem canonical_charge {k : Nat} {x : Side} {cls n : Nat} {s : State} : Canonical (charge k x cls n s) ↔ Canonical s := Iff.rfl

@[simp] theorem canonical_hostWrite {fn addr : Nat} {data : List Byte} {s : State} (hc : Canonical s) : Canonical (hostWrite fn addr data s) := by
  unfold hostWrite
  split
  · exact ⟨hc.1, Mem.wf_writeBytes _ _ hc.2⟩
  · exact hc

@[simp] theorem canonical_chargeStatic {r k : Nat} {s : State} : Canonical (chargeStatic r k s) ↔ Canonical s := Iff.rfl

@[simp] theorem canonical_closeSpan {r : Nat} {s : State} : Canonical (closeSpan r s) ↔ Canonical s := by
  unfold closeSpan
  split <;> simp

@[simp] theorem canonical_worldSwitch {r : Nat} {s : State} : Canonical (worldSwitch r s) ↔ Canonical s := by simp [worldSwitch]

@[simp] theorem canonical_journal {fn kind slot status prio seq jgraph jarg beats : Nat} {notify : Bool} {s : State} (hc : Canonical s) :
    Canonical (journal fn kind slot status prio seq jgraph jarg beats notify s) := by
  simp [journal, hc]

@[simp] theorem canonical_recordJob {fn slot status : Nat} {j : Job} {s : State} (hc : Canonical s) : Canonical (recordJob fn slot status j s) := by
  simp [recordJob, hc]

@[simp] theorem canonical_completeJob {r status : Nat} {s : State} (hc : Canonical s) : Canonical (completeJob r status s) := by
  unfold completeJob
  split <;> simp [hc]

@[simp] theorem canonical_settleJob {r : Nat} {s : State} (hc : Canonical s) : Canonical (settleJob r s) := by
  unfold settleJob
  split <;> simp [hc]

@[simp] theorem canonical_dropCollRuns {r : Nat} {s : State} : Canonical (dropCollRuns r s) ↔ Canonical s := Iff.rfl

@[simp] theorem canonical_dropAtomics {r : Nat} {s : State} : Canonical (dropAtomics r s) ↔ Canonical s := Iff.rfl

@[simp] theorem canonical_stopRink {r : Nat} {st : CtrState} {code : Nat} {s : State} (hc : Canonical s) : Canonical (stopRink r st code s) := by
  have hreleased : Canonical ((commandsOf r s).foldl (fun s c => releaseCommand c s) s) := canonical_foldl (fun _ _ => canonical_releaseCommand) hc
  have hunpinned := canonical_foldl (f := fun s l => pinPages false l.pins s) (fun _ _ => canonical_pinPages) (l := (rink r s).work.launches) hreleased
  simp [stopRink, hunpinned]

@[simp] theorem canonical_rewindSteps {r : Nat} {p : Checkpoint} {s : State} (hc : Canonical s) : Canonical (rewindSteps r p s) := by
  unfold rewindSteps
  dsimp only
  split <;> simp [hc]

@[simp] theorem canonical_endJob {r status : Nat} {st : CtrState} {s : State} (hc : Canonical s) : Canonical (endJob r status st s) := by simp [endJob, hc]

@[simp] theorem canonical_rewind {r : Nat} {s : State} (hc : Canonical s) : Canonical (rewind r s) := by
  unfold rewind
  dsimp only
  split <;> simp [hc]

@[simp] theorem canonical_elasticTraffic {k r : Nat} {s : State} : Canonical (elasticTraffic k r s) ↔ Canonical s := by
  unfold elasticTraffic
  dsimp only
  split <;> simp [freshWord]

@[simp] theorem canonical_fatalStop {r : Nat} {stat : Word} {others : List Nat} {s : State} (hc : Canonical s) : Canonical (fatalStop r stat others s) := by
  simp [fatalStop, hc]

@[simp] theorem canonical_takeTrap {after : Bool} {code info : Nat} {fatalToo : Bool} {s : State} (hc : Canonical s) :
    Canonical (takeTrap after code info fatalToo s) := by
  unfold takeTrap
  dsimp only
  (repeat' split) <;> simp [hc]

@[simp] theorem canonical_asCtx {k : Nat} {x : Side} {f : State → State} {s : State} (hf : ∀ t, Canonical t → Canonical (f t)) (hc : Canonical s) :
    Canonical (asCtx k x f s) := canonical_with.2 (hf _ (canonical_with.2 hc))

@[simp] theorem canonical_engineTrap {stream code info : Nat} {timetabled : Bool} {r : Nat} {s : State} (hc : Canonical s) :
    Canonical (engineTrap stream code info timetabled r s) := by
  unfold engineTrap
  dsimp only
  (repeat' split) <;> simp [hc]

@[simp] theorem canonical_latchWalk {fn addr : Nat} {s : State} : Canonical (latchWalk fn addr s) ↔ Canonical s := Iff.rfl

@[simp] theorem canonical_ccStop {h : Hit} {s : State} (hc : Canonical s) : Canonical (ccStop h s) := by
  unfold ccStop
  split <;> simp [hc]

@[simp] theorem canonical_engineStop {h : Nat} {hit : Hit} {s : State} (hc : Canonical s) : Canonical (engineStop h hit s) := by
  unfold engineStop
  split <;> simp [hc]

@[simp] theorem canonical_ccWord {hits : List (Option Hit)} {occ : Nat} {effect : State → State} {s : State} (he : Canonical (effect s)) (hc : Canonical s) :
    Canonical (ccWord hits occ effect s) := by
  unfold ccWord
  split <;> simp [he, hc]

@[simp] theorem canonical_scalarWord {srcs : List (BitVec 5)} {d : BitVec 5} {lat : Nat} {v : Word} {s : State} (hc : Canonical s) :
    Canonical (scalarWord srcs d lat v s) := by
  simp [scalarWord, hc]

/-! ### Translation and off-chip bytes -/

@[simp] theorem canonical_clearFrame64 {f : Nat} {s : State} (hc : Canonical s) : Canonical (clearFrame64 f s) := by
  refine ⟨clearFrame64_wf hc.1, ?_⟩
  unfold clearFrame64
  split <;> exact hc.2

@[simp] theorem canonical_grantFrame {slot ma : Nat} {s : State} (hc : Canonical s) : Canonical (grantFrame slot ma s) := by simp [grantFrame, hc]

@[simp] theorem canonical_useFrame {key : Option Nat} {ma : Nat} {s : State} (hc : Canonical s) : Canonical (useFrame key ma s) := by
  unfold useFrame
  split <;> simp [hc]

@[simp] theorem canonical_treadTrees {ma n : Nat} {s : State} : Canonical (treadTrees ma n s) ↔ Canonical s := by simp [treadTrees]

@[simp] theorem canonical_bumpCounter {slot ma ia : Nat} {s : State} : Canonical (bumpCounter slot ma ia s) ↔ Canonical s := Iff.rfl

@[simp] theorem canonical_viewRead {r ia : Nat} {latest : List Byte} {s : State} : Canonical (viewRead r ia latest s).2 ↔ Canonical s := by
  unfold viewRead
  dsimp only
  split <;> rfl

@[simp] theorem canonical_viewWrite {r ia : Nat} {before after : List Byte} {s : State} : Canonical (viewWrite r ia before after s) ↔ Canonical s := by
  simp [viewWrite]

@[simp] theorem canonical_viewPublish {w : Nat} {s : State} : Canonical (viewPublish w s) ↔ Canonical s := Iff.rfl

@[simp] theorem canonical_viewSync {r w : Nat} {s : State} : Canonical (viewSync r w s) ↔ Canonical s := Iff.rfl

@[simp] theorem canonical_countAccess {r space ma ia i : Nat} {s : State} : Canonical (countAccess r space ma ia i s) ↔ Canonical s := by simp [countAccess]

@[simp] theorem canonical_countCorrected {r ma : Nat} {s : State} : Canonical (countCorrected r ma s) ↔ Canonical s := by simp [countCorrected]

/-- What a pair's first component is does not matter. -/
theorem canonical_of_snd {α : Type} {p : α × State} {a : α} {t : State} (h : p = (a, t)) (hp : Canonical p.2) : Canonical t := by
  rw [h] at hp
  exact hp

theorem canonical_of_rinkSees {r : Nat} {key : Option Nat} {ma ia n : Nat} {s : State} {x : List Byte × State} (hc : Canonical s)
    (h : rinkSees r key ma ia n s = some x) : Canonical x.2 := by
  have hu : Canonical (useFrame key ma s) := canonical_useFrame hc
  unfold rinkSees at h
  dsimp only at h
  split at h
  · split at h
    · cases h
    · cases h
      exact canonical_viewRead.2 hu
  · obtain ⟨b, -, rfl⟩ := Option.map_eq_some_iff.1 h
    exact hu

theorem canonical_of_rinkRead {r space : Nat} {key : Option Nat} {ma ia n : Nat} {s : State} {x : List Byte × State} (hc : Canonical s)
    (h : rinkRead r space key ma ia n s = some x) : Canonical x.2 := by
  obtain ⟨y, hy, rfl⟩ := Option.map_eq_some_iff.1 h
  simpa using canonical_of_rinkSees hc hy

@[simp] theorem canonical_guardLeaves {ma : Nat} {data : List Byte} {s : State} : Canonical (guardLeaves ma data s).2 ↔ Canonical s := by
  unfold guardLeaves
  dsimp only
  split <;> rfl

/-- A write leaves both memories in form: what it puts there goes through `Mem.writeBytes`. -/
theorem canonical_of_offWrite {key : Option Nat} {ma ia : Nat} {data : List Byte} {s t : State} (hc : Canonical s)
    (h : offWrite key ma ia data s = some t) : Canonical t := by
  unfold offWrite at h
  split at h
  · cases h
  · cases key with
    | some k =>
      cases h
      obtain ⟨hm, hh⟩ : Canonical (grantFrame k ma s) := canonical_grantFrame hc
      exact canonical_bumpCounter.2 ⟨Mem.wf_writeBytes _ _ hm, hh⟩
    | none =>
      cases h
      have hg : Canonical (guardLeaves ma data (treadTrees ma data.length s)).2 := canonical_guardLeaves.2 (canonical_treadTrees.2 hc)
      refine ⟨Mem.wf_writeBytes _ _ ?_, hg.2⟩
      split
      · exact Mem.wf_writeBytes _ _ hc.1
      · exact hc.1

theorem canonical_of_rinkPuts {r : Nat} {key : Option Nat} {ma ia : Nat} {data : List Byte} {s t : State} (hc : Canonical s)
    (h : rinkPuts r key ma ia data s = some t) : Canonical t := by
  unfold rinkPuts at h
  dsimp only at h
  split at h
  · cases h
  · next u hu =>
    have hw := canonical_of_offWrite hc hu
    split at h
    · cases h; exact canonical_viewWrite.2 hw
    · cases h; exact hw

@[simp] theorem canonical_noteStored {ma n : Nat} {s : State} : Canonical (noteStored ma n s) ↔ Canonical s := Iff.rfl

theorem canonical_of_rinkWrite {r space : Nat} {key : Option Nat} {ma ia : Nat} {data : List Byte} {s t : State} (hc : Canonical s)
    (h : rinkWrite r space key ma ia data s = some t) : Canonical t := by
  obtain ⟨u, hu, rfl⟩ := Option.map_eq_some_iff.1 h
  simpa using canonical_of_rinkPuts hc hu

@[simp] theorem canonical_countWalk {r space cursor : Nat} {s : State} : Canonical (countWalk r space cursor s) ↔ Canonical s := by simp [countWalk]

@[simp] theorem canonical_countPages {r : Nat} {ps : List Page} {s : State} : Canonical (countPages r ps s) ↔ Canonical s := by simp [countPages]

@[simp] theorem canonical_walkCC {s : State} {r space va : Nat} {writes : Bool} : Canonical (walkCC s r space va writes).2 ↔ Canonical s := by
  unfold walkCC
  split <;> simp

@[simp] theorem canonical_translateCC {s : State} {r space va : Nat} {writes : Bool} : Canonical (translateCC s r space va writes).2 ↔ Canonical s := by
  unfold translateCC
  split
  · exact canonical_walkCC
  · dsimp only [freshBool]
    split
    · simp
    · split <;> simp

/-! ### Guest memory -/

theorem canonical_of_guestPiece {r space : Nat} {p : Nat × Nat} {s : State} {x : List Byte × State} (hc : Canonical s)
    (h : guestPiece r space p s = .ok x) : Canonical x.2 := by
  unfold guestPiece at h
  dsimp only at h
  split at h
  · cases h
  · split at h
    · cases h
    · split at h
      · cases h
      · next hr =>
        cases h
        exact canonical_of_rinkRead (canonical_countWalk.2 hc) hr

theorem canonical_of_guestPieces {r space : Nat} {ps : List (Nat × Nat)} {s : State} {x : List Byte × State} (hc : Canonical s)
    (h : guestPieces r space ps s = .ok x) : Canonical x.2 := by
  induction ps generalizing s x with
  | nil => cases h; exact hc
  | cons p ps ih =>
    simp only [guestPieces] at h
    split at h
    · cases h
    · next h1 =>
      split at h
      · cases h
      · next h2 =>
        cases h
        exact (ih (canonical_of_guestPiece hc h1) h2 :)

theorem canonical_of_guestRead {r space va n : Nat} {s : State} {x : List Byte × State} (hc : Canonical s) (h : guestRead r space va n s = .ok x) :
    Canonical x.2 := canonical_of_guestPieces hc h

theorem canonical_of_guestPut {r space : Nat} {p : Nat × Nat} {data : List Byte} {s t : State} (hc : Canonical s)
    (h : guestPut r space p data s = .ok t) : Canonical t := by
  unfold guestPut at h
  dsimp only at h
  split at h
  · cases h
  · split at h
    · cases h
    · split at h
      · cases h
      · next hw =>
        cases h
        exact canonical_of_rinkWrite (canonical_countWalk.2 hc) hw

theorem canonical_of_guestPuts {r space : Nat} {ps : List (Nat × Nat)} {data : List Byte} {s t : State} (hc : Canonical s)
    (h : guestPuts r space ps data s = .ok t) : Canonical t := by
  induction ps generalizing s data with
  | nil => cases h; exact hc
  | cons p ps ih =>
    simp only [guestPuts] at h
    split at h
    · cases h
    · next h1 => exact ih (canonical_of_guestPut hc h1) h

theorem canonical_of_guestWrite {r space va : Nat} {data : List Byte} {s t : State} (hc : Canonical s) (h : guestWrite r space va data s = .ok t) :
    Canonical t := canonical_of_guestPuts hc h

/-! ### Control -/

@[simp] theorem canonical_transfer {hits : List (Option Hit)} {taken : Bool} {target : Word} {effect : Ctx → Ctx} {s : State} (hc : Canonical s) :
    Canonical (transfer hits taken target effect s) := by
  unfold transfer
  dsimp only
  split <;> simp [hc]

/-! ### Loads and stores -/

@[simp] theorem canonical_resolve {r space va n : Nat} {ld st : Bool} {s : State} : Canonical (resolve r space va n ld st s).2 ↔ Canonical s := by
  have ht := canonical_translateCC (s := s) (r := r) (space := space) (va := va) (writes := st)
  unfold resolve
  split
  · split
    · rfl
    · dsimp only
      split <;> rfl
  · split
    · rfl
    · dsimp only
      split <;> rfl
  · split <;> rfl
  · split <;> rfl
  · split <;> next h => rw [h] at ht; exact ht

@[simp] theorem canonical_issueTimed {m : Mem1} {k addr : Nat} {s : State} (hc : Canonical s) : Canonical (issueTimed m k addr s) := by
  unfold issueTimed
  dsimp only
  (repeat' split) <;> simp [hc]

@[simp] theorem canonical_issueFree {m : Mem1} {space va : Nat} {t : Target} {s : State} (hc : Canonical s) : Canonical (issueFree m space va t s) := by
  simp [issueFree, hc]

@[simp] theorem canonical_memWord {regs : List (Option Hit)} {cap : Cap} {va : Nat} {m : Mem1} {stc : Bool} {s : State} (hc : Canonical s) :
    Canonical (memWord regs cap va m stc s) := by
  unfold memWord
  dsimp only
  split
  · simp [hc]
  · split
    · next h => simp [canonical_of_snd h (canonical_resolve.2 hc)]
    · next h =>
      have hr := canonical_of_snd h (canonical_resolve.2 hc)
      split <;> simp [hr]

/-! ### Images -/

@[simp] theorem canonical_enqueue {q : Nat} {ws : List (BitVec 16)} {bs : List Base} {image : Nat} {s : State} (hc : Canonical s) :
    Canonical (enqueue q ws bs image s) := by
  simp [enqueue, hc]

/-! ### Regions -/

@[simp] theorem canonical_waxStop {h : Hit} {s : State} (hc : Canonical s) : Canonical (waxStop h s) := by
  unfold waxStop
  split <;> simp [hc]

/-! ### Ends -/

@[simp] theorem canonical_modCollEngine {d e : Nat} {f : CollEngine → CollEngine} {s : State} : Canonical (modCollEngine d e f s) ↔ Canonical s := Iff.rfl

@[simp] theorem canonical_modColl {r n : Nat} {f : Coll → Coll} {s : State} : Canonical (modColl r n f s) ↔ Canonical s := Iff.rfl

@[simp] theorem canonical_mergeAttached {o : CollOp} {s : State} : Canonical (mergeAttached o s) ↔ Canonical s := Iff.rfl

@[simp] theorem canonical_endOp {r n status detail : Nat} {o : CollOp} {s : State} : Canonical (endOp r n status detail o s) ↔ Canonical s := by simp [endOp]

@[simp] theorem canonical_endDetached {r : Nat} {which : CollOp → Bool} {s : State} : Canonical (endDetached r which s) ↔ Canonical s := by simp [endDetached]

@[simp] theorem canonical_cancelColls {r : Nat} {job : Option (Nat × Nat)} {s : State} : Canonical (cancelColls r job s) ↔ Canonical s := by
  simp [cancelColls]

/-! ### Jobs and graphs -/

theorem canonical_of_writeCodes {r jsave : Nat} {old : List (Nat × Nat × Nat × Nat × Nat)} {ds : List Saved} {s t : State} (hc : Canonical s)
    (h : writeCodes r jsave old ds s = .ok t) : Canonical t := by
  induction ds generalizing s with
  | nil => cases h; exact hc
  | cons d ds ih =>
    simp only [writeCodes] at h
    split at h
    · exact ih hc h
    · split at h
      · cases h
      · next hw => exact ih (canonical_modSite.2 (canonical_of_guestWrite hc hw)) h

@[simp] theorem canonical_scrubRegions {r : Nat} {s : State} : Canonical (scrubRegions r s) ↔ Canonical s := by simp [scrubRegions]

theorem canonical_of_writeImage {r : Nat} {j : RunJob} {pos slive alive : Nat} {x : Ctx} {s t : State} (hc : Canonical s)
    (h : writeImage r j pos slive alive x s = .ok t) : Canonical t := by
  unfold writeImage at h
  dsimp only at h
  split at h
  · cases h
  · next hw => exact canonical_of_writeCodes (canonical_of_guestWrite (canonical_scrubRegions.2 hc) hw) h

@[simp] theorem canonical_dropRegions {r : Nat} {s : State} : Canonical (dropRegions r s) ↔ Canonical s := by simp [dropRegions]

theorem canonical_of_restoreRegion {r jsave : Nat} {b : List Byte} {o : Nat} {s t : State} (hc : Canonical s)
    (h : restoreRegion r jsave b o s = .ok t) : Canonical t := by
  unfold restoreRegion at h
  dsimp only at h
  split at h
  · cases h; simp [hc]
  · split at h
    · cases h; simp [hc]
    · split at h
      · cases h; simp [hc]
      · split at h
        · cases h
        · next hr =>
          cases h
          simpa using canonical_of_guestRead (canonical_modSite.2 hc) hr

theorem canonical_of_restoreRegions {r jsave : Nat} {b : List Byte} {is : List Nat} {s t : State} (hc : Canonical s)
    (h : restoreRegions r jsave b is s = .ok t) : Canonical t := by
  induction is generalizing s with
  | nil => cases h; exact hc
  | cons i is ih =>
    simp only [restoreRegions] at h
    split at h
    · cases h
    · next h1 => exact ih (canonical_of_restoreRegion hc h1) h

@[simp] theorem canonical_refuseJob {r slot status : Nat} {j : Job} {s : State} (hc : Canonical s) : Canonical (refuseJob r slot status j s) := by
  simp [refuseJob, hc]

@[simp] theorem canonical_cancelHead {r slot : Nat} {j : Job} {s : State} (hc : Canonical s) : Canonical (cancelHead r slot j s) := by simp [cancelHead, hc]

theorem canonical_of_startFails {r slot : Nat} {j : Job} {g : Graph} {restore : Bool} {k : Nat} {x : Side} {e : Hit} {s t : State} (hc : Canonical s)
    (h : startFails r slot j g restore k x e s = some t) : Canonical t := by
  unfold startFails at h
  split at h
  · cases h
  · split at h
    · split at h <;> cases h <;> simp +contextual [hc]
    · cases h; simp [hc]

@[simp] theorem canonical_beginJob {r slot : Nat} {j : Job} {g : Graph} {gates : List GateEntry} {k : Nat} {x : Side} {f : Ctx → Ctx} {rtot :
    Table (BitVec 48)} {s : State} : Canonical (beginJob r slot j g gates k x f rtot s) ↔ Canonical s := by
  simp [beginJob]

theorem canonical_of_resumeJob {r slot : Nat} {j : Job} {g : Graph} {gates : List GateEntry} {k : Nat} {x : Side} {s t : State} (hc : Canonical s)
    (h : resumeJob r slot j g gates k x s = some t) : Canonical t := by
  unfold resumeJob at h
  dsimp only at h
  split at h
  · exact canonical_of_startFails hc h
  · next h1 =>
    have hc1 := canonical_of_guestRead hc h1
    split at h
    · exact canonical_of_startFails hc1 h
    · next h2 =>
      have hc2 := canonical_of_guestRead hc1 h2
      split at h
      · exact canonical_of_startFails hc2 h
      · next h3 =>
        cases h
        simpa using canonical_of_restoreRegions (canonical_modWork.2 hc2) h3

theorem canonical_of_startJob {r slot : Nat} {j : Job} {k : Nat} {x : Side} {s t : State} (hc : Canonical s) (h : startJob r slot j k x s = some t) :
    Canonical t := by
  unfold startJob at h
  dsimp only at h
  split at h
  · exact canonical_of_startFails hc h
  · next h1 =>
    have hc1 := canonical_of_guestRead hc h1
    split at h
    · cases h; exact canonical_refuseJob hc1
    · split at h
      · exact canonical_of_startFails hc1 h
      · next h2 =>
        have hc2 := canonical_of_guestRead hc1 h2
        split at h
        · exact canonical_of_resumeJob hc2 h
        · cases h; simp [hc2]

theorem canonical_of_grantJob {r : Nat} {s t : State} (hc : Canonical s) (h : grantJob r s = some t) : Canonical t := by
  unfold grantJob at h
  dsimp only at h
  split at h
  · split at h
    · cases h; simp [hc]
    · split at h
      · cases h; simp [hc]
      · exact canonical_of_startJob (canonical_modWork.2 hc) h
  · cases h

@[simp] theorem canonical_scheduleNext {r : Nat} {s : State} (hc : Canonical s) : Canonical (scheduleNext r s) := by
  unfold scheduleNext
  split
  · cases hg : grantJob r s with
    | none => exact hc
    | some t => exact canonical_of_grantJob hc hg
  · exact hc

/-! ### Work words -/

@[simp] theorem canonical_acceptLaunch {r n addr : Nat} {b : List Byte} {x : Ctx} {s : State} : Canonical (acceptLaunch r n addr b x s) ↔ Canonical s := Iff.rfl

@[simp] theorem canonical_rejectLaunch {r n addr st : Nat} {s : State} : Canonical (rejectLaunch r n addr st s) ↔ Canonical s := Iff.rfl

theorem canonical_of_recordRead {r : Nat} {cap : Cap} {at' n : Nat} {s : State} {x : List Byte × State} (hc : Canonical s)
    (h : recordRead r cap at' n s = .ok x) : Canonical x.2 := by
  unfold recordRead at h
  split at h
  · split at h
    · cases h
    · cases h; simp [hc]
  · exact canonical_of_guestRead hc h

@[simp] theorem canonical_finishLaunch {d : BitVec 5} {cap : Cap} {covers : Bool} {b : List Byte} {s0 s : State} (hc0 : Canonical s0) (hc : Canonical s) :
    Canonical (finishLaunch d cap covers b s0 s) := by
  unfold finishLaunch
  dsimp only
  split
  · simp [hc]
  · split
    · simp [hc0]
    · split <;> split <;> simp [hc]

@[simp] theorem canonical_leaveRegions {r : Nat} {l : Launch} {s : State} : Canonical (leaveRegions r l s) ↔ Canonical s := by simp [leaveRegions]

@[simp] theorem canonical_scrambleSite {r k : Nat} {l : Launch} {s : State} : Canonical (scrambleSite r k l s) ↔ Canonical s := by simp [scrambleSite]

/-- The pages that a rink's commands on a site hold are given back. -/
theorem canonical_releaseUnits {r : Nat} {us : List UnitRun} {s : State} (hc : Canonical s) :
    Canonical (us.foldl (fun s u => (unitCommands r u (site u.site s)).foldl (fun s m => releaseCommand m s) s) s) :=
  canonical_foldl (fun _ _ ht => canonical_foldl (fun _ _ => canonical_releaseCommand) ht) hc

@[simp] theorem canonical_cancelLaunch {r : Nat} {l : Launch} {s : State} (hc : Canonical s) : Canonical (cancelLaunch r l s) := by
  simp [cancelLaunch, canonical_releaseUnits hc]

@[simp] theorem canonical_cancelWork {r level : Nat} {x : Ctx} {s : State} (hc : Canonical s) : Canonical (cancelWork r level x s) := by
  simp +contextual [cancelWork, hc]

@[simp] theorem canonical_openSpan {k : Nat} {x : Side} {s : State} : Canonical (openSpan k x s) ↔ Canonical s := by simp [openSpan]

@[simp] theorem canonical_endGraph {r status : Nat} {s : State} (hc : Canonical s) : Canonical (endGraph r status s) := by simp [endGraph, hc]

@[simp] theorem canonical_clearEngines {r : Nat} {s : State} : Canonical (clearEngines r s) ↔ Canonical s := by simp [clearEngines]

@[simp] theorem canonical_setPattern {d c : Nat} {pat : BitVec 16} {lock : Bool} {s : State} : Canonical (setPattern d c pat lock s) ↔ Canonical s := by
  simp [setPattern]

@[simp] theorem canonical_applyPattern {r : Nat} {s : State} : Canonical (applyPattern r s) ↔ Canonical s := by simp [applyPattern]

@[simp] theorem canonical_gateStep {r : Nat} {p : Bool} {g : GateEntry} {pos : Word} {x : Ctx} {s : State} : Canonical (gateStep r p g pos x s) ↔ Canonical s := by
  simp [gateStep]

@[simp] theorem canonical_haltSeq {r : Nat} {s : State} : Canonical (haltSeq r s) ↔ Canonical s := by
  unfold haltSeq
  split <;> simp

theorem canonical_of_saveJob {r slive alive pos : Nat} {x : Ctx} {s t : State} (hc : Canonical s) (h : saveJob r slive alive pos x s = some t) :
    Canonical t := by
  unfold saveJob at h
  dsimp only at h
  split at h
  · cases h; exact hc
  · split at h
    · split at h
      · cases h
      · cases h; simp [hc]
    · next hw =>
      cases h
      simpa using canonical_of_writeImage (canonical_worldSwitch.2 hc) hw

theorem canonical_of_preempt {r : Nat} {g : GateEntry} {pos : Word} {s t : State} (hc : Canonical s) (h : preempt r g pos s = some t) : Canonical t := by
  unfold preempt at h
  split at h
  · exact canonical_of_saveJob hc h
  · cases h; exact hc

@[simp] theorem canonical_takeSusp {r : Nat} {s : State} : Canonical (takeSusp r s) ↔ Canonical s := Iff.rfl

@[simp] theorem canonical_cancelJob {r : Nat} {s : State} (hc : Canonical s) : Canonical (cancelJob r s) := by simp [cancelJob, hc]

theorem canonical_of_followJob {r slot : Nat} {s t : State} (hc : Canonical s) (h : followJob r slot s = some t) : Canonical t := by
  unfold followJob at h
  split at h
  · split at h
    · cases h; exact hc
    · split at h
      · cases h; simp [hc]
      · exact canonical_of_startJob hc h
  · cases h; exact hc

theorem canonical_of_gateDecision {r : Nat} {g : GateEntry} {pos : Word} {s t : State} (hc : Canonical s) (h : gateDecision r g pos s = some t) :
    Canonical t := by
  unfold gateDecision at h
  dsimp only at h
  split at h
  · split at h
    · cases h; simp [hc]
    · obtain ⟨u, hu, rfl⟩ := Option.map_eq_some_iff.1 h
      simpa using canonical_of_preempt hc hu
  · repeat' split at h
    · cases h; simp [hc]
    · cases h; simp [hc]
    · cases h; simp [hc]
    · cases h; simp [hc]
    · obtain ⟨u, hu, ht⟩ := Option.bind_eq_some_iff.1 h
      exact canonical_of_followJob (canonical_of_preempt (canonical_modWork.2 hc) hu) ht
    · cases h; simp [hc]

/-! ### System words -/

@[simp] theorem canonical_triggerSite {from' k : Nat} {s : State} : Canonical (triggerSite from' k s) ↔ Canonical s := Iff.rfl

@[simp] theorem canonical_triggerDies {from' : Nat} {s : State} : Canonical (triggerDies from' s) ↔ Canonical s := Iff.rfl

@[simp] theorem canonical_triggerRink {from' r : Nat} {s : State} : Canonical (triggerRink from' r s) ↔ Canonical s := by simp [triggerRink]

/-! ### Units -/

@[simp] theorem canonical_forgetAtomics {u : UnitRun} {s : State} : Canonical (forgetAtomics u s) ↔ Canonical s := Iff.rfl

@[simp] theorem canonical_allocUnits {r : Nat} {l : Launch} {us : List UnitRun} {s : State} : Canonical (allocUnits r l us s) ↔ Canonical s := by
  induction us generalizing s with
  | nil => rfl
  | cons u us ih =>
    simp only [allocUnits]
    split
    · exact ih
    · split
      · exact ih
      · rw [ih]; simp

@[simp] theorem canonical_pinLaunch {r : Nat} {l : Launch} {s : State} (hc : Canonical s) : Canonical (pinLaunch r l s) := by
  unfold pinLaunch
  split <;> simp [hc]

@[simp] theorem canonical_setCtrState {r lctr : Nat} {st : CtrState} {s : State} : Canonical (setCtrState r lctr st s) ↔ Canonical s := Iff.rfl

@[simp] theorem canonical_beginUnit {r lctr : Nat} {u : UnitRun} {s : State} : Canonical (beginUnit r lctr u s) ↔ Canonical s := Iff.rfl

@[simp] theorem canonical_mergeEnergy {r k : Nat} {x : Side} {s : State} : Canonical (mergeEnergy r k x s) ↔ Canonical s := by
  unfold mergeEnergy
  split <;> simp

@[simp] theorem canonical_completeLaunch {r : Nat} {l : Launch} {s : State} (hc : Canonical s) : Canonical (completeLaunch r l s) := by
  have hunpinned : Canonical (pinPages false l.pins s) := canonical_pinPages hc
  exact canonical_scheduleNext (canonical_settleJob (by simp [hunpinned]))

/-! ### Lifetimes and trace -/

@[simp] theorem canonical_expiryTrap {k : Nat} {g : Region} {first n : Nat} {s : State} (hc : Canonical s) : Canonical (expiryTrap k g first n s) := by
  simp +contextual [expiryTrap, hc]

@[simp] theorem canonical_expireRegion {k : Nat} {g : Region} {gs : List Nat} {s : State} (hc : Canonical s) : Canonical (expireRegion k g gs s) := by
  unfold expireRegion
  (repeat' split) <;> simp [hc]

@[simp] theorem canonical_expireAll {k : Nat} {s : State} (hc : Canonical s) : Canonical (expireAll k s) := by simp +contextual [expireAll, hc]

@[simp] theorem canonical_tickSite {k : Nat} {s : State} (hc : Canonical s) : Canonical (tickSite k s) := by simp [tickSite, hc]

@[simp] theorem canonical_settleTicks {k : Nat} {s : State} (hc : Canonical s) : Canonical (settleTicks k s) := by simp +contextual [settleTicks, hc]

@[simp] theorem canonical_doRefresh {k g : Nat} {s : State} : Canonical (doRefresh k g s) ↔ Canonical s := by
  unfold doRefresh
  dsimp only
  split <;> simp

@[simp] theorem canonical_awaitImage {r : Nat} {s : State} : Canonical (awaitImage r s) ↔ Canonical s := by
  unfold awaitImage
  split <;> simp

@[simp] theorem canonical_moveImages {k : Nat} {s : State} : Canonical (moveImages k s) ↔ Canonical s := by simp [moveImages]

/-! ### Sequencer words -/

@[simp] theorem canonical_modMyRun {f : Run → Run} {s : State} : Canonical (modMyRun f s) ↔ Canonical s := by simp [modMyRun]

@[simp] theorem canonical_modMySeq {f : Seq → Seq} {s : State} : Canonical (modMySeq f s) ↔ Canonical s := by simp [modMySeq]

@[simp] theorem canonical_modSeqCtl {f : Ctl → Ctl} {s : State} : Canonical (modSeqCtl f s) ↔ Canonical s := by simp [modSeqCtl]

@[simp] theorem canonical_postLift {k r status queue : Nat} {ctx : Side} {word disc detail : Nat} {s : State} :
    Canonical (postLift k r status queue ctx word disc detail s) ↔ Canonical s := Iff.rfl

@[simp] theorem canonical_discardChain {k key n : Nat} {s : State} (hc : Canonical s) : Canonical (discardChain k key n s) := by
  induction n generalizing s with
  | zero => exact hc
  | succ n ih =>
    simp only [discardChain]
    split
    · split
      · exact ih (by simp [hc])
      · simp [hc]
    · exact hc

@[simp] theorem canonical_failChain {v : Run} {s : State} (hc : Canonical s) : Canonical (failChain v s) := by
  unfold failChain
  dsimp only
  split
  · exact hc
  · split
    · split <;> simp [hc]
    · simp [hc]

@[simp] theorem canonical_frameFault {code info : Nat} {s : State} (hc : Canonical s) : Canonical (frameFault code info s) := by
  unfold frameFault
  split <;> simp [hc]

@[simp] theorem canonical_seqStop {h : Hit} {s : State} (hc : Canonical s) : Canonical (seqStop h s) := by
  unfold seqStop
  (repeat' split) <;> simp [hc]

@[simp] theorem canonical_seqIssue {occ : Nat} {s : State} : Canonical (seqIssue occ s) ↔ Canonical s := by simp [seqIssue]

@[simp] theorem canonical_seqWord {hits : List (Option Hit)} {occ skip : Nat} {effect : State → State} {s : State} (he : Canonical (effect s))
    (hc : Canonical s) : Canonical (seqWord hits occ skip effect s) := by
  unfold seqWord
  split <;> simp [he, hc]

@[simp] theorem canonical_stackWord {n : Nat} {push : List Word} {s : State} (hc : Canonical s) : Canonical (stackWord n push s) := by simp [stackWord, hc]

/-! ### Copies -/

theorem canonical_of_pageRead {r : Nat} {b : Base} {ps : List (Nat × Nat)} {s : State} {x : List Byte × State} (hc : Canonical s)
    (h : pageRead r b ps s = .ok x) : Canonical x.2 := by
  induction ps generalizing s x with
  | nil => cases h; exact hc
  | cons p ps ih =>
    simp only [pageRead] at h
    split at h
    · cases h
    · split at h
      · cases h
      · next h1 =>
        split at h
        · cases h
        · next h2 =>
          cases h
          exact (ih (canonical_of_rinkRead hc h1) h2 :)

theorem canonical_of_pageWrite {r : Nat} {b : Base} {ps : List (Nat × Nat)} {data : List Byte} {s t : State} (hc : Canonical s)
    (h : pageWrite r b ps data s = .ok t) : Canonical t := by
  induction ps generalizing s data with
  | nil => cases h; exact hc
  | cons p ps ih =>
    simp only [pageWrite] at h
    split at h
    · cases h
    · split at h
      · cases h
      · next h1 => exact ih (canonical_of_rinkWrite hc h1) h

theorem canonical_of_baseRead {r : Nat} {b : Base} {va n : Nat} {s : State} {x : List Byte × State} (hc : Canonical s)
    (h : baseRead r b va n s = .ok x) : Canonical x.2 := by
  unfold baseRead at h
  dsimp only at h
  split at h
  · split at h
    · cases h
    · split at h
      · cases h
      · cases h; simp [hc]
  · split at h
    · split at h <;> cases h
      exact hc
    · split at h
      · cases h
      · exact canonical_of_pageRead hc h

theorem canonical_of_baseWrite {r : Nat} {b : Base} {va : Nat} {data : List Byte} {s t : State} (hc : Canonical s)
    (h : baseWrite r b va data s = .ok t) : Canonical t := by
  unfold baseWrite at h
  dsimp only at h
  split at h
  · split at h
    · cases h
    · split at h
      · cases h
      · cases h; simp [hc]
  · split at h
    · split at h <;> cases h
      exact canonical_hostWrite hc
    · split at h
      · cases h
      · exact canonical_of_pageWrite hc h

theorem canonical_of_askPort {who : Nat} {t : Nat × Nat} {s u : State} (hc : Canonical s) (h : askPort who t s = .error u ∨ askPort who t s = .ok u) :
    Canonical u := by
  unfold askPort at h
  dsimp only at h
  split at h
  · rcases h with h | h <;> cases h
    exact hc
  · split at h
    · rcases h with h | h <;> cases h
      simp [hc]
    · rcases h with h | h <;> cases h
      simp [hc]
    · split at h <;> rcases h with h | h <;> cases h <;> simp [hc]

theorem canonical_of_askPorts_error {who : Nat} {ts taken : List (Nat × Nat)} {s u : State} (hc : Canonical s)
    (h : askPorts who ts taken s = .error u) : Canonical u := by
  induction ts generalizing s taken with
  | nil => cases h
  | cons t ts ih =>
    simp only [askPorts] at h
    split at h
    · exact ih hc h
    · split at h
      · next he =>
        cases h
        exact canonical_of_askPort hc (.inl he)
      · next he => exact ih (canonical_of_askPort hc (.inr he)) h

theorem canonical_of_askPorts_ok {who : Nat} {ts taken : List (Nat × Nat)} {s : State} {x : List (Nat × Nat) × State} (hc : Canonical s)
    (h : askPorts who ts taken s = .ok x) : Canonical x.2 := by
  induction ts generalizing s taken with
  | nil => cases h; exact hc
  | cons t ts ih =>
    simp only [askPorts] at h
    split at h
    · exact ih hc h
    · split at h
      · cases h
      · next he => exact ih (canonical_of_askPort hc (.inr he)) h

/-! ### A move of a copy -/

/-- Whatever a move answers, its state is in form. -/
def Moved.Canon : Moved → Prop
  | .on _ _ s | .wait _ s | .done _ s | .hit _ _ s | .bad _ _ s => Canonical s

theorem canon_withPorts {α : Type} {who : Nat} {gs taken : List (Nat × Nat)} {p : Progress} {s : State} {act : State → Except Hit (α × State)}
    {k : α → List (Nat × Nat) → State → Moved} (hact : ∀ t x, Canonical t → act t = .ok x → Canonical x.2)
    (hk : ∀ a ts t, Canonical t → (k a ts t).Canon) (hc : Canonical s) : (withPorts who gs taken p s act k).Canon := by
  unfold withPorts
  split
  · next h => exact canonical_of_askPorts_error hc h
  · next h =>
    have h1 : Canonical _ := canonical_of_askPorts_ok hc h
    split
    · exact h1
    · exact h1
    · next h2 => exact hk _ _ _ (hact _ _ h1 h2)

theorem canon_withFar {α : Type} {who : Nat} {c : Copy} {i : List Nat} {taken : List (Nat × Nat)} {p : Progress} {s : State}
    {act : Nat → State → Except Hit (α × State)} {k : α → List (Nat × Nat) → State → Moved} (hact : ∀ n t x, Canonical t → act n t = .ok x → Canonical x.2)
    (hk : ∀ a ts t, Canonical t → (k a ts t).Canon) (hc : Canonical s) : (withFar who c i taken p s act k).Canon := by
  unfold withFar
  split
  · exact canon_withPorts (fun _ _ => canonical_of_baseRead) (fun _ _ _ h => h) hc
  · split
    · exact hc
    · exact canon_withPorts (hact _) hk hc

theorem canon_readElement {who : Nat} {c : Copy} {taken : List (Nat × Nat)} {p : Progress} {s : State} (hc : Canonical s) :
    (readElement who c taken p s).Canon := by
  unfold readElement
  dsimp only
  split
  · exact canon_withFar (fun _ _ _ => canonical_of_baseRead) (fun _ _ _ h => h) hc
  · split
    · exact hc
    · refine canon_withPorts (fun t x ht h => ?_) (fun _ _ _ h => h) hc
      split at h <;> cases h
      simp [ht]

/-- What a copy writes at its far base. -/
theorem canonical_of_farWrite {r : Nat} {b : Base} {va : Nat} {data : List Byte} {t : State} {x : Unit × State} (hc : Canonical t)
    (h : ((baseWrite r b va data t).map fun s => ((), s)) = .ok x) : Canonical x.2 := by
  cases hw : baseWrite r b va data t with
  | error e => rw [hw] at h; cases h
  | ok u => rw [hw] at h; cases h; exact canonical_of_baseWrite hc hw

theorem canonical_markHost {b : Bool} {f : Run → Run} {s : State} : Canonical (if b then modMyRun f s else s) ↔ Canonical s := by simp

theorem canon_writeElement {who : Nat} {c : Copy} {taken : List (Nat × Nat)} {p : Progress} {s : State} (hc : Canonical s) :
    (writeElement who c taken p s).Canon := by
  unfold writeElement
  dsimp only
  split
  · exact canon_withFar (fun _ _ _ => canonical_of_farWrite) (fun _ _ _ => canonical_markHost.2) hc
  · split
    · exact canonical_modMySite.2 hc
    · refine canon_withPorts (fun t x ht h => ?_) (fun _ _ _ h => h) hc
      split at h <;> cases h
      simp [ht]

theorem canon_readCode {who : Nat} {c : Copy} {n : Nat} {taken : List (Nat × Nat)} {p : Progress} {s : State} {k : List Byte → List (Nat × Nat) → State → Moved}
    (hk : ∀ a ts t, Canonical t → (k a ts t).Canon) (hc : Canonical s) : (readCode who c n taken p s k).Canon := by
  unfold readCode
  split
  · dsimp only
    split
    · exact hc
    · refine canon_withPorts (fun t x ht h => ?_) hk hc
      split at h
      · cases h
      · split at h <;> cases h
        simp [ht]
  · dsimp only
    split
    · exact hc
    · exact canon_withPorts (fun _ _ => canonical_of_baseRead) hk hc

theorem canon_decodeMore {who : Nat} {c : Copy} {taken : List (Nat × Nat)} {p : Progress} {s : State} (hc : Canonical s) :
    (decodeMore who c taken p s).Canon := by
  unfold decodeMore
  split
  · refine canon_readCode (fun a ts t ht => ?_) hc
    dsimp only
    split
    · split <;> exact ht
    · split <;> exact ht
  · split
    · exact hc
    · exact hc
    · exact canon_readCode (fun _ _ _ h => h) hc

theorem canon_writeCode {who : Nat} {c : Copy} {code : List Byte} {taken : List (Nat × Nat)} {p : Progress} {s : State}
    {rest : List Byte → Progress → Progress} (hc : Canonical s) : (writeCode who c code taken p s rest).Canon := by
  unfold writeCode
  dsimp only
  split
  · exact canon_withPorts (fun _ _ => canonical_of_farWrite) (fun _ _ _ => canonical_markHost.2) hc
  · refine canon_withPorts (fun t x ht h => ?_) (fun _ _ _ h => h) hc
    cases h
    simp [ht]

theorem canon_moveOnce {who : Nat} {c : Copy} {start : Progress} {taken : List (Nat × Nat)} {p : Progress} {s : State} (hc : Canonical s) :
    (moveOnce who c start taken p s).Canon := by
  unfold moveOnce
  extract_lets full more
  have hmore : more.Canon := by
    simp only [more]
    split
    · exact hc
    · split
      · exact canon_decodeMore hc
      · exact canon_readElement hc
  split
  · exact hc
  · split
    · split
      · exact canon_writeElement hc
      · split
        · exact hc
        · exact hmore
    · split
      · exact hc
      · split
        · split
          · exact canon_writeCode hc
          · split
            · exact hc
            · exact hmore
        · split
          · exact hc
          · exact canon_writeCode hc
          · split
            · exact hc
            · exact hmore

theorem canon_moveBeat {who : Nat} {c : Copy} {start : Progress} {n : Nat} {taken : List (Nat × Nat)} {p : Progress} {s : State} (hc : Canonical s) :
    (moveBeat who c start n taken p s).Canon := by
  induction n generalizing taken p s with
  | zero => exact hc
  | succ n ih =>
    have hm := canon_moveOnce (who := who) (c := c) (start := start) (taken := taken) (p := p) hc
    unfold moveBeat
    split
    · next h => rw [h] at hm; exact ih hm
    · exact hm

/-! ### Lift engines -/

@[simp] theorem canonical_zeroRead {v : Run} {s : State} : Canonical (zeroRead v s) ↔ Canonical s := by simp [zeroRead]

@[simp] theorem canonical_postStatus {k : Nat} {v : Run} {e : Nat × Nat} {s : State} : Canonical (postStatus k v e s) ↔ Canonical s := Iff.rfl

@[simp] theorem canonical_dataError {status detail : Nat} {s : State} : Canonical (dataError status detail s) ↔ Canonical s := by
  unfold dataError
  split <;> simp

@[simp] theorem canonical_settleLinj {p p' : Progress} {s : State} : Canonical (settleLinj p p' s) ↔ Canonical s := by
  unfold settleLinj
  split <;> simp

@[simp] theorem canonical_endCopy {p : Progress} {s : State} : Canonical (endCopy p s) ↔ Canonical s := canonical_modMyRun

@[simp] theorem canonical_copyDone {c : Copy} {tok : Bool} {fifo : BitVec 4} {p : Progress} {s : State} : Canonical (copyDone c tok fifo p s) ↔ Canonical s := by
  unfold copyDone
  dsimp only
  split
  · split <;> simp
  · simp

@[simp] theorem canonical_countMoved {c : Copy} {p p' : Progress} {s : State} : Canonical (countMoved c p p' s) ↔ Canonical s := by simp [countMoved]

@[simp] theorem canonical_stayCopy {moved : Bool} {p : Progress} {s : State} : Canonical (stayCopy moved p s) ↔ Canonical s := by simp [stayCopy]

@[simp] theorem canonical_runCopy {c : Copy} {tok : Bool} {fifo : BitVec 4} {p : Progress} {s : State} (hc : Canonical s) :
    Canonical (runCopy c tok fifo p s) := by
  have hm := canon_moveBeat (who := b2n s.cur.l1) (c := c) (start := p) (n := 600) (taken := []) (p := p) hc
  unfold runCopy
  split <;> next h =>
    rw [h] at hm
    have hmoved : Canonical _ := hm
    simp [hmoved]

@[simp] theorem canonical_copyBeat {c : Copy} {tok : Bool} {fifo : BitVec 4} {p : Progress} {s : State} (hc : Canonical s) :
    Canonical (copyBeat c tok fifo p s) := by
  simp [copyBeat, hc]

@[simp] theorem canonical_copyWord {z tile tok : Bool} {fifo : BitVec 4} {s : State} (hc : Canonical s) : Canonical (copyWord z tile tok fifo s) := by
  unfold copyWord
  (repeat' split) <;> simp [hc]

@[simp] theorem canonical_detachOps {v : Run} {s : State} : Canonical (detachOps v s) ↔ Canonical s := Iff.rfl

@[simp] theorem canonical_endCommand {s : State} : Canonical (endCommand s) ↔ Canonical s := by
  unfold endCommand
  split <;> simp

@[simp] theorem canonical_retireCommand {v : Run} {s : State} (hc : Canonical s) : Canonical (retireCommand v s) := by
  have hposted : Canonical (match v.status with | some e => postStatus v.site v e s | none => s) := by split <;> simp [hc]
  have hreleased := canonical_releaseCommand (c := v.cmd) hposted
  unfold retireCommand
  dsimp only
  split
  · exact canonical_discardChain (canonical_modSite.2 (canonical_modSite.2 hreleased))
  · exact canonical_modSite.2 hreleased

/-! ### Collectives and the link -/

@[simp] theorem canonical_modPort {p : Nat} {f : Port → Port} {s : State} : Canonical (modPort p f s) ↔ Canonical s := Iff.rfl

@[simp] theorem canonical_sendOut {n : Nat} {f : Flit} {s : State} : Canonical (sendOut n f s) ↔ Canonical s := Iff.rfl

@[simp] theorem canonical_pumpPort {n : Nat} {s : State} : Canonical (pumpPort n s) ↔ Canonical s :=
  canonical_foldl_iff fun t a => by split <;> simp

@[simp] theorem canonical_queueFlit {n : Nat} {f : Flit} {s : State} : Canonical (queueFlit n f s) ↔ Canonical s := by simp [queueFlit]

@[simp] theorem canonical_sendToward {f : Flit} {s : State} : Canonical (sendToward f s) ↔ Canonical s := by
  unfold sendToward
  split <;> simp

@[simp] theorem canonical_arrive {c : Contribution} {s : State} (hc : Canonical s) : Canonical (arrive c s).2 := by
  unfold arrive
  dsimp only
  split
  · exact hc
  · exact hc
  · split
    · exact hc
    · next hw =>
      have hl := canonical_of_guestWrite hc hw
      dsimp only
      split <;> simp [hl]

@[simp] theorem canonical_grantCredit {port : Option Nat} {s : State} : Canonical (grantCredit port s) ↔ Canonical s := by
  unfold grantCredit
  split <;> simp

@[simp] theorem canonical_settleArrival {c : Contribution} {s : State} (hc : Canonical s) : Canonical (settleArrival c s) := by
  unfold settleArrival
  split <;> next h => simp [canonical_of_snd h (canonical_arrive hc)]

@[simp] theorem canonical_stall {r cnum : Nat} {w : Stalled} {s : State} : Canonical (stall r cnum w s) ↔ Canonical s := Iff.rfl

@[simp] theorem canonical_comeWhole {port : Option Nat} {c : Contribution} {s : State} (hc : Canonical s) : Canonical (comeWhole port c s) := by
  unfold comeWhole
  split <;> simp [hc]

@[simp] theorem canonical_refusedOp {r : Nat} {f : Flit} {s : State} : Canonical (refusedOp r f s) ↔ Canonical s := by
  unfold refusedOp
  dsimp only
  split <;> simp

@[simp] theorem canonical_landOwn {r : Nat} {c : Contribution} {s : State} (hc : Canonical s) : Canonical (landOwn r c s) := by
  unfold landOwn
  split <;> next h => simp [canonical_of_snd h (canonical_arrive hc)]

@[simp] theorem canonical_landStalled {r cnum : Nat} {w : Stalled} {s : State} (hc : Canonical s) : Canonical (landStalled r cnum w s) := by
  unfold landStalled
  split <;> simp [hc]

@[simp] theorem canonical_sendContribution {r : Nat} {o : CollOp} {cnum : Nat} {targets : List Nat} {s : State} (hc : Canonical s) :
    Canonical (sendContribution r o cnum targets s) := by
  refine canonical_foldl (fun t a ht => ?_) hc
  split
  · dsimp only
    split <;> simp [ht]
  · simp [ht]

@[simp] theorem canonical_startOp {r : Nat} {o : CollOp} {cnum : Nat} {targets : List Nat} {s : State} (hc : Canonical s) :
    Canonical (startOp r o cnum targets s) := by
  simp [startOp, hc]

@[simp] theorem canonical_collWord {word op : Nat} {s : State} (hc : Canonical s) : Canonical (collWord word op s) := by
  unfold collWord
  extract_lets q d after src
  split
  · simp [hc]
  · exact hc
  · next v _ _ =>
    extract_lets r group rank members targets o
    have hafter {f : State → State} {t : State} (ht : Canonical t) (hf : ∀ u, Canonical u → Canonical (f u)) : Canonical (after f t) :=
      canonical_seqWord (s := t) (hf _ (canonical_modMySeq.2 ht)) ht
    split
    · simp [hc]
    · split
      · exact hafter hc fun _ h => canonical_endOp.2 h
      · split
        · exact hafter hc fun _ h => canonical_startOp h
        · split
          · exact hafter hc fun _ h => canonical_endOp.2 h
          · split
            · simp [hc]
            · next hr => exact hafter (canonical_of_baseRead (canonical_with.2 hc) hr : Canonical _) fun _ h => canonical_startOp h

theorem canonical_of_memberData {r cnum : Nat} {c : Coll} {o : CollOp} {k : Nat} {s : State} {x : List Byte × State} (hc : Canonical s)
    (h : memberData r cnum c o k s = .ok x) : Canonical x.2 := by
  unfold memberData at h
  split at h
  · cases h; exact hc
  · split at h
    · cases h; exact hc
    · split at h
      · cases h
      · exact canonical_of_guestRead hc h

theorem canonical_of_allData {r cnum : Nat} {c : Coll} {o : CollOp} {ks : List Nat} {s : State} {x : List (List Byte) × State} (hc : Canonical s)
    (h : allData r cnum c o ks s = .ok x) : Canonical x.2 := by
  induction ks generalizing s x with
  | nil => cases h; exact hc
  | cons k ks ih =>
    simp only [allData] at h
    split at h
    · cases h
    · next h1 =>
      split at h
      · cases h
      · next h2 =>
        cases h
        exact (ih (canonical_of_memberData hc h1) h2 :)

@[simp] theorem canonical_completeMain {r cnum : Nat} {c : Coll} {o : CollOp} {s : State} (hc : Canonical s) : Canonical (completeMain r cnum c o s) := by
  unfold completeMain
  dsimp only
  split
  · simp [hc]
  · split
    · simp [hc]
    · split
      · exact hc
      · simp [hc]
      · next hd =>
        have hdata : Canonical _ := canonical_of_allData hc hd
        split
        · simp [hdata]
        · split
          · exact hc
          · simp [hdata]
          · next hw => simp [canonical_of_baseWrite (canonical_with.2 hdata) hw]

@[simp] theorem canonical_timeoutTrap {r cnum : Nat} {s : State} : Canonical (timeoutTrap r cnum s) ↔ Canonical s := by
  unfold timeoutTrap
  dsimp only
  split <;> simp

@[simp] theorem canonical_acceptFlit {n : Nat} {f : Flit} {s : State} : Canonical (acceptFlit n f s) ↔ Canonical s := by simp [acceptFlit]

@[simp] theorem canonical_receiveFlit {n : Nat} {f : Flit} {s : State} : Canonical (receiveFlit n f s).2 ↔ Canonical s := by
  simp [receiveFlit]

@[simp] theorem canonical_withTerms {c : Contribution} {s : State} : Canonical (withTerms c s).2 ↔ Canonical s := by
  unfold withTerms
  split <;> rfl

@[simp] theorem canonical_deliverFlit {n : Nat} {f : Flit} {s : State} (hc : Canonical s) : Canonical (deliverFlit n f s) := by
  unfold deliverFlit
  split
  · simp [hc]
  · dsimp only
    split
    · split <;> simp [hc]
    · simp [hc]

@[simp] theorem canonical_forwardFlit {f : Flit} {s : State} : Canonical (forwardFlit f s) ↔ Canonical s := by
  unfold forwardFlit
  split <;> simp

theorem canonical_of_reservedKind {n : Nat} {f : Flit} {s t : State} (hc : Canonical s) (h : reservedKind n f s = some t) : Canonical t := by
  unfold reservedKind at h
  split at h <;> cases h
  simp [hc]

@[simp] theorem canonical_replay {n : Nat} {fs : List Flit} {s : State} : Canonical (replay n fs s) ↔ Canonical s := by simp [replay]

@[simp] theorem canonical_loseFlits {n : Nat} {s : State} : Canonical (loseFlits n s) ↔ Canonical s := by simp [loseFlits]

@[simp] theorem canonical_takeDown {n : Nat} {s : State} : Canonical (takeDown n s) ↔ Canonical s := by simp [takeDown]

@[simp] theorem canonical_comeUp {n : Nat} {s : State} : Canonical (comeUp n s) ↔ Canonical s := by simp [comeUp]

@[simp] theorem canonical_sendAlive {n : Nat} {s : State} : Canonical (sendAlive n s) ↔ Canonical s := by simp [sendAlive]

/-! ### Power -/

@[simp] theorem canonical_modPower {f : Power → Power} {s : State} : Canonical (modPower f s) ↔ Canonical s := Iff.rfl

@[simp] theorem canonical_wake {s : State} : Canonical (wake s) ↔ Canonical s := by simp [wake]

@[simp] theorem canonical_countIdle {active : Bool} {s : State} : Canonical (countIdle active s) ↔ Canonical s := Iff.rfl

@[simp] theorem canonical_undoLaunch {r : Nat} {l : Launch} {s : State} (hc : Canonical s) : Canonical (undoLaunch r l s) := by simp [undoLaunch, hc]

@[simp] theorem canonical_undoWaiting {s : State} (hc : Canonical s) : Canonical (undoWaiting s) := by
  refine canonical_foldl (fun t q ht => ?_) hc
  dsimp only
  split
  · exact ht
  · exact canonical_recount.2 (canonical_foldl (fun _ _ => canonical_undoLaunch) ht)

@[simp] theorem canonical_enterRetention {cause : Nat} {s : State} (hc : Canonical s) : Canonical (enterRetention cause s) := by simp [enterRetention, hc]

@[simp] theorem canonical_abandonColls {r : Nat} {s : State} : Canonical (abandonColls r s) ↔ Canonical s := by simp [abandonColls]

@[simp] theorem canonical_deadlineRink {r : Nat} {s : State} (hc : Canonical s) : Canonical (deadlineRink r s) := by
  have ha : Canonical (abandonColls r s) := canonical_abandonColls.2 hc
  unfold deadlineRink
  dsimp only
  split
  · simp [ha]
  · split
    · next p k x _ _ =>
      generalize hs1 : (if stoppedAtGate r (abandonColls r s) then abandonColls r s else _) = s1
      have h1 : Canonical s1 := by rw [← hs1]; simp [ha]
      cases hv : saveJob r p.sLive.toNat p.aLive.toNat p.pos.toNat (loadCheckpoint (site k s1).now p (ctxOf (site k s1) x)) s1 with
      | none => exact h1
      | some t => exact canonical_of_saveJob h1 hv
    · simp [ha]

@[simp] theorem canonical_losePorts {s : State} : Canonical (losePorts s) ↔ Canonical s :=
  canonical_foldl_iff fun t n => by split <;> simp

@[simp] theorem canonical_askResume {s : State} : Canonical (askResume s) ↔ Canonical s := by
  unfold askResume
  split <;> simp

@[simp] theorem canonical_offState {s : State} (hc : Canonical s) : Canonical (offState s) := ⟨Mem.wf_empty, hc.2⟩

/-! ### Boot -/

@[simp] theorem canonical_freeWords {n : Nat} {s : State} : Canonical (freeWords n s).2 ↔ Canonical s := by
  induction n generalizing s with
  | zero => rfl
  | succ n ih => exact ih.trans Iff.rfl

theorem canonical_of_freeWords {n : Nat} {s t : State} {ws : List Word} (hc : Canonical s) (h : freeWords n s = (ws, t)) : Canonical t :=
  canonical_of_snd h (canonical_freeWords.2 hc)

@[simp] theorem canonical_loadTables {s : State} (hc : Canonical s) : Canonical (loadTables s) := by
  unfold loadTables
  split; next h1 => split; next h2 => split; next h3 => split; next h4 => split; next h5 => split; next h6 => split; next h7 =>
  have hc4 := canonical_of_freeWords (canonical_of_freeWords (canonical_of_freeWords (canonical_of_freeWords hc h1) h2) h3) h4
  simp only [canonical_modPower, canonical_with, canonical_modDie, canonical_of_freeWords (canonical_of_freeWords (canonical_of_freeWords hc4 h5) h6) h7]

/-! ### Rinks and observation -/

@[simp] theorem canonical_setBad {r : Nat} {s : State} : Canonical (setBad r s) ↔ Canonical s := Iff.rfl

@[simp] theorem canonical_createRink {r v : Nat} {s : State} : Canonical (createRink r v s) ↔ Canonical s := by simp [createRink]

@[simp] theorem canonical_dropJobs {fn slot status : Nat} {s : State} (hc : Canonical s) : Canonical (dropJobs fn slot status s) := by
  simp +contextual [dropJobs, hc]

@[simp] theorem canonical_destroyRink {r : Nat} {s : State} (hc : Canonical s) : Canonical (destroyRink r s) := by simp +contextual [destroyRink, hc]

@[simp] theorem canonical_suspendRink {r : Nat} {s : State} : Canonical (suspendRink r s) ↔ Canonical s := Iff.rfl

@[simp] theorem canonical_releaseLost {r : Nat} {s : State} : Canonical (releaseLost r s) ↔ Canonical s := by simp [releaseLost]

@[simp] theorem canonical_reloadSeq {r : Nat} {s : State} : Canonical (reloadSeq r s) ↔ Canonical s := by
  unfold reloadSeq
  split <;> simp

@[simp] theorem canonical_unsuspendRink {r : Nat} {s : State} (hc : Canonical s) : Canonical (unsuspendRink r s) := by simp [unsuspendRink, hc]

@[simp] theorem canonical_writeRctl {r v : Nat} {s : State} (hc : Canonical s) : Canonical (writeRctl r v s) := by simp [writeRctl, hc]

@[simp] theorem canonical_writeOwn {k v : Nat} {s : State} : Canonical (writeOwn k v s) ↔ Canonical s := by simp [writeOwn]

@[simp] theorem canonical_writePlace {r off v : Nat} {s : State} : Canonical (writePlace r off v s) ↔ Canonical s := by simp [writePlace]

@[simp] theorem canonical_writeSplit {k v : Nat} {s : State} : Canonical (writeSplit k v s) ↔ Canonical s := by simp [writeSplit]

@[simp] theorem canonical_writeCpat {d c v : Nat} {s : State} : Canonical (writeCpat d c v s) ↔ Canonical s := by simp [writeCpat]

@[simp] theorem canonical_writeRfab {r v : Nat} {s : State} : Canonical (writeRfab r v s) ↔ Canonical s := by simp [writeRfab]

@[simp] theorem canonical_writeRland {r v : Nat} {s : State} : Canonical (writeRland r v s) ↔ Canonical s := by simp [writeRland]

@[simp] theorem canonical_setClaim {k n : Nat} {v : Claim} {s : State} : Canonical (setClaim k n v s) ↔ Canonical s := Iff.rfl

@[simp] theorem canonical_askPerf {who : Requester} {num k n op : Nat} {s : State} : Canonical (askPerf who num k n op s) ↔ Canonical s := by
  unfold askPerf
  (repeat' split) <;> simp

@[simp] theorem canonical_arbitrate {k n : Nat} {s : State} : Canonical (arbitrate k n s) ↔ Canonical s := by simp [arbitrate]

@[simp] theorem canonical_arbitrateAll {s : State} : Canonical (arbitrateAll s) ↔ Canonical s := by simp [arbitrateAll]

/-! ### Recovery -/

@[simp] theorem canonical_freezeUnit {r : Nat} {l : Launch} {u : UnitRun} {s : State} : Canonical (freezeUnit r l u s) ↔ Canonical s := by simp [freezeUnit]

@[simp] theorem canonical_resumeLaunch {r : Nat} {l : Launch} {s : State} : Canonical (resumeLaunch r l s) ↔ Canonical s := by simp [resumeLaunch]

@[simp] theorem canonical_askRfrz {again : Bool} {r : Nat} {s : State} (hc : Canonical s) : Canonical (askRfrz again r s) := by
  unfold askRfrz
  (repeat' split) <;> simp [hc]

@[simp] theorem canonical_resumeUnit {r : Nat} {l : Launch} {u : UnitRun} {s : State} : Canonical (resumeUnit r l u s) ↔ Canonical s := by simp [resumeUnit]

@[simp] theorem canonical_arriveLaunch {r : Nat} {l : Launch} {s : State} : Canonical (arriveLaunch r l s) ↔ Canonical s := by
  unfold arriveLaunch
  dsimp only
  split <;> simp

@[simp] theorem canonical_recordCheck {k r : Nat} {s : State} : Canonical (recordCheck k r s) ↔ Canonical s := Iff.rfl

@[simp] theorem canonical_checkRink {r : Nat} {s : State} (hc : Canonical s) : Canonical (checkRink r s) := by simp [checkRink, hc]

@[simp] theorem canonical_logCheck {k : Nat} {fault : Option (Nat × Nat)} {s : State} : Canonical (logCheck k fault s) ↔ Canonical s := by
  unfold logCheck
  split <;> simp

/-! ### Paging -/

@[simp] theorem canonical_askTinv {fn kind page : Nat} {s : State} : Canonical (askTinv fn kind page s) ↔ Canonical s := Iff.rfl

@[simp] theorem canonical_dropTlb {p : Tlb → Bool} {s : State} : Canonical (dropTlb p s) ↔ Canonical s := Iff.rfl

@[simp] theorem canonical_queueMove {fn ia frame size : Nat} {s : State} : Canonical (queueMove fn ia frame size s) ↔ Canonical s := Iff.rfl

@[simp] theorem canonical_noteMigreq {fn ia : Nat} {l : Leaf} {lpddr : Bool} {s : State} : Canonical (noteMigreq fn ia l lpddr s) ↔ Canonical s := by
  simp [noteMigreq]

@[simp] theorem canonical_promotePage {fn thresh quota : Nat} {page : Nat} {s : State} : Canonical (promotePage fn thresh quota s page) ↔ Canonical s := by
  unfold promotePage
  (repeat' split) <;> simp

@[simp] theorem canonical_adoptPage {fn : Nat} {page : Nat} {s : State} : Canonical (adoptPage fn s page) ↔ Canonical s := by
  unfold adoptPage
  split <;> simp

@[simp] theorem canonical_demotePages {fn quota : Nat} {ps : List (Nat × Nat)} {s : State} : Canonical (demotePages fn quota ps s) ↔ Canonical s := by
  induction ps generalizing s with
  | nil => rfl
  | cons p ps ih =>
    simp only [demotePages]
    split
    · rfl
    · rw [ih]
      split
      · split <;> simp
      · rfl

@[simp] theorem canonical_freeOld {m : Move} {s : State} (hc : Canonical s) : Canonical (freeOld m s) := by
  unfold freeOld
  split
  · exact hc
  · exact ⟨Table.wf_dropRange _ _ hc.1, hc.2⟩

theorem wf_writeMov {leaf : Nat} {v : Bool} {m : Mem} (h : m.wf = true) : (writeMov leaf v m).wf = true := Mem.wf_writeBytes _ _ h

@[simp] theorem canonical_finishMove {m : Move} {s : State} (hc : Canonical s) : Canonical (finishMove m s) := by
  refine canonical_countShared.2 (canonical_freeOld ⟨wf_writeMov (Mem.wf_writeBytes _ _ (Table.wf_copyCells _ _ _ hc.1)), hc.2⟩)

/-! ### Job slots -/

@[simp] theorem canonical_modSlot {fn slot : Nat} {g : JobSlot → JobSlot} {s : State} : Canonical (modSlot fn slot g s) ↔ Canonical s := Iff.rfl

@[simp] theorem canonical_refuseGo {fn status : Nat} {g : GoWrite} {s : State} (hc : Canonical s) : Canonical (refuseGo fn status g s) := by
  simp [refuseGo, hc]

@[simp] theorem canonical_checkGo {fn : Nat} {gs : List GoWrite} {s : State} (hc : Canonical s) : Canonical (checkGo fn gs s) := by
  induction gs generalizing s with
  | nil => exact hc
  | cons g gs ih =>
    unfold checkGo
    extract_lets s1 f drop
    have h1 : Canonical s1 := by simp [s1, hc]
    have hdrop (status : Nat) : Canonical (drop status) := ih (canonical_modFn.2 (canonical_refuseGo h1))
    split
    · exact hc
    · split
      · exact hdrop _
      · split
        · exact hdrop _
        · exact canonical_modFn.2 h1

@[simp] theorem canonical_settleGo {fn : Nat} {s : State} (hc : Canonical s) : Canonical (settleGo fn s) := by simp [settleGo, hc]

@[simp] theorem canonical_cancelSlot {fn slot : Nat} {s : State} (hc : Canonical s) : Canonical (cancelSlot fn slot s) := by simp +contextual [cancelSlot, hc]

@[simp] theorem canonical_submitJob {fn slot : Nat} {relaxed : Bool} {s : State} (hc : Canonical s) : Canonical (submitJob fn slot relaxed s) := by
  simp [submitJob, hc]

@[simp] theorem canonical_writeJctl {fn slot v : Nat} {relaxed : Bool} {s : State} (hc : Canonical s) : Canonical (writeJctl fn slot v relaxed s) := by
  simp [writeJctl, hc]

/-! ### Registers -/

@[simp] theorem canonical_plain {n : Nat} {s : State} : Canonical (plain n s).2 ↔ Canonical s := Iff.rfl

/-- A read that is one of two keeps the form where both do. -/
theorem canonical_ite_snd_iff {α : Type} {c : Prop} [Decidable c] {a b : α × State} {s : State} (ha : Canonical a.2 ↔ Canonical s)
    (hb : Canonical b.2 ↔ Canonical s) : Canonical (if c then a else b).2 ↔ Canonical s := by
  split <;> assumption

@[simp] theorem canonical_readCore {who : Requester} {k off : Nat} {s : State} : Canonical (readCore who k off s).2 ↔ Canonical s := by
  unfold readCore
  refine canonical_ite_snd_iff Iff.rfl <| canonical_ite_snd_iff Iff.rfl <| canonical_ite_snd_iff Iff.rfl <| canonical_ite_snd_iff Iff.rfl <|
    canonical_ite_snd_iff Iff.rfl <| canonical_ite_snd_iff Iff.rfl <| canonical_ite_snd_iff (canonical_ite_snd_iff ?_ Iff.rfl) ?_
  · dsimp only
    split <;> rfl
  · (repeat' split) <;> rfl

@[simp] theorem canonical_askClaim {who : Requester} {k n op : Nat} {s : State} : Canonical (askClaim who k n op s) ↔ Canonical s := by simp [askClaim]

@[simp] theorem canonical_writeCore {who : Requester} {k off v : Nat} {s : State} : Canonical (writeCore who k off v s) ↔ Canonical s := by
  unfold writeCore
  (repeat' split) <;> simp

@[simp] theorem canonical_readRink {r off : Nat} {s : State} : Canonical (readRink r off s).2 ↔ Canonical s := Iff.rfl

@[simp] theorem canonical_writeRfrz {r v : Nat} {s : State} (hc : Canonical s) : Canonical (writeRfrz r v s) := by simp [writeRfrz, hc]

@[simp] theorem canonical_writeRinkShared {who : Requester} {r off v : Nat} {s : State} (hc : Canonical s) : Canonical (writeRinkShared who r off v s) := by
  unfold writeRinkShared
  split <;> simp [hc]

@[simp] theorem canonical_writeRinkPf {r off v : Nat} {s : State} (hc : Canonical s) : Canonical (writeRinkPf r off v s) := by
  unfold writeRinkPf
  (repeat' split) <;> simp [hc]

@[simp] theorem canonical_writeRink {who : Requester} {r off v : Nat} {s : State} (hc : Canonical s) : Canonical (writeRink who r off v s) := by
  simp [writeRink, hc]

@[simp] theorem canonical_readPower {off : Nat} {s : State} : Canonical (readPower off s).2 ↔ Canonical s := by
  unfold readPower
  (repeat' split) <;> rfl

@[simp] theorem canonical_writeRetctl {v : Nat} {s : State} (hc : Canonical s) : Canonical (writeRetctl v s) := by simp [writeRetctl, hc]

@[simp] theorem canonical_writePowerReg {off v : Nat} {s : State} (hc : Canonical s) : Canonical (writePowerReg off v s) := by
  unfold writePowerReg
  (repeat' split) <;> simp [hc]

@[simp] theorem canonical_readDie0 {off : Nat} {s : State} : Canonical (readDie0 off s).2 ↔ Canonical s := by
  unfold readDie0
  (repeat' split) <;> simp

@[simp] theorem canonical_writeDie0 {off v : Nat} {s : State} (hc : Canonical s) : Canonical (writeDie0 off v s) := by
  unfold writeDie0
  (repeat' split) <;> simp [hc]

@[simp] theorem canonical_readPort {n o : Nat} {s : State} : Canonical (readPort n o s).2 ↔ Canonical s := by
  simp [readPort]

@[simp] theorem canonical_writeBlctl {n v : Nat} {s : State} : Canonical (writeBlctl n v s) ↔ Canonical s := by simp [writeBlctl]

@[simp] theorem canonical_readDie {who : Requester} {d off : Nat} {s : State} : Canonical (readDie who d off s).2 ↔ Canonical s := by
  unfold readDie
  dsimp only
  (repeat' split) <;> simp

@[simp] theorem canonical_writeDie {d off v : Nat} {s : State} (hc : Canonical s) : Canonical (writeDie d off v s) := by
  unfold writeDie
  (repeat' split) <;> simp [hc]

@[simp] theorem canonical_readTrans {fn off : Nat} {s : State} : Canonical (readTrans fn off s).2 ↔ Canonical s := by
  unfold readTrans
  (repeat' split) <;> simp

@[simp] theorem canonical_writeTinv {who : Requester} {fn v : Nat} {s : State} : Canonical (writeTinv who fn v s) ↔ Canonical s := by
  unfold writeTinv
  split <;> simp

@[simp] theorem canonical_askMove {fn v : Nat} {s : State} : Canonical (askMove fn v s) ↔ Canonical s := by
  unfold askMove execMigreq
  dsimp only
  split
  · rfl
  · split <;> simp

@[simp] theorem canonical_writeTrans {who : Requester} {fn off v : Nat} {s : State} : Canonical (writeTrans who fn off v s) ↔ Canonical s := by
  unfold writeTrans
  split <;> simp

@[simp] theorem canonical_readWindow {w off : Nat} {s : State} : Canonical (readWindow w off s).2 ↔ Canonical s := by
  unfold readWindow
  (repeat' split) <;> rfl

@[simp] theorem canonical_writeWindow {w off v : Nat} {s : State} : Canonical (writeWindow w off v s) ↔ Canonical s := by
  unfold writeWindow
  split <;> simp

@[simp] theorem canonical_readKey {off : Nat} {s : State} : Canonical (readKey off s).2 ↔ Canonical s := by
  unfold readKey
  split <;> rfl

@[simp] theorem canonical_writeKctl {n v : Nat} {s : State} : Canonical (writeKctl n v s) ↔ Canonical s := by simp [writeKctl]

@[simp] theorem canonical_writeKey {off v : Nat} {s : State} : Canonical (writeKey off v s) ↔ Canonical s := by
  unfold writeKey
  split <;> simp

@[simp] theorem canonical_readCfg {who : Requester} {addr : Nat} {s : State} : Canonical (readCfg who addr s).2 ↔ Canonical s := by
  unfold readCfg
  dsimp only
  split
  · rfl
  · split <;> simp

@[simp] theorem canonical_writeCfg {who : Requester} {addr v : Nat} {s : State} (hc : Canonical s) : Canonical (writeCfg who addr v s) := by
  unfold writeCfg
  dsimp only
  split
  · exact hc
  · split
    · exact canonical_writeCore.2 hc
    · exact canonical_writeRink hc
    · split
      · exact canonical_writeDie hc
      · exact hc
    · exact canonical_writeTrans.2 hc
    · split
      · exact canonical_writeWindow.2 hc
      · exact hc
    · exact canonical_writeKey.2 hc

@[simp] theorem canonical_readBar {fn off : Nat} {s : State} : Canonical (readBar fn off s).2 ↔ Canonical s := by
  unfold readBar
  dsimp only
  split
  · exact canonical_plain
  · split
    · split
      · exact canonical_readPower
      · exact canonical_plain
    · split
      · exact canonical_plain
      · split
        · exact canonical_plain
        · split
          · exact canonical_plain
          · split <;> simp only [canonical_plain, canonical_modFn]

@[simp] theorem canonical_writeSlot {fn slot o v : Nat} {relaxed : Bool} {s : State} (hc : Canonical s) : Canonical (writeSlot fn slot o v relaxed s) := by
  unfold writeSlot
  split <;> simp [hc]

@[simp] theorem canonical_writeBar {fn off v : Nat} {relaxed : Bool} {s : State} (hc : Canonical s) : Canonical (writeBar fn off v relaxed s) := by
  unfold writeBar
  (repeat' split) <;> simp [hc]

@[simp] theorem canonical_readReg {who : Requester} {addr : Nat} {s : State} : Canonical (readReg who addr s).2 ↔ Canonical s := by
  simp [readReg]

@[simp] theorem canonical_writeJsave {fn off v : Nat} {s : State} : Canonical (writeJsave fn off v s) ↔ Canonical s := by simp [writeJsave]

/-! ### Accesses performed -/

@[simp] theorem canonical_finishAccess {k : Nat} {x : Side} {a : Access} {mem : List Byte} {tag : Bool} {s : State} :
    Canonical (finishAccess k x a mem tag s) ↔ Canonical s := Iff.rfl

@[simp] theorem canonical_dropLoad {k : Nat} {x : Side} {a : Access} {s : State} : Canonical (dropLoad k x a s) ↔ Canonical s := Iff.rfl

@[simp] theorem canonical_dropStore {k : Nat} {x : Side} {s : State} : Canonical (dropStore k x s) ↔ Canonical s := Iff.rfl

@[simp] theorem canonical_performTmLoad {k : Nat} {x : Side} {s : State} (hc : Canonical s) : Canonical (performTmLoad k x s) := by
  unfold performTmLoad
  dsimp only
  split
  · exact hc
  · split
    · split
      · simp [hc]
      · split
        · split <;> simp +contextual [hc]
        · split
          · exact hc
          · simp +contextual [hc]
    · exact hc

@[simp] theorem canonical_performTmStore {k : Nat} {x : Side} {s : State} : Canonical (performTmStore k x s) ↔ Canonical s := by
  unfold performTmStore
  dsimp only
  (repeat' split) <;> simp

@[simp] theorem canonical_performOffLoad {k : Nat} {x : Side} {s : State} (hc : Canonical s) : Canonical (performOffLoad k x s) := by
  unfold performOffLoad
  split
  · exact hc
  · dsimp only
    split
    · split
      · simp [hc]
      · split
        · next hr => exact canonical_finishAccess.2 (canonical_of_rinkRead hc hr)
        · simp +contextual [hc]
    · simp [hc]
    · exact hc

@[simp] theorem canonical_performOffStore {k : Nat} {x : Side} {s : State} (hc : Canonical s) : Canonical (performOffStore k x s) := by
  unfold performOffStore
  split
  · exact hc
  · dsimp only
    split
    · split
      · next hw => exact canonical_of_rinkWrite (canonical_dropStore.2 hc) hw
      · simp +contextual [hc]
    · simp +contextual [hc]
    · simp [hc]
    · exact hc

@[simp] theorem canonical_fetchPieces {r space : Nat} {ps : List (Nat × Nat)} {s : State} (hc : Canonical s) : Canonical (fetchPieces r space ps s).2.2 := by
  induction ps generalizing s with
  | nil => exact hc
  | cons p ps ih =>
    simp only [fetchPieces]
    split
    · exact hc
    · next h => exact ih (canonical_of_guestPiece hc h : Canonical _)

@[simp] theorem canonical_fetchFault {k : Nat} {x : Side} {e : Hit} {s : State} (hc : Canonical s) : Canonical (fetchFault k x e s) := by
  unfold fetchFault
  extract_lets s1 s2
  have h2 : Canonical s2 := by simp only [s2]; split <;> simp [s1, hc]
  exact canonical_asCtx (fun _ => canonical_takeTrap) h2

@[simp] theorem canonical_failFetch {k : Nat} {x : Side} {a : Nat} {h : Hit} {s : State} (hc : Canonical s) : Canonical (failFetch k x a h s) := by
  simp [failFetch, hc]

@[simp] theorem canonical_performFetch {k : Nat} {x : Side} {s : State} (hc : Canonical s) : Canonical (performFetch k x s) := by
  unfold performFetch
  dsimp only
  split
  · exact hc
  · next a _ =>
    have hf := canonical_fetchPieces (r := ctxRink k x s) (space := (ctxOf (site k s) x).code.space)
      (ps := piecesOf a (fetchLength (ctxOf (site k s) x) a)) hc
    split
    · exact hc
    · exact canonical_failFetch hf
    · exact canonical_modSite.2 hf
    · exact canonical_modSite.2 hf

@[simp] theorem canonical_answerLift {k : Nat} {l1 ok : Bool} {s : State} (hc : Canonical s) : Canonical (answerLift k l1 ok s) := by simp [answerLift, hc]

@[simp] theorem canonical_hostSees {fn : Nat} {key : Option Nat} {ma ia n : Nat} {s : State} (hc : Canonical s) :
    Canonical (hostSees fn key ma ia n s).2 := by
  unfold hostSees
  dsimp only
  split <;> simp [hc]

@[simp] theorem canonical_barRead {fn : Nat} {ps : List (Nat × Nat)} {s : State} (hc : Canonical s) : Canonical (barRead fn ps s).2 := by
  induction ps generalizing s with
  | nil => exact hc
  | cons p ps ih =>
    simp only [barRead]
    split
    · exact hc
    · split
      · next h => exact canonical_of_snd h (canonical_hostSees hc)
      · next h => exact ih (canonical_of_snd h (canonical_hostSees hc))

@[simp] theorem canonical_barWrite {fn : Nat} {ps : List (Nat × Nat)} {data : List Byte} {s : State} (hc : Canonical s) :
    Canonical (barWrite fn ps data s) := by
  induction ps generalizing s data with
  | nil => exact hc
  | cons p ps ih =>
    simp only [barWrite]
    split
    · exact hc
    · refine ih ?_
      split
      · next hw => simp [canonical_of_offWrite hc hw]
      · simp [hc]

@[simp] theorem canonical_barWords {fn : Nat} {relaxed : Bool} {n off : Nat} {data : List Byte} {s : State} (hc : Canonical s) :
    Canonical (barWords fn relaxed n off data s) := by
  induction n generalizing s off data with
  | zero => exact hc
  | succ n ih => exact ih (canonical_writeBar hc)

@[simp] theorem canonical_writeBar0 {fn off : Nat} {data : List Byte} {relaxed : Bool} {s : State} (hc : Canonical s) :
    Canonical (writeBar0 fn off data relaxed s) := by
  simp [writeBar0, hc]

@[simp] theorem canonical_hostWrites {fn : Nat} {addr : Word} {data : List Byte} {relaxed : Bool} {s : State} (hc : Canonical s) :
    Canonical (hostWrites fn addr data relaxed s) := by
  unfold hostWrites
  split <;> simp [hc]

@[simp] theorem canonical_readBarWords {fn n off : Nat} {s : State} : Canonical (readBarWords fn n off s).2 ↔ Canonical s := by
  induction n generalizing s off with
  | zero => rfl
  | succ n ih => exact ih.trans canonical_readBar

@[simp] theorem canonical_hostReads {fn : Nat} {addr : Word} {len : Nat} {s : State} (hc : Canonical s) : Canonical (hostReads fn addr len s) := by
  unfold hostReads
  split <;> simp [hc]

@[simp] theorem canonical_answerAtomic {a : AtomReq} {m : Nat} {s : State} : Canonical (answerAtomic a m s) ↔ Canonical s := by simp [answerAtomic]

@[simp] theorem canonical_failAtomic {a : AtomReq} {s : State} (hc : Canonical s) : Canonical (failAtomic a s) := by simp +contextual [failAtomic, hc]

@[simp] theorem canonical_countAtomic {a : AtomReq} {r : Nat} {s : State} : Canonical (countAtomic a r s) ↔ Canonical s := by simp [countAtomic]

@[simp] theorem canonical_sawLatest {a : AtomReq} {r : Nat} {s : State} : Canonical (sawLatest a r s) ↔ Canonical s := by simp [sawLatest]

@[simp] theorem canonical_performAtomic {a : AtomReq} {s : State} (hc : Canonical s) : Canonical (performAtomic a s) := by
  have hs : Canonical (sawLatest a (ctxRink a.site a.ctx s) s) := canonical_sawLatest.2 hc
  unfold performAtomic
  dsimp only
  split
  · simp [hc]
  · split
    · simp [hs]
    · split
      · simp [hs]
      · next hw =>
        split at hw
        · simp [canonical_of_offWrite hs hw]
        · simp [canonical_of_rinkPuts hs hw]

@[simp] theorem canonical_hostAtomics {fn : Nat} {op : HostAtomic} {addr : Word} {s : State} : Canonical (hostAtomics fn op addr s) ↔ Canonical s := by
  unfold hostAtomics
  (repeat' split) <;> simp

@[simp] theorem canonical_serve {q : HostRequest} {s : State} (hc : Canonical s) : Canonical (q.serve s) := by
  unfold HostRequest.serve
  split <;> simp [hc]

@[simp] theorem canonical_takeRequest {q : HostRequest} {s : State} (hc : Canonical s) : Canonical (takeRequest q s) := by simp [takeRequest, hc]

theorem canonical_of_resumeRequest {s t : State} (hc : Canonical s) (h : resumeRequest s = some t) : Canonical t := by
  obtain ⟨p, -, rfl⟩ := Option.map_eq_some_iff.1 h
  exact canonical_serve (canonical_with.2 hc)

/-! ### Vector words -/

@[simp] theorem canonical_veWord {f : VFields} {srcs : List Nat} {extra : List (Option Hit)} {occ : Nat} {effect : State → State} {s : State}
    (he : Canonical (effect s)) (hc : Canonical s) : Canonical (veWord f srcs extra occ effect s) := by
  unfold veWord
  dsimp only
  split <;> simp [he, hc]

@[simp] theorem canonical_vLanes {f : VFields} {srcs : List Nat} {occ lat : Nat} {g : Site → List (List Lane) → Nat → Lane × Fl} {s : State} (hc :
    Canonical s) : Canonical (vLanes f srcs occ lat g s) := by
  simp [vLanes, hc]

@[simp] theorem canonical_vElems {f : VFields} {srcs : List Nat} {lat : Nat} {g : Site → Nat → List Nat → Nat × Fl} {s : State} (hc : Canonical s) :
    Canonical (vElems f srcs lat g s) := by
  simp [vElems, hc]

@[simp] theorem canonical_arith2 {f : VFields} {intLat : Nat} {gf : Nat → Fp → Fp → Fp × Fl} {gi : Int → Int → Int} {s : State} (hc : Canonical s) :
    Canonical (arith2 f intLat gf gi s) := by
  simp [arith2, hc]

@[simp] theorem canonical_fused {f : VFields} {g : Nat → Fp → Fp → Fp → Fp × Fl} {s : State} (hc : Canonical s) : Canonical (fused f g s) := by
  simp [fused, hc]

@[simp] theorem canonical_extreme {f : VFields} {big : Bool} {s : State} (hc : Canonical s) : Canonical (extreme f big s) := by simp [extreme, hc]

@[simp] theorem canonical_special {sel : Nat} {f : VFields} {s : State} (hc : Canonical s) : Canonical (special sel f s) := by simp [special, hc]

@[simp] theorem canonical_bitwise {f : VFields} {srcs : List Nat} {g : Lane → Lane → Lane} {s : State} (hc : Canonical s) : Canonical (bitwise f srcs g s) := by
  simp [bitwise, hc]

@[simp] theorem canonical_shiftElems {f : VFields} {g : Nat → Nat → Nat} {s : State} (hc : Canonical s) : Canonical (shiftElems f g s) := by
  simp [shiftElems, hc]

@[simp] theorem canonical_predWord {f : VFields} {two : Bool} {g : BitVec 64 → BitVec 64 → BitVec 64} {s : State} (hc : Canonical s) :
    Canonical (predWord f two g s) := by
  simp [predWord, hc]

/-! ### Fills -/

@[simp] theorem canonical_halfStop {k : Nat} {h : Side} {hit : Hit} {s : State} (hc : Canonical s) : Canonical (halfStop k h hit s) := by simp [halfStop, hc]

@[simp] theorem canonical_fillFault {k : Nat} {h : Side} {f : Fill} {hit : Hit} {s : State} (hc : Canonical s) : Canonical (fillFault k h f hit s) := by
  simp [fillFault, hc]

@[simp] theorem canonical_startFill {k : Nat} {h : Side} {s : State} (hc : Canonical s) : Canonical (startFill k h s) := by
  unfold startFill
  dsimp only
  (repeat' split) <;> simp [hc]

@[simp] theorem canonical_completeFill {k : Nat} {h : Side} {s : State} (hc : Canonical s) : Canonical (completeFill k h s) := by
  unfold completeFill
  dsimp only
  split <;> simp [hc]

@[simp] theorem canonical_putSlot {n : BitVec 4} {v : Slot} {s : State} : Canonical (putSlot n v s) ↔ Canonical s := Iff.rfl

@[simp] theorem canonical_halfFlags {k : Nat} {h : Side} {fl : Fl} {s : State} : Canonical (halfFlags k h fl s) ↔ Canonical s := Iff.rfl

@[simp] theorem canonical_fillWord {k : FillKind} {slot : BitVec 4} {s : State} (hc : Canonical s) : Canonical (fillWord k slot s) := by simp [fillWord, hc]

/-! ### Matrix words -/

@[simp] theorem canonical_sumFault {k : Nat} {h : Side} {i : Nat} {s : State} (hc : Canonical s) : Canonical (sumFault k h i s) := by simp [sumFault, hc]

@[simp] theorem canonical_slotFailure {k : Nat} {h : Side} {p : Side × Nat} {s : State} (hc : Canonical s) : Canonical (slotFailure k h p s) := by
  simp [slotFailure, hc]

@[simp] theorem canonical_promoteNest {k : Nat} {h : Side} {i row : Nat} {s0 : State} (hc : Canonical s0) : Canonical (promoteNest k h i row s0) := by
  unfold promoteNest
  dsimp only
  (repeat' split) <;> simp [hc]

@[simp] theorem canonical_outAction {k : Nat} {h : Side} {n : Nest} {cfg : NestCfg} {row : Nat} {s0 : State} (hc : Canonical s0) :
    Canonical (outAction k h n cfg row s0) := by
  unfold outAction
  dsimp only
  (repeat' split) <;> simp [hc]

@[simp] theorem canonical_addSignal {k : Nat} {h : Side} {flag due : Nat} {s : State} : Canonical (addSignal k h flag due s) ↔ Canonical s := Iff.rfl

@[simp] theorem canonical_levelActions {k : Nat} {h : Side} {i row : Nat} {cfg : NestCfg} {v : Level} {s : State} (hc : Canonical s) :
    Canonical (levelActions k h i row cfg v s) := by
  unfold levelActions
  extract_lets nest pending s1 s2 s3 at'
  have h1 : Canonical s1 := by simp [s1, hc]
  have h2 : Canonical s2 := by
    simp only [s2]
    split
    · split <;> simp [h1]
    · exact h1
  have h3 : Canonical s3 := by
    simp only [s3]
    split
    · split <;> simp [h2]
    · exact h2
  simp [h3]

@[simp] theorem canonical_endStep {k : Nat} {h : Side} {i : Nat} {s : State} (hc : Canonical s) : Canonical (endStep k h i s) := by
  unfold endStep
  extract_lets c asked
  split
  · exact hc
  · next n _ =>
    extract_lets cfg row s1 s2 s3 s4 left s5
    have h1 : Canonical s1 := canonical_modSite.2 hc
    have h2 : Canonical s2 := by simp [s2, h1]
    have h3 : Canonical s3 := by simp [s3, h2]
    have h4 : Canonical s4 := canonical_foldl (fun _ _ => canonical_levelActions) h3
    split
    · exact canonical_modSite.2 h4
    · have h5 : Canonical s5 := by simp [s5, h4]
      exact canonical_modSite.2 h5

@[simp] theorem canonical_beginStep {k : Nat} {h : Side} {i : Nat} {s : State} (hc : Canonical s) : Canonical (beginStep k h i s) := by
  unfold beginStep
  dsimp only
  (repeat' split) <;> simp [hc]

@[simp] theorem canonical_nestBeat {k : Nat} {h : Side} {s : State} (hc : Canonical s) : Canonical (nestBeat k h s) := by
  unfold nestBeat
  split <;> simp [hc]

@[simp] theorem canonical_startNest {k : Nat} {h : Side} {s : State} (hc : Canonical s) : Canonical (startNest k h s) := by
  unfold startNest
  dsimp only
  (repeat' split) <;> simp [hc]

@[simp] theorem canonical_retireNest {k : Nat} {h : Side} {s : State} : Canonical (retireNest k h s) ↔ Canonical s := by
  unfold retireNest
  dsimp only
  (repeat' split) <;> simp

/-! ### Vector memory -/

@[simp] theorem canonical_vLoad {f : VFields} {form : Nat} {s : State} (hc : Canonical s) : Canonical (vLoad f form s) := by simp [vLoad, hc]

@[simp] theorem canonical_vStore {f : VFields} {form : Nat} {s : State} (hc : Canonical s) : Canonical (vStore f form s) := by simp [vStore, hc]

@[simp] theorem canonical_indexWord {f : VFields} {srcs : List Nat} {w : Ve → BitVec 32} {s : State} (hc : Canonical s) : Canonical (indexWord f srcs w s) := by
  simp [indexWord, hc]

/-! ### What is performed at a beat -/

@[simp] theorem canonical_asSite {k : Nat} {f : State → State} {s : State} (hf : ∀ t, Canonical t → Canonical (f t)) (hc : Canonical s) :
    Canonical (asSite k f s) := canonical_with.2 (hf _ (canonical_with.2 hc))

@[simp] theorem canonical_latchEntry {k : Nat} {p : Pend} {h : Hit} {s : State} : Canonical (latchEntry k p h s) ↔ Canonical s := by
  unfold latchEntry
  split <;> simp

@[simp] theorem canonical_entryStop {k : Nat} {p : Pend} {h : Hit} {s0 : State} (hc : Canonical s0) : Canonical (entryStop k p h s0) := by
  unfold entryStop
  (repeat' split) <;> simp +contextual [hc]

@[simp] theorem canonical_putBack {k : Nat} {p : Pend} {s : State} : Canonical (putBack k p s) ↔ Canonical s := Iff.rfl

@[simp] theorem canonical_performAout {k : Nat} {p : Pend} {half bank whole : Bool} {row : Nat} {bf clear : Bool} {fctl : BitVec 6} {tile : Option Nat}
    {addr left : Nat} {s0 : State} (hc : Canonical s0) : Canonical (performAout k p half bank whole row bf clear fctl tile addr left s0) := by
  unfold performAout
  split <;> simp [hc]

@[simp] theorem canonical_loseEntry {k bank : Nat} {p : Pend} {s : State} (hc : Canonical s) : Canonical (loseEntry k bank s p) := by simp [loseEntry, hc]

@[simp] theorem canonical_loseFill {k bank : Nat} {h : Side} {s : State} (hc : Canonical s) : Canonical (loseFill k bank h s) := by simp [loseFill, hc]

@[simp] theorem canonical_meetRefresh {k g : Nat} {s : State} (hc : Canonical s) : Canonical (meetRefresh k g s) :=
  canonical_foldl (fun t h ht => by simp [ht]) (canonical_foldl (fun _ _ => canonical_loseEntry) hc)

@[simp] theorem canonical_clearWay {q : Ask} {s : State} (hc : Canonical s) : Canonical (clearWay q s) := by
  unfold clearWay
  extract_lets k c es first fills bank lost
  have hlost {r : Nat} {t : State} (ht : Canonical t) : Canonical (lost r t) := canonical_modSite.2 ht
  split
  · exact hc
  · exact canonical_foldl (fun _ _ ht => hlost (canonical_loseFill ht)) (canonical_foldl (fun _ _ ht => hlost (canonical_loseEntry ht)) hc)

@[simp] theorem canonical_performAsk {q : Ask} {s : State} (hc : Canonical s) : Canonical (performAsk s q) := by simp [performAsk, hc]

@[simp] theorem canonical_performTm {ks : List Nat} {s : State} (hc : Canonical s) : Canonical (performTm ks s) := by simp +contextual [performTm, hc]

@[simp] theorem canonical_noteEntry {k : Nat} {p : Pend} {addr : Nat} {s : State} : Canonical (noteEntry k p addr s) ↔ Canonical s := by simp [noteEntry]

@[simp] theorem canonical_performEntry {k : Nat} {p : Pend} {s : State} (hc : Canonical s) : Canonical (performEntry k p s) := by
  unfold performEntry
  extract_lets c
  split
  · split
    · split <;> simp [hc]
    · simp [hc]
  · simp [hc]
  · split
    · simp [hc]
    · split <;> simp [hc]
  · simp [hc]
  · split
    · simp [hc]
    · simp [hc]
  · simp [hc]
  · dsimp only
    split <;> simp [hc]
  · simp [hc]
  · simp [hc]
  · simp [hc]
  · split
    · simp [hc]
    · split
      · split <;> simp [hc]
      · exact hc
  · simp +contextual [hc]
  · simp [hc]
  · simp [hc]

@[simp] theorem canonical_takeEntry {k : Nat} {p : Pend} {s : State} (hc : Canonical s) : Canonical (takeEntry k p s) := by simp [takeEntry, hc]

@[simp] theorem canonical_beginBeat {k : Nat} {s : State} (hc : Canonical s) : Canonical (beginBeat k s) := by simp +contextual [beginBeat, hc]

@[simp] theorem canonical_storeTile {k : Nat} {p : Pend} {s : State} (hc : Canonical s) : Canonical (storeTile k p s) := by
  unfold storeTile
  split <;> simp [hc]

@[simp] theorem canonical_pushSignal {k : Nat} {all : List (Pend × Nat)} {q : Pend × Nat} {s : State} (hc : Canonical s) : Canonical (pushSignal k all q s) := by
  simp [pushSignal, hc]

@[simp] theorem canonical_settleClash {k n : Nat} {p : Pend} {s : State} (hc : Canonical s) : Canonical (settleClash k n p s) := by
  induction n generalizing p s with
  | zero => exact hc
  | succ n ih =>
    simp only [settleClash]
    split
    · exact hc
    · split
      · simp [hc]
      · exact ih (by simp [hc])

@[simp] theorem canonical_settleClashes {k : Nat} {s : State} (hc : Canonical s) : Canonical (settleClashes k s) := by simp +contextual [settleClashes, hc]

@[simp] theorem canonical_checkFill {k : Nat} {h : Side} {s : State} (hc : Canonical s) : Canonical (checkFill k h s) := by
  unfold checkFill
  dsimp only
  (repeat' split) <;> simp [hc]

@[simp] theorem canonical_checkRendez {k : Nat} {x : Side} {s : State} (hc : Canonical s) : Canonical (checkRendez k x s) := by
  simp +contextual [checkRendez, hc]

@[simp] theorem canonical_settleFrames {k : Nat} {s : State} : Canonical (settleFrames k s) ↔ Canonical s := by simp [settleFrames]

@[simp] theorem canonical_endBeat {k : Nat} {s : State} (hc : Canonical s) : Canonical (endBeat k s) := by
  unfold endBeat
  extract_lets c tiles s1 sigs s2 s3 s4
  have h1 : Canonical s1 := canonical_foldl (fun _ _ => canonical_storeTile) hc
  have h2 : Canonical s2 := canonical_modSite.2 (canonical_foldl (fun _ _ => canonical_pushSignal) h1)
  have h3 : Canonical s3 := canonical_checkFill (canonical_checkFill (canonical_settleClashes h2))
  have h4 : Canonical s4 := canonical_checkRendez (canonical_checkRendez h3)
  exact canonical_modSite.2 (canonical_settleTicks (canonical_modSite.2 (canonical_moveImages.2 (canonical_settleFrames.2 h4))))

/-! ### Fetch -/

theorem canonical_of_prepareVe {k : Nat} {i : Instr} {s t : State} (hc : Canonical s) (h : prepareVe k i s = some t) : Canonical t := by
  unfold prepareVe at h
  dsimp only at h
  split at h <;> cases h
  simp [hc]

@[simp] theorem canonical_chargeWord {live : Nat → Bool} {h : Nat} {u : Cur} {r w : Nat} {s : State} : Canonical (chargeWord live h u r w s) ↔ Canonical s := by
  unfold chargeWord
  (repeat' split) <;> simp

@[simp] theorem canonical_bpNotes {k h : Nat} {b : List Byte} {acts : List Nat} {s : State} : Canonical (bpNotes k h b acts s) ↔ Canonical s := by
  simp [bpNotes]

@[simp] theorem canonical_breakEngine {k h r : Nat} {s : State} : Canonical (breakEngine k h r s) ↔ Canonical s := by
  unfold breakEngine
  dsimp only
  split <;> simp

@[simp] theorem canonical_stopOnce {k r : Nat} {raise : State → State} {s : State} (hr : Canonical (raise s)) : Canonical (stopOnce k r raise s) :=
  canonical_modSite.2 hr

theorem canonical_of_bpStop {k h : Nat} {acts : List Nat} {s t : State} (hc : Canonical s) (hs : bpStop k h acts s = some t) : Canonical t := by
  unfold bpStop at hs
  extract_lets c r stop noted at hs
  have hnoted : Canonical noted := canonical_bpNotes.2 hc
  split at hs
  · split at hs
    · cases hs
      exact canonical_stopOnce (canonical_breakEngine.2 (canonical_modSite.2 hc))
    · split at hs <;> cases hs
      exact canonical_stopOnce (canonical_breakEngine.2 hnoted)
  · split at hs
    · cases hs
    · split at hs <;> cases hs
      · exact canonical_stopOnce (canonical_asCtx (fun _ => canonical_takeTrap) hnoted)
      · exact canonical_stopOnce (canonical_breakEngine.2 hnoted)

@[simp] theorem canonical_bpAfter {k : Nat} {acts : List Nat} {old : Ve} {s : State} : Canonical (bpAfter k acts old s) ↔ Canonical s := by simp [bpAfter]

/-! ### What follows at once -/

@[simp] theorem canonical_markDone {k code : Nat} {s : State} : Canonical (markDone k code s) ↔ Canonical s := Iff.rfl

/-! ### The advance of the beat -/

@[simp] theorem canonical_chargeKept {k : Nat} {s : State} : Canonical (chargeKept k s) ↔ Canonical s := by simp [chargeKept]

@[simp] theorem canonical_countBeat {k : Nat} {s : State} : Canonical (countBeat k s) ↔ Canonical s := by simp [countBeat]

@[simp] theorem canonical_countEntry {l : Launch} {s : State} : Canonical (countEntry s l) ↔ Canonical s := by simp [countEntry]

@[simp] theorem canonical_countRink {r : Nat} {s : State} : Canonical (countRink r s) ↔ Canonical s := Iff.rfl

@[simp] theorem canonical_arriveRink {r : Nat} {s : State} : Canonical (arriveRink r s) ↔ Canonical s :=
  canonical_foldl_iff fun t a => by split <;> simp

@[simp] theorem canonical_endCycle {s : State} (hc : Canonical s) : Canonical (endCycle s) := by
  unfold endCycle
  extract_lets ks s0 s1 s2
  have h0 : Canonical s0 := canonical_foldl (fun _ _ ht => canonical_foldl (fun _ _ hu => canonical_countEntry.2 hu) ht) hc
  have h1 : Canonical s1 := canonical_foldl (fun _ _ => canonical_endBeat) h0
  have h2 : Canonical s2 := canonical_foldl (fun _ _ hu => canonical_countBeat.2 hu) h1
  exact canonical_foldl (fun _ _ hu => canonical_countRink.2 hu) h2

@[simp] theorem canonical_beginCycle {s : State} (hc : Canonical s) : Canonical (beginCycle s) := by
  unfold beginCycle
  extract_lets s1 s2 s3 ks s4
  have h3 : Canonical s3 := canonical_foldl (s := s2) (fun _ _ ht => canonical_arriveRink.2 ht) hc
  have h4 : Canonical s4 := canonical_foldl (fun _ _ => canonical_beginBeat) (canonical_performTm h3)
  exact canonical_foldl (fun _ _ ht => canonical_pumpPort.2 ht) h4

@[simp] theorem canonical_advance {s : State} (hc : Canonical s) : Canonical (advance s) := by simp [advance, hc]

/-! ### Vector data -/

@[simp] theorem canonical_reduceWord {kind : Nat} {f : VFields} {s : State} (hc : Canonical s) : Canonical (reduceWord kind f s) := by simp [reduceWord, hc]

@[simp] theorem canonical_permute {f : VFields} {srcs : List Nat} {g : List Lane → List Lane → Nat → Lane} {s : State} (hc : Canonical s) :
    Canonical (permute f srcs g s) := by
  simp [permute, hc]

/-! ### Issue -/

@[simp] theorem canonical_stopHead {h : Nat} {hit : Hit} {s : State} (hc : Canonical s) : Canonical (stopHead h hit s) := by simp [stopHead, hc]

@[simp] theorem canonical_presetClass {h : Nat} {u : Cur} {s : State} : Canonical (presetClass h u s) ↔ Canonical s := by simp [presetClass]

@[simp] theorem canonical_markIssued {h : Nat} {u : Cur} {s : State} : Canonical (markIssued h u s) ↔ Canonical s := by simp [markIssued]

@[simp] theorem canonical_followWord {live : Nat → Bool} {h : Nat} {u : Cur} {w r : Nat} {old : Site} {acts : List Nat} {i : Instr} {s : State} :
    Canonical (followWord live h u w r old acts i s) ↔ Canonical s := by
  simp [followWord]

@[simp] theorem canonical_afterWord {live : Nat → Bool} {h : Nat} {u : Cur} {w r : Nat} {old : Site} {acts : List Nat} {i : Instr} {s : State} :
    Canonical (afterWord live h u w r old acts i s) ↔ Canonical s := by
  simp [afterWord]

@[simp] theorem canonical_blockFifo {k f : Nat} {s : State} (hc : Canonical s) : Canonical (blockFifo k f s) := by simp [blockFifo, hc]

@[simp] theorem canonical_blockPushes {k : Nat} {i : Instr} {s : State} (hc : Canonical s) : Canonical (blockPushes k i s) := by
  unfold blockPushes
  split <;> simp [hc]

@[simp] theorem canonical_blockTokens {cs : List (Nat × Site)} {s : State} (hc : Canonical s) : Canonical (blockTokens cs s) := by
  induction cs generalizing s with
  | nil => exact hc
  | cons p cs ih =>
    refine ih ?_
    split
    · exact hc
    · exact canonical_foldl (fun _ _ => canonical_blockFifo) hc

@[simp] theorem canonical_takePending {u : Cur} {p : PendTrap × List PendTrap} {s : State} (hc : Canonical s) : Canonical (takePending u p s) := by
  simp +contextual [takePending, hc]

/-! ## Every instruction -/

/-- Where the outcome is a next state, its memories are in form. -/
def StaysCanonical (o : Outcome State Fault Refusal) : Prop := ∀ t, o = .next t → Canonical t
@[simp] theorem staysCanonical_next {t : State} : StaysCanonical (.next t) ↔ Canonical t := ⟨fun h => h t rfl, fun h _ e => by cases e; exact h⟩
@[simp] theorem staysCanonical_ite {c : Prop} [Decidable c] {a b : Outcome State Fault Refusal} :
    StaysCanonical (if c then a else b) ↔ if c then StaysCanonical a else StaysCanonical b := by split <;> rfl

section Step

variable {s : State}

theorem staysCanonical_atomicWord {op : AtomicOp} {dbl : Bool} {d : BitVec 5} {a : BitVec 4} {b : BitVec 5} {e : Option (BitVec 5)} (hc : Canonical s) :
    StaysCanonical (atomicWord op dbl d a b e s) := by
  dsimp only [atomicWord]
  split
  · simp [hc]
  · split
    · next h => simp [canonical_of_snd h (canonical_resolve.2 hc)]
    · next h =>
      have ht := canonical_of_snd h (canonical_resolve.2 hc)
      split
      · split <;> simp [ht]
      · simp [ht]

theorem staysCanonical_launch {d : BitVec 5} {a : BitVec 4} (hc : Canonical s) : StaysCanonical (execLaunch d a s) := by
  unfold execLaunch
  dsimp only
  split
  · simp [hc]
  · split
    · simp [hc]
    · split
      · simp [hc]
      · next h1 =>
        have hc1 := canonical_of_recordRead hc h1
        split
        · simp [hc, hc1]
        · split
          · simp [hc1]
          · next h2 => simp [hc, canonical_of_recordRead hc1 h2]

theorem staysCanonical_gate {p : Bool} (hc : Canonical s) : StaysCanonical (execGate p s) := by
  unfold execGate
  dsimp only
  split
  · simp [hc]
  · split
    · simp [hc]
    · split
      · simp [hc]
      · split
        · next h => simpa using canonical_of_gateDecision (by simp [hc]) h
        · simp [hc]

theorem staysCanonical_startPulse {r lctr : Nat} (hc : Canonical s) : StaysCanonical (execStartPulse r lctr s) := by
  unfold execStartPulse
  split <;> simp [hc]

theorem staysCanonical_commandRetire {u : EngineId} (hc : Canonical s) : StaysCanonical (execCommandRetire u s) := by
  cases u <;> (unfold execCommandRetire; dsimp only; split <;> simp [hc])

/-- What comes of a flit that the port takes. -/
theorem canonical_of_receiveFlit {n : Nat} {f : Flit} {b : Bool} {t : State} (hc : Canonical s) (h : receiveFlit n f s = (b, t)) : Canonical t :=
  canonical_of_snd h (canonical_receiveFlit.2 hc)

theorem staysCanonical_dataFlit {n : Nat} {f : Flit} (hc : Canonical s) : StaysCanonical (execDataFlit n f s) := by
  unfold execDataFlit
  split
  · next h => simpa using canonical_of_receiveFlit hc h
  · next h =>
    have h1 := canonical_of_receiveFlit hc h
    split
    · next h2 => simpa using canonical_of_reservedKind h1 h2
    · simp [h1]

theorem staysCanonical_creditFlit {a : LinkFlit} (hc : Canonical s) : StaysCanonical (execCreditFlit a s) := by
  unfold execCreditFlit
  split <;> next h => simpa using canonical_of_receiveFlit hc h

theorem staysCanonical_refusalFlit {n : Nat} {f : Flit} (hc : Canonical s) : StaysCanonical (execRefusalFlit n f s) := by
  unfold execRefusalFlit
  split
  · next h => simpa using canonical_of_receiveFlit hc h
  · next h =>
    have h1 := canonical_of_receiveFlit hc h
    split
    · next h2 => simpa using canonical_of_reservedKind h1 h2
    · split
      · simp [h1]
      · split <;> simp [h1]

theorem staysCanonical_keepAliveFlit {a : LinkFlit} (hc : Canonical s) : StaysCanonical (execKeepAliveFlit a s) := by
  unfold execKeepAliveFlit
  split <;> next h => simpa using canonical_of_receiveFlit hc h

theorem staysCanonical_cpatApply {d c : Nat} (hc : Canonical s) : StaysCanonical (execCpatApply d c s) := by
  unfold execCpatApply
  split <;> simp [hc]

theorem staysCanonical_freezePulse {r k : Nat} (hc : Canonical s) : StaysCanonical (execFreezePulseArrival r k s) := by
  unfold execFreezePulseArrival
  split <;> simp [hc]
theorem staysCanonical_resumePulse {r k : Nat} (hc : Canonical s) : StaysCanonical (execResumePulseArrival r k s) := by
  unfold execResumePulseArrival
  split <;> simp [hc]
theorem staysCanonical_autoResume {r : Nat} (hc : Canonical s) : StaysCanonical (execAutoResume r s) := by
  unfold execAutoResume
  split <;> simp [hc]

theorem staysCanonical_leafWrite {entry : Nat} {w : Word} {c : Bool} (hc : Canonical s) : StaysCanonical (execStage2LeafWrite entry w c s) := by
  unfold execStage2LeafWrite
  dsimp only
  split
  · simp [hc]
  · cases h : offWrite none (entry / 16 * 16) (entry / 16 * 16) (leBytes 8 w.toNat ++ if c then leBytes 8 0 else []) s with
    | none => simpa using hc
    | some t => simpa using canonical_of_offWrite hc h

theorem canonical_startMove {leaf : Nat} {ms : List Move} (hc : Canonical s) : Canonical { s with mem := writeMov leaf true s.mem, moves := ms } :=
  ⟨wf_writeMov hc.1, hc.2⟩

theorem staysCanonical_migrationStart {fn : Nat} {p : Word} {t : Nat} (hc : Canonical s) : StaysCanonical (execPageMigrationStart fn p t s) := by
  unfold execPageMigrationStart
  dsimp only
  split
  · simpa using hc
  · split
    · exact staysCanonical_next.2 (canonical_startMove (canonical_dropTlb.2 (canonical_with.2 hc)))
    · simpa using hc

theorem staysCanonical_migrationComplete {fn : Nat} {p : Word} (hc : Canonical s) : StaysCanonical (execPageMigrationComplete fn p s) := by
  unfold execPageMigrationComplete
  split <;> simp [hc]
theorem exec_staysCanonical (i : Instr) (s : State) (hc : Canonical s) : StaysCanonical (exec i s) := by
  cases i with
  | launch => unfold exec; exact staysCanonical_launch hc
  | gate => unfold exec; exact staysCanonical_gate hc
  | freezePulseArrival => unfold exec; exact staysCanonical_freezePulse hc
  | startPulse => unfold exec; exact staysCanonical_startPulse hc
  | commandRetire => unfold exec; exact staysCanonical_commandRetire hc
  | dataFlit => unfold exec; exact staysCanonical_dataFlit hc
  | creditFlit => unfold exec; exact staysCanonical_creditFlit hc
  | refusalFlit => unfold exec; exact staysCanonical_refusalFlit hc
  | keepAliveFlit => unfold exec; exact staysCanonical_keepAliveFlit hc
  | stage2LeafWrite => unfold exec; exact staysCanonical_leafWrite hc
  | pageMigrationStart => unfold exec; exact staysCanonical_migrationStart hc
  | pageMigrationComplete => unfold exec; exact staysCanonical_migrationComplete hc
  | cpatApply => unfold exec; exact staysCanonical_cpatApply hc
  | autoResume => unfold exec; exact staysCanonical_autoResume hc
  | resumePulseArrival => unfold exec; exact staysCanonical_resumePulse hc
  | amoadd | amoand | amoor | amoxor | amoswap | amomin | amomax | amominn | amomaxn | cas =>
    unfold exec
    exact staysCanonical_atomicWord hc
  | add | sub | andR | orR | xorR | andn | shl | shr | sra | slt | sltn | seq | minR | maxR | minn | maxn | mul | mulh | mulhn | div | divn | rem | remn
      | sel | clz | ctz | popc | addw | subw | addi | andi | ori | xori | shli | shri | srai | slti | sltni | lui | orhi | orti | muli =>
    unfold exec
    simp [execAdd, execSub, execAnd, execOr, execXor, execAndn, execShl, execShr, execSra, execSlt, execSltn, execSeq, execMin, execMax, execMinn,
      execMaxn, execMul, execMulh, execMulhn, execDiv, execDivn, execRem, execRemn, execSel, execClz, execCtz, execPopc, execAddw, execSubw, execAddi,
      execAndi, execOri, execXori, execShli, execShri, execSrai, execSlti, execSltni, execLui, execOrhi, execOrti, execMuli, rrWord, rWord, divWord,
      hc]
  | beq | bne | blt | bge | bltn | bgen | loop | jmp | call | ret | jr | callr =>
    unfold exec
    simp [execBeq, execBne, execBlt, execBge, execBltn, execBgen, execLoop, execJmp, execCall, execRet, execJr, execCallr, branch, hc]
  | ldS8 | ldZ8 | ldS16 | ldZ16 | ldS32 | ldZ32 | ldD | ldC | stB | stH | stW | stD | stC | mark | fence =>
    unfold exec
    simp [execLdS8, execLdZ8, execLdS16, execLdZ16, execLdS32, execLdZ32, execLdD, execLdC, execStB, execStH, execStW, execStD, execStC, execMark,
      execFence, loadWord, storeWord, hc]
  | waitf | sigf | tstf | idle | fork | rendez | pushc =>
    unfold exec
    simp [execWaitf, execSigf, execTstf, execIdle, execFork, execRendez, execPushc, hc]
  | lwait | evpop | wpub | wsync =>
    unfold exec
    simp [execLwait, execEvpop, execWpub, execWsync, hc]
  | trap | hcall | mfs | mts | halt | snap =>
    unfold exec
    simp [execTrap, execHcall, execMfs, execMts, execHalt, execSnap, hc]
  | policyRefresh | bandFall | traceSample | traceRecordDrop =>
    unfold exec
    simp [execPolicyRefresh, execBandFall, execTraceSample, execTraceRecordDrop, hc]
  | lit | seqIdle | idlew | cat | dup | drop | swap | sadd | sneg | sshl | seqWaitf | seqSigf | rep =>
    unfold exec
    simp [execLit, execSeqIdle, execIdlew, execCat, execDup, execDrop, execSwap, execSadd, execSneg, execSshl, execSeqWaitf, execSeqSigf, execRep, hc]
  | lrec | copy | copyz | chain | crcset | crcchk | lfence | lend =>
    unfold exec
    simp [execLrec, execCopy, execCopyz, execChain, execCrcset, execCrcchk, execLfence, execLend, hc]
  | csend | crecv | creduce | cgather | cbar | cwait | contributionArrival | negativeAcknowledge | laneFailure | retrainComplete | retrainTimeout =>
    unfold exec
    simp [execCsend, execCrecv, execCreduce, execCgather, execCbar, execCwait, execContributionArrival, execNegativeAcknowledge, execLaneFailure,
      execRetrainComplete, execRetrainTimeout, hc]
  | temperatureSample | rvoteWrite | optabWrite | warmReset | operatingPointChange | clockSwitch | voltageRampDone | supplyMonitorSample | holdEntry |
      holdExit | pgoodWarnNFall | retctlEnter | retctlResume | retentionComplete | pgoodStable | retentionResume | powerOff =>
    unfold exec
    simp [execTemperatureSample, execRvoteWrite, execOptabWrite, execWarmReset, execOperatingPointChange, execClockSwitch, execVoltageRampDone,
      execSupplyMonitorSample, execHoldEntry, execHoldExit, execPgoodWarnNFall, execRetctlEnter, execRetctlResume, execRetentionComplete,
      execPgoodStable, execRetentionResume, execPowerOff, hc]
  | boot | measurementExtend | attcmd | attestationComplete =>
    unfold exec
    simp [execBoot, execMeasurementExtend, execAttcmd, execAttestationComplete, hc]
  | rinkCreate | rinkDestroy | rinkSuspend | rinkUnsuspend | ownWrite | placeEntryWrite | tmshareWrite | cpatWrite | rfabWrite | rlandWrite | perfClaim
      | perfRelease | perfRevoke | snaptrigRink | snaptrigDie =>
    unfold exec
    simp [execRinkCreate, execRinkDestroy, execRinkSuspend, execRinkUnsuspend, execOwnWrite, execPlaceEntryWrite, execTmshareWrite, execCpatWrite,
      execRfabWrite, execRlandWrite, execPerfClaim, execPerfRelease, execPerfRevoke, execSnaptrigRink, execSnaptrigDie, hc]
  | rfrzResume | rfrzRewind | pcremapGo =>
    unfold exec
    simp [execRfrzResume, execRfrzRewind, execPcremapGo, hc]
  | tinvGuestPage | tinvIntermediatePage | tinvAll | tinvDone | migrationEpoch | keyErase | windowDestroy =>
    unfold exec
    simp [execTinvGuestPage, execTinvIntermediatePage, execTinvAll, execTinvDone, execMigrationEpoch, execKeyErase, execWindowDestroy, hc]
  | hypervisorReturn | jobCancel | jobStart | operatorLengthExceeded =>
    unfold exec
    simp [execHypervisorReturn, execJobCancel, execJobStart, execOperatorLengthExceeded, hc]
  | readClearRegister | registerWrite =>
    unfold exec
    simp [execReadClearRegister, execRegisterWrite, hc]
  | hostBarWrite | hostBarRead | hostAtomicop | jobGo | offChipAccessPerformed =>
    unfold exec
    simp [execHostBarWrite, execHostBarRead, execHostAtomicop, execJobGo, execOffChipAccessPerformed, hc]
  | vidle | vwaitf | vsigf | vend | vsetlc | vturn | vadd | vsub | vmul | vfma | vfms | vfnma | vmax | vmin | vabs | vneg | vcopysgn | vrcp | vrsq |
      vexp2 | vlog2 | vand | vor | vxor | vnot | vshl | vshr | vsra | vmov | vmovi | vmovhi | vcmp | vsel | vpand | vpor | vpxor | vpnot | vplen =>
    unfold exec
    simp [execVidle, execVwaitf, execVsigf, execVend, execVsetlc, execVturn, execVadd, execVsub, execVmul, execVfma, execVfms, execVfnma, execVmax,
      execVmin, execVabs, execVneg, execVcopysgn, execVrcp, execVrsq, execVexp2, execVlog2, execVand, execVor, execVxor, execVnot, execVshl, execVshr,
      execVsra, execVmov, execVmovi, execVmovhi, execVcmp, execVsel, execVpand, execVpor, execVpxor, execVpnot, execVplen, hc]
  | claim | fill | sfill | dfill | fillComplete =>
    unfold exec
    simp [execClaim, execFill, execSfill, execDfill, execFillComplete, hc]
  | mtx | mfx | release | mnest | mgo | promote | aclr | aout | mend | nestStart | nestRetire =>
    unfold exec
    simp [execMtx, execMfx, execRelease, execMnest, execMgo, execPromote, execAclr, execAout, execMend, execNestStart, execNestRetire, hc]
  | vld | vlds | vldg | vst | vsts | vscat | vldt | vstt | vxaddi | vxadd | vxset =>
    unfold exec
    simp [execVld, execVlds, execVldg, execVst, execVsts, execVscat, execVldt, execVstt, execVxaddi, execVxadd, execVxset, hc]
  | kmov | kfld | kstep | kseek | kclip | kmask | kcover | kdrop =>
    unfold exec
    simp [execKmov, execKfld, execKstep, execKseek, execKclip, execKmask, execKcover, execKdrop, capWord, hc]
  | rfree =>
    unfold exec
    simp [execRfree, hc]
  | vrsum | vrmax | vrmin | vperm | vbcast | vrot | vzip | vunzip | vcvt | vqbfp | vdqbfp | vsrnd | vrng | vseedgen | vseedsrch =>
    unfold exec
    simp [execVrsum, execVrmax, execVrmin, execVperm, execVbcast, execVrot, execVzip, execVunzip, execVcvt, execVqbfp, execVdqbfp, execVsrnd,
      execVrng, execVseedgen, execVseedsrch, hc]
  | tick | coreCheck | retentionDeadline | functionReset =>
    unfold exec
    simp +contextual [execTick, execCoreCheck, execRetentionDeadline, execFunctionReset, hc]
  | push | pop | ralloc | rwax | cancel | eret | vloop | endr | unitAllocation | unitComplete | fillStart | copyTokenPush | collectiveCommandStart |
      collectiveOpComplete | collectiveTimeout | groupExpiry | forcedRefresh | atomicUnitServe | jobAcceptance | migreq | launchFrozenTrap |
      pcremapDone =>
    unfold exec
    dsimp only [execPush, execPop, execRalloc, execRwax, execCancel, execEret, execVloop, execEndr, execUnitAllocation, execUnitComplete,
      execFillStart, execCopyTokenPush, execCollectiveCommandStart, execCollectiveOpComplete, execCollectiveTimeout, execGroupExpiry,
      execForcedRefresh, execAtomicUnitServe, execJobAcceptance, execMigreq, execLaunchFrozenTrap, execPcremapDone]
    (repeat' split) <;> simp [hc]
  | liftCommandStart | hostReadCompletion =>
    unfold exec
    dsimp only [execLiftCommandStart, execHostReadCompletion]
    (repeat' split) <;> simp +contextual [hc]

/-! ## What the module does by itself -/

/-- An event that may follow: where there is one, it keeps the form. -/
def MayStay (o : Option Answer) : Prop := ∀ a, o = some a → StaysCanonical a

theorem mayStay_orElse {a : Option Answer} {b : Unit → Option Answer} (ha : MayStay a) (hb : MayStay (b ())) : MayStay (orElse' a b) := by
  cases a with
  | some x => exact ha
  | none => exact hb

theorem mayStay_none : MayStay none := fun _ h => nomatch h

theorem mayStay_some {a : Answer} (h : StaysCanonical a) : MayStay (some a) := by rintro _ ⟨⟩; exact h

theorem mayStay_ite {c : Prop} [Decidable c] {a b : Option Answer} (ha : MayStay a) (hb : MayStay b) : MayStay (if c then a else b) := by
  split
  · exact ha
  · exact hb

theorem mayStay_autoIf {b : Bool} {f : Unit → Answer} (h : StaysCanonical (f ())) : MayStay (autoIf b f) :=
  mayStay_ite (mayStay_some h) mayStay_none

theorem mayStay_map {α : Type} {f : α → Answer} (o : Option α) (h : ∀ x, o = some x → StaysCanonical (f x)) : MayStay (o.map f) := by
  intro a ha
  obtain ⟨x, hx, rfl⟩ := Option.map_eq_some_iff.1 ha
  exact h x hx

theorem mayStay_findSome {α : Type} {f : α → Option Answer} (l : List α) (h : ∀ x, MayStay (f x)) : MayStay (l.findSome? f) := by
  intro a ha
  obtain ⟨x, -, hx⟩ := List.exists_of_findSome?_eq_some ha
  exact h x a hx

theorem autoFill_stays (k : Nat) (h : Side) (hc : Canonical s) : MayStay (autoFill k h s) := by
  unfold autoFill
  exact mayStay_autoIf (exec_staysCanonical (.fillComplete k h) _ (canonical_markDone.2 hc))

theorem autoHalf_stays (k : Nat) (h : Side) (hc : Canonical s) : MayStay (autoHalf k h s) :=
  mayStay_ite mayStay_none <|
    mayStay_orElse (mayStay_autoIf (exec_staysCanonical (.nestRetire k h) s hc)) <|
    mayStay_orElse (mayStay_autoIf (staysCanonical_next.2 (by simp [hc]))) <|
    mayStay_orElse (mayStay_autoIf (exec_staysCanonical (.nestStart k h) _ (canonical_markDone.2 hc))) <|
    mayStay_autoIf (exec_staysCanonical (.fillStart k h) _ (canonical_markDone.2 hc))

theorem autoSite_stays (hc : Canonical s) (p : Nat × Site) : MayStay (autoSite s p) := by
  unfold autoSite
  refine mayStay_orElse (mayStay_ite mayStay_none <|
      mayStay_orElse (autoFill_stays _ _ hc) <| mayStay_orElse (autoFill_stays _ _ hc) <|
      mayStay_orElse (autoHalf_stays _ _ hc) (autoHalf_stays _ _ hc)) <|
    mayStay_orElse (mayStay_ite mayStay_none (mayStay_map _ fun g _ => ?expiry)) <|
    mayStay_orElse (mayStay_map _ fun g _ => ?refresh) <|
    mayStay_orElse (mayStay_autoIf ?sample) <|
    mayStay_autoIf ?drop
  case expiry => exact exec_staysCanonical (.groupExpiry p.1 g) s hc
  case refresh => exact exec_staysCanonical (.forcedRefresh p.1 g) s hc
  case sample => exact exec_staysCanonical (.traceSample p.1) _ (canonical_markDone.2 hc)
  case drop => exact exec_staysCanonical (.traceRecordDrop p.1) s hc

theorem autoLaunch_stays (r : Nat) (hc : Canonical s) (l : Launch) : MayStay (autoLaunch r s l) := by
  unfold autoLaunch
  split
  · next u _ => exact mayStay_some (exec_staysCanonical (.unitComplete r l.lctr u.entry.core) s hc)
  · exact mayStay_autoIf (exec_staysCanonical (.startPulse r l.lctr) s hc)

theorem autoRink_stays (hc : Canonical s) (p : Nat × Rink) : MayStay (autoRink s p) := by
  unfold autoRink
  refine mayStay_orElse (mayStay_findSome _ (autoLaunch_stays p.1 hc)) <|
    mayStay_orElse (mayStay_map _ fun c _ => ?timeout) <|
    mayStay_orElse (mayStay_autoIf ?resume) <|
    mayStay_orElse (mayStay_autoIf ?notify) <|
    mayStay_orElse (mayStay_autoIf ?length) <|
    mayStay_orElse (mayStay_autoIf (staysCanonical_next.2 (by simp [hc]))) <|
    mayStay_autoIf ?start
  case timeout => exact exec_staysCanonical (.collectiveTimeout p.1 c.1) s hc
  case resume => exact exec_staysCanonical (.autoResume p.1) s hc
  case notify => exact exec_staysCanonical (.launchFrozenTrap p.1) s hc
  case length => exact exec_staysCanonical (.operatorLengthExceeded p.1) s hc
  case start => exact exec_staysCanonical (.jobStart p.1) s hc

theorem autoDie_stays (hc : Canonical s) (p : Nat × Die) : MayStay (autoDie s p) :=
  mayStay_orElse (mayStay_autoIf (exec_staysCanonical (.bandFall p.1) s hc)) <|
  mayStay_map _ fun c _ => exec_staysCanonical (.cpatApply p.1 c.1) s hc

theorem autoPower_stays (hc : Canonical s) : MayStay (autoPower s) :=
  mayStay_orElse (mayStay_autoIf (exec_staysCanonical .retentionResume s hc)) <|
  mayStay_orElse (mayStay_autoIf (exec_staysCanonical .holdEntry s hc)) <|
  mayStay_orElse (mayStay_autoIf (exec_staysCanonical .operatingPointChange s hc)) <|
  mayStay_orElse (mayStay_autoIf (exec_staysCanonical .voltageRampDone s hc)) <|
  mayStay_autoIf (exec_staysCanonical .clockSwitch s hc)

theorem autoEvent_stays (hc : Canonical s) : MayStay (autoEvent s) :=
  mayStay_orElse (autoPower_stays hc) <|
  mayStay_orElse (mayStay_map _ fun _ h => staysCanonical_next.2 (canonical_of_resumeRequest hc h)) <|
  mayStay_orElse (mayStay_findSome _ (autoSite_stays hc)) <|
  mayStay_orElse (mayStay_findSome _ (autoRink_stays hc)) <|
  mayStay_findSome _ (autoDie_stays hc)

/-! ## Elastic events and the island -/

/-- Every choice of the list keeps the form. -/
def AllStay (l : List Choice) : Prop := ∀ f ∈ l, StaysCanonical (f ())

theorem allStay_nil : AllStay [] := fun _ h => nomatch h

theorem allStay_append {l m : List Choice} (hl : AllStay l) (hm : AllStay m) : AllStay (l ++ m) :=
  fun f hf => (List.mem_append.1 hf).elim (hl f) (hm f)

theorem allStay_choiceIf {b : Bool} {f : Choice} (h : StaysCanonical (f ())) : AllStay (choiceIf b f) := by
  cases b with
  | false => exact allStay_nil
  | true => rintro _ (_ | ⟨_, ⟨⟩⟩); exact h

theorem allStay_map {α : Type} {f : α → Choice} (l : List α) (h : ∀ x, StaysCanonical (f x ())) : AllStay (l.map f) := by
  intro g hg
  obtain ⟨x, -, rfl⟩ := List.mem_map.1 hg
  exact h x

theorem allStay_flatMap {α : Type} {f : α → List Choice} (l : List α) (h : ∀ x, AllStay (f x)) : AllStay (l.flatMap f) := by
  intro g hg
  obtain ⟨x, -, hx⟩ := List.mem_flatMap.1 hg
  exact h x g hx

theorem elasticCtx_stays (k : Nat) (x : Side) (hc : Canonical s) : AllStay (elasticCtx k x s) :=
  allStay_append (allStay_choiceIf (exec_staysCanonical (.offChipAccessPerformed k x true) s hc))
    (allStay_choiceIf (exec_staysCanonical (.offChipAccessPerformed k x false) s hc))

theorem elasticEngine_stays (k : Nat) (l1 : Side) (hc : Canonical s) : AllStay (elasticEngine k l1 s) := by
  unfold elasticEngine
  dsimp only
  split
  · split
    · exact allStay_choiceIf (exec_staysCanonical (.liftCommandStart k l1) s hc)
    · exact allStay_nil
  · split
    · rintro _ (_ | ⟨_, ⟨⟩⟩)
      show StaysCanonical (execCommandRetire (.lift k l1) s)
      exact staysCanonical_commandRetire hc
    · split
      · exact allStay_choiceIf (exec_staysCanonical (.copyTokenPush k l1) s hc)
      · exact allStay_nil

theorem elasticSite_stays (hc : Canonical s) (p : Nat × Site) : AllStay (elasticSite s p) := by
  unfold elasticSite
  split
  · exact allStay_nil
  · exact allStay_append (allStay_append (allStay_append (allStay_append (elasticCtx_stays _ _ hc) (elasticCtx_stays _ _ hc))
      (elasticEngine_stays _ _ hc)) (elasticEngine_stays _ _ hc)) (allStay_map _ fun g => exec_staysCanonical (.policyRefresh p.1 g.1) s hc)

theorem elasticRink_stays (hc : Canonical s) (p : Nat × Rink) : AllStay (elasticRink s p) :=
  allStay_append (allStay_map _ fun l => exec_staysCanonical (.unitAllocation p.1 l.lctr) s hc)
    (allStay_map _ fun c => exec_staysCanonical (.collectiveOpComplete p.1 c.1) s hc)

theorem elasticColl_stays (hc : Canonical s) (d : Nat) (p : Nat × CollEngine) : AllStay (elasticColl s d p) := by
  unfold elasticColl
  split
  · exact allStay_choiceIf (exec_staysCanonical (.collectiveCommandStart d p.1) s hc)
  · exact allStay_choiceIf (exec_staysCanonical (.commandRetire (.coll d p.1)) s hc)
  · exact allStay_nil

theorem acceptances_stay (hc : Canonical s) (fn : Nat) : AllStay (acceptances s fn) :=
  allStay_choiceIf (exec_staysCanonical (.jobAcceptance fn _) s hc)

theorem elasticFn_stays (hc : Canonical s) (p : Nat × Fn) : AllStay (elasticFn s p) :=
  allStay_append (allStay_append (acceptances_stay hc p.1) (allStay_choiceIf (exec_staysCanonical (.tinvDone p.1) s hc)))
    (allStay_choiceIf (exec_staysCanonical (.attestationComplete p.1) s hc))

theorem elasticMemory_stays (hc : Canonical s) : AllStay (elasticMemory s) :=
  allStay_append (allStay_append (allStay_append (allStay_append (allStay_append
    (allStay_map _ fun b => exec_staysCanonical (.atomicUnitServe b.1) s hc)
    (allStay_map _ fun m => exec_staysCanonical (.pageMigrationStart m.1 (.ofNat 64 m.2.1) m.2.2) s hc))
    (allStay_map _ fun m => exec_staysCanonical (.pageMigrationComplete m.fn (.ofNat 64 m.ia)) s hc))
    (allStay_map _ fun w => exec_staysCanonical (.windowDestroy w.1) s hc))
    (allStay_map _ fun _ => staysCanonical_next.2 (by simp [hc])))
    (allStay_choiceIf (exec_staysCanonical .pcremapDone s hc))

theorem elasticEvents_stay (hc : Canonical s) : AllStay (elasticEvents s) :=
  allStay_append (allStay_append (allStay_append (allStay_append
    (allStay_flatMap _ (elasticSite_stays hc)) (allStay_flatMap _ (elasticRink_stays hc)))
    (allStay_flatMap _ fun d => allStay_flatMap _ (elasticColl_stays hc d.1))) (allStay_flatMap _ (elasticFn_stays hc)))
    (elasticMemory_stays hc)

theorem islandEvents_stay (hc : Canonical s) : AllStay (islandEvents s) :=
  allStay_append (allStay_flatMap _ fun p => acceptances_stay hc p.1) (allStay_map _ fun _ => staysCanonical_next.2 (by simp [hc]))

/-- The event that is chosen is one of those that may happen. -/
theorem chooseEvent_stays {events : State → List Choice} (h : ∀ {t}, Canonical t → AllStay (events t)) (hc : Canonical s) :
    MayStay (chooseEvent events s).1 := by
  unfold chooseEvent
  dsimp only
  split
  · exact mayStay_none
  · next e es he =>
    have hl : AllStay (e :: es) := he ▸ h (canonical_with.2 hc)
    split
    · exact mayStay_none
    · next n _ =>
      refine mayStay_some (hl _ ?_)
      cases hn : (e :: es)[n]? with
      | none => exact List.mem_cons_self
      | some f => exact List.mem_of_getElem? hn

/-- Where no event is chosen, at most the counter of free values has moved. -/
theorem canonical_chooseEvent {events : State → List Choice} (hc : Canonical s) : Canonical (chooseEvent events s).2 := by
  unfold chooseEvent
  dsimp only
  split
  · exact hc
  · split <;> exact canonical_with.2 hc

/-! ## The step -/

theorem runWord_stays (h : Nat) (u : Cur) (w : Nat) (i : Instr) (hc : Canonical s) : StaysCanonical (runWord h u w i s) := by
  have hp : Canonical (presetClass h u (blockPushes u.site i s)) := by simp [hc]
  obtain ⟨v, hv⟩ := exec_answers i (presetClass h u (blockPushes u.site i s))
  rw [runWord_next hv]
  simpa using exec_staysCanonical i _ hp v hv

theorem issueDecoded_stays (h : Nat) (u : Cur) (w : Nat) (i : Instr) (hc : Canonical s) : StaysCanonical (issueDecoded h u w i s) := by
  unfold issueDecoded
  split
  · next hb => simpa using canonical_of_bpStop hc hb
  · split
    · next hv =>
      split at hv
      · exact staysCanonical_next.2 (canonical_of_prepareVe hc hv)
      · cases hv
    · exact runWord_stays _ _ _ _ hc

theorem issueHead_stays (h : Nat) (u : Cur) (hc : Canonical s) : StaysCanonical (issueHead h u s) := by
  unfold issueHead
  dsimp only
  split
  · simp [hc]
  · split
    · exact issueDecoded_stays _ _ _ _ (canonical_with.2 hc)
    all_goals simp [hc]

theorem runOrAdvance_stays (hc : Canonical s) : StaysCanonical (runOrAdvance s) := by
  unfold runOrAdvance
  split
  · exact issueHead_stays _ _ hc
  · exact staysCanonical_next.2 (canonical_advance hc)

theorem stepDark_stays (hc : Canonical s) : StaysCanonical (stepDark s) := by
  have he := chooseEvent_stays (events := islandEvents) islandEvents_stay hc
  have ht := canonical_chooseEvent (events := islandEvents) hc
  unfold stepDark
  split
  · exact staysCanonical_next.2 hc
  · split
    · next hr => exact staysCanonical_next.2 (canonical_of_resumeRequest hc hr)
    · next a _ _ hq => exact he a (by rw [hq])
    · next hq => rw [hq] at ht; exact staysCanonical_next.2 ht

theorem stepSelf_stays (hc : Canonical s) : StaysCanonical (stepSelf s) := by
  have hb : Canonical (blockTokens s.sites.cells s) := canonical_blockTokens hc
  have he := chooseEvent_stays (events := elasticEvents) elasticEvents_stay hb
  have ht := canonical_chooseEvent (events := elasticEvents) hb
  unfold stepSelf
  split
  · exact stepDark_stays hc
  · split
    · next a ha => exact autoEvent_stays hc a ha
    · rw [elasticEvent]
      split
      · next a _ hq => exact he a (by rw [hq])
      · next hq => rw [hq] at ht; exact runOrAdvance_stays ht

theorem step_staysCanonical (hc : Canonical s) : StaysCanonical (step s) := by
  unfold step
  split
  · next e es _ => exact exec_staysCanonical e _ (by split <;> simpa using hc)
  · exact stepSelf_stays hc

end Step

/-- Settles O59: every instruction keeps the form, so every event that may follow keeps it, and every step. -/
theorem stepKeepsCanonical : Obligations.StepKeepsCanonical := by
  unfold Obligations.StepKeepsCanonical
  exact fun s t hc ht => step_staysCanonical hc t ht

end Sys2Proof.Machine

/-! # The life of a rink (15 R362, R364, R365) -/

namespace Sys2Proof.Machine

open Host (Outcome)

/-! ## Flags and tile registers that a creation clears (02 R57) -/

section ClearFlags

variable {r : Nat} {c : Site}

/-- One flag is cleared, as it is now and as the beat began. -/
def clearedFlag (b : Flags) (f : Nat) : Flags :=
  if f < 16 then { b with full := setBit b.full f false, fullBefore := setBit b.fullBefore f false }
  else if f < 32 then { b with tokens := b.tokens.put (f - 16) 0, tokensBefore := b.tokensBefore.put (f - 16) 0 }
  else { b with events := setBit b.events (f - 32) false, eventsBefore := setBit b.eventsBefore (f - 32) false }

/-- The tile register of a full flag is emptied. -/
def clearedTile (t : Table Mem) (f : Nat) : Table Mem := if f < 16 then t.put f Table.empty else t

/-- The flags that the rink may name. -/
def flagsOf (r : Nat) (c : Site) : List Nat := (List.range 64).filter (ownsFlag c r)

theorem mem_flagsOf {f : Nat} (hf : f < 64) (h : ownsFlag c r f = true) : f ∈ flagsOf r c := List.mem_filter.2 ⟨List.mem_range.2 hf, h⟩

/-- A cleared bit stays clear whichever bit is cleared next. -/
theorem getLsbD_setBit_false {n i j : Nat} {w : BitVec n} (h : w.getLsbD j = false) : (setBit w i false).getLsbD j = false := by
  simp only [setBit, Bool.false_eq_true, if_false, BitVec.getLsbD_and, h, Bool.false_and]

theorem full_clearedFlags {f : Nat} (hf : f < 16) {l : List Nat} (hl : f ∈ l) (b : Flags) : (l.foldl clearedFlag b).full.getLsbD f = false := by
  refine foldl_establishes (P := fun b : Flags => b.full.getLsbD f = false) (fun b g h => ?_) (fun b => ?_) hl b
  · unfold clearedFlag
    split
    · exact getLsbD_setBit_false h
    · split <;> exact h
  · rw [clearedFlag, if_pos hf]
    exact (getLsbD_setBit hf _ _ _).trans (if_pos rfl)

theorem tokens_clearedFlags {f : Nat} (hf : f < 16) {l : List Nat} (hl : 16 + f ∈ l) (b : Flags) : (l.foldl clearedFlag b).tokens.get 0 f = 0 := by
  refine foldl_establishes (P := fun b : Flags => b.tokens.get 0 f = 0) (fun b g h => ?_) (fun b => ?_) hl b
  · unfold clearedFlag
    split
    · exact h
    · split
      · simp [Table.get_put, h]
      · exact h
  · rw [clearedFlag, if_neg (by omega), if_pos (by omega), Nat.add_sub_cancel_left]
    exact Table.get_put_same ..

theorem events_clearedFlags {f : Nat} (hf : f < 32) {l : List Nat} (hl : 32 + f ∈ l) (b : Flags) :
    (l.foldl clearedFlag b).events.getLsbD f = false := by
  refine foldl_establishes (P := fun b : Flags => b.events.getLsbD f = false) (fun b g h => ?_) (fun b => ?_) hl b
  · unfold clearedFlag
    split
    · exact h
    · split
      · exact h
      · exact getLsbD_setBit_false h
  · rw [clearedFlag, if_neg (by omega), if_neg (by omega), Nat.add_sub_cancel_left]
    exact (getLsbD_setBit hf _ _ _).trans (if_pos rfl)

theorem tile_clearedTiles {f : Nat} (hf : f < 16) {l : List Nat} (hl : f ∈ l) (t : Table Mem) :
    (l.foldl clearedTile t).get Table.empty f = Table.empty := by
  refine foldl_establishes (P := fun t : Table Mem => t.get Table.empty f = Table.empty) (fun t g h => ?_) (fun t => ?_) hl t
  · unfold clearedTile
    split
    · simp [Table.get_put, h]
    · exact h
  · rw [clearedTile, if_pos hf]
    exact Table.get_put_same ..

end ClearFlags

/-! ## A core at the creation of a rink (15 R364) -/

section CreateSite

variable {r vf : Nat} {c : Site}

theorem createSite_own : (createSite r vf c).own = c.own := by
  simp only [createSite, modObs]
  repeat' split
  all_goals rfl

theorem createSite_flags : (createSite r vf c).flags = (clearFlags r c).flags ∧ (createSite r vf c).tiles = (clearFlags r c).tiles := by
  simp only [createSite, modObs]
  repeat' split
  all_goals exact ⟨rfl, rfl⟩

theorem createSite_tmCnt {i : Nat} (hi : i < 5) : (createSite r vf c).obs.tmCnt.get 0 (5 * b2n (setOf c r) + i) = 0 := by
  refine foldl_establishes (P := fun t : Table (BitVec 48) => t.get 0 (5 * b2n (setOf c r) + i) = 0)
    (f := fun t i => t.put (5 * b2n (setOf c r) + i) 0) (fun t j h => ?_) (fun t => Table.get_put_same ..) (List.mem_range.2 hi) _
  rw [Table.get_put]
  split
  · rfl
  · exact h

theorem halfOf_modCtx_if (p : Bool) (x h : Side) (f : Ctx → Ctx) : halfOf (if p then modCtx x f c else c) h = halfOf c h := by
  split
  · exact halfOf_modCtx ..
  · rfl

theorem halfOf_modHalf_if_ne {g h : Side} (hne : h = !g) (p : Bool) (f : Half → Half) : halfOf (if p then modHalf g f c else c) h = halfOf c h := by
  subst hne
  split
  · exact halfOf_modHalf_other ..
  · rfl

theorem modHalf_if_own (p : Bool) (h : Side) (f : Half → Half) : (if p then modHalf h f c else c).own = c.own := by
  split
  · exact modHalf_own ..
  · rfl

/-- A half of the rink is cleared; a half of another keeps what it holds. -/
theorem halfOf_createSite {h : Side} (ho : owns c r (halfHead h) = true) : halfOf (createSite r vf c) h = createHalf (halfOf c h) := by
  have hobs (f : Obs → Obs) (d : Site) : halfOf (modObs f d) h = halfOf d h := by cases h <;> rfl
  have hclear (h : Side) : halfOf (clearFlags r c) h = halfOf c h := by cases h <;> rfl
  have how (d : Site) (hd : d.own = c.own) : owns d r (halfHead h) = true := (owns_congr hd _).trans ho
  simp only [createSite, hobs, halfOf_modCtx_if]
  cases h with
  | false =>
    rw [halfOf_modHalf_if_ne (g := true) (h := false) rfl, if_pos (how (clearFlags r c) rfl), halfOf_modHalf, hclear]
  | true =>
    rw [if_pos (how _ (modHalf_if_own (c := clearFlags r c) ..)), halfOf_modHalf,
      halfOf_modHalf_if_ne (g := false) (h := true) rfl, hclear]

/-- What of a core the creation of rink `r` clears, by what the rink owns there. -/
structure CreatedOn (r : Nat) (c : Site) : Prop where
  full : ∀ f < 16, ownsFlag c r f = true → c.flags.full.getLsbD f = false ∧ c.tiles.get Table.empty f = Table.empty
  tokens : ∀ f < 16, ownsFlag c r (16 + f) = true → c.flags.tokens.get 0 f = 0
  events : ∀ f < 32, ownsFlag c r (32 + f) = true → c.flags.events.getLsbD f = false
  counts : ∀ i < 5, c.obs.tmCnt.get 0 (5 * b2n (setOf c r) + i) = 0
  halves : ∀ h, owns c r (halfHead h) = true → ∃ v, halfOf c h = createHalf v

theorem createdOn_createSite : CreatedOn r (createSite r vf c) := by
  have hown := createSite_own (r := r) (vf := vf) (c := c)
  obtain ⟨hflags, htiles⟩ := createSite_flags (r := r) (vf := vf) (c := c)
  have hmine (f : Nat) : ownsFlag (createSite r vf c) r f = ownsFlag c r f := by rw [ownsFlag, ownsFlag, hown]
  have hset : setOf (createSite r vf c) r = setOf c r := by rw [setOf, setOf, owns_congr hown, owns_congr hown]
  refine ⟨fun f hf ho => ?_, fun f hf ho => ?_, fun f hf ho => ?_, fun i hi => ?_, fun h ho => ?_⟩
  · have hm := mem_flagsOf (by omega) (hmine f ▸ ho)
    rw [hflags, htiles]
    exact ⟨full_clearedFlags hf hm _, tile_clearedTiles hf hm _⟩
  · rw [hflags]
    exact tokens_clearedFlags hf (mem_flagsOf (by omega) (hmine _ ▸ ho)) _
  · rw [hflags]
    exact events_clearedFlags hf (mem_flagsOf (by omega) (hmine _ ▸ ho)) _
  · rw [hset]
    exact createSite_tmCnt hi
  · exact ⟨_, halfOf_createSite (owns_congr hown _ ▸ ho)⟩

end CreateSite

/-! ## Creation (15 R364) -/

section Create

variable {s : State} {r v : Nat}

/-- The rink that a creation makes. -/
def createdRink (v : Nat) (q : Rink) : Rink :=
  { rctlFields v q with
    valid := true, rtot := Table.fill 32 0, work := { Work.reset with slice := q.work.slice }, colls := q.colls.mapVals fun _ c => closeColl false c }

theorem createRink_valid (h : (rink r s).valid = true) : createRink r v s = s := if_pos h

theorem createRink_refused (h : (rink r s).valid = false) (hk : createOk r v s = false) : createRink r v s = setBad r s := by
  simp [createRink, h, hk]

theorem createRink_eq (h : (rink r s).valid = false) (hk : createOk r v s = true) :
    createRink r v s = (sitesOf r s).foldl (fun s k => modSite k (createSite r (field v 46 40)) s) (modRink r (createdRink v) s) := by
  unfold createRink
  rw [if_neg (by simp [h]), if_neg (by simp [hk])]
  rfl

/-- A creation on the cores is of the cores alone. -/
theorem createSites_keep {γ : Type} (g : State → γ) (h : ∀ (t : State) k f, g (modSite k f t) = g t) (vf : Nat) (l : List Nat) (t : State) :
    g (l.foldl (fun s k => modSite k (createSite r vf) s) t) = g t := foldl_keeps g (fun t k => h t k _) l t

theorem rink_createRink (h : (rink r s).valid = false) (hk : createOk r v s = true) :
    rink r (createRink r v s) = createdRink v (rink r s) := by
  rw [createRink_eq h hk, createSites_keep (fun t => rink r t) (fun _ _ _ => rfl), rink_modRink_same]

theorem createdOn_createRink (h : (rink r s).valid = false) (hk : createOk r v s = true) {k : Nat} (hm : k ∈ sitesOf r s) :
    (site k (createRink r v s)).own = (site k s).own ∧ CreatedOn r (site k (createRink r v s)) := by
  rw [createRink_eq h hk]
  exact ⟨foldl_keeps (fun t => (site k t).own) (fun t j => site_modSite_keeps Site.own (fun _ => createSite_own) j k t) _ _,
    site_foldl_modSite (fun _ => createdOn_createSite) hm _⟩

end Create

/-! ## The end (15 R364) -/

section Destroy

variable {s : State} {r : Nat}

theorem dropRegions_own (r k : Nat) (s : State) : (site k (dropRegions r s)).own = (site k s).own := by
  refine foldl_keeps (fun t => (site k t).own) (fun t j => ?_) _ s
  refine site_modSite_keeps Site.own (fun _ => ?_) j k t
  rfl

theorem rink_disown (r : Nat) (o : Owner) : (disown r o).rink?.map (·.toNat) ≠ some r := by
  unfold disown
  split
  · simp [Owner.rink?]
  · next h =>
    cases hv : o.v <;> simp [Owner.rink?, hv, h]

/-- The rink owns nothing of the core. -/
def OwnsNothing (r : Nat) (c : Site) : Prop := ∀ h, owns c r h = false

theorem ownsNothing_disownSite (c : Site) : OwnsNothing r (disownSite r c) := by
  intro h
  have hd (o : Owner) : ((disown r o).rink?.map (·.toNat) == some r) = false := beq_eq_false_iff_ne.2 (rink_disown r o)
  unfold owns ownField disownSite
  dsimp only
  split <;> exact hd _

/-- A core that is none of the rink's has no engine of it. -/
theorem ownsNothing_of_not_mem {k : Nat} (h : k ∉ sitesOf r s) : OwnsNothing r (site k s) := by
  have hlow {n : Nat} (hn : n < 7) : owns (site k s) r n = false := Bool.eq_false_iff.2 fun ho => h (mem_sitesOf hn ho)
  intro n
  by_cases hn : n < 7
  · exact hlow hn
  · have h6 : owns (site k s) r n = owns (site k s) r 6 := by
      obtain ⟨m, rfl⟩ : ∃ m, n = m + 7 := ⟨n - 7, by omega⟩
      rfl
    rw [h6, hlow (by decide)]

theorem destroyRink_valid_unsuspended (h : (rink r s).valid = true) (hs : (rink r s).suspd = false) : destroyRink r s = setBad r s := by
  simp [destroyRink, h, hs]

/-- The rink's cores are disowned one by one; no step gives one back. -/
theorem ownsNothing_disownAll {l : List Nat} {k : Nat} (h : k ∈ l ∨ OwnsNothing r (site k s)) :
    OwnsNothing r (site k (l.foldl (fun s j => modSite j (disownSite r) s) s)) := by
  obtain hk | hs := h
  · exact site_foldl_modSite ownsNothing_disownSite hk s
  · refine List.foldlRecOn l _ (motive := fun t => OwnsNothing r (site k t)) hs fun t ht j _ => ?_
    by_cases hj : k = j
    · rw [hj, site_modSite_same]
      exact ownsNothing_disownSite _
    · rwa [site_modSite_ne hj]

/-- The owners of a die's collective engines after the end of rink `r`. -/
def disownDie (r : Nat) (d : Die) : Die := { d with ce := d.ce.mapVals fun _ e => { e with owner := disown r e.owner } }

theorem disown_reset (r : Nat) : disown r CollEngine.reset.owner = CollEngine.reset.owner := by
  unfold disown
  split <;> rfl

theorem disownDie_reset (r : Nat) : disownDie r Die.reset = Die.reset := by cases r <;> rfl

theorem disowned_collEngine {t : State} (h : t.dies = s.dies.mapVals fun _ d => disownDie r d) (d e : Nat) :
    (collEngine d e t).owner.rink?.map (·.toNat) ≠ some r := by
  have hd : die d t = disownDie r (die d s) := by
    rw [die, h]
    exact Table.get_mapVals _ (disownDie_reset r)
  rw [collEngine, hd, disownDie, Table.get_mapVals _ (by rw [disown_reset])]
  exact rink_disown _ _

/-- A suspended rink ends: its engines are unowned and it is no longer valid. -/
theorem destroyRink_ends (h : (rink r s).valid = true) (hs : (rink r s).suspd = true) :
    let t := destroyRink r s
    (rink r t).valid = false ∧ (rink r t).susp = false ∧ (rink r t).suspd = false ∧ (∀ k, OwnsNothing r (site k t)) ∧
      ∀ d e, (collEngine d e t).owner.rink?.map (·.toNat) ≠ some r := by
  dsimp only
  unfold destroyRink
  rw [if_neg (by simp [h]), if_neg (by simp [hs])]
  dsimp only
  generalize (List.range 8).foldl _ _ = s3
  refine ⟨by simp, by simp, by simp, fun k => ?_, fun d e => disowned_collEngine rfl d e⟩
  show OwnsNothing r (site k ((sitesOf r s3).foldl (fun s j => modSite j (disownSite r) s) (dropRegions r s3)))
  refine ownsNothing_disownAll ?_
  by_cases hk : k ∈ sitesOf r s3
  · exact .inl hk
  · exact .inr fun n => (owns_congr (dropRegions_own r k s3) n).trans (ownsNothing_of_not_mem hk n)

end Destroy

/-! ## Suspension (15 R365) -/

section Suspend

variable {s : State} {r : Nat}

/-- What the release of the rink's lost claims changes of a rink is at most REVOKED. -/
theorem releaseLost_work (r : Nat) (s : State) : (rink r (releaseLost r s)).work = (rink r s).work := by
  refine foldl_keeps (fun t => (rink r t).work) (fun t e => ?_) _ s
  dsimp only
  split
  · rfl
  · rw [rink_modRink_same]; rfl

theorem reloadSeq_rinks (r : Nat) (s : State) : (reloadSeq r s).rinks = s.rinks := by
  unfold reloadSeq
  split
  · split <;> rfl
  · rfl

end Suspend

/-- Settles O42: what a creation leaves of each core it touches, and that an end leaves the rink no engine. -/
theorem rinkLifeEvents : Obligations.RinkLifeEvents := by
  unfold Obligations.RinkLifeEvents
  intro s r val
  dsimp only
  refine ⟨fun h => ?_, fun h hk => ?_, fun h hk => ⟨createRink r val.toNat s, rfl, ?_⟩, fun h hs => ?_, fun h hs => ⟨destroyRink r s, rfl, ?_⟩,
    ⟨suspendRink r s, rfl, ?_⟩, ⟨_, rfl, ?_⟩⟩
  · exact congrArg Outcome.next (createRink_valid h)
  · exact congrArg Outcome.next (createRink_refused h hk)
  · have hr := rink_createRink h hk
    rw [hr]
    refine ⟨rfl, ?_, ?_, rfl, rfl, fun i => Table.get_fill_default .., ?_, ?_, fun k hm => ?_⟩
    · exact BitVec.toNat_ofNat .. |>.trans (Nat.mod_eq_of_lt (field_lt _ _ _))
    · exact BitVec.toNat_ofNat .. |>.trans (Nat.mod_eq_of_lt (field_lt _ _ _))
    · rw [createRink_eq h hk]; exact createSites_keep State.mem (fun _ _ _ => rfl) ..
    · rw [createRink_eq h hk]; exact createSites_keep State.host (fun _ _ _ => rfl) ..
    · obtain ⟨hown, hfull, htok, hev, hcnt, hhalf⟩ := createdOn_createRink h hk hm
      have hf (f : Nat) : ownsFlag (site k (createRink r val.toNat s)) r f = ownsFlag (site k s) r f := by rw [ownsFlag, ownsFlag, hown]
      simp only [hf, owns_congr hown, setOf] at hfull htok hev hcnt hhalf
      refine ⟨hfull, htok, hev, hcnt, fun h ho => ?_⟩
      obtain ⟨v, hv⟩ := hhalf h ho
      rw [hv]
      exact ⟨rfl, rfl, fun _ => ⟨rfl, rfl⟩, fun i _ => Table.get_fill_default ..⟩
  · exact congrArg Outcome.next (destroyRink_valid_unsuspended h hs)
  · obtain ⟨hv, hsp, hsd, hown, hcoll⟩ := destroyRink_ends h hs
    exact ⟨hv, hsp, hsd, fun k => hown k, hcoll⟩
  · simp only [suspendRink, rink_modRink_same]
    refine ⟨trivial, fun h => ?_, fun h => ?_, trivial, rfl, rfl⟩
    · simp [h]
    · simp [h]
  · have hw : rink r (reloadSeq r (modRink r (fun q => { q with susp := false, suspd := false }) (releaseLost r s))) =
        { rink r (releaseLost r s) with susp := false, suspd := false } := by
      rw [rink, reloadSeq_rinks]
      exact rink_modRink_same ..
    rw [hw]
    exact ⟨rfl, rfl, releaseLost_work r s⟩

end Sys2Proof.Machine

/-! # Claims, snapshots and trace records (15 R373, R375, R379) -/

namespace Sys2Proof.Machine

open Host (Outcome)

/-! ## A request goes to the arbiter (15 R373) -/

section Ask

variable {s : State} {k n op : Nat}

/-- A core with one more request at its arbiter. -/
def withRequest (q : ClaimReq) (c : Site) : Site := modObs (fun o => { o with asked := o.asked ++ [q] }) c

theorem askPerf_pf (hn : n < 3) (num : Nat) : askPerf .pf num k n op s = modSite k (withRequest ⟨n, op, true, 0, 0⟩) s := if_neg (by omega)

theorem askPerf_rink {p : Nat} (hn : n < 3) (ho : op = 1 → ∃ h < 7, owns (site k s) p h = true) (num : Nat) :
    askPerf (.rink p) num k n op s = modSite k (withRequest ⟨n, op, false, p, num⟩) s := by
  unfold askPerf
  rw [if_neg (by omega)]
  exact if_neg (by simpa using ho)

/-- A claim by a rink that owns no engine of the core is ignored. -/
theorem askPerf_unowned {p : Nat} (h : ¬∃ h < 7, owns (site k s) p h = true) (num : Nat) : askPerf (.rink p) num k n 1 s = s := by
  have hany : (List.range 7).any (owns (site k s) p) = false := by
    simpa using fun m hm => Bool.eq_false_iff.2 fun ho => h ⟨m, hm, ho⟩
  unfold askPerf
  split
  · rfl
  · simp [hany]

theorem site_withRequest (q : ClaimReq) : (site k (modSite k (withRequest q) s)).obs.asked = (site k s).obs.asked ++ [q] ∧
    claimAt k n (modSite k (withRequest q) s) = claimAt k n s := by
  simp only [claimAt, site_modSite_same]
  exact ⟨rfl, rfl⟩

end Ask

/-! ## The arbiter's decision (15 R373) -/

section Decide

variable {c : Claim} {qs : List ClaimReq} {q : ClaimReq}

/-- Of two claims that of the lower-numbered requester. -/
def lowerRequest (b : Option ClaimReq) (q : ClaimReq) : Option ClaimReq :=
  match b with
  | some p => if q.num < p.num then some q else some p
  | none => some q

/-- The claim that is lower than every other of the list is the one that the arbiter finds, if it has not found it before. -/
theorem foldl_lowerRequest {l : List ClaimReq} {b : Option ClaimReq} (hl : ∀ p ∈ l, p = q ∨ q.num < p.num)
    (hb : b = some q ∨ q ∈ l ∧ ∀ p, b = some p → q.num < p.num) : l.foldl lowerRequest b = some q := by
  induction l generalizing b with
  | nil => exact hb.resolve_right fun h => nomatch h.1
  | cons a l ih =>
    have ha := hl a List.mem_cons_self
    refine ih (fun p hp => hl p (List.mem_cons_of_mem _ hp)) ?_
    obtain rfl | ⟨hq, hb⟩ := hb
    · refine .inl ?_
      obtain rfl | ha := ha
      · simp [lowerRequest]
      · simp [lowerRequest, Nat.not_lt_of_lt ha]
    · obtain rfl | ha := ha
      · cases b with
        | none => exact .inl rfl
        | some p => exact .inl (if_pos (hb p rfl))
      · have hql : q ∈ l := (List.mem_cons.1 hq).resolve_left fun e => Nat.lt_irrefl _ (e ▸ ha)
        refine .inr ⟨hql, fun p hp => ?_⟩
        cases b with
        | none => cases hp; exact ha
        | some o =>
          simp only [lowerRequest] at hp
          split at hp <;> cases hp
          · exact ha
          · exact hb _ rfl

theorem decideClaim_revoked (h : ∃ q ∈ qs, q.op = 3) : decideClaim c qs = ⟨true, true, true, 0⟩ := if_pos (by simpa using h)

theorem decideClaim_held (hr : ¬∃ q ∈ qs, q.op = 3) (hc : c.held = true) : decideClaim c qs =
    if ∃ q ∈ qs, q.op = 2 ∧ q.hv = c.hv ∧ (q.hv = true ∨ q.rink = c.rink) then Claim.free else c := by
  unfold decideClaim
  rw [if_neg (by simpa using hr), if_pos hc]
  simp [and_assoc]

theorem decideClaim_free (hr : ¬∃ q ∈ qs, q.op = 3) (hc : c.held = false) : decideClaim c qs =
    if ∃ q ∈ qs, q.op = 1 ∧ q.hv = true then ⟨true, true, false, 0⟩
    else match (qs.filter (·.op == 1)).foldl lowerRequest none with
      | some q => ⟨true, false, false, q.rink⟩
      | none => c := by
  unfold decideClaim
  rw [if_neg (by simpa using hr), if_neg (by simp [hc])]
  simp only [List.any_filter, List.any_eq_true, Bool.and_eq_true, beq_iff_eq]
  rfl

/-- The lowest claim, where none is the PF's. -/
theorem decideClaim_lowest (hr : ¬∃ q ∈ qs, q.op = 3) (hc : c.held = false) (hq : q ∈ qs) (ho : q.op = 1)
    (hl : ∀ p ∈ qs, p.op = 1 → p.hv = false ∧ (p = q ∨ q.num < p.num)) : decideClaim c qs = ⟨true, false, false, q.rink⟩ := by
  have hf : (qs.filter (·.op == 1)).foldl lowerRequest none = some q := by
    refine foldl_lowerRequest (fun p hp => ?_) (.inr ⟨List.mem_filter.2 ⟨hq, by simp [ho]⟩, fun _ h => nomatch h⟩)
    obtain ⟨hp, hop⟩ := List.mem_filter.1 hp
    exact (hl p hp (by simpa using hop)).2
  rw [decideClaim_free hr hc, if_neg, hf]
  rintro ⟨p, hp, hop, hhv⟩
  exact nomatch (hl p hp hop).1.symm.trans hhv

variable {s : State} {k n : Nat}

/-- The requests on claim `n` that a core's arbiter has in this cycle. -/
def requestsOn (k n : Nat) (s : State) : List ClaimReq := (site k s).obs.asked.filter (·.claim == n)

theorem arbitrate_idle (h : requestsOn k n s = []) : arbitrate k n s = s := if_pos (List.isEmpty_iff.2 h)

/-- The decision is of the claim, and a revoke is noted at the former holder. -/
theorem arbitrate_eq (h : requestsOn k n s ≠ []) : ∃ g : State → State, (∀ t, (g t).sites = t.sites) ∧
    ((∃ q ∈ requestsOn k n s, q.op = 3) → (claimAt k n s).held = true → (claimAt k n s).hv = false →
      ∀ t, (rink (claimAt k n s).rink (g t)).revoked = true) ∧
    arbitrate k n s = g (setClaim k n (decideClaim (claimAt k n s) (requestsOn k n s)) s) := by
  by_cases hv : ((requestsOn k n s).any (·.op == 3) && (claimAt k n s).held && !(claimAt k n s).hv) = true
  · refine ⟨modRink (claimAt k n s).rink fun q => { q with revoked := true }, fun _ => rfl, fun _ _ _ t => by rw [rink_modRink_same], ?_⟩
    exact (if_neg (by simpa [requestsOn] using h)).trans (if_pos hv)
  · refine ⟨id, fun _ => rfl, fun hr hh hhv => absurd ?_ hv, (if_neg (by simpa [requestsOn] using h)).trans (if_neg hv)⟩
    simpa [hh, hhv] using hr

theorem claimAt_setClaim (v : Claim) : claimAt k n (setClaim k n v s) = v := by
  rw [claimAt, setClaim, site_modSite_same]
  exact Table.get_put_same ..

theorem claimAt_arbitrate : claimAt k n (arbitrate k n s) = decideClaim (claimAt k n s) (requestsOn k n s) := by
  by_cases h : requestsOn k n s = []
  · rw [arbitrate_idle h, h]
    cases hc : (claimAt k n s).held <;> simp [decideClaim, hc]
  · obtain ⟨g, hs, -, he⟩ := arbitrate_eq h
    rw [he, claimAt, site, hs]
    exact claimAt_setClaim _

theorem banks_arbitrate : (site k (arbitrate k n s)).obs.banks = (site k s).obs.banks := by
  by_cases h : requestsOn k n s = []
  · rw [arbitrate_idle h]
  · obtain ⟨g, hs, -, he⟩ := arbitrate_eq h
    rw [he, site, hs]
    show (site k (setClaim ..)).obs.banks = _
    rw [setClaim, site_modSite_same]
    rfl

theorem revoked_arbitrate (hr : ∃ q ∈ requestsOn k n s, q.op = 3) (hh : (claimAt k n s).held = true) (hv : (claimAt k n s).hv = false) :
    (rink (claimAt k n s).rink (arbitrate k n s)).revoked = true := by
  obtain ⟨q, hq, -⟩ := id hr
  obtain ⟨g, -, hrev, he⟩ := arbitrate_eq (List.ne_nil_of_mem hq)
  rw [he]
  exact hrev hr hh hv _

end Decide

/-! ## Trace records (15 R375) -/

section Trace

variable {c : Site}

/-- The trace unit's queue with more records. -/
def withRecords (l : List (Nat × List Byte)) (c : Site) : Site := modObs (fun o => { o with trQ := o.trQ ++ l }) c

/-- What a sample records of one head. -/
def sampleOf (c : Site) (h : Nat) : List (Nat × List Byte) :=
  if (ctlOf c h).running = true ∧ h < 5 ∧ traces c (headRink c h) = true ∧ c.obs.trctl.getLsbD (32 + h) = true then [(c.now, traceRecord c h 1)] else []

theorem ctlOf_withRecords (l : List (Nat × List Byte)) (h : Nat) : ctlOf (withRecords l c) h = ctlOf c h := by
  unfold ctlOf
  split <;> rfl

theorem traceRecord_withRecords (l : List (Nat × List Byte)) (h kind : Nat) : traceRecord (withRecords l c) h kind = traceRecord c h kind := by
  have hp : headPc (withRecords l c) h = headPc c h := by
    unfold headPc
    split <;> rfl
  have hs : stageOf (withRecords l c) = stageOf c := rfl
  simp only [traceRecord, hp, hs]
  rfl

theorem sampleOf_withRecords (l : List (Nat × List Byte)) (h : Nat) : sampleOf (withRecords l c) h = sampleOf c h := by
  simp only [sampleOf, ctlOf_withRecords, traceRecord_withRecords]
  rfl

theorem sample_eq (c : Site) (h : Nat) : (if (ctlOf c h).running then trace h 1 c else c) = withRecords (sampleOf c h) c := by
  have hnone : withRecords [] c = c := by simp [withRecords, modObs]
  by_cases hr : (ctlOf c h).running = true
  · rw [if_pos hr, trace, sampleOf]
    by_cases ht : h < 5 ∧ traces c (headRink c h) = true ∧ c.obs.trctl.getLsbD (32 + h) = true
    · rw [if_pos ht, if_pos ⟨hr, ht⟩]; rfl
    · rw [if_neg ht, if_neg fun h => ht h.2, hnone]
  · rw [if_neg hr, sampleOf, if_neg fun h => hr h.1, hnone]

/-- A sample queues the records of its heads in their order. -/
theorem sample_foldl (l : List Nat) (c : Site) :
    l.foldl (fun c h => if (ctlOf c h).running then trace h 1 c else c) c = withRecords (l.flatMap (sampleOf c)) c := by
  induction l generalizing c with
  | nil => simp [withRecords, modObs]
  | cons h l ih =>
    have hs : sampleOf (withRecords (sampleOf c h) c) = sampleOf c := funext (sampleOf_withRecords _)
    rw [List.foldl_cons, sample_eq, ih, hs]
    simp [withRecords, modObs, List.flatMap_cons]

end Trace

/-! ## Triggers (15 R379) -/

section Triggers

variable {s : State} {j : Nat}

/-- A trigger reaches the cores of its list alone. -/
theorem site_triggers_unlisted (src : Nat) {l : List Nat} (hj : j ∉ l) (s : State) : site j (l.foldl (fun s k => triggerSite src k s) s) = site j s := by
  induction l generalizing s with
  | nil => rfl
  | cons i l ih =>
    obtain ⟨hi, hl⟩ := not_or.1 (mt List.mem_cons.2 hj)
    rw [List.foldl_cons, ih hl]
    exact site_modSite_ne hi ..

theorem latches_triggers (src : Nat) {l : List Nat} (hj : j ∈ l) (s : State) :
    (site j (l.foldl (fun s k => triggerSite src k s) s)).obs.snapReq.isSome = true := by
  rw [snapReq_triggers, if_pos hj]
  rfl

theorem dies_triggers (src : Nat) (l : List Nat) (s : State) : (l.foldl (fun s k => triggerSite src k s) s).dies = s.dies :=
  foldl_keeps (f := fun s k => triggerSite src k s) State.dies (fun _ _ => rfl) l s

theorem die_triggers (src : Nat) (l : List Nat) (s : State) :
    (die 0 (l.foldl (fun s k => triggerSite src k s) (triggerDies src s))).snapReq.isSome = true ∧
      (die 1 (l.foldl (fun s k => triggerSite src k s) (triggerDies src s))).snapReq.isSome = true := by
  simp only [die, dies_triggers]
  exact die_triggerDies src s

end Triggers

/-! ## A record that finds no beat (15 R375) -/

section Drop

variable {s : State} {k : Nat} {e : Nat × List Byte} {es : List (Nat × List Byte)}

/-- The oldest record of a core is dropped where it has waited 64 beats or has no place. -/
theorem site_recordDrop (h : (site k s).obs.trQ = e :: es) : ∃ t, exec (.traceRecordDrop k) s = .next t ∧ site k t =
    if decide (e.1 + 64 ≤ (site k s).now) || (traceSlot (site k s)).isNone then modObs (fun o => { o with trQ := es, trDrop := o.trDrop + 1 }) (site k s)
    else site k s := by
  refine ⟨_, rfl, ?_⟩
  rw [site_modSite_same]
  simp only [h]

end Drop

/-- Settles O44: the arbiter's decision by its exclusive cases, triggers as requests that latch, and records queued in the heads' order. -/
theorem observationEvents : Obligations.ObservationEvents := by
  unfold Obligations.ObservationEvents
  intro s who r k n d claim old owner latches records asks qs revoked released u
  have hclaim : claim u = decideClaim old qs := claimAt_arbitrate
  have hpf {op num : Nat} (hn : n < 3) (i : Instr) (hi : exec i s = .next (askPerf .pf num k n op s)) : asks i op .pf :=
    ⟨_, _, hi.trans (congrArg _ (askPerf_pf hn num)), (site_withRequest (n := n) _).1, rfl, rfl, rfl, (site_withRequest _).2⟩
  have hrink {op p : Nat} (hn : n < 3) (i : Instr) (hi : exec i s = .next (askPerf (.rink p) (2 * k + b2n (setOf (site k s) p)) k n op s))
      (ho : op = 1 → ∃ h < 7, owns (site k s) p h = true) : asks i op (.rink p) :=
    ⟨_, _, hi.trans (congrArg _ (askPerf_rink hn ho _)), (site_withRequest (n := n) _).1, rfl, rfl, ⟨rfl, rfl, rfl⟩, (site_withRequest _).2⟩
  refine ⟨fun hn ho => ?_, fun ho => ?_, fun hn => ?_, fun hn => hpf hn _ rfl, ⟨banks_arbitrate, arbitrate_idle, fun hr => ?_, fun hr hh => ?_,
    fun hr hh hq => ?_, fun q hq hr hh hl ho => ?_⟩, fun hw => ⟨triggerRink noSite r s, congrArg Outcome.next (if_pos hw), fun j hj => latches_triggers _ hj _,
      fun j hj => congrArg Site.obs (site_triggers_unlisted _ hj _), die_triggers ..⟩,
    ⟨_, rfl, fun j hj => latches_triggers _ (List.mem_range.2 hj) _, die_triggers ..⟩,
    ⟨_, rfl, (List.range 5).flatMap (sampleOf (site k s)), ?_, fun h hh hr ht hb => ?_⟩, fun e es he hx => ?_, fun e es he hx hy => ?_⟩
  · cases who with
    | pf => exact hpf hn _ rfl
    | rink p => exact hrink hn _ rfl fun _ => ho
  · cases who with
    | pf => exact absurd trivial ho
    | rink p => exact congrArg Outcome.next (askPerf_unowned ho _)
  · cases who with
    | pf => exact hpf hn _ rfl
    | rink p => exact hrink hn _ rfl fun h => nomatch h
  · rw [hclaim, decideClaim_revoked hr]
    exact ⟨rfl, rfl, rfl, revoked_arbitrate hr⟩
  · rw [hclaim, decideClaim_held hr hh]
    exact ⟨fun h => if_pos h, fun h => if_neg h⟩
  · rw [hclaim, decideClaim_free hr hh, if_pos hq]
  · rw [hclaim, decideClaim_lowest hr hh hq ho hl]
  · rw [site_modSite_same, sample_foldl]
    rfl
  · refine List.mem_flatMap.2 ⟨h, List.mem_range.2 hh, ?_⟩
    rw [sampleOf, if_pos ⟨hr, hh, ht, hb⟩]
    exact List.mem_singleton_self _
  · obtain ⟨t, ht, hsite⟩ := site_recordDrop he
    have hx : (decide (e.1 + 64 ≤ (site k s).now) || (traceSlot (site k s)).isNone) = true := by simpa using hx
    rw [if_pos hx] at hsite
    exact ⟨t, ht, by rw [hsite]; rfl, by rw [hsite]; rfl⟩
  · obtain ⟨t, ht, hsite⟩ := site_recordDrop he
    have hx : ¬(decide (e.1 + 64 ≤ (site k s).now) || (traceSlot (site k s)).isNone) = true := by simpa using ⟨hx, hy⟩
    rw [if_neg hx] at hsite
    exact ⟨t, ht, (congrArg (fun c : Site => c.obs.trQ) hsite).trans rfl⟩

end Sys2Proof.Machine

/-! # Operating points, votes and the supply monitor (19 R428 to R434) -/

namespace Sys2Proof.Machine

open Host (Outcome)

/-! ## The target (19 R430) -/

section Target

variable {s : State}

theorem someRinkRuns_iff : someRinkRuns s = true ↔ ∃ e ∈ s.rinks.cells, rinkRuns e.2 = true := by simp [someRinkRuns]

/-- The greater of a point and the vote of a rink that runs. -/
def raisedBy (m : Nat) (e : Nat × Rink) : Nat := if rinkRuns e.2 then max m e.2.voteEff.toNat else m

/-- The fold of the votes is their least upper bound with what it starts from: a bound of all, and itself one of them. -/
theorem foldl_raisedBy (l : List (Nat × Rink)) (m : Nat) :
    m ≤ l.foldl raisedBy m ∧ (∀ e ∈ l, rinkRuns e.2 = true → e.2.voteEff.toNat ≤ l.foldl raisedBy m) ∧
      (l.foldl raisedBy m = m ∨ ∃ e ∈ l, rinkRuns e.2 = true ∧ e.2.voteEff.toNat = l.foldl raisedBy m) := by
  induction l generalizing m with
  | nil => exact ⟨Nat.le_refl m, fun _ h => absurd h List.not_mem_nil, .inl rfl⟩
  | cons a l ih =>
    obtain ⟨hm, hle, hat⟩ := ih (raisedBy m a)
    rw [List.foldl_cons]
    have hstep : m ≤ raisedBy m a ∧ (rinkRuns a.2 = true → a.2.voteEff.toNat ≤ raisedBy m a) ∧
        (raisedBy m a = m ∨ rinkRuns a.2 = true ∧ a.2.voteEff.toNat = raisedBy m a) := by
      unfold raisedBy
      split
      · next hr => exact ⟨Nat.le_max_left .., fun _ => Nat.le_max_right ..,
          (Nat.le_total a.2.voteEff.toNat m).imp Nat.max_eq_left fun h => ⟨hr, (Nat.max_eq_right h).symm⟩⟩
      · next hr => exact ⟨Nat.le_refl m, fun h => absurd h hr, .inl rfl⟩
    obtain ⟨hge, hvote, hfrom⟩ := hstep
    refine ⟨Nat.le_trans hge hm, fun e he hr => ?_, ?_⟩
    · obtain rfl | he := List.mem_cons.1 he
      · exact Nat.le_trans (hvote hr) hm
      · exact hle e he hr
    · obtain h | ⟨e, he, hr, hv⟩ := hat
      · rw [h]
        exact hfrom.imp id fun ⟨hr, hv⟩ => ⟨a, List.mem_cons_self, hr, hv⟩
      · exact .inr ⟨e, List.mem_cons_of_mem _ he, hr, hv⟩

theorem targetPoint_idle (h : ∀ e ∈ s.rinks.cells, rinkRuns e.2 = false) : targetPoint s = s.power.idle :=
  if_neg fun hr => by
    obtain ⟨e, he, hr⟩ := someRinkRuns_iff.1 hr
    exact nomatch (h e he).symm.trans hr

theorem targetPoint_running (h : ∃ e ∈ s.rinks.cells, rinkRuns e.2 = true) :
    (∀ e ∈ s.rinks.cells, rinkRuns e.2 = true → e.2.voteEff.toNat ≤ targetPoint s) ∧
      ∃ e ∈ s.rinks.cells, rinkRuns e.2 = true ∧ e.2.voteEff.toNat = targetPoint s := by
  have ht : targetPoint s = s.rinks.cells.foldl raisedBy 0 := if_pos (someRinkRuns_iff.2 h)
  obtain ⟨-, hle, hat⟩ := foldl_raisedBy s.rinks.cells 0
  rw [ht]
  refine ⟨hle, hat.elim (fun h0 => ?_) id⟩
  obtain ⟨e, he, hr⟩ := h
  have := hle e he hr
  exact ⟨e, he, hr, by omega⟩

end Target

/-! ## The table, the rails and the clock (19 R428, R431, R432) -/

section Points

variable {p : Power} {k f u : Nat} {s : State}

theorem optabOk_iff : optabOk p k f u = true ↔ k < 8 ∧ 2000 ≤ f ∧ f ≤ 4000 ∧ 550 ≤ u ∧ u ≤ 850 ∧
    (k ≠ 0 → p.freq.get 0 (k - 1) ≤ f ∧ p.volt.get 0 (k - 1) ≤ u) ∧ (k ≠ 7 → f ≤ p.freq.get 0 (k + 1) ∧ u ≤ p.volt.get 0 (k + 1)) := by
  have himp (a : Bool) (q : Prop) [Decidable q] : (a || decide q) = true ↔ (a = false → q) := by cases a <;> simp
  simp only [optabOk, Bool.and_eq_true, himp, decide_eq_true_eq, beq_eq_false_iff_ne, and_assoc]
  rfl

theorem rampTo_ramping (t : Nat) : (rampTo t p).ramping = true ↔
    p.cur ≤ t ∧ p.vnow ≠ p.volt.get 0 t ∧ (p.ramping = true ∨ t ≠ p.target ∨ p.cur < t) := by
  simp only [rampTo, Bool.and_eq_true, Bool.or_eq_true, decide_eq_true_eq, bne_iff_ne, pointVolt, and_assoc, or_assoc]

theorem maySwitch_iff : maySwitch s = true ↔ s.cycle % 16 = 0 ∧ (s.power.target < s.power.cur ∨
    (s.power.cur < s.power.target ∧ s.power.ramping = false ∧ s.power.vnow = s.power.volt.get 0 s.power.target)) := by
  simp only [maySwitch, Bool.and_eq_true, Bool.or_eq_true, decide_eq_true_eq, beq_iff_eq, pointVolt, Bool.not_eq_true', and_assoc]

theorem rampOver_iff : rampOver p = true ↔ p.ramping = true ∧ p.cur ≤ p.target ∧ p.vnow = p.volt.get 0 p.target := by
  simp only [rampOver, Bool.and_eq_true, decide_eq_true_eq, beq_iff_eq, pointVolt, and_assoc]

theorem slewRails_still (h : p.ramping = false ∨ p.target < p.cur) : slewRails p = p := if_pos (by simpa using h)

theorem slewRails_keeps : (slewRails p).cur = p.cur ∧ (slewRails p).target = p.target := by
  unfold slewRails
  split
  · exact ⟨rfl, rfl⟩
  · split <;> exact ⟨rfl, rfl⟩

/-- A cycle adds 5 to the fraction of a millivolt, in FNOW parts, by which the rails have moved. -/
theorem slewRails_moves (hr : p.ramping = true) (hc : p.cur ≤ p.target) :
    (p.vnow < p.volt.get 0 p.target → p.fnow * (slewRails p).vnow + (slewRails p).slew = p.fnow * p.vnow + p.slew + 5) ∧
      (p.volt.get 0 p.target < p.vnow → p.fnow * (slewRails p).vnow + p.slew + 5 = p.fnow * p.vnow + (slewRails p).slew) := by
  unfold slewRails
  rw [if_neg (by simp [hr, hc])]
  split
  · exact ⟨fun _ => by dsimp only; omega, fun _ => by dsimp only; omega⟩
  · next hs =>
    refine ⟨fun h => ?_, fun h => ?_⟩
    · dsimp only [pointVolt]
      rw [if_pos h, Nat.mul_add]
      omega
    · obtain ⟨n, hn⟩ := Nat.exists_eq_add_of_lt (Nat.lt_of_le_of_lt (Nat.zero_le _) h)
      dsimp only [pointVolt]
      rw [if_neg (Nat.not_lt_of_lt h), if_pos h, hn, Nat.add_sub_cancel, Nat.mul_add p.fnow (0 + n)]
      omega

/-- The point in force after a switch of the clock. -/
def switchedTo (p : Power) : Power :=
  { p with cur := p.target, fnow := pointFreq p p.target, ramping := p.ramping || p.vnow != pointVolt p p.target }

theorem modPower_writeOptab (h : optabOk s.power k f u = true) :
    modPower (writeOptab k f u) s = modPower (fun p => { p with freq := p.freq.put k f, volt := p.volt.put k u }) s := by
  rw [modPower, writeOptab, if_pos h]
  rfl

theorem modPower_writeOptab_refused (h : ¬optabOk s.power k f u = true) : modPower (writeOptab k f u) s = s := by
  rw [modPower, writeOptab, if_neg h]

/-- A written CAP lowers EFF at once where the rink is not running. -/
theorem writeVote_pf_eff {q : Rink} (h : rinkRuns q = false) (v : Nat) :
    (writeVote .pf v q).voteEff.toNat = min q.voteEff.toNat (BitVec.ofNat 3 (field v 10 8)).toNat := by
  simp only [writeVote, h, Bool.not_false, true_and]
  split <;> omega

end Points

/-- Settles O47: the target is the greatest vote of the rinks that run; the rails and the clock by the conditions under which each moves. -/
theorem operatingPointEvents : Obligations.OperatingPointEvents := by
  unfold Obligations.OperatingPointEvents
  intro s r k draw capacity val p q v f u allowed switches sampled
  have hallowed : allowed ↔ optabOk p k f u = true := optabOk_iff.symm
  have hswitches : switches ↔ maySwitch s = true := maySwitch_iff.symm
  have hcap : field v 10 8 < 8 := field_lt ..
  have hcap3 : (BitVec.ofNat 3 (field v 10 8)).toNat = field v 10 8 := BitVec.toNat_ofNat .. |>.trans (Nat.mod_eq_of_lt hcap)
  have hclock (h : switches) : exec .clockSwitch s = .next (modPower switchedTo s) := congrArg Outcome.next (if_pos (hswitches.1 h))
  have hsampled (b : Nat) (hb : (if p.ballastEn && someRinkRuns s then max (1000 * p.floor) (max (1000 * draw) (p.trackMilli - p.ramp)) - 1000 * draw
      else p.burnMilli - p.ramp) = b) : sampled b := by
    subst hb
    exact ⟨_, rfl, rfl, rfl, rfl, rfl, rfl⟩
  refine ⟨fun h => ⟨_, congrArg Outcome.next (modPower_writeOptab (hallowed.1 h)), Table.get_put_same .., Table.get_put_same .., fun j hj => ?_⟩,
    fun h => congrArg Outcome.next (modPower_writeOptab_refused (mt hallowed.2 h)), fun h => ?_, ⟨modRink r (writeVote (.rink r) v) s, ?_, ?_⟩,
    ⟨modRink r (writeVote .pf v) s, rfl, ?_⟩, ⟨_, rfl, rfl, rfl, rfl, targetPoint_idle, targetPoint_running, rampTo_ramping _⟩,
    fun h => ⟨_, hclock h, rfl, rfl, rfl, fun hv => ?_⟩, fun h => congrArg Outcome.next (if_neg (mt hswitches.2 h)), ⟨fun h => ?_, fun h => ?_⟩,
    ⟨slewRails_keeps.1, slewRails_keeps.2, slewRails_still, slewRails_moves⟩, fun h => ?_, fun h => ?_⟩
  · exact ⟨Table.get_put_ne _ _ _ hj, Table.get_put_ne _ _ _ hj⟩
  · exact congrArg Outcome.next (if_neg (by simpa using h))
  · exact congrArg Outcome.next (if_pos (.inr rfl))
  · rw [rink_modRink_same]
    refine ⟨?_, rfl, rfl, rfl⟩
    exact BitVec.toNat_ofNat .. |>.trans (Nat.mod_eq_of_lt (by omega))
  · rw [rink_modRink_same]
    refine ⟨hcap3, rfl, rfl, fun hr => if_neg (by rw [show rinkRuns (rink r s) = true from hr]; simp), fun hr => ?_⟩
    rw [writeVote_pf_eff hr, hcap3]
  · have hv : (p.vnow != pointVolt p p.target) = true := bne_iff_ne.2 hv
    show (p.ramping || p.vnow != pointVolt p p.target) = true
    rw [hv, Bool.or_true]
  · exact ⟨_, congrArg Outcome.next (if_pos (rampOver_iff.2 h)), rfl, rfl, rfl⟩
  · exact congrArg Outcome.next (if_neg (mt rampOver_iff.1 h))
  · exact hsampled _ (if_pos (Bool.and_eq_true_iff.2 h))
  · exact hsampled _ (if_neg (mt Bool.and_eq_true_iff.1 h))

end Sys2Proof.Machine

/-! # A job's path from GO to its end (13 R320 to R323, R326 to R330) -/

namespace Sys2Proof.Machine

open Host (Outcome)

/-! ## The journal (13 R328) -/

section Journal

variable {fn : Nat} {s : State}

theorem fnOf_hostWrite (fn addr n : Nat) (data : List Byte) (s : State) : fnOf n (hostWrite fn addr data s) = fnOf n s := by
  unfold hostWrite
  split <;> rfl

theorem hostWrite_sent (fn addr : Nat) (data : List Byte) (s : State) : (hostWrite fn addr data s).sent = s.sent := by
  unfold hostWrite
  split <;> rfl

/-- The bytes of a record. -/
def journalBytes (kind slot status prio seq jgraph jarg beats : Nat) : List Byte :=
  leBytes 8 (kind * 2 ^ 56 + slot * 2 ^ 48 + status * 2 ^ 40 + prio * 2 ^ 32 + seq) ++ leBytes 8 jgraph ++ leBytes 8 jarg ++ leBytes 8 beats

/-- Where a function's next record stands. -/
def journalAt (f : Fn) : Nat := f.jbase.toNat + 32 * (f.jhead.toNat % 2 ^ f.jlog.toNat)

/-- A record moves JHEAD and no other register of its function. -/
theorem fnOf_journal (kind slot status prio seq jgraph jarg beats : Nat) (notify : Bool) :
    fnOf fn (journal fn kind slot status prio seq jgraph jarg beats notify s) = { fnOf fn s with jhead := (fnOf fn s).jhead + 1 } := by
  simp only [journal]
  split
  · rw [fnOf_send, fnOf_modFn_same, fnOf_hostWrite]
  · rw [fnOf_modFn_same, fnOf_hostWrite]

theorem host_journal (hb : (fnOf fn s).busMaster = true) (kind slot status prio seq jgraph jarg beats : Nat) (notify : Bool) :
    (journal fn kind slot status prio seq jgraph jarg beats notify s).host =
      s.host.writeBytes (journalAt (fnOf fn s)) (journalBytes kind slot status prio seq jgraph jarg beats) := by
  simp only [journal, hostWrite, if_pos hb]
  split <;> rfl

theorem sent_journal (kind slot status prio seq jgraph jarg beats : Nat) (notify : Bool) :
    (journal fn kind slot status prio seq jgraph jarg beats notify s).sent =
      s.sent ++ if notify then [.msix fn (fnOf fn s).vec.toNat] else [] := by
  simp only [journal]
  split
  · exact congrArg (· ++ _) (hostWrite_sent ..)
  · rw [List.append_nil]
    exact hostWrite_sent ..

/-- The records of a list of jobs move JHEAD by as many. -/
theorem fnOf_recordJobs (slot status : Nat) (js : List Job) (s : State) :
    fnOf fn (js.foldl (fun s j => recordJob fn slot status j s) s) =
      { fnOf fn s with jhead := (fnOf fn s).jhead + BitVec.ofNat 32 js.length } := by
  induction js generalizing s with
  | nil => simp
  | cons j js ih =>
    have hrec : fnOf fn (recordJob fn slot status j s) = { fnOf fn s with jhead := (fnOf fn s).jhead + 1 } := fnOf_journal ..
    have hsum (h : BitVec 32) (n : Nat) : h + 1 + BitVec.ofNat 32 n = h + BitVec.ofNat 32 (n + 1) := by
      rw [BitVec.add_assoc, BitVec.add_comm 1, Nat.add_comm n 1, Nat.add_comm 1 n, BitVec.ofNat_add]
      rfl
    rw [List.foldl_cons, ih, hrec, List.length_cons, ← hsum]

/-- A part of the bytes that are written is read back. -/
theorem readBytes_writeBytes_part (m : Mem) (a : Nat) (x y z : List Byte) :
    (m.writeBytes a (x ++ y ++ z)).readBytes (a + x.length) y.length = y := by
  rw [Mem.readBytes_map]
  refine List.ext_getElem (by simp) fun i hi hy => ?_
  simp only [List.getElem_map, List.getElem_range, Nat.add_assoc]
  rw [Mem.read_writeBytes_in _ _ _ _ (by simp; omega)]
  simp [hy]

end Journal

/-! ## GO (13 R326, R327, R329) -/

section Go

variable {fn slot : Nat} {jctl : Word} {relaxed : Bool} {s : State}

/-- The word that a GO writes to JCTL. -/
def goWord (jctl : Word) : Nat := jctl.toNat / 16 * 16 + 4 + jctl.toNat % 4 + 8 * b2n (bitOf jctl.toNat 3)

theorem goWord_fields (jctl : Word) : bitOf (goWord jctl) 3 = bitOf jctl.toNat 3 ∧ bitOf (goWord jctl) 2 = true ∧
    field (goWord jctl) 47 32 = field jctl.toNat 47 32 ∧ goWord jctl % 4 = jctl.toNat % 4 := by
  unfold goWord field
  generalize hb : bitOf jctl.toNat 3 = b
  have hb1 : b2n b = 0 ∧ b = false ∨ b2n b = 1 ∧ b = true := by cases b <;> simp [b2n]
  refine ⟨?_, ?_, by omega, by omega⟩
  · unfold bitOf
    obtain ⟨h0, rfl⟩ | ⟨h1, rfl⟩ := hb1
    · rw [h0, beq_eq_false_iff_ne]; omega
    · rw [h1, beq_iff_eq]; omega
  · unfold bitOf
    rw [beq_iff_eq]; omega

theorem go_waits_iff : (HostRequest.go fn slot (goWord jctl) relaxed).waits s.held s = true ↔ ¬(relaxed = true ∨ ∀ q ∈ s.held, q.fn ≠ fn) := by
  simp only [HostRequest.waits, HostRequest.moves, HostRequest.relaxed, HostRequest.fn, Bool.false_or, Bool.and_eq_true, Bool.not_eq_true',
    List.any_eq_true, beq_iff_eq, not_or, Bool.not_eq_true, not_forall, not_not, exists_prop]

/-- The function after the slot's registers of a JCTL write. -/
def slotWritten (slot v : Nat) (f : Fn) : Fn :=
  { f with slots := f.slots.put slot { f.slots.get JobSlot.reset slot with arglen := .ofNat 16 (field v 47 32), prio := .ofNat 2 v } }

theorem slotWritten_queue (slot v n : Nat) (f : Fn) :
    ((slotWritten slot v f).slots.get JobSlot.reset n).queue = (f.slots.get JobSlot.reset n).queue := by
  simp only [slotWritten, Table.get_put]
  split
  · next h => rw [h]
  · rfl

theorem openJobs_congr {f g : Fn} (h : ∀ n, (f.slots.get JobSlot.reset n).queue = (g.slots.get JobSlot.reset n).queue) : openJobs f = openJobs g := by
  simp only [openJobs, h]

theorem fnOf_wake (n : Nat) (s : State) : fnOf n (wake s) = fnOf n s := by
  unfold wake
  split <;> rfl

/-- The GO write that a slot's registers make. -/
def goOf (slot : Nat) (relaxed : Bool) (sl : JobSlot) : GoWrite :=
  { slot := slot, relaxed := relaxed, checked := false, jgraph := sl.jgraph, jarg := sl.jarg, arglen := sl.arglen, prio := sl.prio }

/-- ROCNT counts a relaxed write. -/
def countRelaxed (relaxed : Bool) (f : Fn) : Fn := if relaxed then { f with rocnt := sat32 f.rocnt } else f

theorem sat32_toNat (v : BitVec 32) : (sat32 v).toNat = satAdd 32 v.toNat 1 := by
  have := v.isLt
  unfold sat32 satAdd
  rw [BitVec.toNat_ofNat]
  split <;> omega

theorem fnOf_refuseGo_recorded {g : GoWrite} (status : Nat) (h : openJobs (fnOf fn s) + 1 ≤ journalFree (fnOf fn s)) :
    fnOf fn (refuseGo fn status g s) = { fnOf fn s with jhead := (fnOf fn s).jhead + 1 } := by
  unfold refuseGo
  rw [if_pos h]
  exact fnOf_journal ..

theorem fnOf_refuseGo_counted {g : GoWrite} (status : Nat) (h : journalFree (fnOf fn s) < openJobs (fnOf fn s) + 1) :
    fnOf fn (refuseGo fn status g s) = { fnOf fn s with refcnt := sat32 (fnOf fn s).refcnt } := by
  unfold refuseGo
  rw [if_neg (by omega)]
  exact fnOf_modFn_same ..

/-- The state in which the first GO write is checked. -/
def countedGo (fn : Nat) (relaxed : Bool) (s : State) : State := if relaxed then modFn fn (fun f => { f with rocnt := sat32 f.rocnt }) s else s

theorem fnOf_countedGo : fnOf fn (countedGo fn relaxed s) = countRelaxed relaxed (fnOf fn s) := by
  unfold countedGo countRelaxed
  split
  · exact fnOf_modFn_same ..
  · rfl

theorem countRelaxed_keeps (relaxed : Bool) (f : Fn) : (countRelaxed relaxed f).rostrict = f.rostrict ∧ (countRelaxed relaxed f).slots = f.slots ∧
    (countRelaxed relaxed f).jlog = f.jlog ∧ (countRelaxed relaxed f).jhead = f.jhead ∧ (countRelaxed relaxed f).jtail = f.jtail ∧
    (countRelaxed relaxed f).refcnt = f.refcnt := by
  unfold countRelaxed
  split <;> exact ⟨rfl, rfl, rfl, rfl, rfl, rfl⟩

section Check

variable {g : GoWrite}

/-- A GO write is refused for its ordering, or for a full slot. -/
def goRefused (f : Fn) (g : GoWrite) : Prop := (g.relaxed = true ∧ f.rostrict = true) ∨ 4 ≤ (f.slots.get JobSlot.reset g.slot).queue.length

/-- The one GO write of a function passes its checks and waits for room. -/
theorem checkGo_passes (hg : g.checked = false) (h : ¬goRefused (fnOf fn s) g) :
    checkGo fn [g] s = modFn fn (fun f => { f with goWait := [{ g with checked := true }] }) (countedGo fn g.relaxed s) := by
  obtain ⟨hstrict, hslots, -⟩ := countRelaxed_keeps g.relaxed (fnOf fn s)
  obtain ⟨hr, hq⟩ := not_or.1 h
  unfold checkGo
  dsimp only
  rw [if_neg (by simp [hg])]
  show (if g.relaxed && (fnOf fn (countedGo fn g.relaxed s)).rostrict then _
    else if 4 ≤ ((fnOf fn (countedGo fn g.relaxed s)).slots.get JobSlot.reset g.slot).queue.length then _ else _) = _
  rw [fnOf_countedGo, hstrict, hslots, if_neg (by simpa using hr), if_neg hq]
  rfl

/-- The one GO write of a function leaves refused. -/
theorem checkGo_refuses (hg : g.checked = false) (h : goRefused (fnOf fn s) g) :
    ∃ status, checkGo fn [g] s = modFn fn (fun f => { f with goWait := [] }) (refuseGo fn status g (countedGo fn g.relaxed s)) := by
  obtain ⟨hstrict, hslots, -⟩ := countRelaxed_keeps g.relaxed (fnOf fn s)
  unfold checkGo
  dsimp only
  rw [if_neg (by simp [hg])]
  show ∃ status, (if g.relaxed && (fnOf fn (countedGo fn g.relaxed s)).rostrict then _
    else if 4 ≤ ((fnOf fn (countedGo fn g.relaxed s)).slots.get JobSlot.reset g.slot).queue.length then _ else _) = _
  rw [fnOf_countedGo, hstrict, hslots]
  by_cases hr : g.relaxed = true ∧ (fnOf fn s).rostrict = true
  · rw [if_pos (by simpa using hr)]
    exact ⟨0x10, rfl⟩
  · rw [if_neg (by simpa using hr), if_pos (h.resolve_left hr)]
    exact ⟨0x11, rfl⟩

end Check

/-- The state after a slot's registers of a JCTL write. -/
theorem fnOf_slotRegisters (v : Nat) : fnOf fn (modSlot fn slot (fun j => { j with arglen := .ofNat 16 (field v 47 32), prio := .ofNat 2 v }) s) =
    slotWritten slot v (fnOf fn s) := fnOf_modFn_same ..

/-- What the write of a GO does that does not wait. -/
theorem execJobGo_served (hp : relaxed = true ∨ ∀ q ∈ s.held, q.fn ≠ fn) :
    exec (.jobGo fn slot jctl relaxed) s = .next (writeJctl fn slot (goWord jctl) relaxed s) := by
  show Outcome.next (takeRequest (.go fn slot (goWord jctl) relaxed) s) = _
  rw [takeRequest, if_neg fun h => go_waits_iff.1 h hp]
  rfl

theorem execJobGo_held (hp : ¬(relaxed = true ∨ ∀ q ∈ s.held, q.fn ≠ fn)) :
    exec (.jobGo fn slot jctl relaxed) s = .next { s with held := s.held ++ [.go fn slot (goWord jctl) relaxed] } := by
  show Outcome.next (takeRequest (.go fn slot (goWord jctl) relaxed) s) = _
  rw [takeRequest, if_pos (go_waits_iff.2 hp)]

/-- The slot's registers are written, then the GO comes. -/
theorem writeJctl_go (hc : bitOf jctl.toNat 3 = false) : ∃ u, fnOf fn u = slotWritten slot (goWord jctl) (fnOf fn s) ∧
    writeJctl fn slot (goWord jctl) relaxed s = submitJob fn slot relaxed u := by
  obtain ⟨h3, h2, -, -⟩ := goWord_fields jctl
  refine ⟨_, fnOf_slotRegisters _, ?_⟩
  unfold writeJctl
  dsimp only
  rw [if_neg (by simp [h3, hc]), if_pos h2]

theorem submitJob_disabled (h : (fnOf fn s).en = false) : submitJob fn slot relaxed s = modFn fn (fun f => { f with refcnt := sat32 f.refcnt }) s :=
  if_pos (by simp [h])

/-- A GO write that is the function's first is checked at once. -/
theorem submitJob_first (h : (fnOf fn s).en = true) (hw : (fnOf fn s).goWait = []) :
    let g := goOf slot relaxed ((fnOf fn s).slots.get JobSlot.reset slot)
    ∃ u, fnOf fn u = { fnOf fn s with goWait := [g] } ∧ submitJob fn slot relaxed s = checkGo fn [g] u := by
  intro g
  have hu : fnOf fn (wake (modFn fn (fun f => { f with goWait := f.goWait ++ [g] }) s)) = { fnOf fn s with goWait := [g] } := by
    rw [fnOf_wake, fnOf_modFn_same, hw, List.nil_append]
  refine ⟨_, hu, ?_⟩
  unfold submitJob
  dsimp only
  rw [if_neg (by simp [h]), settleGo]
  exact congrArg (fun f : Fn => checkGo fn f.goWait _) hu

/-- A slot as the registers of a GO leave it. -/
def goSlot (jctl : Word) (sl : JobSlot) : JobSlot := { sl with arglen := .ofNat 16 (field (goWord jctl) 47 32), prio := .ofNat 2 (goWord jctl) }

/-- The function with a GO write of a slot before its checks. -/
def goBefore (slot : Nat) (relaxed : Bool) (jctl : Word) (f : Fn) : Fn :=
  { slotWritten slot (goWord jctl) f with goWait := [goOf slot relaxed (goSlot jctl (f.slots.get JobSlot.reset slot))] }

theorem goRefused_goBefore {f : Fn} : goRefused (goBefore slot relaxed jctl f) (goOf slot relaxed (goSlot jctl (f.slots.get JobSlot.reset slot))) ↔
    (relaxed = true ∧ f.rostrict = true) ∨ 4 ≤ (f.slots.get JobSlot.reset slot).queue.length := by
  rw [← slotWritten_queue slot (goWord jctl) slot f]
  rfl

section Enabled

variable (hp : relaxed = true ∨ ∀ q ∈ s.held, q.fn ≠ fn) (hc : bitOf jctl.toNat 3 = false) (hen : (fnOf fn s).en = true)
  (hw : (fnOf fn s).goWait = [])

include hp hc hen hw

/-- A GO of a function that has none waiting is checked as it comes. -/
theorem execJobGo_checked : ∃ u, fnOf fn u = goBefore slot relaxed jctl (fnOf fn s) ∧
    exec (.jobGo fn slot jctl relaxed) s = .next (checkGo fn [goOf slot relaxed (goSlot jctl ((fnOf fn s).slots.get JobSlot.reset slot))] u) := by
  obtain ⟨u, hu, hwr⟩ := writeJctl_go (fn := fn) (slot := slot) (relaxed := relaxed) (s := s) hc
  have hslot : (fnOf fn u).slots.get JobSlot.reset slot = goSlot jctl ((fnOf fn s).slots.get JobSlot.reset slot) := by
    rw [hu]
    exact Table.get_put_same ..
  obtain ⟨v, hv, hsub⟩ := submitJob_first (fn := fn) (slot := slot) (relaxed := relaxed) (s := u) (by rw [hu]; exact hen) (by rw [hu]; exact hw)
  rw [hslot] at hv hsub
  exact ⟨v, by rw [hv, hu]; rfl, by rw [execJobGo_served hp, hwr, hsub]⟩

/-- A GO that passes its checks stands first, and waits for room in the journal. -/
theorem execJobGo_passes (h : ¬((relaxed = true ∧ (fnOf fn s).rostrict = true) ∨ 4 ≤ ((fnOf fn s).slots.get JobSlot.reset slot).queue.length)) :
    ∃ t, exec (.jobGo fn slot jctl relaxed) s = .next t ∧ fnOf fn t = { countRelaxed relaxed (slotWritten slot (goWord jctl) (fnOf fn s)) with
      goWait := [{ goOf slot relaxed (goSlot jctl ((fnOf fn s).slots.get JobSlot.reset slot)) with checked := true }] } := by
  obtain ⟨u, hu, hgo⟩ := execJobGo_checked hp hc hen hw (slot := slot)
  refine ⟨_, hgo, ?_⟩
  rw [checkGo_passes rfl (by rwa [hu, goRefused_goBefore]), fnOf_modFn_same, fnOf_countedGo, hu]
  unfold countRelaxed
  cases relaxed <;> rfl

/-- A GO that is refused leaves a record, or a count where the journal has no room for one. -/
theorem execJobGo_refused (h : (relaxed = true ∧ (fnOf fn s).rostrict = true) ∨ 4 ≤ ((fnOf fn s).slots.get JobSlot.reset slot).queue.length) :
    ∃ t, exec (.jobGo fn slot jctl relaxed) s = .next t ∧ (fnOf fn t).goWait = [] ∧
      (fnOf fn t).slots = (slotWritten slot (goWord jctl) (fnOf fn s)).slots ∧
      (openJobs (fnOf fn s) + 1 ≤ journalFree (fnOf fn s) → (fnOf fn t).jhead = (fnOf fn s).jhead + 1 ∧ (fnOf fn t).refcnt = (fnOf fn s).refcnt) ∧
      (journalFree (fnOf fn s) < openJobs (fnOf fn s) + 1 →
        (fnOf fn t).jhead = (fnOf fn s).jhead ∧ (fnOf fn t).refcnt.toNat = satAdd 32 (fnOf fn s).refcnt.toNat 1) := by
  obtain ⟨u, hu, hgo⟩ := execJobGo_checked hp hc hen hw (slot := slot)
  obtain ⟨status, hst⟩ := checkGo_refuses (fn := fn) (s := u) rfl (by rwa [hu, goRefused_goBefore])
  obtain ⟨-, hslots, hlog, hhead, htail, hcnt⟩ := countRelaxed_keeps relaxed (fnOf fn u)
  have hv : fnOf fn (countedGo fn relaxed u) = countRelaxed relaxed (fnOf fn u) := fnOf_countedGo
  have hopen : openJobs (fnOf fn (countedGo fn relaxed u)) = openJobs (fnOf fn s) := by
    refine openJobs_congr fun n => ?_
    rw [hv, hslots, hu]
    exact slotWritten_queue ..
  have hfree : journalFree (fnOf fn (countedGo fn relaxed u)) = journalFree (fnOf fn s) := by
    rw [journalFree, hv, hlog, hhead, htail, hu]
    rfl
  refine ⟨_, hgo, ?_⟩
  rw [hst, fnOf_modFn_same]
  show _ ∧ (fnOf fn (refuseGo fn status _ (countedGo fn relaxed u))).slots = _ ∧
    (_ → (fnOf fn (refuseGo fn status _ (countedGo fn relaxed u))).jhead = _ ∧ (fnOf fn (refuseGo fn status _ (countedGo fn relaxed u))).refcnt = _) ∧
    (_ → (fnOf fn (refuseGo fn status _ (countedGo fn relaxed u))).jhead = _ ∧
      (fnOf fn (refuseGo fn status _ (countedGo fn relaxed u))).refcnt.toNat = _)
  have hrec := fnOf_refuseGo_recorded (fn := fn) (s := countedGo fn relaxed u)
    (g := goOf slot relaxed (goSlot jctl ((fnOf fn s).slots.get JobSlot.reset slot))) status
  have hcount := fnOf_refuseGo_counted (fn := fn) (s := countedGo fn relaxed u)
    (g := goOf slot relaxed (goSlot jctl ((fnOf fn s).slots.get JobSlot.reset slot))) status
  rw [hopen, hfree] at hrec hcount
  rw [hv] at hrec hcount
  refine ⟨rfl, ?_, fun h => ?_, fun h => ?_⟩
  · rcases Nat.lt_or_ge (journalFree (fnOf fn s)) (openJobs (fnOf fn s) + 1) with h | h
    · rw [hcount h]
      exact hslots.trans (by rw [hu]; rfl)
    · rw [hrec h]
      exact hslots.trans (by rw [hu]; rfl)
  · rw [hrec h]
    exact ⟨by rw [hhead, hu]; rfl, by rw [hcnt, hu]; rfl⟩
  · rw [hcount h]
    exact ⟨by rw [hhead, hu]; rfl, by rw [sat32_toNat, hcnt, hu]; rfl⟩

end Enabled

end Go

/-! ## Acceptance and cancellation (13 R327, R328, R330) -/

section Accept

variable {fn slot : Nat} {s : State} {g : GoWrite}

/-- The job that an acceptance makes of a GO write. -/
def acceptedJob (seq : BitVec 32) (g : GoWrite) : Job :=
  { seq := seq.toNat, prio := g.prio.toNat, jgraph := g.jgraph.toNat, jarg := g.jarg.toNat, arglen := g.arglen.toNat, image := false, beats := 0 }

/-- SEQ of the next job of a slot. -/
def nextSeq (v : BitVec 32) : BitVec 32 := if v = 0xFFFFFFFF then 1 else v + 1

/-- A slot that has taken a GO write. -/
def acceptedSlot (sl : JobSlot) (g : GoWrite) : JobSlot := { sl with seq := nextSeq sl.seq, queue := sl.queue ++ [acceptedJob (nextSeq sl.seq) g] }

/-- The state with a job's acceptance record. -/
def acceptedRecord (fn slot : Nat) (g : GoWrite) (s : State) : State :=
  journal fn 1 slot 0 g.prio.toNat (nextSeq ((fnOf fn s).slots.get JobSlot.reset slot).seq).toNat g.jgraph.toNat g.jarg.toNat 0 (fnOf fn s).aint s

/-- The state after an acceptance: the record, the job behind those of its slot, and the GO write gone. -/
def acceptedState (fn slot : Nat) (g : GoWrite) (s : State) : State :=
  modFn fn (fun f => { f with goWait := f.goWait.drop 1 })
    (modSlot fn slot (fun v => { v with
      seq := (acceptedSlot ((fnOf fn s).slots.get JobSlot.reset slot) g).seq,
      queue := (acceptedSlot ((fnOf fn s).slots.get JobSlot.reset slot) g).queue }) (acceptedRecord fn slot g s))

theorem fnOf_acceptedState : fnOf fn (acceptedState fn slot g s) = { fnOf fn s with
    jhead := (fnOf fn s).jhead + 1, goWait := (fnOf fn s).goWait.drop 1,
    slots := (fnOf fn s).slots.put slot (acceptedSlot ((fnOf fn s).slots.get JobSlot.reset slot) g) } := by
  rw [acceptedState, fnOf_modFn_same, modSlot, fnOf_modFn_same, acceptedRecord, fnOf_journal]
  rfl

/-- The one GO write that waits is accepted where the journal has room for its records. -/
theorem execJobAcceptance_next (hw : (fnOf fn s).goWait = [g]) (hg : g.checked = true) (hs : g.slot = slot)
    (hroom : openJobs (fnOf fn s) + 2 ≤ journalFree (fnOf fn s)) : exec (.jobAcceptance fn slot) s = .next (acceptedState fn slot g s) := by
  have hmay : mayAccept fn s = some g := by
    unfold mayAccept
    simp only [hw, hg, Bool.true_and, decide_eq_true_eq, hroom, if_true]
  have hrest : (fnOf fn (acceptedState fn slot g s)).goWait = [] := by
    rw [fnOf_acceptedState, hw]
    rfl
  show Outcome.next (match mayAccept fn s with
    | none => s
    | some g => if g.slot ≠ slot then s else settleGo fn (acceptedState fn slot g s)) = _
  rw [hmay]
  dsimp only
  rw [if_neg (not_not.2 hs), settleGo, hrest]
  rfl

/-- A record's first three words, and what it leaves of the host's memory. -/
theorem journalBytes_read (m : Mem) (a kind slot status prio seq jgraph jarg beats : Nat)
    (hw : kind * 2 ^ 56 + slot * 2 ^ 48 + status * 2 ^ 40 + prio * 2 ^ 32 + seq < 2 ^ 64) (hg : jgraph < 2 ^ 64) (ha : jarg < 2 ^ 64) :
    let t := m.writeBytes a (journalBytes kind slot status prio seq jgraph jarg beats)
    leNat (t.readBytes a 8) = kind * 2 ^ 56 + slot * 2 ^ 48 + status * 2 ^ 40 + prio * 2 ^ 32 + seq ∧ leNat (t.readBytes (a + 8) 8) = jgraph ∧
      leNat (t.readBytes (a + 16) 8) = jarg ∧ ∀ b, b < a ∨ a + 32 ≤ b → t.read b = m.read b := by
  intro t
  have hpart {n : Nat} (x : List Byte) (v : Nat) (z : List Byte) (hx : x.length = n) (hv : v < 2 ^ 64)
      (he : journalBytes kind slot status prio seq jgraph jarg beats = x ++ leBytes 8 v ++ z) : leNat (t.readBytes (a + n) 8) = v := by
    have h := readBytes_writeBytes_part m a x (leBytes 8 v) z
    rw [← he, length_leBytes, hx] at h
    rw [h]
    exact leNat_leBytes_of_lt hv
  unfold journalBytes at hpart
  generalize kind * 2 ^ 56 + slot * 2 ^ 48 + status * 2 ^ 40 + prio * 2 ^ 32 + seq = w at hpart hw ⊢
  refine ⟨?_, ?_, ?_, fun b hb => Mem.read_writeBytes_out _ _ _ _ ?_⟩
  · exact hpart (n := 0) [] w (leBytes 8 jgraph ++ leBytes 8 jarg ++ leBytes 8 beats) rfl hw (by simp)
  · exact hpart (leBytes 8 w) jgraph (leBytes 8 jarg ++ leBytes 8 beats) (length_leBytes ..) hg (by simp)
  · exact hpart (leBytes 8 w ++ leBytes 8 jgraph) jarg (leBytes 8 beats) (by simp) ha (by simp)
  · simpa [journalBytes] using hb

/-- What the host reads of the record of an acceptance. -/
theorem acceptedState_host (hb : (fnOf fn s).busMaster = true) (hslot : slot < 8) :
    let at' := journalAt (fnOf fn s)
    let t := acceptedState fn slot g s
    leNat (t.host.readBytes at' 8) = 2 ^ 56 + slot * 2 ^ 48 + g.prio.toNat * 2 ^ 32 + (nextSeq ((fnOf fn s).slots.get JobSlot.reset slot).seq).toNat ∧
      leNat (t.host.readBytes (at' + 8) 8) = g.jgraph.toNat ∧ leNat (t.host.readBytes (at' + 16) 8) = g.jarg.toNat ∧
      ∀ b, b < at' ∨ at' + 32 ≤ b → t.host.read b = s.host.read b := by
  intro at' t
  have hp := g.prio.isLt
  have hseq := (nextSeq ((fnOf fn s).slots.get JobSlot.reset slot).seq).isLt
  have hhost : t.host = s.host.writeBytes at' (journalBytes 1 slot 0 g.prio.toNat (nextSeq ((fnOf fn s).slots.get JobSlot.reset slot).seq).toNat
      g.jgraph.toNat g.jarg.toNat 0) := host_journal hb ..
  rw [hhost]
  obtain ⟨h0, h1, h2, h3⟩ := journalBytes_read s.host at' 1 slot 0 g.prio.toNat (nextSeq ((fnOf fn s).slots.get JobSlot.reset slot).seq).toNat
    g.jgraph.toNat g.jarg.toNat 0 (by omega) g.jgraph.isLt g.jarg.isLt
  exact ⟨h0.trans (by rw [Nat.zero_mul, Nat.add_zero, Nat.one_mul]), h1, h2, h3⟩

/-- The jobs of a slot that leave it with a record each; the head stays where it has started. -/
theorem fnOf_cancelSlot (n : Nat) (hn : b2n (headStarted fn slot s) = n) :
    let sl := (fnOf fn s).slots.get JobSlot.reset slot
    let f := fnOf fn (cancelSlot fn slot s)
    (f.slots.get JobSlot.reset slot).queue = sl.queue.take n ∧ (f.slots.get JobSlot.reset slot).cancel = decide (n = 1) ∧
      f.jhead = (fnOf fn s).jhead + BitVec.ofNat 32 (sl.queue.length - n) := by
  intro sl f
  have hf : f = { fnOf fn s with
      jhead := (fnOf fn s).jhead + BitVec.ofNat 32 (sl.queue.drop n).length,
      slots := (fnOf fn s).slots.put slot { sl with queue := sl.queue.take n, cancel := decide (n = 1) } } := by
    show fnOf fn (cancelSlot fn slot s) = _
    unfold cancelSlot
    rw [hn]
    dsimp only
    rw [modSlot, fnOf_modFn_same, fnOf_recordJobs]
  rw [hf]
  exact ⟨congrArg JobSlot.queue (Table.get_put_same ..), congrArg JobSlot.cancel (Table.get_put_same ..), by rw [List.length_drop]⟩

end Accept

/-! ## The start of a job (13 R320, R322) -/

section Start

variable {r k n : Nat} {x : Side} {s s1 s2 : State} {w : Work} {j : Job} {js : List Job} {g : Graph} {h gt : List Byte}

/-- What a job's beginning leaves of its Sequencer's context and of its rink. -/
theorem beginJob_begins (r slot : Nat) (j : Job) (g : Graph) (gates : List GateEntry) (k : Nat) (x : Side) (f : Ctx → Ctx) (rtot : Table (BitVec 48))
    (s : State) :
    let t := beginJob r slot j g gates k x f rtot s
    (∃ y, ctxOf (site k t) x = f y) ∧ (rink r t).recov.count = 0 ∧ (rink r t).recov.checkpoint.isSome = true ∧
      (rink r t).work.running = some ⟨slot, j, g.base, g.len, gates⟩ := by
  intro t
  refine ⟨⟨ctxOf (site k (worldSwitch r s)) x, ?_⟩, ?_, ?_, ?_⟩
  · show ctxOf (site k (modSite k (modCtx x f) (modWork r (startWork slot j g gates) (modRink r (fun q => { q with rtot := rtot }) (worldSwitch r s))))) x = _
    rw [site_modSite_same, ctxOf_modCtx]
    rfl
  · exact congrArg (fun q : Rink => q.recov.count) (rink_modRink_same ..)
  · exact congrArg (fun q : Rink => q.recov.checkpoint.isSome) (rink_modRink_same ..)
  · have hrecount (u : State) : (rink r (recount r u)).work.running = (rink r u).work.running := by
      simp only [recount, modWork, rink_modRink_same]
    refine (congrArg (fun q : Rink => q.work.running) (rink_modRink_same ..)).trans ((hrecount _).trans ?_)
    show (rink r (modWork r (startWork slot j g gates) _)).work.running = _
    rw [modWork, rink_modRink_same]
    rfl

/-- A granted job whose graph reads starts afresh. -/
theorem grantJob_starts (hq : seqSite r s = some (k, x)) (hch : choose s r = some (n, w))
    (hj : ((fnOf (rinkFn r s) s).slots.get JobSlot.reset n).queue = j :: js)
    (hcan : ((fnOf (rinkFn r s) s).slots.get JobSlot.reset n).cancel = false) (him : j.image = false)
    (hh : guestRead r 0 j.jgraph 64 (modWork r (fun _ => w) s) = .ok (h, s1)) (hg : parseGraph j.jgraph h = some g)
    (hgt : guestRead r 0 g.gtoff (16 * g.ngate) s1 = .ok (gt, s2)) :
    grantJob r s = some (beginJob r n j g (parseMany parseGate gt 0 16 g.ngate) k x (freshSeq (site k s2).now g n j) (Table.fill 32 0) s2) := by
  simp only [grantJob, hq, hch, hj, hcan, startJob, hh, hg, hgt, him, Bool.false_eq_true, if_false]

theorem execJobStart_refused (h : mayGrant r s = false) : exec (.jobStart r) s = .next s :=
  congrArg Outcome.next (if_neg (by simp [h]))

theorem execJobStart_granted {t : State} (h : mayGrant r s = true) (hg : grantJob r s = some t) : exec (.jobStart r) s = .next t :=
  congrArg Outcome.next ((if_pos h).trans (by rw [hg]; rfl))

/-- A fetch address is a word's. -/
theorem wordAddr_ofNat (n : Nat) : wordAddr (.ofNat 64 n) = BitVec.ofNat 64 (n / 4 * 4) := by
  unfold wordAddr
  apply BitVec.eq_of_toNat_eq
  simp only [BitVec.toNat_ofNat]
  omega

end Start

/-! ## The reset of a function and the operator's length (13 R323, R327) -/

section Reset

variable {r fn : Nat} {s : State}

theorem postEvent_opPosted (kind info : Nat) (rest : List Word) (w : Work) : (postEvent kind info rest w).opPosted = w.opPosted := by
  unfold postEvent
  dsimp only
  split
  · rfl
  · split <;> rfl

/-- The record of an operator that has passed its length. -/
theorem execOperatorLength_posts (hl : 1000000 < (rink r s).work.opLen) (hp : (rink r s).work.opPosted = false) :
    exec (.operatorLengthExceeded r) s = .next (modWork r (fun w => postEvent 5 (w.opEvent.getD 0) [] { w with opPosted := true }) s) :=
  congrArg Outcome.next (if_pos (by simp [opPassed, hl, hp]))

theorem execOperatorLength_silent (h : ¬(1000000 < (rink r s).work.opLen ∧ (rink r s).work.opPosted = false)) :
    exec (.operatorLengthExceeded r) s = .next s :=
  congrArg Outcome.next (if_neg (by simpa [opPassed] using h))

/-- A record of one word is queued where the queue holds fewer words than it keeps for records. -/
theorem postEvent_queues {kind info : Nat} {w : Work} (h : w.evq.length + b2n w.evDrop.isNone < 256) :
    ∃ e, (postEvent kind info [] w).evq = w.evq ++ [e] :=
  ⟨_, postEvent_fits (by rw [← eventRoom_eq, List.length_nil]; omega)⟩

end Reset

/-- Settles O49: GO by its checks, acceptance by its record, and a granted job by the state in which its Sequencer's context begins. -/
theorem jobEvents : Obligations.JobEvents := by
  unfold Obligations.JobEvents
  intro s fn slot r jctl relaxed f sl slotIn cancels go passes
  obtain ⟨-, -, hfield, hprio⟩ := goWord_fields jctl
  have harg : (BitVec.ofNat 16 (field (goWord jctl) 47 32)).toNat = field jctl.toNat 47 32 := by
    rw [hfield, BitVec.toNat_ofNat]
    exact Nat.mod_eq_of_lt (field_lt ..)
  have hpr : (BitVec.ofNat 2 (goWord jctl)).toNat = jctl.toNat % 4 := by rw [BitVec.toNat_ofNat]; exact hprio
  have hqueue : ((slotWritten slot (goWord jctl) f).slots.get JobSlot.reset slot).queue = sl.queue := slotWritten_queue ..
  refine ⟨fun hp => ?_, fun hp hc hen => ?_, fun hp hc hen hw hr hl => ?_, fun hp hc hen hw hr => ?_, fun g hw hg hs hslot hroom => ?_,
    fun hst => ⟨_, rfl, ?_⟩, fun hst => ⟨_, rfl, ?_⟩, execJobStart_refused, ?_, ⟨_, rfl, ?_⟩, fun hl hp => ⟨_, execOperatorLength_posts hl hp, ?_⟩,
    execOperatorLength_silent⟩
  · refine ⟨_, execJobGo_held hp, rfl, Bool.eq_false_iff.2 fun h => hp (.inl h)⟩
  · obtain ⟨u, hu, hwr⟩ := writeJctl_go (fn := fn) (slot := slot) (relaxed := relaxed) (s := s) hc
    refine ⟨_, (execJobGo_served hp).trans (congrArg _ (hwr.trans (submitJob_disabled (by rw [hu]; exact hen)))), ?_⟩
    simp only [slotIn, fnOf_modFn_same, hu]
    exact ⟨sat32_toNat _, rfl, hqueue⟩
  · obtain ⟨t, ht, hf⟩ := execJobGo_passes hp hc hen hw (slot := slot) (not_or.2 ⟨hr, Nat.not_le_of_lt hl⟩)
    obtain ⟨-, hslots, -⟩ := countRelaxed_keeps relaxed (slotWritten slot (goWord jctl) f)
    refine ⟨t, _, ht, congrArg Fn.goWait hf, rfl, rfl, rfl, rfl, harg, hpr, ?_, ?_⟩
    · rw [hf]
      cases relaxed with
      | false => rfl
      | true => exact sat32_toNat _
    · rw [show slotIn t = (countRelaxed relaxed (slotWritten slot (goWord jctl) f)).slots.get JobSlot.reset slot by simp only [slotIn, hf]; rfl, hslots]
      exact hqueue
  · obtain ⟨t, ht, hwait, hslots, hrec, hcount⟩ := execJobGo_refused hp hc hen hw (slot := slot) hr
    exact ⟨t, ht, hwait, by simp only [slotIn, hslots]; exact hqueue, hrec, hcount⟩
  · have hf := fnOf_acceptedState (fn := fn) (slot := slot) (g := g) (s := s)
    have hsl : slotIn (acceptedState fn slot g s) = acceptedSlot sl g :=
      (congrArg (fun f : Fn => f.slots.get JobSlot.reset slot) hf).trans (Table.get_put_same ..)
    refine ⟨_, acceptedJob (nextSeq sl.seq) g, execJobAcceptance_next hw hg hs hroom, ?_⟩
    rw [hsl]
    exact ⟨rfl, rfl, rfl, rfl, rfl, rfl, rfl, rfl, by rw [hf, hw]; rfl, congrArg Fn.jhead hf, sent_journal .., fun hb => acceptedState_host hb hslot⟩
  · obtain ⟨hq, hcan, hh⟩ := fnOf_cancelSlot (fn := fn) (slot := slot) (s := s) 0 (by rw [hst]; rfl)
    exact ⟨hq.trans List.take_zero, hcan, hh⟩
  · obtain ⟨hq, hcan, hh⟩ := fnOf_cancelSlot (fn := fn) (slot := slot) (s := s) 1 (by rw [hst]; rfl)
    exact ⟨hq, hcan, hh⟩
  · intro k x n w j js h gt g s1 s2 hmay hq hch hj hcan him hh hg hgt
    obtain ⟨⟨y, hy⟩, hcount, hcp, hrun⟩ := beginJob_begins r n j g (parseMany parseGate gt 0 16 g.ngate) k x (freshSeq (site k s2).now g n j) (Table.fill 32 0) s2
    refine ⟨_, execJobStart_granted hmay (grantJob_starts hq hch hj hcan him hh hg hgt), ?_⟩
    rw [hy]
    exact ⟨wordAddr_ofNat _, rfl, rfl, rfl, rfl, rfl, rfl, rfl, rfl, rfl, rfl, rfl, rfl, rfl, rfl, rfl, hcount, hcp, _, hrun, rfl, rfl⟩
  · rw [fnOf_modFn_same]
    exact ⟨rfl, rfl, rfl, rfl, rfl, rfl, rfl, rfl, fun n => Table.get_fill_default ..⟩
  · rw [modWork, rink_modRink_same]
    exact ⟨postEvent_opPosted .., (postEvent_keeps ..).1, rfl, fun h => postEvent_queues h⟩

end Sys2Proof.Machine

/-! # Translation and protection, as the hypervisor works them (14 R339, R345 to R348, R355, R356) -/

namespace Sys2Proof.Machine

open Host (Outcome)

/-! ## Invalidation (14 R345) -/

section Invalidation

variable {fn : Nat} {s : State}

theorem askTinv_tinv (fn kind page : Nat) (s : State) :
    (fnOf fn (askTinv fn kind page s)).tinv = (fnOf fn s).tinv ++ [(kind, page / 65536 * 65536)] := by
  rw [askTinv, fnOf_modFn_same]

theorem site_dropTlb (p : Tlb → Bool) (k : Nat) (s : State) :
    site k (dropTlb p s) = { site k s with tlb := (site k s).tlb.filter fun e => !p e } :=
  site_mapVals (f := fun c => { c with tlb := c.tlb.filter fun e => !p e }) rfl rfl k

theorem mem_dropTlb {p : Tlb → Bool} {k : Nat} {e : Tlb} : e ∈ (site k (dropTlb p s)).tlb ↔ e ∈ (site k s).tlb ∧ p e = false := by
  rw [site_dropTlb]
  simp

/-- A settled invalidation drops the translations it names, in every core. -/
theorem execTinvDone_settled (h : (fnOf fn s).tinv ≠ []) (hs : tinvSettled fn s = true) :
    exec (.tinvDone fn) s = .next (modFn fn (fun f => { f with tinv := [] })
      (dropTlb (fun e => (fnOf fn s).tinv.any fun q => tinvNames fn q e) s)) :=
  congrArg Outcome.next (if_neg (by simp [h, hs]))

theorem execTinvDone_waits (h : (fnOf fn s).tinv = [] ∨ tinvSettled fn s = false) : exec (.tinvDone fn) s = .next s :=
  congrArg Outcome.next (if_pos (by rcases h with h | h <;> simp [h]))

end Invalidation

/-! ## Stage-2 leaves (14 R339) -/

section Leaves

variable {s t : State} {entry n : Nat} {val : Word} {data : List Byte} {m : Mem}

theorem leafBusy_iff : leafBusy m entry = true ↔ leafPin m entry ≠ 0 ∨ leafMov m entry = true := by
  simp [leafBusy]

/-- A plaintext write that meets no leaf sets no function's BUSY. -/
theorem offWrite_none_fns (hl : metLeaves entry data.length s = []) (h : offWrite none entry entry data s = some t) : t.fns = s.fns := by
  have hg : guardLeaves entry data (treadTrees entry data.length s) = (data, treadTrees entry data.length s) := by
    simp [guardLeaves, metLeaves_treadTrees hl]
  unfold offWrite at h
  rw [hg, treadTrees_keys] at h
  dsimp only at h
  split at h
  · exact absurd h nofun
  · rw [← Option.some.inj h]

theorem execStage2LeafWrite_busy (h : leafPin s.mem (n / 16 * 16) ≠ 0 ∨ leafMov s.mem (n / 16 * 16) = true) (create : Bool) :
    exec (.stage2LeafWrite n val create) s = .next (modFn 0 (fun f => { f with tbusy := true }) s) :=
  congrArg Outcome.next (if_pos (leafBusy_iff.2 h))

/-- The bytes of a leaf's write: word 0, and a cleared word 1 where the leaf is created. -/
def leafWrite (val : Word) (create : Bool) : List Byte := leBytes 8 val.toNat ++ if create then leBytes 8 0 else []

theorem execStage2LeafWrite_free (hp : leafPin s.mem (n / 16 * 16) = 0) (hm : leafMov s.mem (n / 16 * 16) = false) {create : Bool}
    (ho : ordinaryGranule s none (n / 16 * 16) (n / 16 * 16) (leafWrite val create).length) :
    ∃ t, exec (.stage2LeafWrite n val create) s = .next t ∧ t.mem = s.mem.writeBytes (n / 16 * 16) (leafWrite val create) ∧ t.fns = s.fns := by
  obtain ⟨t, ht, hw⟩ := offWrite_plain ho
  obtain ⟨-, -, -, hl, -⟩ := ho
  refine ⟨t, congrArg Outcome.next ?_, hw.mem, offWrite_none_fns hl ht⟩
  rw [if_neg (by simp [leafBusy, hp, hm])]
  exact (congrArg (·.getD s) ht :)

/-- The first bytes of a write are read back. -/
theorem readBytes_writeBytes_front (m : Mem) (a : Nat) (x y : List Byte) : (m.writeBytes a (x ++ y)).readBytes a x.length = x :=
  readBytes_writeBytes_part m a [] x y

/-- The last bytes of a write are read back. -/
theorem readBytes_writeBytes_back (m : Mem) (a : Nat) (x y : List Byte) : (m.writeBytes a (x ++ y)).readBytes (a + x.length) y.length = y := by
  have h := readBytes_writeBytes_part m a x y []
  rwa [List.append_nil] at h

theorem leNat_leafWrite (m : Mem) (a : Nat) (val : Word) (create : Bool) :
    leNat ((m.writeBytes a (leafWrite val create)).readBytes a 8) = val.toNat := by
  have h := readBytes_writeBytes_front m a (leBytes 8 val.toNat) (if create then leBytes 8 0 else [])
  rw [length_leBytes] at h
  rw [leafWrite, h, leNat_leBytes_word]

theorem leNat_leafWrite_word1 (m : Mem) (a : Nat) (val : Word) : leNat ((m.writeBytes a (leafWrite val true)).readBytes (a + 8) 8) = 0 := by
  have h := readBytes_writeBytes_back m a (leBytes 8 val.toNat) (leBytes 8 0)
  rw [length_leBytes, length_leBytes] at h
  rw [leafWrite, if_pos rfl, h, leNat_leBytes, Nat.zero_mod]

theorem readBytes_congr {m m' : Mem} {a n : Nat} (h : ∀ b, a ≤ b → b < a + n → m.read b = m'.read b) : m.readBytes a n = m'.readBytes a n := by
  rw [Mem.readBytes_map, Mem.readBytes_map]
  refine List.map_congr_left fun i hi => ?_
  have := List.mem_range.1 hi
  exact h _ (by omega) (by omega)

/-- MOV stands in one byte of the leaf. -/
theorem leafMov_eq (m : Mem) (entry : Nat) : leafMov m entry = bitOf (m.read (entry + 10)).toNat 7 := by
  have h0 := (m.read (entry + 8)).isLt
  have h1 := (m.read (entry + 9)).isLt
  have h2 := (m.read (entry + 10)).isLt
  have hbit : ∀ a b c d : Nat, a < 2 ^ 8 → b < 2 ^ 8 → c < 2 ^ 8 → (a + 256 * (b + 256 * (c + 256 * d))) / 2 ^ 23 % 2 = c / 2 ^ 7 % 2 := by
    intros
    omega
  simp only [leafMov, Mem.readBytes, leNat, bitOf, hbit _ _ _ _ h0 h1 h2]

theorem read_writeMov (entry : Nat) (b : Bool) (m : Mem) {a : Nat} (h : a ≠ entry + 10) : (writeMov entry b m).read a = m.read a :=
  Mem.read_writeBytes_out _ _ _ _ (by simp; omega)

theorem leafMov_writeMov (entry : Nat) (b : Bool) (m : Mem) : leafMov (writeMov entry b m) entry = b := by
  have hbyte : (writeMov entry b m).read (entry + 10) = .ofNat 8 (leNat (m.readBytes (entry + 10) 1) % 128 + 128 * b2n b) := Mem.read_write_same ..
  rw [leafMov_eq, hbyte]
  generalize leNat (m.readBytes (entry + 10) 1) = v
  have hv := Nat.mod_lt v (show 0 < 128 by decide)
  cases b with
  | false => simp [bitOf, b2n]; omega
  | true => simp [bitOf, b2n]; omega

end Leaves

/-! ## Requests for a move (14 R348) -/

section Requests

variable {fn ia fr page : Nat} {s : State} {l : Leaf} {val : Word} {lpddr : Bool}

/-- A walk's leaf has the page size of one of its levels. -/
theorem walk2_size (a : Nat) (levels : List (Nat × Nat × Bool × Bool)) (table : Nat) (h : walk2 s a levels table = .ok l) :
    ∃ v ∈ levels, l.size = 2 ^ v.1 := by
  induction levels generalizing table with
  | nil => exact absurd h nofun
  | cons v levels ih =>
    obtain ⟨shift, bits, may, must⟩ := v
    simp only [walk2] at h
    split at h
    · exact absurd h nofun
    · split at h
      · exact absurd h nofun
      · split at h
        · exact absurd h nofun
        · split at h
          · cases h
            exact ⟨_, List.mem_cons_self, rfl⟩
          · obtain ⟨v, hv, hs⟩ := ih _ h
            exact ⟨v, List.mem_cons_of_mem _ hv, hs⟩

theorem leafOf_size (h : leafOf fn ia s = some l) : l.size = 2 ^ 39 ∨ l.size = 2 ^ 30 ∨ l.size = 2 ^ 21 ∨ l.size = 2 ^ 16 := by
  unfold leafOf at h
  dsimp only at h
  split at h
  · exact absurd h nofun
  · split at h
    · next hw =>
      cases h
      obtain ⟨v, hv, hs⟩ := walk2_size _ _ _ hw
      simp only [walkLevels, List.mem_cons, List.not_mem_nil, or_false] at hv
      rcases hv with rfl | rfl | rfl | rfl <;> simp [hs]
    · exact absurd h nofun

/-- A page lies in the half of the space in which its addresses lie. -/
theorem bitOf_pageBase (h : leafOf fn ia s = some l) : bitOf (ia / l.size * l.size) 47 = bitOf ia 47 := by
  have hbit : ia / l.size * l.size / 2 ^ 47 % 2 = ia / 2 ^ 47 % 2 := by
    rcases leafOf_size h with h | h | h | h <;> rw [h] <;> omega
  rw [bitOf, bitOf, hbit]

theorem homeCapacity_iff {f : Fn} {page size : Nat} : homeCapacity f page size = true ↔ ∃ i < size / 65536, f.homes.get 0 (page / 65536 + i) = 1 := by
  simp [homeCapacity]

theorem fnOf_queueMove (fn ia fr size : Nat) (s : State) :
    fnOf fn (queueMove fn ia fr size s) = { fnOf fn s with frames := (fnOf fn s).frames.filter (· != (fr, size)) } :=
  fnOf_modFn_same fn (fun f => { f with frames := f.frames.filter (· != (fr, size)) }) s

/-- What a request notes of a page is whether the page lies away from home. -/
theorem noteMigreq_keeps (fn ia : Nat) (l : Leaf) (lpddr : Bool) (s : State) :
    (noteMigreq fn ia l lpddr s).migrations = s.migrations ∧ (noteMigreq fn ia l lpddr s).mem = s.mem ∧
      (fnOf fn (noteMigreq fn ia l lpddr s)).frames = (fnOf fn s).frames := by
  unfold noteMigreq
  split
  · exact ⟨rfl, rfl, rfl⟩
  · refine ⟨rfl, rfl, ?_⟩
    rw [fnOf_modFn_same]

theorem noteMigreq_promoted (h : bitOf ia 47 = false) : (fnOf fn (noteMigreq fn ia l lpddr s)).promoted =
    if lpddr then (fnOf fn s).promoted.filter (·.1 != ia)
    else if inLPDDR l.out && homeCapacity (fnOf fn s) ia l.size then (fnOf fn s).promoted.filter (·.1 != ia) ++ [(ia, l.size)]
    else (fnOf fn s).promoted := by
  rw [noteMigreq, if_neg (by simp [h]), fnOf_modFn_same]

theorem CountsOnly.fnOf_eq {s t : State} (h : CountsOnly s t) (fn : Nat) : fnOf fn t = fnOf fn s := (congrArg (fnOf fn) h :)

/-- The state after a request that finds a frame, but for the counters of its die. -/
def requested (fn page : Nat) (l : Leaf) (lpddr : Bool) (fr : Nat) (s : State) : State :=
  noteMigreq fn page l lpddr (queueMove fn page fr l.size s)

theorem execMigreq_moves (hl : leafOf fn (field val.toNat 63 16 * 65536) s = some l) (hf : freeFrame fn l.size (bitOf val.toNat 0) s = some fr) :
    ∃ t, exec (.migreq fn val) s = .next t ∧
      CountsOnly (requested fn (field val.toNat 63 16 * 65536 / l.size * l.size) l (bitOf val.toNat 0) fr s) t := by
  refine ⟨_, congrArg Outcome.next ?_, countShared_countsOnly 0 6 2 fn 1 _⟩
  simp only [hl, hf]
  rfl

theorem execMigreq_drops (hl : leafOf fn (field val.toNat 63 16 * 65536) s = some l) (hf : freeFrame fn l.size (bitOf val.toNat 0) s = none) :
    ∃ t, exec (.migreq fn val) s = .next t ∧ CountsOnly (modFn fn (fun f => { f with migDrop := f.migDrop + 1 }) s) t := by
  refine ⟨_, congrArg Outcome.next ?_, countShared_countsOnly 0 6 3 fn 1 _⟩
  simp only [hl, hf]

theorem requested_keeps : (requested fn page l lpddr fr s).migrations = s.migrations ++ [(fn, page, fr)] ∧
    (fr, l.size) ∉ (fnOf fn (requested fn page l lpddr fr s)).frames ∧ (requested fn page l lpddr fr s).mem = s.mem := by
  obtain ⟨hmig, hmem, hframes⟩ := noteMigreq_keeps fn page l lpddr (queueMove fn page fr l.size s)
  refine ⟨hmig, ?_, hmem⟩
  unfold requested
  rw [hframes, fnOf_queueMove]
  simp

theorem requested_promoted (h : bitOf page 47 = false) : (fnOf fn (requested fn page l lpddr fr s)).promoted =
    if lpddr then (fnOf fn s).promoted.filter (·.1 != page)
    else if inLPDDR l.out && homeCapacity (fnOf fn s) page l.size then (fnOf fn s).promoted.filter (·.1 != page) ++ [(page, l.size)]
    else (fnOf fn s).promoted := by
  unfold requested
  rw [noteMigreq_promoted h, fnOf_queueMove]
  rfl

end Requests

/-! ## The epoch of page migration (14 R348) -/

section Epoch

variable {fn p c fr : Nat} {s : State} {l : Leaf}

theorem plainBytes_fns (fns : Table Fn) (ma n : Nat) : plainBytes { s with fns := fns } ma n = plainBytes s ma n := by
  unfold plainBytes
  simp only [treeLine_congr (s := s) (t := { s with fns := fns }) rfl rfl]
  rfl

theorem offRead_none_fns (fns : Table Fn) (ma ia n : Nat) : offRead { s with fns := fns } none ma ia n = offRead s none ma ia n := by
  simp only [offRead, plainBytes_fns]
  rfl

/-- A walk reads no register of a function. -/
theorem walk2_fns (fns : Table Fn) (a : Nat) (levels : List (Nat × Nat × Bool × Bool)) (table : Nat) :
    walk2 { s with fns := fns } a levels table = walk2 s a levels table := by
  induction levels generalizing table with
  | nil => rfl
  | cons v levels ih =>
    simp only [walk2, ih, offRead_none_fns]

/-- A page's leaf depends on its function's root alone. -/
theorem leafOf_modFn {f : Fn → Fn} (h : (f (fnOf fn s)).s2root = (fnOf fn s).s2root) (ia : Nat) : leafOf fn ia (modFn fn f s) = leafOf fn ia s := by
  unfold leafOf
  rw [fnOf_modFn_same, h]
  simp only [modFn, walk2_fns]
  rfl

theorem adoptPage_capacity (hl : leafOf fn (p * 65536) s = some l) (ho : inHBM l.out = false) : adoptPage fn s p = s := by
  simp only [adoptPage, hl, ho, Bool.false_and]
  exact if_neg Bool.false_ne_true

theorem not_inHBM_of_inLPDDR {ma : Nat} (h : inLPDDR ma = true) : inHBM ma = false := by
  have := of_decide_eq_true h
  exact decide_eq_false (by omega)

theorem pageHits_single {f : Fn} (h : f.epochHits.cells = [(p, c)]) : pageHits f (p * 65536) 65536 = c := by
  simp [pageHits, List.range_succ, Table.get, h, lookupKey]

/-- One page of the capacity tier, hit often enough, goes to HBM while QUOTA allows. -/
theorem promotePage_capacity {thresh quota : Nat} (hl : leafOf fn (p * 65536) s = some l) (hsize : l.size = 65536) (ho : inLPDDR l.out = true)
    (hm : movable l s = true) (hf : freeFrame fn 65536 false s = some fr) (hp : (fnOf fn s).promoted = [])
    (hc : (fnOf fn s).epochHits.cells = [(p, c)]) :
    (promotePage fn thresh quota s p).migrations = if thresh ≤ c ∧ 1 ≤ quota then s.migrations ++ [(fn, p * 65536, fr)] else s.migrations := by
  have hpage : p * 65536 / 65536 * 65536 = p * 65536 := by omega
  have hcond : (inLPDDR l.out && movable l s && decide (thresh ≤ pageHits (fnOf fn s) (p * 65536) 65536) &&
      !(fnOf fn s).promoted.any (·.1 == p * 65536) && decide (awayPages (fnOf fn s) + 65536 / 65536 ≤ quota)) = true ↔ thresh ≤ c ∧ 1 ≤ quota := by
    simp [ho, hm, pageHits_single hc, hp, awayPages]
  simp only [promotePage, hl, hsize, hpage, hf]
  by_cases h : thresh ≤ c ∧ 1 ≤ quota
  · rw [if_pos (hcond.2 h), if_pos h]
    rfl
  · rw [if_neg (mt hcond.1 h), if_neg h]

theorem execMigrationEpoch_off (h : fn = 0 ∨ bitOf (fnOf fn s).migctl.toNat 0 = false) : exec (.migrationEpoch fn) s = .next s :=
  if_pos (by rcases h with h | h <;> simp [h])

/-- The epoch of one page of the capacity tier, without demotion and with nothing away from home. -/
theorem execMigrationEpoch_page (h0 : fn ≠ 0) (hon : bitOf (fnOf fn s).migctl.toNat 0 = true) (hd : bitOf (fnOf fn s).migctl.toNat 1 = false)
    (hc : (fnOf fn s).epochHits.cells = [(p, c)]) (hl : leafOf fn (p * 65536) s = some l) (ho : inLPDDR l.out = true) :
    exec (.migrationEpoch fn) s = .next (modFn fn (fun f => { f with epochHits := Table.empty })
      (promotePage fn (field (fnOf fn s).migctl.toNat 31 16) (field (fnOf fn s).migctl.toNat 63 32)
        (modFn fn (fun f => { f with promoted := refreshOrder f }) s) p)) := by
  have hadopt : [p].foldl (adoptPage fn) s = s := adoptPage_capacity hl (not_inHBM_of_inLPDDR ho)
  show execMigrationEpoch fn s = _
  unfold execMigrationEpoch
  simp only [hc, List.map_cons, List.map_nil, hadopt, hon, hd, decide_eq_false h0, Bool.not_true, Bool.or_false, Bool.false_eq_true, if_false]
  rfl

/-- With nothing away from home, the order of what is away stays. -/
theorem fnOf_refreshed (hp : (fnOf fn s).promoted = []) : fnOf fn (modFn fn (fun f => { f with promoted := refreshOrder f }) s) = fnOf fn s := by
  have horder : refreshOrder (fnOf fn s) = (fnOf fn s).promoted := by simp [refreshOrder, hp]
  rw [fnOf_modFn_same, horder]

theorem movable_congr {t : State} (h : t.mem = s.mem) : movable l t = movable l s := by
  unfold movable
  rw [h]

theorem execMigrationEpoch_promotes (h0 : fn ≠ 0) (hon : bitOf (fnOf fn s).migctl.toNat 0 = true) (hd : bitOf (fnOf fn s).migctl.toNat 1 = false)
    (hp : (fnOf fn s).promoted = []) (hc : (fnOf fn s).epochHits.cells = [(p, c)]) (hl : leafOf fn (p * 65536) s = some l)
    (hsize : l.size = 65536) (ho : inLPDDR l.out = true) (hm : movable l s = true) (hf : freeFrame fn 65536 false s = some fr) :
    ∃ t, exec (.migrationEpoch fn) s = .next t ∧ (fnOf fn t).epochHits.cells = [] ∧
      t.migrations = if field (fnOf fn s).migctl.toNat 31 16 ≤ c ∧ 1 ≤ field (fnOf fn s).migctl.toNat 63 32 then s.migrations ++ [(fn, p * 65536, fr)]
        else s.migrations := by
  have hfn := fnOf_refreshed hp
  refine ⟨_, execMigrationEpoch_page h0 hon hd hc hl ho, by rw [fnOf_modFn_same]; rfl, ?_⟩
  exact promotePage_capacity ((leafOf_modFn (by rfl) _).trans hl) hsize ho ((movable_congr rfl).trans hm)
    (by rw [freeFrame, hfn]; exact hf) (by rw [hfn]; exact hp) (by rw [hfn]; exact hc)

end Epoch

/-! ## The move of a page (14 R347) -/

section Moves

variable {fn n b : Nat} {s : State} {l : Leaf} {m : Move} {page : Word} {α : Type}

/-- The state after a move has begun. -/
def startedMove (fn ia target : Nat) (l : Leaf) (s : State) : State :=
  let u := dropTlb (fun e => (e.fn == fn || bitOf ia 47) && decide (e.page.ia < ia + l.size ∧ ia < e.page.ia + e.page.size))
    { s with migrations := s.migrations.filter (· != (fn, ia, target)) }
  { u with mem := writeMov l.entry true u.mem, moves := u.moves ++ [⟨fn, ia, l.size, l.entry, l.out, target⟩] }

theorem execPageMigrationStart_moves (hl : leafOf fn (page.toNat / 65536 * 65536) s = some l) (hm : movable l s = true) (hn : n % l.size = 0)
    (ht : inHBM n = true ∨ inLPDDR n = true) :
    exec (.pageMigrationStart fn page n) s = .next (startedMove fn (page.toNat / 65536 * 65536 / l.size * l.size) n l s) := by
  refine congrArg Outcome.next ?_
  simp only [hl]
  exact if_pos (by simpa [hm, hn] using ht)

theorem execPageMigrationStart_stays (hl : leafOf fn (page.toNat / 65536 * 65536) s = some l) (hm : movable l s = false) :
    exec (.pageMigrationStart fn page n) s = .next s := by
  refine congrArg Outcome.next ?_
  simp only [hl]
  exact if_neg (by simp [hm])

theorem startedMove_tlb {ia k : Nat} {e : Tlb} (h : e ∈ (site k (startedMove fn ia n l s)).tlb) :
    ¬(e.fn = fn ∧ e.page.ia < ia + l.size ∧ ia < e.page.ia + e.page.size) := by
  rintro ⟨hf, hlo, hhi⟩
  have hd := (mem_dropTlb.1 h).2
  simp [hf, hlo, hhi] at hd

/-! ### The bytes of a move -/

theorem lookupKey_append_left (d : α) {k : Nat} {l r : List (Nat × α)} (h : ∀ c ∈ l, c.1 ≠ k) : lookupKey d k (l ++ r) = lookupKey d k r := by
  induction l with
  | nil => rfl
  | cons c cs ih =>
    simp only [List.forall_mem_cons] at h
    rw [List.cons_append, lookupKey, if_neg h.1, ih h.2]

theorem lookupKey_append_right (d : α) {k : Nat} {l r : List (Nat × α)} (h : ∀ c ∈ r, c.1 ≠ k) : lookupKey d k (l ++ r) = lookupKey d k l := by
  induction l with
  | nil => exact lookupKey_absent d h
  | cons c cs ih => simp only [List.cons_append, lookupKey, ih]

/-- The cells that a copy puts at `dst`. -/
def movedCells (src dst n : Nat) (l : List (Nat × α)) : List (Nat × α) :=
  (l.filter fun c => src ≤ c.1 && c.1 < src + n).map fun c => (c.1 - src + dst, c.2)

theorem lookupKey_movedCells (d : α) {src dst n k : Nat} (h : dst ≤ k ∧ k < dst + n) (l : List (Nat × α)) :
    lookupKey d k (movedCells src dst n l) = lookupKey d (src + (k - dst)) l := by
  induction l with
  | nil => rfl
  | cons c cs ih =>
    unfold movedCells at ih ⊢
    by_cases hc : src ≤ c.1 ∧ c.1 < src + n
    · have hk : c.1 - src + dst = k ↔ c.1 = src + (k - dst) := by omega
      rw [List.filter_cons_of_pos (by simpa using hc), List.map_cons]
      simp only [lookupKey, ih, hk]
    · rw [List.filter_cons_of_neg (by simpa using hc), ih, lookupKey, if_neg (by omega)]

theorem movedCells_range {src dst n : Nat} {l : List (Nat × α)} {c : Nat × α} (h : c ∈ movedCells src dst n l) : dst ≤ c.1 ∧ c.1 < dst + n := by
  simp only [movedCells, List.mem_map, List.mem_filter, Bool.and_eq_true, decide_eq_true_eq] at h
  obtain ⟨q, ⟨-, hq⟩, rfl⟩ := h
  dsimp only
  omega

/-- A copy's cells read as those at its source, and what lies outside reads as before. -/
theorem Table.get_copyCells (t : Table α) (d : α) (src dst n k : Nat) :
    (copyCells src dst n t).get d k = if dst ≤ k ∧ k < dst + n then t.get d (src + (k - dst)) else t.get d k := by
  show lookupKey d k (t.cells.filter (fun c => c.1 < dst) ++ movedCells src dst n t.cells ++ t.cells.filter fun c => dst + n ≤ c.1) = _
  by_cases hk : dst ≤ k ∧ k < dst + n
  · rw [if_pos hk, lookupKey_append_right d (fun c hc => by simp at hc; omega), lookupKey_append_left d (fun c hc => by simp at hc; omega)]
    exact lookupKey_movedCells d hk t.cells
  · rw [if_neg hk]
    have hmoved : ∀ c ∈ movedCells src dst n t.cells, c.1 ≠ k := fun c hc => by
      have := movedCells_range hc
      omega
    rcases Nat.lt_or_ge k dst with hlo | hhi
    · rw [lookupKey_append_right d (fun c hc => by simp at hc; omega), lookupKey_append_right d hmoved]
      exact lookupKey_filter_kept d (fun _ => by simpa using hlo) _
    · rw [List.append_assoc, lookupKey_append_left d (fun c hc => by simp at hc; omega), lookupKey_append_left d hmoved]
      exact lookupKey_filter_kept d (fun _ => by simp; omega) _

theorem Mem.read_copyCells (m : Mem) (src dst n b : Nat) :
    Mem.read (copyCells src dst n m) b = if dst ≤ b ∧ b < dst + n then m.read (src + (b - dst)) else m.read b :=
  Table.get_copyCells m 0 src dst n b

/-- Memory once a page has been copied and its leaf rewritten. -/
def movedMem (m : Move) (s : State) : Mem :=
  let c : Mem := copyCells m.src m.dst m.size s.mem
  writeMov m.leaf false (c.writeBytes m.leaf (leBytes 8 (setField (leNat (c.readBytes m.leaf 8)) 41 16 (m.dst / 65536))))

/-- Outside its leaf, a move changes memory as the copy does. -/
theorem read_movedMem (h : b < m.leaf ∨ m.leaf + 16 ≤ b) :
    (movedMem m s).read b = if m.dst ≤ b ∧ b < m.dst + m.size then s.mem.read (m.src + (b - m.dst)) else s.mem.read b := by
  unfold movedMem
  dsimp only
  rw [read_writeMov _ _ _ (by omega), Mem.read_writeBytes_out _ _ _ _ (by rw [length_leBytes]; omega), Mem.read_copyCells]

theorem leafMov_movedMem : leafMov (movedMem m s) m.leaf = false := leafMov_writeMov ..

/-- The leaf of a moved page names the new frame. -/
theorem field_movedMem : field (leNat ((movedMem m s).readBytes m.leaf 8)) 41 16 = m.dst / 65536 % 2 ^ 26 := by
  unfold movedMem
  dsimp only
  generalize (copyCells m.src m.dst m.size s.mem : Mem) = c
  generalize leNat (Mem.readBytes c m.leaf 8) = w
  have hlow (v : Nat) : field (v % 256 ^ 8) 41 16 = field v 41 16 := by
    simp only [field]
    omega
  have hread := Mem.readBytes_writeBytes c m.leaf (leBytes 8 (setField w 41 16 (m.dst / 65536)))
  rw [length_leBytes] at hread
  rw [readBytes_congr fun b _ _ => read_writeMov _ _ _ (by omega), hread, leNat_leBytes, hlow, field_setField_same (by decide)]

/-- A move within a tier frees no frame. -/
theorem freeOld_within (h : inHBM m.src = inHBM m.dst) : freeOld m s = s := if_pos (by simp [h])

/-- A move between tiers frees and empties the old frame. -/
theorem freeOld_between (h : inHBM m.src ≠ inHBM m.dst) : (freeOld m s).mem = dropRange m.src (m.src + m.size) s.mem ∧
    fnOf m.fn (freeOld m s) = { fnOf m.fn s with frames := (fnOf m.fn s).frames ++ [(m.src, m.size)] } := by
  unfold freeOld
  rw [if_neg (by simpa using h)]
  exact ⟨rfl, fnOf_modFn_same m.fn (fun f => { f with frames := f.frames ++ [(m.src, m.size)] }) _⟩

theorem freeOld_moves (m : Move) (s : State) : (freeOld m s).moves = s.moves := by
  unfold freeOld
  split <;> rfl

/-- The state that holds the moved page, before its old frame is freed. -/
theorem finishMove_eq (m : Move) (s : State) : ∃ u, CountsOnly (freeOld m u) (finishMove m s) ∧ u.mem = movedMem m s ∧ u.fns = s.fns ∧
    u.moves = s.moves.filter (· != m) :=
  ⟨_, countShared_countsOnly .., rfl, rfl, rfl⟩

theorem finishMove_moves : m ∉ (finishMove m s).moves := by
  obtain ⟨u, hc, -, -, hmoves⟩ := finishMove_eq m s
  have h : (finishMove m s).moves = s.moves.filter (· != m) := (congrArg State.moves hc).trans ((freeOld_moves m u).trans hmoves)
  rw [h]
  simp

theorem finishMove_within (h : inHBM m.src = inHBM m.dst) :
    (finishMove m s).mem = movedMem m s ∧ (fnOf m.fn (finishMove m s)).frames = (fnOf m.fn s).frames := by
  obtain ⟨u, hc, hmem, hfns, -⟩ := finishMove_eq m s
  rw [freeOld_within h] at hc
  exact ⟨hc.mem_eq.trans hmem, by rw [hc.fnOf_eq, fnOf, hfns, ← fnOf]⟩

theorem finishMove_between (h : inHBM m.src ≠ inHBM m.dst) : (finishMove m s).mem = dropRange m.src (m.src + m.size) (movedMem m s) ∧
    (fnOf m.fn (finishMove m s)).frames = (fnOf m.fn s).frames ++ [(m.src, m.size)] := by
  obtain ⟨u, hc, hmem, hfns, -⟩ := finishMove_eq m s
  obtain ⟨hfree, hframes⟩ := freeOld_between (s := u) h
  refine ⟨hc.mem_eq.trans (hmem ▸ hfree), ?_⟩
  rw [hc.fnOf_eq, hframes, fnOf, hfns, ← fnOf]

/-- Outside the old frame, a finished move's memory is the one with the page moved. -/
theorem read_finishMove (h : b < m.src ∨ m.src + m.size ≤ b) : (finishMove m s).mem.read b = (movedMem m s).read b := by
  by_cases ht : inHBM m.src = inHBM m.dst
  · rw [(finishMove_within ht).1]
  · rw [(finishMove_between ht).1, Mem.read_dropRange, if_neg (by omega)]

theorem execPageMigrationComplete_waits (hm : moveOf fn page.toNat s = some m) (h : moveSettled m s = false) :
    exec (.pageMigrationComplete fn page) s = .next s := by
  refine congrArg Outcome.next ?_
  simp only [hm]
  exact if_neg (by simp [h])

theorem execPageMigrationComplete_finishes (hm : moveOf fn page.toNat s = some m) (h : moveSettled m s = true) :
    exec (.pageMigrationComplete fn page) s = .next (finishMove m s) := by
  refine congrArg Outcome.next ?_
  simp only [hm]
  exact if_pos h

theorem execPageMigrationComplete_none (hm : moveOf fn page.toNat s = none) : exec (.pageMigrationComplete fn page) s = .next s := by
  refine congrArg Outcome.next ?_
  simp only [hm]

end Moves

/-! ## Keys and windows (14 R355, R356) -/

section Slots

variable {n : Nat} {s : State}

theorem keyOf_execKeyErase (n : Nat) (s : State) : ∃ t, exec (.keyErase n) s = .next t ∧ t.mem = s.mem ∧
    ∀ k, keyOf k t = if k = n then eraseSlot (keyOf n s) else keyOf k s :=
  ⟨_, rfl, rfl, fun _ => Table.get_put ..⟩

theorem windowOf_modWindow (n k : Nat) (f : Window → Window) (s : State) :
    windowOf k (modWindow n f s) = if k = n then f (windowOf n s) else windowOf k s := Table.get_put ..

theorem execWindowDestroy_ends (hc : (windowOf n s).closing = true) (hp : windowPinned n s = false) :
    exec (.windowDestroy n) s = .next (modWindow n (fun v => { v with valid := false, closing := false }) s) :=
  congrArg Outcome.next (if_pos (by simp [hc, hp]))

theorem execWindowDestroy_waits (h : (windowOf n s).closing = false ∨ windowPinned n s = true) : exec (.windowDestroy n) s = .next s :=
  congrArg Outcome.next (if_neg (by rcases h with h | h <;> simp [h]))

end Slots

/-- Settles O50, clause by clause: what each of the hypervisor's operations does to the leaf, the page, the key or the window it names. -/
theorem translationEvents : Obligations.TranslationEvents := by
  intro s fn n page val
  refine ⟨⟨_, rfl, askTinv_tinv .., rfl⟩, fun h0 => ⟨_, congrArg Outcome.next (if_neg h0), askTinv_tinv .., rfl⟩, rfl, ⟨_, rfl, askTinv_tinv .., rfl⟩,
    ?settled, execTinvDone_waits, ?busy, ?word0, ?create, ?migreq, execMigrationEpoch_off, ?epoch, ?start, ?complete, execPageMigrationComplete_none,
    ?erase, ?destroy, execWindowDestroy_waits⟩
  case settled =>
    intro h hs
    exact ⟨_, execTinvDone_settled h hs, by rw [fnOf_modFn_same], fun k e => mem_dropTlb⟩
  case busy =>
    intro h create
    exact ⟨_, execStage2LeafWrite_busy h create, by rw [fnOf_modFn_same], rfl⟩
  case word0 =>
    intro hp hm ho
    obtain ⟨t, ht, hmem, hfns⟩ := execStage2LeafWrite_free (val := val) (create := false) hp hm ho
    refine ⟨t, ht, by rw [hmem, leNat_leafWrite], by rw [fnOf, hfns, ← fnOf], fun b hb => ?_⟩
    rw [hmem, Mem.read_writeBytes_out _ _ _ _ hb]
  case create =>
    intro hp hm ho
    obtain ⟨t, ht, hmem, hfns⟩ := execStage2LeafWrite_free (val := val) (create := true) hp hm ho
    refine ⟨t, ht, by rw [hmem, leNat_leafWrite], by rw [hmem, leNat_leafWrite_word1], by rw [fnOf, hfns, ← fnOf], fun b hb => ?_⟩
    rw [hmem, Mem.read_writeBytes_out _ _ _ _ hb]
  case migreq =>
    intro ia l hl
    refine ⟨fun fr hf => ?_, fun hf => ?_⟩
    · obtain ⟨t, ht, hc⟩ := execMigreq_moves hl hf
      obtain ⟨hmig, hframes, hmem⟩ := requested_keeps (fn := fn) (page := ia / l.size * l.size) (l := l) (lpddr := bitOf val.toNat 0) (fr := fr) (s := s)
      refine ⟨t, ht, (congrArg State.migrations hc).trans hmig, by rwa [hc.fnOf_eq], hc.mem_eq.trans hmem, fun hi hv => ?_, fun hi hv => ⟨fun ho hh => ?_, fun hh => ?_⟩⟩
        <;> rw [hc.fnOf_eq, requested_promoted ((bitOf_pageBase hl).trans hi), hv]
      · intro p hp
        simpa using (List.mem_filter.1 hp).2
      · rw [homeCapacity_iff.2 hh, ho]
        simp
      · rw [if_neg Bool.false_ne_true, if_neg]
        rw [Bool.and_eq_true, homeCapacity_iff]
        rintro ⟨ho, hhome⟩
        rcases hh with hh | hh
        · exact absurd (ho.symm.trans hh) nofun
        · exact hh hhome
    · obtain ⟨t, ht, hc⟩ := execMigreq_drops hl hf
      exact ⟨t, ht, by rw [hc.fnOf_eq, fnOf_modFn_same], (congrArg State.migrations hc :)⟩
  case epoch =>
    intro p c l fr h0 hon hd hp hc hl hsize ho hm hf
    exact execMigrationEpoch_promotes h0 hon hd hp hc hl hsize ho hm hf
  case start =>
    intro l hl
    refine ⟨fun hm hn ht => ?_, execPageMigrationStart_stays hl⟩
    exact ⟨_, execPageMigrationStart_moves hl hm hn ht, leafMov_writeMov .., rfl, fun k e he => startedMove_tlb he, fun b hb => read_writeMov _ _ _ hb⟩
  case complete =>
    intro m hm
    refine ⟨execPageMigrationComplete_waits hm, fun h hd hld hls => ?_⟩
    have hleaf : ∀ b, m.leaf ≤ b → b < m.leaf + 16 → (finishMove m s).mem.read b = (movedMem m s).read b := fun b _ _ => read_finishMove (by omega)
    refine ⟨_, execPageMigrationComplete_finishes hm h, finishMove_moves, fun b hb => ?_, ?_, ?_, fun ht => ⟨(finishMove_between ht).2, fun b hb => ?_⟩,
      fun ht => (finishMove_within ht).2⟩
    · rw [read_finishMove (by omega), read_movedMem (by omega), if_pos (by omega), Nat.add_sub_cancel_left]
    · rw [leafMov_eq, hleaf _ (by omega) (by omega), ← leafMov_eq, leafMov_movedMem]
    · rw [readBytes_congr fun b h1 h2 => hleaf b h1 (by omega), field_movedMem]
    · rw [(finishMove_between ht).1, Mem.read_dropRange, if_pos (by omega)]
  case erase =>
    obtain ⟨t, ht, hmem, hk⟩ := keyOf_execKeyErase n s
    have hn : keyOf n t = eraseSlot (keyOf n s) := (hk n).trans (if_pos rfl)
    exact ⟨t, ht, congrArg Key.key hn, congrArg Key.valid hn, congrArg Key.written hn, congrArg Key.epoch hn,
      fun m hm => (hk m).trans (if_neg hm), hmem⟩
  case destroy =>
    intro hc hp
    exact ⟨_, execWindowDestroy_ends hc hp, by rw [windowOf_modWindow, if_pos rfl], fun m hm => by rw [windowOf_modWindow, if_neg hm]⟩

end Sys2Proof.Machine

/-! # The flits of a port (16 R381 to R385, R387, R390, R392) -/

namespace Sys2Proof.Machine

open Host (Outcome)

/-! ## What the ports' work leaves alone -/

section Frame

variable {s t u : State} {n : Nat} {f : Flit} {γ : Type}

/-- `t` is `s` but for its dies, where the ports are, and what it has sent. -/
def PortsOnly (s t : State) : Prop := t = { s with dies := t.dies, sent := t.sent }

theorem PortsOnly.refl (s : State) : PortsOnly s s := rfl

theorem PortsOnly.trans (h : PortsOnly s t) (h' : PortsOnly t u) : PortsOnly s u := by
  unfold PortsOnly at *
  rw [h', h]

theorem PortsOnly.mem (h : PortsOnly s t) : t.mem = s.mem := (congrArg State.mem h :)

theorem PortsOnly.rinks (h : PortsOnly s t) : t.rinks = s.rinks := (congrArg State.rinks h :)

theorem PortsOnly.sites (h : PortsOnly s t) : t.sites = s.sites := (congrArg State.sites h :)

theorem PortsOnly.devid (h : PortsOnly s t) : t.devid = s.devid := (congrArg State.devid h :)

theorem PortsOnly.rtab (h : PortsOnly s t) : t.rtab = s.rtab := (congrArg State.rtab h :)

theorem portsOnly_modPort (n : Nat) (g : Port → Port) (s : State) : PortsOnly s (modPort n g s) := rfl

theorem portsOnly_foldl {α : Type} {g : State → α → State} (h : ∀ s a, PortsOnly s (g s a)) (l : List α) (s : State) : PortsOnly s (l.foldl g s) := by
  induction l generalizing s with
  | nil => rfl
  | cons a l ih => exact (h s a).trans (ih _)

theorem portsOnly_pumpPort (n : Nat) (s : State) : PortsOnly s (pumpPort n s) :=
  portsOnly_foldl (fun s _ => by split <;> rfl) _ s

theorem portsOnly_queueFlit (n : Nat) (f : Flit) (s : State) : PortsOnly s (queueFlit n f s) :=
  (portsOnly_modPort ..).trans (portsOnly_pumpPort ..)

theorem portsOnly_acceptFlit (n : Nat) (f : Flit) (s : State) : PortsOnly s (acceptFlit n f s) :=
  (portsOnly_modPort ..).trans (portsOnly_pumpPort ..)

@[simp] theorem portOf_modPort (n : Nat) (g : Port → Port) (s : State) : portOf n (modPort n g s) = g (portOf n s) := by
  simp [portOf, modPort]

@[simp] theorem portOf_send (n : Nat) (o : Out) (s : State) : portOf n (send o s) = portOf n s := rfl

theorem portOf_sendOut (n : Nat) (f : Flit) (s : State) : portOf n (sendOut n f s) =
    { portOf n s with
      waiting := (portOf n s).waiting.erase f
      buf := (portOf n s).buf ++ [sealFlit (portOf n s).nextSeq (portOf n s).lastGood f]
      nextSeq := (portOf n s).nextSeq + 1
      credit := if f.kind = 0 then (portOf n s).credit - 1 else (portOf n s).credit } := by
  simp [sendOut]

/-- What no flit that a port sends changes. -/
def SendKeeps (P : Port → γ) : Prop := ∀ p w b q c, P { p with waiting := w, buf := b, nextSeq := q, credit := c } = P p

theorem SendKeeps.pumpPort {P : Port → γ} (h : SendKeeps P) (n : Nat) (s : State) : P (portOf n (pumpPort n s)) = P (portOf n s) :=
  foldl_keeps (fun s => P (portOf n s)) (fun s _ => by
    split
    · rw [portOf_sendOut, h]
    · rfl) _ s

theorem SendKeeps.queueFlit {P : Port → γ} (h : SendKeeps P) (n : Nat) (f : Flit) (s : State) :
    P (portOf n (queueFlit n f s)) = P (portOf n s) := by
  rw [Machine.queueFlit, h.pumpPort, portOf_modPort]
  exact h (portOf n s) _ (portOf n s).buf (portOf n s).nextSeq (portOf n s).credit

end Frame

/-! ## What a port sends (16 R382, R384, R386) -/

section Sending

variable {s : State} {n : Nat} {f : Flit}

theorem pumpPort_empty (h : (portOf n s).waiting = []) : pumpPort n s = s := by simp [pumpPort, h]

theorem pumpPort_stuck (h : nextOut (portOf n s) = none) : pumpPort n s = s :=
  List.foldl_fixed' (fun _ => by rw [h]) _

theorem pumpPort_single (h : (portOf n s).waiting = [f]) (hn : nextOut (portOf n s) = some f) : pumpPort n s = sendOut n f s := by
  simp [pumpPort, h, hn]

/-- A flit alone in the queue goes out if the port may send it. -/
theorem nextOut_single {p : Port} (hw : p.waiting = [f]) (hb : p.buf.length < 128) : nextOut p = if maySend p f then some f else none := by
  unfold nextOut
  rw [if_neg (by omega), hw]
  cases hl : linkFlit f <;> cases hm : maySend p f <;> simp [hl, hm]

theorem nextOut_enqueued {p : Port} (hw : p.waiting = []) (hb : p.buf.length < 128) :
    nextOut { p with waiting := p.waiting ++ [f] } = if maySend p f then some f else none :=
  nextOut_single (by rw [hw]; rfl) hb

/-- A port after a flit that goes past its queue. -/
def sentPast (f : Flit) (p : Port) : Port :=
  { p with waiting := [], buf := p.buf ++ [sealFlit p.nextSeq p.lastGood f], nextSeq := p.nextSeq + 1 }

/-- A link flit that the port may send goes out at once from an empty queue. -/
theorem queueFlit_sends (hw : (portOf n s).waiting = []) (hb : (portOf n s).buf.length < 128) (hl : linkFlit f = true)
    (hm : maySend (portOf n s) f = true) :
    (queueFlit n f s).sent = s.sent ++ [.flit n (sealFlit (portOf n s).nextSeq (portOf n s).lastGood f)] ∧
    portOf n (queueFlit n f s) = sentPast f (portOf n s) := by
  have hout : queueFlit n f s = sendOut n f (modPort n (fun p => { p with waiting := p.waiting ++ [f] }) s) := by
    refine pumpPort_single (by rw [portOf_modPort, hw]; rfl) ?_
    rw [portOf_modPort, nextOut_enqueued hw hb, if_pos hm]
  have hk : f.kind ≠ 0 := fun h => by simp [linkFlit, h] at hl
  rw [hout, portOf_sendOut, portOf_modPort, if_neg hk]
  refine ⟨?_, by simp [sentPast, hw]⟩
  simp only [sendOut, portOf_modPort]
  rfl

/-- A link flit that the port may not send waits. -/
theorem queueFlit_waits (hw : (portOf n s).waiting = []) (hb : (portOf n s).buf.length < 128) (hm : maySend (portOf n s) f = false) :
    queueFlit n f s = modPort n (fun p => { p with waiting := p.waiting ++ [f] }) s := by
  refine pumpPort_stuck ?_
  rw [portOf_modPort, nextOut_enqueued hw hb, if_neg (by simp [hm])]

end Sending

/-! ## A flit's checks (16 R381, R382, R384) -/

section Receiving

variable {s u : State} {n : Nat} {f : Flit} {i : Instr}

/-- The port takes flits of this kind. -/
def PortUp (n : Nat) (f : Flit) (s : State) : Prop := if f.kind = 3 then aliveOn (portOf n s) = true else (portOf n s).st = 2

/-- The flit passes its CRC and comes in order. -/
def InOrder (n : Nat) (f : Flit) (s : State) : Prop := f.crc = crc64 (flitBytes f) ∧ f.seq = (portOf n s).lastGood + 1

/-- The port has taken the flit, and nothing of memory, rinks and cores differs. -/
def Taken (n : Nat) (f : Flit) (s u : State) : Prop :=
  (portOf n u).lastGood = f.seq ∧ u.mem = s.mem ∧ u.rinks = s.rinks ∧ u.sites = s.sites

/-- The port has taken the flit and granted the credit for it. -/
def Credited (n : Nat) (f : Flit) (s u : State) : Prop := Taken n f s u ∧ ∃ v, Taken n f s v ∧ u = queueFlit n (creditOf v) v

theorem portUp_of_st (h : (portOf n s).st = 2) : PortUp n f s := by
  unfold PortUp
  split
  · simp [aliveOn, h]
  · exact h

theorem aliveOn_of_portUp (h : PortUp n f s) : aliveOn (portOf n s) = true := by
  unfold PortUp at h
  split at h
  · exact h
  · simp [aliveOn, h]

theorem satAdd48_toNat (a k : Nat) : (BitVec.ofNat 48 (satAdd 48 a k)).toNat = satAdd 48 a k := by
  rw [BitVec.toNat_ofNat]
  refine Nat.mod_eq_of_lt ?_
  unfold satAdd
  split <;> omega

theorem portUp_iff : (if f.kind = 3 then aliveOn (portOf n s) else (portOf n s).st == 2) = true ↔ PortUp n f s := by
  unfold PortUp
  split
  · rfl
  · exact beq_iff_eq

theorem receiveFlit_down (h : ¬PortUp n f s) : receiveFlit n f s = (false, s) :=
  if_pos (by rw [Bool.not_eq_true', ← Bool.not_eq_true, portUp_iff]; exact h)

/-- The answer to a flit that fails its CRC or is out of order. -/
def refusedFlit (n : Nat) (s : State) : State :=
  send (.nak n (portOf n s).lastGood) (modPort n (fun p => { p with crcBad := .ofNat 48 (satAdd 48 p.crcBad.toNat 1) }) s)

theorem receiveFlit_bad (h : PortUp n f s) (ho : ¬InOrder n f s) : receiveFlit n f s = (false, refusedFlit n s) := by
  unfold receiveFlit
  rw [if_neg (by rw [portUp_iff.2 h]; simp), if_pos]
  · rfl
  · simp only [Bool.or_eq_true, bne_iff_ne]
    exact Decidable.not_and_iff_or_not.1 ho

theorem receiveFlit_good (h : PortUp n f s) (ho : InOrder n f s) : receiveFlit n f s = (true, acceptFlit n f s) := by
  obtain ⟨hcrc, hseq⟩ := ho
  unfold receiveFlit
  rw [if_neg (by rw [portUp_iff.2 h]; simp), hcrc, hseq, bne_self_eq_false, bne_self_eq_false]
  rfl

/-- A flit that does not go on changes its port alone. -/
theorem discarded (hi : (receiveFlit n f s).1 = false → exec i s = .next (receiveFlit n f s).2) :
    (¬PortUp n f s → exec i s = .next s) ∧
    (PortUp n f s → ¬InOrder n f s → ∃ t, exec i s = .next t ∧ t.sent = s.sent ++ [.nak n (portOf n s).lastGood] ∧
      (portOf n t).lastGood = (portOf n s).lastGood ∧ (portOf n t).crcBad.toNat = satAdd 48 (portOf n s).crcBad.toNat 1 ∧
      t.mem = s.mem ∧ t.rinks = s.rinks) := by
  refine ⟨fun h => ?_, fun h ho => ⟨refusedFlit n s, ?_, rfl, ?_, ?_, rfl, rfl⟩⟩
  · rw [hi (by rw [receiveFlit_down h]), receiveFlit_down h]
  · rw [hi (by rw [receiveFlit_bad h ho]), receiveFlit_bad h ho]
  · rw [refusedFlit, portOf_send, portOf_modPort]
  · rw [refusedFlit, portOf_send, portOf_modPort, satAdd48_toNat]

theorem execDataFlit_discards (h : (receiveFlit n f s).1 = false) : exec (.dataFlit n f) s = .next (receiveFlit n f s).2 := by
  show execDataFlit n f s = _
  unfold execDataFlit
  split <;> simp_all

theorem execRefusalFlit_discards (h : (receiveFlit n f s).1 = false) : exec (.refusalFlit n f) s = .next (receiveFlit n f s).2 := by
  show execRefusalFlit n f s = _
  unfold execRefusalFlit
  split <;> simp_all

theorem execCreditFlit_discards (h : (receiveFlit n f s).1 = false) : exec (.creditFlit ⟨n, f⟩) s = .next (receiveFlit n f s).2 := by
  show execCreditFlit ⟨n, f⟩ s = _
  unfold execCreditFlit
  split <;> simp_all

theorem execKeepAliveFlit_discards (h : (receiveFlit n f s).1 = false) : exec (.keepAliveFlit ⟨n, f⟩) s = .next (receiveFlit n f s).2 := by
  show execKeepAliveFlit ⟨n, f⟩ s = _
  unfold execKeepAliveFlit
  split <;> simp_all

end Receiving

/-! ## Flits that go on (16 R381, R385, R387, R390) -/

section Accepting

variable {s t u : State} {n r o : Nat} {f : Flit}

/-- What the retry buffer holds after the flit with a sequence number; all of it where no flit has that number. -/
def bufAfter (seq : BitVec 16) (l : List Flit) : List Flit :=
  match l.findIdx? (·.seq == seq) with
  | some i => l.drop (i + 1)
  | none => l

theorem bufAfter_missing {seq : BitVec 16} {l : List Flit} (h : ∀ z ∈ l, z.seq ≠ seq) : bufAfter seq l = l := by
  have hn : l.findIdx? (·.seq == seq) = none := by simpa [List.findIdx?_eq_none_iff] using h
  rw [bufAfter, hn]

theorem bufAfter_found {seq : BitVec 16} {pre rest : List Flit} {g : Flit} (hg : g.seq = seq) (h : ∀ z ∈ pre, z.seq ≠ seq) :
    bufAfter seq (pre ++ g :: rest) = rest := by
  have hn : pre.findIdx? (·.seq == seq) = none := by simpa [List.findIdx?_eq_none_iff] using h
  have hi : (pre ++ g :: rest).findIdx? (·.seq == seq) = some pre.length := by
    simp [List.findIdx?_append, hn, List.findIdx?_cons, hg]
  rw [bufAfter, hi]
  simp

/-- A port that has taken a flit, before it sends what waits. -/
def tookFlit (f : Flit) (p : Port) : Port := { p with lastGood := f.seq, buf := bufAfter f.ack p.buf }

theorem acceptFlit_eq (n : Nat) (f : Flit) (s : State) : acceptFlit n f s = pumpPort n (modPort n (tookFlit f) s) := rfl

theorem taken_acceptFlit (n : Nat) (f : Flit) (s : State) : Taken n f s (acceptFlit n f s) := by
  have hports := portsOnly_acceptFlit n f s
  have hkeep : SendKeeps (·.lastGood) := fun _ _ _ _ _ => rfl
  refine ⟨?_, hports.mem, hports.rinks, hports.sites⟩
  rw [acceptFlit_eq, hkeep.pumpPort, portOf_modPort]
  rfl

theorem Taken.queueFlit (h : Taken n f s u) (g : Flit) : Taken n f s (queueFlit n g u) := by
  obtain ⟨hseq, hmem, hrinks, hsites⟩ := h
  have hports := portsOnly_queueFlit n g u
  have hkeep : SendKeeps (·.lastGood) := fun _ _ _ _ _ => rfl
  exact ⟨(hkeep.queueFlit n g u).trans hseq, hports.mem.trans hmem, hports.rinks.trans hrinks, hports.sites.trans hsites⟩

theorem Taken.credited (h : Taken n f s u) : Credited n f s (grantCredit (some n) u) := ⟨h.queueFlit _, u, h, rfl⟩

theorem portsOnly_grantCredit (n : Nat) (s : State) : PortsOnly s (grantCredit (some n) s) := portsOnly_queueFlit ..

theorem forMe_iff : forMe f s = true ↔ s.devid.v = true ∧ s.devid.id.toNat = f.dst := by simp [forMe]

theorem PortsOnly.rinkOfFid (h : PortsOnly s t) (fid : Nat) : rinkOfFid fid t = rinkOfFid fid s := (congrArg (Machine.rinkOfFid fid) h :)

theorem PortsOnly.routeTo (h : PortsOnly s t) (d : Nat) : routeTo d t = routeTo d s := (congrArg (Machine.routeTo d) h :)

theorem PortsOnly.refusalOf (h : PortsOnly s t) (f : Flit) (status : Nat) : refusalOf f status t = refusalOf f status s :=
  (congrArg (Machine.refusalOf f status) h :)

theorem reservedKind_ordinary (h : f.kind < 4) : reservedKind n f s = none := if_neg (by omega)

theorem reservedKind_reserved (h : 4 ≤ f.kind) : reservedKind n f s =
    some (modPort n (fun p => { p with badKind := .ofNat 48 (satAdd 48 p.badKind.toNat 1) }) s) := if_pos h

theorem execDataFlit_goes (hu : PortUp n f s) (ho : InOrder n f s) (hk : f.kind < 4) : exec (.dataFlit n f) s =
    .next (if forMe f s then deliverFlit n f (acceptFlit n f s) else forwardFlit f (grantCredit (some n) (acceptFlit n f s))) := by
  show execDataFlit n f s = _
  rw [execDataFlit, receiveFlit_good hu ho]
  dsimp only
  rw [reservedKind_ordinary hk]

theorem execRefusalFlit_forwards (hu : PortUp n f s) (ho : InOrder n f s) (hk : f.kind < 4) (hm : forMe f s = false) :
    exec (.refusalFlit n f) s = .next (forwardFlit f (acceptFlit n f s)) := by
  show execRefusalFlit n f s = _
  rw [execRefusalFlit, receiveFlit_good hu ho]
  dsimp only
  rw [reservedKind_ordinary hk, hm]
  rfl

theorem execRefusalFlit_ends (hu : PortUp n f s) (ho : InOrder n f s) (hk : f.kind < 4) (hm : forMe f s = true)
    (hr : rinkOfFid f.fid s = some r) : exec (.refusalFlit n f) s = .next (refusedOp r f (acceptFlit n f s)) := by
  show execRefusalFlit n f s = _
  rw [execRefusalFlit, receiveFlit_good hu ho]
  dsimp only
  rw [reservedKind_ordinary hk, hm, hr]
  rfl

/-- The port that counts a flit of a reserved kind. -/
def countedKind (n : Nat) (f : Flit) (s : State) : State :=
  modPort n (fun p => { p with badKind := .ofNat 48 (satAdd 48 p.badKind.toNat 1) }) (acceptFlit n f s)

theorem execDataFlit_reserved (hu : PortUp n f s) (ho : InOrder n f s) (hk : 4 ≤ f.kind) :
    exec (.dataFlit n f) s = .next (countedKind n f s) := by
  show execDataFlit n f s = _
  rw [execDataFlit, receiveFlit_good hu ho]
  dsimp only
  rw [reservedKind_reserved hk]
  rfl

theorem execRefusalFlit_reserved (hu : PortUp n f s) (ho : InOrder n f s) (hk : 4 ≤ f.kind) :
    exec (.refusalFlit n f) s = .next (countedKind n f s) := by
  show execRefusalFlit n f s = _
  rw [execRefusalFlit, receiveFlit_good hu ho]
  dsimp only
  rw [reservedKind_reserved hk]
  rfl

theorem countedKind_taken (n : Nat) (f : Flit) (s : State) : Taken n f s (countedKind n f s) ∧
    (portOf n (countedKind n f s)).badKind.toNat = satAdd 48 (portOf n s).badKind.toNat 1 := by
  obtain ⟨hseq, hmem, hrinks, hsites⟩ := taken_acceptFlit n f s
  have hkeep : SendKeeps (·.badKind) := fun _ _ _ _ _ => rfl
  have hbad : (portOf n (acceptFlit n f s)).badKind = (portOf n s).badKind := by
    rw [acceptFlit_eq, hkeep.pumpPort, portOf_modPort]
    rfl
  refine ⟨⟨?_, hmem, hrinks, hsites⟩, ?_⟩
  · rw [countedKind, portOf_modPort]
    exact hseq
  · rw [countedKind, portOf_modPort, satAdd48_toNat, hbad]

theorem deliverFlit_unknown (h : rinkOfFid f.fid s = none) :
    deliverFlit n f s = sendToward (refusalOf f 4 (grantCredit (some n) s)) (grantCredit (some n) s) := by
  rw [deliverFlit, h, (portsOnly_grantCredit n s).refusalOf]

theorem forwardFlit_routed (h : routeTo f.dst s = some o) : forwardFlit f s = queueFlit o f s := by rw [forwardFlit, h]

theorem forwardFlit_unrouted (h : routeTo f.dst s = none) : forwardFlit f s = sendToward (refusalOf f 1 s) s := by rw [forwardFlit, h]

/-- The contribution that one flit carries whole. -/
def wholeFlit (r : Nat) (f : Flit) (op size : Nat) : Contribution := ⟨r, f.src, f.cnum, f.word, f.rank, op, size, f.payload⟩

/-- A flit that starts a contribution replaces what stood there. -/
theorem addPart_find (h0 : f.offset = 0) (c : Coll) : (addPart f c).parts.find? (fun p => p.src == f.src && p.rank == f.rank && p.word == f.word) =
    some ⟨f.src, f.word, f.rank, f.payload⟩ := by
  have hold : (c.parts.filter fun p => !(p.src == f.src && p.rank == f.rank && p.word == f.word)).find?
      (fun p => p.src == f.src && p.rank == f.rank && p.word == f.word) = none := by
    rw [List.find?_eq_none]
    intro p hp
    exact ne_true_of_eq_false ((Bool.not_eq_true' _).mp (List.mem_filter.1 hp).2)
  simp only [addPart, if_pos h0, List.nil_append]
  rw [List.find?_append, hold]
  simp

theorem finishedPart_whole (h0 : f.offset = 0) (hw : f.word ≠ 4) (hp : f.payload.length = f.bytes + 1) (c : Coll) :
    finishedPart r f (addPart f c) = some (wholeFlit r f 0 0) := by
  rw [finishedPart, addPart_find h0, if_neg hw]
  exact if_pos hp

/-- The terms of a group word are free values; those of the others are zero. -/
theorem withTerms_eq (c : Contribution) (s : State) : ∃ op size u, withTerms c s = ({ c with op := op, size := size }, u) ∧
    (c.word < 2 → op = c.op ∧ size = c.size) ∧ u = { s with fresh := u.fresh } := by
  unfold withTerms
  split
  · exact ⟨_, _, _, rfl, fun _ => ⟨rfl, rfl⟩, rfl⟩
  · next h => exact ⟨_, _, _, rfl, fun h' => absurd h' h, rfl⟩

theorem deliverFlit_whole (hr : rinkOfFid f.fid s = some r) (h0 : f.offset = 0) (hw : f.word ≠ 4) (hp : f.payload.length = f.bytes + 1) :
    ∃ u op size, deliverFlit n f s = comeWhole (some n) (wholeFlit r f op size) u ∧ (f.word < 2 → op = 0 ∧ size = 0) ∧
      u = { s with rinks := u.rinks, fresh := u.fresh } := by
  obtain ⟨op, size, u, hterms, hzero, hu⟩ := withTerms_eq (wholeFlit r f 0 0) (modColl r f.cnum (dropPart f) (modColl r f.cnum (addPart f) s))
  refine ⟨u, op, size, ?_, hzero, ?_⟩
  · rw [deliverFlit, hr]
    dsimp only
    rw [collAt_modColl, finishedPart_whole h0 hw hp]
    dsimp only
    rw [hterms]
    rfl
  · rw [hu]
    rfl

theorem Taken.fresh (h : Taken n f s t) (hu : u = { t with rinks := u.rinks, fresh := u.fresh }) : Taken n f s { u with rinks := s.rinks } := by
  obtain ⟨hseq, hmem, -, hsites⟩ := h
  rw [hu]
  exact ⟨hseq, hmem, rfl, hsites⟩

end Accepting

/-! ## Replays (16 R382, R384) -/

section Replays

variable {s : State} {n : Nat} {fs : List Flit} {γ : Type}

/-- The flits of a replay that the port may send. -/
def resent (p : Port) (fs : List Flit) : List Flit := fs.filter fun z => if z.kind = 3 then aliveOn p else p.st == 2

/-- BLRETRY after a replay. -/
def retryAfter (p : Port) (fs : List Flit) : Nat := if resent p fs = [] then p.retry.toNat else satAdd 48 p.retry.toNat 1

theorem foldl_sendFlits (n : Nat) (fs : List Flit) (s : State) :
    fs.foldl (fun s f => send (.flit n f) s) s = { s with sent := s.sent ++ fs.map (Out.flit n) } := by
  induction fs generalizing s with
  | nil => simp
  | cons f fs ih =>
    rw [List.foldl_cons, ih]
    simp [send]

theorem replay_nothing (h : resent (portOf n s) fs = []) : replay n fs s = s := if_pos (List.isEmpty_iff.2 h)

theorem replay_something (h : resent (portOf n s) fs ≠ []) : replay n fs s =
    (resent (portOf n s) fs).foldl (fun s f => send (.flit n f) s)
      (modPort n (fun p => { p with retry := .ofNat 48 (satAdd 48 p.retry.toNat 1) }) s) :=
  if_neg (mt List.isEmpty_iff.1 h)

theorem replay_sent (n : Nat) (fs : List Flit) (s : State) : (replay n fs s).sent = s.sent ++ (resent (portOf n s) fs).map (Out.flit n) := by
  by_cases h : resent (portOf n s) fs = []
  · rw [replay_nothing h, h]
    simp
  · rw [replay_something h, foldl_sendFlits]
    rfl

theorem portsOnly_replay (n : Nat) (fs : List Flit) (s : State) : PortsOnly s (replay n fs s) := by
  by_cases h : resent (portOf n s) fs = []
  · rw [replay_nothing h]
    exact .refl s
  · rw [replay_something h, foldl_sendFlits]
    rfl

/-- A replay changes BLRETRY of its port and nothing else of it. -/
theorem portOf_replay (n : Nat) (fs : List Flit) (s : State) :
    portOf n (replay n fs s) = { portOf n s with retry := .ofNat 48 (retryAfter (portOf n s) fs) } := by
  unfold retryAfter
  by_cases h : resent (portOf n s) fs = []
  · rw [replay_nothing h, if_pos h, BitVec.ofNat_toNat, BitVec.setWidth_eq]
  · rw [replay_something h, foldl_sendFlits, if_neg h]
    exact portOf_modPort n (fun p => { p with retry := .ofNat 48 (satAdd 48 p.retry.toNat 1) }) s

theorem retryAfter_toNat (p : Port) (fs : List Flit) : (BitVec.ofNat 48 (retryAfter p fs)).toNat = retryAfter p fs := by
  unfold retryAfter
  split
  · rw [BitVec.ofNat_toNat, BitVec.setWidth_eq]
  · exact satAdd48_toNat ..

theorem execNegativeAcknowledge_replays (n : Nat) (good : BitVec 16) (s : State) :
    exec (.negativeAcknowledge n good) s = .next (replay n (bufAfter good (portOf n s).buf) s) := rfl

theorem negativeAcknowledge_replays {good : BitVec 16} (h : bufAfter good (portOf n s).buf = fs) : ∃ t, exec (.negativeAcknowledge n good) s = .next t ∧
    t.sent = s.sent ++ (resent (portOf n s) fs).map (Out.flit n) ∧ (portOf n t).buf = (portOf n s).buf ∧
    (portOf n t).retry.toNat = retryAfter (portOf n s) fs ∧ t.mem = s.mem := by
  subst h
  exact ⟨_, execNegativeAcknowledge_replays .., replay_sent .., by rw [portOf_replay], by rw [portOf_replay, retryAfter_toNat],
    (portsOnly_replay ..).mem⟩

end Replays

/-! ## A port that goes down, and one that comes up (16 R383, R384) -/

section Training

variable {s : State} {n r c : Nat} {o : CollOp}

/-- An operation some of whose flits are gone. -/
def markLost (gone : List Flit) (s : State) (r n : Nat) (o : CollOp) : CollOp := if gone.any (flitOf r n o s) then { o with lost := true } else o

def markColl (gone : List Flit) (s : State) (r n : Nat) (v : Coll) : Coll :=
  { v with op := v.op.map (markLost gone s r n), others := v.others.map (markLost gone s r n) }

def markRink (gone : List Flit) (s : State) (r : Nat) (q : Rink) : Rink := { q with colls := q.colls.mapVals (markColl gone s r) }

theorem loseFlits_some (h : (portOf n s).waiting ++ (portOf n s).buf ≠ []) :
    loseFlits n s = { s with rinks := s.rinks.mapVals (markRink ((portOf n s).waiting ++ (portOf n s).buf) s) } :=
  if_neg (mt List.isEmpty_iff.1 h)

theorem portOf_loseFlits (n m : Nat) (s : State) : portOf m (loseFlits n s) = portOf m s := by
  unfold loseFlits
  dsimp only
  split <;> rfl

/-- An operation one of whose flits a lost port held is marked. -/
theorem loseFlits_marks (ho : (collAt r c s).op = some o) (hg : ∃ g ∈ (portOf n s).waiting ++ (portOf n s).buf, flitOf r c o s g = true) :
    (collAt r c (loseFlits n s)).op = some { o with lost := true } := by
  obtain ⟨g, hg, hf⟩ := hg
  have hrink : rink r (loseFlits n s) = markRink ((portOf n s).waiting ++ (portOf n s).buf) s r (rink r s) := by
    rw [loseFlits_some (List.ne_nil_of_mem hg)]
    exact rink_mapVals rfl rfl
  have hcoll : collAt r c (loseFlits n s) = markColl ((portOf n s).waiting ++ (portOf n s).buf) s r c (collAt r c s) := by
    rw [collAt, hrink]
    exact Table.get_mapVals _ rfl
  rw [hcoll, markColl, ho, Option.map_some, markLost, if_pos (List.any_eq_true.2 ⟨g, hg, hf⟩)]

theorem portOf_takeDown (n : Nat) (s : State) : portOf n (takeDown n s) = downPort (portOf n s) := by
  rw [takeDown, portOf_modPort, portOf_loseFlits]

theorem takeDown_marks (ho : (collAt r c s).op = some o) (hg : ∃ g ∈ (portOf n s).waiting ++ (portOf n s).buf, flitOf r c o s g = true) :
    ∃ v, (collAt r c (takeDown n s)).op = some v ∧ v.lost = true :=
  ⟨_, loseFlits_marks ho hg, rfl⟩

theorem execLaneFailure_off (h : (portOf n s).st = 0) : exec (.laneFailure n) s = .next s := congrArg Outcome.next (if_pos h)

theorem execLaneFailure_second (h : (portOf n s).st ≠ 0) (hl : (portOf n s).lanes = 7) : exec (.laneFailure n) s = .next (takeDown n s) :=
  congrArg Outcome.next ((if_neg h).trans (if_pos hl))

theorem execLaneFailure_first (h : (portOf n s).st ≠ 0) (hl : (portOf n s).lanes ≠ 7) :
    exec (.laneFailure n) s = .next (modPort n (fun p => { p with lanes := 7, st := 1 }) s) :=
  congrArg Outcome.next ((if_neg h).trans (if_neg hl))

theorem execRetrainTimeout_training (h : (portOf n s).st = 1) : exec (.retrainTimeout n) s = .next (takeDown n s) :=
  congrArg Outcome.next (if_pos h)

/-- A port whose training has ended. -/
def trainedPort (st : BitVec 4) (p : Port) : Port := { p with st := st, lanes := if p.lanes = 0 then 8 else p.lanes }

theorem execRetrainComplete_retention (h : (portOf n s).st = 1) (hr : s.power.st = .retention) :
    exec (.retrainComplete n) s = .next (queueFlit n (aliveFlit s) (modPort n (trainedPort 3) s)) :=
  (if_neg (not_not_intro h)).trans (congrArg Outcome.next (if_pos hr))

theorem execRetrainComplete_run (h : (portOf n s).st = 1) (hr : s.power.st ≠ .retention) :
    exec (.retrainComplete n) s = .next (comeUp n (modPort n (trainedPort 2) s)) :=
  (if_neg (not_not_intro h)).trans (congrArg Outcome.next (if_neg hr))

/-- The port's state and its lanes, which no flit changes. -/
theorem sendKeeps_training : SendKeeps fun p => (p.st, p.lanes) := fun _ _ _ _ _ => rfl

theorem comeUp_training (n : Nat) (s : State) : ((portOf n (comeUp n s)).st, (portOf n (comeUp n s)).lanes) = ((portOf n s).st, (portOf n s).lanes) := by
  unfold comeUp
  dsimp only
  rw [sendKeeps_training.pumpPort]
  split
  · rw [portOf_replay]
  · rw [sendKeeps_training.queueFlit, portOf_modPort, portOf_replay]

theorem comeUp_granted (hg : (portOf n s).granted = true) (hw : (portOf n s).waiting = []) : comeUp n s = replay n (portOf n s).buf s := by
  unfold comeUp
  dsimp only
  rw [if_pos hg]
  exact pumpPort_empty (by rw [portOf_replay]; exact hw)

/-- The first training ends with the credit for the other end. -/
theorem comeUp_grants (hst : (portOf n s).st = 2) (hg : (portOf n s).granted = false) (hw : (portOf n s).waiting = [])
    (hb : (portOf n s).buf.length < 128) :
    let z := sealFlit (portOf n s).nextSeq (portOf n s).lastGood (creditOf s)
    (comeUp n s).sent = s.sent ++ (resent (portOf n s) (portOf n s).buf).map (Out.flit n) ++ [.flit n z] ∧
    portOf n (comeUp n s) = sentPast (creditOf s) { portOf n s with retry := .ofNat 48 (retryAfter (portOf n s) (portOf n s).buf), granted := true } := by
  have hport : portOf n (modPort n (fun p => { p with granted := true }) (replay n (portOf n s).buf s)) =
      { portOf n s with retry := .ofNat 48 (retryAfter (portOf n s) (portOf n s).buf), granted := true } := by rw [portOf_modPort, portOf_replay]
  obtain ⟨hsent, hp⟩ := queueFlit_sends (f := creditOf s) (by rw [hport]; exact hw) (by rw [hport]; exact hb) rfl
    (by rw [hport]; simp [maySend, creditOf, hst])
  rw [hport] at hsent hp
  have hup : comeUp n s = queueFlit n (creditOf s) (modPort n (fun p => { p with granted := true }) (replay n (portOf n s).buf s)) := by
    unfold comeUp
    dsimp only
    rw [hg, if_neg Bool.false_ne_true]
    exact pumpPort_empty (by rw [hp]; rfl)
  rw [hup]
  refine ⟨hsent.trans ?_, hp⟩
  rw [← replay_sent]
  rfl

end Training

/-! ## Credits and keep-alive flits (16 R384, R392) -/

section Credits

variable {s : State} {n : Nat} {f g : Flit}

theorem acceptFlit_idle (h : (portOf n s).waiting = []) : acceptFlit n f s = modPort n (tookFlit f) s :=
  pumpPort_empty (by rw [portOf_modPort]; exact h)

theorem maySend_data {p : Port} (h : f.kind = 0) : maySend p f = (p.st == 2 && decide (0 < p.credit)) := by simp [maySend, h]

/-- A port that has gained a credit. -/
def moreCredit (p : Port) : Port := { p with credit := p.credit + 1 }

theorem execCreditFlit_gains (hu : PortUp n f s) (ho : InOrder n f s) :
    exec (.creditFlit ⟨n, f⟩) s = .next (pumpPort n (modPort n moreCredit (acceptFlit n f s))) := by
  show execCreditFlit ⟨n, f⟩ s = _
  rw [execCreditFlit, receiveFlit_good hu ho]
  rfl

/-- A credit that no flit waits for is kept. -/
theorem gainCredit_idle (h : (portOf n s).waiting = []) :
    pumpPort n (modPort n moreCredit (acceptFlit n f s)) = modPort n moreCredit (modPort n (tookFlit f) s) := by
  rw [acceptFlit_idle h]
  exact pumpPort_empty (by simp only [portOf_modPort]; exact h)

/-- A credit sends the data flit that waits for it. -/
theorem gainCredit_sends (hst : (portOf n s).st = 2) (hw : (portOf n s).waiting = [g]) (hk : g.kind = 0) (hb : (portOf n s).buf.length < 128)
    (hc : (portOf n s).credit = 0) (hack : ∀ z ∈ (portOf n s).buf, z.seq ≠ f.ack) :
    pumpPort n (modPort n moreCredit (acceptFlit n f s)) = sendOut n g (modPort n moreCredit (modPort n (tookFlit f) s)) := by
  have hbuf : (tookFlit f (portOf n s)).buf.length < 128 := by rwa [tookFlit, bufAfter_missing hack]
  have hstuck : acceptFlit n f s = modPort n (tookFlit f) s := by
    rw [acceptFlit_eq]
    refine pumpPort_stuck ?_
    rw [portOf_modPort, nextOut_single (p := tookFlit f (portOf n s)) hw hbuf, maySend_data hk, if_neg]
    simp [tookFlit, hc]
  rw [hstuck]
  refine pumpPort_single (by simp only [portOf_modPort]; exact hw) ?_
  simp only [portOf_modPort]
  rw [nextOut_single (p := moreCredit (tookFlit f (portOf n s))) hw hbuf, maySend_data hk, if_pos]
  simp [tookFlit, moreCredit, hst]

theorem sealFlit_crc (seq ack : BitVec 16) (f : Flit) : (sealFlit seq ack f).crc = crc64 (flitBytes (sealFlit seq ack f)) := by
  simp only [sealFlit, flitBytes]

theorem maySend_alive {p : Port} (h : f.kind = 3) : maySend p f = aliveOn p := if_pos h

theorem execKeepAliveFlit_answers (hu : PortUp n f s) (ho : InOrder n f s) :
    exec (.keepAliveFlit ⟨n, f⟩) s = .next (queueFlit n (aliveFlit (acceptFlit n f s)) (acceptFlit n f s)) := by
  show execKeepAliveFlit ⟨n, f⟩ s = _
  rw [execKeepAliveFlit, receiveFlit_good hu ho]

/-- The answer of an idle port to a flit it has taken. -/
theorem answerAlive_sends (ha : aliveOn (portOf n s) = true) (hw : (portOf n s).waiting = []) (hb : (portOf n s).buf = []) :
    let t := queueFlit n (aliveFlit (acceptFlit n f s)) (acceptFlit n f s)
    let z := sealFlit (portOf n s).nextSeq f.seq (aliveFlit (acceptFlit n f s))
    t.sent = s.sent ++ [.flit n z] ∧ (portOf n t).buf = [z] ∧ (portOf n t).credit = (portOf n s).credit := by
  have hport : portOf n (acceptFlit n f s) = tookFlit f (portOf n s) := by rw [acceptFlit_idle hw, portOf_modPort]
  have hbuf : (tookFlit f (portOf n s)).buf = [] := by rw [tookFlit, hb]; rfl
  obtain ⟨hsent, hp⟩ := queueFlit_sends (f := aliveFlit (acceptFlit n f s)) (by rw [hport]; exact hw) (by rw [hport, hbuf]; decide) rfl
    (by rw [hport, maySend_alive rfl]; exact ha)
  rw [hport] at hsent hp
  refine ⟨hsent.trans ?_, ?_, by rw [hp]; rfl⟩
  · rw [acceptFlit_idle hw]
    rfl
  · rw [hp, sentPast, hbuf]
    rfl

end Credits

/-! ## A contribution that has come whole (16 R390, R392) -/

section Whole

variable {s : State} {n a : Nat} {x : Contribution}

theorem comeWhole_port_waits (hl : landingVa x 0 x.data.length s = some a)
    (hw : (collAt x.rink x.cnum s).stalled ≠ [] ∨ landingMoves x.rink a x.data.length s = true) :
    comeWhole (some n) x s = stall x.rink x.cnum ⟨some n, some x, a, x.data.length⟩ s := by
  have h : (!(collAt x.rink x.cnum s).stalled.isEmpty || landingMoves x.rink a x.data.length s) = true := by
    rcases hw with hw | hw <;> simp [hw]
  rw [comeWhole, hl, Option.bind_some, waitsFor, if_pos h]

theorem comeWhole_port_lands (hl : landingVa x 0 x.data.length s = some a)
    (hw : ¬((collAt x.rink x.cnum s).stalled ≠ [] ∨ landingMoves x.rink a x.data.length s = true)) :
    comeWhole (some n) x s = settleArrival x (queueFlit n (creditOf s) s) := by
  have h : ¬(!(collAt x.rink x.cnum s).stalled.isEmpty || landingMoves x.rink a x.data.length s) = true := by simpa using hw
  rw [comeWhole, hl, Option.bind_some, waitsFor, if_neg h]
  rfl

end Whole

/-! ## The obligation -/

section Clauses

variable {s : State} {n : Nat} {f : Flit}

/-- A data flit that goes on is delivered, forwarded or refused. -/
theorem dataFlit_goes (hst : (portOf n s).st = 2) (ho : InOrder n f s) (hk : f.kind < 4) :
    let mine : Prop := s.devid.v = true ∧ s.devid.id.toNat = f.dst
    (mine → rinkOfFid f.fid s = none → ∃ u, exec (.dataFlit n f) s = .next (sendToward (refusalOf f 4 u) u) ∧ Credited n f s u) ∧
    (∀ r, mine → rinkOfFid f.fid s = some r → f.offset = 0 → f.word ≠ 4 → f.payload.length = f.bytes + 1 →
      ∃ u op size, Taken n f s { u with rinks := s.rinks } ∧ (f.word < 2 → op = 0 ∧ size = 0) ∧
        exec (.dataFlit n f) s = .next (comeWhole (some n) ⟨r, f.src, f.cnum, f.word, f.rank, op, size, f.payload⟩ u)) ∧
    (∀ o, ¬mine → routeTo f.dst s = some o → ∃ u, exec (.dataFlit n f) s = .next (queueFlit o f u) ∧ Credited n f s u) ∧
    (¬mine → routeTo f.dst s = none → ∃ u, exec (.dataFlit n f) s = .next (sendToward (refusalOf f 1 u) u) ∧ Credited n f s u) := by
  intro mine
  have hports := portsOnly_acceptFlit n f s
  have hgoes := execDataFlit_goes (portUp_of_st hst) ho hk
  have hcredit := hports.trans (portsOnly_grantCredit n (acceptFlit n f s))
  have hfor : mine → exec (.dataFlit n f) s = .next (deliverFlit n f (acceptFlit n f s)) := fun h => by rw [hgoes, if_pos (forMe_iff.2 h)]
  have haway : ¬mine → exec (.dataFlit n f) s = .next (forwardFlit f (grantCredit (some n) (acceptFlit n f s))) := fun h => by
    rw [hgoes, if_neg (mt forMe_iff.1 h)]
  refine ⟨fun hm hr => ?_, fun r hm hr h0 hw hp => ?_, fun o hm hr => ?_, fun hm hr => ?_⟩
  · refine ⟨_, ?_, (taken_acceptFlit n f s).credited⟩
    rw [hfor hm, deliverFlit_unknown ((hports.rinkOfFid _).trans hr)]
  · obtain ⟨u, op, size, hd, hzero, hu⟩ := deliverFlit_whole (n := n) ((hports.rinkOfFid _).trans hr) h0 hw hp
    exact ⟨u, op, size, (taken_acceptFlit n f s).fresh hu, hzero, (hfor hm).trans (congrArg Outcome.next hd)⟩
  · refine ⟨_, ?_, (taken_acceptFlit n f s).credited⟩
    rw [haway hm, forwardFlit_routed ((hcredit.routeTo _).trans hr)]
  · refine ⟨_, ?_, (taken_acceptFlit n f s).credited⟩
    rw [haway hm, forwardFlit_unrouted ((hcredit.routeTo _).trans hr)]

theorem creditFlit_goes (hst : (portOf n s).st = 2) (ho : InOrder n f s) :
    let p := portOf n s
    ∃ t, exec (.creditFlit ⟨n, f⟩) s = .next t ∧
      (p.waiting = [] → (portOf n t).credit = p.credit + 1 ∧ t.sent = s.sent ∧ Taken n f s t ∧
        ((∀ z ∈ p.buf, z.seq ≠ f.ack) → (portOf n t).buf = p.buf) ∧
        ∀ pre g rest, p.buf = pre ++ g :: rest → g.seq = f.ack → (∀ z ∈ pre, z.seq ≠ f.ack) → (portOf n t).buf = rest) ∧
      (∀ g, p.waiting = [g] → g.kind = 0 → p.buf.length < 128 → p.credit = 0 → (∀ z ∈ p.buf, z.seq ≠ f.ack) →
        ∃ z, t.sent = s.sent ++ [.flit n z] ∧ (portOf n t).waiting = [] ∧ (portOf n t).buf = p.buf ++ [z] ∧ (portOf n t).credit = 0 ∧
          (z.seq = p.nextSeq ∧ z.crc = crc64 (flitBytes z)) ∧ z.ack = f.seq ∧ z.payload = g.payload) := by
  intro p
  refine ⟨_, execCreditFlit_gains (portUp_of_st hst) ho, fun hw => ?_, fun g hw hk hb hc hack => ?_⟩
  · have hbuf : (portOf n (modPort n moreCredit (modPort n (tookFlit f) s))).buf = bufAfter f.ack p.buf := by
      rw [portOf_modPort, portOf_modPort]
      rfl
    rw [gainCredit_idle hw]
    refine ⟨?_, rfl, ⟨?_, rfl, rfl, rfl⟩, fun h => hbuf.trans (bufAfter_missing h), fun pre g rest he hg hpre => ?_⟩
    · rw [portOf_modPort, portOf_modPort]
      rfl
    · rw [portOf_modPort, portOf_modPort]
      rfl
    · rw [hbuf, he, bufAfter_found hg hpre]
  · rw [gainCredit_sends hst hw hk hb hc hack]
    have hport : portOf n (modPort n moreCredit (modPort n (tookFlit f) s)) = moreCredit (tookFlit f p) := by rw [portOf_modPort, portOf_modPort]
    have hbuf : (tookFlit f p).buf = p.buf := bufAfter_missing hack
    refine ⟨sealFlit p.nextSeq f.seq g, ?_, ?_, ?_, ?_, ⟨rfl, sealFlit_crc ..⟩, rfl, rfl⟩
    · simp only [sendOut, hport]
      rfl
    · rw [portOf_sendOut, hport]
      show p.waiting.erase g = []
      rw [hw, List.erase_cons_head]
    · rw [portOf_sendOut, hport]
      show (tookFlit f p).buf ++ _ = _
      rw [hbuf]
      rfl
    · rw [portOf_sendOut, hport, if_pos hk]
      exact hc

/-- A port is down, and the operations whose flits it held have lost them. -/
theorem takeDown_isDown (n : Nat) (s : State) :
    let t := takeDown n s
    (portOf n t).st = 0 ∧ (portOf n t).lanes = 0 ∧ (portOf n t).buf = [] ∧ (portOf n t).waiting = [] ∧
      (portOf n t).nextSeq = 1 ∧ (portOf n t).lastGood = 0 ∧ (portOf n t).credit = 0 ∧
      ∀ r c o, (collAt r c s).op = some o → (∃ g ∈ (portOf n s).waiting ++ (portOf n s).buf, flitOf r c o s g = true) →
        ∃ v, (collAt r c t).op = some v ∧ v.lost = true := by
  dsimp only
  rw [portOf_takeDown]
  exact ⟨rfl, rfl, rfl, rfl, rfl, rfl, rfl, fun r c o ho hg => takeDown_marks ho hg⟩

theorem retrainComplete_trains (h : (portOf n s).st = 1) :
    let p := portOf n s
    let q : Port := { p with st := 2 }
    ∃ t, exec (.retrainComplete n) s = .next t ∧ (portOf n t).st = (if s.power.st = .retention then 3 else 2) ∧
      (portOf n t).lanes = (if p.lanes = 0 then 8 else p.lanes) ∧ (p.waiting = [] → p.buf.length < 128 →
        (s.power.st ≠ .retention → (portOf n t).retry.toNat = retryAfter q p.buf ∧
          let sent := s.sent ++ (resent q p.buf).map (Out.flit n)
          (p.granted = true → t.sent = sent ∧ (portOf n t).buf = p.buf) ∧
          (p.granted = false → ∃ z, t.sent = sent ++ [.flit n z] ∧ z.kind = 1 ∧ (z.seq = p.nextSeq ∧ z.crc = crc64 (flitBytes z)) ∧
            (portOf n t).buf = p.buf ++ [z] ∧ (portOf n t).granted = true)) ∧
        (s.power.st = .retention → p.keep = true →
          ∃ z, t.sent = s.sent ++ [.flit n z] ∧ z.kind = 3 ∧ (z.seq = p.nextSeq ∧ z.crc = crc64 (flitBytes z)) ∧ (portOf n t).buf = p.buf ++ [z]) ∧
        (s.power.st = .retention → p.keep = false → t.sent = s.sent ∧ (portOf n t).buf = p.buf)) := by
  intro p q
  by_cases hr : s.power.st = .retention
  · have hport : portOf n (modPort n (trainedPort 3) s) = trainedPort 3 p := portOf_modPort ..
    have hkeeps := sendKeeps_training.queueFlit n (aliveFlit s) (modPort n (trainedPort 3) s)
    rw [hport] at hkeeps
    obtain ⟨hst, hlanes⟩ := Prod.mk.inj hkeeps
    refine ⟨_, execRetrainComplete_retention h hr, hst.trans (if_pos hr).symm, hlanes,
      fun hw hb => ⟨fun hn => absurd hr hn, fun _ hkeep => ?_, fun _ hkeep => ?_⟩⟩
    · obtain ⟨hsent, hp⟩ := queueFlit_sends (f := aliveFlit s) (by rw [hport]; exact hw) (by rw [hport]; exact hb) rfl
        (by rw [hport, maySend_alive rfl]; simp [aliveOn, trainedPort, p, hkeep])
      rw [hport] at hsent hp
      exact ⟨_, hsent, rfl, ⟨rfl, sealFlit_crc ..⟩, by rw [hp]; rfl⟩
    · rw [queueFlit_waits (by rw [hport]; exact hw) (by rw [hport]; exact hb)
        (by rw [hport, maySend_alive rfl]; simp [aliveOn, trainedPort, p, hkeep])]
      refine ⟨rfl, ?_⟩
      rw [portOf_modPort, hport]
      rfl
  · have hport : portOf n (modPort n (trainedPort 2) s) = trainedPort 2 p := portOf_modPort ..
    have hkeeps := comeUp_training n (modPort n (trainedPort 2) s)
    rw [hport] at hkeeps
    obtain ⟨hst, hlanes⟩ := Prod.mk.inj hkeeps
    refine ⟨_, execRetrainComplete_run h hr, hst.trans (if_neg hr).symm, hlanes,
      fun hw hb => ⟨fun _ => ?_, fun hn => absurd hn hr, fun hn => absurd hn hr⟩⟩
    cases hg : p.granted with
    | true =>
      have hup := comeUp_granted (s := modPort n (trainedPort 2) s) (n := n) (by rw [hport]; exact hg) (by rw [hport]; exact hw)
      rw [hport] at hup
      rw [hup, portOf_replay, hport]
      exact ⟨retryAfter_toNat .., fun _ => ⟨by rw [replay_sent, hport]; rfl, rfl⟩, nofun⟩
    | false =>
      obtain ⟨hsent, hp⟩ := comeUp_grants (s := modPort n (trainedPort 2) s) (n := n) (by rw [hport]; rfl) (by rw [hport]; exact hg)
        (by rw [hport]; exact hw) (by rw [hport]; exact hb)
      rw [hport] at hsent hp
      rw [hp]
      exact ⟨retryAfter_toNat .., nofun, fun _ => ⟨_, hsent, rfl, ⟨rfl, sealFlit_crc ..⟩, rfl, rfl⟩⟩

end Clauses

/-- Settles O56: a flit that a port takes changes its port alone before it goes on, so each clause follows from what the port was. -/
theorem linkEvents : Obligations.LinkEvents := by
  intro s n f good
  refine ⟨fun x a hl => ⟨fun hw => ?whole, comeWhole_port_lands hl⟩, discarded execDataFlit_discards, discarded execRefusalFlit_discards,
    discarded execCreditFlit_discards, discarded execKeepAliveFlit_discards,
    fun hu ho hk => ⟨_, execDataFlit_reserved hu ho hk, countedKind_taken n f s⟩,
    fun hu ho hk => ⟨_, execRefusalFlit_reserved hu ho hk, countedKind_taken n f s⟩, fun hst ho hk => ?goes, creditFlit_goes,
    fun hu ho hw hb => ?alive, fun pre g rest he hg hpre => negativeAcknowledge_replays (by rw [he, bufAfter_found hg hpre]),
    fun h => negativeAcknowledge_replays (bufAfter_missing h), execLaneFailure_off, fun hst => ?lane, retrainComplete_trains,
    fun h => ⟨if_pos h, congrArg Outcome.next (if_neg h)⟩, fun h => ⟨_, execRetrainTimeout_training h, takeDown_isDown n s⟩⟩
  case whole =>
    rw [comeWhole_port_waits hl hw]
    exact ⟨rfl, rfl, by rw [stall, collAt_modColl]⟩
  case goes =>
    obtain ⟨hunknown, hwhole, hrouted, hunrouted⟩ := dataFlit_goes hst ho hk
    have hports := portsOnly_acceptFlit n f s
    refine ⟨hunknown, hwhole, hrouted, hunrouted, fun o hm hr => ⟨_, ?_, taken_acceptFlit n f s⟩, fun r hm hr => ⟨_, ?_, taken_acceptFlit n f s⟩⟩
    · rw [execRefusalFlit_forwards (portUp_of_st hst) ho hk (Bool.eq_false_iff.2 (mt forMe_iff.1 hm)),
        forwardFlit_routed ((hports.routeTo _).trans hr)]
    · exact execRefusalFlit_ends (portUp_of_st hst) ho hk (forMe_iff.2 hm) hr
  case alive =>
    obtain ⟨hsent, hbuf, hcredit⟩ := answerAlive_sends (f := f) (aliveOn_of_portUp hu) hw hb
    exact ⟨_, _, execKeepAliveFlit_answers hu ho, (taken_acceptFlit n f s).queueFlit _, hsent, rfl, ⟨rfl, sealFlit_crc ..⟩, rfl, hbuf, hcredit⟩
  case lane =>
    by_cases hl : (portOf n s).lanes = 7
    · exact ⟨_, execLaneFailure_second hst hl, fun _ => takeDown_isDown n s, fun h => absurd hl h⟩
    · exact ⟨_, execLaneFailure_first hst hl, fun h => absurd h hl, fun _ => ⟨portOf_modPort .., rfl⟩⟩

end Sys2Proof.Machine
